-- ==== Sys2Proof/Word.lean ====
section
/-! DEFINITION. The word types of the machine and the shape of its sparse tables. -/

namespace Sys2Proof

/-- A byte of memory. -/
abbrev Byte := BitVec 8
/-- A 32-bit word (an instruction word, an accumulator word). -/
abbrev W32 := BitVec 32
/-- A 64-bit word: a general register, an address while it is computed. -/
abbrev W64 := BitVec 64
/-- The payload of a data-plane token (R27). -/
abbrev W512 := BitVec 512

/-- A table of many entries of which few differ from their reset: pairs of a key and a value,
keys strictly rising. -/
abbrev SMap (α : Type) := List (Nat × α)

end Sys2Proof
end

