-- ==== Sys2Proof/Syntax.lean ====
section
/-! DEFINITION. The instructions of the two instruction sets and the whole steps of the machine,
one constructor per row of the opcode table. -/

namespace Sys2Proof

/-- The guard field PRD (R215): bit 3 negates, bits 2:0 name the predicate. -/
abbrev Guard := BitVec 4
/-- A general-register field (R214). -/
abbrev GReg := BitVec 5
/-- A capability-register field, 0 to 15 (R214). -/
abbrev KReg := BitVec 4
/-- A predicate field (R214). -/
abbrev PReg := BitVec 3

/-- The fields every actor instruction has besides its opcode (R225). -/
structure ActorOp where
  /-- Bits 55:54. -/
  pred : BitVec 2
  /-- Target 0, bits 53:43. -/
  t0 : BitVec 11
  /-- Target 1, bits 42:32. -/
  t1 : BitVec 11
  imm : BitVec 16
  /-- Element type, bits 15:13. -/
  ety : BitVec 3
  /-- Rounding mode, bits 12:10. -/
  rmode : BitVec 3
  /-- Flags, bits 9:8. -/
  flags : BitVec 2
  auxb : BitVec 8
  deriving DecidableEq, Repr

/-- A node of the fabric: instance, page of its graph, cell, and the actor slot, MEMORY node or
port within the cell (0 where the cell holds one node). -/
structure NodeRef where
  inst : Nat
  page : Nat
  cell : Nat
  sub : Nat
  deriving DecidableEq, Repr

/-- An access that a peer package makes here (R131, R409). -/
inductive PeerOp where
  | load (n : Nat)
  | store (bytes : List Byte)
  /-- ATOM, RED and SWAP operations by code (ADD MIN MAX MINU MAXU AND OR XOR SWAP). -/
  | atomic (op : Nat) (v : W64)
  | cas (old new : W64)
  | reduce (op : Nat) (v : W64)
  deriving DecidableEq, Repr

/-- What a peer answered to an access of this package (R174, R407, R409). -/
inductive PeerAns where
  /-- The access was performed; the bytes are the loaded or old value. -/
  | done (bytes : List Byte)
  /-- Poisoned data: LINK, subcode 2. -/
  | poison
  /-- The peer's error reply: XLATE_PERM. -/
  | refused
  /-- No acknowledgement came: LINK, subcode 3 at a FENCE (R256). -/
  | lost
  deriving DecidableEq, Repr

/-- What a register write of the runtime, the hypervisor, the driver or the fabric manager
names (R135, R200, R202, R371, R406, R408, R409). -/
inductive RegTarget where
  | bar (vf off : Nat)
  | pf (off : Nat)
  | reeve (hamlet off : Nat)
  | root1 (ctx : Nat)
  | root2 (vf : Nat)
  | allot (ctx pos : Nat)
  | domain (src vf : Nat)
  | ctable (ctx tab word : Nat)
  | pwait (vf : Nat)
  | stewardTvec
  /-- The package id (R407). -/
  | pkg
  /-- The mask bit of an MSI-X vector (R406). -/
  | msix (vf vec : Nat)
  /-- The runtime's copy of a 64 KiB page to a spare one (R412); the value is not used. -/
  | pageCopy (src dst : Nat)
  deriving DecidableEq, Repr

/-- An invalidation queue entry (R200). -/
structure InvEntry where
  kind : Nat
  id : Nat
  start : Nat
  len : Nat
  /-- Address of the completion word. -/
  word : Nat
  deriving DecidableEq, Repr

/-- A Hayward fence entry (R198). -/
structure FenceEntry where
  valid : Bool
  vf : Nat
  /-- false: a rectangle of hamlets; true: whole dies. -/
  dies : Bool
  c0 : Nat
  h0 : Nat
  c1 : Nat
  h1 : Nat
  dieMask : BitVec 8
  deriving DecidableEq, Repr

/-- Chroma formats (R349). -/
inductive Chroma where
  | c400 | c420 | c422 | c444
  deriving DecidableEq, Repr

/-- The profiles that R349 names. -/
inductive Profile where
  | high | high10 | main | main10 | main42210 | other
  deriving DecidableEq, Repr

/-- What a sequence header or sequence header OBU declares (R349). -/
structure SeqDecl where
  profile : Profile
  /-- The level, times ten. -/
  level : Nat
  depth : Nat
  chroma : Chroma
  deriving DecidableEq, Repr

/-- A coefficient sub-block of a decoded picture (R356), before its levels are clamped: its component, its place in
4-sample units of that component, and its quantiser. -/
structure PicCoef where
  comp : Nat
  col : Nat
  row : Nat
  levels : List Int
  qp : Nat
  deriving DecidableEq, Repr

/-- An area of a decoded picture with one mode and one set of motion, its motion in the codec's own unit (R352). -/
structure PicBlock where
  ux : Nat
  uy : Nat
  lw : Nat
  lh : Nat
  /-- PRED: 0 intra, 1 or 2 references. -/
  pred : Nat
  /-- Intra block copy, its vector in `mv0` (R353). -/
  ibc : Bool
  /-- A motion sub-block. -/
  sub : Bool
  qp : Nat
  /-- Motion of each list, in the codec's unit (R354). -/
  mv0 : Int × Int
  mv1 : Int × Int
  /-- Pictures back to each reference; 0 when the list is unused. -/
  ref0 : Nat
  ref1 : Nat
  /-- Decoded-picture-buffer slot of each reference (R357). -/
  slot0 : Nat
  slot1 : Nat
  /-- The reference's luma size differs from the picture's (R354). -/
  scaled0 : Bool
  scaled1 : Bool
  deriving DecidableEq, Repr

/-- A coding block, a macroblock in AVC: the block as one area, its partitions, prediction units or motion sub-blocks,
and whether its motion is derived per sub-block (R353). -/
structure PicUnit where
  whole : PicBlock
  parts : List PicBlock
  perSub : Bool
  deriving DecidableEq, Repr

/-- A coded picture as the codec's syntax gives it (R349 to R353). -/
structure Picture where
  /-- It has a syntax error (R364). -/
  bad : Bool
  /-- Bytes of the stream consumed. -/
  used : Nat
  decl : SeqDecl
  /-- A sequence header or a random-access point begins it (R364). -/
  starts : Bool
  width : Nat
  height : Nat
  /-- false: a field picture, or MBAFF (R350). -/
  frame : Bool
  /-- In decoding order. -/
  units : List PicUnit
  coefs : List PicCoef
  /-- film_grain_params() as coded; empty where none applies (R351). -/
  grain : List Byte
  /-- Decoded-picture-buffer slots that take this picture (R357, R365). -/
  keep : List Nat
  /-- Slots of references that the stream names but never delivered (R365). -/
  missing : List Nat
  /-- What show_existing_frame headers since the picture before it have made of the slots, in order: the slot that takes
  a picture, and the one that held it (R351, R357). -/
  copies : List (Nat × Nat) := []
  deriving DecidableEq, Repr

/-- A function with a READY bit (R410). -/
inductive ReadyFn where
  | die (d : Nat)
  | steward (c : Nat)
  | ezton
  | shire (i : Nat)
  | thresher (i : Nat)
  | pinfold (i : Nat)
  | miller (i : Nat)
  | drover (i : Nat)
  | vfq (v : Nat)
  | port (p : Nat)
  deriving DecidableEq, Repr

/-- Every instruction and every whole step of the machine. -/
inductive Instr where
  -- integer arithmetic (R239-R242)
  | add (p : Guard) (d a b : GReg)
  | sub (p : Guard) (d a b : GReg)
  | and (p : Guard) (d a b : GReg)
  | or (p : Guard) (d a b : GReg)
  | xor (p : Guard) (d a b : GReg)
  | andn (p : Guard) (d a b : GReg)
  | shl (p : Guard) (d a b : GReg)
  | shr (p : Guard) (d a b : GReg)
  | sar (p : Guard) (d a b : GReg)
  | rot (p : Guard) (d a b : GReg)
  | min (p : Guard) (d a b : GReg)
  | max (p : Guard) (d a b : GReg)
  | minu (p : Guard) (d a b : GReg)
  | maxu (p : Guard) (d a b : GReg)
  | clz (p : Guard) (d a : GReg)
  | ctz (p : Guard) (d a : GReg)
  | popc (p : Guard) (d a : GReg)
  | brev (p : Guard) (d a : GReg)
  | sext (p : Guard) (d a b : GReg)
  | mul (p : Guard) (d a b : GReg)
  | mulh (p : Guard) (d a b : GReg)
  | mulhu (p : Guard) (d a b : GReg)
  | div (p : Guard) (d a b : GReg)
  | divu (p : Guard) (d a b : GReg)
  | rem (p : Guard) (d a b : GReg)
  | remu (p : Guard) (d a b : GReg)
  | addi (p : Guard) (d a : GReg) (imm : BitVec 12)
  | andi (p : Guard) (d a : GReg) (imm : BitVec 12)
  | ori (p : Guard) (d a : GReg) (imm : BitVec 12)
  | xori (p : Guard) (d a : GReg) (imm : BitVec 12)
  | shli (p : Guard) (d a : GReg) (s : BitVec 6)
  | shri (p : Guard) (d a : GReg) (s : BitVec 6)
  | sari (p : Guard) (d a : GReg) (s : BitVec 6)
  | lui (p : Guard) (d : GReg) (imm : BitVec 17)
  | li (p : Guard) (d : GReg) (imm : BitVec 49)
  -- compares and predicates (R243-R245)
  | cmp (p : Guard) (comb : BitVec 2) (d : PReg) (a b : GReg) (cc : BitVec 3)
  | cmpi (p : Guard) (cc : BitVec 2) (d : PReg) (a : GReg) (imm : BitVec 12)
  | pand (p : Guard) (d a b : PReg)
  | por (p : Guard) (d a b : PReg)
  | pxor (p : Guard) (d a b : PReg)
  | pandn (p : Guard) (d a b : PReg)
  | pnot (p : Guard) (d a : PReg)
  | pmov (p : Guard) (d a : PReg)
  | pfromg (p : Guard) (d : PReg) (a : GReg)
  | ptog (p : Guard) (d : GReg) (a : PReg)
  -- transfers of control (R246, R281)
  | br (off : BitVec 22)
  | jal (off : BitVec 22)
  | jalr (p : Guard) (d a : GReg) (imm : BitVec 12)
  | loop (p : Guard) (d : GReg) (imm : BitVec 12)
  | trap (p : Guard) (sel : BitVec 12)
  | exit (p : Guard)
  -- memory (R250-R256)
  | ld (p : Guard) (d : GReg) (kc : KReg) (a : GReg) (sz : BitVec 2) (x : Bool) (imm : BitVec 5)
  | st (p : Guard) (d : GReg) (kc : KReg) (a : GReg) (sz : BitVec 2) (x : Bool) (imm : BitVec 5)
  | ldc (p : Guard) (d : KReg) (kc : KReg) (a : GReg) (imm : BitVec 5)
  | stc (p : Guard) (d : KReg) (kc : KReg) (a : GReg) (imm : BitVec 5)
  | ldsyn (p : Guard) (d : GReg) (kc : KReg) (a : GReg) (x : Bool) (imm : BitVec 5)
  | fe (p : Guard) (d : GReg) (kc : KReg) (a : GReg) (x : Bool) (imm : BitVec 5)
  | atom (p : Guard) (d : GReg) (kc : KReg) (a b : GReg) (aop : BitVec 3)
  | red (p : Guard) (kc : KReg) (a b : GReg) (aop : BitVec 3)
  | swap (p : Guard) (d : GReg) (kc : KReg) (a b : GReg)
  | cas (p : Guard) (d : GReg) (kc : KReg) (a b : GReg)
  | fence (p : Guard) (sets : BitVec 4) (scope : BitVec 3)
  -- capabilities (R247-R249)
  | csetb (p : Guard) (d a : KReg) (b : GReg)
  | cinc (p : Guard) (d a : KReg) (b : GReg)
  | cseto (p : Guard) (d a : KReg) (b : GReg)
  | candp (p : Guard) (d a : KReg) (b : GReg)
  | cgetb (p : Guard) (d : GReg) (a : KReg)
  | cgetl (p : Guard) (d : GReg) (a : KReg)
  | cgeto (p : Guard) (d : GReg) (a : KReg)
  | cgetp (p : Guard) (d : GReg) (a : KReg)
  | cgets (p : Guard) (d : GReg) (a : KReg)
  | ctest (p : Guard) (d : PReg) (a : KReg)
  | cclr (p : Guard) (d : KReg)
  | cmov (p : Guard) (d a : KReg)
  | cseal (p : Guard) (d a b : KReg)
  | cunseal (p : Guard) (d a b : KReg)
  | cinci (p : Guard) (d a : KReg) (imm : BitVec 12)
  -- streams and copies (R257-R264)
  | sspec (p : Guard) (port : BitVec 4) (kd kp : KReg) (ga : GReg) (comp : BitVec 2) (dir : Bool)
      (tag : BitVec 6) (tid : BitVec 8) (red : BitVec 4) (cls : BitVec 3)
  | scopy (p : Guard) (kd ks : KReg) (gn : GReg) (comp : BitVec 2) (tag : BitVec 6) (tid : BitVec 8)
      (red : BitVec 4) (cls : BitVec 3)
  -- tags, rings, stream barriers, ports (R265-R269)
  | twaitany (p : Guard) (d a : GReg)
  | twaitall (p : Guard) (a : GReg)
  | tfirst (p : Guard) (d a : GReg)
  | tclr (p : Guard) (a : GReg)
  | tread (p : Guard) (d : GReg)
  | rinit (p : Guard) (n : BitVec 4) (a : GReg)
  | rawait (p : Guard) (d a : GReg) (n : BitVec 4)
  | rrel (p : Guard) (a : GReg) (n : BitVec 4)
  | rstat (p : Guard) (d : GReg) (n : BitVec 4)
  | sbarOrder (p : Guard) (a : GReg)
  | sbarConfig (p : Guard) (a : GReg)
  | sbarMemphase (p : Guard) (a : GReg)
  | sbarCond (p : Guard) (a : GReg)
  | inject (p : Guard) (n : BitVec 4) (a : GReg)
  | markp (p : Guard) (n : BitVec 4) (a : GReg)
  | drain (p : Guard) (d : GReg) (n : BitVec 4)
  | pstat (p : Guard) (d : GReg) (n : BitVec 4)
  -- graphs, launches, barriers (R270-R277)
  | cfgld (p : Guard) (d : GReg) (a : KReg)
  | cfgrel (p : Guard) (a : GReg)
  | cfgqry (p : Guard) (d a b : GReg)
  | cfgstart (p : Guard) (a : GReg)
  | cfggate (p : Guard) (a b : GReg)
  | qsweep (p : Guard) (d a : GReg)
  | launch (p : Guard) (d : GReg) (a : KReg)
  | lwait (p : Guard) (d a : GReg)
  | bar (p : Guard) (d : PReg) (scope : BitVec 3) (arrive : Bool)
  -- engines (R278)
  | drove (p : Guard) (d : GReg) (a : KReg) (b : GReg)
  | pinbin (p : Guard) (d : GReg) (a : KReg) (b : GReg)
  | pinpair (p : Guard) (d : GReg) (a : KReg) (b : GReg)
  | threshOpen (p : Guard) (d : GReg) (a : KReg) (b : GReg)
  | threshClose (p : Guard) (d : GReg) (a : KReg) (b : GReg)
  | mtaskAttach (p : Guard) (d : GReg) (a : KReg) (b : GReg)
  | mtaskAppend (p : Guard) (d : GReg) (a : KReg) (b : GReg)
  | mtaskDetach (p : Guard) (d : GReg) (a : KReg) (b : GReg)
  | mpath (p : Guard) (d : GReg) (a : KReg) (b : GReg)
  -- tensor identifiers and system (R279-R283)
  | tidset (p : Guard) (a : GReg) (b : KReg)
  | tidget (p : Guard) (a : GReg) (b : KReg)
  | tidinv (p : Guard) (a : GReg)
  | srrd (p : Guard) (d : GReg) (sel : BitVec 12)
  | srwr (p : Guard) (a : GReg) (sel : BitVec 12)
  | eret (p : Guard)
  | evt (p : Guard) (a : GReg)
  | rdtime (p : Guard) (d : GReg)
  | ident (p : Guard) (d : GReg)
  -- actor instructions (R296-R305)
  | peek (o : ActorOp)
  | adv (o : ActorOp)
  | put (o : ActorOp)
  | padv (o : ActorOp)
  | hrd (o : ActorOp)
  | hwr (o : ActorOp)
  | qrd (o : ActorOp)
  | qwr (o : ActorOp)
  | const (o : ActorOp)
  | consth (o : ActorOp)
  | laneid (o : ActorOp)
  | tagrd (o : ActorOp)
  | tagrdKind (o : ActorOp)
  | maskrd (o : ActorOp)
  | maskset (o : ActorOp)
  | iadd (o : ActorOp)
  | isub (o : ActorOp)
  | imul (o : ActorOp)
  | imulh (o : ActorOp)
  | iand (o : ActorOp)
  | ior (o : ActorOp)
  | ixor (o : ActorOp)
  | ishl (o : ActorOp)
  | ishr (o : ActorOp)
  | isar (o : ActorOp)
  | imin (o : ActorOp)
  | imax (o : ActorOp)
  | iabs (o : ActorOp)
  | ineg (o : ActorOp)
  | isatadd (o : ActorOp)
  | isatsub (o : ActorOp)
  | fadd (o : ActorOp)
  | fsub (o : ActorOp)
  | fmul (o : ActorOp)
  | ffma (o : ActorOp)
  | fmin (o : ActorOp)
  | fmax (o : ActorOp)
  | fabs (o : ActorOp)
  | fneg (o : ActorOp)
  | frcp (o : ActorOp)
  | frsq (o : ActorOp)
  | fexp2 (o : ActorOp)
  | flog2 (o : ActorOp)
  | ftanh (o : ActorOp)
  | fsinpi (o : ActorOp)
  | fcospi (o : ActorOp)
  | frnd (o : ActorOp)
  | icmp (o : ActorOp)
  | fcmp (o : ActorOp)
  | sel (o : ActorOp)
  | actorPand (o : ActorOp)
  | actorPor (o : ActorOp)
  | actorPnot (o : ActorOp)
  | anyl (o : ActorOp)
  | alll (o : ActorOp)
  | cvtfi (o : ActorOp)
  | cvtif (o : ActorOp)
  | cvtfb (o : ActorOp)
  | cvtbf (o : ActorOp)
  | pack (o : ActorOp)
  | unpack (o : ActorOp)
  | shuf (o : ActorOp)
  | bcast (o : ActorOp)
  | rotl (o : ActorOp)
  | rsum (o : ActorOp)
  | rmax (o : ActorOp)
  | rmin (o : ActorOp)
  | scan (o : ActorOp)
  | compact (o : ActorOp)
  | expand (o : ActorOp)
  | spld (o : ActorOp)
  | spst (o : ActorOp)
  | spldsyn (o : ActorOp)
  | spred (o : ActorOp)
  | tidld (o : ActorOp)
  | emitctl (o : ActorOp)
  | mark (o : ActorOp)
  | fault (o : ActorOp)
  | callreq (o : ActorOp)
  | actorEvt (o : ActorOp)
  | mvsplit (o : ActorOp)
  | qpscale (o : ActorOp)
  | zigzag (o : ActorOp)
  | erracc (o : ActorOp)
  -- fabric steps
  | actorDataFiring (n : NodeRef)
  | markerStep (n : NodeRef)
  | windowWriteApply (n : NodeRef)
  /-- Hop 0 is off the output port; the last is off the last link into the input buffer. -/
  | linkTokenTransfer (inst circ hop : Nat)
  | creditReturn (inst circ : Nat)
  | nodeMarkerPass (n : NodeRef)
  | joinCombine (n : NodeRef)
  | stackedCall (n : NodeRef)
  | freezePoint (inst : Nat)
  | spillComplete (inst : Nat)
  | ret (n : NodeRef)
  | refillComplete (inst : Nat)
  /-- The hamlets, page by page, that the pager offers. -/
  | sideCallPlace (req : Nat) (hams : List Nat)
  | sideCallRelease (inst : Nat)
  | steerRoute (n : NodeRef)
  | mergeSequence (n : NodeRef)
  | mergeKey (n : NodeRef)
  | loopheadMerge (n : NodeRef)
  | countIndex (n : NodeRef)
  | countLoop (n : NodeRef)
  | filterToken (n : NodeRef)
  | coalesce (n : NodeRef)
  | fanoutEnqueue (n : NodeRef)
  | reduceStep (n : NodeRef)
  | reduceGroupClose (n : NodeRef)
  | warpRequest (n : NodeRef)
  | memoryLoad (n : NodeRef)
  | memoryStore (n : NodeRef)
  | memoryGather (n : NodeRef)
  | memoryScatter (n : NodeRef)
  | memoryUpdate (n : NodeRef)
  | memoryReply (n : NodeRef)
  | memoryOrderOut (n : NodeRef)
  | convertElement (n : NodeRef)
  | macWeightLoad (n : NodeRef)
  | macActivationRow (n : NodeRef)
  | macRoundRelease (n : NodeRef)
  | firingWeightUpdate (n : NodeRef)
  | beadleSweep (launch : Nat)
  | pagePlacement (req : Nat) (hams : List Nat)
  | hamletClearComplete (hamlet : Nat)
  | granaryClearComplete (slice : Nat)
  -- streams, copies, sparse updates
  | streamStart (hamlet port : Nat)
  | streamElement (hamlet port : Nat)
  | streamComplete (hamlet port : Nat)
  | copyComplete (hamlet xfer : Nat)
  /-- The unit applies entry i of its window, first merging entry j into it where given (R170). -/
  | sparseUpdateApply (slice i : Nat) (merge : Option Nat)
  -- translation
  | walkerGrant (shire : Nat)
  | walkComplete (walk : Nat)
  | invalidationEnqueue (e : InvEntry)
  | invalidationComplete
  -- host and peers
  | hostMemWrite (addr : Nat) (bytes : List Byte)
  | hostMemRead (addr n : Nat)
  | peerAccess (src vf addr : Nat) (op : PeerOp)
  | peerReply (id : Nat) (ans : PeerAns)
  | flitRetry (port : Nat)
  | portDown (port : Nat)
  | portRetrain (port : Nat)
  | portTrainingDone (port : Nat) (ok : Bool)
  -- launch control
  | queueBaseWrite (vf : Nat) (v : W64)
  | queueSizeWrite (vf : Nat) (v : W64)
  | doorbell (vf : Nat) (v : W64)
  | stewardTakeEntry
  | dispatchSelect (vf : Nat)
  | launchPlace (launch : Nat) (hams : List Nat)
  | reservationTimer (vf : Nat)
  | pwaitPreempt (vf : Nat)
  | launchComplete (launch : Nat)
  | preemptRequest (launch : Nat)
  | sourcePmkEmit (n : NodeRef)
  | pmkArrival (n : NodeRef)
  | preemptForce (launch : Nat)
  | saveComplete (launch : Nat)
  /-- A restore onto the partition that holds at this moment (R389). -/
  | restore (launch : Nat)
  | checkpoint (launch : Nat)
  | replayRollback (launch : Nat)
  | stewardTrap
  | standbyStart
  | takeoverEnd
  -- engines
  | droverWalkStart (parish : Nat)
  | droverWalkComplete (cmd : Nat)
  | pinfoldCommandStart (shire : Nat)
  | pinbinComplete (cmd : Nat)
  | pinpairComplete (cmd : Nat)
  | thresherSessionStart (shire : Nat)
  /-- The next step of a batch, and `more` steps of it after that. -/
  | thresherBatch (cmd more : Nat)
  | thresherSessionEnd (cmd : Nat)
  | tileTaskIssue (shire queue : Nat) (mill : NodeRef)
  | tileTaskComplete (shire queue record : Nat)
  | mpathComplete (cmd : Nat)
  -- samples, counters, quality of service
  | sampleTimer (hamlet : Nat)
  | crierReadOffsetWrite (vf : Nat) (v : W64)
  | counterClr (vf : Nat)
  | counterFreeze (vf : Nat) (on : Bool)
  | qosWordWrite (vf : Nat) (v : W64)
  /-- A window of a unit ends: read latencies (in 10 ns) per VF of its critical tenants, and the
  best-effort VFs that made a request there. -/
  | qosWindow (unit : Nat) (lat : List (Nat × List Nat)) (best : List Nat)
  | fenceEntryWrite (die idx : Nat) (e : FenceEntry)
  | runControlStop (hamlet : Nat)
  | runControlRun (hamlet : Nat)
  | registerWrite (t : RegTarget) (v : W64)
  | hamletRetire (hamlet : Nat)
  | pageRetire (addr : Nat)
  | thermalThrottle
  | clockRaise
  | thermalStop
  -- bring-up and trust
  | packageReset
  | selfTestPass (f : ReadyFn)
  | hostLinkTraining (mode : Nat)
  | firmwareStageCheck (stage : Nat) (image : List Byte)
  /-- cmd 0 clears the retired-hamlet map of a die, 1 the retired-page map. -/
  | maintenanceCommand (cmd die : Nat) (image : List Byte)
  | getVersion
  | getCapabilities
  | negotiateAlgorithms
  | getDigests
  | getCertificate
  | challenge (nonce : List Byte)
  | getMeasurements (nonce : List Byte)
  | illegalInstr
  | fetchFault (code sub : BitVec 8) (addr : W64)
  | contextCreation (ctx vf : Nat)
  | contextTeardown (ctx : Nat)
  | vfTeardown (vf : Nat)
  | fabricCycle
  | timeNanosecond
  | selfTestFail (f : ReadyFn)
  deriving DecidableEq, Repr

end Sys2Proof
end

