-- ==== Sys2Proof/Config.lean ====
section
/-! DEFINITION. What an implementation fixes and what the spec leaves open: the sizes of the
package and the free values. -/

namespace Sys2Proof

/-- Dies of a package (R1). -/
def Config.dies : Nat := 8
/-- Hamlets of a die (R9). -/
def Config.hamletsPerDie : Nat := 80
/-- Hamlets of a package, numbered die × 80 + hamlet (R11). -/
def Config.hamlets : Nat := 640
/-- Bytes of a hamlet scratchpad (R137). -/
def Config.scratchBytes : Nat := 0x200000
/-- Bytes of a granary slice (R141). -/
def Config.sliceBytes : Nat := 0x8000000
/-- Bytes of populated local LPDDR-6 (R132). -/
def Config.lpddrBytes : Nat := 0x18000000000
/-- Architecture and implementation fields of IDENT (R283). -/
def Config.identHigh : BitVec 48 := 0x000000020001#48
/-- The stepping of IDENT: the spec gives no value (log 13). -/
opaque Config.stepping : BitVec 16
/-- A value the spec leaves open, by the counter `freeCtr` of the state (log 13). -/
opaque Config.freeValue : Nat → W64
/-- FADD or FMAX by a MEMORY node at an element size that has no such operation: the spec states no
result (log 27). -/
opaque Config.freeReduce (n op old v : Nat) : Nat
/-- The exponent X that divides the elements of an MX block that holds a NaN, by the target format and the source bits:
R83 gives the block's scale byte and no X (log 59). -/
opaque Config.nanBlockX (f : Nat) (bits : List Nat) : Int
/-- What the standards that R349 names make of a coded stream: from the codec, the decoder's state, the bytes that
follow and whether they are the last, the next coded picture and the state after it; none where the bytes hold no whole
picture (R351, log 10). -/
opaque Config.nextPicture (codec dec : Nat) (bytes : List Byte) (fin : Bool) : Option (Nat × Picture)
/-- SHA-512, an external standard (R414, log 11). -/
opaque Config.sha512 : List Byte → BitVec 512
/-- The bytes of the retired-hamlet and retired-page maps as they are measured (R415, log 11). -/
opaque Config.mapImage (hamlets pages : List Nat) : List Byte
/-- The bytes of the fuse configuration and the package id as they are measured (R415, log 11). -/
opaque Config.fuseImage (pkg : Nat) : List Byte
/-- Whether the ECDSA P-521 signature of an image verifies under the fused key (R414, log 11). -/
opaque Config.signatureOk : List Byte → Bool
/-- Where the spill area of a context begins in its granary allotment (R141, log 12). -/
opaque Config.spillBase : Nat → Nat
/-- Whether the save area of a context lies in its granary allotment, or else in local LPDDR-6 (R141, R153, log 12). -/
opaque Config.saveInGranary : Nat → Bool
/-- Where in either the image of a launch begins, by its context and LAUNCHID (log 12). -/
opaque Config.saveBase (ctx lid : Nat) : Nat
/-- The body of an SPDM 1.3 answer: request code, nonce, measurement registers (R415, log 11). -/
opaque Config.spdmBody : Nat → List Byte → List (BitVec 512) → List Byte

end Sys2Proof
end

