-- ==== Sys2Proof/Machine/State.lean ====
section
/-! DEFINITION. The state of the package, as plain data, and the state after reset. -/

namespace Sys2Proof.Machine

/-- Why a run ends in a fault of the model. -/
inductive Fault where
  /-- Raised by `step` when a turn of the agenda names a hamlet or an instance that the package
  does not have.  Safe: nothing happens at all. -/
  | noSuchUnit
  deriving DecidableEq, Repr

/-- Why a run is refused. -/
inductive Refusal where
  /-- Raised by `exec` for an instruction whose meaning is not yet written.  Safe. -/
  | notModelled (mnemonic : String)
  deriving DecidableEq, Repr

/-- The fault codes (R378). -/
inductive Code where
  | none | illegalInstr | priv | capTag | capBounds | capPerm | capSeal | capSpace | align
  | xlateMiss | xlatePerm | eccUncorr | ctxMismatch | rateMismatch | tagBusy | ringFault
  | launchRange | launchBlock | cfgReject | callDepth | placeFail | barBroken | deadlock
  | walkLimit | walkFault | penOverflow | staleBin | syntaxError | user | link | replayFail
  | preemptTimeout | feSpace
  deriving DecidableEq, Repr

/-- A fault as raised: code, subcode (R101), SEL of a USER fault, EADDR (R102). -/
structure Trap where
  code : Code
  sub : Nat := 0
  sel : BitVec 12 := 0
  addr : W64 := 0
  /-- Stage (1 or 2) and level of a walk's failure (R148). -/
  walk : Option (Nat × Nat) := none
  deriving DecidableEq, Repr

/-- A capability: 128 bits and the hidden tag (R120). -/
structure Cap where
  bits : BitVec 128
  tag : Bool
  deriving DecidableEq, Repr

/-- The null capability (R92). -/
def Cap.null : Cap := ⟨0, false⟩

/-! ## Memory (R126, R139, R142, R144) -/

/-- The physical memories.  Every list is strictly rising. -/
structure Mem where
  /-- Bytes other than 0; an address not listed reads 0 (R153; for LPDDR-6 and host memory log 3). -/
  bytes : List Host.Cell := []
  /-- 16-byte granules whose tag is set. -/
  tags : List Nat := []
  /-- 8-byte words whose full/empty bit is empty. -/
  empties : List Nat := []
  /-- 32-byte granules whose zero flag is clear. -/
  nonzero : List Nat := []
  /-- 8-byte words that hold an uncorrectable error. -/
  bad : List Nat := []
  /-- 8-byte words that hold a correctable soft error. -/
  soft : List Nat := []
  deriving DecidableEq, Repr

/-- A tensor descriptor: 64 bytes and BASE's tag (R190). -/
structure Desc where
  bits : W512
  tag : Bool
  deriving DecidableEq, Repr

/-- Who makes an access. -/
inductive Who where
  | reeve (h : Nat)
  | node (n : NodeRef)
  | stream (h p : Nat)
  | copy (h x : Nat)
  | cmd (id : Nat)
  | steward
  | walk (id : Nat)
  /-- An access of the host or of a peer that waits (R117). -/
  | outside (id : Nat)
  deriving DecidableEq, Repr

/-- A waiter of a full/empty word, in the order of arrival at the bank (R143). -/
structure Waiter where
  word : Nat
  who : Who
  consume : Bool
  deriving DecidableEq, Repr

/-- The value a satisfied waiter was given (R143). -/
structure SyncGift where
  who : Who
  word : Nat
  val : W64
  bad : Bool
  deriving DecidableEq, Repr

/-! ## Translation (R145-R152) -/

/-- A combined mapping in a translation cache (R149, R200). -/
structure TlbEntry where
  ctx : Nat
  vf : Nat
  /-- log2 of the page size. -/
  lg : Nat
  vpage : Nat
  ppage : Nat
  r : Bool
  w : Bool
  x : Bool
  a : Bool
  t : Bool
  deriving DecidableEq, Repr

/-- What a translation of one page gave. -/
inductive WalkRes where
  | ok (e : TlbEntry)
  | fault (t : Trap)
  deriving DecidableEq, Repr

/-- A request of a parish cache for a walk, or a walk in progress (R150). -/
structure Walk where
  id : Nat
  parish : Nat
  ctx : Nat
  vf : Nat
  /-- Virtual address asked for. -/
  va : Nat
  /-- Its rights: R W X A T. -/
  need : Nat
  waiters : List Who
  /-- The walk has a walker. -/
  running : Bool
  deriving DecidableEq, Repr

/-- A result held for the requester until its access is made (R150). -/
structure WalkGift where
  who : Who
  va : Nat
  ctx : Nat
  need : Nat
  res : WalkRes
  deriving DecidableEq, Repr

/-! ## Space 5 (R131, R174) -/

/-- An access to another package that has not been answered. -/
structure PeerReq where
  id : Nat
  who : Who
  /-- Ezton port that carries it. -/
  port : Nat
  /-- Address in the peer region. -/
  addr : Nat
  op : PeerOp
  /-- The requester waits for the answer (a load or an atomic). -/
  wants : Bool
  ctx : Nat
  vf : Nat
  /-- Address of the access through its capability (R102). -/
  ea : Nat
  /-- A mapping of space 0 or of a second stage led to the peer (R152). -/
  mapped : Bool
  /-- Another request of the same access follows it. -/
  part : Bool := false
  deriving DecidableEq, Repr

/-- An answer that its requester has not taken. -/
structure PeerGift where
  who : Who
  addr : Nat
  op : PeerOp
  ans : PeerAns
  /-- The port went down: LINK, subcode 1 (R407). -/
  down : Bool
  deriving DecidableEq, Repr

/-- An access of the host or of a peer. -/
inductive OutOp where
  | put (a : Nat) (bytes : List Byte)
  | get (a n : Nat)
  | peer (src vf a : Nat) (op : PeerOp)
  deriving DecidableEq, Repr

/-- Where storage other than memory holds an uncorrectable error that nothing has met (R379). -/
structure EccSt where
  /-- Reeves, by hamlet, whose register file does. -/
  reeves : List Nat := []
  /-- Cells, by 16 × hamlet + cell: register file, port buffers or accumulators. -/
  cells : List Nat := []
  /-- Hamlets whose placed page or switch table does. -/
  pages : List Nat := []
  /-- Tensor identifier entries, by 256 × context + TID. -/
  tids : List Nat := []
  deriving DecidableEq, Repr

/-! ## Reeves (R92-R106, R180) -/

/-- A ring object (R180). -/
structure Ring where
  init : Bool := false
  lsize : Nat := 0
  rp : BitVec 32 := 0
  wp : BitVec 32 := 0
  rsv : BitVec 32 := 0
  /-- Entries whose DONE bit is set. -/
  done : List (BitVec 32) := []
  /-- A Thresher session has filled it since its RINIT (R386). -/
  feed : Bool := false
  deriving DecidableEq, Repr

/-- How a transfer signals (R263). -/
inductive Comp where
  | none
  | tag (t : Nat)
  | ring (r : Nat) (entry : BitVec 32)
  | full
  deriving DecidableEq, Repr

/-- What a transfer is. -/
inductive XKind where
  | stream (port : Nat)
  | copy
  | engine (cmd : Nat)
  deriving DecidableEq, Repr

/-- A transfer in flight (R179). -/
structure Xfer where
  kind : XKind
  comp : Comp
  cls : BitVec 3
  /-- Copies: source, destination, length, reduce op. -/
  src : Cap := Cap.null
  dst : Cap := Cap.null
  len : Nat := 0
  red : Nat := 0
  desc : Desc := ⟨0, false⟩
  /-- Bytes already copied (a save stops a copy between accesses). -/
  pos : Nat := 0
  deriving DecidableEq, Repr

/-- A stream specification (R221, R233). -/
structure Spec where
  xid : Nat
  cap : Cap
  count : List Nat
  stride : List Int
  esize : Nat
  window : Nat
  mark : BitVec 8
  desc : Desc
  red : Nat
  cls : BitVec 3
  /-- true: port to memory. -/
  dir : Bool
  comp : Comp
  deriving DecidableEq, Repr

/-- Which engine a command goes to. -/
inductive Eng where
  | drove | pinbin | pinpair | threshOpen | threshClose | mtaskAttach | mtaskAppend | mtaskDetach
  | mpath
  deriving DecidableEq, Repr

/-- A piece of a sample's output: the field of the OPEN block that names its tensor (0: the QP bytes of the coefficient
pool), its place there, its alignment, its bytes. -/
structure Piece where
  field : Nat
  off : Nat
  align : Nat
  bytes : List Byte
  deriving DecidableEq, Repr

/-- A Thresher session's own state (R341-R344, R364, R366). -/
structure Session where
  corrupt : BitVec 32 := 0
  batches : Nat := 0
  closing : Bool := false
  /-- The slot of the batch in progress, its samples that are done, and the block records and sub-blocks used. -/
  slot : Nat := 0
  sample : Nat := 0
  recs : Nat := 0
  subs : Nat := 0
  /-- Pictures taken of each stream, and its decoder's state. -/
  pics : SMap Nat := []
  dec : SMap Nat := []
  /-- Streams that skip to their next random-access point or sequence header (R364). -/
  skip : List Nat := []
  /-- The last good sample of each stream: its records, with COEF counted from the sample's first pool
  entry, and its pool entries, each followed by its QP byte. -/
  good : SMap (List (List Byte) × List (List Byte)) := []
  /-- The low-water alarm may be sent (R186). -/
  armed : Bool := false
  /-- What of the output of the sample taken last is still to be written (R162). -/
  rest : List Piece := []
  deriving DecidableEq, Repr

/-- How a command ended: STATE, FCODE, FSUB and its counts (R328). -/
structure EngRes where
  st : Nat := 2
  fc : Nat := 0
  fs : Nat := 0
  c1 : Nat := 0
  c2 : Nat := 0
  deriving DecidableEq, Repr

/-- A pen in a pass of PINBIN (R203, R338): COUNT, OVF, first overflow, tail of the chain. -/
structure Pen where
  count : Nat := 0
  ovf : Nat := 0
  head : Nat := 0xFFFFFFFF
  tail : Nat := 0xFFFFFFFF
  deriving DecidableEq, Repr

/-- How far a Drover, Pinfold or MPATH command has come (R162, log 34). -/
structure Prog where
  /-- Its inputs have been read (PINPAIR, MPATH), or its grid's header (PINBIN), which is held. -/
  begun : Bool := false
  hdr : List Byte := []
  /-- Keys or points done, and pens written empty after them. -/
  at_ : Nat := 0
  /-- PINBIN: the pens of the pass, overflow entries used, points binned. -/
  pens : SMap Pen := []
  used : Nat := 0
  binned : Nat := 0
  /-- Entries computed and not yet written. -/
  rest : List (List Byte) := []
  res : EngRes := {}
  /-- Only the status area and the signal are left. -/
  fin : Bool := false
  deriving DecidableEq, Repr

/-- An engine command in flight. -/
structure Cmd where
  eng : Eng
  hamlet : Nat
  xid : Nat
  ctx : Nat
  vf : Nat
  launch : Nat
  handle : BitVec 32
  /-- Its parameter block's capability and bytes. -/
  cap : Cap
  block : List Byte
  arg : Nat
  /-- Descriptors taken at issue, by TID. -/
  descs : SMap Desc
  ctab : SMap W32 := []
  started : Bool := false
  prog : Prog := {}
  sess : Session := {}
  /-- APPEND and DETACH: the key of the queue; APPEND: records that have not ended, and how many
  reached DONE and FAILED (R345). -/
  queue : Nat := 0
  left : List Nat := []
  done : Nat := 0
  failed : Nat := 0
  deriving DecidableEq, Repr

/-- An issue that has made step 1 of R179 and stalls in step 2 or 3: what it will start. -/
inductive Issue where
  | stream (port : Nat) (spec : Spec)
  | copy (x : Xfer)
  | cmd (c : Cmd) (comp : Comp)
  deriving DecidableEq, Repr

/-- A stream barrier in force (R267): transfers numbered below `upto` are earlier. -/
structure SBar where
  kind : Nat
  mask : BitVec 16
  upto : Nat
  deriving DecidableEq, Repr

/-- What a stopped step of a reeve waits for (R57, R209). -/
inductive Wait where
  /-- TWAITALL, and TWAITANY, which one set bit ends. -/
  | tags (m : W64)
  | anyTag (m : W64)
  /-- RAWAIT for a number of entries. -/
  | ring (r n : Nat)
  | translation
  | memory
  | ldsyn (word : Nat)
  | output
  | input
  | bar
  | lwait
  | sbar
  | gate
  | qsweep (handle : Nat)
  | finish
  deriving DecidableEq, Repr

/-- Whether a reeve runs (R94, R103). -/
inductive Run where
  | idle
  | running
  /-- Stopped by a trap at S level. -/
  | trapped
  /-- Its last work unit has ended. -/
  | exited
  deriving DecidableEq, Repr

/-- An entry of the combining buffer (R168): one 8-byte word. -/
structure Comb where
  /-- Physical address of the word, or its capability address in space 5 for a peer's. -/
  space : Nat
  addr : Nat
  op : Nat
  val : W64
  /-- The 4-byte halves that hold an operand; both for an 8-byte operation. -/
  lo : Bool := true
  hi : Bool := true
  /-- The address of the access that brought it (R102), and whether a mapping led to a peer's word (R152). -/
  ea : Nat := 0
  mapped : Bool := false
  deriving DecidableEq, Repr

/-- One reeve. -/
structure Reeve where
  g : Vector W64 32 := Vector.replicate 32 0
  k : Vector Cap 16 := Vector.replicate 16 Cap.null
  /-- p7 down to p1; bit 0 is not used. -/
  p : BitVec 8 := 0
  pc : W64 := 0
  tbits : W64 := 0
  tbusy : W64 := 0
  tvec : W64 := 0
  epc : W64 := 0
  ecause : W64 := 0
  eaddr : W64 := 0
  /-- Stage and level of the walk's failure that ECAUSE names (R148). -/
  ewalk : Option (Nat × Nat) := none
  estat : W64 := 0
  samplecfg : W64 := 0
  prio : W64 := 0
  ctx : Nat := 0
  vf : Nat := 0
  /-- LAUNCHID. -/
  lid : BitVec 32 := 0
  /-- Key of the launch in the launch table. -/
  launch : Nat := 0
  unit : Nat := 0
  nunits : Nat := 0
  /-- Hamlets of the launch, the step between this reeve's ids (R52). -/
  stride : Nat := 1
  code : Cap := Cap.null
  args : List Cap := []
  rings : SMap Ring := []
  xfers : SMap Xfer := []
  nextX : Nat := 0
  sbars : List SBar := []
  run : Run := .idle
  /-- STOP of the run-control word (R135), or a stop by a pre-emption (R118). -/
  stop : Bool := false
  wait : Option Wait := none
  /-- The bytes of the instruction that waits, fetched once (R215). -/
  got : Option (List Byte) := none
  /-- Step 1 of R179 has been made for the stalled instruction. -/
  issued : Option Issue := none
  /-- The barrier and phase that a blocked BAR has arrived in (R118). -/
  barWait : Option (Nat × Nat) := none
  comb : List Comb := []
  sampleCount : Nat := 0
  /-- A sample that fell due before SAMPLECFG was written, with the old value (R105). -/
  sampleDue : Option W64 := none
  /-- The answer to a placement request of CFGLD: handle, or the fault that ends it. -/
  placed : Option (Nat ⊕ Trap) := none
  asking : Bool := false
  /-- Cycle of the first sweep of a QSWEEP that has not returned (R273). -/
  sweepAt : Option W64 := none
  /-- What its last sweep saw of its launch's graphs, by instance: how often each had acted. -/
  sweepSaw : SMap Nat := []
  deriving DecidableEq, Repr

/-! ## Tokens and circuits (R23-R33, R177) -/

/-- The kind of a link word (R29).  CALL and RET words never enter a circuit (R309). -/
inductive TokKind where
  | data
  | control
  | eod (level : Nat)
  | eor
  | eos
  /-- Payload bit 0: a checkpoint marker (R385). -/
  | pmk (ckpt : Bool)
  deriving DecidableEq, Repr

/-- A token or marker.  A control-plane scalar is in data bits 63:0, its valid bit in mask bit 0. -/
structure Token where
  kind : TokKind
  data : W512 := 0
  mask : W64 := 0
  tag : W64 := 0
  poison : Bool := false
  /-- An initial token of the page (R419): no FANOUT enqueued it (R395). -/
  init : Bool := false
  deriving DecidableEq, Repr

/-- One hop of a circuit: a FIFO of 4 words, the credits that its producer holds, and the slots freed whose credit has
not come back (R176, R177). -/
structure Link where
  fifo : List Token := []
  credits : Nat := 4
  returned : Nat := 0
  deriving DecidableEq, Repr

/-- A circuit from an output port to an input port (R310). -/
structure Circ where
  sp : Nat
  sc : Nat
  sport : Nat
  dp : Nat
  dc : Nat
  dport : Nat
  ctrl : Bool
  /-- Circuit identifier (R197). -/
  id : Nat := 0
  /-- Instance of the source or of the destination where it is not the owner: the requester of a side
  call (R38). -/
  si : Option Nat := none
  di : Option Nat := none
  /-- Its hops, the first at the output port. -/
  links : List Link := [{}]
  /-- EOS has left it at its input port. -/
  eos : Bool := false
  deriving DecidableEq, Repr

/-! ## Actors (R107-R110, R284-R294) -/

/-- A held register with its poison bit (R286). -/
structure Held where
  val : W512
  poison : Bool
  deriving DecidableEq, Repr

/-- A port of an actor slot with its pointer word (R110) and the index and round counts of R289. -/
structure APort where
  head : Nat := 0
  tail : Nat := 0
  fill : Nat := 0
  slots : SMap Token := []
  idx : Nat := 0
  round : Nat := 0
  /-- EOS has been sent (R292) or taken. -/
  eos : Bool := false
  deriving DecidableEq, Repr

/-- A value inside a firing (R285). -/
structure Val where
  data : W512
  mask : W64
  width : Nat
  pred : Bool := false
  poison : Bool := false
  deriving DecidableEq, Repr

/-- A firing in progress (R287-R290). -/
structure Firing where
  close : Bool := false
  idx : Nat := 0
  /-- The firing tag, in a close firing the marker's tag. -/
  tag : W64 := 0
  /-- The last instruction that has fired (R208). -/
  last : Option Nat := none
  /-- Operand slots filled, by 4 × instruction + slot; `none` is the absent value. -/
  ops : SMap (Option Val) := []
  /-- PEND of each port. -/
  pend : SMap Nat := []
  /-- Staged output slots, by 16 × port + offset from TAIL. -/
  staged : SMap Token := []
  /-- Markers placed: port, tokens published before it, marker. -/
  marks : List (Nat × Nat × Token) := []
  hw : SMap Held := []
  qw : SMap Held := []
  descs : SMap Desc := []
  /-- C-table words taken (R202), by 132 × descriptor TID + word. -/
  ctab : SMap W32 := []
  calls : List Nat := []
  /-- Thread field overrides of EMITCTL: by 16 × port + offset. -/
  tagOver : SMap W64 := []
  /-- It waits in SPLDSYN. -/
  waiting : Bool := false
  deriving DecidableEq, Repr

/-- A register-window write waiting for the next firing boundary (R112). -/
structure WinWrite where
  off : Nat
  bytes : List Byte
  deriving DecidableEq, Repr

/-- One actor slot. -/
structure Slot where
  hdr : BitVec 128 := 0
  code : List W64 := []
  valid : Bool := false
  done : Bool := false
  halted : Bool := false
  h : SMap Held := []
  q : SMap Held := []
  ports : SMap APort := []
  /-- A round is open (R291). -/
  roundOpen : Bool := false
  firing : Option Firing := none
  writes : List WinWrite := []
  /-- Firings of other slots since it became ready, and its weight (R374). -/
  waited : Nat := 0
  ready : Bool := false
  weight : Nat := 0
  /-- The cycle in which it became ready. -/
  readyAt : W64 := 0
  deriving DecidableEq, Repr

/-! ## Operator nodes (R312-R324) -/

/-- The kinds of a cell (R16). -/
inductive Kind where
  | join | steer | merge | filter | coalesce | fanout | reduce | count | warp
  | memory | convert | mac | actor | unused
  deriving DecidableEq, Repr

/-- JOIN: words of a call or return site gathered so far, and what it waits for. -/
structure JoinSt where
  words : List W64 := []
  tag : W64 := 0
  any : Bool := false
  poison : Bool := false
  /-- A call has been requested and has not returned. -/
  calling : Bool := false
  /-- Results not yet emitted. -/
  results : List Token := []
  /-- A RET held during GATING or SAVING (R402), or formed and waiting for RET. -/
  held : Option (List W64) := none
  deriving DecidableEq, Repr

/-- LOOPHEAD MERGE (R316). -/
structure LoopSt where
  /-- false: entry phase; true: loop phase. -/
  looping : Bool := false
  /-- Issue 0 of this entry round has arrived. -/
  started : Bool := false
  r0 : Nat := 0
  /-- Highest iteration whose issue has arrived. -/
  issued : Nat := 0
  exit : Option Nat := none
  /-- The last iteration whose EOR has been emitted. -/
  iter : Nat := 0
  /-- Tokens of the iteration after it have been emitted (log 64). -/
  part : Bool := false
  /-- The back-edge EOR of iteration `iter` has been taken, and the tokens of the next one are still in the body. -/
  drain : Bool := false
  /-- The entry round holds a token and its EOR has not been emitted. -/
  openR : Bool := false
  /-- The entry input has ended with EOS, and EOS has been passed. -/
  ended : Bool := false
  gone : Bool := false
  deriving DecidableEq, Repr

/-- COUNT (R315, R316). -/
structure CountSt where
  /-- INDEX: count being emitted, next index, tag of the count token. -/
  n : Nat := 0
  next : Nat := 0
  busy : Bool := false
  tag : W64 := 0
  poison : Bool := false
  /-- Markers still to emit after the indices: 1 EOD(0), 2 EOR. -/
  marks : Nat := 0
  round : Nat := 0
  discard : BitVec 32 := 0
  /-- LOOP: iterations issued, predicates received, exit found, next commit to decide. -/
  issued : Nat := 0
  got : Nat := 0
  exit : Option Nat := none
  exitSent : Bool := false
  decided : Nat := 0
  /-- LOOP: EOS has been taken, and EOS has been sent. -/
  ended : Bool := false
  gone : Bool := false
  deriving DecidableEq, Repr

/-- COALESCE (R318): lanes held, lowest first. -/
structure CoalSt where
  lanes : List Nat := []
  tag : W64 := 0
  poison : Bool := false
  idx : Nat := 0
  deriving DecidableEq, Repr

/-- REDUCE (R320): lane accumulators, `none` where empty. -/
structure RedSt where
  accs : List (Option Nat) := []
  tag : W64 := 0
  any : Bool := false
  poison : Bool := false
  idx : Nat := 0
  deriving DecidableEq, Repr

/-- An entry of a MEMORY node's address-compare queue (R159, R176): one access that has not been performed. -/
structure MemAcc where
  /-- The address token that it belongs to, and its lane. -/
  tok : Nat
  lane : Nat
  /-- Its offset. -/
  off : Nat
  /-- STORE, SCATTER and UPDATE: the bytes, and those of them that are written. -/
  bytes : List Byte
  on : List Bool
  deriving DecidableEq, Repr

/-- An address token of a MEMORY node whose accesses are not all performed, with the values loaded so far and the lanes
whose loads faulted. -/
structure MemTok where
  tok : Nat
  addr : Token
  vals : SMap Nat := []
  bad : List Nat := []
  deriving DecidableEq, Repr

/-- MEMORY node (R322): the address-compare queue, oldest first, and the tokens whose accesses stand in it or whose
results have not been formed; results and ordering tokens not yet sent; accesses performed. -/
structure MemSt where
  queue : List MemAcc := []
  toks : List MemTok := []
  out : List Token := []
  ord : List Token := []
  done : BitVec 32 := 0
  desc : Desc := ⟨0, false⟩
  deriving DecidableEq, Repr

/-- CONVERT (R323): target elements held, the open MX block as source bits with their scales, MX
scales held, and the position. -/
structure ConvSt where
  elems : List Nat := []
  tag : W64 := 0
  poison : Bool := false
  block : List (Nat × Nat × W32) := []
  btag : W64 := 0
  bpoison : Bool := false
  scales : List Nat := []
  stag : W64 := 0
  spoison : Bool := false
  x : Nat := 0
  y : Nat := 0
  idx : Nat := 0
  idx1 : Nat := 0
  /-- Tokens formed and not yet sent, for out0 and out1. -/
  out : List Token := []
  out1 : List Token := []
  /-- The source's descriptor and its scale tensor's, taken at placement. -/
  desc : Desc := ⟨0, false⟩
  sdesc : Desc := ⟨0, false⟩
  deriving DecidableEq, Repr

/-- A mill (R324), held at its head cell. -/
structure MacSt where
  /-- Tokens of the weight load. -/
  wtoks : List Token := []
  /-- The load has ended, and rows are taken. -/
  loaded : Bool := false
  /-- Scales of the weights, by column, from the first block that the load touches. -/
  wscales : List (List (Nat × W32)) := []
  /-- Tokens of the row in progress, and rows taken in the batch. -/
  atoks : List Token := []
  row : Nat := 0
  /-- With ACC, the rows of the round: tag, and poison of each column. -/
  rows : List (W64 × List Bool) := []
  /-- Weight loads ended in the round. -/
  chunk : Nat := 0
  idx : Nat := 0
  /-- Tokens formed and not yet sent. -/
  out : List Token := []
  /-- Descriptors of weights and activations and of their scale tensors, taken at placement. -/
  wdesc : Desc := ⟨0, false⟩
  adesc : Desc := ⟨0, false⟩
  wsdesc : Desc := ⟨0, false⟩
  asdesc : Desc := ⟨0, false⟩
  deriving DecidableEq, Repr

/-- WARP (R321): descriptors taken at placement. -/
structure WarpSt where
  feat : Desc := ⟨0, false⟩
  err : Desc := ⟨0, false⟩
  deriving DecidableEq, Repr

/-- The state of a node of a cell, by kind. -/
inductive NodeSt where
  | plain
  | join (s : JoinSt)
  | loop (s : LoopSt)
  | count (s : CountSt)
  | coal (s : CoalSt)
  | red (s : RedSt)
  | warp (s : WarpSt)
  | mem (s : MemSt)
  | conv (s : ConvSt)
  | mac (s : MacSt)
  deriving DecidableEq, Repr

/-- One cell of an instance. -/
structure Cell where
  kind : Kind := .unused
  /-- Parameter words other than 0 (R111). -/
  words : SMap W64 := []
  /-- Capability numbers whose tag is set (port cells, R126). -/
  ctags : List Nat := []
  /-- Input buffers by port (R176). -/
  inb : SMap (List Token) := []
  /-- Input ports that have passed EOS (R32). -/
  closed : List Nat := []
  /-- Tokens waiting at an output: FANOUT branches (R176). -/
  outq : SMap (List Token) := []
  nodes : SMap NodeSt := []
  slots : SMap Slot := []
  /-- Nodes halted (R309). -/
  halted : List Nat := []
  pwd : Bool := false
  sat : Bool := false
  abusy : Bool := false
  abank : Nat := 0
  deriving DecidableEq, Repr

/-! ## Stream ports (R257-R263, R269) -/

/-- Where the loop of R258 stands. -/
inductive Phase where
  | elem
  | mark (level : Nat)
  | eor
  | eos
  | done
  deriving DecidableEq, Repr

/-- An active stream. -/
structure Stream where
  spec : Spec
  /-- i0 to i3. -/
  pos : List Nat := [0, 0, 0, 0]
  phase : Phase := .elem
  /-- dir 0: the token being packed; dir 1: the token being unpacked. -/
  part : Option Token := none
  /-- Next position in the token. -/
  at_ : Nat := 0
  eosTaken : Bool := false
  /-- Elements moved (R211). -/
  moved : Nat := 0
  deriving DecidableEq, Repr

/-- A stream port of a hamlet's port cell. -/
structure SPort where
  pending : List Spec := []
  cur : Option Stream := none
  buf : List Token := []
  round : Nat := 0
  /-- Data tokens sent in the round, and tokens of every kind sent in it. -/
  idx : Nat := 0
  sent : Nat := 0
  xfer : BitVec 32 := 0
  lastp : Bool := false
  lastk : Nat := 0
  /-- MARKP of EOS was sent in this work unit (R268). -/
  eosSent : Bool := false
  /-- EOS has passed: later arrivals are dropped (R32). -/
  closed : Bool := false
  /-- Tokens of an open round have left for the fabric (R380). -/
  midRound : Bool := false
  deriving DecidableEq, Repr

/-! ## Graphs and instances (R35-R43, R194-R196, R384) -/

/-- An actor block image (R224). -/
structure Block where
  hdr : BitVec 128
  code : List W64
  deriving DecidableEq, Repr

/-- A cell record with its extension (R195, R418, R419). -/
structure CellRec where
  kind : Kind
  /-- Control word. -/
  ctrl : W64
  words : SMap W64
  /-- Input and output plane masks of slots 2 and 3. -/
  in2 : Byte
  out2 : Byte
  tokens : List (Nat × Token)
  blocks : SMap Block
  /-- The capabilities of a port cell that its words hold with their tags (R396). -/
  ctags : List Nat := []
  deriving DecidableEq, Repr

/-- A route word or link (R195). -/
structure Route where
  sp : Nat
  sc : Nat
  sport : Nat
  dp : Nat
  dc : Nat
  dport : Nat
  ctrl : Bool
  deriving DecidableEq, Repr

/-- A graph as the loader accepted it. -/
structure Graph where
  handle : Nat
  gid : BitVec 32
  raceok : Bool
  racing : Bool
  nentry : Nat
  nresult : Nat
  pages : List (List CellRec)
  routes : List Route
  /-- The capability of its image, and PARMOFF: the blocks are read again when pages are placed or thawed (R224). -/
  cap : Cap := Cap.null
  parm : Nat := 0
  deriving DecidableEq, Repr

/-- The state of a plane (R384). -/
inductive Plane where
  | active | freezing | shadow | spilling | spilled | refilling
  deriving DecidableEq, Repr

/-- What an instance is: the graph itself, a stacked callee or a side callee. -/
inductive InstKind where
  | base
  /-- Calling instance and call-site JOIN. -/
  | stacked (caller : Nat) (site : NodeRef)
  /-- Requesting slot and side-call entry. -/
  | side (n : NodeRef) (entry : Nat)
  deriving DecidableEq, Repr

/-- A graph on the fabric. -/
structure Inst where
  launch : Nat
  graph : Graph
  kind : InstKind := .base
  depth : Nat := 0
  plane : Plane := .active
  /-- Sources are gated (R270). -/
  gated : Bool := true
  /-- Hamlet of each page. -/
  hams : List Nat := []
  /-- Switch entries of its circuits (R311): hamlet and entry. -/
  hops : List (Nat × W64) := []
  /-- By 16 × page + cell. -/
  cells : SMap Cell := []
  circs : List Circ := []
  /-- Stream ports of a frozen plane, by 16 × page + port. -/
  ports : SMap SPort := []
  /-- A call in progress: call site and its words, waiting for the freeze point. -/
  call : Option (NodeRef × List W64 × W64) := none
  /-- Hamlets that the pager has claimed for its callee (R196). -/
  claim : List Nat := []
  complete : Bool := false
  quiescent : Bool := false
  deadlocked : Bool := false
  /-- Sources that have emitted PMK, as 16 × page + cell and port or slot (R380). -/
  pmkSent : List (Nat × Nat) := []
  /-- Nodes that PMK has passed, in the same form, with 4 + p for stream port p of a port cell. -/
  passed : List (Nat × Nat) := []
  /-- Firings and memory replies since the last sweep (R57). -/
  active : Bool := false
  /-- How often it has acted since it was made (the model's own, for QSWEEP). -/
  acts : Nat := 0
  /-- The round at which its sources were last let past a checkpoint (R385). -/
  ckptRound : Nat := 0
  deriving DecidableEq, Repr

/-! ## Launch states, barriers and parameter blocks (R199, R276, R368) -/

/-- The states of a launch (R368). -/
inductive LState where
  | queued | placing | running | gating | saving | saved | restoring | replaying | complete
  deriving DecidableEq, Repr

/-- A barrier instance (R276). -/
structure Barrier where
  /-- 8 × instance number + scope. -/
  key : Nat
  arrived : List Nat := []
  phase : Nat := 0
  broken : Bool := false
  /-- The cycle in which it broke. -/
  brokenAt : W64 := 0
  deriving DecidableEq, Repr

/-- A launch parameter block (R199). -/
structure Lpb where
  graph : W64 := 0
  done : W64 := 0
  code : Cap := Cap.null
  count : Nat := 0
  nargs : Nat := 0
  pclass : Nat := 0
  qos : Nat := 0
  replay : Nat := 0
  ckpt : Nat := 0
  c0 : Nat := 0
  h0 : Nat := 0
  width : Nat := 0
  height : Nat := 0
  deriving DecidableEq, Repr

/-- A placement that waits for free hamlets (R37). -/
structure PReq where
  launch : Nat
  hamlet : Nat
  graph : Graph
  /-- Hamlets that the pager has claimed for it (R196). -/
  claim : List Nat := []
  deriving DecidableEq, Repr

/-- A side call that waits (R38). -/
structure SideReq where
  node : NodeRef
  entry : Nat
  handle : Nat
  /-- Hamlets that the pager has claimed for it (R196). -/
  claim : List Nat := []
  deriving DecidableEq, Repr

/-! ## Engines (R327-R348) -/

/-- A tile task that a mill runs: its record as issued and the descriptors it took (R346). -/
structure Task where
  idx : Nat
  mill : NodeRef
  rec_ : List Byte
  descs : SMap Desc
  /-- Its sums have been formed, and the words of C that are still to be written (R162, R347). -/
  summed : Bool := false
  rest : List ((Nat × Nat) × W32) := []
  deriving DecidableEq, Repr

/-- A tile-task queue (R345). -/
structure MQueue where
  shire : Nat
  ctx : Nat
  vf : Nat
  launch : Nat
  tid : Nat
  desc : Desc
  size : Nat
  hamlet : Nat
  /-- Records appended and not issued, oldest first. -/
  waiting : List Nat := []
  issued : List Task := []
  /-- A DETACH waits for it. -/
  closing : Bool := false
  deriving DecidableEq, Repr

/-- An update in a sparse-update window (R170). -/
structure SUpd where
  /-- Its source, and those of the updates merged into it. -/
  srcs : List Who
  /-- The address token that brought it; merged updates keep the first's. -/
  tok : Nat
  ordered : Bool
  addr : Nat
  n : Nat
  op : Nat
  val : W64
  /-- Operands of the updates merged into it. -/
  more : List W64 := []
  round : Nat
  idx : Nat
  full : Bool
  ctx : Nat
  vf : Nat
  launch : Nat
  /-- A release has sent it towards memory: a teardown leaves it (R188). -/
  sent : Bool := false
  deriving DecidableEq, Repr

/-! ## Images and launches (R368, R376, R382, R385) -/

/-- Where a launch stands that a restore has moved (R130, R389): the partition whose numbers of dies and hamlets it
keeps, where each die of it lies now, and by how many columns and rows its hamlets have moved. -/
structure Shift where
  part : Nat × FenceEntry
  dies : List (Nat × Nat)
  dx : Int
  dy : Int
  deriving DecidableEq, Repr

/-- The contents of a save image or of a replay record (R118, R188, R382, R385; log 12).  Places are those of
the partition at the save. -/
structure Image where
  /-- The 256 bytes of the header (R382); the record of a launch start has none. -/
  header : List Byte := []
  reeves : SMap Reeve := []
  insts : SMap Inst := []
  ports : SMap SPort := []
  accs : SMap W32 := []
  /-- The scratchpads; the record of a launch start holds none. -/
  scratch : Option Mem := none
  /-- Engine commands and tile-task queues that a rollback goes back to. -/
  cmds : SMap Cmd := []
  mqueues : SMap MQueue := []
  bars : List Barrier := []
  poison : Option Trap := none
  /-- Side calls of its nodes that wait (R38). -/
  sides : SMap SideReq := []
  /-- Tensor identifiers of the launch's context (R189). -/
  tids : SMap Desc := []
  /-- The launch's own counts of pre-emption saves and rollbacks (R207). -/
  preempts : BitVec 32 := 0
  replays : BitVec 32 := 0
  /-- Hamlets that it uses. -/
  hams : List Nat := []
  part : Option (Nat × FenceEntry) := none
  shift : Option Shift := none
  forced : Bool := false
  deriving DecidableEq, Repr

/-- One launch. -/
structure Launch where
  ctx : Nat
  vf : Nat
  lid : BitVec 32
  st : LState := .queued
  lpb : Lpb := {}
  args : List Cap := []
  cookie : W64 := 0
  /-- It came from a LAUNCH and holds a device-queue entry (R184). -/
  device : Bool := false
  /-- Journal number (R369), TIME when it was last queued, the time that it was QUEUED before, TIME when first passed
  over, and TIME since which it stands QUEUED behind less urgent running launches (R371). -/
  age : Nat := 0
  queuedAt : W64 := 0
  queued : W64 := 0
  passedAt : Option W64 := none
  behindAt : Option W64 := none
  /-- TIME at completion (R199). -/
  endTime : W64 := 0
  startedAt : Nat := 0
  reeves : List Nat := []
  /-- Launch status (R376). -/
  fcode : Code := .none
  fsub : Nat := 0
  faddr : W64 := 0
  fsite : BitVec 32 := 0
  /-- Stage and level of the walk's failure that FCODE names (R148). -/
  fwalk : Option (Nat × Nat) := none
  /-- pc of the first reeve that a trap at S level stopped (R103). -/
  fpc : W64 := 0
  nfault : BitVec 16 := 0
  /-- Faults, with their sites, that wait for the end of a freeze of the launch, oldest first (R43). -/
  heldFaults : List (Trap × BitVec 32) := []
  notes : BitVec 8 := 0
  deadlist : List (BitVec 32) := []
  replays : BitVec 32 := 0
  preempts : BitVec 32 := 0
  bars : List Barrier := []
  image : Option Image := none
  /-- The record of a replayable launch (R385): the checkpoint's image, or the start. -/
  record : Option Image := none
  /-- A non-idempotent operation since the record (R386). -/
  dirty : Bool := false
  /-- The cycle in which the checkpoint under way began (R385). -/
  ckptAt : Option W64 := none
  /-- A replay-triggering fault has arrived and its rollback has not been made (R387). -/
  rollback : Option Trap := none
  /-- Hamlets that the pager has claimed for it while it is PLACING (R196). -/
  claim : List Nat := []
  /-- A pre-emption request that waits for a freeze (R43). -/
  preemptAsked : Bool := false
  /-- The cycle of the pre-emption request (R381). -/
  gatingAt : W64 := 0
  forced : Bool := false
  /-- Cycle of the last sweep and whether it saw no activity (R57). -/
  sweepAt : W64 := 0
  idle : Bool := false
  /-- Every graph of the launch is marked not replayable (R172). -/
  racing : Bool := false
  /-- How far a restore has moved it. -/
  shift : Option Shift := none
  deriving DecidableEq, Repr

/-! ## Tables, functions and the package -/

/-- A context. -/
structure Ctx where
  vf : Nat
  tids : SMap Desc := []
  engSerial : BitVec 32 := 1
  launchSerial : BitVec 32 := 1
  poison : Option Trap := none
  /-- Device launch queue: launch keys, oldest first (R184). -/
  devq : List Nat := []
  /-- Spilled planes, last written first (R401): instance and its image. -/
  spill : List (Nat × Inst) := []
  deriving DecidableEq, Repr

/-- A virtual function (R183, R205, R372, R406). -/
structure Vf where
  base : W64 := 0
  size : W64 := 16
  head : BitVec 32 := 0
  tail : BitVec 32 := 0
  err : Bool := false
  counters : SMap W64 := []
  /-- Products towards the next unit of MAC_KPROD (R205). -/
  prods : Nat := 0
  freeze : Bool := false
  qos : W64 := 0
  mask : BitVec 32 := 0
  cbase : W64 := 0
  csize : W64 := 0
  cwr : BitVec 32 := 0
  crd : BitVec 32 := 0
  /-- Records dropped since one was last written. -/
  drops : W64 := 0
  /-- MSI-X vectors pending, masked, and how often each has been sent to the host (R406). -/
  msix : List Nat := []
  vmask : List Nat := [0, 1, 2, 3]
  vsent : SMap Nat := []
  pwait : W64 := 1000000
  /-- The launch that holds the partition's reservation (R370). -/
  reserved : Option Nat := none
  /-- C-table words, by 132 × table + word (R202). -/
  ctabs : SMap W32 := []
  deriving DecidableEq, Repr

/-- STATE of a placement-map entry (R196). -/
inductive Place where
  | free | clearing | occupied | retiring | retired
  deriving DecidableEq, Repr

/-- A hamlet's placement-map entry and hand-over state (R140, R196, R197). -/
structure Hamlet where
  place : Place := .free
  ctx : Nat := 0
  page : Nat := 0
  depth : Nat := 0
  owner : Option Nat := none
  /-- The hand-over clear under way: the context it is for, and the cycle in which it began. -/
  clearFor : Option (Nat × W64) := none
  /-- Switch circuit entries (R311). -/
  switch : List W64 := []
  deriving DecidableEq, Repr

/-- The Steward (R183, R390). -/
structure Steward where
  active : Nat := 0
  trapped : Bool := false
  /-- The standby core has started. -/
  standby : Bool := false
  /-- No standby core remains. -/
  last : Bool := false
  failed : Bool := false
  kicks : List Nat := []
  /-- Launches whose completion records and interrupts are held, in order of completion. -/
  held : List Nat := []
  journal : Nat := 0
  tvec : W64 := 0
  deriving DecidableEq, Repr

/-- An Ezton port (R407, R408). -/
structure Port where
  up : Bool := false
  fail : Bool := false
  training : Bool := false
  retries : Nat := 0
  deriving DecidableEq, Repr

/-- Which agent acts next (log 1). -/
inductive Turn where
  | reeve (h : Nat)
  | actor (n : NodeRef)
  | event (i : Instr)
  deriving DecidableEq, Repr

/-- The package. -/
structure State where
  agenda : List Turn := []
  cur : Nat := 0
  focus : Option NodeRef := none
  freeCtr : Nat := 0
  /-- Turns that the machine has taken by itself: whose turn it is (log 1). -/
  rot : Nat := 0
  /-- What the outside (host, peer, SPDM) was last answered (log 21). -/
  outside : PeerAns := .done []
  time : W64 := 0
  cycle : W64 := 0
  /-- Fabric clock in MHz (R413). -/
  clock : Nat := 1600
  mem : Mem := {}
  waiters : List Waiter := []
  gifts : List SyncGift := []
  roots1 : SMap W64 := []
  roots2 : SMap W64 := []
  /-- Roots written that no invalidation has put into effect yet (R200). -/
  next1 : SMap W64 := []
  next2 : SMap W64 := []
  /-- Bytes of each context's granary allotment, up to the last that was written; 0xFF ends the list (R200). -/
  allot : SMap (List Nat) := []
  /-- Slices being cleared for a context's allotment since a cycle (R140), and the last owner of each slice. -/
  sliceClear : SMap (Nat × W64) := []
  sliceOwner : SMap Nat := []
  invq : List InvEntry := []
  tlbH : SMap (List TlbEntry) := []
  tlbP : SMap (List TlbEntry) := []
  walks : List Walk := []
  walkGifts : List WalkGift := []
  /-- The parish that a shire's walker pool served last (R150). -/
  walkRot : SMap Nat := []
  nextId : Nat := 1
  /-- Local VF of (source package × 512 + source VF); an absent entry is 0x3FF (R409). -/
  domain : SMap Nat := []
  /-- Packages present in the Ezton domain (R131). -/
  domainPkgs : List Nat := []
  peerOut : List PeerReq := []
  peerIn : List PeerGift := []
  lost : List Who := []
  /-- Accesses to an accumulator bank that an open round holds (R117): requester, key of the cell, bank. -/
  bankWait : List (Who × Nat × Nat) := []
  ctxs : SMap Ctx := []
  vfs : SMap Vf := []
  /-- Fence entries, by 16 × die + index, and the dies whose error bit is set. -/
  fences : SMap FenceEntry := []
  fenceErr : List Nat := []
  hamlets : SMap Hamlet := []
  /-- Non-volatile maps: retired hamlets, retired 64 KiB pages, clears that take effect at reset. -/
  retiredH : List Nat := []
  retiredP : List Nat := []
  clearAt : List Nat := []
  reeves : SMap Reeve := []
  ports : SMap SPort := []
  insts : SMap Inst := []
  /-- Accumulator words other than 0: by ((hamlet × 8 + cell) × 8 + bank) × 1,024 + word. -/
  accs : SMap W32 := []
  launches : SMap Launch := []
  places : SMap PReq := []
  sides : SMap SideReq := []
  cmds : SMap Cmd := []
  mqueues : SMap MQueue := []
  windows : SMap (List SUpd) := []
  steward : Steward := {}
  eztons : SMap Port := []
  pkg : Nat := 0
  ready : List Nat := []
  /-- READY bits that were set in this cycle: their functions can be used from the next (R411). -/
  newly : List Nat := []
  /-- Functions whose self-test failed, as READY bit numbers. -/
  tested : List Nat := []
  boot : W64 := 0
  /-- Stages that have been measured since the reset (R414, R415). -/
  booted : List Nat := []
  mrs : Vector (BitVec 512) 5 := Vector.replicate 5 0
  linkMode : Nat := 0
  /-- Throttle level, by 1,024 × unit + VF (R373). -/
  throttle : SMap Nat := []
  /-- The first cycle in which a throttled dispatcher may issue again, in the same form (R373). -/
  issueAt : SMap W64 := []
  /-- The cycle in which the last window of a unit ended (R373). -/
  qosAt : SMap W64 := []
  /-- Accesses of the host and of peers that wait for an accumulator bank, oldest first (R117). -/
  outOps : List (Nat × OutOp) := []
  ecc : EccSt := {}
  /-- Uncorrectable errors that launch statuses have reported within 24 hours, oldest first: SUB, address or hamlet, and
  TIME (R412). -/
  errs : List (Nat × Nat × W64) := []
  /-- The streams and copies that a throttle holds (R209, R373). -/
  throttled : List Who := []
  /-- What of a nanosecond has passed, in cycles of 1 GHz by the fabric clock in MHz (R4, R413). -/
  frac : Nat := 0
  deriving DecidableEq, Repr

/-- The machine right after package reset (R410; the values of log 4 where the spec gives none). -/
def State.reset : State := {}

end Sys2Proof.Machine

namespace Sys2Proof

/-- The bytes of a save image after its header, by what the image holds; nothing of a part that is zero stands in it (R382,
log 12). -/
opaque Config.imageBody : Machine.Image → List Byte
/-- The bytes of a spill image, by the plane that is spilled (R40, log 12). -/
opaque Config.spillBytes : Machine.Inst → List Byte

end Sys2Proof
end

