-- ==== Sys2Proof/Decode.lean ====
section
/-! DEFINITION. The decoder and the encoder of the two instruction sets (R212 to R227), and the
bit-field and byte-order helpers they and the machine use. -/

namespace Sys2Proof

/-- Bits `lo + n - 1` down to `lo`. -/
def field {w : Nat} (x : BitVec w) (lo n : Nat) : BitVec n := x.extractLsb' lo n

/-- Bits `lo + n - 1` down to `lo` of a number. -/
def natField (x lo n : Nat) : Nat := (x >>> lo) % 2 ^ n

/-- The number that a list of bytes holds, least significant first (R6). -/
def leNat : List Byte → Nat
  | [] => 0
  | b :: bs => b.toNat + 256 * leNat bs

/-- The `n` bytes of a number, least significant first (R6). -/
def leBytes : Nat → Nat → List Byte
  | 0, _ => []
  | n + 1, x => BitVec.ofNat 8 x :: leBytes n (x / 256)

/-- The major of a first word (R212). -/
def wMajor (w : W32) : Nat := (field w 26 6).toNat
/-- The guard field (R213). -/
def wPrd (w : W32) : Guard := field w 22 4
/-- Field d. -/
def wD (w : W32) : BitVec 5 := field w 17 5
/-- Field a of RR, RI and SYS. -/
def wA (w : W32) : BitVec 5 := field w 12 5
/-- Field b of RR. -/
def wB (w : W32) : BitVec 5 := field w 7 5
/-- Field fn of RR. -/
def wFn (w : W32) : Nat := (field w 0 7).toNat
/-- Field imm12 or sel12. -/
def wImm (w : W32) : BitVec 12 := field w 0 12
/-- Field kc of MEM and AT. -/
def wKc (w : W32) : KReg := field w 13 4
/-- Field a of MEM and AT. -/
def wMa (w : W32) : GReg := field w 8 5
/-- Field b of AT. -/
def wAtB (w : W32) : GReg := field w 3 5

/-- A word of two parts of which the second is two words (R212). -/
def isLong (w : W32) : Bool := wMajor w == 0x28 || wMajor w == 0x29 || wMajor w == 0x3E

/-- A 5-bit field that names a capability register (R214). -/
def kField (f : BitVec 5) : Option KReg := if f.getLsbD 4 then none else some (field f 0 4)
/-- A 5-bit field that names a predicate (R214). -/
def pField (f : BitVec 5) : Option PReg := if field f 3 2 = 0 then some (field f 0 3) else none
/-- A field that must be 0 (R214). -/
def zero? {n : Nat} (f : BitVec n) : Option Unit := if f = 0 then some () else none
/-- A condition of the encoding. -/
def need (b : Bool) : Option Unit := if b then some () else none

/-- The system registers of R95. -/
def sysRegs : List Nat :=
  [0x000, 0x001, 0x002, 0x003, 0x004, 0x005, 0x006, 0x007, 0x008, 0x010, 0x011, 0x020, 0x021,
   0x022, 0x023, 0x024, 0x030, 0x031, 0x040, 0x050]

/-- ALU (R218, R239). -/
def decAlu (p : Guard) (d a b : GReg) : Nat → Option Instr
  | 0 => some (.add p d a b)
  | 1 => some (.sub p d a b)
  | 2 => some (.and p d a b)
  | 3 => some (.or p d a b)
  | 4 => some (.xor p d a b)
  | 5 => some (.andn p d a b)
  | 6 => some (.shl p d a b)
  | 7 => some (.shr p d a b)
  | 8 => some (.sar p d a b)
  | 9 => some (.rot p d a b)
  | 10 => some (.min p d a b)
  | 11 => some (.max p d a b)
  | 12 => some (.minu p d a b)
  | 13 => some (.maxu p d a b)
  | 14 => do zero? b; some (.clz p d a)
  | 15 => do zero? b; some (.ctz p d a)
  | 16 => do zero? b; some (.popc p d a)
  | 17 => do zero? b; some (.brev p d a)
  | 18 => some (.sext p d a b)
  | _ => none

/-- MULDIV (R218, R240). -/
def decMul (p : Guard) (d a b : GReg) : Nat → Option Instr
  | 0 => some (.mul p d a b)
  | 1 => some (.mulh p d a b)
  | 2 => some (.mulhu p d a b)
  | 3 => some (.div p d a b)
  | 4 => some (.divu p d a b)
  | 5 => some (.rem p d a b)
  | 6 => some (.remu p d a b)
  | _ => none

/-- The shift immediates (R216, R241). -/
def decShift (mk : BitVec 6 → Instr) (imm : BitVec 12) : Option Instr := do
  zero? (field imm 6 6)
  some (mk (field imm 0 6))

/-- CMP (R243): combine mode 3 and codes above 5 are illegal. -/
def decCmp (p : Guard) (d a b : GReg) (fn : Nat) : Option Instr := do
  need (field d 3 2 != 3 && fn < 6)
  some (.cmp p (field d 3 2) (field d 0 3) a b (BitVec.ofNat 3 fn))

/-- PLOG (R218, R245). -/
def decPlog (p : Guard) (d a b : BitVec 5) : Nat → Option Instr
  | 0 => do some (.pand p (← pField d) (← pField a) (← pField b))
  | 1 => do some (.por p (← pField d) (← pField a) (← pField b))
  | 2 => do some (.pxor p (← pField d) (← pField a) (← pField b))
  | 3 => do some (.pandn p (← pField d) (← pField a) (← pField b))
  | 4 => do zero? b; some (.pnot p (← pField d) (← pField a))
  | 5 => do zero? b; some (.pmov p (← pField d) (← pField a))
  | 6 => do zero? b; some (.pfromg p (← pField d) a)
  | 7 => do zero? b; some (.ptog p d (← pField a))
  | _ => none

/-- LD to FE (R219, R250-R253). -/
def decMem (w : W32) (p : Guard) (maj : Nat) : Option Instr :=
  let d := wD w
  let kc := wKc w
  let a := wMa w
  let sz : BitVec 2 := field w 6 2
  let x := w.getLsbD 5
  let imm : BitVec 5 := field w 0 5
  match maj with
  | 0x18 => do need (!(sz == 3 && x)); some (.ld p d kc a sz x imm)
  | 0x19 => some (.st p d kc a sz x imm)
  | 0x1A => do need (sz == 3 && !x); some (.ldc p (← kField d) kc a imm)
  | 0x1B => do need (sz == 3 && !x); some (.stc p (← kField d) kc a imm)
  | 0x1C => do need (sz == 3); some (.ldsyn p d kc a x imm)
  | 0x1D => do need (sz == 3); some (.fe p d kc a x imm)
  | _ => none

/-- ATOM, RED, SWAP, CAS (R218, R254, R255). -/
def decAt (w : W32) (p : Guard) (maj : Nat) : Option Instr :=
  let d := wD w
  let kc := wKc w
  let a := wMa w
  let b := wAtB w
  let aop : BitVec 3 := field w 0 3
  match maj with
  | 0x1E => some (.atom p d kc a b aop)
  | 0x1F => do zero? d; some (.red p kc a b aop)
  | 0x20 => do zero? aop; some (.swap p d kc a b)
  | 0x21 => do zero? aop; some (.cas p d kc a b)
  | _ => none

/-- CAP (R218, R247). -/
def decCap (p : Guard) (d a b : BitVec 5) : Nat → Option Instr
  | 0 => do some (.csetb p (← kField d) (← kField a) b)
  | 1 => do some (.cinc p (← kField d) (← kField a) b)
  | 2 => do some (.cseto p (← kField d) (← kField a) b)
  | 3 => do some (.candp p (← kField d) (← kField a) b)
  | 4 => do zero? b; some (.cgetb p d (← kField a))
  | 5 => do zero? b; some (.cgetl p d (← kField a))
  | 6 => do zero? b; some (.cgeto p d (← kField a))
  | 7 => do zero? b; some (.cgetp p d (← kField a))
  | 8 => do zero? b; some (.cgets p d (← kField a))
  | 9 => do zero? b; some (.ctest p (← pField d) (← kField a))
  | 10 => do zero? a; zero? b; some (.cclr p (← kField d))
  | 11 => do zero? b; some (.cmov p (← kField d) (← kField a))
  | 12 => do some (.cseal p (← kField d) (← kField a) (← kField b))
  | 13 => do some (.cunseal p (← kField d) (← kField a) (← kField b))
  | _ => none

/-- The completion, tag, reduce and class fields that SSPEC and SCOPY share (R221). -/
def tailOk (comp : BitVec 2) (tag : BitVec 6) (red : BitVec 4) : Bool :=
  (match comp with
   | 1 => true
   | 2 => field tag 4 2 == (0 : BitVec 2)
   | _ => tag == 0) && red ≤ 8

/-- SSPEC (R221). -/
def decSspec (w w1 : W32) (p : Guard) : Option Instr := do
  let comp : BitVec 2 := field w 3 2
  let dir := w.getLsbD 2
  let tag : BitVec 6 := field w1 26 6
  let red : BitVec 4 := field w1 14 4
  zero? (field w 0 2)
  zero? (field w1 0 11)
  need (tailOk comp tag red && (red == 0 || dir))
  some (.sspec p (field w 18 4) (field w 14 4) (field w 10 4) (field w 5 5) comp dir tag
    (field w1 18 8) red (field w1 11 3))

/-- SCOPY (R221). -/
def decScopy (w w1 : W32) (p : Guard) : Option Instr := do
  let comp : BitVec 2 := field w 7 2
  let tag : BitVec 6 := field w1 26 6
  let red : BitVec 4 := field w1 14 4
  zero? (field w 0 7)
  zero? (field w1 0 11)
  need (tailOk comp tag red)
  some (.scopy p (field w 18 4) (field w 14 4) (field w 9 5) comp tag (field w1 18 8) red
    (field w1 11 3))

/-- TAGOP (R218, R265). -/
def decTag (p : Guard) (d a b : BitVec 5) (fn : Nat) : Option Instr := do
  zero? b
  match fn with
  | 0 => some (.twaitany p d a)
  | 1 => do zero? d; some (.twaitall p a)
  | 2 => some (.tfirst p d a)
  | 3 => do zero? d; some (.tclr p a)
  | 4 => do zero? a; some (.tread p d)
  | _ => none

/-- RINGOP (R218, R266). -/
def decRing (p : Guard) (d a b : BitVec 5) (fn : Nat) : Option Instr := do
  let n ← kField b
  match fn with
  | 0 => do zero? d; some (.rinit p n a)
  | 1 => some (.rawait p d a n)
  | 2 => do zero? d; some (.rrel p a n)
  | 3 => do zero? a; some (.rstat p d n)
  | _ => none

/-- SBAR (R217, R267). -/
def decSbar (p : Guard) (d a : BitVec 5) (sel : BitVec 12) : Option Instr := do
  zero? d
  match sel.toNat with
  | 0 => some (.sbarOrder p a)
  | 1 => some (.sbarConfig p a)
  | 2 => some (.sbarMemphase p a)
  | 3 => some (.sbarCond p a)
  | _ => none

/-- PORTOP (R218, R268). -/
def decPort (p : Guard) (d a b : BitVec 5) (fn : Nat) : Option Instr := do
  let n ← kField b
  match fn with
  | 0 => do zero? d; some (.inject p n a)
  | 1 => do zero? d; some (.markp p n a)
  | 2 => do zero? a; some (.drain p d n)
  | 3 => do zero? a; some (.pstat p d n)
  | _ => none

/-- CFG (R218, R270). -/
def decCfg (p : Guard) (d a b : BitVec 5) : Nat → Option Instr
  | 0 => do zero? b; some (.cfgld p d (← kField a))
  | 1 => do zero? d; zero? b; some (.cfgrel p a)
  | 2 => some (.cfgqry p d a b)
  | 3 => do zero? d; zero? b; some (.cfgstart p a)
  | 4 => do zero? d; some (.cfggate p a b)
  | _ => none

/-- BAR (R217, R276). -/
def decBar (p : Guard) (d a : BitVec 5) (sel : BitVec 12) : Option Instr := do
  zero? a
  zero? (field sel 4 8)
  need (field sel 0 3 < (5 : BitVec 3))
  some (.bar p (← pField d) (field sel 0 3) (sel.getLsbD 3))

/-- ENGINE (R218, R278).  THRESH and MTASK have one word for each of their ops; the first row of
each stands for the word (log 8). -/
def decEngine (p : Guard) (d : GReg) (a : BitVec 5) (b : GReg) : Nat → Option Instr
  | 0 => do some (.drove p d (← kField a) b)
  | 1 => do some (.pinbin p d (← kField a) b)
  | 2 => do some (.pinpair p d (← kField a) b)
  | 3 => do some (.threshOpen p d (← kField a) b)
  | 4 => do some (.mtaskAttach p d (← kField a) b)
  | 5 => do some (.mpath p d (← kField a) b)
  | _ => none

/-- TID (R218, R279). -/
def decTid (p : Guard) (d a b : BitVec 5) (fn : Nat) : Option Instr := do
  zero? d
  match fn with
  | 0 => do some (.tidset p a (← kField b))
  | 1 => do some (.tidget p a (← kField b))
  | 2 => do zero? b; some (.tidinv p a)
  | _ => none

/-- MISC (R218, R281-R283). -/
def decMisc (p : Guard) (d a b : BitVec 5) (fn : Nat) : Option Instr := do
  zero? b
  match fn with
  | 0 => do zero? d; zero? a; some (.eret p)
  | 1 => do zero? d; some (.evt p a)
  | 2 => do zero? a; some (.rdtime p d)
  | 3 => do zero? a; some (.ident p d)
  | _ => none

/-- A guarded word: every major but BR and JAL (R217). -/
def decGuarded (w w1 : W32) (p : Guard) (maj : Nat) : Option Instr :=
  let d := wD w
  let a := wA w
  let b := wB w
  let fn := wFn w
  let imm := wImm w
  match maj with
  | 0x01 => decAlu p d a b fn
  | 0x02 => decMul p d a b fn
  | 0x03 => some (.addi p d a imm)
  | 0x04 => some (.andi p d a imm)
  | 0x05 => some (.ori p d a imm)
  | 0x06 => some (.xori p d a imm)
  | 0x07 => decShift (.shli p d a) imm
  | 0x08 => decShift (.shri p d a) imm
  | 0x09 => decShift (.sari p d a) imm
  | 0x0A => some (.lui p d (field w 0 17))
  | 0x0B => decCmp p d a b fn
  | 0x0C => some (.cmpi p (field d 3 2) (field d 0 3) a imm)
  | 0x0D => decPlog p d a b fn
  | 0x12 => some (.jalr p d a imm)
  | 0x13 => do zero? a; some (.loop p d imm)
  | 0x14 => do zero? d; zero? a; some (.trap p imm)
  | 0x15 => do zero? d; zero? a; zero? imm; some (.exit p)
  | 0x18 => decMem w p maj
  | 0x19 => decMem w p maj
  | 0x1A => decMem w p maj
  | 0x1B => decMem w p maj
  | 0x1C => decMem w p maj
  | 0x1D => decMem w p maj
  | 0x1E => decAt w p maj
  | 0x1F => decAt w p maj
  | 0x20 => decAt w p maj
  | 0x21 => decAt w p maj
  | 0x22 => do zero? d; zero? a; zero? (field imm 7 5); some (.fence p (field imm 3 4) (field imm 0 3))
  | 0x24 => decCap p d a b fn
  | 0x25 => do some (.cinci p (← kField d) (← kField a) imm)
  | 0x28 => decSspec w w1 p
  | 0x29 => decScopy w w1 p
  | 0x2A => decTag p d a b fn
  | 0x2B => decRing p d a b fn
  | 0x2C => decSbar p d a imm
  | 0x2D => decPort p d a b fn
  | 0x30 => decCfg p d a b fn
  | 0x31 => do zero? b; need (fn == 0); some (.qsweep p d a)
  | 0x32 => do zero? b; need (fn == 0); some (.launch p d (← kField a))
  | 0x33 => do zero? b; need (fn == 0); some (.lwait p d a)
  | 0x34 => decBar p d a imm
  | 0x36 => decEngine p d a b fn
  | 0x38 => decTid p d a b fn
  | 0x3A => do zero? a; need (sysRegs.contains imm.toNat); some (.srrd p d imm)
  | 0x3B => do zero? d; need (sysRegs.contains imm.toNat); some (.srwr p a imm)
  | 0x3C => decMisc p d a b fn
  | 0x3E => some (.li p d (field w 0 17 ++ w1))
  | _ => none

/-- The instruction of a word, with the word after it for the long forms; `none` is ILLEGAL_INSTR
(R215 step 2, R220). -/
def decodeWords (w w1 : W32) : Option Instr :=
  match wMajor w with
  | 0x10 => do zero? (wPrd w); some (.br (field w 0 22))
  | 0x11 => do zero? (wPrd w); some (.jal (field w 0 22))
  | maj => if wPrd w = 8 then none else decGuarded w w1 (wPrd w) maj

/-- The fields of an actor instruction word (R225). -/
def actorOp (w : W64) : ActorOp :=
  { pred := field w 54 2, t0 := field w 43 11, t1 := field w 32 11, imm := field w 16 16,
    ety := field w 13 3, rmode := field w 10 3, flags := field w 8 2, auxb := field w 0 8 }

/-- The instruction of an actor word, by opcode (R227).  TAGRD with type pred and flag 01 reads the
kind of the firing (R296). -/
def decodeActor (w : W64) : Option Instr :=
  let o := actorOp w
  match (field w 56 8).toNat with
  | 0x01 => some (.peek o)
  | 0x02 => some (.adv o)
  | 0x03 => some (.put o)
  | 0x04 => some (.padv o)
  | 0x05 => some (.hrd o)
  | 0x06 => some (.hwr o)
  | 0x07 => some (.qrd o)
  | 0x08 => some (.qwr o)
  | 0x09 => some (.const o)
  | 0x0A => some (.consth o)
  | 0x0B => some (.laneid o)
  | 0x0C => some (if o.flags = 1 then .tagrdKind o else .tagrd o)
  | 0x0D => some (.maskrd o)
  | 0x0E => some (.maskset o)
  | 0x10 => some (.iadd o)
  | 0x11 => some (.isub o)
  | 0x12 => some (.imul o)
  | 0x13 => some (.imulh o)
  | 0x14 => some (.iand o)
  | 0x15 => some (.ior o)
  | 0x16 => some (.ixor o)
  | 0x17 => some (.ishl o)
  | 0x18 => some (.ishr o)
  | 0x19 => some (.isar o)
  | 0x1A => some (.imin o)
  | 0x1B => some (.imax o)
  | 0x1C => some (.iabs o)
  | 0x1D => some (.ineg o)
  | 0x1E => some (.isatadd o)
  | 0x1F => some (.isatsub o)
  | 0x20 => some (.fadd o)
  | 0x21 => some (.fsub o)
  | 0x22 => some (.fmul o)
  | 0x23 => some (.ffma o)
  | 0x24 => some (.fmin o)
  | 0x25 => some (.fmax o)
  | 0x26 => some (.fabs o)
  | 0x27 => some (.fneg o)
  | 0x28 => some (.frcp o)
  | 0x29 => some (.frsq o)
  | 0x2A => some (.fexp2 o)
  | 0x2B => some (.flog2 o)
  | 0x2C => some (.ftanh o)
  | 0x2D => some (.fsinpi o)
  | 0x2E => some (.fcospi o)
  | 0x2F => some (.frnd o)
  | 0x30 => some (.icmp o)
  | 0x31 => some (.fcmp o)
  | 0x32 => some (.sel o)
  | 0x33 => some (.actorPand o)
  | 0x34 => some (.actorPor o)
  | 0x35 => some (.actorPnot o)
  | 0x36 => some (.anyl o)
  | 0x37 => some (.alll o)
  | 0x38 => some (.cvtfi o)
  | 0x39 => some (.cvtif o)
  | 0x3A => some (.cvtfb o)
  | 0x3B => some (.cvtbf o)
  | 0x3C => some (.pack o)
  | 0x3D => some (.unpack o)
  | 0x40 => some (.shuf o)
  | 0x41 => some (.bcast o)
  | 0x42 => some (.rotl o)
  | 0x43 => some (.rsum o)
  | 0x44 => some (.rmax o)
  | 0x45 => some (.rmin o)
  | 0x46 => some (.scan o)
  | 0x47 => some (.compact o)
  | 0x48 => some (.expand o)
  | 0x50 => some (.spld o)
  | 0x51 => some (.spst o)
  | 0x52 => some (.spldsyn o)
  | 0x53 => some (.spred o)
  | 0x58 => some (.tidld o)
  | 0x60 => some (.emitctl o)
  | 0x61 => some (.mark o)
  | 0x62 => some (.fault o)
  | 0x63 => some (.callreq o)
  | 0x64 => some (.actorEvt o)
  | 0x68 => some (.mvsplit o)
  | 0x69 => some (.qpscale o)
  | 0x6A => some (.zigzag o)
  | 0x6B => some (.erracc o)
  | _ => none

/-- The reeve instruction that a list of bytes begins with, and the bytes after it: the decoder.
Words are little-endian (R212).  Bytes that do not reach the end of the instruction are refused. -/
def decode (bs : List Byte) : Option (Instr × List Byte) := do
  need (4 ≤ bs.length)
  let w := BitVec.ofNat 32 (leNat (bs.take 4))
  if isLong w then
    need (8 ≤ bs.length)
    let i ← decodeWords w (BitVec.ofNat 32 (leNat ((bs.drop 4).take 4)))
    some (i, bs.drop 8)
  else
    let i ← decodeWords w 0
    some (i, bs.drop 4)

/-- The instruction of `nbits` bits `w`, numbered from the first word's least significant bit;
bits above `nbits` are 0. -/
def decodeTableWord (nbits w : Nat) : Option Instr :=
  (decode (leBytes 8 (w % 2 ^ nbits))).map (·.1)

/-! The encoder, from the same tables. -/

/-- An RR word (R213). -/
def encRR (maj : BitVec 6) (p : Guard) (d a b : BitVec 5) (fn : BitVec 7) : W32 :=
  maj ++ p ++ d ++ a ++ b ++ fn
/-- An RI or SYS word (R213). -/
def encRI (maj : BitVec 6) (p : Guard) (d a : BitVec 5) (imm : BitVec 12) : W32 :=
  maj ++ p ++ d ++ a ++ imm
/-- A MEM word (R213). -/
def encMem (maj : BitVec 6) (p : Guard) (d : BitVec 5) (kc : KReg) (a : GReg) (sz : BitVec 2)
    (x : Bool) (imm : BitVec 5) : W32 :=
  maj ++ p ++ d ++ kc ++ a ++ sz ++ BitVec.ofBool x ++ imm
/-- An AT word (R213). -/
def encAt (maj : BitVec 6) (p : Guard) (d : BitVec 5) (kc : KReg) (a b : GReg) (aop : BitVec 3) :
    W32 :=
  maj ++ p ++ d ++ kc ++ a ++ b ++ aop
/-- A capability register in a 5-bit field. -/
def k5 (k : KReg) : BitVec 5 := 0#1 ++ k
/-- A predicate in a 5-bit field. -/
def p5 (p : PReg) : BitVec 5 := 0#2 ++ p
/-- The second word of SSPEC and SCOPY (R221). -/
def encTail (tag : BitVec 6) (tid : BitVec 8) (red : BitVec 4) (cls : BitVec 3) : W32 :=
  tag ++ tid ++ red ++ cls ++ 0#11
/-- An actor word (R225). -/
def encActor (opc : BitVec 8) (o : ActorOp) : List W32 :=
  [opc ++ o.pred ++ o.t0 ++ o.t1 ++ o.imm ++ o.ety ++ o.rmode ++ o.flags ++ o.auxb].flatMap
    fun (w : W64) => [field w 0 32, field w 32 32]

/-- The words of an instruction, lowest address first; a machine event has none. -/
def encode : Instr → List W32
  | .add p d a b => [encRR 0x01 p d a b 0]
  | .sub p d a b => [encRR 0x01 p d a b 1]
  | .and p d a b => [encRR 0x01 p d a b 2]
  | .or p d a b => [encRR 0x01 p d a b 3]
  | .xor p d a b => [encRR 0x01 p d a b 4]
  | .andn p d a b => [encRR 0x01 p d a b 5]
  | .shl p d a b => [encRR 0x01 p d a b 6]
  | .shr p d a b => [encRR 0x01 p d a b 7]
  | .sar p d a b => [encRR 0x01 p d a b 8]
  | .rot p d a b => [encRR 0x01 p d a b 9]
  | .min p d a b => [encRR 0x01 p d a b 10]
  | .max p d a b => [encRR 0x01 p d a b 11]
  | .minu p d a b => [encRR 0x01 p d a b 12]
  | .maxu p d a b => [encRR 0x01 p d a b 13]
  | .clz p d a => [encRR 0x01 p d a 0 14]
  | .ctz p d a => [encRR 0x01 p d a 0 15]
  | .popc p d a => [encRR 0x01 p d a 0 16]
  | .brev p d a => [encRR 0x01 p d a 0 17]
  | .sext p d a b => [encRR 0x01 p d a b 18]
  | .mul p d a b => [encRR 0x02 p d a b 0]
  | .mulh p d a b => [encRR 0x02 p d a b 1]
  | .mulhu p d a b => [encRR 0x02 p d a b 2]
  | .div p d a b => [encRR 0x02 p d a b 3]
  | .divu p d a b => [encRR 0x02 p d a b 4]
  | .rem p d a b => [encRR 0x02 p d a b 5]
  | .remu p d a b => [encRR 0x02 p d a b 6]
  | .addi p d a imm => [encRI 3 p d a imm]
  | .andi p d a imm => [encRI 4 p d a imm]
  | .ori p d a imm => [encRI 5 p d a imm]
  | .xori p d a imm => [encRI 6 p d a imm]
  | .shli p d a s => [encRI 7 p d a (0#6 ++ s)]
  | .shri p d a s => [encRI 8 p d a (0#6 ++ s)]
  | .sari p d a s => [encRI 9 p d a (0#6 ++ s)]
  | .lui p d imm => [0x0A#6 ++ p ++ d ++ imm]
  | .li p d imm => [0x3E#6 ++ p ++ d ++ field imm 32 17, field imm 0 32]
  | .cmp p comb d a b cc => [encRR 0x0B p (comb ++ d) a b (0#4 ++ cc)]
  | .cmpi p cc d a imm => [encRI 0x0C p (cc ++ d) a imm]
  | .pand p d a b => [encRR 0x0D p (p5 d) (p5 a) (p5 b) 0]
  | .por p d a b => [encRR 0x0D p (p5 d) (p5 a) (p5 b) 1]
  | .pxor p d a b => [encRR 0x0D p (p5 d) (p5 a) (p5 b) 2]
  | .pandn p d a b => [encRR 0x0D p (p5 d) (p5 a) (p5 b) 3]
  | .pnot p d a => [encRR 0x0D p (p5 d) (p5 a) 0 4]
  | .pmov p d a => [encRR 0x0D p (p5 d) (p5 a) 0 5]
  | .pfromg p d a => [encRR 0x0D p (p5 d) a 0 6]
  | .ptog p d a => [encRR 0x0D p d (p5 a) 0 7]
  | .br off => [0x10#6 ++ 0#4 ++ off]
  | .jal off => [0x11#6 ++ 0#4 ++ off]
  | .jalr p d a imm => [encRI 0x12 p d a imm]
  | .loop p d imm => [encRI 0x13 p d 0 imm]
  | .trap p sel => [encRI 0x14 p 0 0 sel]
  | .exit p => [encRI 0x15 p 0 0 0]
  | .ld p d kc a sz x imm => [encMem 0x18 p d kc a sz x imm]
  | .st p d kc a sz x imm => [encMem 0x19 p d kc a sz x imm]
  | .ldc p d kc a imm => [encMem 0x1A p (k5 d) kc a 3 false imm]
  | .stc p d kc a imm => [encMem 0x1B p (k5 d) kc a 3 false imm]
  | .ldsyn p d kc a x imm => [encMem 0x1C p d kc a 3 x imm]
  | .fe p d kc a x imm => [encMem 0x1D p d kc a 3 x imm]
  | .atom p d kc a b aop => [encAt 0x1E p d kc a b aop]
  | .red p kc a b aop => [encAt 0x1F p 0 kc a b aop]
  | .swap p d kc a b => [encAt 0x20 p d kc a b 0]
  | .cas p d kc a b => [encAt 0x21 p d kc a b 0]
  | .fence p sets scope => [encRI 0x22 p 0 0 (0#5 ++ sets ++ scope)]
  | .csetb p d a b => [encRR 0x24 p (k5 d) (k5 a) b 0]
  | .cinc p d a b => [encRR 0x24 p (k5 d) (k5 a) b 1]
  | .cseto p d a b => [encRR 0x24 p (k5 d) (k5 a) b 2]
  | .candp p d a b => [encRR 0x24 p (k5 d) (k5 a) b 3]
  | .cgetb p d a => [encRR 0x24 p d (k5 a) 0 4]
  | .cgetl p d a => [encRR 0x24 p d (k5 a) 0 5]
  | .cgeto p d a => [encRR 0x24 p d (k5 a) 0 6]
  | .cgetp p d a => [encRR 0x24 p d (k5 a) 0 7]
  | .cgets p d a => [encRR 0x24 p d (k5 a) 0 8]
  | .ctest p d a => [encRR 0x24 p (p5 d) (k5 a) 0 9]
  | .cclr p d => [encRR 0x24 p (k5 d) 0 0 10]
  | .cmov p d a => [encRR 0x24 p (k5 d) (k5 a) 0 11]
  | .cseal p d a b => [encRR 0x24 p (k5 d) (k5 a) (k5 b) 12]
  | .cunseal p d a b => [encRR 0x24 p (k5 d) (k5 a) (k5 b) 13]
  | .cinci p d a imm => [encRI 0x25 p (k5 d) (k5 a) imm]
  | .sspec p port kd kp ga comp dir tag tid red cls =>
    [0x28#6 ++ p ++ port ++ kd ++ kp ++ ga ++ comp ++ BitVec.ofBool dir ++ 0#2,
     encTail tag tid red cls]
  | .scopy p kd ks gn comp tag tid red cls =>
    [0x29#6 ++ p ++ kd ++ ks ++ gn ++ comp ++ 0#7, encTail tag tid red cls]
  | .twaitany p d a => [encRR 0x2A p d a 0 0]
  | .twaitall p a => [encRR 0x2A p 0 a 0 1]
  | .tfirst p d a => [encRR 0x2A p d a 0 2]
  | .tclr p a => [encRR 0x2A p 0 a 0 3]
  | .tread p d => [encRR 0x2A p d 0 0 4]
  | .rinit p n a => [encRR 0x2B p 0 a (k5 n) 0]
  | .rawait p d a n => [encRR 0x2B p d a (k5 n) 1]
  | .rrel p a n => [encRR 0x2B p 0 a (k5 n) 2]
  | .rstat p d n => [encRR 0x2B p d 0 (k5 n) 3]
  | .sbarOrder p a => [encRI 0x2C p 0 a 0]
  | .sbarConfig p a => [encRI 0x2C p 0 a 1]
  | .sbarMemphase p a => [encRI 0x2C p 0 a 2]
  | .sbarCond p a => [encRI 0x2C p 0 a 3]
  | .inject p n a => [encRR 0x2D p 0 a (k5 n) 0]
  | .markp p n a => [encRR 0x2D p 0 a (k5 n) 1]
  | .drain p d n => [encRR 0x2D p d 0 (k5 n) 2]
  | .pstat p d n => [encRR 0x2D p d 0 (k5 n) 3]
  | .cfgld p d a => [encRR 0x30 p d (k5 a) 0 0]
  | .cfgrel p a => [encRR 0x30 p 0 a 0 1]
  | .cfgqry p d a b => [encRR 0x30 p d a b 2]
  | .cfgstart p a => [encRR 0x30 p 0 a 0 3]
  | .cfggate p a b => [encRR 0x30 p 0 a b 4]
  | .qsweep p d a => [encRR 0x31 p d a 0 0]
  | .launch p d a => [encRR 0x32 p d (k5 a) 0 0]
  | .lwait p d a => [encRR 0x33 p d a 0 0]
  | .bar p d scope arrive => [encRI 0x34 p (p5 d) 0 (0#8 ++ BitVec.ofBool arrive ++ scope)]
  | .drove p d a b => [encRR 0x36 p d (k5 a) b 0]
  | .pinbin p d a b => [encRR 0x36 p d (k5 a) b 1]
  | .pinpair p d a b => [encRR 0x36 p d (k5 a) b 2]
  | .threshOpen p d a b => [encRR 0x36 p d (k5 a) b 3]
  | .threshClose p d a b => [encRR 0x36 p d (k5 a) b 3]
  | .mtaskAttach p d a b => [encRR 0x36 p d (k5 a) b 4]
  | .mtaskAppend p d a b => [encRR 0x36 p d (k5 a) b 4]
  | .mtaskDetach p d a b => [encRR 0x36 p d (k5 a) b 4]
  | .mpath p d a b => [encRR 0x36 p d (k5 a) b 5]
  | .tidset p a b => [encRR 0x38 p 0 a (k5 b) 0]
  | .tidget p a b => [encRR 0x38 p 0 a (k5 b) 1]
  | .tidinv p a => [encRR 0x38 p 0 a 0 2]
  | .srrd p d sel => [encRI 0x3A p d 0 sel]
  | .srwr p a sel => [encRI 0x3B p 0 a sel]
  | .eret p => [encRR 0x3C p 0 0 0 0]
  | .evt p a => [encRR 0x3C p 0 a 0 1]
  | .rdtime p d => [encRR 0x3C p d 0 0 2]
  | .ident p d => [encRR 0x3C p d 0 0 3]
  | .peek o => encActor 0x01 o
  | .adv o => encActor 0x02 o
  | .put o => encActor 0x03 o
  | .padv o => encActor 0x04 o
  | .hrd o => encActor 0x05 o
  | .hwr o => encActor 0x06 o
  | .qrd o => encActor 0x07 o
  | .qwr o => encActor 0x08 o
  | .const o => encActor 0x09 o
  | .consth o => encActor 0x0A o
  | .laneid o => encActor 0x0B o
  | .tagrd o => encActor 0x0C o
  | .tagrdKind o => encActor 0x0C o
  | .maskrd o => encActor 0x0D o
  | .maskset o => encActor 0x0E o
  | .iadd o => encActor 0x10 o
  | .isub o => encActor 0x11 o
  | .imul o => encActor 0x12 o
  | .imulh o => encActor 0x13 o
  | .iand o => encActor 0x14 o
  | .ior o => encActor 0x15 o
  | .ixor o => encActor 0x16 o
  | .ishl o => encActor 0x17 o
  | .ishr o => encActor 0x18 o
  | .isar o => encActor 0x19 o
  | .imin o => encActor 0x1A o
  | .imax o => encActor 0x1B o
  | .iabs o => encActor 0x1C o
  | .ineg o => encActor 0x1D o
  | .isatadd o => encActor 0x1E o
  | .isatsub o => encActor 0x1F o
  | .fadd o => encActor 0x20 o
  | .fsub o => encActor 0x21 o
  | .fmul o => encActor 0x22 o
  | .ffma o => encActor 0x23 o
  | .fmin o => encActor 0x24 o
  | .fmax o => encActor 0x25 o
  | .fabs o => encActor 0x26 o
  | .fneg o => encActor 0x27 o
  | .frcp o => encActor 0x28 o
  | .frsq o => encActor 0x29 o
  | .fexp2 o => encActor 0x2A o
  | .flog2 o => encActor 0x2B o
  | .ftanh o => encActor 0x2C o
  | .fsinpi o => encActor 0x2D o
  | .fcospi o => encActor 0x2E o
  | .frnd o => encActor 0x2F o
  | .icmp o => encActor 0x30 o
  | .fcmp o => encActor 0x31 o
  | .sel o => encActor 0x32 o
  | .actorPand o => encActor 0x33 o
  | .actorPor o => encActor 0x34 o
  | .actorPnot o => encActor 0x35 o
  | .anyl o => encActor 0x36 o
  | .alll o => encActor 0x37 o
  | .cvtfi o => encActor 0x38 o
  | .cvtif o => encActor 0x39 o
  | .cvtfb o => encActor 0x3A o
  | .cvtbf o => encActor 0x3B o
  | .pack o => encActor 0x3C o
  | .unpack o => encActor 0x3D o
  | .shuf o => encActor 0x40 o
  | .bcast o => encActor 0x41 o
  | .rotl o => encActor 0x42 o
  | .rsum o => encActor 0x43 o
  | .rmax o => encActor 0x44 o
  | .rmin o => encActor 0x45 o
  | .scan o => encActor 0x46 o
  | .compact o => encActor 0x47 o
  | .expand o => encActor 0x48 o
  | .spld o => encActor 0x50 o
  | .spst o => encActor 0x51 o
  | .spldsyn o => encActor 0x52 o
  | .spred o => encActor 0x53 o
  | .tidld o => encActor 0x58 o
  | .emitctl o => encActor 0x60 o
  | .mark o => encActor 0x61 o
  | .fault o => encActor 0x62 o
  | .callreq o => encActor 0x63 o
  | .actorEvt o => encActor 0x64 o
  | .mvsplit o => encActor 0x68 o
  | .qpscale o => encActor 0x69 o
  | .zigzag o => encActor 0x6A o
  | .erracc o => encActor 0x6B o
  | _ => []

/-- The bytes of an instruction as memory holds them (R212). -/
def encodeBytes (i : Instr) : List Byte := (encode i).flatMap fun w => leBytes 4 w.toNat

/-- The length of an instruction in bytes (R212). -/
def instrBytes : Instr → Nat
  | .sspec .. => 8
  | .scopy .. => 8
  | .li .. => 8
  | _ => 4

end Sys2Proof
end

