-- ==== Sys2Proof/Machine/Maps.lean ====
section
/-! DEFINITION. Reading and writing the sparse tables of the state, and the bit helpers that every
meaning uses. -/

namespace Sys2Proof.Machine

/-- The entry of a key. -/
def mget {α : Type} : SMap α → Nat → Option α
  | [], _ => none
  | (k, v) :: m, i => if i = k then some v else mget m i

/-- Sets the entry of a key, keeping the keys rising. -/
def mset {α : Type} : SMap α → Nat → α → SMap α
  | [], i, v => [(i, v)]
  | (k, w) :: m, i, v =>
    if i < k then (i, v) :: (k, w) :: m
    else if i = k then (i, v) :: m
    else (k, w) :: mset m i v

/-- Removes the entry of a key. -/
def mdel {α : Type} : SMap α → Nat → SMap α
  | [], _ => []
  | (k, v) :: m, i => if k = i then mdel m i else (k, v) :: mdel m i

/-- The entry of a key, or a default where it is absent. -/
def mgetD {α : Type} (m : SMap α) (i : Nat) (d : α) : α := (mget m i).getD d

/-- Changes the entry of a key where it is present. -/
def mupd {α : Type} (m : SMap α) (i : Nat) (f : α → α) : SMap α :=
  match mget m i with
  | some v => mset m i (f v)
  | none => m

/-- Sets the entry of a key, or removes it where the value is the default. -/
def mput {α : Type} [DecidableEq α] (m : SMap α) (i : Nat) (v d : α) : SMap α :=
  if v = d then mdel m i else mset m i v

/-- Adds a number to a rising list. -/
def sadd : List Nat → Nat → List Nat
  | [], i => [i]
  | k :: l, i => if i < k then i :: k :: l else if i = k then k :: l else k :: sadd l i

/-- Removes a number from a list. -/
def sdel : List Nat → Nat → List Nat
  | [], _ => []
  | k :: l, i => if k = i then sdel l i else k :: sdel l i

/-- Adds the numbers `i`, `i + 1`, …, `i + n - 1`. -/
def saddN (l : List Nat) (i : Nat) : Nat → List Nat
  | 0 => l
  | n + 1 => sadd (saddN l i n) (i + n)

/-- Removes the numbers `i`, …, `i + n - 1`. -/
def sdelN (l : List Nat) (i n : Nat) : List Nat := l.filter fun j => !(i ≤ j && j < i + n)

/-- Adds or removes. -/
def sput (l : List Nat) (i : Nat) (on : Bool) : List Nat := if on then sadd l i else sdel l i

/-- The keys of a table. -/
def mkeys {α : Type} (m : SMap α) : List Nat := m.map (·.1)

/-- Sign extension of the low `n` bits of a number to an integer. -/
def sgn (n x : Nat) : Int :=
  let y := x % 2 ^ n
  if 2 * y < 2 ^ n then (y : Int) else (y : Int) - 2 ^ n

/-- An integer modulo `2^n`. -/
def wrapN (n : Nat) (x : Int) : Nat := (x % (2 ^ n : Int)).toNat

/-- An integer held within bounds. -/
def clampI (lo hi x : Int) : Int := if x < lo then lo else if hi < x then hi else x

/-- Ceiling division of naturals. -/
def cdiv (a b : Nat) : Nat := (a + b - 1) / b

/-- The numbers from `lo` up, `n` of them. -/
def rangeFrom (lo n : Nat) : List Nat := (List.range n).map (· + lo)

/-- Replaces bits `lo` to `lo + n - 1` of a number. -/
def setField (x lo n v : Nat) : Nat :=
  x - natField x lo n <<< lo + (v % 2 ^ n) <<< lo

/-- Sets one bit of a 64-bit word. -/
def setBit (x : W64) (i : Nat) (b : Bool) : W64 :=
  if b then x ||| (1#64 <<< i) else x &&& ~~~(1#64 <<< i)

/-- A bit of a list of lane values etc., by position, 0 beyond the end. -/
def nth0 (l : List Nat) (i : Nat) : Nat := l.getD i 0

/-- Replaces an element of a list. -/
def lset {α : Type} : List α → Nat → α → List α
  | [], _, _ => []
  | _ :: l, 0, v => v :: l
  | a :: l, i + 1, v => a :: lset l i v

end Sys2Proof.Machine
end

