-- ==== Sys2Proof/Machine/Num.lean ====
section
/-! DEFINITION. Number formats and exact arithmetic (R58 to R84): a value is a sign, a natural
mantissa and a power of two, and every rounding is done once at the end. -/

namespace Sys2Proof.Machine

/-- An exact value: `(-1)^neg × m × 2^e`, an infinity, or NaN. -/
inductive Num where
  | nan
  | inf (neg : Bool)
  | fin (neg : Bool) (m : Nat) (e : Int)
  deriving DecidableEq, Repr

/-- +0. -/
def Num.zero : Num := .fin false 0 0
/-- An integer. -/
def Num.ofInt (x : Int) : Num := .fin (x < 0) x.natAbs 0
/-- `m × 2^e`. -/
def Num.dy (m : Nat) (e : Int) : Num := .fin false m e

/-- The sign. -/
def Num.isNeg : Num → Bool
  | .nan => false
  | .inf n => n
  | .fin n _ _ => n
/-- Whether it is a zero. -/
def Num.isZero : Num → Bool
  | .fin _ m _ => m == 0
  | _ => false
/-- Whether it is NaN. -/
def Num.isNan : Num → Bool
  | .nan => true
  | _ => false
/-- Whether it is finite. -/
def Num.isFin : Num → Bool
  | .fin .. => true
  | _ => false
/-- The negated value. -/
def Num.neg : Num → Num
  | .nan => .nan
  | .inf n => .inf (!n)
  | .fin n m e => .fin (!n) m e
/-- The magnitude. -/
def Num.abs : Num → Num
  | .nan => .nan
  | .inf _ => .inf false
  | .fin _ m e => .fin false m e
/-- With the sign given. -/
def Num.withSign (neg : Bool) : Num → Num
  | .nan => .nan
  | .inf _ => .inf neg
  | .fin _ m e => .fin neg m e
/-- Times a power of two. -/
def Num.scale (k : Int) : Num → Num
  | .fin n m e => .fin n m (e + k)
  | x => x

/-- The exact product (R71). -/
def Num.mul : Num → Num → Num
  | .nan, _ => .nan
  | _, .nan => .nan
  | .inf a, .inf b => .inf (a != b)
  | .inf a, .fin b m _ => if m = 0 then .nan else .inf (a != b)
  | .fin a m _, .inf b => if m = 0 then .nan else .inf (a != b)
  | .fin a m e, .fin b n f => .fin (a != b) (m * n) (e + f)

/-- The signed mantissa at exponent `f`, for `f` at most the value's own exponent. -/
def Num.at (neg : Bool) (m : Nat) (e f : Int) : Int :=
  let v : Int := m <<< (e - f).toNat
  if neg then -v else v

/-- The exact sum.  A zero sum of opposite signs is -0 only under RDN (R75, R81). -/
def Num.addM (rdn : Bool) : Num → Num → Num
  | .nan, _ => .nan
  | _, .nan => .nan
  | .inf a, .inf b => if a = b then .inf a else .nan
  | .inf a, .fin .. => .inf a
  | .fin .., .inf b => .inf b
  | .fin a m e, .fin b n f =>
    if m = 0 && n = 0 then .fin (if a = b then a else rdn) 0 0
    else if m = 0 then .fin b n f
    else if n = 0 then .fin a m e
    else
      let k := if e ≤ f then e else f
      let s := Num.at a m e k + Num.at b n f k
      if s = 0 then .fin rdn 0 0 else .fin (s < 0) s.natAbs k

/-- The exact sum under every mode but RDN. -/
def Num.add (x y : Num) : Num := Num.addM false x y
/-- The exact difference. -/
def Num.sub (x y : Num) : Num := Num.add x y.neg

/-- The order of two finite or infinite values: -1, 0, 1; zeros are equal. -/
def Num.cmp : Num → Num → Int
  | .nan, _ => 0
  | _, .nan => 0
  | .inf a, .inf b => if a = b then 0 else if a then -1 else 1
  | .inf a, .fin .. => if a then -1 else 1
  | .fin .., .inf b => if b then 1 else -1
  | .fin a m e, .fin b n f =>
    let k := if e ≤ f then e else f
    let d := Num.at a m e k - Num.at b n f k
    if d < 0 then -1 else if d = 0 then 0 else 1

/-- Strict order of numbers. -/
def Num.lt (x y : Num) : Bool := !x.isNan && !y.isNan && Num.cmp x y == -1
/-- Order of numbers. -/
def Num.le (x y : Num) : Bool := !x.isNan && !y.isNan && Num.cmp x y != 1

/-- The mantissa rounded to a multiple of `2^q` by a mode of R81. -/
def roundQ (mode : Nat) (neg : Bool) (m : Nat) (e q : Int) : Nat :=
  if q ≤ e then m <<< (e - q).toNat
  else
    let sh := (q - e).toNat
    let t := m >>> sh
    let r := m % 2 ^ sh
    let up := match mode with
      | 0 => 2 * r > 2 ^ sh || (2 * r == 2 ^ sh && t % 2 == 1)
      | 1 => false
      | 2 => !neg && r != 0
      | 3 => neg && r != 0
      | _ => 2 * r ≥ 2 ^ sh
    if up then t + 1 else t

/-- The largest integer not above a finite value. -/
def Num.floor : Num → Int
  | .fin n m e =>
    let t : Int := roundQ (if n then 2 else 1) false m e 0
    if n then -t else t
  | _ => 0

/-- A floating-point element format (R60). -/
structure FFmt where
  eb : Nat
  mb : Nat
  bias : Nat
  /-- 0: infinities and NaNs at the top exponent; 1: E4M3; 2: neither. -/
  special : Nat
  deriving DecidableEq, Repr

/-- FP32. -/
def fp32 : FFmt := ⟨8, 23, 127, 0⟩
/-- FP19. -/
def fp19 : FFmt := ⟨8, 10, 127, 0⟩
/-- BF16. -/
def bf16 : FFmt := ⟨8, 7, 127, 0⟩
/-- FP16. -/
def fp16 : FFmt := ⟨5, 10, 15, 0⟩
/-- E4M3. -/
def e4m3 : FFmt := ⟨4, 3, 7, 1⟩
/-- E5M2. -/
def e5m2 : FFmt := ⟨5, 2, 15, 0⟩
/-- E3M2. -/
def e3m2 : FFmt := ⟨3, 2, 3, 2⟩
/-- E2M3. -/
def e2m3 : FFmt := ⟨2, 3, 1, 2⟩
/-- E2M1. -/
def e2m1 : FFmt := ⟨2, 1, 1, 2⟩

/-- The exact value of an element (R60). -/
def unpackF (f : FFmt) (x : Nat) : Num :=
  let s := natField x (f.eb + f.mb) 1 == 1
  let e := natField x f.mb f.eb
  let m := natField x 0 f.mb
  let top := 2 ^ f.eb - 1
  if f.special = 0 && e = top then (if m = 0 then .inf s else .nan)
  else if f.special = 1 && e = top && m = 2 ^ f.mb - 1 then .nan
  else if e = 0 then .fin s m (1 - (f.bias : Int) - f.mb)
  else .fin s (2 ^ f.mb + m) ((e : Int) - f.bias - f.mb)

/-- The bits of the largest finite magnitude. -/
def FFmt.maxMag (f : FFmt) : Nat :=
  match f.special with
  | 0 => (2 ^ f.eb - 1) <<< f.mb - 1
  | 1 => 2 ^ (f.eb + f.mb) - 2
  | _ => 2 ^ (f.eb + f.mb) - 1

/-- The sign bit of a format. -/
def FFmt.signBit (f : FFmt) (neg : Bool) : Nat := if neg then 2 ^ (f.eb + f.mb) else 0

/-- The magnitude bits of a finite value rounded by a mode, which may pass the largest finite. -/
def packMag (f : FFmt) (mode : Nat) (neg : Bool) (m : Nat) (e : Int) : Nat :=
  if m = 0 then 0
  else
    let top : Int := (m.log2 : Int) + e
    let emin : Int := 1 - (f.bias : Int)
    let q : Int := (if top < emin then emin else top) - f.mb
    let t := roundQ mode neg m e q
    if t < 2 ^ f.mb then t
    else ((q + f.mb + f.bias).toNat) <<< f.mb + (t - 2 ^ f.mb)

/-- The result beyond the largest finite value, by mode: true for an infinity (R81). -/
def overflowsToInf (mode : Nat) (neg : Bool) : Bool :=
  match mode with
  | 0 => true
  | 1 => false
  | 2 => !neg
  | 3 => neg
  | _ => true

/-- The canonical NaN of FP32 and BF16 (R80). -/
def FFmt.qnan (f : FFmt) : Nat := ((2 ^ f.eb - 1) <<< f.mb) + 2 ^ (f.mb - 1)

/-- A value rounded once to a format with infinities (R75, R80, R81). -/
def packF (f : FFmt) (mode : Nat) : Num → Nat
  | .nan => f.qnan
  | .inf n => f.signBit n + (2 ^ f.eb - 1) <<< f.mb
  | .fin n m e =>
    let b := packMag f mode n m e
    if b ≤ f.maxMag then f.signBit n + b
    else if overflowsToInf mode n then f.signBit n + (2 ^ f.eb - 1) <<< f.mb
    else f.signBit n + f.maxMag

/-- RoundFP32 as bits (R75). -/
def roundFP32 (x : Num) : W32 := BitVec.ofNat 32 (packF fp32 0 x)
/-- RoundFP32 as a value. -/
def rn (x : Num) : Num := unpackF fp32 (packF fp32 0 x)
/-- The value of an FP32 word. -/
def ofFP32 (x : W32) : Num := unpackF fp32 x.toNat

/-- FMax (R255): NaN wins; +0 is greater than -0. -/
def numMax (x y : Num) : Num :=
  if x.isNan || y.isNan then .nan
  else if Num.cmp x y = 1 then x
  else if Num.cmp x y = -1 then y
  else if x.isNeg then y else x
/-- FMin: NaN wins; -0 is below +0 (R298). -/
def numMin (x y : Num) : Num :=
  if x.isNan || y.isNan then .nan
  else if Num.cmp x y = -1 then x
  else if Num.cmp x y = 1 then y
  else if x.isNeg then x else y

/-- An integral value by the flags of FRND (R298): floor, ceiling, toward zero, nearest even.  The
sign of a zero is the sign of the operand. -/
def numRnd (flags : Nat) : Num → Num
  | .fin n m e =>
    let mode := match flags with | 0 => 3 | 1 => 2 | 2 => 1 | _ => 0
    .fin n (roundQ mode n m e 0) 0
  | x => x

/-- A value rounded to an integer by a mode and clamped (R82, R83); NaN gives 0. -/
def numToInt (mode : Nat) (lo hi : Int) : Num → Int
  | .nan => 0
  | .inf n => if n then lo else hi
  | .fin n m e =>
    let t : Int := roundQ mode n m e 0
    clampI lo hi (if n then -t else t)

/-! ## The 24 formats (R58-R70) -/

/-- The float format of an element format code, MX element formats included. -/
def ffmtOf : Nat → Option FFmt
  | 0 => some fp32 | 1 => some fp19 | 2 => some bf16 | 3 => some fp16
  | 4 => some e4m3 | 5 => some e5m2 | 6 => some e3m2 | 7 => some e2m3 | 8 => some e2m1
  | 9 => some e4m3 | 10 => some e5m2 | 11 => some e3m2 | 12 => some e2m3 | 13 => some e2m1
  | _ => none

/-- Element bits of a format (R58). -/
def fmtBits : Nat → Nat
  | 0 => 32 | 1 => 19 | 2 => 16 | 3 => 16 | 4 => 8 | 5 => 8 | 6 => 6 | 7 => 6 | 8 => 4
  | 9 => 8 | 10 => 8 | 11 => 6 | 12 => 6 | 13 => 4 | 14 => 8 | 15 => 8 | 16 => 8 | 17 => 4
  | 18 => 4 | 19 => 16 | 20 => 4 | 21 => 4 | 22 => 16 | 23 => 1 | _ => 0

/-- Bits of an element's row-major container (R61). -/
def fmtBox : Nat → Nat
  | 1 => 32 | 6 => 8 | 7 => 8 | 11 => 8 | 12 => 8
  | f => fmtBits f

/-- Scale block length of a format; 0 for a format with no scale (R58). -/
def fmtBlock : Nat → Nat
  | 9 => 32 | 10 => 32 | 11 => 32 | 12 => 32 | 13 => 32 | 14 => 32
  | 20 => 64 | 21 => 64 | 22 => 16 | 23 => 64 | _ => 0

/-- Integer-path formats (R72). -/
def fmtInt (f : Nat) : Bool := 15 ≤ f && f ≤ 19

/-- Planes of a weight format (R77). -/
def fmtPlanes : Nat → Nat
  | 0 => 24 | 1 => 11 | 3 => 11 | 2 => 8 | 4 => 4 | 7 => 4 | 9 => 4 | 12 => 4
  | 5 => 3 | 6 => 3 | 10 => 3 | 11 => 3 | 8 => 2 | 13 => 2 | 15 => 8 | 16 => 8 | 14 => 8
  | 17 => 4 | 18 => 4 | 20 => 4 | 21 => 4 | 19 => 16 | 22 => 16 | _ => 1

/-- The Q16N codebook (R66), in units of 1/64. -/
def q16n : List Int :=
  [-64, -44, -32, -24, -18, -12, -6, 0, 5, 10, 16, 22, 28, 36, 48, 64]

/-- QPSCALE × 64 as mantissa and exponent (R69). -/
def qpScale (qp : Nat) : Num :=
  let q := if qp > 63 then 63 else qp
  .fin false ([40, 45, 51, 57, 64, 72].getD (q % 6) 0) ((q / 6 : Nat) - 6 : Int)

/-- The scale of a block as stored: E8M0, Q16N code with superblock, BF16, QP byte, or none. -/
structure Scale where
  raw : Nat := 0
  super : W32 := 0
  deriving DecidableEq, Repr

/-- The value of an element before its scale, as the bits of its container's element (R60-R70). -/
def elemRaw (f x : Nat) : Num :=
  match ffmtOf f with
  | some ff => unpackF ff x
  | none =>
    match f with
    | 14 => (Num.ofInt (sgn 8 x)).scale (-6)
    | 15 => Num.ofInt (sgn 8 x)
    | 16 => Num.ofInt (x % 256)
    | 17 => Num.ofInt (sgn 4 x)
    | 18 => Num.ofInt (x % 16)
    | 19 => Num.ofInt (sgn 16 x)
    | 20 => (Num.ofInt (q16n.getD (x % 16) 0)).scale (-6)
    | 21 => (Num.ofInt (q16n.getD (x % 16) 0)).scale (-6)
    | 22 => Num.ofInt (sgn 16 x)
    | _ => .fin (x % 2 == 1) 1 0

/-- The exact value of an element with its scale (R63-R70). -/
def elemVal (f x : Nat) (s : Scale) : Num :=
  let v := elemRaw f x
  match fmtBlock f with
  | 32 => if s.raw = 0xFF then .nan else v.scale ((s.raw : Int) - 127)
  | 16 => Num.mul v (qpScale s.raw)
  | 64 =>
    if f = 20 then Num.mul (Num.mul v (Num.dy (s.raw + 1) (-8))) (ofFP32 s.super)
    else Num.mul v (unpackF bf16 s.raw)
  | _ => v

/-- A weight read with `q` planes (R79): leading planes only, of special values too (DEDUCED, log 59: the rule excepts
none, so a NaN may become a finite value or an infinity). -/
def cutPlanes (f q x : Nat) : Nat :=
  let p := fmtPlanes f
  if q = 0 || p ≤ q || f == 20 || f == 21 || f == 23 || f == 8 || f == 13 then x
  else
    let drop := p - q
    (x >>> drop) <<< drop

/-- SatAddINT32 (R73): the clamped sum and whether it was clamped. -/
def satAdd32 (acc x : Int) : Int × Bool :=
  let s := acc + x
  (clampI (-(2 ^ 31)) (2 ^ 31 - 1) s, decide (s < -(2 ^ 31) ∨ 2 ^ 31 - 1 < s))

/-- A matrix sum (R73) from an accumulator word over products in order: FP32 path. -/
def dotF : Num → List (Num × Num) → Num
  | acc, [] => acc
  | acc, (a, b) :: l => dotF (rn (Num.add acc (Num.mul a b))) l

/-- A matrix sum (R73): integer path, with the saturation flag. -/
def dotI : Int → Bool → List (Int × Int) → Int × Bool
  | acc, sat, [] => (acc, sat)
  | acc, sat, (a, b) :: l =>
    let (s, o) := satAdd32 acc (a * b)
    dotI s (sat || o) l

/-- The integer of an integer-path element. -/
def elemInt (f x : Nat) : Int :=
  match f with
  | 15 => sgn 8 x
  | 16 => x % 256
  | 17 => sgn 4 x
  | 18 => x % 16
  | _ => sgn 16 x

/-- The zero-tile rule on one sum (R76), for the partners of the skipped steps. -/
def skipF (acc : Num) (partners : List Num) : Num :=
  if acc.isNan || partners.any (fun p => !p.isFin) then .nan
  else if acc.isZero && acc.isNeg && partners.any (fun p => !p.isNeg) then .zero
  else acc

/-! ## Smithy conversion (R83) -/

/-- The NaN that a target format receives. -/
def fmtNan : Nat → Nat
  | 0 => 0x7FC00000 | 1 => 0x3FE00 | 2 => 0x7FC0 | 3 => 0x7E00 | 4 => 0x7F | 9 => 0x7F | 5 => 0x7E
  | 10 => 0x7E | _ => 0

/-- Bounds of an integer target. -/
def fmtRange : Nat → Int × Int
  | 14 => (-128, 127) | 15 => (-128, 127) | 16 => (0, 255) | 17 => (-8, 7) | 18 => (0, 15)
  | _ => (-32768, 32767)

/-- A value as the element bits of a target format (R83), the MX scale already divided out. -/
def convertTo (f mode : Nat) (sat : Bool) (v : Num) : Nat :=
  match ffmtOf f with
  | some ff =>
    let beyond (n : Bool) : Nat :=
      if sat || ff.special = 2 then ff.signBit n + ff.maxMag
      else if ff.special = 1 then 0x7F
      else ff.signBit n + (2 ^ ff.eb - 1) <<< ff.mb
    match v with
    | .nan => fmtNan f
    | .inf n => beyond n
    | .fin n m e =>
      let b := packMag ff mode n m e
      if b ≤ ff.maxMag then ff.signBit n + b else beyond n
  | none =>
    let (lo, hi) := fmtRange f
    let w := if f = 14 then v.scale 6 else v
    wrapN (fmtBits f) (numToInt mode lo hi w)

/-- The MX scale byte of a block and its exponent X (R83), `bits` being its source elements.  The X of a block that holds a
NaN is a free value (log 59); an infinite M gives X = 127. -/
def mxScale (f : Nat) (bits : List Nat) (block : List Num) : Nat × Int :=
  if block.any Num.isNan then (0xFF, Config.nanBlockX f bits)
  else if block.all Num.isZero then (0, -127)
  else
    let e : Int := match f with
      | 9 => 8 | 10 => 15 | 11 => 4 | 12 => 2 | 13 => 2 | _ => 0
    let m := block.foldl (fun a b => numMax a b.abs) .zero
    let x : Int := match m with
      | .fin _ n k => clampI (-127) 127 ((n.log2 : Int) + k - e)
      | _ => 127
    ((x + 127).toNat, x)

end Sys2Proof.Machine
end

