-- ==== Sys2Proof/Machine/Trans.lean ====
section
/-! DEFINITION. The transcendental algorithms of R85 to R91 and their fixed tables. -/

namespace Sys2Proof.Machine

/-- 2^(j/64) (R85). -/
def tabT2 : List Nat :=
  [0x3F800000, 0x3F8164D2, 0x3F82CD87, 0x3F843A29, 0x3F85AAC3, 0x3F871F62, 0x3F88980F, 0x3F8A14D5,
   0x3F8B95C2, 0x3F8D1ADF, 0x3F8EA43A, 0x3F9031DC, 0x3F91C3D3, 0x3F935A2B, 0x3F94F4F0, 0x3F96942D,
   0x3F9837F0, 0x3F99E046, 0x3F9B8D3A, 0x3F9D3EDA, 0x3F9EF532, 0x3FA0B051, 0x3FA27043, 0x3FA43516,
   0x3FA5FED7, 0x3FA7CD94, 0x3FA9A15B, 0x3FAB7A3A, 0x3FAD583F, 0x3FAF3B79, 0x3FB123F6, 0x3FB311C4]
  ++
  [0x3FB504F3, 0x3FB6FD92, 0x3FB8FBAF, 0x3FBAFF5B, 0x3FBD08A4, 0x3FBF179A, 0x3FC12C4D, 0x3FC346CD,
   0x3FC5672A, 0x3FC78D75, 0x3FC9B9BE, 0x3FCBEC15, 0x3FCE248C, 0x3FD06334, 0x3FD2A81E, 0x3FD4F35B,
   0x3FD744FD, 0x3FD99D16, 0x3FDBFBB8, 0x3FDE60F5, 0x3FE0CCDF, 0x3FE33F89, 0x3FE5B907, 0x3FE8396A,
   0x3FEAC0C7, 0x3FED4F30, 0x3FEFE4BA, 0x3FF28177, 0x3FF5257D, 0x3FF7D0DF, 0x3FFA83B3, 0x3FFD3E0C]

/-- 1/(1 + j/64) (R85). -/
def tabRc : List Nat :=
  [0x3F800000, 0x3F7C0FC1, 0x3F783E10, 0x3F74898D, 0x3F70F0F1, 0x3F6D7304, 0x3F6A0EA1, 0x3F66C2B4,
   0x3F638E39, 0x3F607038, 0x3F5D67C9, 0x3F5A740E, 0x3F579436, 0x3F54C77B, 0x3F520D21, 0x3F4F6475,
   0x3F4CCCCD, 0x3F4A4588, 0x3F47CE0C, 0x3F4565C8, 0x3F430C31, 0x3F40C0C1, 0x3F3E82FA, 0x3F3C5264,
   0x3F3A2E8C, 0x3F381703, 0x3F360B61, 0x3F340B41, 0x3F321643, 0x3F302C0B, 0x3F2E4C41, 0x3F2C7692]
  ++
  [0x3F2AAAAB, 0x3F28E83F, 0x3F272F05, 0x3F257EB5, 0x3F23D70A, 0x3F2237C3, 0x3F20A0A1, 0x3F1F1166,
   0x3F1D89D9, 0x3F1C09C1, 0x3F1A90E8, 0x3F191F1A, 0x3F17B426, 0x3F164FDA, 0x3F14F209, 0x3F139A86,
   0x3F124925, 0x3F10FDBC, 0x3F0FB824, 0x3F0E7835, 0x3F0D3DCB, 0x3F0C08C1, 0x3F0AD8F3, 0x3F09AE41,
   0x3F088889, 0x3F0767AB, 0x3F064B8A, 0x3F053408, 0x3F042108, 0x3F03126F, 0x3F020821, 0x3F010204]

/-- −log2 of `tabRc` (R85). -/
def tabLg : List Nat :=
  [0x00000000, 0x3CB73CB3, 0x3D35D690, 0x3D8759C9, 0x3DB31FB7, 0x3DDE420E, 0x3E0462C4, 0x3E195751,
   0x3E2E00D1, 0x3E42615F, 0x3E567AEF, 0x3E6A4F70, 0x3E7DE0B5, 0x3E88983F, 0x3E92203D, 0x3E9B8925,
   0x3EA4D3C2, 0x3EAE00D1, 0x3EB71110, 0x3EC0052D, 0x3EC8DDD3, 0x3ED19BAF, 0x3EDA3F60, 0x3EE2C97E,
   0x3EEB3A9E, 0x3EF39355, 0x3EFBD42A, 0x3F01FED4, 0x3F060828, 0x3F0A0650, 0x3F0DF98A, 0x3F11E20E]
  ++
  [0x3F15C01A, 0x3F1993E4, 0x3F1D5DA0, 0x3F211D84, 0x3F24D3C3, 0x3F28808D, 0x3F2C2410, 0x3F2FBE7F,
   0x3F335004, 0x3F36D8CA, 0x3F3A58FE, 0x3F3DD0C9, 0x3F41404E, 0x3F44A7BB, 0x3F480731, 0x3F4B5ED6,
   0x3F4EAECF, 0x3F51F740, 0x3F553847, 0x3F58720A, 0x3F5BA4A5, 0x3F5ED038, 0x3F61F4E5, 0x3F6512C6,
   0x3F6829FA, 0x3F6B3AA0, 0x3F6E44CF, 0x3F7148A2, 0x3F744636, 0x3F773DA2, 0x3F7A2F03, 0x3F7D1A71]

/-- 1/sqrt over two binades (R85). -/
def tabRs : List Nat :=
  [0x3F7E05EC, 0x3F7A33F9, 0x3F768CDC, 0x3F730D8A, 0x3F6FB345, 0x3F6C7B90, 0x3F69642A, 0x3F666B02,
   0x3F638E39, 0x3F60CC16, 0x3F5E2305, 0x3F5B9193, 0x3F59166B, 0x3F56B051, 0x3F545E22, 0x3F521ED0,
   0x3F4FF162, 0x3F4DD4ED, 0x3F4BC89B, 0x3F49CBA2, 0x3F47DD45, 0x3F45FCD6, 0x3F4429AF, 0x3F426337,
   0x3F40A8DE, 0x3F3EFA1C, 0x3F3D5671, 0x3F3BBD67, 0x3F3A2E8C, 0x3F38A975, 0x3F372DBF, 0x3F35BB09]
  ++
  [0x3F339F19, 0x3F30EB96, 0x3F2E565C, 0x3F2BDD46, 0x3F297E62, 0x3F2737F0, 0x3F250855, 0x3F22EE1D,
   0x3F20E7F5, 0x3F1EF4A4, 0x3F1D130E, 0x3F1B422C, 0x3F19810C, 0x3F17CED0, 0x3F162AA9, 0x3F1493D9,
   0x3F1309AF, 0x3F118B87, 0x3F1018C6, 0x3F0EB0E0, 0x3F0D534F, 0x3F0BFF97, 0x3F0AB544, 0x3F0973E8,
   0x3F083B1E, 0x3F070A87, 0x3F05E1C7, 0x3F04C08B, 0x3F03A682, 0x3F029362, 0x3F0186E2, 0x3F0080C1]

/-- sin(πn/32) (R85). -/
def tabSn : List Nat :=
  [0x00000000, 0x3DC8BD36, 0x3E47C5C2, 0x3E94A031, 0x3EC3EF15, 0x3EF15AEA, 0x3F0E39DA, 0x3F226799,
   0x3F3504F3, 0x3F45E403, 0x3F54DB31, 0x3F61C598, 0x3F6C835E, 0x3F74FA0B, 0x3F7B14BE, 0x3F7EC46D,
   0x3F800000, 0x3F7EC46D, 0x3F7B14BE, 0x3F74FA0B, 0x3F6C835E, 0x3F61C598, 0x3F54DB31, 0x3F45E403,
   0x3F3504F3, 0x3F226799, 0x3F0E39DA, 0x3EF15AEA, 0x3EC3EF15, 0x3E94A031, 0x3E47C5C2, 0x3DC8BD36]
  ++
  [0x00000000, 0xBDC8BD36, 0xBE47C5C2, 0xBE94A031, 0xBEC3EF15, 0xBEF15AEA, 0xBF0E39DA, 0xBF226799,
   0xBF3504F3, 0xBF45E403, 0xBF54DB31, 0xBF61C598, 0xBF6C835E, 0xBF74FA0B, 0xBF7B14BE, 0xBF7EC46D,
   0xBF800000, 0xBF7EC46D, 0xBF7B14BE, 0xBF74FA0B, 0xBF6C835E, 0xBF61C598, 0xBF54DB31, 0xBF45E403,
   0xBF3504F3, 0xBF226799, 0xBF0E39DA, 0xBEF15AEA, 0xBEC3EF15, 0xBE94A031, 0xBE47C5C2, 0xBDC8BD36]

/-- cos(πn/32) (R85). -/
def tabCs : List Nat :=
  [0x3F800000, 0x3F7EC46D, 0x3F7B14BE, 0x3F74FA0B, 0x3F6C835E, 0x3F61C598, 0x3F54DB31, 0x3F45E403,
   0x3F3504F3, 0x3F226799, 0x3F0E39DA, 0x3EF15AEA, 0x3EC3EF15, 0x3E94A031, 0x3E47C5C2, 0x3DC8BD36,
   0x00000000, 0xBDC8BD36, 0xBE47C5C2, 0xBE94A031, 0xBEC3EF15, 0xBEF15AEA, 0xBF0E39DA, 0xBF226799,
   0xBF3504F3, 0xBF45E403, 0xBF54DB31, 0xBF61C598, 0xBF6C835E, 0xBF74FA0B, 0xBF7B14BE, 0xBF7EC46D]
  ++
  [0xBF800000, 0xBF7EC46D, 0xBF7B14BE, 0xBF74FA0B, 0xBF6C835E, 0xBF61C598, 0xBF54DB31, 0xBF45E403,
   0xBF3504F3, 0xBF226799, 0xBF0E39DA, 0xBEF15AEA, 0xBEC3EF15, 0xBE94A031, 0xBE47C5C2, 0xBDC8BD36,
   0x00000000, 0x3DC8BD36, 0x3E47C5C2, 0x3E94A031, 0x3EC3EF15, 0x3EF15AEA, 0x3F0E39DA, 0x3F226799,
   0x3F3504F3, 0x3F45E403, 0x3F54DB31, 0x3F61C598, 0x3F6C835E, 0x3F74FA0B, 0x3F7B14BE, 0x3F7EC46D]

/-- The value of an entry of a table. -/
def tab (t : List Nat) (j : Nat) : Num := unpackF fp32 (t.getD j 0)

/-- A finite non-zero value as mantissa in 1…2 with exponent: `m × 2^e`, sign dropped. -/
def normal (m : Nat) (e : Int) : Num × Int :=
  (.fin false m (-(m.log2 : Int)), e + m.log2)

/-- The integer part of `(x - 1) × k` for x in 1…2. -/
def stepOf (x : Num) (k : Nat) : Nat :=
  (Num.floor (Num.mul (Num.sub x (Num.dy 1 0)) (Num.ofInt k))).toNat

/-- One. -/
def one : Num := Num.dy 1 0
/-- An FP32 constant by its bits. -/
def fc (b : Nat) : Num := unpackF fp32 b
/-- RoundFP32(a + b × c), one rounding. -/
def mad (a b c : Num) : Num := rn (Num.add a (Num.mul b c))

/-- FEXP2 (R86). -/
def fexp2 (x : Num) : Num :=
  if x.isNan then .nan
  else if Num.le (Num.ofInt 128) x then .inf false
  else if Num.lt x (Num.ofInt (-150)) then .zero
  else
    let n := Num.floor (x.scale 6)
    let j := (n % 64).toNat
    let i := n / 64
    let f := Num.sub x ((Num.ofInt n).scale (-6))
    let q := mad (fc 0x3E75FDF0) f (fc 0x3D635847)
    let q := mad (fc 0x3F317218) f q
    let p := mad one f q
    let y := rn (Num.mul (tab tabT2 j) p)
    rn (y.scale i)

/-- FLOG2 (R87). -/
def flog2 (x : Num) : Num :=
  match x with
  | .nan => .nan
  | .inf n => if n then .nan else .inf false
  | .fin n m e =>
    if m = 0 then .inf true
    else if n then .nan
    else
      let (mm, ee) := normal m e
      let j := stepOf mm 64
      let t := rn (Num.sub (Num.mul mm (tab tabRc j)) one)
      let q := mad (fc 0x3EF6384A) t (fc 0xBEB8AA3B)
      let q := mad (fc 0xBF38AA3B) t q
      let q := mad (fc 0x3FB8AA3B) t q
      let s := rn (Num.mul t q)
      let u := rn (Num.add (Num.ofInt ee) (tab tabLg j))
      rn (Num.add u s)

/-- FRCP (R88). -/
def frcp (x : Num) : Num :=
  match x with
  | .nan => .nan
  | .inf n => .fin n 0 0
  | .fin n m e =>
    if m = 0 then .inf n
    else
      let (mm, ee) := normal m e
      let j := stepOf mm 64
      let t := rn (Num.sub one (Num.mul mm (tab tabRc j)))
      let q := rn (Num.add one t)
      let q := mad one t q
      let q := mad one t q
      let q := mad one t q
      let y := rn (Num.mul (tab tabRc j) q)
      rn ((y.scale (-ee)).withSign n)

/-- FRSQ (R89). -/
def frsq (x : Num) : Num :=
  match x with
  | .nan => .nan
  | .inf n => if n then .nan else .zero
  | .fin n m e =>
    if m = 0 then .inf n
    else if n then .nan
    else
      let (m1, e1) := normal m e
      let odd := e1 % 2 = 1
      let mm := if odd then m1.scale 1 else m1
      let ee := if odd then e1 - 1 else e1
      let j := if odd then 32 + stepOf m1 32 else stepOf m1 32
      let r := tab tabRs j
      let w := rn (Num.mul r r)
      let t := rn (Num.sub one (Num.mul mm w))
      let q := mad (Num.dy 5 (-4)) t (Num.dy 35 (-7))
      let q := mad (Num.dy 3 (-3)) t q
      let q := mad (Num.dy 1 (-1)) t q
      let q := mad one t q
      let y := rn (Num.mul r q)
      rn (y.scale (-(ee / 2)))

/-- FTANH (R90). -/
def ftanh (x : Num) : Num :=
  let s := x.isNeg
  let a := x.abs
  if x.isNan then .nan
  else if Num.le (Num.ofInt 9) a then one.withSign s
  else if Num.lt a (Num.dy 1 (-6)) then
    let x2 := rn (Num.mul x x)
    let q := mad one x2 (fc 0xBEAAAAAB)
    rn (Num.mul x q)
  else
    let v := rn (Num.mul a (fc 0x4038AA3B))
    let e := fexp2 v
    let d := rn (Num.add e one)
    let r := frcp d
    let y := rn (Num.sub one (r.scale 1))
    y.withSign (s != y.isNeg)

/-- The reduced arguments of R91: n, sn and cs. -/
def piSteps (a : Num) : Nat × Num × Num :=
  let w := Num.sub a ((Num.ofInt (Num.floor (a.scale (-1)))).scale 1)
  let n := (Num.floor (w.scale 5)).toNat
  let f := Num.sub w ((Num.ofInt n).scale (-5))
  let g := rn (Num.mul f (fc 0x40490FDB))
  let g2 := rn (Num.mul g g)
  let b := mad (fc 0xBE2AAAAB) g2 (fc 0x3C088889)
  let b := rn (Num.mul g2 b)
  let sn := mad g g b
  let c := mad ((Num.dy 1 (-1)).neg) g2 (fc 0x3D2AAAAB)
  let cs := mad one g2 c
  (n, sn, cs)

/-- FSINPI (R91). -/
def fsinpi (x : Num) : Num :=
  if !x.isFin then .nan
  else
    let (n, sn, cs) := piSteps x.abs
    let v := rn (Num.mul (tab tabCs n) sn)
    let y := rn (Num.add (Num.mul (tab tabSn n) cs) v)
    if x.isNeg then y.neg else y

/-- FCOSPI (R91). -/
def fcospi (x : Num) : Num :=
  if !x.isFin then .nan
  else
    let (n, sn, cs) := piSteps x.abs
    let v := rn (Num.mul (tab tabSn n) sn)
    rn (Num.sub (Num.mul (tab tabCs n) cs) v)

end Sys2Proof.Machine
end

