-- ==== Sys2Proof/Machine/ActorVal.lean ====
section
/-! DEFINITION. Values inside a firing and the lane operations of the actor instructions (R285, R297 to
R301, R305). -/

namespace Sys2Proof.Machine

/-- Lane width of an element type; type 7, pred, has none of its own (R285). -/
def etyWidth : Nat → Nat
  | 0 => 32 | 1 => 32 | 2 => 32 | 3 => 16 | 4 => 16 | _ => 8
/-- Whether an element type is signed. -/
def etySigned (t : Nat) : Bool := t == 0 || t == 4 || t == 5
/-- Whether an element type is an integer. -/
def etyInt (t : Nat) : Bool := t == 0 || t == 1 || t == 4 || t == 5 || t == 6
/-- Whether an element type is a floating-point one. -/
def etyFloat (t : Nat) : Bool := t == 2 || t == 3
/-- Lane width of a header's lane mode (R224). -/
def modeWidth : Nat → Nat
  | 0 => 32 | 1 => 16 | _ => 8

/-- A number from its bits, lowest first. -/
def ofBits : List Bool → Nat
  | [] => 0
  | b :: l => (if b then 1 else 0) + 2 * ofBits l

/-- The mask with the low `n` bits set. -/
def lowMask (n : Nat) : W64 := BitVec.ofNat 64 (2 ^ n - 1)
/-- The mask of all lanes of a width. -/
def fullMask (w : Nat) : W64 := lowMask (512 / w)

/-- A mask converted between widths (R285). -/
def maskTo (m : W64) (w v : Nat) : W64 :=
  if v = w then m
  else BitVec.ofNat 64 (ofBits ((List.range (512 / v)).map fun e =>
    if v ≤ w then m.getLsbD (e * v / w)
    else (List.range (v / w)).all fun j => m.getLsbD (e * (v / w) + j)))

/-- A lane's bits. -/
def lane (d : W512) (w e : Nat) : Nat := natField d.toNat (w * e) w

/-- A 512-bit value from its lanes, lowest first. -/
def ofLanes (w : Nat) : List Nat → Nat
  | [] => 0
  | x :: l => x % 2 ^ w + ofLanes w l <<< w

/-- A value of width `w` from its lanes, `none` where invalid; an invalid lane holds 0. -/
def Val.ofList (w : Nat) (l : List (Option Nat)) : Val :=
  { data := BitVec.ofNat 512 (ofLanes w (l.map (·.getD 0)))
    mask := BitVec.ofNat 64 (ofBits (l.map Option.isSome))
    width := w }

/-- A pred value of width `w` from its lanes. -/
def Val.ofPreds (w : Nat) (l : List (Option Bool)) : Val :=
  { data := BitVec.ofNat 512 (ofBits (l.map (·.getD false)))
    mask := BitVec.ofNat 64 (ofBits (l.map Option.isSome))
    width := w, pred := true }

/-- A scalar predicate (R285). -/
def Val.scalarPred (w : Nat) (b : Bool) : Val := Val.ofPreds w (List.replicate (512 / w) (some b))

/-- A value taken at another width (R285). -/
def Val.to (v : Val) (w : Nat) : Val :=
  if v.width = w then v
  else
    let m := maskTo v.mask v.width w
    if v.pred then
      { v with data := (maskTo (field v.data 0 64) v.width w).zeroExtend 512, mask := m, width := w }
    else
      let keep (e : Nat) : Nat := if m.getLsbD e then lane v.data w e else 0
      { v with data := BitVec.ofNat 512 (ofLanes w ((List.range (512 / w)).map keep))
               mask := m, width := w }

/-- The lanes of a value at a width. -/
def Val.lanes (v : Val) (w : Nat) : List (Option Nat) :=
  let x := v.to w
  (List.range (512 / w)).map fun e => if x.mask.getLsbD e then some (lane x.data w e) else none

/-- The lanes of a pred value at a width. -/
def Val.preds (v : Val) (w : Nat) : List (Option Bool) :=
  let x := v.to w
  (List.range (512 / w)).map fun e => if x.mask.getLsbD e then some (x.data.getLsbD e) else none

/-- Bits 63:0. -/
def Val.low (v : Val) : W64 := field v.data 0 64
/-- Whether every lane that holds a bit below `n` is valid (R285, R302); a pred value holds a bit for each lane. -/
def Val.lowValid (v : Val) (n : Nat) : Bool :=
  (List.range (if v.pred then Nat.min n (512 / v.width) else cdiv n v.width)).all fun e => v.mask.getLsbD e
/-- A scalar in bits 63:0, every lane valid, at a width. -/
def Val.scalar (w : Nat) (x : W64) : Val :=
  { data := x.zeroExtend 512, mask := fullMask w, width := w }
/-- With the poison bit. -/
def Val.tainted (v : Val) (b : Bool) : Val := { v with poison := v.poison || b }

/-- Lane by lane over one operand. -/
def map1 (w : Nat) (f : Nat → Nat) (a : Val) : Val := Val.ofList w ((a.lanes w).map (·.map f))
/-- Lane by lane over two operands. -/
def map2 (w : Nat) (f : Nat → Nat → Nat) (a b : Val) : Val :=
  Val.ofList w ((a.lanes w).zipWith (fun x y => do let x ← x; let y ← y; some (f x y)) (b.lanes w))
/-- Lane by lane over three operands. -/
def map3 (w : Nat) (f : Nat → Nat → Nat → Nat) (a b c : Val) : Val :=
  let ab := (a.lanes w).zipWith (fun x y => do let x ← x; let y ← y; some (x, y)) (b.lanes w)
  Val.ofList w (ab.zipWith (fun p z => do let (x, y) ← p; let z ← z; some (f x y z)) (c.lanes w))

/-! ## Integers (R297) -/

/-- A lane as an integer. -/
def asInt (signed : Bool) (w x : Nat) : Int := if signed then sgn w x else x
/-- Bounds of an integer type. -/
def intRange (signed : Bool) (w : Nat) : Int × Int :=
  if signed then (-(2 ^ (w - 1)), 2 ^ (w - 1) - 1) else (0, 2 ^ w - 1)

/-- A binary integer operation on lanes, on the integers they stand for. -/
def intOp (t : Nat) (f : Int → Int → Int) (x y : Nat) : Nat :=
  let w := etyWidth t
  wrapN w (f (asInt (etySigned t) w x) (asInt (etySigned t) w y))

/-- A saturating operation. -/
def satOp (t : Nat) (f : Int → Int → Int) (x y : Nat) : Nat :=
  let w := etyWidth t
  let (lo, hi) := intRange (etySigned t) w
  wrapN w (clampI lo hi (f (asInt (etySigned t) w x) (asInt (etySigned t) w y)))

/-- Shifts by an unsigned amount. -/
def shlOp (w x y : Nat) : Nat := if y ≥ w then 0 else x <<< y % 2 ^ w
/-- Logical right shift. -/
def shrOp (w x y : Nat) : Nat := if y ≥ w then 0 else x >>> y
/-- Arithmetic right shift. -/
def sarOp (w x y : Nat) : Nat := wrapN w (sgn w x / 2 ^ (if y ≥ w then w else y))

/-- The value of IMM: imm16 extended by the type, in every lane. -/
def immVal (t : Nat) (imm : BitVec 16) : Val :=
  let w := etyWidth t
  let x : Int := if etySigned t then sgn 16 imm.toNat else imm.toNat
  Val.ofList w (List.replicate (512 / w) (some (wrapN w x)))

/-- CONST (R296). -/
def constVal (t : Nat) (imm : BitVec 16) : Val :=
  let w := etyWidth t
  let v := imm.toNat
  let x : Nat := match t with
    | 0 => wrapN 32 (sgn 16 v)
    | 2 => v * 65536
    | _ => v % 2 ^ w
  Val.ofList w (List.replicate (512 / w) (some x))

/-! ## Floating point (R298) -/

/-- The format of a floating-point lane type. -/
def etyFmt (t : Nat) : FFmt := if t = 3 then bf16 else fp32
/-- A unary operation, rounded once. -/
def fl1 (t m : Nat) (f : Num → Num) (x : Nat) : Nat := packF (etyFmt t) m (f (unpackF (etyFmt t) x))
/-- A binary operation, rounded once. -/
def fl2 (t m : Nat) (f : Num → Num → Num) (x y : Nat) : Nat :=
  packF (etyFmt t) m (f (unpackF (etyFmt t) x) (unpackF (etyFmt t) y))
/-- A ternary operation, rounded once. -/
def fl3 (t m : Nat) (f : Num → Num → Num → Num) (x y z : Nat) : Nat :=
  packF (etyFmt t) m (f (unpackF (etyFmt t) x) (unpackF (etyFmt t) y) (unpackF (etyFmt t) z))

/-! ## Compare and select (R299) -/

/-- A condition on an order (-1, 0, 1): EQ NE LT LE GT GE. -/
def ccOf (cc : Nat) (c : Int) : Bool :=
  match cc with
  | 0 => c == 0 | 1 => c != 0 | 2 => c == -1 | 3 => c != 1 | 4 => c == 1 | _ => c != -1

/-- The order of two integers. -/
def cmpI (a b : Int) : Int := if a < b then -1 else if a = b then 0 else 1

/-- ICMP and FCMP on lanes. -/
def laneCmp (t cc x y : Nat) : Bool :=
  if etyFloat t then
    let a := unpackF (etyFmt t) x
    let b := unpackF (etyFmt t) y
    if a.isNan || b.isNan then cc == 1 || cc == 6
    else if cc = 6 then false else ccOf cc (Num.cmp a b)
  else
    let w := etyWidth t
    ccOf cc (cmpI (asInt (etySigned t) w x) (asInt (etySigned t) w y))

/-- A pred value of a comparison. -/
def cmpVal (t cc : Nat) (a b : Val) : Val :=
  let w := etyWidth t
  Val.ofPreds w ((a.lanes w).zipWith
    (fun x y => do let x ← x; let y ← y; some (laneCmp t cc x y)) (b.lanes w))

/-- SEL: the chosen lane decides validity with C's. -/
def selVal (w : Nat) (a b c : Val) : Val :=
  let ab := (a.lanes w).zip (b.lanes w)
  Val.ofList w (ab.zipWith (fun p z => do let z ← z; if z then p.1 else p.2) (c.preds w))

/-- A bitwise operation of two pred values at A's width. -/
def pred2 (f : Bool → Bool → Bool) (a b : Val) : Val :=
  let w := a.width
  Val.ofPreds w ((a.preds w).zipWith (fun x y => do let x ← x; let y ← y; some (f x y)) (b.preds w))

/-- ANYL and ALLL. -/
def anyVal (a : Val) : Val := Val.scalarPred a.width ((a.preds a.width).any (· == some true))
/-- ALLL. -/
def allVal (a : Val) : Val := Val.scalarPred a.width ((a.preds a.width).all (· != some false))

/-! ## Conversions (R300, R82) -/

/-- CVTFI on a lane. -/
def cvtfi (m x : Nat) : Nat := wrapN 32 (numToInt m (-(2 ^ 31)) (2 ^ 31 - 1) (unpackF fp32 x))
/-- CVTIF on a lane. -/
def cvtif (m x : Nat) : Nat := packF fp32 m (Num.ofInt (sgn 32 x))
/-- CVTFB on a lane. -/
def cvtfb (m x : Nat) : Nat := packF bf16 m (unpackF fp32 x)

/-- CVTBF on a lane: exact, a NaN canonical (R80, R300). -/
def cvtbf (x : Nat) : Nat := if (unpackF bf16 x).isNan then fp32.qnan else x * 65536

/-- PACK: the narrow type, from lanes of twice its width. -/
def packLane (t : Nat) (sat : Bool) (x : Nat) : Nat :=
  let w := etyWidth t
  let (lo, hi) := intRange (etySigned t) w
  if sat then wrapN w (clampI lo hi (sgn (2 * w) x)) else x % 2 ^ w

/-- UNPACK on a lane of half the type's width. -/
def unpackLane (t : Nat) (zx : Bool) (x : Nat) : Nat :=
  let w := etyWidth t
  if zx then x else wrapN w (sgn (w / 2) x)

/-! ## Lanes (R301) -/

/-- The sum, maximum or minimum of two lanes of a type under a mode: kind 0, 1, 2. -/
def foldLane (t m kind x y : Nat) : Nat :=
  if etyFloat t then
    fl2 t (if kind = 0 then m else 0)
      (match kind with | 0 => Num.addM (m == 3) | 1 => numMax | _ => numMin) x y
  else match kind with
    | 0 => intOp t (· + ·) x y
    | 1 => intOp t (fun a b => if a ≤ b then b else a) x y
    | _ => intOp t (fun a b => if a ≤ b then a else b) x y

/-- A single lane taken as a fold's first value: a NaN result is canonical (R80). -/
def foldSeed (t x : Nat) : Nat :=
  if etyFloat t && (unpackF (etyFmt t) x).isNan then (etyFmt t).qnan else x

/-- The fold of the valid lanes in ascending order (R84). -/
def foldLanes (t m kind : Nat) : List Nat → Option Nat
  | [] => none
  | x :: l => some (l.foldl (foldLane t m kind) (foldSeed t x))

/-- RSUM, RMAX and RMIN. -/
def reduceVal (t m kind : Nat) (a : Val) : Val :=
  let w := etyWidth t
  let r := foldLanes t m kind ((a.lanes w).filterMap id)
  let r0 := if kind = 0 then some (r.getD 0) else r
  Val.ofList w (r0 :: List.replicate (512 / w - 1) none)

/-- SCAN: the running fold at each valid lane. -/
def scanGo (t m kind : Nat) : Option Nat → List (Option Nat) → List (Option Nat)
  | _, [] => []
  | acc, none :: l => none :: scanGo t m kind acc l
  | acc, some x :: l =>
    let y := match acc with
      | some a => foldLane t m kind a x
      | none => foldSeed t x
    some y :: scanGo t m kind (some y) l

/-- SHUF. -/
def shufVal (w : Nat) (a b : Val) : Val :=
  let la := a.lanes w
  Val.ofList w ((b.lanes w).map fun y => do let y ← y; (la.getD (y % (512 / w)) none))

/-- ROTL by `k`. -/
def rotVal (w k : Nat) (a : Val) : Val :=
  let n := 512 / w
  let la := a.lanes w
  Val.ofList w ((List.range n).map fun e => la.getD ((e + (n - k % n)) % n) none)

/-- COMPACT. -/
def compactVal (w : Nat) (a : Val) : Val :=
  let l := (a.lanes w).filterMap id
  Val.ofList w (l.map some ++ List.replicate (512 / w - l.length) none)

/-- EXPAND. -/
def expandGo : List (Option Bool) → List (Option Nat) → List (Option Nat)
  | [], _ => []
  | some true :: ps, x :: l => x :: expandGo ps l
  | some true :: ps, [] => none :: expandGo ps []
  | _ :: ps, l => none :: expandGo ps l

/-! ## Video (R305) -/

/-- The raster position of a scan position. -/
def zigzag : List Nat := [0, 1, 4, 8, 5, 2, 3, 6, 9, 12, 13, 10, 7, 11, 14, 15]

/-- ZIGZAG in groups of 16 lanes. -/
def zigzagVal (w : Nat) (inv : Bool) (a : Val) : Val :=
  let la := a.lanes w
  Val.ofList w ((List.range (512 / w)).map fun e =>
    let g := e / 16 * 16
    let r := e % 16
    let src := if inv then zigzag.getD r 0 else (zigzag.findIdx? (· == r)).getD 0
    la.getD (g + src) none)

/-- MVSPLIT on a lane. -/
def mvsplit (y frac : Bool) (x : Nat) : Nat :=
  let c : Int := if y then sgn 16 (x / 65536) else sgn 16 x
  if frac then wrapN 32 (c % 4) else wrapN 32 (c / 4)

/-- QPSCALE on a lane (R69). -/
def qpscaleLane (x : Nat) : Nat :=
  packF fp32 0 (qpScale (clampI 0 63 (sgn 32 x)).toNat)

/-- ERRACC on a lane (R305) with the constants of a c-table. -/
def erracc (ctab : Nat → W32) (a b c : Nat) : Nat :=
  let q := if b % 256 > 63 then 63 else b % 256
  let t := rn (Num.add (unpackF fp32 a) (ofFP32 (ctab q)))
  let f := (Num.ofInt (natField b 8 2 + natField b 10 2 : Nat)).scale (-2)
  let u := rn (Num.mul (ofFP32 (ctab 128)) f)
  let v := rn (Num.mul (ofFP32 (ctab 129)) (unpackF fp32 c))
  (roundFP32 (Num.add (rn (Num.add t u)) v)).toNat

end Sys2Proof.Machine
end

