-- ==== Sys2Proof/Machine/Ops.lean ====
section
/-! DEFINITION. The named operations over the state that every meaning shares: the acting reeve and
its registers, positions, capabilities and their check, counters, the launch status, taking an
exception and returning from one. -/

namespace Sys2Proof.Machine

/-- What an operation that cannot go on asks of the machine. -/
inductive Req where
  /-- A walk for a page (R150). -/
  | walk (who : Who) (ctx vf ham va need : Nat)
  /-- An access to another package (R131): requester, context, VF, address there, the address of the access, whether
  a mapping led there. -/
  | peer (who : Who) (ctx vf addr ea : Nat) (mapped : Bool) (op : PeerOp)
  /-- A place in a word's waiter order (R143). -/
  | sync (who : Who) (word : Nat) (consume : Bool)
  /-- An accumulator bank that an open round holds (R117). -/
  | bank (who : Who) (cell bank : Nat)
  /-- A mapping of the parish cache for the hamlet's (R149). -/
  | fill (ham : Nat) (e : TlbEntry)
  deriving DecidableEq, Repr

/-- Why an operation stops: a fault, a fault after which the state given stands, a wait that changes
nothing yet, or a wait that keeps what has been done so far. -/
inductive Stop where
  | trap (t : Trap)
  | trapIn (s : State) (t : Trap)
  | wait (w : Wait) (rq : Option Req)
  | keep (s : State) (w : Wait)
  deriving DecidableEq, Repr

/-- Raises a fault. -/
def raise {α : Type} (c : Code) (addr : Nat := 0) (sub : Nat := 0) : Except Stop α :=
  .error (.trap { code := c, sub := sub, addr := BitVec.ofNat 64 addr })

/-- CFG_REJECT with a subcode (R271). -/
def cfgReject {α : Type} (sub : Nat) : Except Stop α := raise .cfgReject 0 sub

/-- Waits. -/
def await {α : Type} (w : Wait) (rq : Option Req := none) : Except Stop α := .error (.wait w rq)

/-- Raises unless a condition holds. -/
def check (b : Bool) (c : Code) (addr : Nat := 0) (sub : Nat := 0) : Except Stop Unit :=
  if b then .ok () else raise c addr sub

/-- The 8-bit code of a fault (R378). -/
def Code.num : Code → Nat
  | .none => 0x00 | .illegalInstr => 0x01 | .priv => 0x02 | .capTag => 0x03 | .capBounds => 0x04
  | .capPerm => 0x05 | .capSeal => 0x06 | .capSpace => 0x07 | .align => 0x08 | .xlateMiss => 0x09
  | .xlatePerm => 0x0A | .eccUncorr => 0x0B | .ctxMismatch => 0x0C | .rateMismatch => 0x0D
  | .tagBusy => 0x0E | .ringFault => 0x0F | .launchRange => 0x10 | .launchBlock => 0x11
  | .cfgReject => 0x12 | .callDepth => 0x13 | .placeFail => 0x14 | .barBroken => 0x15
  | .deadlock => 0x16 | .walkLimit => 0x17 | .walkFault => 0x18 | .penOverflow => 0x19
  | .staleBin => 0x1A | .syntaxError => 0x1B | .user => 0x1C | .link => 0x1D | .replayFail => 0x1E
  | .preemptTimeout => 0x1F | .feSpace => 0x20

/-- The fault of a code number; an unused number is none. -/
def Code.ofNum : Nat → Code
  | 0x01 => .illegalInstr | 0x02 => .priv | 0x03 => .capTag | 0x04 => .capBounds
  | 0x05 => .capPerm | 0x06 => .capSeal | 0x07 => .capSpace | 0x08 => .align | 0x09 => .xlateMiss
  | 0x0A => .xlatePerm | 0x0B => .eccUncorr | 0x0C => .ctxMismatch | 0x0D => .rateMismatch
  | 0x0E => .tagBusy | 0x0F => .ringFault | 0x10 => .launchRange | 0x11 => .launchBlock
  | 0x12 => .cfgReject | 0x13 => .callDepth | 0x14 => .placeFail | 0x15 => .barBroken
  | 0x16 => .deadlock | 0x17 => .walkLimit | 0x18 => .walkFault | 0x19 => .penOverflow
  | 0x1A => .staleBin | 0x1B => .syntaxError | 0x1C => .user | 0x1D => .link | 0x1E => .replayFail
  | 0x1F => .preemptTimeout | 0x20 => .feSpace | _ => .none

/-- Faults that trigger a replay (R378). -/
def Code.replays : Code → Bool
  | .eccUncorr => true
  | .link => true
  | _ => false

/-! ## Positions (R11, R14) -/

/-- Die of a global hamlet number. -/
def hamDie (h : Nat) : Nat := h / 80
/-- Hamlet number within its die. -/
def hamNo (h : Nat) : Nat := h % 80
/-- Column. -/
def hamCol (h : Nat) : Nat := h % 80 % 10
/-- Row. -/
def hamRow (h : Nat) : Nat := h % 80 / 10
/-- Parish within the die. -/
def hamParish (h : Nat) : Nat := hamRow h / 2 * 5 + hamCol h / 2
/-- Shire within the die. -/
def hamShire (h : Nat) : Nat := hamRow h / 2
/-- Parish of the package, which is its granary slice (R133). -/
def hamSlice (h : Nat) : Nat := hamDie h * 20 + hamParish h
/-- Shire of the package. -/
def hamShireG (h : Nat) : Nat := hamDie h * 4 + hamShire h
/-- Smithy hamlets (R14). -/
def isSmithy (h : Nat) : Bool := hamRow h % 2 == 0 && hamCol h % 2 == 0 && hamCol h < 8

/-! ## The acting reeve -/

/-- The reeve of a hamlet; an absent one is idle at its reset. -/
def State.reeve (s : State) (h : Nat) : Reeve := (mget s.reeves h).getD {}
/-- The acting reeve. -/
def State.me (s : State) : Reeve := s.reeve s.cur
/-- Replaces the reeve of a hamlet. -/
def State.setReeve (s : State) (h : Nat) (r : Reeve) : State := { s with reeves := mset s.reeves h r }
/-- Replaces the acting reeve. -/
def State.setMe (s : State) (r : Reeve) : State := s.setReeve s.cur r
/-- Changes the acting reeve. -/
def State.updMe (s : State) (f : Reeve → Reeve) : State := s.setMe (f s.me)

/-- A general register; g0 reads 0 (R92). -/
def Reeve.gr (r : Reeve) (i : GReg) : W64 := if i = 0 then 0 else r.g[i.toNat]'(i.isLt)
/-- Writes a general register; a write to g0 is discarded (R214). -/
def Reeve.setG (r : Reeve) (i : GReg) (v : W64) : Reeve :=
  if i = 0 then r else { r with g := r.g.set i.toNat v i.isLt }
/-- A capability register. -/
def Reeve.kr (r : Reeve) (i : KReg) : Cap := r.k[i.toNat]'(i.isLt)
/-- Writes a capability register. -/
def Reeve.setK (r : Reeve) (i : KReg) (c : Cap) : Reeve := { r with k := r.k.set i.toNat c i.isLt }
/-- A predicate; p0 reads 1 (R92). -/
def Reeve.pr (r : Reeve) (i : PReg) : Bool := if i = 0 then true else r.p.getLsbD i.toNat
/-- Writes a predicate; a write to p0 is discarded (R214). -/
def Reeve.setP (r : Reeve) (i : PReg) (b : Bool) : Reeve :=
  if i = 0 then r
  else { r with p := if b then r.p ||| (1#8 <<< i.toNat) else r.p &&& ~~~(1#8 <<< i.toNat) }
/-- Whether the guard lets the instruction take effect (R215). -/
def Reeve.guard (r : Reeve) (p : Guard) : Bool := r.pr (field p 0 3) != p.getLsbD 3
/-- The current level: true for S (R101). -/
def Reeve.superv (r : Reeve) : Bool := r.estat.getLsbD 0

/-! ## Capabilities (R120, R121) -/

/-- OTYPE. -/
def Cap.otype (c : Cap) : Nat := (field c.bits 124 4).toNat
/-- PERMS, LD in bit 0. -/
def Cap.perms (c : Cap) : Nat := (field c.bits 114 10).toNat
/-- SPACE. -/
def Cap.space (c : Cap) : Nat := (field c.bits 111 3).toNat
/-- E. -/
def Cap.exp (c : Cap) : Nat := (field c.bits 106 5).toNat
/-- L. -/
def Cap.mant (c : Cap) : Nat := (field c.bits 88 18).toNat
/-- BASE. -/
def Cap.base (c : Cap) : Nat := (field c.bits 40 48).toNat
/-- OFFSET. -/
def Cap.offset (c : Cap) : Nat := (field c.bits 0 40).toNat
/-- The length in bytes. -/
def Cap.length (c : Cap) : Nat := (c.mant + 1) * 2 ^ c.exp
/-- The address. -/
def Cap.addr (c : Cap) : Nat := c.base * 256 + c.offset
/-- A capability from its fields. -/
def Cap.make (tag : Bool) (ot perms space e l base off : Nat) : Cap :=
  ⟨BitVec.ofNat 4 ot ++ BitVec.ofNat 10 perms ++ BitVec.ofNat 3 space ++ BitVec.ofNat 5 e
    ++ BitVec.ofNat 18 l ++ BitVec.ofNat 48 base ++ BitVec.ofNat 40 off, tag⟩
/-- With another offset. -/
def Cap.withOff (c : Cap) (o : Nat) : Cap := ⟨field c.bits 40 88 ++ BitVec.ofNat 40 o, c.tag⟩
/-- With other permissions. -/
def Cap.withPerms (c : Cap) (p : BitVec 10) : Cap :=
  ⟨field c.bits 124 4 ++ p ++ field c.bits 0 114, c.tag⟩
/-- With another object type. -/
def Cap.withOtype (c : Cap) (t : Nat) : Cap := ⟨BitVec.ofNat 4 t ++ field c.bits 0 124, c.tag⟩

/-- Permission LD. -/
def pLD : Nat := 1
/-- Permission ST. -/
def pST : Nat := 2
/-- Permission LDC. -/
def pLDC : Nat := 4
/-- Permission STC. -/
def pSTC : Nat := 8
/-- Permission X. -/
def pX : Nat := 16
/-- Permission AT. -/
def pAT : Nat := 32
/-- Permission EN. -/
def pEN : Nat := 64
/-- Permission CF. -/
def pCF : Nat := 128
/-- Permission GL. -/
def pGL : Nat := 256
/-- Permission SE. -/
def pSE : Nat := 512

/-- Whether a set of permissions lies in another. -/
def permsIn (need have_ : Nat) : Bool := need &&& have_ == need

/-- The window of a space that an address lies in, as first byte and length; `none` where it lies
in no window (R129). -/
def windowOf (space a : Nat) : Option (Nat × Nat) :=
  let inWin (mask n : Nat) : Option (Nat × Nat) :=
    let lo := a &&& mask
    if a < lo + n then some (lo, n) else none
  let place := (2 ^ 10 - 1) <<< 38
  match space with
  | 0 => if a < 2 ^ 56 then some (0, 2 ^ 56) else none
  | 1 => inWin place (2 ^ 21)
  | 2 => inWin (place ||| 15 <<< 16) (2 ^ 16)
  | 3 => inWin (place ||| 7 <<< 15) (2 ^ 15)
  | 4 => if a < 2 ^ 35 then some (a - a % 2 ^ 27, 2 ^ 27) else none
  | 5 => if a < 2 ^ 50 then some (a - a % 2 ^ 41, 2 ^ 41) else none
  | 6 => if a < 2 ^ 50 then some (0, 2 ^ 50) else none
  | _ => none

/-- Whether `[lo, lo + len)` lies within one window of a space and below 2^56 (R121). -/
def boundsOk (space lo len : Nat) : Bool :=
  lo + len ≤ 2 ^ 56 &&
  match windowOf space lo with
  | some (w, n) => lo + len ≤ w + n
  | none => false

/-- An access class: the permissions it needs, the spaces it accepts, whether it is
synchronising (R123). -/
structure AClass where
  perms : Nat
  spaces : List Nat
  sync : Bool := false
  deriving DecidableEq, Repr

/-- Load. -/
def clLoad : AClass := ⟨pLD, [0, 1, 2, 3, 4, 5, 6], false⟩
/-- Store. -/
def clStore : AClass := ⟨pST, [0, 1, 2, 3, 4, 5, 6], false⟩
/-- Capability load. -/
def clCapLoad : AClass := ⟨pLD ||| pLDC, [0, 1, 2, 4], false⟩
/-- Capability store. -/
def clCapStore : AClass := ⟨pST ||| pSTC, [0, 1, 2, 4], false⟩
/-- Synchronising, LDSYN and SPLDSYN. -/
def clSyncLoad : AClass := ⟨pLD, [1, 4], true⟩
/-- Synchronising, FE and a full-setting ST. -/
def clSyncStore : AClass := ⟨pST, [1, 4], true⟩
/-- Atomic. -/
def clAtomic : AClass := ⟨pLD ||| pST ||| pAT, [0, 1, 4, 5], false⟩
/-- Reduction. -/
def clReduce : AClass := ⟨pST ||| pAT, [0, 1, 4, 5], false⟩
/-- Fetch. -/
def clFetch : AClass := ⟨pX, [0], false⟩
/-- Configure. -/
def clConfigure : AClass := ⟨pCF ||| pLD, [0, 4], false⟩
/-- Configure, reading stored capabilities with their tags (R274). -/
def clConfigureCap : AClass := ⟨pCF ||| pLD ||| pLDC, [0, 4], false⟩
/-- A class together with the engine class (R417). -/
def AClass.engine (c : AClass) : AClass := { c with perms := c.perms ||| pEN }
/-- Two classes together. -/
def AClass.also (c d : AClass) : AClass :=
  { perms := c.perms ||| d.perms, spaces := c.spaces.filter d.spaces.contains, sync := c.sync }

/-- CheckCap at an effective offset, without the bounds and alignment tests where `n` is none
(R124, R238).  The first failing check raises its fault. -/
def checkCapAt (k : Cap) (off : Int) (n : Option Nat) (align : Nat) (cl : AClass) :
    Except Stop Nat := do
  let ea := ((k.base * 256 : Nat) : Int) + off
  let ea := (ea % (2 ^ 64 : Int)).toNat
  check k.tag .capTag ea
  check (k.otype == 0) .capSeal ea
  check (k.space != 7) .capSpace ea
  if !cl.spaces.contains k.space then
    if cl.sync then raise .feSpace else raise .capSpace ea
  else do
    check (permsIn cl.perms k.perms) .capPerm ea
    match n with
    | none => .ok ea
    | some n => do
      check (decide (0 ≤ off) && decide (off < 2 ^ 40) && decide (off.toNat + n ≤ k.length))
        .capBounds ea
      check (ea % align == 0) .align ea
      .ok ea

/-! ## Counters (R205, R207) -/

/-- The VF record. -/
def State.vfOf (s : State) (v : Nat) : Vf := (mget s.vfs v).getD {}
/-- Replaces a VF record. -/
def State.setVf (s : State) (v : Nat) (f : Vf) : State := { s with vfs := mset s.vfs v f }
/-- The context record. -/
def State.ctxOf (s : State) (c : Nat) : Ctx := (mget s.ctxs c).getD { vf := 0 }
/-- Replaces a context record. -/
def State.setCtx (s : State) (c : Nat) (x : Ctx) : State := { s with ctxs := mset s.ctxs c x }

/-- Adds to a counter of a VF's page, unless the page is frozen. -/
def State.count (s : State) (vf off : Nat) (n : Nat := 1) : State :=
  let v := s.vfOf vf
  if v.freeze || n = 0 then s
  else s.setVf vf { v with counters := mset v.counters off (mgetD v.counters off 0 + BitVec.ofNat 64 n) }

/-! ## Values that the spec leaves open (log 13) -/

/-- `n` bits that nothing constrains. -/
def State.freeBits (s : State) (n : Nat) : Nat × State :=
  let k := (n + 63) / 64
  (((List.range k).foldl (fun v j => v <<< 64 + (Config.freeValue (s.freeCtr + j)).toNat) 0) % 2 ^ n,
    { s with freeCtr := s.freeCtr + k })

/-- Whether the function of a READY bit can be used: from the cycle after the bit sets (R411). -/
def State.usable (s : State) (b : Nat) : Bool := s.ready.contains b && !s.newly.contains b
/-- Sets a READY bit. -/
def State.setReady (s : State) (b : Nat) : State := { s with ready := sadd s.ready b, newly := sadd s.newly b }

/-! ## Launches and the launch status (R376, R385-R387) -/

/-- The launch of a key. -/
def State.launchOf (s : State) (l : Nat) : Option Launch := mget s.launches l
/-- Changes a launch. -/
def State.updLaunch (s : State) (l : Nat) (f : Launch → Launch) : State :=
  { s with launches := mupd s.launches l f }

/-- Sets a bit of NOTES. -/
def Launch.note (l : Launch) (bit : Nat) : Launch := { l with notes := l.notes ||| (1#8 <<< bit) }

/-- Whether a plane of a launch is on its way to a token-consistent point, for which a fault waits (R43, R384). -/
def freezes (s : State) (l : Nat) : Bool := s.insts.any fun y => y.2.launch == l && y.2.plane == .freezing

/-- 24 hours in nanoseconds (R412). -/
def errWindow : Nat := 86400000000000

/-- Notes an uncorrectable error for the runtime's count (R412). -/
def noteError (s : State) (sub place : Nat) : State :=
  { s with errs := (s.errs.filter fun e => (s.time - e.2.2).toNat < errWindow) ++ [(sub, place, s.time)] }

/-- The error of a fault that enters a launch status, where a memory raised it. -/
def noteErrorOf (s : State) (t : Trap) : State :=
  { s with errs :=
      if t.code = .eccUncorr && 1 ≤ t.sub && t.sub ≤ 3 then (noteError s t.sub t.addr.toNat).errs else s.errs }

/-- A fault enters a launch status: the first enters FCODE, every one counts, and a replay-triggering one asks for a
rollback, for which a RUNNING launch is REPLAYING (R368, R376, R387). -/
def Launch.enterFault (x : Launch) (t : Trap) (site : BitVec 32) : Launch :=
  let x := { x with nfault := if x.nfault = 0xFFFF then x.nfault else x.nfault + 1 }
  let x := if x.fcode = .none then
    { x with fcode := t.code, fsub := t.sub, faddr := t.addr, fsite := site, fwalk := t.walk } else x
  if t.code.replays && x.rollback.isNone then
    { x with rollback := some t, st := if x.st == .running then .replaying else x.st }
  else x

/-- The faults that have waited for a freeze enter the launch status, oldest first. -/
def Launch.enterHeld (x : Launch) : Launch :=
  x.heldFaults.foldl (fun x f => x.enterFault f.1 f.2) { x with heldFaults := [] }

/-- Records a fault of a launch: it enters the launch status, or waits while a freeze of the launch is under way (R43,
R376). -/
def recordFault (s : State) (l : Nat) (t : Trap) (site : BitVec 32) : State :=
  (noteErrorOf s t).updLaunch l fun x =>
    if freezes s l then { x with heldFaults := x.heldFaults ++ [(t, site)] } else x.enterFault t site

/-- The interval between sweeps of a launch begins anew, that of its reeves' QSWEEPs too: a suspension has ended (R388). -/
def sweepAfresh (s : State) (l : Nat) : State :=
  match s.launchOf l with
  | none => s
  | some x =>
    let s := s.updLaunch l fun x => { x with sweepAt := s.cycle, idle := false }
    x.reeves.foldl (fun s h =>
      let r := s.reeve h
      if r.sweepAt.isNone then s else s.setReeve h { r with sweepAt := some s.cycle }) s

/-- Records the faults of a launch that have waited, once no freeze of it is under way (R43). -/
def raiseHeld (s : State) (l : Nat) : State := if freezes s l then s else s.updLaunch l Launch.enterHeld

/-- An operation that a replay would not repeat exactly (R386). -/
def markDirty (s : State) (l : Nat) : State :=
  s.updLaunch l fun x => { x with dirty := true, notes := x.notes ||| 0x08#8 }

/-- The poison record of a context keeps its first fault (R33). -/
def recordPoison (s : State) (c : Nat) (t : Trap) : State :=
  let x := s.ctxOf c
  if x.poison.isSome then s else s.setCtx c { x with poison := some t }

/-- The fault that a poisoned token raises (R33). -/
def poisonFault (s : State) (c : Nat) : Trap :=
  (s.ctxOf c).poison.getD { code := .eccUncorr }

/-- A context's partition: its VF's fence entry (R130, R198, R375). -/
def partition (s : State) (vf : Nat) : Option (Nat × FenceEntry) :=
  (s.fences.find? fun (_, e) => e.valid && e.vf == vf).map fun (i, e) => (i / 16, e)

/-- The dies of a mask, rising. -/
def maskDies (m : BitVec 8) : List Nat := (List.range 8).filter fun i => m.getLsbD i

/-- The hamlets of a partition in the order of R52. -/
def partHamlets (p : Nat × FenceEntry) : List Nat :=
  let (d, e) := p
  if e.dies then (maskDies e.dieMask).flatMap fun d => rangeFrom (d * 80) 80
  else (rangeFrom (d * 80) 80).filter fun h =>
    e.c0 ≤ hamCol h && hamCol h ≤ e.c1 && e.h0 ≤ hamRow h && hamRow h ≤ e.h1

/-- The physical hamlet of a relative die and hamlet (R130). -/
def relToHam (p : Nat × FenceEntry) (rd rh : Nat) : Option Nat :=
  let (d, e) := p
  if e.dies then
    match (maskDies e.dieMask)[rd]? with
    | some d => if rh < 80 then some (d * 80 + rh) else none
    | none => none
  else
    let w := e.c1 + 1 - e.c0
    let h := e.h0 + rh / w
    if rd = 0 && w != 0 && h ≤ e.h1 then some (d * 80 + h * 10 + e.c0 + rh % w) else none

/-- The relative die and hamlet of a physical hamlet (R130); 0 outside the partition. -/
def hamToRel (p : Nat × FenceEntry) (h : Nat) : Nat × Nat :=
  let (_, e) := p
  if e.dies then (((maskDies e.dieMask).findIdx? (· == hamDie h)).getD 0, hamNo h)
  else (0, (hamRow h - e.h0) * (e.c1 + 1 - e.c0) + (hamCol h - e.c0))

/-- Where a hamlet of a moved launch's old place lies now. -/
def Shift.move (m : Shift) (h : Nat) : Option Nat :=
  let c : Int := hamCol h + m.dx
  let r : Int := hamRow h + m.dy
  match m.dies.find? fun x => x.1 == hamDie h with
  | some (_, d) => if 0 ≤ c && c < 10 && 0 ≤ r && r < 8 then some (d * 80 + r.toNat * 10 + c.toNat) else none
  | none => none

/-- Where a hamlet of a moved launch lay before. -/
def Shift.back (m : Shift) (h : Nat) : Option Nat :=
  let n : Shift := { m with dies := m.dies.map fun (a, b) => (b, a), dx := -m.dx, dy := -m.dy }
  n.move h

/-- The requester's launch; 0 is no launch. -/
def whoLaunch (s : State) : Who → Nat
  | .reeve h => (s.reeve h).launch
  | .stream h _ => (s.reeve h).launch
  | .copy h _ => (s.reeve h).launch
  | .node n => match mget s.insts n.inst with
    | some x => x.launch
    | none => 0
  | .cmd id => match mget s.cmds id with
    | some c => c.launch
    | none => 0
  | _ => 0

/-- The VF that a requester's accesses count for. -/
def whoVf (s : State) (w : Who) : Nat :=
  match s.launchOf (whoLaunch s w) with
  | some l => l.vf
  | none => 0

/-- The physical hamlet that a launch names by a relative die and hamlet (R130, R389). -/
def homeHam (s : State) (vf launch rd rh : Nat) : Option Nat :=
  match partition s vf with
  | none => none
  | some p =>
    match (s.launchOf launch).bind (·.shift) with
    | none => relToHam p rd rh
    | some m => ((relToHam m.part rd rh).bind m.move).filter (partHamlets p).contains

/-- The relative die and hamlet by which a launch names a hamlet; 0 where it has none. -/
def homeRel (s : State) (vf launch h : Nat) : Nat × Nat :=
  match partition s vf with
  | none => (0, 0)
  | some p =>
    match (s.launchOf launch).bind (·.shift) with
    | none => hamToRel p h
    | some m => ((m.back h).map (hamToRel m.part)).getD (0, 0)

/-- The launch of a VF that uses a hamlet: its reeve's where it runs, else its page's. -/
def launchAt (s : State) (vf h : Nat) : Nat :=
  let r := s.reeve h
  if r.run != .idle && r.vf == vf then r.launch
  else match s.insts.find? fun x => x.2.hams.contains h with
    | some (_, x) => x.launch
    | none => 0

/-- FSITE (R376). -/
def siteOf (s : State) (vf h cell slot : Nat) (reeve : Bool) : BitVec 32 :=
  let (d, r) := homeRel s vf (launchAt s vf h) h
  BitVec.ofNat 32 (d <<< 24 + r <<< 16 + cell <<< 8 + slot <<< 4 + (if reeve then 1 else 0))

/-! ## Barriers broken by a trap at S level (R277) -/

/-- The instance number of a barrier scope at a hamlet: hamlet, parish, shire, die, launch. -/
def barPlace (scope h : Nat) : Nat :=
  match scope with
  | 0 => h
  | 1 => hamSlice h
  | 2 => hamShireG h
  | 3 => hamDie h
  | _ => 0

/-- The key of a barrier instance. -/
def barKey (scope h : Nat) : Nat := barPlace scope h * 8 + scope

/-- The instance of a key, made at its first use. -/
def barOf (l : Launch) (key : Nat) : Barrier := (l.bars.find? (·.key == key)).getD { key := key }

/-- Replaces an instance. -/
def setBar (l : Launch) (b : Barrier) : Launch :=
  { l with bars := b :: l.bars.filter (·.key != b.key) }

/-- Breaks every barrier instance that holds a reeve, noted once (R277). -/
def breakBarriers (s : State) (l h : Nat) : State :=
  let s := s.updLaunch l fun x =>
    (List.range 5).foldl (fun x sc =>
      let b := barOf x (barKey sc h)
      setBar x (if b.broken then b else { b with broken := true, brokenAt := s.cycle })) x
  match s.launchOf l with
  | some x =>
    if x.notes.getLsbD 0 then s
    else recordFault (s.updLaunch l (·.note 0)) l { code := .barBroken } (siteOf s x.vf h 0 0 true)
  | none => s

/-! ## Taking an exception and returning from one (R103) -/

/-- ECAUSE of a fault (R101). -/
def causeOf (t : Trap) : W64 :=
  BitVec.ofNat 64 (t.code.num + t.sub <<< 8) ||| (t.sel.zeroExtend 64 <<< 16)

/-- Stops a reeve as a trap at S level does: its code and pc enter the launch status and its
barriers break (R103, R277). -/
def stopReeve (s : State) (h : Nat) (t : Trap) : State :=
  let r := s.reeve h
  let s := s.setReeve h { r with run := .trapped, wait := none, barWait := none }
  let isFirst : Bool := match s.launchOf r.launch with
    | some x => x.fcode == .none && x.heldFaults.isEmpty
    | none => false
  let s := recordFault s r.launch t (siteOf s r.vf h 0 0 true)
  let s := if isFirst then s.updLaunch r.launch fun x => { x with fpc := r.pc } else s
  breakBarriers s r.launch h

/-- The registers after a trap taken at U level. -/
def Reeve.enterTrap (r : Reeve) (t : Trap) : Reeve :=
  { r with
    epc := if t.code = .user then r.pc + 4 else r.pc
    ecause := causeOf t
    eaddr := t.addr
    ewalk := t.walk
    estat := ((field r.p 1 7).zeroExtend 64 <<< 9) ||| ((r.estat &&& 1) <<< 1) ||| 1
    pc := r.tvec
    wait := none }

/-- TrapEntry (R103): at S level the reeve stops, at U level it enters its handler.  A
replay-triggering fault asks for the launch's rollback (R387). -/
def trapEntry (t : Trap) (s : State) : State :=
  let r := s.me
  if r.superv then stopReeve s s.cur t
  else
    let s := if t.code.replays then
        recordFault s r.launch t (siteOf s r.vf s.cur 0 0 true) else s
    s.setMe (r.enterTrap t)

/-- The registers after ERET at S level (R103). -/
def Reeve.leaveTrap (r : Reeve) : Reeve :=
  { r with
    pc := r.epc
    p := (field r.estat 9 7 : BitVec 7) ++ (field r.p 0 1 : BitVec 1)
    estat := (r.estat &&& ~~~1#64) ||| ((r.estat >>> 1) &&& 1) }

end Sys2Proof.Machine
end

