-- ==== Sys2Proof/Machine/Memory.lean ====
section
/-! DEFINITION. The physical memories (R126, R132 to R144): bytes, tags, full/empty bits, zero flags
and errors, and the waiters of full/empty words. -/

namespace Sys2Proof.Machine

/-- What an address that memory does not list reads as (R153; log 3). -/
def Mem.blank : Byte := 0

/-- One byte. -/
def Mem.byte (m : Mem) (a : Nat) : Byte := (mget m.bytes a).getD Mem.blank
/-- Writes one byte, keeping the canonical form. -/
def Mem.setByte (m : Mem) (a : Nat) (b : Byte) : Mem :=
  { m with bytes := if b = Mem.blank then mdel m.bytes a else mset m.bytes a b }
/-- `n` bytes from an address. -/
def Mem.read (m : Mem) (a : Nat) : Nat → List Byte
  | 0 => []
  | n + 1 => m.byte a :: m.read (a + 1) n
/-- Writes bytes from an address. -/
def Mem.write (m : Mem) (a : Nat) : List Byte → Mem
  | [] => m
  | b :: bs => (m.setByte a b).write (a + 1) bs

/-- Numbers strictly rising. -/
def rises (l : List Nat) : Bool := decide (l.Pairwise fun x y => x < y)

/-- The canonical form of memory (log 3): addresses strictly rising, no listed byte equal to what an
unlisted address reads as; every list of granules and words strictly rising. -/
def Mem.wf (m : Mem) : Bool :=
  rises (m.bytes.map (·.1)) && (m.bytes.all fun x => x.2 != Mem.blank) && rises m.tags && rises m.empties
    && rises m.nonzero && rises m.bad && rises m.soft

/-- The canonical form of memory. -/
abbrev Memory.wf (m : Mem) : Bool := m.wf

/-- First granule and count of the granules of `2^lg` bytes that `n` bytes at `a` overlap. -/
def granules (lg a n : Nat) : Nat × Nat :=
  if n = 0 then (a >>> lg, 0) else (a >>> lg, (a + n - 1) >>> lg - a >>> lg + 1)

/-- The words wholly covered by `n` bytes at `a`, as first word and count. -/
def wholeWords (a n : Nat) : Nat × Nat := (cdiv a 8, (a + n) / 8 - cdiv a 8)

/-- Scratchpad or granary: the memories with full/empty bits and zero flags (R139, R142). -/
def isOnChip (a : Nat) : Bool := a >>> 50 == 3
/-- Host memory (R132). -/
def isHost (a : Nat) : Bool := a >>> 50 == 1
/-- Granary (R133). -/
def isGranary (a : Nat) : Bool := a >>> 48 == 12
/-- Scratchpad (R133). -/
def isScratch (a : Nat) : Bool := a >>> 48 == 13 && natField a 36 2 == 0

/-- Physical address of a granary slice byte (R133). -/
def slicePhys (slice b : Nat) : Nat := 12 <<< 48 ||| (slice <<< 27 + b)
/-- Physical address of a hamlet window byte, kind 0 to 3 (R133). -/
def winPhys (h kind b : Nat) : Nat :=
  13 <<< 48 ||| (hamDie h <<< 45) ||| (hamNo h <<< 38) ||| (kind <<< 36) ||| b

/-- Whether a physical address is populated memory or a window (R132, R133, R136). -/
def populated (a : Nat) : Bool :=
  match a >>> 50 with
  | 0 => a < Config.lpddrBytes
  | 1 => true
  | 2 => natField a 41 9 < 384
  | 3 =>
    match natField a 48 2 with
    | 0 => natField a 0 48 < 160 * Config.sliceBytes
    | 1 =>
      natField a 38 7 < 80 &&
      (match natField a 36 2 with
       | 0 => natField a 0 36 < 2 ^ 21
       | 1 => natField a 0 36 < 2 ^ 20
       | 2 => natField a 0 36 < 2 ^ 18
       | _ => natField a 0 36 < 2 ^ 16)
    | 2 => natField a 0 48 < 0x580
    | _ => false
  | _ => false

/-- The hamlet of a window address (R133). -/
def winHam (a : Nat) : Nat := natField a 45 3 * 80 + natField a 38 7

/-- Whether a word is empty. -/
def State.emptyAt (s : State) (w : Nat) : Bool := s.mem.empties.contains w

/-- Whether any word under `n` bytes at `a` is uncorrectable. -/
def Mem.badAt (m : Mem) (a n : Nat) : Bool :=
  let (w, c) := granules 3 a n
  m.bad.any fun x => w ≤ x && x < w + c

/-- The address of the first uncorrectable word under `n` bytes at `a`. -/
def Mem.badWord (m : Mem) (a n : Nat) : Nat :=
  let (w, c) := granules 3 a n
  match m.bad.find? fun x => w ≤ x && x < w + c with
  | some x => 8 * x
  | none => a

/-- The 64-bit word at an address. -/
def Mem.word (m : Mem) (a : Nat) : W64 := BitVec.ofNat 64 (leNat (m.read a 8))

/-- Counts a read at its memory (R205). -/
def countRead (s : State) (vf a n : Nat) : State :=
  if isGranary a then s.count vf 0x028 n else if a >>> 50 == 0 then s.count vf 0x038 n else s

/-- Corrects the soft errors under `n` bytes at `a` and counts them (R144). -/
def correctSoft (s : State) (vf a n : Nat) : State :=
  let (w, c) := granules 3 a n
  let softs := s.mem.soft.filter fun x => w ≤ x && x < w + c
  if softs.isEmpty then s
  else ({ s with mem := { s.mem with soft := sdelN s.mem.soft w c } }).count vf 0x060 softs.length

/-- Whether a waiter is a reeve of a launch that is to be rolled back: it has stopped, and has left every waiter order
(R252, R387). -/
def rolledBack (s : State) (w : Who) : Bool :=
  match w with
  | .reeve h => match s.launchOf (s.reeve h).launch with
    | some l => l.st == .replaying
    | none => false
  | _ => false

/-- The reads that satisfy the waiters of a word correct its soft error and count as reads do (R144, R205). -/
def countServed (s : State) (w : Nat) : List Waiter → State
  | [] => s
  | x :: l =>
    let vf := whoVf s x.who
    countServed (if s.mem.bad.contains w then s else countRead (correctSoft s vf (w * 8) 8) vf (w * 8) 8) w l

/-- Satisfies the waiters of a word that has become full (R143): in arrival order up to and
including the first consumer, which leaves the word empty.  An uncorrectable word satisfies every
waiter with its error and stays full (R252). -/
def serveWaiters (s : State) (w : Nat) : State :=
  let mine := s.waiters.filter fun x => x.word == w && !rolledBack s x.who
  let take := (mine.takeWhile fun x => !x.consume || s.mem.bad.contains w).length
  let served := mine.take (take + 1)
  let consumed := served.any (·.consume) && !s.mem.bad.contains w
  let rest := mine.drop (take + 1)
  let gift (x : Waiter) : SyncGift :=
    { who := x.who, word := w, val := s.mem.word (w * 8), bad := s.mem.bad.contains w }
  let s := countServed s w served
  { s with
    waiters := s.waiters.filter (·.word != w) ++ rest
    gifts := s.gifts ++ served.map gift
    mem := { s.mem with empties := sput s.mem.empties w consumed } }

/-- Sets one word full. -/
def setFull (s : State) (w : Nat) : State :=
  serveWaiters { s with mem := { s.mem with empties := sdel s.mem.empties w } } w

/-- Sets words full, in rising order. -/
def setFullN (s : State) (w : Nat) : Nat → State
  | 0 => s
  | n + 1 => setFull (setFullN s w n) (w + n)

/-- Sets words empty. -/
def setEmptyN (s : State) (w n : Nat) : State :=
  { s with mem := { s.mem with empties := saddN s.mem.empties w n } }

/-- Every byte written: the tags of the granules written clear (R126), the zero flags become
`zero` (R139), and words wholly covered lose their error (R144). -/
def Mem.store (m : Mem) (a : Nat) (bs : List Byte) (zero : Bool) : Mem :=
  let n := bs.length
  let m1 := m.write a bs
  let (tg, tn) := granules 4 a n
  let (zg, zn) := granules 5 a n
  let (ww, wn) := wholeWords a n
  { m1 with
    tags := sdelN m.tags tg tn
    nonzero := if !isOnChip a then m.nonzero
      else if zero then sdelN m.nonzero zg zn else saddN m.nonzero zg zn
    bad := sdelN m.bad ww wn
    soft := sdelN m.soft ww wn }

/-- Counts a write at its memory (R205). -/
def countWrite (s : State) (vf a n : Nat) : State :=
  if isGranary a then s.count vf 0x030 n else if a >>> 50 == 0 then s.count vf 0x040 n else s

/-- A write to physical memory; an engine write also sets full bits (R142). -/
def storePhys (s : State) (vf a : Nat) (bs : List Byte) (full : Bool := false)
    (zero : Bool := false) : State :=
  let s := countWrite { s with mem := s.mem.store a bs zero } vf a bs.length
  if full && isOnChip a then
    let (w, n) := granules 3 a bs.length
    setFullN s w n
  else s

/-- The subcode of an uncorrectable error at an address (R379). -/
def eccSub (a : Nat) : Nat := if isScratch a then 1 else if isGranary a then 2 else 3

/-- The fault of an uncorrectable error in the word at an address (R144, R379, log 39): LINK, subcode 4, for host memory. -/
def errorAt (a : Nat) : Trap :=
  if isHost a then { code := .link, sub := 4 }
  else { code := .eccUncorr, sub := eccSub a, addr := BitVec.ofNat 64 a }

/-- A read of physical memory: soft errors are corrected and counted (R144). -/
def loadPhys (s : State) (vf a n : Nat) : Except Stop (List Byte × State) :=
  if s.mem.badAt a n then .error (.trap (errorAt (s.mem.badWord a n)))
  else
    let s := correctSoft s vf a n
    .ok (s.mem.read a n, countRead s vf a n)

/-- Whether every granule of `n` bytes at `a` has its zero flag set (R139). -/
def Mem.flagged (m : Mem) (a n : Nat) : Bool :=
  let (g, c) := granules 5 a n
  isOnChip a && !m.nonzero.any fun x => g ≤ x && x < g + c

/-- The tag of the granule of an address. -/
def Mem.tagAt (m : Mem) (a : Nat) : Bool := m.tags.contains (a >>> 4)

/-- A capability store of 16 bytes (R126). -/
def storeCap (s : State) (vf a : Nat) (c : Cap) : State :=
  let s := storePhys s vf a (leBytes 16 c.bits.toNat)
  { s with mem := { s.mem with tags := sput s.mem.tags (a >>> 4) (c.tag && !isHost a) } }

/-- Clears `[a, a + n)`: bytes 0, tags clear, words full, flags set, errors gone (R140). -/
def Mem.clearRange (m : Mem) (a n : Nat) : Mem :=
  let keep (sh : Nat) (l : List Nat) := l.filter fun x => !(a ≤ x <<< sh && x <<< sh < a + n)
  { bytes := m.bytes.filter fun x => !(a ≤ x.1 && x.1 < a + n)
    tags := keep 4 m.tags
    empties := keep 3 m.empties
    nonzero := keep 5 m.nonzero
    bad := keep 3 m.bad
    soft := keep 3 m.soft }

/-- The part of memory in `[a, a + n)`, moved to begin at `b`. -/
def Mem.slice (m : Mem) (a n b : Nat) : Mem :=
  let mv (sh : Nat) (l : List Nat) := (l.filter fun x => a ≤ x <<< sh && x <<< sh < a + n).map fun x =>
    x - a >>> sh + b >>> sh
  { bytes := (m.bytes.filter fun x => a ≤ x.1 && x.1 < a + n).map fun x => (x.1 - a + b, x.2)
    tags := mv 4 m.tags
    empties := mv 3 m.empties
    nonzero := mv 5 m.nonzero
    bad := mv 3 m.bad
    soft := mv 3 m.soft }

/-- Adds the contents of one memory to another, whose ranges do not meet. -/
def Mem.merge (m x : Mem) : Mem :=
  { bytes := (x.bytes.foldl (fun m y => m.setByte y.1 y.2) m).bytes
    tags := x.tags.foldl sadd m.tags
    empties := x.empties.foldl sadd m.empties
    nonzero := x.nonzero.foldl sadd m.nonzero
    bad := x.bad.foldl sadd m.bad
    soft := x.soft.foldl sadd m.soft }

/-- A 64 KiB page copied to another: its words that hold an error hold it there too (R412). -/
def Mem.copyPage (m : Mem) (a b : Nat) : Mem :=
  let a := a / 65536 * 65536
  let b := b / 65536 * 65536
  if a = b then m else (m.clearRange b 65536).merge (m.slice a 65536 b)

/-- The slices of a context's granary allotment: the bytes before the first 0xFF (R200). -/
def State.slices (s : State) (ctx : Nat) : List Nat := (mgetD s.allot ctx []).takeWhile (· != 0xFF)

/-- Bytes that the device itself writes into a context's granary allotment from byte `o` on; none lands beyond its slices
(R141, R153, R200). -/
def writeAllot (s : State) (ctx o : Nat) (bs : List Byte) : State :=
  bs.zipIdx.foldl (fun s (b, k) => match (s.slices ctx)[(o + k) >>> 27]? with
    | some sl => storePhys s (s.ctxOf ctx).vf (slicePhys sl ((o + k) % 2 ^ 27)) [b]
    | none => s) s

/-- The base of a hamlet's scratchpad. -/
def scratchBase (h : Nat) : Nat := winPhys h 0 0

/-- RED and sparse-update operations by the reduce code of R221 (1 ADD to 8 FMAX), on the old bits
and the operand (R255). -/
def reduceOp (op : Nat) (old v : Nat) : Nat :=
  match op with
  | 1 => (old + v) % 2 ^ 64
  | 2 => if sgn 64 old ≤ sgn 64 v then old else v
  | 3 => if sgn 64 old ≤ sgn 64 v then v else old
  | 4 => old &&& v
  | 5 => old ||| v
  | 6 => old ^^^ v
  | 7 => (roundFP32 (Num.add (unpackF fp32 old) (unpackF fp32 (v % 2 ^ 32)))).toNat
  | _ => (roundFP32 (numMax (unpackF fp32 old) (unpackF fp32 (v % 2 ^ 32)))).toNat

/-- Operand size of a reduce code: 4 for FADD and FMAX, else 8. -/
def redSize (op : Nat) : Nat := if op == 7 || op == 8 then 4 else 8

/-- The operation of a reduce code on an element of `n` bytes.  FADD and FMAX have a result only at
their own size; elsewhere the spec states none (log 27). -/
def reduceOpN (n op old v : Nat) : Nat :=
  if n = redSize op then reduceOp op old v
  else
    let w := 8 * n
    match op with
    | 1 => (old + v) % 2 ^ w
    | 2 => if sgn w old ≤ sgn w v then old else v
    | 3 => if sgn w old ≤ sgn w v then v else old
    | 4 => old &&& v
    | 5 => old ||| v
    | 6 => old ^^^ v
    | _ => Config.freeReduce n op old v

/-- ATOM, SWAP operations (R254): ADD MIN MAX MINU MAXU AND OR XOR SWAP. -/
def atomOp (op : Nat) (old v : Nat) : Nat :=
  match op with
  | 0 => (old + v) % 2 ^ 64
  | 1 => if sgn 64 old ≤ sgn 64 v then old else v
  | 2 => if sgn 64 old ≤ sgn 64 v then v else old
  | 3 => if old ≤ v then old else v
  | 4 => if old ≤ v then v else old
  | 5 => old &&& v
  | 6 => old ||| v
  | 7 => old ^^^ v
  | _ => v

end Sys2Proof.Machine
end

