-- ==== Sys2Proof/Machine/Xlate.lean ====
section
/-! DEFINITION. Translation of global virtual addresses (R145 to R152): the two-stage walk, the
caches, and the requests that wait for a walk. -/

namespace Sys2Proof.Machine

/-- Rights as bits: R 1, W 2, X 4, A 8, T 16. -/
def rR : Nat := 1
/-- Store. -/
def rW : Nat := 2
/-- Fetch. -/
def rX : Nat := 4
/-- Atomics and reductions. -/
def rA : Nat := 8
/-- Tags may be stored. -/
def rT : Nat := 16

/-- log2 of what a leaf of a level maps (R146). -/
def lvlShift : Nat → Nat
  | 0 => 43 | 1 => 30 | 2 => 21 | _ => 16
/-- Index bits of a level (R146); the second stage uses bits 51:43 at L0. -/
def lvlBits : Nat → Nat
  | 0 => 13 | 1 => 13 | 2 => 9 | _ => 5
/-- log2 of the size of the table of a level (R146). -/
def tblShift : Nat → Nat
  | 0 => 16 | 1 => 16 | 2 => 12 | _ => 8

/-- The index of a level. -/
def lvlIndex (a lvl : Nat) : Nat := natField a (lvlShift lvl) (lvlBits lvl)

/-- The rights bits of a table entry (R147). -/
def entryRights (e : Nat) : Nat :=
  natField e 2 1 * rR + natField e 3 1 * rW + natField e 4 1 * rX + natField e 5 1 * rA
    + natField e 6 1 * rT

/-- ADDR of an entry (R147). -/
def entryAddr (e : Nat) : Nat := natField e 8 44 <<< 8

/-- A malformed entry (R147, R148). -/
def malformed (e lvl : Nat) : Bool :=
  let leaf := natField e 1 1 == 1
  natField e 52 12 != 0 || natField e 7 1 != 0 || (leaf && lvl == 0) || (!leaf && lvl == 3)
    || entryAddr e % 2 ^ (if leaf then lvlShift lvl else tblShift (lvl + 1)) != 0

/-- What a walk has read, as the addresses of its table words, and what it found. -/
abbrev Traced (α : Type) := List Nat × Except Trap α

/-- A walk that goes on from what a part of it found. -/
def Traced.andThen {α β : Type} (x : Traced α) (f : α → Traced β) : Traced β :=
  match x with
  | (l, .ok a) =>
    let (k, r) := f a
    (l ++ k, r)
  | (l, .error t) => (l, .error t)

/-- A failure of a walk at a stage and level (R148). -/
def walkFault {α : Type} (c : Code) (stage lvl : Nat) : Traced α := ([], .error { code := c, walk := some (stage, lvl) })

/-- A table word.  An uncorrectable one ends the walk with its error (R144, log 57). -/
def tableWord (m : Mem) (a : Nat) : Traced Nat :=
  ([a], if m.badAt a 8 then .error (errorAt (m.badWord a 8)) else .ok (leNat (m.read a 8)))

/-- The second stage (R148): from table `t` at level `lvl`, the physical address, page shift and
rights of an intermediate address. -/
def stage2From (m : Mem) (ipa need : Nat) : Nat → Nat → Nat → Traced (Nat × Nat × Nat)
  | 0, _, lvl => walkFault .xlatePerm 2 lvl
  | fuel + 1, t, lvl =>
    (tableWord m (t + lvlIndex ipa lvl * 8)).andThen fun e =>
      if e % 2 = 0 then walkFault .xlateMiss 2 lvl
      else if malformed e lvl then walkFault .xlatePerm 2 lvl
      else if natField e 1 1 = 1 then
        let pa := entryAddr e + ipa % 2 ^ lvlShift lvl
        if permsIn need (entryRights e) && populated pa then ([], .ok (pa, lvlShift lvl, entryRights e))
        else walkFault .xlatePerm 2 lvl
      else if populated (entryAddr e) then stage2From m ipa need fuel (entryAddr e) (lvl + 1)
      else walkFault .xlatePerm 2 lvl

/-- The second stage of a VF. -/
def stage2Walk (s : State) (vf ipa need : Nat) : Traced (Nat × Nat × Nat) :=
  match mget s.roots2 vf with
  | none => walkFault .xlateMiss 2 0
  | some r => if ipa < 2 ^ 52 then stage2From s.mem ipa need 4 (r.toNat >>> 16 <<< 16) 0
      else walkFault .xlatePerm 2 0

/-- What the second stage of a VF finds. -/
def stage2 (s : State) (vf ipa need : Nat) : Except Trap (Nat × Nat × Nat) := (stage2Walk s vf ipa need).2

/-- The first stage from an intermediate table address (R148): every table pointer is translated by
the second stage. -/
def stage1From (s : State) (vf va need : Nat) : Nat → Nat → Nat → Traced (Nat × Nat × Nat)
  | 0, _, lvl => walkFault .xlatePerm 1 lvl
  | fuel + 1, ti, lvl =>
    (stage2Walk s vf (ti + lvlIndex va lvl * 8) rR).andThen fun (e0, _, _) =>
      (tableWord s.mem e0).andThen fun e =>
        if e % 2 = 0 then walkFault .xlateMiss 1 lvl
        else if malformed e lvl then walkFault .xlatePerm 1 lvl
        else if natField e 1 1 = 1 then
          if !permsIn need (entryRights e) then walkFault .xlatePerm 1 lvl
          else (stage2Walk s vf (entryAddr e + va % 2 ^ lvlShift lvl) need).andThen fun (pa, lg, r2) =>
            ([], .ok (pa, if lg < lvlShift lvl then lg else lvlShift lvl, entryRights e &&& r2))
        else stage1From s vf va need fuel (entryAddr e) (lvl + 1)

/-- Both stages of a walk (R148) with what it reads. -/
def walkBoth (s : State) (ctx vf va need : Nat) : Traced (Nat × Nat × Nat) :=
  match mget s.roots1 ctx with
  | none => walkFault .xlateMiss 1 0
  | some r => if va < 2 ^ 56 then stage1From s vf va need 4 (r.toNat >>> 16 <<< 16) 0 else walkFault .xlatePerm 1 0

/-- Walk (R148): the combined mapping of a virtual address. -/
def walk (s : State) (ctx vf va need : Nat) : WalkRes :=
  match (walkBoth s ctx vf va need).2 with
  | .error t => .fault t
  | .ok (pa, lg, rights) =>
    .ok { ctx := ctx, vf := vf, lg := lg, vpage := va >>> lg, ppage := pa >>> lg
          r := rights.testBit 0, w := rights.testBit 1, x := rights.testBit 2
          a := rights.testBit 3, t := rights.testBit 4 }

/-- The table words that a walk reads are counted at their memories, and the soft errors that it meets are corrected and
counted (R144, R205). -/
def correctWalk (s : State) (ctx vf va need : Nat) : State :=
  (walkBoth s ctx vf va need).1.foldl (fun s a => countRead (correctSoft s vf a 8) vf a 8) s

/-- A walk's failure as the fault of an access (R102): EADDR is the virtual address for a miss or a refusal, and the
physical one for an uncorrectable table word. -/
def walkTrap (t : Trap) (va : Nat) : Trap :=
  if t.code = .xlateMiss || t.code = .xlatePerm then { t with addr := BitVec.ofNat 64 va } else t

/-- The rights of a cached mapping. -/
def TlbEntry.rights (e : TlbEntry) : Nat :=
  (if e.r then rR else 0) + (if e.w then rW else 0) + (if e.x then rX else 0)
    + (if e.a then rA else 0) + (if e.t then rT else 0)

/-- Whether a cached mapping covers an address of a context. -/
def TlbEntry.covers (e : TlbEntry) (ctx vf va : Nat) : Bool :=
  e.ctx == ctx && e.vf == vf && e.vpage == va >>> e.lg

/-- A mapping in a cache (R149). -/
def tlbFind (l : List TlbEntry) (ctx vf va : Nat) : Option TlbEntry := l.find? (·.covers ctx vf va)

/-- A translation that the Steward, the loader or an engine makes by walking at once, with no
cache. -/
def walkNow (s : State) (ctx vf va need : Nat) : Except Trap Nat :=
  match walk s ctx vf va need with
  | .ok e => .ok (e.ppage <<< e.lg + va % 2 ^ e.lg)
  | .fault t => .error (walkTrap t va)

/-- Whether a requester is an engine or the Steward, which walk at once. -/
def Who.walksNow : Who → Bool
  | .cmd _ => true
  | .steward => true
  | _ => false

/-- Who an access is made for: the requester, its context and VF, and the hamlet whose caches
serve it. -/
structure Acx where
  who : Who
  ctx : Nat
  vf : Nat
  ham : Nat
  deriving DecidableEq, Repr

/-- Translates a space-0 address (R145, R148, R149): for an engine by a walk, else from the hamlet's cache, which fills
from the parish's, from a walk's result held for the requester, or by asking for a walk. -/
def translate (s : State) (x : Acx) (va need : Nat) : Except Stop Nat :=
  if x.who.walksNow then
    match walkNow s x.ctx x.vf va need with
    | .ok pa => .ok pa
    | .error t => .error (.trap t)
  else
  let use (e : TlbEntry) : Except Stop Nat :=
    if permsIn need e.rights then .ok (e.ppage <<< e.lg + va % 2 ^ e.lg)
    else raise .xlatePerm va
  match tlbFind (mgetD s.tlbH x.ham []) x.ctx x.vf va with
  | some e => use e
  | none =>
    let mine := s.walkGifts.find? fun g =>
      g.who == x.who && g.ctx == x.ctx &&
      match g.res with
      | .ok e => e.covers x.ctx x.vf va
      | .fault _ => g.va >>> 16 == va >>> 16
    match mine with
    | some { res := .ok e, .. } => use e
    | some { res := .fault t, .. } => .error (.trap (walkTrap t va))
    | none =>
      match tlbFind (mgetD s.tlbP (hamSlice x.ham) []) x.ctx x.vf va with
      | some e => await .translation (some (.fill x.ham e))
      | none => await .translation (some (.walk x.who x.ctx x.vf x.ham va need))

/-- The set of the parish cache that holds a page (R149; log 24). -/
def tlbSet (e : TlbEntry) : Nat := e.vpage % 256

/-- Adds a mapping to a hamlet's cache of 64 entries, dropping the oldest (R149; log 24). -/
def tlbAdd (l : List TlbEntry) (e : TlbEntry) : List TlbEntry := (e :: l).take 64

/-- Adds a mapping to a parish cache, 256 sets of 8 ways: the oldest entry of a full set is dropped (R149; log 24). -/
def tlbAddP (l : List TlbEntry) (e : TlbEntry) : List TlbEntry :=
  let ways := l.filter fun f => tlbSet f == tlbSet e
  let rest := match ways.getLast? with
    | some old => if ways.length < 8 then l else l.filter (· != old)
    | none => l
  e :: rest

/-- Registers what a stopped operation asks for.  A walk joins a pending walk of the same context
and page while it has fewer than 64 waiters (R150).  DESIGN CHOICE (log 24), safe: before a walk's leaf is known, its page is
compared by 64 KiB. -/
def register (s : State) (rq : Option Req) : State :=
  match rq with
  | none => s
  | some (.walk who ctx vf ham va need) =>
    let parish := hamSlice ham
    let same (w : Walk) : Bool :=
      w.parish == parish && w.ctx == ctx && w.vf == vf && w.va >>> 16 == va >>> 16
    if s.walks.any fun w => same w && w.waiters.contains who then s
    else
      match s.walks.find? fun w => same w && w.waiters.length < 64 with
      | some w =>
        { s with walks := s.walks.map fun y =>
            if y.id = w.id then { y with waiters := y.waiters ++ [who] } else y }
      | none =>
        if s.walks.any same then s
        else
          { s with
            nextId := s.nextId + 1
            walks := s.walks ++ [{ id := s.nextId, parish := parish, ctx := ctx, vf := vf, va := va
                                   need := need, waiters := [who], running := false }] }
  | some (.fill ham e) => { s with tlbH := mset s.tlbH ham (tlbAdd (mgetD s.tlbH ham []) e) }
  | some (.bank who cell b) =>
    if s.bankWait.contains (who, cell, b) then s else { s with bankWait := s.bankWait ++ [(who, cell, b)] }
  | some (.peer who ctx vf addr ea mapped op) =>
    if s.peerOut.any fun p => p.who == who && p.addr == addr && p.op == op && p.wants then s
    else
      { s with
        nextId := s.nextId + 1
        peerOut := s.peerOut ++ [{ id := s.nextId, who := who, port := addr >>> 41 % 48, addr := addr
                                   op := op, wants := true, ctx := ctx, vf := vf, ea := ea, mapped := mapped }] }
  | some (.sync who word consume) =>
    if s.waiters.any fun w => w.who == who && w.word == word then s
    else { s with waiters := s.waiters ++ [{ word := word, who := who, consume := consume }] }

/-- Drops what was held for a requester whose operation has ended. -/
def release (s : State) (who : Who) : State :=
  { s with
    walkGifts := s.walkGifts.filter (·.who != who)
    peerIn := s.peerIn.filter (·.who != who)
    gifts := s.gifts.filter (·.who != who)
    bankWait := s.bankWait.filter (·.1 != who) }

end Sys2Proof.Machine
end

