-- ==== Sys2Proof/Machine/Window.lean ====
section
/-! DEFINITION. Cells and their windows (R107 to R117, R284, R308): finding the cell of a place,
parameter words, status words, held registers, port slots and accumulators as bytes. -/

namespace Sys2Proof.Machine

/-- A parameter word of a cell. -/
def Cell.word (c : Cell) (i : Nat) : W64 := (mget c.words i).getD 0
/-- A field of a parameter word. -/
def Cell.fld (c : Cell) (i lo n : Nat) : Nat := natField (c.word i).toNat lo n
/-- An actor slot. -/
def Cell.slot (c : Cell) (a : Nat) : Slot := (mget c.slots a).getD {}
/-- A node's state. -/
def Cell.node (c : Cell) (i : Nat) : NodeSt := (mget c.nodes i).getD .plain
/-- Replaces a node's state. -/
def Cell.setNode (c : Cell) (i : Nat) (n : NodeSt) : Cell := { c with nodes := mset c.nodes i n }
/-- An input buffer. -/
def Cell.buf (c : Cell) (p : Nat) : List Token := mgetD c.inb p []
/-- Replaces an input buffer. -/
def Cell.setBuf (c : Cell) (p : Nat) (l : List Token) : Cell := { c with inb := mput c.inb p l [] }
/-- An actor port. -/
def Slot.port (x : Slot) (p : Nat) : APort := (mget x.ports p).getD {}
/-- Replaces an actor port. -/
def Slot.setPort (x : Slot) (p : Nat) (a : APort) : Slot := { x with ports := mset x.ports p a }
/-- A held register. -/
def heldOf (m : SMap Held) (i : Nat) : Held := (mget m i).getD ⟨0, false⟩

/-- An instance. -/
def State.inst (s : State) (i : Nat) : Option Inst := mget s.insts i
/-- Changes an instance. -/
def State.updInst (s : State) (i : Nat) (f : Inst → Inst) : State := { s with insts := mupd s.insts i f }
/-- A cell of an instance. -/
def Inst.cell (x : Inst) (page cell : Nat) : Cell := (mget x.cells (16 * page + cell)).getD {}
/-- Replaces a cell. -/
def Inst.setCell (x : Inst) (page cell : Nat) (c : Cell) : Inst :=
  { x with cells := mset x.cells (16 * page + cell) c }
/-- The cell of a node. -/
def State.cellAt (s : State) (n : NodeRef) : Cell :=
  match s.inst n.inst with
  | some x => x.cell n.page n.cell
  | none => {}
/-- Replaces the cell of a node. -/
def State.setCellAt (s : State) (n : NodeRef) (c : Cell) : State :=
  s.updInst n.inst fun x => x.setCell n.page n.cell c
/-- The hamlet of a node. -/
def State.nodeHam (s : State) (n : NodeRef) : Nat :=
  match s.inst n.inst with
  | some x => x.hams.getD n.page 0
  | none => 0

/-- The page whose active plane occupies a hamlet: instance and page (R36, R39). -/
def pageAt (s : State) (h : Nat) : Option (Nat × Nat) :=
  s.insts.findSome? fun (i, x) =>
    if x.plane = .active || x.plane = .freezing then
      (x.hams.findIdx? (· == h)).map fun p => (i, p)
    else none

/-- The stream port of a hamlet. -/
def State.sport (s : State) (h p : Nat) : SPort := (mget s.ports (h * 16 + p)).getD {}
/-- Replaces a stream port. -/
def State.setSport (s : State) (h p : Nat) (x : SPort) : State :=
  { s with ports := mset s.ports (h * 16 + p) x }

/-- The circuit that leaves an output port of an instance's cell. -/
def Inst.outCirc (x : Inst) (page cell port : Nat) : Option Nat :=
  x.circs.findIdx? fun c => c.si.isNone && c.sp == page && c.sc == cell && c.sport == port
/-- The circuit that enters an input port. -/
def Inst.inCirc (x : Inst) (page cell port : Nat) : Option Circ :=
  x.circs.find? fun c => c.di.isNone && c.dp == page && c.dc == cell && c.dport == port
/-- The node at a circuit's source and at its destination. -/
def Circ.srcRef (c : Circ) (own : Nat) : NodeRef := ⟨c.si.getD own, c.sp, c.sc, 0⟩
/-- The node at a circuit's destination. -/
def Circ.dstRef (c : Circ) (own : Nat) : NodeRef := ⟨c.di.getD own, c.dp, c.dc, 0⟩

/-- The tokens on a circuit's links, the oldest first. -/
def Circ.tokens (c : Circ) : List Token := c.links.reverse.flatMap (·.fifo)
/-- Whether nothing stands on a circuit's links and every credit has come back. -/
def Circ.idle (c : Circ) : Bool := c.links.all fun l => l.fifo.isEmpty && l.returned == 0

/-- The tokens that a FANOUT has enqueued into a branch and that its consumer has not taken out of its input buffer: CNTb
(R395).  An initial token of that buffer (R419) was never enqueued. -/
def branchHeld (s : State) (n : NodeRef) (port : Nat) : Nat :=
  let c := s.cellAt n
  (mgetD c.outq port []).length +
  match s.inst n.inst with
  | some x => match (x.outCirc n.page n.cell port).bind (x.circs[·]?) with
    | some k =>
      let d := k.dstRef n.inst
      let dc := s.cellAt d
      k.tokens.length +
        let sent (l : List Token) : Nat := (l.filter fun t => !t.init).length
        match dc.kind with
        | .actor =>
          let a := (dc.slot (k.dport / 8)).port (k.dport % 8)
          sent ((List.range a.fill).map fun j => mgetD a.slots ((a.head + j) % 16) { kind := .data })
        | .memory => if k.dport < 16 then sent (s.sport (s.nodeHam d) k.dport).buf else sent (dc.buf k.dport)
        | _ => sent (dc.buf k.dport)
    | none => 0
  | none => 0

/-- The branch window counts CNT0 to CNT3 (R319, R395). -/
def branchCounts (s : State) (n : NodeRef) : List Nat := [4, 5, 6, 7].map (branchHeld s n)

/-- PSTAT's word (R269) from the port's declaration (R392) and its state. -/
def pstatWord (decl : Nat) (p : SPort) : W64 :=
  BitVec.ofNat 64 <|
    (p.xfer.toNat <<< 32) + (p.round % 4096) <<< 16 + natField decl 15 1 <<< 15
      + natField decl 14 1 <<< 14 + (if p.lastp then 1 <<< 13 else 0) + p.lastk <<< 10
      + natField decl 9 1 <<< 9 + (if p.cur.isSome then 1 <<< 8 else 0)
      + p.pending.length <<< 5 + p.buf.length

/-- The status word 31 of an operator site (R312, R315, R318, R319). -/
def statusWord (s : State) (n : NodeRef) (c : Cell) : W64 :=
  if c.kind = .fanout then
    let l := branchCounts s n
    BitVec.ofNat 64 (nth0 l 0 + nth0 l 1 <<< 5 + nth0 l 2 <<< 10 + nth0 l 3 <<< 15)
  else
  match c.node 0 with
  | .join _ =>
    BitVec.ofNat 64 <| (List.range 4).foldl (fun n i =>
      match c.buf i with
      | t :: _ => if t.kind = .data then n + 2 ^ i else n
      | [] => n) 0
  | .count x => x.discard.zeroExtend 64
  | .coal x => BitVec.ofNat 64 x.lanes.length
  | _ => 0

/-- The bits of a parameter word that a gated window write changes (R111, R113, R284, R308 to R324, R392): every other
bit is fixed, is read-only or is reserved. -/
def wordMask (k : Kind) (i : Nat) : Nat :=
  let common (m1 m2 m3 : Nat) : Nat :=
    match i with
    | 0 => 0xFF0FF0 | 1 => m1 | 2 => m2 | 3 => m3 | _ => 0
  match k with
  | .join => common 0x3337 0xFF 0
  | .steer => common 0x3F73 (2 ^ 64 - 1) 0
  | .merge => common 0x3F07 0 0
  | .filter => common 0x3 0 0
  | .coalesce => common 0 0 0
  | .fanout => common 0x1FFFF 0 0
  | .reduce => common 0x7F 0 0
  | .count => common 0x19FF 0 0
  | .warp => common 0xFFFF 0 0
  | .convert => common 0xFF011F1F 0 0
  | .mac => common 0x1F9F1F 0xFF01FF 0x000F1FFF0000FFFF
  | .memory =>
    if i = 0 then 0xF0
    else if i < 17 then
      match i % 4 with
      | 1 => 0x1FFFFFFF | 2 => 2 ^ 40 - 1 | 3 => 2 ^ 40 - 1 | _ => 0
    else if 64 ≤ i && i < 256 then 2 ^ 64 - 1 else 0
  | .actor =>
    if 64 ≤ i then 0
    else match i % 16 with
      | 3 => 0xFF
      | r => if 4 ≤ r && r < 12 then 2 ^ 63 + 0xFFFF else 0
  | .unused => 0

/-- The stored word with the bits that a gated window write changes replaced. -/
def paramKeep (c : Cell) (i : Nat) (old new : W64) : W64 :=
  let m := BitVec.ofNat 64 (wordMask c.kind i)
  (old &&& ~~~m) ||| (new &&& m)

/-- The bits of a stored word that a window reads: those of `wordMask`, KIND, an actor's IMAGE and a stream port's
declaration. -/
def viewMask (k : Kind) (i : Nat) : W64 :=
  BitVec.ofNat 64 (wordMask k i) ||| match k with
    | .unused => 0
    | .actor => if i < 64 && i % 16 = 2 then 0xFFFFFFFF else 0
    | .memory => if i = 0 then 0xF else 0
    | _ => if i = 0 then 0xF else 0

/-- A parameter word as the window reads it (R111, R113, R284, R308, R322, R392). -/
def paramView (s : State) (h : Nat) (n : NodeRef) (c : Cell) (i : Nat) : W64 :=
  let v := c.word i &&& viewMask c.kind i
  match c.kind with
  | .actor =>
    let x := c.slot (i / 16)
    if 64 ≤ i then 0
    else match i % 16 with
      | 0 => c.word i
      | 1 => c.word i
      | 2 => setBit (setBit (setBit v 63 x.valid) 62 x.done) 61 x.halted
      | _ => v
  | .memory =>
    if 4 ≤ i && i < 20 && i % 4 = 0 then
      match c.node ((i - 4) / 4) with
      | .mem m => m.done.zeroExtend 64 <<< 32 ||| BitVec.ofNat 64 m.queue.length
      | _ => 0
    else if 32 ≤ i && i < 64 && i % 2 = 0 then
      pstatWord (c.word i).toNat (s.sport h ((i - 32) / 2))
    else v
  | .mac => v
  | .convert => v
  | .unused => 0
  | _ => if i = 31 then statusWord s n c else v

/-- The cell status word (R115). -/
def cellStatus (c : Cell) : W64 :=
  let halt := c.kind == .actor && c.slots.any fun x => x.2.halted
  BitVec.ofNat 64 <|
    (if c.abusy then 1 <<< 11 else 0) + c.abank <<< 8 + (if halt then 4 else 0)
      + (if c.pwd then 2 else 0) + (if c.sat then 1 else 0)

/-- The pointer word of an actor port (R110). -/
def ptrWord (x : Slot) (p : Nat) : W64 :=
  let a := x.port p
  let pend := match x.firing with
    | some f => mgetD f.pend p 0
    | none => 0
  BitVec.ofNat 64 (pend <<< 24 + a.fill <<< 16 + a.tail <<< 8 + a.head)

/-- A 64-bit part of a 512-bit value. -/
def part64 (v : W512) (i : Nat) : W64 := v.extractLsb' (64 * i) 64
/-- Replaces a 64-bit part of a 512-bit value. -/
def setPart64 (v : W512) (i : Nat) (w : W64) : W512 :=
  (v &&& ~~~((0xFFFFFFFFFFFFFFFF#64).zeroExtend 512 <<< (64 * i))) ||| (w.zeroExtend 512 <<< (64 * i))

/-- A 64-bit word of a slot's port buffer (R111). -/
def slotWord (t : Token) (w : Nat) : W64 :=
  if w < 8 then part64 t.data w else if w = 8 then t.mask else t.tag
/-- Replaces a 64-bit word of a slot's port buffer. -/
def setSlotWord (t : Token) (w : Nat) (v : W64) : Token :=
  if w < 8 then { t with data := setPart64 t.data w v }
  else if w = 8 then { t with mask := v } else { t with tag := v }

/-- What a place in an actor slot's window is (R111). -/
inductive SlotPlace where
  | h (r w : Nat)
  | q (r : Nat)
  | ptr (p : Nat)
  | port (p slot w : Nat)
  | gap
  deriving DecidableEq, Repr

/-- The place of a doubleword offset from an actor slot's window start. -/
def slotPlace (o : Nat) : SlotPlace :=
  if o < 0x400 then .h (o / 64) (o % 64 / 8)
  else if o < 0x440 then .q ((o - 0x400) / 8)
  else if o < 0x480 then .ptr ((o - 0x440) / 8)
  else if 0x800 ≤ o && o < 0x3000 then
    let b := o - 0x800
    .port (b / 0x500) (b % 0x500 / 0x50) (b % 0x50 / 8)
  else .gap

/-- An aligned doubleword of an actor slot's window. -/
def slotView (x : Slot) (o : Nat) : W64 :=
  match slotPlace o with
  | .h r w => part64 (heldOf x.h r).val w
  | .q r => field (heldOf x.q r).val 0 64
  | .ptr p => ptrWord x p
  | .port p n w => slotWord (mgetD (x.port p).slots n { kind := .data }) w
  | .gap => 0

/-- Writes an aligned doubleword of a slot's window at a firing boundary (R112). -/
def slotPut (x : Slot) (o : Nat) (v : W64) : Slot :=
  match slotPlace o with
  | .h r w => { x with h := mset x.h r ⟨setPart64 (heldOf x.h r).val w v, false⟩ }
  | .q r => { x with q := mset x.q r ⟨v.zeroExtend 512, false⟩ }
  | .port p n w =>
    let a := x.port p
    let t := setSlotWord (mgetD a.slots n { kind := .data }) w v
    x.setPort p { a with slots := mset a.slots n { t with poison := false } }
  | _ => x

/-- An aligned doubleword of a cell's register window (R111). -/
def winWord (s : State) (h : Nat) (n : NodeRef) (c : Cell) (o : Nat) : W64 :=
  if o < 0x1000 then paramView s h n c (o / 8)
  else if o = 0xF000 then cellStatus c
  else if c.kind = .actor && o < 0xD000 then
    slotView (c.slot ((o - 0x1000) / 0x3000)) ((o - 0x1000) % 0x3000)
  else 0

/-- The cell that stands at a hamlet's cell number. -/
def cellOfHam (s : State) (h cell : Nat) : Option (NodeRef × Cell) :=
  match pageAt s h with
  | some (i, p) =>
    let n : NodeRef := ⟨i, p, cell, 0⟩
    some (n, s.cellAt n)
  | none => none

/-- `n` bytes of a register window; a hamlet with no page reads 0. -/
def readWin (s : State) (h cell o : Nat) : Nat → List Byte
  | 0 => []
  | n + 1 =>
    let (m, c) := (cellOfHam s h cell).getD (⟨0, 0, cell, 0⟩, {})
    BitVec.ofNat 8 ((winWord s h m c (o / 8 * 8)).toNat >>> (o % 8 * 8)) :: readWin s h cell (o + 1) n

/-- A doubleword with bytes from position `k` on replaced. -/
def mergeBytes (old : W64) (k : Nat) (bs : List Byte) : W64 :=
  BitVec.ofNat 64 (setField old.toNat (8 * k) (8 * bs.length) (leNat bs))

/-- The launch that a node's instance belongs to: its key, context and VF. -/
def nodeOwner (s : State) (n : NodeRef) : Nat × Nat × Nat :=
  match s.inst n.inst with
  | some y => match s.launchOf y.launch with
    | some l => (y.launch, l.ctx, l.vf)
    | none => (y.launch, 0, 0)
  | none => (0, 0, 0)

/-- Whether the page of a node is gated (R113). -/
def nodeGated (s : State) (n : NodeRef) : Bool :=
  match s.inst n.inst with
  | some x => x.gated
  | none => false

/-- The actor slot of a window offset. -/
def winSlot (o : Nat) : Nat := (o - 0x1000) / 0x3000

/-- The port slot that a window offset lies in: actor slot, port, slot. -/
def winPortSlot (o : Nat) : Option (Nat × Nat × Nat) :=
  if o < 0x1000 || 0xD000 ≤ o then none
  else match slotPlace ((o / 8 * 8 - 0x1000) % 0x3000) with
    | .port p n _ => some (winSlot o, p, n)
    | _ => none

/-- The port slots whose tag word a window write gives another context than the cell's (R112). -/
def foreignSlots (s : State) (h cell o : Nat) (bs : List Byte) : List (Nat × Nat × Nat) :=
  match cellOfHam s h cell with
  | some (n, c) =>
    if c.kind != .actor || o < 0x1000 || 0xD000 ≤ o then []
    else
      ((List.range (bs.length + 7)).filterMap fun j =>
        let b := (o + j) / 8 * 8
        let lo := if b < o then o else b
        let part := (bs.drop (lo - o)).take (8 - lo % 8)
        match winPortSlot b with
        | some k =>
          if part.isEmpty || slotPlace ((b - 0x1000) % 0x3000) != .port k.2.1 k.2.2 9 then none
          else
            let v := mergeBytes (winWord s h n c b) (lo % 8) part
            if natField v.toNat 54 10 != (nodeOwner s n).2.1 then some k else none
        | none => none).dedup
  | none => []

/-- A write of bytes inside one aligned doubleword of a register window (R111 to R115); the port slots of `skip` are
left as they are. -/
def writeWinWord (s : State) (h cell o : Nat) (bs : List Byte) (skip : List (Nat × Nat × Nat)) : State :=
  match cellOfHam s h cell with
  | none => s
  | some (n, c) =>
    let base := o / 8 * 8
    let v := mergeBytes (winWord s h n c base) (o % 8) bs
    if o < 0x1000 then
      let i := o / 8
      let ro := c.kind == .actor && i < 64 && i % 16 < 3
      if !nodeGated s n || ro then s.setCellAt n { c with pwd := true }
      else
        let c := { c with words := mput c.words i (paramKeep c i (c.word i) v) 0 }
        let c := if c.kind = .memory && 64 ≤ i && i < 256 then
            { c with ctags := sdel c.ctags ((i - 64) / 2) } else c
        s.setCellAt n c
    else if base = 0xF000 then
      let wr := (mergeBytes 0 (o % 8) bs)
      s.setCellAt n { c with
        pwd := c.pwd && !wr.getLsbD 1
        sat := c.sat && !wr.getLsbD 0 }
    else if c.kind = .actor && o < 0xD000 then
      let a := winSlot o
      let so := (base - 0x1000) % 0x3000
      let x := c.slot a
      let queued : Slot :=
        if x.firing.isNone then slotPut x so v
        else { x with writes := x.writes ++ [⟨(o - 0x1000) % 0x3000, bs⟩] }
      let put : State := s.setCellAt n { c with slots := mset c.slots a queued }
      match slotPlace so with
      | .gap => s
      | .ptr _ => s
      | .port p k _ => if skip.contains (a, p, k) then s else put
      | _ => put
    else s

/-- A write to a register window, doubleword by doubleword, but for the port slots of `skip`. -/
def writeWinParts (s : State) (h cell o : Nat) (bs : List Byte) (skip : List (Nat × Nat × Nat)) : State :=
  let first := 8 - o % 8
  let s := writeWinWord s h cell o (bs.take first) skip
  let rest := bs.drop first
  (List.range (cdiv rest.length 8)).foldl (fun s i =>
    writeWinWord s h cell (o + first + 8 * i) ((rest.drop (8 * i)).take 8) skip) s

/-- A write to a register window.  A slot write whose tag word carries a foreign context is dropped and raises
CTX_MISMATCH (R112). -/
def writeWin (s : State) (h cell o : Nat) (bs : List Byte) : State :=
  let bad := foreignSlots s h cell o bs
  let s := writeWinParts s h cell o bs bad
  match cellOfHam s h cell with
  | some (n, _) =>
    let (l, _, vf) := nodeOwner s n
    bad.foldl (fun s k =>
      (recordFault s l { code := .ctxMismatch } (siteOf s vf h cell k.1 false)).count vf 0x068) s
  | none => s

/-- A capability store into a register window: the words, and the tag of a capability word of a port
cell (R113, R126). -/
def writeWinCap (s : State) (h cell o : Nat) (k : Cap) : State :=
  let s1 := writeWin s h cell o (leBytes 16 k.bits.toNat)
  match cellOfHam s1 h cell with
  | some (n, c) =>
    if c.kind = .memory && nodeGated s1 n && 512 ≤ o && o < 2048 && o % 16 = 0 then
      s1.setCellAt n { c with ctags := sput c.ctags ((o - 512) / 16) k.tag }
    else s1
  | none => s1

/-- A capability of a register window: its bits and, for a port cell's capability words, its tag. -/
def readWinCap (s : State) (h cell o : Nat) : Cap :=
  let tag := match cellOfHam s h cell with
    | some (_, c) => c.kind == .memory && 512 ≤ o && o < 2048 && c.ctags.contains ((o - 512) / 16)
    | none => false
  ⟨BitVec.ofNat 128 (leNat (readWin s h cell o 16)), tag⟩

/-- The key of an accumulator word (R116). -/
def accKey (h cell o : Nat) : Nat := (h * 8 + cell) * 8192 + o / 4
/-- An accumulator word by bank, row and column. -/
def accIdx (h cell bank i j : Nat) : Nat := accKey h cell (bank * 4096 + (i * 32 + j) * 4)
/-- The value of an accumulator word. -/
def State.acc (s : State) (k : Nat) : W32 := (mget s.accs k).getD 0
/-- Writes an accumulator word. -/
def State.setAcc (s : State) (k : Nat) (v : W32) : State := { s with accs := mput s.accs k v 0 }

/-- `n` bytes of an accumulator window (R116). -/
def readAcc (s : State) (h cell o : Nat) : Nat → List Byte
  | 0 => []
  | n + 1 => BitVec.ofNat 8 ((s.acc (accKey h cell o)).toNat >>> (o % 4 * 8))
      :: readAcc s h cell (o + 1) n

/-- A write to an accumulator window. -/
def writeAcc (s : State) (h cell o : Nat) : List Byte → State
  | [] => s
  | b :: bs =>
    let k := accKey h cell o
    writeAcc (s.setAcc k (BitVec.ofNat 32 (setField (s.acc k).toNat (o % 4 * 8) 8 b.toNat)))
      h cell (o + 1) bs

/-- The key of a MAC cell in `bankWait`. -/
def accCell (h cell : Nat) : Nat := h * 8 + cell

/-- Whether an access to an accumulator window must wait for an open round (R117). -/
def accBusy (s : State) (h cell o : Nat) : Bool :=
  match cellOfHam s h cell with
  | some (_, c) => c.abusy && c.abank == o / 4096
  | none => false

end Sys2Proof.Machine
end

