-- ==== Sys2Proof/Machine/Access.lean ====
section
/-! DEFINITION. Accesses through capabilities (R123, R129 to R136, R238): where an address lies, the
load, store and update of a place, and the shared `access` of R238. -/

namespace Sys2Proof.Machine

/-- Where an access lands. -/
inductive Loc where
  /-- Scratchpad, granary, local LPDDR-6 or host memory, by physical address. -/
  | phys (a : Nat)
  /-- A cell's register window. -/
  | win (h cell o : Nat)
  /-- A MAC cell's accumulator window. -/
  | acc (h cell o : Nat)
  /-- A reeve's control window. -/
  | ctl (h o : Nat)
  /-- A physical function's register. -/
  | mmio (o : Nat)
  /-- Another package: the address in the peer region, the address of the access (R102), whether a mapping led
  there. -/
  | peer (a ea : Nat) (mapped : Bool)
  deriving DecidableEq, Repr

/-- The place of a physical address (R132, R133, R136). -/
def physLoc (a ea : Nat) : Except Stop Loc :=
  if !populated a then raise .xlatePerm ea
  else if a >>> 50 = 2 then .ok (.peer (natField a 0 50) ea true)
  else if a >>> 48 = 13 then
    let h := winHam a
    match natField a 36 2 with
    | 0 => .ok (.phys a)
    | 1 => .ok (.win h (natField a 16 4) (natField a 0 16))
    | 2 => .ok (.acc h (natField a 15 3) (natField a 0 15))
    | _ => .ok (.ctl h (natField a 0 16))
  else if a >>> 48 = 14 then .ok (.mmio (natField a 0 48))
  else .ok (.phys a)

/-- The hamlet of a relative address of spaces 1 to 3 (R130). -/
def relHam (s : State) (x : Acx) (ea : Nat) : Except Stop Nat :=
  match homeHam s x.vf (whoLaunch s x.who) (natField ea 45 3) (natField ea 38 7) with
  | some h => .ok h
  | none => raise .xlatePerm ea

/-- What a failing second stage of a space-5 access raises: an uncorrectable table word its error, all else the error
reply XLATE_PERM (R144, R409). -/
def peerRefusal {α : Type} (t : Trap) (ea : Nat) : Except Stop α :=
  if t.code.replays then .error (.trap t) else raise .xlatePerm ea

/-- The place of a checked address of a space (R129 to R131, R145); the PCIe modes have no atomics to the host (R405).  A granary slice that is being cleared for its
new context is waited for (R140). -/
def locate (s : State) (x : Acx) (space ea need : Nat) : Except Stop Loc :=
  match space with
  | 0 => do
    let pa ← translate s x ea need
    check (!(isHost pa && need.testBit 3 && 3 ≤ s.linkMode)) .xlatePerm ea
    physLoc pa ea
  | 1 => do
    let h ← relHam s x ea
    .ok (.phys (scratchBase h + natField ea 0 21))
  | 2 => do
    let h ← relHam s x ea
    .ok (.win h (natField ea 16 4) (natField ea 0 16))
  | 3 => do
    let h ← relHam s x ea
    .ok (.acc h (natField ea 15 3) (natField ea 0 15))
  | 4 =>
    match (s.slices x.ctx)[ea >>> 27]? with
    | some sl =>
      if (mget s.sliceClear sl).isSome then await .memory
      else .ok (.phys (slicePhys sl (natField ea 0 27)))
    | none => raise .xlatePerm ea
  | 5 =>
    let pkg := ea >>> 41
    if pkg ≥ 384 then raise .xlateMiss ea
    else if pkg = s.pkg then
      match mget s.domain (pkg * 512 + x.vf) with
      | none => raise .xlatePerm ea
      | some v =>
        match stage2 s v (natField ea 0 41) (need &&& (rR ||| rW ||| rA)) with
        | .ok (pa, _, _) => physLoc pa ea
        | .error t => peerRefusal t ea
    else if s.domainPkgs.contains pkg then .ok (.peer ea ea false)
    else raise .xlateMiss ea
  | 6 => do
    check (!(need.testBit 3 && 3 ≤ s.linkMode)) .xlatePerm ea
    .ok (.phys (1 <<< 50 ||| ea))
  | _ => raise .capSpace ea

/-- Reads of the physical function's registers (R408, R410, R414). -/
def mmioWord (s : State) (o : Nat) : W64 :=
  let i := o / 8
  if i < 15 then BitVec.ofNat 64 (s.ready.foldl (fun n b => if b / 64 = i then n + 2 ^ (b % 64) else n) 0)
  else if i = 0x20 then s.boot
  else if 0x80 ≤ i && i < 0xB0 then
    let p := (mget s.eztons (i - 0x80)).getD {}
    BitVec.ofNat 64 ((if p.training then 1 else 0) + (if p.fail then 2 else 0) + (if p.up then 4 else 0))
  else 0

/-- A system register of R95 as a hamlet's reeve reads it. -/
def sysRead (s : State) (h : Nat) (r : Reeve) (n : Nat) : W64 :=
  match n with
  | 0x000 => BitVec.ofNat 64 r.ctx
  | 0x001 => BitVec.ofNat 64 r.vf
  | 0x002 => BitVec.ofNat 64 (hamRow h <<< 12 + hamCol h <<< 8 + hamNo h)
  | 0x003 => BitVec.ofNat 64 (hamParish h)
  | 0x004 => BitVec.ofNat 64 (hamShire h)
  | 0x005 => BitVec.ofNat 64 (s.pkg <<< 8 + hamDie h)
  | 0x006 => BitVec.ofNat 64 r.unit
  | 0x007 => BitVec.ofNat 64 r.nunits
  | 0x008 => r.lid.zeroExtend 64
  | 0x010 => r.tbits
  | 0x011 => r.tbusy
  | 0x020 => r.tvec
  | 0x021 => r.epc
  | 0x022 => r.ecause
  | 0x023 => r.eaddr
  | 0x024 => r.estat
  | 0x030 => s.time
  | 0x031 => s.cycle
  | 0x040 => r.samplecfg
  | 0x050 => r.prio
  | _ => 0

/-- The capability control words of a reeve-control window (R135). -/
def ctlWord (s : State) (h o : Nat) : W64 :=
  let r := s.reeve h
  if o < 0x100 then r.gr (BitVec.ofNat 5 (o / 8))
  else if o < 0x200 then
    let c := r.kr (BitVec.ofNat 4 ((o - 0x100) / 16))
    if o % 16 < 8 then field c.bits 0 64 else field c.bits 64 64
  else if o / 8 = 0x40 then (field r.p 1 7).zeroExtend 64 <<< 1
  else if o / 8 = 0x41 then r.pc
  else if 0x1000 ≤ o && o < 0x8000 then sysRead s h r ((o - 0x1000) / 8)
  else if o / 8 = 0x1000 then (if r.stop then 3 else 0)
  else 0

/-- The writable bits of ECAUSE, ESTAT, SAMPLECFG and PRIO at S level (R101, R104). -/
def sysMask : Nat → W64
  | 0x020 => 0xFFFFFFFFFFFFFFFC
  | 0x021 => 0xFFFFFFFFFFFFFFFF
  | 0x022 => 0x000000000FFFFFFF
  | 0x023 => 0xFFFFFFFFFFFFFFFF
  | 0x024 => 0x000000000000FE02
  | 0x040 => 0x00000000FFFFFF07
  | 0x050 => 0x00000000000000F3
  | _ => 0

/-- PRIO as a write stores it (R106): no more urgent than the launch's class, no higher than the
tenant's QoS class. -/
def prioCap (s : State) (r : Reeve) (v : W64) : W64 :=
  let (lp, lq) := match s.launchOf r.launch with
    | some l => (l.lpb.pclass, natField (s.vfOf r.vf).qos.toNat 0 4)
    | none => (natField r.prio.toNat 0 2, natField (s.vfOf r.vf).qos.toNat 0 4)
  let p := natField v.toNat 0 2
  let q := natField v.toNat 4 4
  BitVec.ofNat 64 ((if q > lq then lq else q) <<< 4 + (if p < lp then lp else p))

/-- Cycles between two samples of a reeve (R104, R208). -/
def sampleEvery (cfg : W64) : Nat := (natField cfg.toNat 8 24 + 1) * 16

/-- Whether a sample of a reeve has fallen due and not been taken. -/
def sampleIsDue (r : Reeve) : Bool := r.samplecfg.getLsbD 0 && sampleEvery r.samplecfg ≤ r.sampleCount

/-- Writes a writable system register; other bits and registers are kept (R7, R96, R280). -/
def sysWrite (s : State) (r : Reeve) (n : Nat) (v : W64) : Reeve :=
  let m := sysMask n
  let mix (old : W64) : W64 := (old &&& ~~~m) ||| (v &&& m)
  match n with
  | 0x020 => { r with tvec := mix r.tvec }
  | 0x021 => { r with epc := mix r.epc }
  | 0x022 => { r with ecause := mix r.ecause, ewalk := none }
  | 0x023 => { r with eaddr := mix r.eaddr }
  | 0x024 => { r with estat := mix r.estat }
  | 0x040 =>
    { r with
      samplecfg := mix r.samplecfg
      sampleDue := if sampleIsDue r then some r.samplecfg else r.sampleDue
      sampleCount := 0 }
  | 0x050 => { r with prio := prioCap s r (v &&& m) }
  | _ => r

/-- Stops a reeve between instructions, as a pre-emption does (R118, R135): it leaves every
waiter order. -/
def haltReeve (s : State) (h : Nat) : State :=
  let r := s.reeve h
  { s.setReeve h { r with stop := true, wait := none } with
    waiters := s.waiters.filter (·.who != .reeve h)
    bankWait := s.bankWait.filter (·.1 != .reeve h) }

/-- Lets a stopped reeve run on (R135). -/
def resumeReeve (s : State) (h : Nat) : State :=
  s.setReeve h { s.reeve h with stop := false }

/-- A doubleword write to a reeve-control window (R135): run control always, the rest only while the
reeve is stopped. -/
def writeCtl (s : State) (h o : Nat) (v : W64) : State :=
  let r := s.reeve h
  if o / 8 = 0x1000 then if v.getLsbD 0 then haltReeve s h else resumeReeve s h
  else if !r.stop then s
  else if o < 0x100 then s.setReeve h (r.setG (BitVec.ofNat 5 (o / 8)) v)
  else if o < 0x200 then
    let k : KReg := BitVec.ofNat 4 ((o - 0x100) / 16)
    let c := r.kr k
    let bits := if o % 16 < 8 then field c.bits 64 64 ++ v else v ++ field c.bits 0 64
    s.setReeve h (r.setK k ⟨bits, false⟩)
  else if o / 8 = 0x40 then
    s.setReeve h { r with p := (field v 1 7 : BitVec 7) ++ (field r.p 0 1 : BitVec 1) }
  else if o / 8 = 0x41 then s.setReeve h { r with pc := v }
  else if 0x1000 ≤ o && o < 0x8000 then s.setReeve h (sysWrite s r ((o - 0x1000) / 8) v)
  else s

/-- A write to a port-control word (R408). -/
def writeMmio (s : State) (o : Nat) (v : W64) : State :=
  let i := o / 8
  if 0x80 ≤ i && i < 0xB0 && v.getLsbD 0 then
    let p := (mget s.eztons (i - 0x80)).getD {}
    { s with eztons := mset s.eztons (i - 0x80) { p with training := true } }
  else s

/-- `n` bytes out of aligned doublewords. -/
def wordBytes (f : Nat → W64) (o : Nat) : Nat → List Byte
  | 0 => []
  | n + 1 => BitVec.ofNat 8 ((f (o / 8 * 8)).toNat >>> (o % 8 * 8)) :: wordBytes f (o + 1) n

/-- The answer to an access to another package, once it has come (R174, R379, R407). -/
def peerAnswer (s : State) (x : Acx) (a ea : Nat) (mapped : Bool) (op : PeerOp) : Except Stop (List Byte) :=
  match s.peerIn.find? fun g => g.who == x.who && g.addr == a && g.op == op with
  | some g =>
    if g.down then raise .link 0 1
    else match g.ans with
      | .done bs => .ok bs
      | .poison => raise .link 0 2
      | .refused => raise .xlatePerm ea
      | .lost => raise .link 0 2
  | none => await .memory (some (.peer x.who x.ctx x.vf a ea mapped op))

/-- An access to an accumulator bank that an open round holds waits for its release (R117). -/
def awaitBank {α : Type} (x : Acx) (h cell o : Nat) : Except Stop α :=
  await .memory (some (.bank x.who (accCell h cell) (o / 4096)))

/-- Loads `n` bytes from a place. -/
def loadLoc (s : State) (x : Acx) (l : Loc) (n : Nat) : Except Stop (List Byte × State) :=
  match l with
  | .phys a => loadPhys s x.vf a n
  | .win h c o => .ok (readWin s h c o n, s)
  | .acc h c o => if accBusy s h c o then awaitBank x h c o else .ok (readAcc s h c o n, s)
  | .ctl h o => .ok (wordBytes (ctlWord s h) o n, s)
  | .mmio o => .ok (wordBytes (mmioWord s) o n, s)
  | .peer a ea m => do
    let bs ← peerAnswer s x a ea m (.load n)
    .ok (bs, s)

/-- A store sent to another package: it is outstanding until the peer acknowledges it (R174). -/
def sendPeer (s : State) (x : Acx) (a ea : Nat) (mapped : Bool) (op : PeerOp) (part : Bool := false) : State :=
  { s with
    nextId := s.nextId + 1
    peerOut := s.peerOut ++ [{ id := s.nextId, who := x.who, port := a >>> 41 % 48, addr := a, op := op
                               wants := false, ctx := x.ctx, vf := x.vf, ea := ea, mapped := mapped
                               part := part }] }

/-- A write of bytes at an offset as writes to aligned doublewords: `f` is given the doubleword's offset, the first byte
in it and the bytes. -/
def byWords (f : State → Nat → Nat → List Byte → State) (o : Nat) (bs : List Byte) (s : State) : State :=
  let lead := 8 - o % 8
  let s := f s (o / 8 * 8) (o % 8) (bs.take lead)
  let rest := bs.drop lead
  (List.range (cdiv rest.length 8)).foldl (fun s i => f s (o + lead + 8 * i) 0 ((rest.drop (8 * i)).take 8)) s

/-- Stores bytes to a place; `full` sets full bits, `zero` sets zero flags. -/
def storeLoc (s : State) (x : Acx) (l : Loc) (bs : List Byte) (full : Bool := false)
    (zero : Bool := false) : Except Stop State :=
  match l with
  | .phys a => .ok (storePhys s x.vf a bs full zero)
  | .win h c o => .ok (writeWin s h c o bs)
  | .acc h c o => if accBusy s h c o then awaitBank x h c o else .ok (writeAcc s h c o bs)
  | .ctl h o => .ok (byWords (fun s o k bs => writeCtl s h o (mergeBytes (ctlWord s h o) k bs)) o bs s)
  | .mmio o => .ok (byWords (fun s o k bs => writeMmio s o (mergeBytes 0 k bs)) o bs s)
  | .peer a ea m => .ok (sendPeer s x a ea m (.store bs))

/-- Updates `n` bytes of a place in one indivisible step and returns the old value (R169, R254). -/
def updateLoc (s : State) (x : Acx) (l : Loc) (n : Nat) (op : PeerOp) (f : Nat → Option Nat)
    (full : Bool := false) : Except Stop (Nat × State) :=
  match l with
  | .peer a ea m =>
    match op with
    | .reduce _ _ => .ok (0, sendPeer s x a ea m op)
    | _ => do
      let bs ← peerAnswer s x a ea m op
      .ok (leNat bs, s)
  | _ => do
    let (bs, s) ← loadLoc s x l n
    let old := leNat bs
    match f old with
    | some v => do
      let s ← storeLoc s x l (leBytes n v) full
      .ok (old, s)
    | none => .ok (old, s)

/-- The effective offset of a memory instruction (R238). -/
def effOff (k : Cap) (idx : W64) (imm : Nat) : Nat := k.offset + idx.toNat + imm

/-- The class by which an access is checked: in the PCIe modes a space-6 atomic is refused by its place, with XLATE_PERM
(R405), and not by its class (R123). -/
def classAt (s : State) (k : Cap) (cl : AClass) (need : Nat) : AClass :=
  if k.space = 6 && need.testBit 3 && 3 ≤ s.linkMode then { cl with spaces := 6 :: cl.spaces } else cl

/-- Access up to the place (R238): the capability check, then translation. -/
def access (s : State) (x : Acx) (k : Cap) (off : Int) (n : Nat) (align : Nat) (cl : AClass)
    (need : Nat) : Except Stop Loc := do
  let ea ← checkCapAt k off (some n) align (classAt s k cl need)
  locate s x k.space ea need

/-- What a walk that an engine or the Steward makes counts: itself, the table bytes that it reads, and the soft errors that
it meets (R144, R205). -/
def noteWalk (s : State) (x : Acx) (space ea need : Nat) : State :=
  if x.who.walksNow && space = 0 then (correctWalk s x.ctx x.vf ea need).count x.vf 0x048 else s

/-- A place with the state after its translation. -/
def locateIn (s : State) (x : Acx) (space ea need : Nat) : Except Stop (Loc × State) :=
  match locate s x space ea need with
  | .ok l => .ok (l, noteWalk s x space ea need)
  | .error (.trap t) => .error (if x.who.walksNow then .trapIn (noteWalk s x space ea need) t else .trap t)
  | .error e => .error e

/-- A load through a capability. -/
def capRead (s : State) (x : Acx) (k : Cap) (off : Int) (n align : Nat) (cl : AClass) :
    Except Stop (List Byte × State) := do
  let l ← access s x k off n align cl rR
  loadLoc s x l n

/-- The state with a value: a load as a number. -/
def capReadNat (s : State) (x : Acx) (k : Cap) (off : Int) (n align : Nat) (cl : AClass) :
    Except Stop (Nat × State) := do
  let (bs, s) ← capRead s x k off n align cl
  .ok (leNat bs, s)

/-- A store through a capability. -/
def capWrite (s : State) (x : Acx) (k : Cap) (off : Int) (bs : List Byte) (align : Nat)
    (cl : AClass) (full : Bool := false) (zero : Bool := false) : Except Stop State := do
  let l ← access s x k off bs.length align cl rW
  storeLoc s x l bs full zero

/-- Bytes that may cross pages, `n` at a time up to the next 64 KiB boundary, each part at its own
place; the capability has been checked for the whole. -/
def readSpan (s : State) (x : Acx) (space : Nat) : Nat → Nat → Nat → Except Stop (List Byte × State)
  | 0, _, _ => .ok ([], s)
  | fuel + 1, ea, n =>
    if n = 0 then .ok ([], s)
    else do
      let k := Nat.min n (0x10000 - ea % 0x10000)
      let (l, s) ← locateIn s x space ea rR
      let (bs, s) ← loadLoc s x l k
      let (cs, s) ← readSpan s x space fuel (ea + k) (n - k)
      .ok (bs ++ cs, s)

/-- Writes that may cross pages. -/
def writeSpan (s : State) (x : Acx) (space : Nat) (full : Bool) :
    Nat → Nat → List Byte → Except Stop State
  | 0, _, _ => .ok s
  | fuel + 1, ea, bs =>
    if bs.isEmpty then .ok s
    else do
      let k := 0x10000 - ea % 0x10000
      let (l, s) ← locateIn s x space ea rW
      let s ← storeLoc s x l (bs.take k) full
      writeSpan s x space full fuel (ea + k) (bs.drop k)

/-- A block of bytes read under one check: a record, a parameter block, an image part. -/
def capBlock (s : State) (x : Acx) (k : Cap) (off : Int) (n align : Nat) (cl : AClass) :
    Except Stop (List Byte × State) := do
  let ea ← checkCapAt k off (some n) align cl
  readSpan s x k.space (n / 0x10000 + 2) ea n

/-- A capability read from memory with its tag (R126). -/
def loadCapLoc (s : State) (x : Acx) (l : Loc) : Except Stop (Cap × State) :=
  match l with
  | .phys a => do
    let (bs, s) ← loadPhys s x.vf a 16
    .ok (⟨BitVec.ofNat 128 (leNat bs), s.mem.tagAt a && !isHost a⟩, s)
  | .win h c o => .ok (readWinCap s h c o, s)
  | .ctl h o =>
    let bits := BitVec.ofNat 128 (leNat (wordBytes (ctlWord s h) o 16))
    let tag := 0x100 ≤ o && o < 0x200 && ((s.reeve h).kr (BitVec.ofNat 4 ((o - 0x100) / 16))).tag
    .ok (⟨bits, tag⟩, s)
  | l => do
    let (bs, s) ← loadLoc s x l 16
    .ok (⟨BitVec.ofNat 128 (leNat bs), false⟩, s)

/-- A capability written to memory with its tag (R126). -/
def storeCapLoc (s : State) (x : Acx) (l : Loc) (c : Cap) : Except Stop State :=
  match l with
  | .phys a => .ok (storeCap s x.vf a c)
  | .win h cell o => .ok (writeWinCap s h cell o c)
  | .ctl h o =>
    let r := s.reeve h
    if 0x100 ≤ o && o < 0x200 then
      .ok (if r.stop then s.setReeve h (r.setK (BitVec.ofNat 4 ((o - 0x100) / 16)) c) else s)
    else storeLoc s x (.ctl h o) (leBytes 16 c.bits.toNat)
  | l => storeLoc s x l (leBytes 16 c.bits.toNat)

/-- The access context of the acting reeve. -/
def State.acx (s : State) : Acx := { who := .reeve s.cur, ctx := s.me.ctx, vf := s.me.vf, ham := s.cur }

/-- Whether a store is one that a replay would not repeat (R386): spaces 5 and 6 and windows. -/
def notIdempotent (space : Nat) : Bool := space == 2 || space == 3 || space == 5 || space == 6

end Sys2Proof.Machine
end

