-- ==== Sys2Proof/Machine/Combine.lean ====
section
/-! DEFINITION. Reductions on their way to memory (R168 to R170): the combining buffer of a hamlet, the
windows of the sparse-update units, and what a release or an access to the same word waits for. -/

namespace Sys2Proof.Machine

/-- An update in flight: who made it, for whom it counts, and how it merges (R170). -/
structure Upd where
  src : Who
  ctx : Nat
  vf : Nat
  launch : Nat
  op : Nat
  val : W64
  /-- Bytes of the element. -/
  n : Nat := redSize op
  ordered : Bool := false
  round : Nat := 0
  idx : Nat := 0
  /-- The write sets the full bit (R142). -/
  full : Bool := false
  /-- The address token that brings it, where it brings others too. -/
  tok : Option Nat := none
  deriving DecidableEq, Repr

/-- FSITE of a requester (R376). -/
def whoSite (s : State) (vf : Nat) : Who → BitVec 32
  | .reeve h => siteOf s vf h 0 0 true
  | .node n => siteOf s vf (s.nodeHam n) n.cell n.sub false
  | .stream h _ => siteOf s vf h 15 0 false
  | .copy h _ => siteOf s vf h 0 0 false
  | _ => 0

/-- A fault of an access that its requester has left behind: it enters the launch status, and but for a reeve's RED the
poison record (R255, R262, R302). -/
def leftFault (s : State) (who : Who) (ctx vf launch : Nat) (t : Trap) : State :=
  let s := match who with
    | .reeve _ => s
    | _ => recordPoison s ctx t
  recordFault s launch t (whoSite s vf who)

/-- The state of a MEMORY node. -/
def Cell.memSt (c : Cell) (k : Nat) : MemSt :=
  match c.node k with
  | .mem x => x
  | _ => {}
/-- Changes it. -/
def updMem (s : State) (n : NodeRef) (f : MemSt → MemSt) : State :=
  let c := s.cellAt n
  s.setCellAt n (c.setNode n.sub (.mem (f (c.memSt n.sub))))

/-- Counts an access that a MEMORY node made as performed (R322). -/
def performedBy (s : State) : Who → State
  | .node n =>
    if (s.cellAt n).kind = .memory then updMem s n fun x => { x with done := x.done + 1 } else s
  | _ => s

/-- Applies one update of its sources at a physical address.  An uncorrectable error enters the launch status and the
word keeps it (R255). -/
def applyUpd (s : State) (a : Nat) (u : Upd) (srcs : List Who) : State :=
  match loadPhys s u.vf a u.n with
  | .ok (bs, s) =>
    srcs.foldl performedBy
      (storePhys s u.vf a (leBytes u.n (reduceOpN u.n u.op (leNat bs) u.val.toNat)) u.full)
  | .error (.trap t) => leftFault s u.src u.ctx u.vf u.launch t
  | .error _ => s

/-- Whether a source has an update overlapping `n` bytes at `a` in a window. -/
def windowHolds (s : State) (who : Who) (a n : Nat) : Bool :=
  s.windows.any fun x => x.2.any fun u => u.srcs.contains who && a < u.addr + u.n && u.addr < a + n

/-- Whether a source has any update in a window. -/
def windowBusy (s : State) (who : Who) : Bool := s.windows.any fun x => x.2.any (·.srcs.contains who)

/-- Whether everything that a requester has written is performed at package scope: none of its updates stands in a
window, and none of its accesses to a peer is outstanding (R155, R174). -/
def allPerformed (s : State) (who : Who) : Bool :=
  !windowBusy s who && !s.peerOut.any fun p => p.who == who

/-- Whether a window takes an update of an address token: it holds 64 tokens (R170, R176). -/
def windowTakes (w : List SUpd) (tok : Nat) : Bool :=
  let l := (w.map (·.tok)).dedup
  l.contains tok || l.length < 64

/-- Sends an update to its point of coherence: into the window of the word's granary slice, which
holds 64 tokens (R170), onto the link to a peer, or to the word at once. -/
def sendUpd (s : State) (l : Loc) (u : Upd) : Except Stop State :=
  match l with
  | .phys a =>
    if isGranary a then
      let sl := natField a 0 48 >>> 27
      let w := mgetD s.windows sl []
      let tok := u.tok.getD s.nextId
      if !windowTakes w tok then await .memory
      else
        .ok { s with
          nextId := if u.tok.isNone then s.nextId + 1 else s.nextId
          windows := mset s.windows sl (w ++ [
            { srcs := [u.src], tok := tok, ordered := u.ordered, addr := a, n := u.n, op := u.op, val := u.val
              round := u.round, idx := u.idx, full := true, ctx := u.ctx, vf := u.vf
              launch := u.launch }]) }
    else .ok (applyUpd s a u [u.src])
  | .peer a ea m =>
    .ok (sendPeer s { who := u.src, ctx := u.ctx, vf := u.vf, ham := 0 } a ea m (.reduce u.op u.val))
  | l => do
    let x : Acx := { who := u.src, ctx := u.ctx, vf := u.vf, ham := 0 }
    let (bs, s) ← loadLoc s x l u.n
    storeLoc s x l (leBytes u.n (reduceOpN u.n u.op (leNat bs) u.val.toNat))

/-- The update of a reeve. -/
def reeveUpd (s : State) (h op : Nat) (v : W64) : Upd :=
  let r := s.reeve h
  { src := .reeve h, ctx := r.ctx, vf := r.vf, launch := r.launch, op := op, val := v }

/-- The updates of an entry of the combining buffer: one of its word, or one of each 4-byte half that holds an
operand. -/
def Comb.updates (c : Comb) : List (Loc × W64) :=
  let at_ (k : Nat) : Loc :=
    if c.space = 5 then .peer (c.addr + k) (c.ea + k) c.mapped else .phys (c.addr + k)
  if redSize c.op = 8 then [(at_ 0, c.val)]
  else (if c.lo then [(at_ 0, c.val &&& 0xFFFFFFFF)] else []) ++ (if c.hi then [(at_ 4, c.val >>> 32)] else [])

/-- Writes out an entry. -/
def sendComb (s : State) (h : Nat) (c : Comb) : Except Stop State :=
  c.updates.foldlM (fun s (l, v) => sendUpd s l (reeveUpd s h c.op v)) s

/-- Writes out the entries that a test selects, oldest first, until one finds no room in its window; the state and the
entries that stay. -/
def flushList (s : State) (h : Nat) (f : Comb → Bool) : List Comb → State × List Comb
  | [] => (s, [])
  | c :: l =>
    if f c then
      match sendComb s h c with
      | .ok s => flushList s h f l
      | .error _ => (s, c :: l)
    else
      let (s, m) := flushList s h f l
      (s, c :: m)

/-- Flushes the entries of a hamlet's combining buffer that a test selects (R168); what finds no room in its window
waits, and the rest has gone. -/
def flushComb (s : State) (h : Nat) (f : Comb → Bool) : Except Stop State :=
  let r := s.reeve h
  if !r.comb.any f then .ok s
  else
    let (t, m) := flushList s h f r.comb
    let t := t.setReeve h { t.reeve h with comb := m }
    if m.any f then .error (.keep t .memory) else .ok t

/-- Marks a requester's updates as sent by a release (R188). -/
def sendOff (s : State) (who : Who) : State :=
  { s with windows := s.windows.map fun w => (w.1, w.2.map fun u =>
      if u.srcs.contains who then { u with sent := true } else u) }

/-- The flush of a reeve's combining entries, and the wait until its updates have been performed. -/
def releaseComb (s : State) (h : Nat) : Except Stop State := do
  let s ← flushComb s h fun _ => true
  if windowBusy s (.reeve h) then .error (.keep (sendOff s (.reeve h)) .memory) else .ok s

/-- Flushes the combining entries of some reeves (R168, R188), and whether all of their updates have been
performed. -/
def flushReeves (s : State) : List Nat → State × Bool
  | [] => (s, true)
  | h :: l =>
    match releaseComb s h with
    | .ok s => flushReeves s l
    | .error (.keep s _) => ((flushReeves s l).1, false)
    | .error _ => ((flushReeves s l).1, false)

/-- A release of a reeve (R53, R160): its combining entries are flushed, its updates performed, and its stores to peers
acknowledged. -/
def releaseAll (s : State) (h : Nat) : Except Stop State := do
  let s ← releaseComb s h
  if s.peerOut.any fun p => p.who == Who.reeve h then .error (.keep s .memory) else .ok s

/-- Whether an entry stands for a word under `n` bytes at a place. -/
def Comb.under (c : Comb) (l : Loc) (n : Nat) : Bool :=
  match l with
  | .phys a => c.space != 5 && a / 8 * 8 ≤ c.addr && c.addr < a + n
  | .peer a _ _ => c.space == 5 && a / 8 * 8 ≤ c.addr && c.addr < a + n
  | _ => false

/-- Before a reeve's access to a place, its earlier reductions of the same words are performed; to a peer's word they go
out in a step of their own, before the access (R157, R168). -/
def settle (s : State) (h : Nat) (l : Loc) (n : Nat) : Except Stop State := do
  let rest : Bool := (s.reeve h).comb.any (·.under l n)
  let s ← flushComb s h (·.under l n)
  match l with
  | .peer _ _ _ => if rest then .error (.keep s .memory) else .ok s
  | .phys a =>
    let w := a / 8 * 8
    if windowHolds s (.reeve h) w ((a + n + 7) / 8 * 8 - w) then .error (.keep s .memory) else .ok s
  | _ => .ok s

/-- Before a reeve reads a block of memory by itself, its earlier reductions of those words are performed; a part that
does not translate is left to the read (R157, R168). -/
def settleSpan (s : State) (x : Acx) (h space : Nat) : Nat → Nat → Nat → Except Stop State
  | 0, _, _ => .ok s
  | fuel + 1, ea, n =>
    if n = 0 then .ok s
    else
      let k := Nat.min n (0x10000 - ea % 0x10000)
      match locate s x space ea rR with
      | .ok l => do
        let s ← settle s h l k
        settleSpan s x h space fuel (ea + k) (n - k)
      | .error _ => .ok s

/-- The operand that an entry holds after one more of its aop. -/
def Comb.join (d c : Comb) : Comb :=
  if redSize c.op = 8 then { d with val := BitVec.ofNat 64 (reduceOp c.op d.val.toNat c.val.toNat) }
  else
    let half (k : Nat) (a b : Bool) : Nat :=
      let x := natField d.val.toNat k 32
      let y := natField c.val.toNat k 32
      if a && b then reduceOp c.op x y else if a then x else y
    { d with
      lo := d.lo || c.lo
      hi := d.hi || c.hi
      val := BitVec.ofNat 64 (half 0 d.lo c.lo + half 32 d.hi c.hi <<< 32) }

/-- The entry of a reduction of a word, or of a half of it. -/
def Comb.of (space a ea : Nat) (mapped : Bool) (op : Nat) (v : W64) : Comb :=
  let k := a % 8
  let c : Comb := { space := space, addr := a - k, op := op, val := v, ea := ea - k, mapped := mapped }
  if redSize op = 8 then c
  else if k < 4 then { c with val := v &&& 0xFFFFFFFF, hi := false } else { c with val := v <<< 32, lo := false }

/-- Adds a resting reduction to the combining buffer (R168): it merges with an entry of the same word
and aop, an entry of another aop is evicted first, and a full buffer evicts its oldest. -/
def restComb (s : State) (h : Nat) (c : Comb) : Except Stop State := do
  let word (d : Comb) : Bool := d.space == c.space && d.addr == c.addr
  let r := s.reeve h
  match r.comb.find? fun d => word d && d.op == c.op with
  | some d =>
    .ok (s.setReeve h { r with comb := r.comb.map fun x => if word x && x.op == c.op then d.join c else x })
  | none => do
    let s ← flushComb s h word
    let r := s.reeve h
    let s ← match r.comb with
      | d :: _ => if r.comb.length ≥ 64 then flushComb s h (· == d) else Except.ok s
      | [] => Except.ok s
    let r := s.reeve h
    .ok (s.setReeve h { r with comb := r.comb ++ [c] })

end Sys2Proof.Machine
end

