-- ==== Sys2Proof/Machine/Operands.lean ====
section
/-! DEFINITION. What every reeve instruction shares: the guard, the retirement, the way a fault or a
wait ends it (R215, R237), and the operand forms of memory instructions (R238). -/

namespace Sys2Proof.Machine

/-- Where the pc goes when an instruction retires. -/
inductive Flow where
  | next
  | jump (pc : W64)
  deriving DecidableEq, Repr

/-- Retires the instruction of the acting reeve: what was held for it is dropped, and it counts
(R205). -/
def retire (s : State) (pc : W64) : State :=
  let s := release s (.reeve s.cur)
  let s := s.updMe fun r => { r with pc := pc, wait := none, issued := none }
  s.count s.me.vf 0x008

/-- The state after an instruction of `len` bytes whose operation is `f`.  A false guard only
advances the pc; a fault writes nothing and is taken (R237); a wait leaves the pc. -/
def runReeve (len : Nat) (p : Guard) (f : State → Except Stop (State × Flow)) (s : State) : State :=
  if !s.me.guard p then retire s (s.me.pc + BitVec.ofNat 64 len)
  else
    match f s with
    | .ok (t, .next) => retire t (s.me.pc + BitVec.ofNat 64 len)
    | .ok (t, .jump a) => retire t a
    | .error (.trap t) => trapEntry t (release s (.reeve s.cur))
    | .error (.trapIn t e) => trapEntry e (release t (.reeve t.cur))
    | .error (.wait w rq) => (register s rq).updMe fun r => { r with wait := some w }
    | .error (.keep t w) => t.updMe fun r => { r with wait := some w }

/-- An instruction word of the acting reeve. -/
def word (p : Guard) (f : State → Except Stop (State × Flow)) (s : State) :
    Host.Outcome State Fault Refusal := .next (runReeve 4 p f s)

/-- An instruction of two words. -/
def word2 (p : Guard) (f : State → Except Stop (State × Flow)) (s : State) :
    Host.Outcome State Fault Refusal := .next (runReeve 8 p f s)

/-- An instruction that only writes a general register. -/
def toG (p : Guard) (d : GReg) (f : State → W64) (s : State) : Host.Outcome State Fault Refusal :=
  word p (fun s => .ok (s.updMe (·.setG d (f s)), .next)) s

/-- An instruction that only writes a predicate. -/
def toP (p : Guard) (d : PReg) (f : Reeve → Bool) (s : State) : Host.Outcome State Fault Refusal :=
  word p (fun s => .ok (s.updMe fun r => r.setP d (f r), .next)) s

/-- An instruction that writes a capability register. -/
def toK (p : Guard) (d : KReg) (f : Reeve → Except Stop Cap) (s : State) :
    Host.Outcome State Fault Refusal :=
  word p (fun s => do
    let c ← f s.me
    .ok (s.updMe (·.setK d c), .next)) s

/-- The place of a reeve's memory instruction (R238), its own earlier reductions of the word
performed. -/
def memPlace (s : State) (kc : KReg) (a : GReg) (imm n align : Nat) (cl : AClass) (need : Nat) :
    Except Stop (Loc × State) := do
  let r := s.me
  let k := r.kr kc
  let l ← access s s.acx k (effOff k (r.gr a) imm) n align cl need
  let s ← settle s s.cur l n
  .ok (l, s)

/-- A block of bytes that a reeve's instruction reads under one check, its own earlier reductions of those words
performed first (R157, R168). -/
def reeveBlock (s : State) (k : Cap) (off : Int) (n align : Nat) (cl : AClass) :
    Except Stop (List Byte × State) := do
  let ea ← checkCapAt k off (some n) align cl
  let s ← settleSpan s s.acx s.cur k.space (n / 0x10000 + 2) ea n
  readSpan s s.acx k.space (n / 0x10000 + 2) ea n

end Sys2Proof.Machine
end

