-- ==== Sys2Proof/Machine/Flags.lean ====
section
/-! DEFINITION. Every comparison and every predicate computation of the two instruction sets
(R243 to R245, R299). -/

namespace Sys2Proof.Machine

/-- CMP conditions (R243): EQ NE LT LE LTU LEU. -/
def cmpCond (cc : Nat) (a b : W64) : Bool :=
  match cc with
  | 0 => a == b
  | 1 => a != b
  | 2 => a.slt b
  | 3 => a.sle b
  | 4 => a.ult b
  | _ => a.ule b

/-- CMPI conditions (R244): EQ NE LT LTU. -/
def cmpiCond (cc : Nat) (a b : W64) : Bool :=
  match cc with
  | 0 => a == b
  | 1 => a != b
  | 2 => a.slt b
  | _ => a.ult b

/-- The combine mode of CMP (R243): set, and, or. -/
def combine (mode : Nat) (old c : Bool) : Bool :=
  match mode with
  | 0 => c
  | 1 => old && c
  | _ => old || c

end Sys2Proof.Machine
end

