-- ==== Sys2Proof/Machine/Alu.lean ====
section
/-! DEFINITION. Integer arithmetic, compares, predicates and transfers of control (R239 to R246). -/

namespace Sys2Proof.Machine

/-! ## The functions -/

/-- A shift amount of 64 or more gives 0 (R239). -/
def shlW (a b : W64) : W64 := if b.toNat ≥ 64 then 0 else a <<< b.toNat
/-- Logical right shift (R239). -/
def shrW (a b : W64) : W64 := if b.toNat ≥ 64 then 0 else a >>> b.toNat
/-- Arithmetic right shift; 64 copies of bit 63 from 64 up (R239). -/
def sarW (a b : W64) : W64 := if b.toNat ≥ 64 then a.sshiftRight 63 else a.sshiftRight b.toNat
/-- Rotate left by b mod 64 (R239). -/
def rotW (a b : W64) : W64 := a.rotateLeft (b.toNat % 64)
/-- Leading zeros among the low `n` bits. -/
def clzFrom (a : W64) : Nat → Nat
  | 0 => 0
  | n + 1 => if a.getLsbD n then 0 else clzFrom a n + 1
/-- Trailing zeros from bit `i`, `n` bits left. -/
def ctzFrom (a : W64) (i : Nat) : Nat → Nat
  | 0 => 0
  | n + 1 => if a.getLsbD i then 0 else ctzFrom a (i + 1) n + 1
/-- One bits among the low `n`. -/
def popcN (a : W64) : Nat → Nat
  | 0 => 0
  | n + 1 => popcN a n + (if a.getLsbD n then 1 else 0)
/-- Bit i moved to bit 63 - i, for the low `n` bits. -/
def brevN (a : W64) : Nat → Nat
  | 0 => 0
  | n + 1 => brevN a n + (if a.getLsbD n then 2 ^ (63 - n) else 0)
/-- Sign extension from bit b mod 64 (R239). -/
def sextW (a b : W64) : W64 := BitVec.ofInt 64 (sgn (b.toNat % 64 + 1) a.toNat)
/-- Division (R240). -/
def divW (a b : W64) : W64 :=
  if b = 0 then 0xFFFFFFFFFFFFFFFF else BitVec.ofInt 64 (a.toInt.tdiv b.toInt)
/-- Unsigned division (R240). -/
def divuW (a b : W64) : W64 := if b = 0 then 0xFFFFFFFFFFFFFFFF else a / b
/-- Remainder with the sign of the dividend (R240). -/
def remW (a b : W64) : W64 := if b = 0 then a else BitVec.ofInt 64 (a.toInt.tmod b.toInt)
/-- Unsigned remainder (R240). -/
def remuW (a b : W64) : W64 := if b = 0 then a else a % b
/-- A sign-extended immediate (R216). -/
def immW {n : Nat} (v : BitVec n) : W64 := v.signExtend 64

/-- A register-register function. -/
def alu (p : Guard) (d a b : GReg) (f : W64 → W64 → W64) (s : State) :
    Host.Outcome State Fault Refusal :=
  toG p d (fun s => f (s.me.gr a) (s.me.gr b)) s
/-- A function of one register. -/
def alu1 (p : Guard) (d a : GReg) (f : W64 → W64) (s : State) :
    Host.Outcome State Fault Refusal :=
  toG p d (fun s => f (s.me.gr a)) s

/-! ## The instructions -/

/-- ADD (R239). -/
def execAdd (p : Guard) (d a b : GReg) (s : State) : Host.Outcome State Fault Refusal :=
  alu p d a b (· + ·) s

/-- SUB (R239). -/
def execSub (p : Guard) (d a b : GReg) (s : State) : Host.Outcome State Fault Refusal :=
  alu p d a b (· - ·) s

/-- AND (R239). -/
def execAnd (p : Guard) (d a b : GReg) (s : State) : Host.Outcome State Fault Refusal :=
  alu p d a b (· &&& ·) s

/-- OR (R239). -/
def execOr (p : Guard) (d a b : GReg) (s : State) : Host.Outcome State Fault Refusal :=
  alu p d a b (· ||| ·) s

/-- XOR (R239). -/
def execXor (p : Guard) (d a b : GReg) (s : State) : Host.Outcome State Fault Refusal :=
  alu p d a b (· ^^^ ·) s

/-- ANDN (R239). -/
def execAndn (p : Guard) (d a b : GReg) (s : State) : Host.Outcome State Fault Refusal :=
  alu p d a b (fun x y => x &&& ~~~y) s

/-- SHL (R239). -/
def execShl (p : Guard) (d a b : GReg) (s : State) : Host.Outcome State Fault Refusal :=
  alu p d a b shlW s

/-- SHR (R239). -/
def execShr (p : Guard) (d a b : GReg) (s : State) : Host.Outcome State Fault Refusal :=
  alu p d a b shrW s

/-- SAR (R239). -/
def execSar (p : Guard) (d a b : GReg) (s : State) : Host.Outcome State Fault Refusal :=
  alu p d a b sarW s

/-- ROT (R239). -/
def execRot (p : Guard) (d a b : GReg) (s : State) : Host.Outcome State Fault Refusal :=
  alu p d a b rotW s

/-- MIN (R239). -/
def execMin (p : Guard) (d a b : GReg) (s : State) : Host.Outcome State Fault Refusal :=
  alu p d a b (fun x y => if x.sle y then x else y) s

/-- MAX (R239). -/
def execMax (p : Guard) (d a b : GReg) (s : State) : Host.Outcome State Fault Refusal :=
  alu p d a b (fun x y => if x.sle y then y else x) s

/-- MINU (R239). -/
def execMinu (p : Guard) (d a b : GReg) (s : State) : Host.Outcome State Fault Refusal :=
  alu p d a b (fun x y => if x.ule y then x else y) s

/-- MAXU (R239). -/
def execMaxu (p : Guard) (d a b : GReg) (s : State) : Host.Outcome State Fault Refusal :=
  alu p d a b (fun x y => if x.ule y then y else x) s

/-- CLZ (R239). -/
def execClz (p : Guard) (d a : GReg) (s : State) : Host.Outcome State Fault Refusal :=
  alu1 p d a (fun x => BitVec.ofNat 64 (clzFrom x 64)) s

/-- CTZ (R239). -/
def execCtz (p : Guard) (d a : GReg) (s : State) : Host.Outcome State Fault Refusal :=
  alu1 p d a (fun x => BitVec.ofNat 64 (ctzFrom x 0 64)) s

/-- POPC (R239). -/
def execPopc (p : Guard) (d a : GReg) (s : State) : Host.Outcome State Fault Refusal :=
  alu1 p d a (fun x => BitVec.ofNat 64 (popcN x 64)) s

/-- BREV (R239). -/
def execBrev (p : Guard) (d a : GReg) (s : State) : Host.Outcome State Fault Refusal :=
  alu1 p d a (fun x => BitVec.ofNat 64 (brevN x 64)) s

/-- SEXT (R239). -/
def execSext (p : Guard) (d a b : GReg) (s : State) : Host.Outcome State Fault Refusal :=
  alu p d a b sextW s

/-- MUL (R240). -/
def execMul (p : Guard) (d a b : GReg) (s : State) : Host.Outcome State Fault Refusal :=
  alu p d a b (· * ·) s

/-- MULH (R240). -/
def execMulh (p : Guard) (d a b : GReg) (s : State) : Host.Outcome State Fault Refusal :=
  alu p d a b (fun x y => BitVec.ofInt 64 (x.toInt * y.toInt / 2 ^ 64)) s

/-- MULHU (R240). -/
def execMulhu (p : Guard) (d a b : GReg) (s : State) : Host.Outcome State Fault Refusal :=
  alu p d a b (fun x y => BitVec.ofNat 64 (x.toNat * y.toNat / 2 ^ 64)) s

/-- DIV (R240). -/
def execDiv (p : Guard) (d a b : GReg) (s : State) : Host.Outcome State Fault Refusal :=
  alu p d a b divW s

/-- DIVU (R240). -/
def execDivu (p : Guard) (d a b : GReg) (s : State) : Host.Outcome State Fault Refusal :=
  alu p d a b divuW s

/-- REM (R240). -/
def execRem (p : Guard) (d a b : GReg) (s : State) : Host.Outcome State Fault Refusal :=
  alu p d a b remW s

/-- REMU (R240). -/
def execRemu (p : Guard) (d a b : GReg) (s : State) : Host.Outcome State Fault Refusal :=
  alu p d a b remuW s

/-- ADDI (R241). -/
def execAddi (p : Guard) (d a : GReg) (imm : BitVec 12) (s : State) :
    Host.Outcome State Fault Refusal :=
  alu1 p d a (· + immW imm) s

/-- ANDI (R241). -/
def execAndi (p : Guard) (d a : GReg) (imm : BitVec 12) (s : State) :
    Host.Outcome State Fault Refusal :=
  alu1 p d a (· &&& immW imm) s

/-- ORI (R241). -/
def execOri (p : Guard) (d a : GReg) (imm : BitVec 12) (s : State) :
    Host.Outcome State Fault Refusal :=
  alu1 p d a (· ||| immW imm) s

/-- XORI (R241). -/
def execXori (p : Guard) (d a : GReg) (imm : BitVec 12) (s : State) :
    Host.Outcome State Fault Refusal :=
  alu1 p d a (· ^^^ immW imm) s

/-- SHLI (R241). -/
def execShli (p : Guard) (d a : GReg) (imm : BitVec 6) (s : State) :
    Host.Outcome State Fault Refusal :=
  alu1 p d a (· <<< imm.toNat) s

/-- SHRI (R241). -/
def execShri (p : Guard) (d a : GReg) (imm : BitVec 6) (s : State) :
    Host.Outcome State Fault Refusal :=
  alu1 p d a (· >>> imm.toNat) s

/-- SARI (R241). -/
def execSari (p : Guard) (d a : GReg) (imm : BitVec 6) (s : State) :
    Host.Outcome State Fault Refusal :=
  alu1 p d a (·.sshiftRight imm.toNat) s

/-- LUI (R242). -/
def execLui (p : Guard) (d : GReg) (imm : BitVec 17) (s : State) : Host.Outcome State Fault Refusal :=
  toG p d (fun _ => immW imm <<< 12) s

/-- LI, two words (R242). -/
def execLi (p : Guard) (d : GReg) (imm : BitVec 49) (s : State) : Host.Outcome State Fault Refusal :=
  word2 p (fun s => .ok (s.updMe (·.setG d (immW imm)), .next)) s

/-- CMP (R243). -/
def execCmp (p : Guard) (comb : BitVec 2) (d : PReg) (a b : GReg) (cc : BitVec 3) (s : State) :
    Host.Outcome State Fault Refusal :=
  toP p d (fun r => combine comb.toNat (r.pr d) (cmpCond cc.toNat (r.gr a) (r.gr b))) s

/-- CMPI (R244). -/
def execCmpi (p : Guard) (cc : BitVec 2) (d : PReg) (a : GReg) (imm : BitVec 12) (s : State) :
    Host.Outcome State Fault Refusal :=
  toP p d (fun r => cmpiCond cc.toNat (r.gr a) (immW imm)) s

/-- PAND (R245). -/
def execPand (p : Guard) (d a b : PReg) (s : State) : Host.Outcome State Fault Refusal :=
  toP p d (fun r => r.pr a && r.pr b) s

/-- POR (R245). -/
def execPor (p : Guard) (d a b : PReg) (s : State) : Host.Outcome State Fault Refusal :=
  toP p d (fun r => r.pr a || r.pr b) s

/-- PXOR (R245). -/
def execPxor (p : Guard) (d a b : PReg) (s : State) : Host.Outcome State Fault Refusal :=
  toP p d (fun r => r.pr a != r.pr b) s

/-- PANDN (R245). -/
def execPandn (p : Guard) (d a b : PReg) (s : State) : Host.Outcome State Fault Refusal :=
  toP p d (fun r => r.pr a && !r.pr b) s

/-- PNOT (R245). -/
def execPnot (p : Guard) (d a : PReg) (s : State) : Host.Outcome State Fault Refusal :=
  toP p d (fun r => !r.pr a) s

/-- PMOV (R245). -/
def execPmov (p : Guard) (d a : PReg) (s : State) : Host.Outcome State Fault Refusal :=
  toP p d (fun r => r.pr a) s

/-- PFROMG (R245). -/
def execPfromg (p : Guard) (d : PReg) (a : GReg) (s : State) : Host.Outcome State Fault Refusal :=
  toP p d (fun r => r.gr a != 0) s

/-- PTOG (R245). -/
def execPtog (p : Guard) (d : GReg) (a : PReg) (s : State) : Host.Outcome State Fault Refusal :=
  toG p d (fun s => if s.me.pr a then 1 else 0) s

/-- The guard of an instruction with no guard field: p0, true (R215). -/
def always : Guard := 0

/-- BR (R246): it always executes. -/
def execBr (off : BitVec 22) (s : State) : Host.Outcome State Fault Refusal :=
  word always (fun s => .ok (s, .jump (s.me.pc + immW off * 4))) s

/-- JAL (R246). -/
def execJal (off : BitVec 22) (s : State) : Host.Outcome State Fault Refusal :=
  word always (fun s => .ok (s.updMe (·.setG 31 (s.me.pc + 4)), .jump (s.me.pc + immW off * 4))) s

/-- JALR (R246): a target off the word boundary raises ALIGN with EADDR the target. -/
def execJalr (p : Guard) (d a : GReg) (imm : BitVec 12) (s : State) :
    Host.Outcome State Fault Refusal :=
  word p (fun s => do
    let t := s.me.gr a + immW imm * 4
    check (t.toNat % 4 == 0) .align t.toNat
    .ok (s.updMe (·.setG d (s.me.pc + 4)), .jump t)) s

/-- LOOP (R246). -/
def execLoop (p : Guard) (d : GReg) (imm : BitVec 12) (s : State) : Host.Outcome State Fault Refusal :=
  word p (fun s =>
    let t := s.updMe (·.setG d (s.me.gr d - 1))
    .ok (t, if t.me.gr d != 0 then .jump (s.me.pc - imm.zeroExtend 64 * 4) else .next)) s

/-- TRAP (R281): raises USER with its SEL. -/
def execTrap (p : Guard) (sel : BitVec 12) (s : State) : Host.Outcome State Fault Refusal :=
  word p (fun _ => .error (.trap { code := .user, sel := sel })) s

end Sys2Proof.Machine
end

