-- ==== Sys2Proof/Machine/Crier.lean ====
section
/-! DEFINITION. Crier records and their ring (R187, R210, R211), and MSI-X vectors (R406). -/

namespace Sys2Proof.Machine

/-- A VF that sends a vector to the host. -/
def Vf.sendMsix (v : Vf) (vec : Nat) : Vf :=
  { v with msix := sdel v.msix vec, vsent := mset v.vsent vec (mgetD v.vsent vec 0 + 1) }

/-- Raises an MSI-X vector of a VF: it is sent, or where it is masked its pending bit sets (R406; log 20). -/
def raiseMsix (s : State) (vf vec : Nat) : State :=
  let v := s.vfOf vf
  s.setVf vf (if v.vmask.contains vec then { v with msix := sadd v.msix vec } else v.sendMsix vec)

/-- Masks or unmasks a vector; one that is pending is sent as it is unmasked (R406; log 20). -/
def maskMsix (s : State) (vf vec : Nat) (on : Bool) : State :=
  let v := s.vfOf vf
  let v := { v with vmask := sput v.vmask vec on }
  s.setVf vf (if !on && v.msix.contains vec then v.sendMsix vec else v)

/-- Whether a tenant's crier ring has room for one record. -/
def crierRoom (v : Vf) : Bool := (v.cwr - v.crd).toNat + 32 ≤ v.csize.toNat

/-- Writes 32 bytes at the write offset of a ring. -/
def crierPut (s : State) (vf : Nat) (bytes : List Byte) : State :=
  let v := s.vfOf vf
  let a := v.cbase.toNat + v.cwr.toNat % v.csize.toNat
  let s := if populated a then countWrite { s with mem := s.mem.store a bytes false } vf a 32 else s
  s.setVf vf { s.vfOf vf with cwr := v.cwr + 32 }

/-- The bytes of a record (R210). -/
def crierBytes (s : State) (vf code h cell slot : Nat) (lid : BitVec 32) (payload : List Byte) :
    List Byte :=
  let (rd, rh) := homeRel s vf (launchAt s vf h) h
  leBytes 8 s.time.toNat ++ [BitVec.ofNat 8 code, BitVec.ofNat 8 rd, BitVec.ofNat 8 rh,
    BitVec.ofNat 8 (slot * 16 + cell)] ++ leBytes 4 lid.toNat
    ++ (payload ++ List.replicate 16 0).take 16

/-- Writes the overflow record that is owed, where there is room (R187). -/
def crierFlush (s : State) (vf : Nat) : State :=
  let v := s.vfOf vf
  if v.drops = 0 || v.csize = 0 || !crierRoom v then s
  else
    let s := crierPut s vf (crierBytes s vf 0x1F 0 0 0 0 (leBytes 8 v.drops.toNat))
    s.setVf vf { s.vfOf vf with drops := 0 }

/-- Writes a record that the tenant's mask enables, or drops it where the ring is full, as one of size 0 always is: the
first drop after a record was written raises vector 2 (R187, log 53). -/
def crier (s : State) (vf code h cell slot : Nat) (lid : BitVec 32) (payload : List Byte)
    (forced : Bool := false) : State :=
  let v := s.vfOf vf
  if !(forced || v.mask.getLsbD code) then s
  else
    let s := crierFlush s vf
    let v := s.vfOf vf
    if crierRoom v then crierPut s vf (crierBytes s vf code h cell slot lid payload)
    else
      let s := if v.drops = 0 then raiseMsix s vf 2 else s
      (s.setVf vf { s.vfOf vf with drops := v.drops + 1 }).count vf 0x070

/-- A record of the acting launch at a hamlet. -/
def crierAt (s : State) (launch code h cell slot : Nat) (payload : List Byte) : State :=
  match s.launchOf launch with
  | some l => crier s l.vf code h cell slot l.lid payload
  | none => s

end Sys2Proof.Machine
end

