-- ==== Sys2Proof/Machine/MemOps.lean ====
section
/-! DEFINITION. The reeve's own memory instructions (R250 to R256). -/

namespace Sys2Proof.Machine

/-- A store that a replay would not repeat is noted (R386). -/
def noteStore (s : State) (k : Cap) : State :=
  if notIdempotent k.space then markDirty s s.me.launch else s

/-- LD (R250). -/
def execLd (p : Guard) (d : GReg) (kc : KReg) (a : GReg) (sz : BitVec 2) (x : Bool) (imm : BitVec 5)
    (s : State) : Host.Outcome State Fault Refusal :=
  word p (fun s => do
    let n := 2 ^ sz.toNat
    let (l, s) ← memPlace s kc a (imm.toNat * n) n n clLoad rR
    let (bs, s) ← loadLoc s s.acx l n
    let v := leNat bs
    .ok (s.updMe (·.setG d (if x then BitVec.ofInt 64 (sgn (8 * n) v) else BitVec.ofNat 64 v)),
      .next)) s

/-- ST (R250).  With x it is a release: the combining entries are flushed first. -/
def execSt (p : Guard) (d : GReg) (kc : KReg) (a : GReg) (sz : BitVec 2) (x : Bool) (imm : BitVec 5)
    (s : State) : Host.Outcome State Fault Refusal :=
  word p (fun s => do
    let n := 2 ^ sz.toNat
    let k := s.me.kr kc
    let (l, s) ← memPlace s kc a (imm.toNat * n) n n (if x then clSyncStore else clStore) rW
    let s ← if x then releaseAll s s.cur else Except.ok s
    let s ← storeLoc s s.acx l (leBytes n (s.me.gr d).toNat) x
    .ok (noteStore s k, .next)) s

/-- LDC (R251). -/
def execLdc (p : Guard) (d : KReg) (kc : KReg) (a : GReg) (imm : BitVec 5) (s : State) :
    Host.Outcome State Fault Refusal :=
  word p (fun s => do
    let (l, s) ← memPlace s kc a (imm.toNat * 16) 16 16 clCapLoad rR
    let (c, s) ← loadCapLoc s s.acx l
    .ok (s.updMe (·.setK d c), .next)) s

/-- The checks of a capability store at an offset (R251): the capability, then GL, then the place
with the T right. -/
def capStorePlace (s : State) (k c : Cap) (off : Nat) : Except Stop (Loc × State) := do
  let ea ← checkCapAt k off (some 16) 16 clCapStore
  check (!(c.tag && k.space == 0 && !permsIn pGL c.perms)) .capPerm ea
  let l ← locate s s.acx k.space ea (rW ||| rT)
  let s ← settle s s.cur l 16
  .ok (l, s)

/-- STC (R251). -/
def execStc (p : Guard) (d : KReg) (kc : KReg) (a : GReg) (imm : BitVec 5) (s : State) :
    Host.Outcome State Fault Refusal :=
  word p (fun s => do
    let k := s.me.kr kc
    let c := s.me.kr d
    let (l, s) ← capStorePlace s k c (effOff k (s.me.gr a) (imm.toNat * 16))
    let s ← storeCapLoc s s.acx l c
    .ok (noteStore s k, .next)) s

/-- A synchronising read of a word (R143, R252): the value a setting to full gave it, or the word's
own value where it is full, or a place in its waiter order. -/
def syncRead (s : State) (x : Acx) (a : Nat) (consume : Bool) : Except Stop (W64 × State) :=
  let w := a / 8
  match s.gifts.find? fun g => g.who == x.who && g.word == w with
  | some g => if g.bad then .error (.trap (errorAt a)) else .ok (g.val, s)
  | none =>
    if s.emptyAt w then await (.ldsyn w) (some (.sync x.who w consume))
    else do
      let (bs, s) ← loadPhys s x.vf a 8
      .ok (BitVec.ofNat 64 (leNat bs), if consume then setEmptyN s w 1 else s)

/-- LDSYN (R252). -/
def execLdsyn (p : Guard) (d : GReg) (kc : KReg) (a : GReg) (x : Bool) (imm : BitVec 5) (s : State) :
    Host.Outcome State Fault Refusal :=
  word p (fun s => do
    let (l, s) ← memPlace s kc a (imm.toNat * 8) 8 8 clSyncLoad rR
    match l with
    | .phys pa => do
      let (v, s) ← syncRead s s.acx pa x
      .ok (s.updMe (·.setG d v), .next)
    | _ => raise .feSpace) s

/-- FE (R253).  A count of 0 checks no bounds; with x it is a release; the reeve's own earlier reductions of the words
are performed first (R157). -/
def execFe (p : Guard) (d : GReg) (kc : KReg) (a : GReg) (x : Bool) (imm : BitVec 5) (s : State) :
    Host.Outcome State Fault Refusal :=
  word p (fun s => do
    let k := s.me.kr kc
    let c := (s.me.gr d).toNat
    let off := effOff k (s.me.gr a) (imm.toNat * 8)
    if c = 0 then do
      let _ ← checkCapAt k off none 1 clSyncStore
      let s ← if x then releaseAll s s.cur else Except.ok s
      .ok (s, .next)
    else do
      check (c < 2 ^ 37) .capBounds (k.base * 256 + off)
      let l ← access s s.acx k off (8 * c) 8 clSyncStore rW
      let s ← if x then releaseAll s s.cur else settle s s.cur l (8 * c)
      match l with
      | .phys pa => .ok (if x then setFullN s (pa / 8) c else setEmptyN s (pa / 8) c, .next)
      | _ => raise .feSpace) s

/-- The shared form of the returning atomics (R254). -/
def atomic (p : Guard) (d : GReg) (kc : KReg) (a : GReg) (op : State → PeerOp)
    (f : State → Nat → Option Nat) (s : State) : Host.Outcome State Fault Refusal :=
  word p (fun s => do
    let (l, s) ← memPlace s kc a 0 8 8 clAtomic rA
    let (old, s) ← updateLoc s s.acx l 8 (op s) (f s)
    .ok (markDirty (s.updMe (·.setG d (BitVec.ofNat 64 old))) s.me.launch, .next)) s

/-- ATOM (R254). -/
def execAtom (p : Guard) (d : GReg) (kc : KReg) (a b : GReg) (aop : BitVec 3) (s : State) :
    Host.Outcome State Fault Refusal :=
  atomic p d kc a (fun s => .atomic aop.toNat (s.me.gr b))
    (fun s old => some (atomOp aop.toNat old (s.me.gr b).toNat)) s

/-- SWAP (R254). -/
def execSwap (p : Guard) (d : GReg) (kc : KReg) (a b : GReg) (s : State) :
    Host.Outcome State Fault Refusal :=
  atomic p d kc a (fun s => .atomic 8 (s.me.gr b)) (fun s _ => some (s.me.gr b).toNat) s

/-- CAS (R254): a comparison that fails writes nothing. -/
def execCas (p : Guard) (d : GReg) (kc : KReg) (a b : GReg) (s : State) :
    Host.Outcome State Fault Refusal :=
  atomic p d kc a (fun s => .cas (s.me.gr d) (s.me.gr b))
    (fun s old => if old = (s.me.gr d).toNat then some (s.me.gr b).toNat else none) s

/-- RED (R255): FADD and space 1 go to memory at once, the rest rest in the combining buffer
(R168; log 25). -/
def execRed (p : Guard) (kc : KReg) (a b : GReg) (aop : BitVec 3) (s : State) :
    Host.Outcome State Fault Refusal :=
  word p (fun s => do
    let k := s.me.kr kc
    let op := aop.toNat + 1
    let n := redSize op
    let v : W64 := if n = 4 then s.me.gr b &&& 0xFFFFFFFF else s.me.gr b
    let l ← access s s.acx k (effOff k (s.me.gr a) 0) n n clReduce rA
    let now (s : State) (l : Loc) : Except Stop State := do
      let s ← flushComb s s.cur (·.under l n)
      sendUpd s l (reeveUpd s s.cur op v)
    let ea := k.base * 256 + effOff k (s.me.gr a) 0
    let s ← if op = 7 || k.space = 1 then now s l
      else match l with
        | .phys pa => restComb s s.cur (.of 0 pa ea (k.space == 0) op v)
        | .peer pa ea m => restComb s s.cur (.of 5 pa ea m op v)
        | _ => now s l
    .ok (markDirty s s.me.launch, .next)) s

/-- FENCE (R164, R165, R256): `sets` is PR, PW, SR, SW from bit 0 up.  At scopes 6 and 7 it waits for the
acknowledgement of every earlier access to a peer, whatever its sets (R174, log 25). -/
def execFence (p : Guard) (sets : BitVec 4) (scope : BitVec 3) (s : State) :
    Host.Outcome State Fault Refusal :=
  word p (fun s =>
    let pw := sets == 0 || sets.getLsbD 1
    do
      let s ← if pw then releaseComb s s.cur else Except.ok s
      let who : Who := .reeve s.cur
      if scope.toNat < 6 then .ok (s, .next)
      else if s.peerOut.any (·.who == who) then .error (.keep s .memory)
      else if s.lost.contains who then
        .error (.trapIn { s with lost := s.lost.filter (· != who) } { code := .link, sub := 3 })
      else .ok (s, .next)) s

end Sys2Proof.Machine
end

