-- ==== Sys2Proof/Machine/Descs.lean ====
section
/-! DEFINITION. Tensor descriptors and their table (R189 to R193), c-tables (R202), and the tensor
identifier instructions (R279). -/

namespace Sys2Proof.Machine

/-- `n` bytes of a descriptor from byte `o`. -/
def Desc.fld (d : Desc) (o n : Nat) : Nat := natField d.bits.toNat (8 * o) (8 * n)
/-- BASE with its tag. -/
def Desc.base (d : Desc) : Cap := ⟨field d.bits 0 128, d.tag⟩
/-- FMT. -/
def Desc.fmt (d : Desc) : Nat := d.fld 0x10 1 % 32
/-- LAYOUT. -/
def Desc.layout (d : Desc) : Nat := d.fld 0x11 1 % 8
/-- RPLANES. -/
def Desc.rplanes (d : Desc) : Nat := d.fld 0x12 1 % 32
/-- WRAPX. -/
def Desc.wrapx (d : Desc) : Bool := (d.fld 0x13 1).testBit 0
/-- WRAPY. -/
def Desc.wrapy (d : Desc) : Bool := (d.fld 0x13 1).testBit 1
/-- ZF. -/
def Desc.zf (d : Desc) : Bool := (d.fld 0x13 1).testBit 2
/-- SC. -/
def Desc.sc (d : Desc) : Bool := (d.fld 0x13 1).testBit 3
/-- COUNT of a dimension. -/
def Desc.count (d : Desc) (i : Nat) : Nat := d.fld (0x14 + 4 * i) 4
/-- STRIDE of a dimension, signed. -/
def Desc.stride (d : Desc) (i : Nat) : Int := sgn 40 (d.fld (0x24 + 5 * i) 5)
/-- STID. -/
def Desc.stid (d : Desc) : Nat := d.fld 0x38 1
/-- SBLK. -/
def Desc.sblk (d : Desc) : Nat := d.fld 0x39 1
/-- CTAB. -/
def Desc.ctab (d : Desc) : Nat := d.fld 0x3A 1 % 16
/-- EMAX as an FP32 word. -/
def Desc.emax (d : Desc) : W32 := field d.bits 0x1E0 32

/-- The descriptor of TID 0: raw bytes. -/
def Desc.raw : Desc := ⟨0, false⟩

/-- Whether a tile of this descriptor keeps zero flags (R139). -/
def Desc.zfTiles (d : Desc) : Bool := d.layout == 1 && d.zf

/-- An entry of a context's table; an entry not written is zero with its tag clear (R189). -/
def tidEntry (s : State) (ctx tid : Nat) : Desc := (mget (s.ctxOf ctx).tids tid).getD Desc.raw

/-- A taking (R193): TID 0 has no format; an entry with an uncorrectable error raises ECC_UNCORR, SUB 6 (R379); an
untagged BASE raises CAP_TAG. -/
def takeDesc (s : State) (ctx tid : Nat) : Except Stop Desc :=
  if tid = 0 then .ok Desc.raw
  else if s.ecc.tids.contains (256 * ctx + tid) then .error (.trap { code := .eccUncorr, sub := 6 })
  else
    let d := tidEntry s ctx tid
    if d.tag then .ok d else raise .capTag

/-- A taking, as an option of the fault. -/
def takeDesc? (s : State) (ctx tid : Nat) : Option Desc :=
  match takeDesc s ctx tid with
  | .ok d => some d
  | .error _ => none

/-- Whether an FP32 word is negative, infinite or NaN (R191, R202). -/
def badConst (x : W32) : Bool :=
  match ofFP32 x with
  | .fin neg m _ => neg && m != 0
  | _ => true

/-- The refusals of R191 that answer CFG_REJECT, subcode FORMAT. DESIGN CHOICE (log 66), safe: the high half of byte
0x3A, of which R190 gives only CTAB's 4 bits, is taken as reserved; SC set for a format without a scale block is refused,
since no SBLK equals a block length that R58 does not give. -/
def descOk (tid : Nat) (d : Desc) : Bool :=
  d.fld 0x10 1 < 32 && d.fld 0x11 1 < 8 && d.fld 0x12 1 < 32 && d.fld 0x13 1 < 16
    && d.fld 0x3A 1 < 16 && d.fld 0x3B 1 == 0
    && d.fmt < 24 && d.layout < 6
    && (if d.sc then d.sblk == fmtBlock d.fmt && fmtBlock d.fmt != 0 && d.stid != 0 && d.stid != tid
        else fmtBlock d.fmt == 0)
    && (!(d.wrapx || d.wrapy) || d.layout == 4)
    && !badConst d.emax

/-- A word of a tenant's c-table (R202): 132 words a table. -/
def ctabWord (s : State) (vf tab i : Nat) : W32 := (mget (s.vfOf vf).ctabs (132 * tab + i)).getD 0

/-- Takes the c-table that a descriptor names, whole: its 130 constants, keyed by TID (R202). -/
def takeCtab (s : State) (vf tid tab : Nat) : Except Stop (SMap W32) :=
  let ws := (List.range 130).map fun i => ctabWord s vf tab i
  if ws.any badConst then .error (.trap { code := .user, addr := BitVec.ofNat 64 tab })
  else .ok (ws.zipIdx.filterMap fun (w, i) => if w = 0 then none else some (132 * tid + i, w))

/-- Whether any constant of a c-table is refused. -/
def ctabBad (s : State) (vf tab : Nat) : Bool :=
  (List.range 130).any fun i => badConst (ctabWord s vf tab i)

/-- Writes an entry of the acting reeve's context; an error of the entry ends with it (R379). -/
def setTid (s : State) (tid : Nat) (d : Desc) : State :=
  let c := s.me.ctx
  let x := s.ctxOf c
  { s.setCtx c { x with tids := if d = Desc.raw then mdel x.tids tid else mset x.tids tid d } with
    ecc := { s.ecc with tids := sdel s.ecc.tids (256 * c + tid) } }

/-- The TID of g[a] within a range. -/
def tidArg (v : W64) (lo : Nat) : Except Stop Nat :=
  if lo ≤ v.toNat && v.toNat ≤ 255 then .ok v.toNat else cfgReject 1

/-- TIDSET (R279): BASE's tag is that of the first granule; the entry may cross pages of space 0. -/
def execTidset (p : Guard) (a : GReg) (b : KReg) (s : State) : Host.Outcome State Fault Refusal :=
  word p (fun s => do
    let tid ← tidArg (s.me.gr a) 1
    let k := s.me.kr b
    let (bs, s) ← reeveBlock s k k.offset 64 16 clCapLoad
    let l ← locate s s.acx k.space k.addr rR
    let (c, s) ← loadCapLoc s s.acx l
    let d : Desc := ⟨BitVec.ofNat 512 (leNat bs), c.tag⟩
    check c.tag .capTag
    check (c.otype == 0) .capSeal
    if descOk tid d then .ok (setTid s tid d, .next) else cfgReject 1) s

/-- The places of the four 16-byte parts of a stored descriptor. -/
def tidParts (s : State) (k c : Cap) : Nat → Except Stop (List Loc × State)
  | 0 => .ok ([], s)
  | n + 1 => do
    let (ls, s) ← tidParts s k c n
    let (l, s) ← capStorePlaceW s k c (k.offset + 16 * n)
    .ok (ls ++ [l], s)
where
  /-- The place of one part: the whole entry's check, GL for its first part, then T. -/
  capStorePlaceW (s : State) (k c : Cap) (off : Nat) : Except Stop (Loc × State) := do
    let ea ← checkCapAt k k.offset (some 64) 16 clCapStore
    check (!(c.tag && k.space == 0 && !permsIn pGL c.perms)) .capPerm ea
    let l ← locate s s.acx k.space (ea + (off - k.offset)) (rW ||| rT)
    let s ← settle s s.cur l 16
    .ok (l, s)

/-- TIDGET (R279): the entry whole, BASE with its tag; TID 0 gives zero bytes. -/
def execTidget (p : Guard) (a : GReg) (b : KReg) (s : State) : Host.Outcome State Fault Refusal :=
  word p (fun s => do
    let tid ← tidArg (s.me.gr a) 0
    let k := s.me.kr b
    let d := if tid = 0 then Desc.raw else tidEntry s s.me.ctx tid
    let (ls, s) ← tidParts s k d.base 4
    let parts := [d.base, ⟨field d.bits 128 128, false⟩, ⟨field d.bits 256 128, false⟩,
      ⟨field d.bits 384 128, false⟩]
    let s ← (ls.zip parts).foldlM (fun s x => storeCapLoc s s.acx x.1 x.2) s
    .ok (if notIdempotent k.space then markDirty s s.me.launch else s, .next)) s

/-- TIDINV (R279). -/
def execTidinv (p : Guard) (a : GReg) (s : State) : Host.Outcome State Fault Refusal :=
  word p (fun s => do
    let tid ← tidArg (s.me.gr a) 1
    .ok (setTid s tid Desc.raw, .next)) s

end Sys2Proof.Machine
end

