-- ==== Sys2Proof/Machine/Transfer.lean ====
section
/-! DEFINITION. Issuing streams and copies, their completion signals, copy tags, rings and stream
barriers (R100, R179 to R182, R257, R264 to R267). -/

namespace Sys2Proof.Machine

/-! ## Rings (R180 to R182) -/

/-- A ring of a reeve. -/
def Reeve.ring (r : Reeve) (n : Nat) : Ring := (mget r.rings n).getD {}
/-- Replaces a ring. -/
def Reeve.setRing (r : Reeve) (n : Nat) (x : Ring) : Reeve := { r with rings := mset r.rings n x }
/-- The entries of an initialised ring. -/
def Ring.size (x : Ring) : Nat := 2 ^ x.lsize
/-- WP advances over consecutive entries whose DONE bit is set (R181). -/
def Ring.advance (x : Ring) : Nat → Ring
  | 0 => x
  | n + 1 =>
    if x.done.contains x.wp then
      Ring.advance { x with wp := x.wp + 1, done := x.done.filter (· != x.wp) } n
    else x
/-- A completion sets its DONE bit. -/
def Ring.complete (x : Ring) (e : BitVec 32) : Ring :=
  Ring.advance { x with done := e :: x.done } (x.done.length + 1)

/-! ## Signals (R100, R263) -/

/-- Signals a completion to a reeve: tag or ring entry; full bits are set by the writes. -/
def Reeve.signal (r : Reeve) : Comp → Reeve
  | .tag t => { r with tbusy := setBit r.tbusy t false, tbits := setBit r.tbits t true }
  | .ring n e => r.setRing n ((r.ring n).complete e)
  | _ => r

/-- The byte of a completion record of the crier (R211). -/
def Comp.byte : Comp → Nat
  | .tag t => t
  | .ring n _ => n
  | _ => 0

/-- A stream or copy of a hamlet completes: its signal, and crier record 0x01. -/
def completeXfer (s : State) (h xid cell bytes : Nat) : State :=
  let r := s.reeve h
  match mget r.xfers xid with
  | some x =>
    let s := s.setReeve h { r.signal x.comp with xfers := mdel r.xfers xid }
    crierAt s r.launch 0x01 h cell 0 ([BitVec.ofNat 8 x.comp.byte] ++ leBytes 8 bytes)
  | none => s

/-- Step 1 of R179: the tag check of R100 or the ring reservation of R182.  `none` for completion
code 0, 3. -/
def stepOne (r : Reeve) (comp n : Nat) : Except Stop (Reeve × Comp) :=
  match comp with
  | 1 =>
    if r.tbusy.getLsbD n then raise .tagBusy
    else .ok ({ r with tbits := setBit r.tbits n false, tbusy := setBit r.tbusy n true }, .tag n)
  | 2 =>
    let x := r.ring n
    if !x.init || (x.rsv - x.rp).toNat = x.size then raise .ringFault
    else .ok (r.setRing n { x with rsv := x.rsv + 1 }, .ring n x.rsv)
  | 3 => .ok (r, .full)
  | _ => .ok (r, .none)

/-- The READY bit of the engine that serves a command (R410); MPATH has none. -/
def engReady (e : Eng) (h : Nat) : Option Nat :=
  match e with
  | .drove => some (192 + hamSlice h)
  | .pinbin => some (128 + hamShireG h)
  | .pinpair => some (128 + hamShireG h)
  | .threshOpen => some (96 + hamShireG h)
  | .threshClose => some (96 + hamShireG h)
  | .mtaskAttach => some (160 + hamShireG h)
  | .mtaskAppend => some (160 + hamShireG h)
  | .mtaskDetach => some (160 + hamShireG h)
  | .mpath => none

/-- Whether a command must wait at issue: its engine is not ready (R411), or its Drover already runs
16 walks (R278). -/
def engBusy (s : State) (c : Cmd) : Bool :=
  (match engReady c.eng c.hamlet with
   | some b => !s.usable b
   | none => false)
  || (c.eng == .drove && 16 ≤ (s.cmds.filter fun (_, e) =>
        e.eng == .drove && hamSlice e.hamlet == hamSlice c.hamlet).length)

/-- Steps 2 and 3 of R179, and the issue itself.  A stall keeps what step 1 did. -/
def startIssue (s : State) (i : Issue) : Except Stop State :=
  let r := s.me
  let stall : Except Stop State := .error (.keep (s.setMe { r with issued := some i }) .output)
  if r.xfers.length ≥ 64 then stall
  else
    let id := r.nextX
    match i with
    | .stream port spec =>
      let q := s.sport s.cur port
      if q.pending.length ≥ 4 then stall
      else
        let s := s.setMe { r with
          nextX := id + 1
          xfers := mset r.xfers id { kind := .stream port, comp := spec.comp, cls := spec.cls } }
        .ok (s.setSport s.cur port { q with pending := q.pending ++ [{ spec with xid := id }] })
    | .copy x =>
      if x.len = 0 then
        .ok (crierAt (s.setMe (r.signal x.comp)) r.launch 0x01 s.cur 0 0
          ([BitVec.ofNat 8 x.comp.byte] ++ leBytes 8 0))
      else .ok (s.setMe { r with nextX := id + 1, xfers := mset r.xfers id x })
    | .cmd c comp =>
      if engBusy s c then stall
      else
        let cid := s.nextId
        let s := { s with nextId := cid + 1, cmds := mset s.cmds cid { c with xid := id } }
        .ok (s.setMe { r with
          nextX := id + 1
          xfers := mset r.xfers id { kind := .engine cid, comp := comp, cls := 0 } })

/-- An issuing instruction: what it builds is built once, and a stalled issue goes on after
step 1 (R179).  `build` answers what to start for a completion; `k` finishes. -/
def issue (s : State) (comp n : Nat) (build : State → Except Stop (State × (Comp → Issue)))
    : Except Stop State :=
  match s.me.issued with
  | some i => startIssue s i
  | none => do
    let (s, mk) ← build s
    let s ← releaseAll s s.cur
    let (r, c) ← stepOne s.me comp n
    startIssue (s.setMe r) (mk c)

/-! ## Streams (R233, R257) -/

/-- The cell number of a hamlet's port cell (R13). -/
def portCell : Nat := 15

/-- The declaration word of a hamlet's stream port (R392); 0 where no page is placed. -/
def portDecl (s : State) (h p : Nat) : Nat :=
  match cellOfHam s h portCell with
  | some (_, c) => if c.kind = .memory then (c.word (32 + 2 * p)).toNat else 0
  | none => 0
/-- USED. -/
def declUsed (d : Nat) : Bool := d.testBit 15
/-- CTRL. -/
def declCtrl (d : Nat) : Bool := d.testBit 14
/-- DIR. -/
def declDir (d : Nat) : Bool := d.testBit 9

/-- A stream specification from a pattern record (R233), before its capability is bound. -/
def patternSpec (bs : List Byte) : Spec :=
  let f (o n : Nat) : Nat := leNat ((bs.drop o).take n)
  { xid := 0, cap := Cap.null
    count := [f 0 4, f 4 4, f 8 4, f 12 4]
    stride := [sgn 40 (f 0x10 5), sgn 40 (f 0x15 5), sgn 40 (f 0x1A 5), sgn 40 (f 0x1F 5)]
    esize := f 0x24 1, window := f 0x25 1, mark := BitVec.ofNat 8 (f 0x26 1)
    desc := Desc.raw, red := 0, cls := 0, dir := false, comp := .none }

/-- Whether a record passes step 2 of R257. -/
def patternOk (bs : List Byte) (p : Spec) : Bool :=
  p.esize ≤ 6 && 1 ≤ p.window && p.window ≤ 16 && p.mark.toNat < 16
    && (bs.drop 0x27).all (· == 0)

/-- The access class of a stream's elements (R257, step 4). -/
def streamClass (dir : Bool) (red : Nat) : AClass :=
  let c := if dir then clStore.engine else clLoad.engine
  if red = 0 then c else c.also clReduce

/-- SSPEC (R257). -/
def execSspec (p : Guard) (port : BitVec 4) (kd kp : KReg) (ga : GReg) (comp : BitVec 2) (dir : Bool)
    (tag : BitVec 6) (tid : BitVec 8) (red : BitVec 4) (cls : BitVec 3) (s : State) :
    Host.Outcome State Fault Refusal :=
  word2 p (fun s => do
    let s ← issue s comp.toNat tag.toNat fun s => do
      let r := s.me
      let kr := r.kr kp
      let (bs, s) ← reeveBlock s kr (effOff kr (r.gr ga) 0) 48 16 clLoad
      let sp := patternSpec bs
      if !patternOk bs sp then cfgReject 1
      else do
        let d := portDecl s s.cur port.toNat
        if !declUsed d || declDir d != dir then cfgReject 10
        else if declCtrl d && sp.esize > 3 then cfgReject 3
        else do
          let k := r.kr kd
          let _ ← checkCapAt k k.offset none 1 (streamClass dir red.toNat)
          if red != 0 && sp.esize != (if redSize red.toNat = 4 then 2 else 3) then cfgReject 1
          else do
            let ds ← takeDesc s r.ctx tid.toNat
            let s := if red != 0 || (dir && notIdempotent k.space) then markDirty s r.launch else s
            .ok (s, fun c => .stream port.toNat { sp with
              cap := k, desc := ds, red := red.toNat, cls := cls, dir := dir, comp := c })
    .ok (s, .next)) s

/-! ## Copies (R264) -/

/-- SCOPY (R264). -/
def execScopy (p : Guard) (kd ks : KReg) (gn : GReg) (comp : BitVec 2) (tag : BitVec 6)
    (tid : BitVec 8) (red : BitVec 4) (cls : BitVec 3) (s : State) :
    Host.Outcome State Fault Refusal :=
  word2 p (fun s => do
    let s ← issue s comp.toNat tag.toNat fun s => do
      let r := s.me
      let src := r.kr ks
      let dst := r.kr kd
      let n := (r.gr gn).toNat
      let sa ← checkCapAt src src.offset none 1 clLoad.engine
      let da ← checkCapAt dst dst.offset none 1 (streamClass true red.toNat)
      check (n == 0 || src.offset + n ≤ src.length) .capBounds sa
      check (n == 0 || dst.offset + n ≤ dst.length) .capBounds da
      check (!(n != 0 && src.space == dst.space && sa < da + n && da < sa + n)) .capBounds da
      let z := redSize red.toNat
      if red != 0 then
        check (sa % z == 0 && n % z == 0) .align sa
        check (da % z == 0) .align da
      let ds ← takeDesc s r.ctx tid.toNat
      let s := if red != 0 || notIdempotent dst.space then markDirty s r.launch else s
      .ok (s, fun c => .copy { kind := .copy, comp := c, cls := cls, src := src, dst := dst, len := n
                               red := red.toNat, desc := ds })
    .ok (s, .next)) s

/-! ## Copy tags (R265) -/

/-- TWAITANY (R265). -/
def execTwaitany (p : Guard) (d a : GReg) (s : State) : Host.Outcome State Fault Refusal :=
  word p (fun s =>
    let r := s.me
    let m := r.gr a
    if r.tbits &&& m != 0 || r.tbusy &&& m == 0 then
      .ok (s.updMe (·.setG d (r.tbits &&& m)), .next)
    else await (.anyTag m)) s

/-- TWAITALL (R265). -/
def execTwaitall (p : Guard) (a : GReg) (s : State) : Host.Outcome State Fault Refusal :=
  word p (fun s =>
    let m := s.me.gr a
    if s.me.tbusy &&& m == 0 then .ok (s, .next) else await (.tags m)) s

/-- TFIRST (R265). -/
def execTfirst (p : Guard) (d a : GReg) (s : State) : Host.Outcome State Fault Refusal :=
  toG p d (fun s => BitVec.ofNat 64 (ctzFrom (s.me.tbits &&& s.me.gr a) 0 64)) s

/-- TCLR (R100, R265). -/
def execTclr (p : Guard) (a : GReg) (s : State) : Host.Outcome State Fault Refusal :=
  word p (fun s => .ok (s.updMe fun r => { r with tbits := r.tbits &&& ~~~r.gr a }, .next)) s

/-- TREAD (R265). -/
def execTread (p : Guard) (d : GReg) (s : State) : Host.Outcome State Fault Refusal :=
  toG p d (fun s => s.me.tbits) s

/-! ## Ring instructions (R266) -/

/-- RINIT (R266). -/
def execRinit (p : Guard) (n : BitVec 4) (a : GReg) (s : State) : Host.Outcome State Fault Refusal :=
  word p (fun s => do
    let r := s.me
    let x := r.ring n.toNat
    let z := natField (r.gr a).toNat 0 5
    check (1 ≤ z && z ≤ 16 && x.rsv == x.wp) .ringFault
    .ok (s.setMe (r.setRing n.toNat { init := true, lsize := z }), .next)) s

/-- RAWAIT (R266). -/
def execRawait (p : Guard) (d a : GReg) (n : BitVec 4) (s : State) :
    Host.Outcome State Fault Refusal :=
  word p (fun s => do
    let r := s.me
    let x := r.ring n.toNat
    let k := (r.gr a).toNat
    check (x.init && k ≤ x.size) .ringFault
    if (x.wp - x.rp).toNat ≥ k then
      .ok (s.setMe (r.setG d ((x.wp - x.rp).zeroExtend 64)), .next)
    else await (.ring n.toNat k)) s

/-- `n` bytes of a command's block from byte `o`. -/
def Cmd.fld (c : Cmd) (o n : Nat) : Nat := leNat ((c.block.drop o).take n)

/-- The Thresher session that fills a ring of a reeve (R186, R341). -/
def ringSession (s : State) (h n : Nat) : Option (Nat × Cmd) :=
  s.cmds.find? fun (_, c) =>
    c.eng == .threshOpen && c.hamlet == h && c.launch == (s.reeve h).launch && c.fld 0x23 1 % 16 == n

/-- The low-water alarm of a session's ring (R186): one record each time the count falls below the
threshold. -/
def lowWater (s : State) (h n : Nat) : State :=
  match ringSession s h n with
  | none => s
  | some (id, c) =>
    let x := (s.reeve h).ring n
    let k := (x.wp - x.rp).toNat
    let arm (s : State) (b : Bool) : State :=
      { s with cmds := mset s.cmds id { c with sess := { c.sess with armed := b } } }
    if k ≥ c.fld 0x26 1 then arm s true
    else if c.sess.armed then
      crierAt (arm s false) c.launch 0x05 h 0 0 (leBytes 2 c.handle.toNat ++ leBytes 4 k)
    else s

/-- RREL (R266): of a Thresher ring, also of one whose session has ended, it is not repeated by a replay (R386). -/
def execRrel (p : Guard) (a : GReg) (n : BitVec 4) (s : State) : Host.Outcome State Fault Refusal :=
  word p (fun s => do
    let r := s.me
    let x := r.ring n.toNat
    let k := (r.gr a).toNat
    check (x.init && k ≤ (x.wp - x.rp).toNat) .ringFault
    let s := s.setMe (r.setRing n.toNat { x with rp := x.rp + BitVec.ofNat 32 k })
    let s := if x.feed || (ringSession s s.cur n.toNat).isSome then markDirty s r.launch else s
    .ok (lowWater s s.cur n.toNat, .next)) s

/-- RSTAT (R266). -/
def execRstat (p : Guard) (d : GReg) (n : BitVec 4) (s : State) : Host.Outcome State Fault Refusal :=
  toG p d (fun s =>
    let x := s.me.ring n.toNat
    if x.init then x.wp.zeroExtend 64 <<< 32 ||| x.rp.zeroExtend 64 else 0) s

/-! ## Stream barriers (R267) -/

/-- Whether a transfer is a member of a mask. -/
def Xfer.member (x : Xfer) (mask : BitVec 16) : Bool :=
  match x.kind with
  | .stream p => mask.getLsbD p
  | .copy => true
  | .engine _ => false

/-- Whether an outstanding transfer has sent or taken EOS (R267): its accesses are then performed. -/
def sentEos (s : State) (h xid : Nat) (x : Xfer) : Bool :=
  match x.kind with
  | .stream p =>
    match (s.sport h p).cur with
    | some c => c.spec.xid == xid && (if c.spec.dir then c.eosTaken && allPerformed s (.stream h p)
        else c.phase == .done)
    | none => false
  | _ => false

/-- Whether a later transfer is held by a stream barrier in force (R267). -/
def barred (s : State) (h xid : Nat) (x : Xfer) : Bool :=
  let r := s.reeve h
  r.sbars.any fun b =>
    b.upto ≤ xid && x.member b.mask &&
      r.xfers.any fun (j, y) => j < b.upto && y.cls == x.cls && y.member b.mask && !sentEos s h j y

/-- ORDER, CONFIG and MEMPHASE: the barrier stays in force while an earlier member is in flight. -/
def sbarPut (p : Guard) (kind : Nat) (a : GReg) (s : State) : Host.Outcome State Fault Refusal :=
  word p (fun s =>
    let r := s.me
    let live (b : SBar) : Bool := r.xfers.any fun (j, y) => j < b.upto && y.member b.mask
    let b : SBar := { kind := kind, mask := field (r.gr a) 0 16, upto := r.nextX }
    .ok (s.setMe { r with sbars := (b :: r.sbars).filter live }, .next)) s

/-- SBAR.order (R267). -/
def execSbarOrder (p : Guard) (a : GReg) (s : State) : Host.Outcome State Fault Refusal :=
  sbarPut p 0 a s
/-- SBAR.config (R267): earlier graph instructions of the reeve took effect before they retired, so
it orders as ORDER does. -/
def execSbarConfig (p : Guard) (a : GReg) (s : State) : Host.Outcome State Fault Refusal :=
  sbarPut p 1 a s
/-- SBAR.memphase (R267). -/
def execSbarMemphase (p : Guard) (a : GReg) (s : State) : Host.Outcome State Fault Refusal :=
  sbarPut p 2 a s
/-- SBAR.cond (R267): the reeve waits until every earlier member has completed. -/
def execSbarCond (p : Guard) (a : GReg) (s : State) : Host.Outcome State Fault Refusal :=
  word p (fun s =>
    let m := field (s.me.gr a) 0 16
    if s.me.xfers.any fun (_, y) => y.member m then await .sbar else .ok (s, .next)) s

end Sys2Proof.Machine
end

