-- ==== Sys2Proof/Machine/PortOps.lean ====
section
/-! DEFINITION. The port operations of a reeve (R268, R269). -/

namespace Sys2Proof.Machine

/-- A tag from its fields (R23). -/
def mkTag (ctx thread round idx : Nat) : W64 :=
  BitVec.ofNat 64 ((ctx % 2 ^ 10) <<< 54 + (thread % 2 ^ 18) <<< 36 + (round % 2 ^ 12) <<< 24
    + idx % 2 ^ 24)
/-- Context of a tag. -/
def tagCtx (t : W64) : Nat := natField t.toNat 54 10
/-- Thread of a tag. -/
def tagThread (t : W64) : Nat := natField t.toNat 36 18
/-- Round of a tag. -/
def tagRound (t : W64) : Nat := natField t.toNat 24 12
/-- Index of a tag. -/
def tagIndex (t : W64) : Nat := natField t.toNat 0 24

/-! ## Rounds that are still open (R25) -/

/-- The cells of an instance that tokens from some cells reach. -/
def Inst.reach (x : Inst) : Nat → List (Nat × Nat) → List (Nat × Nat)
  | 0, l => l
  | n + 1, l =>
    let m := (l ++ (x.circs.filter fun c => l.contains (c.sp, c.sc)).map fun c => (c.dp, c.dc)).dedup
    if m.length = l.length then l else x.reach n m

/-- The tags of what a node holds of a round that it has not closed. -/
def NodeSt.openTags : NodeSt → List W64
  | .red x => if x.any then [x.tag] else []
  | .coal x => if x.lanes.isEmpty then [] else [x.tag]
  | .conv x => (if x.elems.isEmpty then [] else [x.tag]) ++ (if x.block.isEmpty then [] else [x.btag])
    ++ (x.out ++ x.out1).map (·.tag)
  | .count x => if x.busy then [x.tag] else []
  | .join x => (if x.any then [x.tag] else []) ++ x.results.map (·.tag)
  | .mem x => x.toks.map (·.addr.tag) ++ (x.out ++ x.ord).map (·.tag)
  | .mac x => x.rows.map (·.1) ++ (x.atoks ++ x.wtoks ++ x.out).map (·.tag)
  | _ => []

/-- The tags of what a cell holds. -/
def Cell.openTags (c : Cell) : List W64 :=
  (c.inb.flatMap fun y => y.2.map (·.tag)) ++ (c.outq.flatMap fun y => y.2.map (·.tag))
    ++ (c.nodes.flatMap fun y => y.2.openTags)
    ++ c.slots.flatMap fun y => y.2.ports.flatMap fun (_, a) =>
        (List.range a.fill).map fun j => (mgetD a.slots ((a.head + j) % 16) { kind := .data }).tag

/-- The tags of what a node feeds holds, its links included; of an actor cell, what the node's slot feeds. -/
def feedTags (s : State) (n : NodeRef) : List W64 :=
  match s.inst n.inst with
  | none => []
  | some x =>
    let own := x.circs.filter fun c => (c.sp, c.sc) == (n.page, n.cell)
      && ((x.cell n.page n.cell).kind != .actor || c.sport / 8 == n.sub)
    let l := x.reach x.circs.length (own.map fun c => (c.dp, c.dc)).dedup
    (own ++ x.circs.filter fun c => l.contains (c.sp, c.sc)).flatMap (fun c => c.tokens.map (·.tag))
      ++ l.flatMap fun (p, c) => (x.cell p c).openTags

/-- Whether checkpoints of a launch are taken now (R385): it is RUNNING and of class 2, has a record, and every plane of it
is active. -/
def ckptOpen (s : State) (key : Nat) (l : Launch) : Bool :=
  l.st == .running && l.lpb.replay == 2 && !l.racing && l.rollback.isNone && l.record.isSome
    && s.insts.all fun y => y.2.launch != key || y.2.plane == .active

/-- Whether sources of an instance stop before a round, a multiple of CKPT, until its checkpoint has been taken or put off
(R385, log 43). -/
def ckptHolds (s : State) (i round : Nat) : Bool :=
  match s.inst i with
  | none => false
  | some x =>
    match s.launchOf x.launch with
    | some l => ckptOpen s x.launch l && round % l.lpb.ckpt == 0 && round != x.ckptRound
    | none => false

/-- Whether the round 2,048 before one is open in what a source feeds (R25).  Rounds open one after another, so no earlier
round can be open then. -/
def roundFar (s : State) (n : NodeRef) (round : Nat) : Bool :=
  (feedTags s n).any fun t => tagRound t == (round + 2048) % 4096

/-- Whether a source may not yet open a round: an open round is too far back (R25), or a checkpoint comes first (R385). -/
def roundHeld (s : State) (n : NodeRef) (round : Nat) : Bool := ckptHolds s n.inst round || roundFar s n round

/-- Sends a token from a stream port: the round counter advances after EOR, and a round's tokens are counted (R23, R24,
R268). -/
def SPort.push (q : SPort) (t : Token) : SPort :=
  let q := { q with buf := q.buf ++ [t], sent := (q.sent + 1) % 2 ^ 24 }
  match t.kind with
  | .eor => { q with round := (q.round + 1) % 4096, idx := 0, sent := 0 }
  | .data => { q with idx := (q.idx + 1) % 2 ^ 24 }
  | _ => q

/-- The tag that a stream gives the next token of a hamlet's port: the index is its position among the data of the
round (R23). -/
def portTag (s : State) (h : Nat) (q : SPort) : W64 :=
  let r := s.reeve h
  mkTag r.ctx r.unit q.round q.idx

/-- The tag of a token of INJECT or MARKP: the index is the count of tokens sent in the round (R268). -/
def handTag (r : Reeve) (q : SPort) : W64 := mkTag r.ctx r.unit q.round q.sent

/-- A token of a foreign context is dropped at entry: CTX_MISMATCH in the owner's launch status, counted for the owner
(R26, R178). -/
def dropForeign (s : State) (n : NodeRef) : State :=
  let (l, _, vf) := nodeOwner s n
  (recordFault s l { code := .ctxMismatch } (siteOf s vf (s.nodeHam n) n.cell n.sub false)).count vf 0x068

/-- The checks of a PORTOP against the port's declaration (R268). -/
def portCheck (s : State) (n : Nat) (dir : Bool) : Except Stop Nat :=
  let d := portDecl s s.cur n
  if (cellOfHam s s.cur portCell).isNone || !declUsed d || declDir d != dir then cfgReject 10
  else .ok d

/-- Sends a token once the port has no stream and a free slot (R268); the owner of the port's buffer takes only its own
context's (R178). -/
def portSend (s : State) (n : Nat) (t : W64 → Token) (last : Bool) : Except Stop (State × Flow) := do
  let q := s.sport s.cur n
  if q.eosSent then raise .rateMismatch
  else if q.cur.isSome || !q.pending.isEmpty || q.buf.length ≥ 16 then await .output
  else do
    let s ← releaseAll s s.cur
    match cellOfHam s s.cur portCell with
    | some (m, _) =>
      if q.sent = 0 && roundHeld s m q.round then await .output
      else if (nodeOwner s m).2.1 != s.me.ctx then .ok (dropForeign s m, .next)
      else
        let q := (s.sport s.cur n).push (t (handTag s.me q))
        .ok (s.setSport s.cur n { q with eosSent := last }, .next)
    | none => .ok (s, .next)

/-- INJECT (R268). -/
def execInject (p : Guard) (n : BitVec 4) (a : GReg) (s : State) : Host.Outcome State Fault Refusal :=
  word p (fun s => do
    let d ← portCheck s n.toNat false
    let mk (tag : W64) : Token :=
      { kind := .data, data := (s.me.gr a).zeroExtend 512, mask := 1, tag := tag }
    if !declCtrl d then cfgReject 3 else portSend s n.toNat mk false) s

/-- MARKP (R268). -/
def execMarkp (p : Guard) (n : BitVec 4) (a : GReg) (s : State) : Host.Outcome State Fault Refusal :=
  word p (fun s => do
    let _ ← portCheck s n.toNat false
    let v := (s.me.gr a).toNat
    let send (k : TokKind) (last : Bool) := portSend s n.toNat (fun tag => { kind := k, tag := tag }) last
    match natField v 0 3 with
    | 2 => send (.eod (natField v 3 2)) false
    | 3 => send .eor false
    | 4 => send .eos true
    | _ => cfgReject 1) s

/-- The link code of a token's kind (R29). -/
def TokKind.code : TokKind → Nat
  | .data => 0 | .control => 1 | .eod _ => 2 | .eor => 3 | .eos => 4 | .pmk _ => 5

/-- DRAIN (R268): a poisoned token raises its poison-record fault and stays. -/
def execDrain (p : Guard) (d : GReg) (n : BitVec 4) (s : State) : Host.Outcome State Fault Refusal :=
  word p (fun s => do
    let _ ← portCheck s n.toNat true
    let q := s.sport s.cur n.toNat
    if q.cur.isSome || !q.pending.isEmpty then await .input
    else
      match q.buf with
      | [] => await .input
      | t :: rest =>
        if t.poison then .error (.trap (poisonFault s s.me.ctx))
        else
          let v : W64 := match t.kind with
            | .data => field t.data 0 64
            | .control => field t.data 0 64
            | _ => 0
          let s := s.setSport s.cur n.toNat
            { q with buf := rest, lastp := t.poison, lastk := t.kind.code }
          .ok (s.updMe (·.setG d v), .next)) s

/-- PSTAT (R269); 0 on a hamlet with no placed page. -/
def execPstat (p : Guard) (d : GReg) (n : BitVec 4) (s : State) : Host.Outcome State Fault Refusal :=
  toG p d (fun s =>
    if (cellOfHam s s.cur portCell).isNone then 0
    else pstatWord (portDecl s s.cur n.toNat) (s.sport s.cur n.toNat)) s

end Sys2Proof.Machine
end

