-- ==== Sys2Proof/Machine/Sys.lean ====
section
/-! DEFINITION. Work units, barriers, system registers and the miscellaneous instructions (R94 to R106,
R276, R277, R280 to R283). -/

namespace Sys2Proof.Machine

/-! ## Work units (R52, R92, R94) -/

/-- The k registers at work-unit start (R92). -/
def argRegs (args : List Cap) : Vector Cap 16 :=
  Vector.ofFn fun i => (args[i.val]?).getD Cap.null

/-- A reeve at the start of a work unit: every register of R92 and every ring is reset. -/
def Reeve.startUnit (r : Reeve) (unit : Nat) : Reeve :=
  { r with
    g := Vector.replicate 32 0
    k := argRegs r.args
    p := 0
    pc := BitVec.ofNat 64 r.code.addr
    rings := []
    unit := unit
    wait := none }

/-- The ports of a hamlet take tokens again from the next work unit (R268). -/
def openPorts (s : State) (h : Nat) : Nat → State
  | 0 => s
  | n + 1 =>
    let s := openPorts s h n
    let q := s.sport h n
    if q.eosSent then s.setSport h n { q with eosSent := false } else s

/-! ## Barriers (R276) -/

/-- The participants of a barrier instance: the launch's reeves in it that have not exited their
last work unit. -/
def participants (s : State) (l : Launch) (key : Nat) : List Nat :=
  l.reeves.filter fun h => barKey (key % 8) h == key && (s.reeve h).run != .exited

/-- Ends the open phase where enough reeves have arrived (R276); after the cycle in which it broke none completes (R277). -/
def closePhase (s : State) (l : Launch) (b : Barrier) : Barrier :=
  if !b.arrived.isEmpty && !(b.broken && b.brokenAt != s.cycle) && (participants s l b.key).length ≤ b.arrived.length then
    { b with arrived := [], phase := b.phase + 1 }
  else b

/-- A reeve leaves the barriers that hold it: its open arrivals are withdrawn (R276). -/
def leaveBarriers (s : State) (h : Nat) : State :=
  s.updLaunch (s.reeve h).launch fun l =>
    (List.range 5).foldl (fun l sc =>
      let b := barOf l (barKey sc h)
      setBar l (closePhase s l { b with arrived := sdel b.arrived h })) l

/-- BAR (R276). -/
def execBar (p : Guard) (d : PReg) (scope : BitVec 3) (arrive : Bool) (s : State) :
    Host.Outcome State Fault Refusal :=
  word p (fun s =>
    let r := s.me
    let done (s : State) (b : Bool) : Except Stop (State × Flow) :=
      .ok (s.updMe fun r => { r.setP d b with barWait := none }, .next)
    match s.launchOf r.launch with
    | none => done s false
    | some l =>
      let b := barOf l (barKey scope.toNat s.cur)
      match r.barWait with
      | some (key, phase) =>
        let b := barOf l key
        if b.phase != phase then done s false
        else if b.broken && b.brokenAt != s.cycle then done s true
        else await .bar
      | none =>
        let ends := closePhase s l { b with arrived := sadd b.arrived s.cur }
        if b.broken && ends.phase == b.phase then done s true
        else if b.arrived.contains s.cur then await .bar
        else do
          let s ← releaseAll s s.cur
          let b' := closePhase s l { b with arrived := sadd b.arrived s.cur }
          let s := s.updLaunch r.launch fun l => setBar l b'
          if arrive || b'.phase != b.phase then done s false
          else .error (.keep (s.updMe fun r => { r with barWait := some (b.key, b.phase) }) .bar)) s

/-- EXIT (R94, R281): combining entries are flushed, the reeve waits for its transfers, and the next
work unit starts or the reeve stops. -/
def execExit (p : Guard) (s : State) : Host.Outcome State Fault Refusal :=
  word p (fun s => do
    let s ← releaseAll s s.cur
    let r := s.me
    if !r.xfers.isEmpty then .error (.keep s .finish)
    else
      let next := r.unit + r.stride
      let s := openPorts s s.cur 16
      if next < r.nunits then
        let s := s.setMe (r.startUnit next)
        .ok (s, .jump s.me.pc)
      else
        .ok (leaveBarriers (s.setMe { r with run := .exited }) s.cur, .jump r.pc)) s

/-! ## System registers (R95 to R106, R280) -/

/-- The registers that U level may not reach (R95). -/
def sysPriv (n : Nat) : Bool := 0x020 ≤ n && n ≤ 0x024
/-- The registers that no SRWR may write (R95). -/
def sysRo (n : Nat) : Bool := n < 0x020 || n == 0x030 || n == 0x031

/-- SRRD (R96, R280). -/
def execSrrd (p : Guard) (d : GReg) (sel : BitVec 12) (s : State) : Host.Outcome State Fault Refusal :=
  word p (fun s => do
    check (s.me.superv || !sysPriv sel.toNat) .priv
    .ok (s.updMe (·.setG d (sysRead s s.cur s.me sel.toNat)), .next)) s

/-- SRWR (R96, R280). -/
def execSrwr (p : Guard) (a : GReg) (sel : BitVec 12) (s : State) : Host.Outcome State Fault Refusal :=
  word p (fun s => do
    check (s.me.superv || !sysPriv sel.toNat) .priv
    check (!sysRo sel.toNat) .illegalInstr
    .ok (s.setMe (sysWrite s s.me sel.toNat (s.me.gr a)), .next)) s

/-- ERET (R103, R281). -/
def execEret (p : Guard) (s : State) : Host.Outcome State Fault Refusal :=
  word p (fun s => do
    check s.me.superv .priv
    let r := s.me.leaveTrap
    .ok (s.setMe r, .jump r.pc)) s

/-- EVT (R282): one sample record, whatever SAMPLECFG holds. -/
def execEvt (p : Guard) (a : GReg) (s : State) : Host.Outcome State Fault Refusal :=
  word p (fun s =>
    let r := s.me
    let s := crier s r.vf 0x10 s.cur 0 0 r.lid
      (leBytes 8 r.pc.toNat ++ [0] ++ leBytes 7 (natField (r.gr a).toNat 0 56))
    .ok ((s.count r.vf 0x090).count r.vf 0x0A0, .next)) s

/-- RDTIME (R283). -/
def execRdtime (p : Guard) (d : GReg) (s : State) : Host.Outcome State Fault Refusal :=
  toG p d (fun s => s.time) s

/-- IDENT (R283): the stepping is what the part says (log 13). -/
def execIdent (p : Guard) (d : GReg) (s : State) : Host.Outcome State Fault Refusal :=
  toG p d (fun _ => Config.identHigh ++ Config.stepping) s

/-- An illegal word (R215, R220): raised at decode, whatever the guard. -/
def execIllegalInstr (s : State) : Host.Outcome State Fault Refusal :=
  word always (fun _ => raise .illegalInstr) s

/-- The trap of a fetch that has failed (R215, step 1). -/
def fetchTrap (t : Trap) (s : State) : Host.Outcome State Fault Refusal := word always (fun _ => .error (.trap t)) s

/-- Whether a fetch can fail with a code and subcode (R123, R144, R148, R379): a capability check, a translation, an
uncorrectable error, or a word of another package or of the host. -/
def fetchCode (code sub : Nat) : Bool :=
  (3 ≤ code && code ≤ 0x0A && sub == 0) || (code == 0x0B && 1 ≤ sub && sub ≤ 3)
    || (code == 0x1D && (sub == 1 || sub == 2 || sub == 4))

/-- FETCH_FAULT (R215, step 1); with a code that no fetch raises nothing happens. -/
def execFetchFault (code sub : BitVec 8) (addr : W64) (s : State) : Host.Outcome State Fault Refusal :=
  if fetchCode code.toNat sub.toNat then fetchTrap { code := Code.ofNum code.toNat, sub := sub.toNat, addr := addr } s
  else .next s

end Sys2Proof.Machine
end

