-- ==== Sys2Proof/Machine/Launch.lean ====
section
/-! DEFINITION. Launch parameter blocks, LAUNCH, LWAIT and the end of a launch (R199, R274, R275,
R368, R376). -/

namespace Sys2Proof.Machine

/-- A launch parameter block from its 64 bytes (R199); CKPT 0 is taken as 1. -/
def lpbOf (bs : List Byte) : Lpb :=
  let f (o n : Nat) : Nat := leNat ((bs.drop o).take n)
  { graph := BitVec.ofNat 64 (f 0 8), done := BitVec.ofNat 64 (f 8 8)
    code := ⟨BitVec.ofNat 128 (f 0x10 16), false⟩
    count := f 0x20 4, nargs := f 0x24 1, pclass := f 0x25 1 % 4, qos := f 0x25 1 / 16
    replay := f 0x26 1 % 4, ckpt := if f 0x28 2 = 0 then 1 else f 0x28 2
    c0 := f 0x2A 1, h0 := f 0x2B 1, width := f 0x2C 1, height := f 0x2D 1 }

/-- The refusals of a block with subcode FORMAT: reserved bytes, NARGS above 16, REPLAY 3 (R199,
R274). -/
def lpbBad (bs : List Byte) : Bool :=
  let f (o n : Nat) : Nat := leNat ((bs.drop o).take n)
  f 0x24 1 > 16 || f 0x26 1 ≥ 3 || f 0x27 1 != 0 || f 0x2E 2 != 0 || f 0x32 14 != 0

/-- Writes bytes at a virtual address of a context for the Steward, each 64 KiB page at its own place; nothing is written
from the first page on whose translation fails (log 26). -/
def stewardWrite (s : State) (ctx vf va : Nat) (bs : List Byte) : State :=
  let x : Acx := { who := .steward, ctx := ctx, vf := vf, ham := 0 }
  let k := 0x10000 - va % 0x10000
  let part (s : State) (va : Nat) (bs : List Byte) : Except State State :=
    let t := noteWalk s x 0 va rW
    match walkNow s ctx vf va rW with
    | .ok pa => .ok (storePhys t vf pa bs)
    | .error _ => .error t
  match part s va (bs.take k) with
  | .ok s =>
    if (bs.drop k).isEmpty then s
    else match part s (va + k) (bs.drop k) with
      | .ok s => s
      | .error s => s
  | .error s => s

/-- The 32-byte completion record (R199). -/
def completionRecord (l : Launch) : List Byte :=
  [BitVec.ofNat 8 l.fcode.num, BitVec.ofNat 8 l.fsub, 0, 0] ++ leBytes 4 l.lid.toNat
    ++ leBytes 8 l.cookie.toNat ++ leBytes 8 l.endTime.toNat ++ leBytes 4 l.replays.toNat
    ++ leBytes 4 l.preempts.toNat

/-- Delivers a completion: the record, then vector 0 (R199, R406). -/
def deliver (s : State) (key : Nat) : State :=
  match s.launchOf key with
  | some l =>
    raiseMsix (stewardWrite s l.ctx l.vf l.lpb.done.toNat (completionRecord l)) l.vf 0
  | none => s

/-- A launch leaves its device queue (R184). -/
def leaveDevq (s : State) (key : Nat) : State :=
  match s.launchOf key with
  | some l =>
    let c := s.ctxOf l.ctx
    if l.device then s.setCtx l.ctx { c with devq := c.devq.filter (· != key) } else s
  | none => s

/-- A launch that has been placed, or has ended, gives up the reservation of its partition (R370). -/
def unreserve (s : State) (vf key : Nat) : State :=
  let v := s.vfOf vf
  if v.reserved = some key then s.setVf vf { v with reserved := none } else s

/-- A launch changes its state, which the Steward journals first (R368). -/
def State.enter (s : State) (key : Nat) (f : Launch → Launch) : State :=
  { s.updLaunch key f with steward := { s.steward with journal := s.steward.journal + 1 } }

/-- A launch is COMPLETE: its record is delivered, or held while a takeover runs (R390). -/
def closeLaunch (s : State) (key : Nat) : State :=
  let s := (leaveDevq s key).updLaunch key Launch.enterHeld
  let s := s.enter key fun l => { l with st := .complete, endTime := s.time, reeves := [] }
  let s := if s.steward.trapped || s.steward.failed then
      { s with steward := { s.steward with held := s.steward.held ++ [key] } }
    else deliver s key
  match s.launchOf key with
  | some l =>
    crier (unreserve s l.vf key) l.vf 0x08 0 0 0 l.lid
      ([BitVec.ofNat 8 l.fcode.num, BitVec.ofNat 8 l.fsub] ++ leBytes 4 l.replays.toNat)
  | none => s

/-- The LAUNCHID after another: modulo 2^32, 0 skipped (R97). -/
def nextSerial (x : BitVec 32) : BitVec 32 := if x + 1 = 0 then 1 else x + 1

/-- Makes a launch QUEUED: it takes the context's next LAUNCHID and a journal number.  A count of 0
completes at once (R51). -/
def newLaunch (s : State) (l : Launch) : State × Nat :=
  let key := s.nextId
  let c := s.ctxOf l.ctx
  let lid := c.launchSerial
  let l := { l with lid := lid, age := s.steward.journal, queuedAt := s.time }
  let s := { s.setCtx l.ctx { c with
      launchSerial := nextSerial lid
      devq := if l.device && l.lpb.count != 0 then c.devq ++ [key] else c.devq } with
    nextId := key + 1
    steward := { s.steward with journal := s.steward.journal + 1 }
    launches := mset s.launches key l }
  (if l.lpb.count = 0 || l.fcode != .none then closeLaunch s key else s, key)

/-- `n` capabilities from an address of a space, with their tags. -/
def readCaps (s : State) (x : Acx) (space ea : Nat) : Nat → Except Stop (List Cap × State)
  | 0 => .ok ([], s)
  | n + 1 => do
    let (cs, s) ← readCaps s x space ea n
    let l ← locate s x space (ea + 16 * n) rR
    let (c, s) ← loadCapLoc s x l
    .ok (cs ++ [c], s)

/-- LAUNCH (R274). -/
def execLaunch (p : Guard) (d : GReg) (a : KReg) (s : State) : Host.Outcome State Fault Refusal :=
  word p (fun s => do
    let r := s.me
    let k := r.kr a
    let x := s.acx
    let (bs, s) ← reeveBlock s k k.offset 64 256 clConfigure
    check (!lpbBad bs) .cfgReject 0 1
    let lpb := lpbOf bs
    check (lpb.count < 2 ^ 24) .launchRange
    let (args, s) ← if lpb.nargs = 0 then Except.ok ([], s) else do
      let ea ← checkCapAt k (k.offset + 0x40) (some (16 * lpb.nargs)) 16 clConfigureCap
      let s ← settleSpan s x s.cur k.space 2 ea (16 * lpb.nargs)
      readCaps s x k.space ea lpb.nargs
    let ea ← checkCapAt k (k.offset + 0x10) (some 16) 16 clConfigureCap
    let (code, s) ← readCaps s x k.space ea 1
    check ((s.ctxOf r.ctx).devq.length < 64) .launchBlock
    let s ← releaseAll s s.cur
    let lpb := { lpb with
      code := code.getD 0 Cap.null
      pclass := natField r.prio.toNat 0 2
      qos := natField r.prio.toNat 4 4 }
    let id := (s.ctxOf r.ctx).launchSerial
    let (s, _) := newLaunch (markDirty s r.launch)
      { ctx := r.ctx, vf := r.vf, lid := 0, lpb := lpb, args := args, device := true }
    .ok (s.updMe (·.setG d (id.zeroExtend 64)), .next)) s

/-- The known launch of a LAUNCHID for a context and a waiting launch (R275): one of the context's
4,096 most recent, and not the reeve's own. -/
def knownLaunch (s : State) (ctx own : Nat) (lid : BitVec 32) : Option Launch :=
  let recent := ((s.ctxOf ctx).launchSerial.toNat + (2 ^ 32 - 1) - lid.toNat) % (2 ^ 32 - 1)
  if 1 ≤ recent && recent ≤ 4096 then
    (s.launches.find? fun (k, l) => l.ctx == ctx && l.lid == lid && k != own).map (·.2)
  else none

/-- The word that LWAIT writes (R275). -/
def lwaitWord (l : Launch) : W64 :=
  BitVec.ofNat 64 (l.replays.toNat <<< 16 + (l.fsub % 256) <<< 8 + l.fcode.num)

/-- LWAIT (R275). -/
def execLwait (p : Guard) (d a : GReg) (s : State) : Host.Outcome State Fault Refusal :=
  word p (fun s =>
    let r := s.me
    let v := r.gr a
    let found := if v.toNat < 2 ^ 32 then knownLaunch s r.ctx r.launch (field v 0 32) else none
    match found with
    | none => .ok (s.updMe (·.setG d 0xFFFFFFFFFFFFFFFF), .next)
    | some l =>
      if l.st = .complete then .ok (s.updMe (·.setG d (lwaitWord l)), .next)
      else await .lwait) s

end Sys2Proof.Machine
end

