-- ==== Sys2Proof/Machine/ActorSlot.lean ====
section
/-! DEFINITION. Actor slots: finding a slot and its firing, its header's fields, its faults, and the
tokens its ports take and give (R224, R284 to R294, R307). -/

namespace Sys2Proof.Machine

/-! ## The launch of a node -/

/-- Key of the launch of an instance. -/
def State.instLaunch (s : State) (i : Nat) : Nat :=
  match s.inst i with
  | some x => x.launch
  | none => 0
/-- Context and VF of an instance's launch. -/
def State.instCtx (s : State) (i : Nat) : Nat × Nat :=
  match s.launchOf (s.instLaunch i) with
  | some l => (l.ctx, l.vf)
  | none => (0, 0)
/-- The access context of a node. -/
def State.nodeAcx (s : State) (n : NodeRef) : Acx :=
  let (c, v) := s.instCtx n.inst
  { who := .node n, ctx := c, vf := v, ham := s.nodeHam n }

/-- Enters a fault of a node in its launch's status (R376). -/
def nodeFault (s : State) (n : NodeRef) (t : Trap) : State :=
  let (_, vf) := s.instCtx n.inst
  recordFault s (s.instLaunch n.inst) t (siteOf s vf (s.nodeHam n) n.cell n.sub false)

/-- Marks an instance as having fired since the last sweep (R57). -/
def markActive (s : State) (i : Nat) : State := s.updInst i fun x => { x with active := true, acts := x.acts + 1 }

/-! ## Slots and their headers (R224) -/

/-- The slot of a node of an actor cell. -/
def State.slotAt (s : State) (n : NodeRef) : Slot := (s.cellAt n).slot n.sub
/-- Changes it. -/
def State.updSlot (s : State) (n : NodeRef) (f : Slot → Slot) : State :=
  let c := s.cellAt n
  s.setCellAt n { c with slots := mset c.slots n.sub (f (c.slot n.sub)) }
/-- Its firing. -/
def State.firingAt (s : State) (n : NodeRef) : Firing := (s.slotAt n).firing.getD {}
/-- Changes its firing. -/
def State.updFiring (s : State) (n : NodeRef) (f : Firing → Firing) : State :=
  s.updSlot n fun x => { x with firing := x.firing.map f }

/-- A field of the header. -/
def Slot.hf (x : Slot) (lo n : Nat) : Nat := natField x.hdr.toNat lo n
/-- Instructions of the block. -/
def Slot.size (x : Slot) : Nat := x.hf 0 7 + 1
/-- Round-closing. -/
def Slot.closing (x : Slot) : Bool := x.hf 7 1 == 1
/-- Rate of an input port. -/
def Slot.inRate (x : Slot) (p : Nat) : Nat := x.hf (8 + 4 * p) 4
/-- Rate of an output port. -/
def Slot.outRate (x : Slot) (p : Nat) : Nat := x.hf (24 + 4 * p) 4
/-- Whether an input port is on the control plane. -/
def Slot.inCtrl (x : Slot) (p : Nat) : Bool := x.hf (68 + p) 1 == 1
/-- Whether an output port is on the control plane. -/
def Slot.outCtrl (x : Slot) (p : Nat) : Bool := x.hf (72 + p) 1 == 1
/-- Whether an input's scalar is replicated. -/
def Slot.repl (x : Slot) (p : Nat) : Bool := x.hf (64 + p) 1 == 1
/-- Lane width of the header's lane mode. -/
def Slot.width (x : Slot) : Nat := modeWidth (x.hf 76 4)
/-- Block identifier. -/
def Slot.blockId (x : Slot) : Nat := x.hf 96 32
/-- A source (R292). -/
def Slot.source (x : Slot) : Bool := (List.range 4).all fun p => x.inRate p == 0
/-- The used input ports. -/
def Slot.usedIn (x : Slot) : List Nat := (List.range 4).filter fun p => x.inRate p != 0
/-- The used output ports. -/
def Slot.usedOut (x : Slot) : List Nat := (List.range 4).filter fun p => x.outRate p != 0
/-- Instruction `i` of the block. -/
def Slot.instr (x : Slot) (i : Nat) : W64 := x.code.getD i 0
/-- MARK instructions of the block that name output port `p`. -/
def Slot.marksOn (x : Slot) (p : Nat) : Nat :=
  (x.code.filter fun w => (field w 56 8).toNat == 0x61 && (field w 0 8).toNat == 4 + p).length
/-- The rate of an output port in a firing of a kind. -/
def Slot.rateOut (x : Slot) (close : Bool) (p : Nat) : Nat :=
  if x.closing && !close then 0 else x.outRate p

/-! ## Port buffers -/

/-- The token at `j` places from the head. -/
def APort.at (a : APort) (j : Nat) : Token := mgetD a.slots ((a.head + j) % 16) { kind := .data }
/-- The token at the head, where there is one. -/
def APort.front (a : APort) : Option Token := if a.fill = 0 then none else some (a.at 0)
/-- Puts a token at the tail. -/
def APort.put (a : APort) (t : Token) : APort :=
  { a with slots := mset a.slots a.tail t, tail := (a.tail + 1) % 16, fill := a.fill + 1 }
/-- Drops `n` tokens from the head. -/
def APort.adv (a : APort) (n : Nat) : APort :=
  { a with head := (a.head + n) % 16, fill := a.fill - n }
/-- Whether a token is a marker. -/
def Token.isMarker (t : Token) : Bool :=
  match t.kind with
  | .data => false
  | .control => false
  | _ => true
/-- Data tokens ahead of the first marker. -/
def APort.ahead (a : APort) : Nat :=
  (((List.range a.fill).map a.at).takeWhile fun t => !t.isMarker).length

/-- The index count of a port after it sends a token (R289): it counts data tokens and starts again
after EOR, which advances a source's round counter (R24). -/
def APort.sent (a : APort) (source : Bool) (k : TokKind) : APort :=
  match k with
  | .data => { a with idx := (a.idx + 1) % 2 ^ 24 }
  | .eor => { a with idx := 0, round := if source then (a.round + 1) % 4096 else a.round }
  | .eos => { a with eos := true }
  | _ => a

/-! ## Faults of a slot (R307) -/

/-- Applies a window write to a slot (R112). -/
def applyWrite (x : Slot) (w : WinWrite) : Slot :=
  let base := w.off / 8 * 8
  slotPut x base (mergeBytes (slotView x base) (w.off % 8) w.bytes)
/-- Applies the window writes that waited for the boundary between firings. -/
def applyWrites (x : Slot) : Slot := { x.writes.foldl applyWrite x with writes := [] }

/-- The firing ends and commits nothing, and the slot halts. -/
def haltSlot (s : State) (n : NodeRef) (t : Trap) : State :=
  nodeFault (s.updSlot n fun x => { applyWrites { x with firing := none } with halted := true }) n t

/-- RATE_MISMATCH of a slot. -/
def rateFault : Trap := { code := .rateMismatch }

/-- Whether a token is PMK. -/
def Token.isPmk (t : Token) : Bool :=
  match t.kind with
  | .pmk _ => true
  | _ => false

/-- A marker of an input that stands wrong halts the slot at once (R291); PMK waits for PMK (R380). -/
def slotWrong (x : Slot) : Bool :=
  let used := x.usedIn
  let markerAt (p : Nat) : Bool := match (x.port p).front with
    | some t => t.isMarker && !t.isPmk
    | none => false
  used.any (fun p =>
    let a := x.port p
    let k := a.ahead
    k < a.fill && 1 ≤ k && k < x.inRate p && !(a.at k).isPmk)
  || (used.any markerAt && used.any fun p => x.inRate p ≤ (x.port p).ahead)

/-- Halts a slot whose markers stand wrong. -/
def checkSlot (s : State) (n : NodeRef) : State :=
  let x := s.slotAt n
  if x.valid && !x.done && !x.halted && x.firing.isNone && slotWrong x then haltSlot s n rateFault else s

/-! ## Readiness (R287, R291, R292) -/

/-- Whether an instance's nodes act: its plane is active and not gated (R270, R384). -/
def Inst.live (x : Inst) : Bool := !x.gated && (x.plane == .active || x.plane == .freezing)
/-- Whether an instance acts: its launch is RUNNING, or GATING towards its save (R368, R380). -/
def State.instLive (s : State) (i : Nat) : Bool :=
  match s.inst i with
  | some x => x.live &&
    (match s.launchOf x.launch with
     | some l => l.st == .running || l.st == .gating
     | none => false)
  | none => false
/-- Whether a firing in progress of an instance goes on: in a save it ends first (R380). -/
def State.firingLive (s : State) (i : Nat) : Bool :=
  s.instLive i ||
  match s.inst i with
  | some x => x.live &&
    (match s.launchOf x.launch with
     | some l => l.st == .saving
     | none => false)
  | none => false
/-- Whether a node's instance acts. -/
def State.nodeLive (s : State) (n : NodeRef) : Bool := s.instLive n.inst
/-- Whether a node's launch lets sources start something new (R380): it is not GATING. -/
def State.sourcesOpen (s : State) (n : NodeRef) : Bool :=
  (match s.inst n.inst with
   | some x => x.plane == .active
   | none => false) &&
  match s.launchOf (s.instLaunch n.inst) with
  | some l => l.st != .gating
  | none => false

/-- Whether a source may go on: while its launch is GATING, only up to its next round boundary. -/
def State.sourceMay (s : State) (n : NodeRef) (mid : Bool) : Bool :=
  s.sourcesOpen n ||
  (mid &&
    (match s.inst n.inst with
     | some x => x.plane == .active
     | none => false) &&
    match s.launchOf (s.instLaunch n.inst) with
    | some l => l.st == .gating
    | none => false)

/-- Whether a source slot has sent tokens of an open round. -/
def Slot.midRound (x : Slot) : Bool := x.usedOut.any fun p => (x.port (4 + p)).idx != 0

/-- Whether a slot can begin a data firing. -/
def dataReady (x : Slot) : Bool :=
  x.valid && !x.done && !x.halted
    && x.usedIn.all (fun p => x.inRate p ≤ (x.port p).ahead)
    && (List.range 4).all fun p =>
      let r := x.rateOut false p
      let m := x.marksOn p
      (r == 0 && m == 0) || r + m ≤ 16 - (x.port (4 + p)).fill

/-- The marker at the heads of all used inputs, where there is one at each. -/
def headMarkers (x : Slot) : Option (List Token) :=
  let l := x.usedIn.map fun p => (x.port p).front
  if l.isEmpty || l.any (fun t => match t with | some t => !t.isMarker | none => true) then none
  else some (l.filterMap id)

/-- Whether two markers agree in kind, round and level (R31). -/
def sameMarker (a b : Token) : Bool := a.kind == b.kind && tagRound a.tag == tagRound b.tag

/-- Whether a close firing is due for a marker (R291). -/
def closeDue (x : Slot) (m : Token) : Bool :=
  x.closing && (m.kind == .eor || (m.kind == .eos && x.roundOpen))

/-- Whether the outputs have room for a marker step. -/
def markerRoom (x : Slot) (close : Bool) : Bool :=
  x.usedOut.all fun p =>
    (if close then x.outRate p + x.marksOn p + 1 else 1) ≤ 16 - (x.port (4 + p)).fill

/-- Whether a slot stands ready for a marker step (R291). -/
def markerReady (x : Slot) : Bool :=
  x.valid && !x.done && !x.halted && match headMarkers x with
    | some (m :: rest) =>
      !(m :: rest).any Token.isPmk && (!rest.all (sameMarker m) || markerRoom x (closeDue x m))
    | _ => false

/-- Whether a slot is ready: for a data firing or a marker step, which counts as a firing (R287, R291). -/
def slotReady (x : Slot) : Bool := x.firing.isNone && (dataReady x || markerReady x)

/-- Keeps the cycle since which a slot has been ready (R374). -/
def Slot.noteReady (x : Slot) (cycle : W64) : Slot :=
  if !slotReady x then { x with ready := false }
  else if x.ready then x
  else { x with ready := true, readyAt := cycle }

/-! ## Publishing (R289, R290) -/

/-- The tag of a token that a firing publishes on a port. -/
def outTag (s : State) (n : NodeRef) (x : Slot) (f : Firing) (a : APort) (over_ : Option W64) : W64 :=
  let (ctx, _) := s.instCtx n.inst
  let (th, rd) := if x.source then (0, a.round) else (tagThread f.tag, tagRound f.tag)
  match over_ with
  | some b => mkTag ctx (tagThread b) rd (tagIndex b)
  | none => mkTag ctx th rd a.idx

/-- Publishes tokens `j`, …, `k - 1` of a port and the markers that stand among them. -/
def publishPort (s : State) (n : NodeRef) (x : Slot) (f : Firing) (p count : Nat) : APort :=
  let marks := f.marks.filter (·.1 == p)
  let emit (a : APort) (t : Token) : APort := (a.put t).sent x.source t.kind
  let putMarks (a : APort) (j : Nat) : APort :=
    (marks.filter (·.2.1 == j)).foldl (fun a m =>
      emit a { m.2.2 with tag := outTag s n x f a none }) a
  let a := (List.range count).foldl (fun a j =>
    let a := putMarks a j
    let t := mgetD f.staged (16 * p + j) { kind := .data }
    emit a { t with tag := outTag s n x f a (mget f.tagOver (16 * p + j)) }) (x.port (4 + p))
  putMarks a count

/-- A source that has sent EOS on one port owes it on its other used ports (R292). -/
def oweEos (s : State) (n : NodeRef) (x : Slot) : Slot :=
  if !x.source || !x.done then x
  else x.usedOut.foldl (fun x p =>
    let a := x.port (4 + p)
    if a.eos || a.fill ≥ 16 then x
    else
      let (ctx, _) := s.instCtx n.inst
      x.setPort (4 + p) ((a.put { kind := .eos, tag := mkTag ctx 0 a.round a.idx }).sent true .eos)) x

/-- The end of a firing (R290): each port must have advanced by its rate, then everything commits in
one step and the window writes that waited apply (R112). -/
def commitFiring (s : State) (n : NodeRef) : State :=
  let x := s.slotAt n
  match x.firing with
  | none => s
  | some f =>
    let pendOf (p : Nat) : Nat := mgetD f.pend p 0
    let inOk := (List.range 4).all fun p => pendOf p == if f.close then 0 else x.inRate p
    let outOk := (List.range 4).all fun p => pendOf (4 + p) == x.rateOut f.close p
    if !inOk || !outOk then haltSlot s n rateFault
    else
      let x1 := (List.range 4).foldl (fun y p =>
        let a := publishPort s n x f p (pendOf (4 + p))
        (y.setPort p ((y.port p).adv (pendOf p))).setPort (4 + p) a) x
      let x2 : Slot := { x1 with
        h := f.hw.foldl (fun m e => mset m e.1 e.2) x1.h
        q := f.qw.foldl (fun m e => mset m e.1 e.2) x1.q
        roundOpen := x1.roundOpen || (!f.close && !x.usedIn.isEmpty)
        done := x1.done || f.marks.any fun m => m.2.2.kind == .eos
        firing := none
        ready := false
        waited := 0 }
      let s := s.updSlot n fun _ => (applyWrites (oweEos s n x2)).noteReady s.cycle
      markActive (s.count (s.instCtx n.inst).2 0x010) n.inst

end Sys2Proof.Machine
end

