-- ==== Sys2Proof/Machine/ActorFire.lean ====
section
/-! DEFINITION. Running an actor's instructions: how a firing begins, what every instruction shares, and
the effect of each instruction (R284 to R305). -/

namespace Sys2Proof

/-- Element type. -/
def ActorOp.t (o : ActorOp) : Nat := o.ety.toNat
/-- Rounding mode. -/
def ActorOp.m (o : ActorOp) : Nat := o.rmode.toNat
/-- Lane width of the element type. -/
def ActorOp.w (o : ActorOp) : Nat := Machine.etyWidth o.t
/-- Flag bit 0. -/
def ActorOp.f0 (o : ActorOp) : Bool := o.flags.getLsbD 0
/-- Flag bit 1. -/
def ActorOp.f1 (o : ActorOp) : Bool := o.flags.getLsbD 1
/-- aux-b. -/
def ActorOp.ab (o : ActorOp) : Nat := o.auxb.toNat
/-- imm16. -/
def ActorOp.im (o : ActorOp) : Nat := o.imm.toNat

end Sys2Proof

namespace Sys2Proof.Machine

/-! ## What every instruction shares -/

/-- An instruction of a firing: its node, its index in the block, and its operands. -/
structure Fx where
  n : NodeRef
  i : Nat
  a : Val
  b : Val
  c : Val
  deriving DecidableEq, Repr

/-- The effect of an instruction: the value it produces, where it produces one. -/
abbrev Eff := Fx → ActorOp → State → Except Stop (Option Val × State)

/-- A value with nothing valid. -/
def Val.none_ (w : Nat) : Val := { data := 0, mask := 0, width := w }

/-- An instruction that computes a value from its operands. -/
def pure_ (f : Fx → ActorOp → Val) : Eff := fun x o s => .ok (some (f x o), s)

/-- B, or imm16 with flag IMM (R297). -/
def bOrImm (x : Fx) (o : ActorOp) : Val := if o.f0 then immVal o.t o.imm else x.b

/-- A binary integer instruction. -/
def effI2 (f : Nat → Nat → Nat → Nat) : Eff := pure_ fun x o => map2 o.w (f o.t) x.a (bOrImm x o)
/-- A unary integer instruction. -/
def effI1 (f : Nat → Nat → Nat) : Eff := pure_ fun x o => map1 o.w (f o.t) x.a
/-- A binary floating-point instruction. -/
def effF2 (f : Nat → Num → Num → Num) : Eff :=
  pure_ fun x o => map2 o.w (fl2 o.t o.m (f o.m)) x.a x.b
/-- A unary floating-point instruction, exact or rounded by nearest even. -/
def effF1 (f : Num → Num) : Eff := pure_ fun x o => map1 o.w (fl1 o.t 0 f) x.a

/-- Writes a staged output slot of output port `p` (0 to 3), a data-plane one at the header's lane width (R285). -/
def stage (s : State) (n : NodeRef) (p j : Nat) (v : Val) (tag : Option W64 := none) : State :=
  let x := s.slotAt n
  let tok : Token :=
    if x.outCtrl p then
      { kind := .data, data := v.low.zeroExtend 512, mask := if v.lowValid 64 then 1 else 0
        poison := v.poison }
    else { kind := .data, data := (v.to x.width).data, mask := (v.to x.width).mask, poison := v.poison }
  s.updFiring n fun f => { f with
    staged := mset f.staged (16 * p + j) tok
    tagOver := match tag with
      | some t => mset f.tagOver (16 * p + j) t
      | none => mdel f.tagOver (16 * p + j) }

/-- PEND of a port. -/
def pendAt (s : State) (n : NodeRef) (p : Nat) : Nat := mgetD (s.firingAt n).pend p 0
/-- Adds to PEND. -/
def addPend (s : State) (n : NodeRef) (p k : Nat) : State :=
  s.updFiring n fun f => { f with pend := mset f.pend p (mgetD f.pend p 0 + k) }

/-- RATE_MISMATCH at once (R289). -/
def rate {α : Type} : Except Stop α := .error (.trap rateFault)

/-- Publishes a value on an output port: an output-port target or EMITCTL (R289). -/
def publish (s : State) (n : NodeRef) (p : Nat) (v : Val) (tag : Option W64 := none) :
    Except Stop State :=
  let j := pendAt s n (4 + p)
  if j < (s.slotAt n).rateOut (s.firingAt n).close p then
    .ok (addPend (stage s n p j v tag) n (4 + p) 1)
  else rate

/-- Delivers a value to a target word (R225, R288). -/
def deliverTo (s : State) (n : NodeRef) (tw : BitVec 11) (v : Option Val) : Except Stop State :=
  let idx := natField tw.toNat 2 7
  match natField tw.toNat 9 2, v with
  | 0, _ => .ok s
  | 1, v => .ok (s.updFiring n fun f => { f with ops := mset f.ops (4 * idx + natField tw.toNat 0 2) v })
  | _, none => .ok s
  | 2, some v => publish s n idx v
  | _, some v =>
    .ok (s.updFiring n fun f =>
      if idx < 16 then { f with hw := mset f.hw idx ⟨v.data, v.poison⟩ }
      else { f with qw := mset f.qw (idx - 16) ⟨v.low.zeroExtend 512, v.poison⟩ })

/-- The value in an operand slot; `some none` is the absent value. -/
def opSlot (f : Firing) (i k : Nat) : Option (Option Val) := mget f.ops (4 * i + k)

/-- The operand slots an instruction reads (R296 to R305): bit 0 A, bit 1 B, bit 2 C. -/
def slotsRead (opc : Nat) (flags : Nat) : Nat :=
  let imm := flags % 2 = 1
  if opc = 0x03 || opc = 0x06 || opc = 0x08 || opc = 0x0A || opc = 0x0D then 1
  else if opc = 0x0E then 3
  else if opc = 0x1C || opc = 0x1D then 1
  else if 0x10 ≤ opc && opc ≤ 0x1F then (if imm then 1 else 3)
  else if opc = 0x23 || opc = 0x32 || opc = 0x6B then 7
  else if 0x20 ≤ opc && opc ≤ 0x25 then 3
  else if 0x26 ≤ opc && opc ≤ 0x2F then 1
  else if opc = 0x30 then (if imm then 1 else 3)
  else if opc = 0x31 || opc = 0x33 || opc = 0x34 then 3
  else if 0x35 ≤ opc && opc ≤ 0x39 then 1
  else if opc = 0x3A then (if imm then 1 else 3)
  else if opc = 0x3C then (if flags ≥ 2 then 1 else 3)
  else if opc = 0x3B || opc = 0x3D then 1
  else if opc = 0x40 || opc = 0x48 then 3
  else if 0x41 ≤ opc && opc ≤ 0x47 then 1
  else if opc = 0x50 || opc = 0x52 then 1
  else if opc = 0x51 || opc = 0x53 || opc = 0x60 then 3
  else if opc = 0x62 || opc = 0x64 then 1
  else if 0x68 ≤ opc && opc ≤ 0x6A then 1
  else 0

/-- Whether an instruction is absent for its operands and its guard (R288). -/
def isAbsent (f : Firing) (i reads : Nat) (pred : BitVec 2) : Bool :=
  let gone (k : Nat) : Bool := opSlot f i k == some none || opSlot f i k == none
  let p := match opSlot f i 3 with
    | some (some v) => v.data.getLsbD 0
    | _ => false
  (pred == 1 && (gone 3 || !p)) || (pred == 2 && (gone 3 || p))
    || (List.range 3).any fun k => reads.testBit k && gone k

/-- A fault after an instruction's own effect leaves its access to memory as performed (R290). -/
def afterAccess (s : State) (r : Except Stop State) : Except Stop State :=
  match r with
  | .error (.trap t) => .error (.trapIn s t)
  | r => r

/-- One instruction of the firing of a slot: absent, it gives absent values; else its effect, with the
poison of its operands, goes to its targets (R286, R288). -/
def runInstr (n : NodeRef) (opc : Nat) (eff : Eff) (o : ActorOp) (s : State) : Except Stop State := do
  let f := s.firingAt n
  let i := f.idx
  let reads := slotsRead opc o.flags.toNat
  let (ctx, _) := s.instCtx n.inst
  let next (s : State) (fired : Bool) : State := s.updFiring n fun f =>
    { f with idx := i + 1, waiting := false, last := if fired then some i else f.last }
  let poisonedP := o.pred != 0 && (match opSlot f i 3 with
    | some (some v) => v.poison
    | _ => false)
  if poisonedP then .error (.trap (poisonFault s ctx))
  else if isAbsent f i reads o.pred then do
    let s ← deliverTo s n o.t0 none
    let s ← deliverTo s n o.t1 none
    .ok (next s false)
  else do
    let get (k : Nat) : Val := ((opSlot f i k).getD none).getD (Val.none_ (s.slotAt n).width)
    let taint := (List.range 3).any fun k => reads.testBit k && (get k).poison
    let (r, s) ← eff { n := n, i := i, a := get 0, b := get 1, c := get 2 } o s
    match r with
    | none => .ok (next s true)
    | some v => do
      let v := v.tainted taint
      afterAccess s do
        let s ← deliverTo s n o.t0 (some v)
        let s ← deliverTo s n o.t1 (some v)
        .ok (next s true)

/-! ## Ports and state (R296) -/

/-- The value of an input slot (R285). -/
def tokenVal (x : Slot) (p : Nat) (t : Token) : Val :=
  let w := x.width
  if x.inCtrl p then
    let ok := t.mask.getLsbD 0
    let v := field t.data 0 64
    let d : W512 := if !ok then 0
      else if x.repl p then BitVec.ofNat 512 (ofLanes w (List.replicate (512 / w) v.toNat))
      else v.zeroExtend 512
    { data := d, mask := if ok then fullMask w else 0, width := w, poison := t.poison }
  else
    let m := t.mask &&& fullMask w
    let keep (e : Nat) : Nat := if m.getLsbD e then lane t.data w e else 0
    { data := BitVec.ofNat 512 (ofLanes w ((List.range (512 / w)).map keep)), mask := m, width := w
      poison := t.poison }

/-- PEEK: in a close firing, 0 with no valid lane. -/
def effPeek : Eff := fun x o s =>
  let sl := s.slotAt x.n
  if (s.firingAt x.n).close then .ok (some (Val.none_ sl.width), s)
  else .ok (some (tokenVal sl o.ab ((sl.port o.ab).at o.im)), s)
/-- ADV. -/
def effAdv : Eff := fun x o s =>
  if (s.firingAt x.n).close then .ok (none, s) else .ok (none, addPend s x.n o.ab o.im)
/-- PUT. -/
def effPut : Eff := fun x o s =>
  if o.im < (s.slotAt x.n).rateOut (s.firingAt x.n).close (o.ab - 4) then
    .ok (none, stage s x.n (o.ab - 4) o.im x.a)
  else rate
/-- PADV. -/
def effPadv : Eff := fun x o s =>
  if pendAt s x.n o.ab + o.im ≤ (s.slotAt x.n).rateOut (s.firingAt x.n).close (o.ab - 4) then
    .ok (none, addPend s x.n o.ab o.im)
  else rate
/-- A held register's value. -/
def heldVal (w : Nat) (h : Held) : Val :=
  { data := h.val, mask := fullMask w, width := w, poison := h.poison }
/-- HRD. -/
def effHrd : Eff := fun x o s =>
  .ok (some (heldVal (s.slotAt x.n).width (heldOf (s.slotAt x.n).h o.ab)), s)
/-- HWR: invalid lanes are stored as 0. -/
def effHwr : Eff := fun x o s =>
  .ok (none, s.updFiring x.n fun f => { f with hw := mset f.hw o.ab ⟨x.a.data, x.a.poison⟩ })
/-- QRD. -/
def effQrd : Eff := fun x o s =>
  .ok (some (heldVal (s.slotAt x.n).width (heldOf (s.slotAt x.n).q o.ab)), s)
/-- QWR. -/
def effQwr : Eff := fun x o s =>
  .ok (none, s.updFiring x.n fun f => { f with qw := mset f.qw o.ab ⟨x.a.low.zeroExtend 512, x.a.poison⟩ })
/-- CONST. -/
def effConst : Eff := pure_ fun _ o => constVal o.t o.imm
/-- CONSTH. -/
def effConsth : Eff := pure_ fun x o => map1 32 (fun v => o.im * 65536 + v % 65536) x.a
/-- LANEID. -/
def effLaneid : Eff := pure_ fun _ o => Val.ofList o.w ((List.range (512 / o.w)).map some)
/-- TAGRD: in a close firing, the marker's tag. -/
def effTagrd : Eff := fun x o s =>
  let sl := s.slotAt x.n
  let f := s.firingAt x.n
  let t := if f.close then f.tag else ((sl.port o.ab).at o.im).tag
  .ok (some (Val.scalar sl.width t), s)
/-- TAGRD.pred.kind. -/
def effTagrdKind : Eff := fun x _ s =>
  .ok (some (Val.scalarPred (s.slotAt x.n).width (s.firingAt x.n).close), s)
/-- MASKRD: every lane valid. -/
def effMaskrd : Eff := pure_ fun x _ =>
  { data := x.a.mask.zeroExtend 512, mask := fullMask x.a.width, width := x.a.width, pred := true }
/-- MASKSET: lanes made invalid become 0; A's own invalid lanes hold 0 and may be made valid. -/
def effMaskset : Eff := pure_ fun x _ =>
  let w := x.a.width
  let m := (x.b.to w).low &&& fullMask w
  let keep (e : Nat) : Nat := if m.getLsbD e then lane x.a.data w e else 0
  { x.a with
    data := if x.a.pred then x.a.data &&& m.zeroExtend 512
      else BitVec.ofNat 512 (ofLanes w ((List.range (512 / w)).map keep))
    mask := m }

/-! ## Integer (R297) -/

/-- IADD. -/
def effIadd : Eff := effI2 fun t => intOp t (· + ·)
/-- ISUB. -/
def effIsub : Eff := effI2 fun t => intOp t (· - ·)
/-- IMUL. -/
def effImul : Eff := effI2 fun t => intOp t (· * ·)
/-- IMULH. -/
def effImulh : Eff := effI2 fun t => intOp t fun x y => x * y / 2 ^ etyWidth t
/-- IAND. -/
def effIand : Eff := effI2 fun _ x y => x &&& y
/-- IOR. -/
def effIor : Eff := effI2 fun _ x y => x ||| y
/-- IXOR. -/
def effIxor : Eff := effI2 fun _ x y => x ^^^ y
/-- ISHL. -/
def effIshl : Eff := effI2 fun t => shlOp (etyWidth t)
/-- ISHR. -/
def effIshr : Eff := effI2 fun t => shrOp (etyWidth t)
/-- ISAR. -/
def effIsar : Eff := effI2 fun t => sarOp (etyWidth t)
/-- IMIN. -/
def effImin : Eff := effI2 fun t => intOp t fun x y => if x ≤ y then x else y
/-- IMAX. -/
def effImax : Eff := effI2 fun t => intOp t fun x y => if x ≤ y then y else x
/-- IABS: the most negative value stays itself. -/
def effIabs : Eff := effI1 fun t x => wrapN (etyWidth t) (asInt (etySigned t) (etyWidth t) x).natAbs
/-- INEG. -/
def effIneg : Eff := effI1 fun t x => wrapN (etyWidth t) (-(x : Int))
/-- ISATADD. -/
def effIsatadd : Eff := effI2 fun t => satOp t (· + ·)
/-- ISATSUB. -/
def effIsatsub : Eff := effI2 fun t => satOp t (· - ·)

/-! ## Floating point (R298) -/

/-- FADD. -/
def effFadd : Eff := effF2 fun m => Num.addM (m == 3)
/-- FSUB. -/
def effFsub : Eff := effF2 fun m x y => Num.addM (m == 3) x y.neg
/-- FMUL. -/
def effFmul : Eff := effF2 fun _ => Num.mul
/-- FFMA: one rounding. -/
def effFfma : Eff := pure_ fun x o =>
  map3 o.w (fl3 o.t o.m fun a b c => Num.addM (o.m == 3) (Num.mul a b) c) x.a x.b x.c
/-- FMIN. -/
def effFmin : Eff := effF2 fun _ => numMin
/-- FMAX. -/
def effFmax : Eff := effF2 fun _ => numMax
/-- FABS. -/
def effFabs : Eff := effF1 Num.abs
/-- FNEG. -/
def effFneg : Eff := effF1 Num.neg
/-- FRCP. -/
def effFrcp : Eff := effF1 frcp
/-- FRSQ. -/
def effFrsq : Eff := effF1 frsq
/-- FEXP2. -/
def effFexp2 : Eff := effF1 fexp2
/-- FLOG2. -/
def effFlog2 : Eff := effF1 flog2
/-- FTANH. -/
def effFtanh : Eff := effF1 ftanh
/-- FSINPI. -/
def effFsinpi : Eff := effF1 fsinpi
/-- FCOSPI. -/
def effFcospi : Eff := effF1 fcospi
/-- FRND, by flags. -/
def effFrnd : Eff := pure_ fun x o => map1 o.w (fl1 o.t 0 (numRnd o.flags.toNat)) x.a

/-! ## Compare and select (R299) -/

/-- ICMP. -/
def effIcmp : Eff := pure_ fun x o => cmpVal o.t o.ab x.a (bOrImm x o)
/-- FCMP. -/
def effFcmp : Eff := pure_ fun x o => cmpVal o.t o.ab x.a x.b
/-- SEL. -/
def effSel : Eff := pure_ fun x o =>
  if o.t = 7 then
    let w := x.a.width
    let ab := (x.a.preds w).zip (x.b.preds w)
    Val.ofPreds w (ab.zipWith (fun p z => do let z ← z; if z then p.1 else p.2) (x.c.preds w))
  else selVal o.w x.a x.b x.c
/-- PAND. -/
def effPand : Eff := pure_ fun x _ => pred2 and x.a x.b
/-- POR. -/
def effPor : Eff := pure_ fun x _ => pred2 or x.a x.b
/-- PNOT. -/
def effPnot : Eff := pure_ fun x _ => Val.ofPreds x.a.width ((x.a.preds x.a.width).map (·.map not))
/-- ANYL. -/
def effAnyl : Eff := pure_ fun x _ => anyVal x.a
/-- ALLL. -/
def effAlll : Eff := pure_ fun x _ => allVal x.a

/-! ## Conversions (R300) -/

/-- CVTFI. -/
def effCvtfi : Eff := pure_ fun x o => map1 32 (cvtfi o.m) x.a
/-- CVTIF. -/
def effCvtif : Eff := pure_ fun x o => map1 32 (cvtif o.m) x.a
/-- Two halves, the upper one absent with flag ONE. -/
def halves (w : Nat) (one : Bool) (f : Nat → Nat) (a b : Val) : Val :=
  let n := 512 / w / 2
  let lo := ((a.lanes (2 * w)).take n).map (·.map f)
  let hi := if one then List.replicate n none else ((b.lanes (2 * w)).take n).map (·.map f)
  Val.ofList w (lo ++ hi)
/-- CVTFB. -/
def effCvtfb : Eff := pure_ fun x o => halves 16 o.f0 (cvtfb o.m) x.a x.b
/-- CVTBF. -/
def effCvtbf : Eff := pure_ fun x o =>
  Val.ofList 32 ((((x.a.lanes 16).drop (if o.f0 then 16 else 0)).take 16).map (·.map cvtbf))
/-- PACK. -/
def effPack : Eff := pure_ fun x o => halves o.w o.f1 (packLane o.t o.f0) x.a x.b
/-- UNPACK. -/
def effUnpack : Eff := pure_ fun x o =>
  let n := 512 / o.w
  Val.ofList o.w ((((x.a.lanes (o.w / 2)).drop (if o.f0 then n else 0)).take n).map
    (·.map (unpackLane o.t o.f1)))

/-! ## Lanes (R301) -/

/-- SHUF. -/
def effShuf : Eff := pure_ fun x o => shufVal o.w x.a x.b
/-- BCAST. -/
def effBcast : Eff := pure_ fun x o =>
  let n := 512 / o.w
  Val.ofList o.w (List.replicate n ((x.a.lanes o.w).getD (o.im % n) none))
/-- ROTL. -/
def effRotl : Eff := pure_ fun x o => rotVal o.w o.im x.a
/-- RSUM. -/
def effRsum : Eff := pure_ fun x o => reduceVal o.t o.m 0 x.a
/-- RMAX. -/
def effRmax : Eff := pure_ fun x o => reduceVal o.t 0 1 x.a
/-- RMIN. -/
def effRmin : Eff := pure_ fun x o => reduceVal o.t 0 2 x.a
/-- SCAN. -/
def effScan : Eff := pure_ fun x o =>
  Val.ofList o.w (scanGo o.t o.m o.flags.toNat none (x.a.lanes o.w))
/-- COMPACT. -/
def effCompact : Eff := pure_ fun x o => compactVal o.w x.a
/-- EXPAND. -/
def effExpand : Eff := pure_ fun x o => Val.ofList o.w (expandGo (x.b.preds o.w) (x.a.lanes o.w))

/-! ## Scratchpad (R302) -/

/-- The capability of a slot's SCN, or CAP_TAG. -/
def slotCap (s : State) (n : NodeRef) : Except Stop Cap :=
  let w := (s.cellAt n).word (16 * n.sub + 3)
  let i := natField w.toNat 0 7
  let pc := s.cellAt { n with cell := portCell, sub := 0 }
  if !w.getLsbD 7 then raise .capTag
  else .ok ⟨(pc.word (65 + 2 * i)) ++ (pc.word (64 + 2 * i)), pc.ctags.contains i⟩

/-- A load's fault gives a poisoned result and enters the poison record (R33, R302). -/
def poisonLoad (s : State) (n : NodeRef) (w : Nat) (t : Trap) : Option Val × State :=
  let (ctx, _) := s.instCtx n.inst
  let s := recordPoison s ctx t
  (some { (Val.scalar w (Config.freeValue s.freeCtr)) with poison := true },
    { s with freeCtr := s.freeCtr + 1 })

/-- What a load makes of a stop: a fault poisons its result, a wait is passed on. -/
def orPoison (s : State) (x : Fx) (r : Except Stop (Option Val × State)) :
    Except Stop (Option Val × State) :=
  match r with
  | .error (.trap t) => .ok (poisonLoad s x.n (s.slotAt x.n).width t)
  | .error (.trapIn s t) => .ok (poisonLoad s x.n (s.slotAt x.n).width t)
  | r => r

/-- What a store makes of a stop: the access is not made, the fault is recorded, and the firing goes
on. -/
def orRecord (s : State) (x : Fx) (r : Except Stop State) : Except Stop (Option Val × State) :=
  match r with
  | .ok s => .ok (none, s)
  | .error (.trap t) => .ok (none, nodeFault (recordPoison s (s.instCtx x.n.inst).1 t) x.n t)
  | .error (.trapIn s t) => .ok (none, nodeFault (recordPoison s (s.instCtx x.n.inst).1 t) x.n t)
  | .error e => .error e

/-- The place of an actor's access, once the slot's own earlier updates of the words have been performed (R158). -/
def slotPlaceOf (s : State) (n : NodeRef) (k : Cap) (off : Int) (z : Nat) (cl : AClass) (need : Nat) :
    Except Stop Loc := do
  let l ← access s (s.nodeAcx n) k off z z cl need
  match l with
  | .phys a => if windowHolds s (.node n) (a / 8 * 8) (Nat.max z 8) then await .memory else .ok l
  | _ => .ok l

/-- SPLD. -/
def effSpld : Eff := fun x o s =>
  let w := (s.slotAt x.n).width
  if !x.a.lowValid 32 then .ok (some (Val.none_ w), s)
  else orPoison s x (do
    let k ← slotCap s x.n
    let off := natField x.a.low.toNat 0 32 + 64 * o.im
    let l ← slotPlaceOf s x.n k (k.offset + off) 64 clLoad rR
    let (bs, s) ← loadLoc s (s.nodeAcx x.n) l 64
    let v : Val := { data := BitVec.ofNat 512 (leNat bs), mask := fullMask w, width := w }
    .ok (some v, s))

/-- Writes of the bytes that a mask of 64 selects, run by run. -/
def writeMasked (s : State) (x : Acx) (l : Loc) (on : List Bool) (bs : List Byte)
    (full : Bool := false) : Except Stop State :=
  match l with
  | .phys a => .ok ((runs 0 (on.zip bs) []).foldl (fun s r => storePhys s x.vf (a + r.1) r.2 full) s)
  | .win h c o => .ok ((runs 0 (on.zip bs) []).foldl (fun s r => writeWin s h c (o + r.1) r.2) s)
  | .peer a ea m =>
    let rs := runs 0 (on.zip bs) []
    .ok (rs.zipIdx.foldl (fun s (r, i) =>
      sendPeer s x (a + r.1) (ea + r.1) m (.store r.2) (decide (i + 1 < rs.length))) s)
  | l => (runs 0 (on.zip bs) []).foldlM (fun s r => storeLoc s x (shift l r.1) r.2) s
where
  /-- The runs of selected bytes, as start and bytes; the last argument is the open run. -/
  runs (i : Nat) : List (Bool × Byte) → List Byte → List (Nat × List Byte)
    | [], [] => []
    | [], cur => [(i - cur.length, cur)]
    | (true, b) :: l, cur => runs (i + 1) l (cur ++ [b])
    | (false, _) :: l, [] => runs (i + 1) l []
    | (false, _) :: l, cur => (i - cur.length, cur) :: runs (i + 1) l []
  /-- A place some bytes further on. -/
  shift (l : Loc) (k : Nat) : Loc :=
    match l with
    | .phys a => .phys (a + k)
    | .win h c o => .win h c (o + k)
    | .acc h c o => .acc h c (o + k)
    | .ctl h o => .ctl h (o + k)
    | .mmio o => .mmio (o + k)
    | l => l

/-- The byte mask of a value's valid lanes. -/
def byteMask (m : W64) (w : Nat) : List Bool := (List.range 64).map fun i => m.getLsbD (i * 8 / w)

/-- A poisoned operand at a store ends the firing with the poison record's fault (R286). -/
def storePoison (s : State) (x : Fx) : Except Stop Unit :=
  if x.a.poison || x.b.poison then .error (.trap (poisonFault s (s.instCtx x.n.inst).1)) else .ok ()

/-- SPST. -/
def effSpst : Eff := fun x o s => do
  storePoison s x
  if !x.b.lowValid 32 then .ok (none, s)
  else orRecord s x (do
    let k ← slotCap s x.n
    let off := natField x.b.low.toNat 0 32 + 64 * o.im
    let cx := s.nodeAcx x.n
    let l ← slotPlaceOf s x.n k (k.offset + off) 64 clStore rW
    let s ← writeMasked s cx l (byteMask x.a.mask x.a.width) (leBytes 64 x.a.data.toNat)
    .ok (if notIdempotent k.space then markDirty s (s.instLaunch x.n.inst) else s))

/-- SPLDSYN: while the word is empty the firing waits (R143, R294). -/
def effSpldsyn : Eff := fun x o s =>
  let w := (s.slotAt x.n).width
  if !x.a.lowValid 32 then .ok (some (Val.none_ w), s)
  else orPoison s x (do
    let k ← slotCap s x.n
    let off := natField x.a.low.toNat 0 32 + 8 * o.im
    let cx := s.nodeAcx x.n
    let l ← slotPlaceOf s x.n k (k.offset + off) 8 clSyncLoad rR
    match l with
    | .phys a => do
      let (v, s) ← syncRead s cx a o.f0
      .ok (some (Val.scalar w v), s)
    | _ => raise .feSpace)

/-- SPRED. -/
def effSpred : Eff := fun x o s => do
  storePoison s x
  let op := o.ab
  let n := redSize op
  if !x.b.lowValid 32 then .ok (none, s)
  else orRecord s x (do
    let k ← slotCap s x.n
    let off := natField x.b.low.toNat 0 32 + n * o.im
    let cx := s.nodeAcx x.n
    let l ← access s cx k (k.offset + off) n n clReduce rA
    let launch := s.instLaunch x.n.inst
    let s ← sendUpd s l { src := cx.who, ctx := cx.ctx, vf := cx.vf, launch := launch, op := op
                          val := if n = 4 then x.a.low &&& 0xFFFFFFFF else x.a.low }
    .ok (markDirty s launch))

/-! ## Tensor descriptors (R303) -/

/-- TIDLD: the descriptor taken at the firing's beginning. -/
def effTidld : Eff := fun x o s =>
  let d := (mget (s.firingAt x.n).descs o.ab).getD Desc.raw
  .ok (some (Val.scalar (s.slotAt x.n).width (BitVec.ofNat 64 (d.fld (8 * o.im) 8))), s)

/-! ## Tokens and calls (R304) -/

/-- What a target of EMITCTL gets: R295 lets it have targets and R304 names no value, so a free one (log 60). -/
def freeVal (s : State) (w : Nat) : Val × State :=
  let (v, s) := s.freeBits 512
  ({ data := BitVec.ofNat 512 v, mask := fullMask w, width := w }, s)

/-- EMITCTL. -/
def effEmitctl : Eff := fun x o s => do
  let s ← publish s x.n (o.ab - 4) (x.a.tainted x.b.poison) (some x.b.low)
  if o.t0 = 0 && o.t1 = 0 then .ok (none, s)
  else
    let (v, s) := freeVal s (s.slotAt x.n).width
    .ok (some v, s)

/-- The kind of a marker by code and level. -/
def markKind (code level : Nat) : TokKind :=
  match code with
  | 2 => .eod level | 3 => .eor | 4 => .eos | 5 => .pmk (level != 0) | 1 => .control | _ => .data

/-- MARK. -/
def effMark : Eff := fun x o s =>
  let p := o.ab - 4
  let t : Token := { kind := markKind (o.im % 8) (natField o.im 3 2) }
  .ok (none, s.updFiring x.n fun f => { f with marks := f.marks ++ [(p, mgetD f.pend (4 + p) 0, t)] })

/-- FAULT. -/
def effFault : Eff := fun x o _ =>
  .error (.trap { code := .user, sel := BitVec.ofNat 12 o.im, addr := x.a.low })

/-- The live graph of a handle of a launch. -/
def liveGraph (s : State) (launch handle : Nat) : Option Graph :=
  (s.insts.find? fun (_, x) => x.launch == launch && x.kind == .base && x.graph.handle == handle).map
    (·.2.graph)

/-- Whether a side callee of an entry is still placed or waits for placement (R38). -/
def sidePending (s : State) (n : NodeRef) (e : Nat) : Bool :=
  s.insts.any (fun x => x.2.kind == .side n e) || s.sides.any fun x => x.2.node == n && x.2.entry == e

/-- CALLREQ: the request is noted and made at the firing's end. -/
def effCallreq : Eff := fun x o s =>
  let e := o.im % 8
  let w := (s.cellAt x.n).word (16 * x.n.sub + 4 + e)
  let h := natField w.toNat 0 8
  if sidePending s x.n e then .ok (none, s)
  else if !w.getLsbD 63 || (liveGraph s (s.instLaunch x.n.inst) h).isNone then cfgReject 11
  else .ok (none, s.updFiring x.n fun f => { f with calls := f.calls ++ [e] })

/-- EVT of an actor (R304, R205). -/
def effActorEvt : Eff := fun x o s =>
  let (_, vf) := s.instCtx x.n.inst
  let launch := s.instLaunch x.n.inst
  let pay := leBytes 4 (s.slotAt x.n).blockId ++ [BitVec.ofNat 8 x.i, 0] ++ leBytes 2 o.im
    ++ leBytes 8 x.a.low.toNat
  let s := crierAt s launch 0x11 (s.nodeHam x.n) x.n.cell x.n.sub pay
  .ok (none, (s.count vf 0x090).count vf 0x0A0)

/-! ## Video (R305) -/

/-- MVSPLIT. -/
def effMvsplit : Eff := pure_ fun x o => map1 32 (mvsplit o.f0 o.f1) x.a
/-- QPSCALE. -/
def effQpscale : Eff := pure_ fun x _ => map1 32 qpscaleLane x.a
/-- ZIGZAG. -/
def effZigzag : Eff := pure_ fun x o => zigzagVal o.w o.f0 x.a
/-- ERRACC, with the c-table taken at the firing's beginning. -/
def effErracc : Eff := fun x o s =>
  let t := (s.firingAt x.n).ctab
  .ok (some (map3 32 (erracc fun i => (mget t (132 * o.ab + i)).getD 0) x.a x.b x.c), s)

end Sys2Proof.Machine
end

