-- ==== Sys2Proof/Machine/Actors.lean ====
section
/-! DEFINITION. Firings (R287 to R294): how one begins, runs and ends; the marker step; the window writes;
and one meaning for each actor instruction as the next instruction of a firing (log 9). -/

namespace Sys2Proof.Machine

/-! ## Beginning and ending -/

/-- The TIDs that a block's instructions of an opcode name. -/
def Slot.tidsOf (x : Slot) (opc : Nat) : List Nat :=
  (x.code.filter fun w => (field w 56 8).toNat == opc).map fun w => (field w 0 8).toNat

/-- Begins a firing of a kind: the descriptors and c-tables it names are taken (R193, R202, R303,
R305). -/
def beginFiring (s : State) (n : NodeRef) (close : Bool) (tag : W64) : State :=
  let x := s.slotAt n
  let (ctx, vf) := s.instCtx n.inst
  let take : Except Stop (SMap Desc) :=
    (x.tidsOf 0x58 ++ x.tidsOf 0x6B).foldlM (fun m t => do
      let d ← takeDesc s ctx t
      .ok (mset m t d)) []
  let ctabs (m : SMap Desc) : Except Stop (SMap W32) :=
    (x.tidsOf 0x6B).foldlM (fun c t => do
      let l ← takeCtab s vf t ((mget m t).getD Desc.raw).ctab
      .ok (l.foldl (fun c e => mset c e.1 e.2) c)) []
  let both : Except Stop (SMap Desc × SMap W32) := do
    let m ← take
    let c ← ctabs m
    .ok (m, c)
  match both with
  | .ok (m, c) =>
    s.updSlot n fun x => { x with firing := some { close := close, tag := tag, descs := m, ctab := c } }
  | .error (.trap t) => haltSlot s n t
  | .error _ => s

/-- The tag of a data firing: that of the oldest token of the lowest used input (R287). -/
def firingTag (x : Slot) : W64 :=
  match x.usedIn with
  | p :: _ => ((x.port p).at 0).tag
  | [] => 0

/-- Removes a marker from every used input and sends a copy on every used output (R291). -/
def passMarkers (s : State) (n : NodeRef) (m : Token) : State :=
  let f (x : Slot) : Slot :=
    let x1 := x.usedIn.foldl (fun y p =>
      let a := (y.port p).adv 1
      y.setPort p { a with eos := a.eos || m.kind == .eos }) x
    let x2 := x.usedOut.foldl (fun y p =>
      y.setPort (4 + p) (((y.port (4 + p)).put { kind := m.kind, tag := m.tag }).sent false m.kind)) x1
    match m.kind with
    | .eor => { x2 with roundOpen := false }
    | .eos => { x2 with roundOpen := false, done := true }
    | _ => x2
  let f (x : Slot) : Slot := { f x with ready := false, waited := 0 }.noteReady s.cycle
  markActive (s.updSlot n f) n.inst

/-- Requests the side calls of a firing that has committed (R38, R304). -/
def requestCalls (s : State) (n : NodeRef) (f : Firing) : State :=
  f.calls.foldl (fun s e =>
    if sidePending s n e then s
    else
      let w := (s.cellAt n).word (16 * n.sub + 4 + e)
      let q : SideReq := { node := n, entry := e, handle := natField w.toNat 0 8 }
      { s with nextId := s.nextId + 1, sides := mset s.sides s.nextId q }) s

/-- How many EORs of a source's firing stand before each round that it opens on an output port, by the order of the block's
instructions. -/
def Slot.opens (x : Slot) (p : Nat) : List Nat :=
  (x.code.foldl (fun (l, j) w =>
    let opc := (field w 56 8).toNat
    let k := (field w 16 3).toNat
    if (field w 0 8).toNat != 4 + p then (l, j)
    else if opc == 0x61 && k == 3 then (l ++ [j], j + 1)
    else if opc == 0x04 || opc == 0x60 || (opc == 0x61 && k == 2) then (l ++ [j], j)
    else (l, j)) (([], 0) : List Nat × Nat)).1.dedup

/-- Whether a source slot may not yet open a round of its next firing (R25, R385). -/
def slotHeld (s : State) (n : NodeRef) (x : Slot) : Bool :=
  x.usedOut.any fun p =>
    let a := x.port (4 + p)
    (x.opens p).any fun j =>
      if j = 0 then a.idx == 0 && (if x.midRound then roundFar s n a.round else roundHeld s n a.round)
      else roundFar s n ((a.round + j) % 4096)

/-- Whether a slot can take its turn: it is ready, a source may go on and open its rounds, and every access of its last
firing has been performed (R158). -/
def mayTurn (s : State) (n : NodeRef) (x : Slot) : Bool :=
  slotReady x && allPerformed s (.node n) && (!x.source || (s.sourceMay n x.midRound && !slotHeld s n x))

/-- The order in which the ready slots of a cell fire (R49, R374): one that has waited 64 firings, then the one that has
been ready longest, then the weightier, then the lower stage id and slot. -/
def slotBefore (now : W64) (a b : Nat × Slot) : Bool :=
  let since (x : Slot) : Nat := (if x.ready then x.readyAt else now).toNat
  if (64 ≤ a.2.waited) != (64 ≤ b.2.waited) then 64 ≤ a.2.waited
  else if since a.2 != since b.2 then since a.2 < since b.2
  else if a.2.weight != b.2.weight then b.2.weight < a.2.weight
  else if a.2.hf 80 8 != b.2.hf 80 8 then a.2.hf 80 8 < b.2.hf 80 8
  else a.1 ≤ b.1

/-- Whether a slot fires before every other slot of its cell that can take its turn. -/
def slotFirst (s : State) (n : NodeRef) : Bool :=
  let c := s.cellAt n
  c.slots.all fun y =>
    y.1 == n.sub || !mayTurn s { n with sub := y.1 } y.2 || slotBefore s.cycle (n.sub, c.slot n.sub) y

/-- Counts a firing against the other ready slots of the cell (R374). -/
def bumpWaited (s : State) (n : NodeRef) : State :=
  let c := s.cellAt n
  s.setCellAt n { c with slots := c.slots.map fun (a, x) =>
    (a, if a != n.sub && mayTurn s { n with sub := a } x then { x with waited := x.waited + 1 } else x) }

/-- Ends a firing whose instructions have all run; a close firing's marker is then passed. -/
def endFiring (s : State) (n : NodeRef) : State :=
  let f := s.firingAt n
  let marker := match headMarkers (s.slotAt n) with
    | some (m :: _) => some m
    | _ => none
  let s := commitFiring s n
  if (s.slotAt n).halted then s
  else
    let s := bumpWaited (requestCalls s n f) n
    let s := match f.close, marker with
      | true, some m => passMarkers s n m
      | _, _ => s
    checkSlot s n

/-- Runs one instruction of a firing.  A fault ends the firing and halts the slot; a wait stays in
it. -/
def stepFiring (n : NodeRef) (opc : Nat) (eff : Eff) (o : ActorOp) (s : State) : State :=
  match runInstr n opc eff o s with
  | .ok s =>
    let s := release s (.node n)
    if (s.firingAt n).idx ≥ (s.slotAt n).size then endFiring s n else s
  | .error (.trap t) => haltSlot (release s (.node n)) n t
  | .error (.trapIn s t) => haltSlot (release s (.node n)) n t
  | .error (.wait _ rq) => (register s rq).updFiring n fun f => { f with waiting := true }
  | .error (.keep s _) => s.updFiring n fun f => { f with waiting := true }

/-- Whether a slot may begin a data firing now. -/
def mayFire (s : State) (n : NodeRef) : Bool :=
  let x := s.slotAt n
  s.nodeLive n && dataReady x && mayTurn s n x && slotFirst s n

/-- An actor instruction as the next instruction of the focused slot's firing, which it begins where
the slot is ready (log 9). -/
def actorWord (opc : Nat) (eff : Eff) (o : ActorOp) (s : State) : Host.Outcome State Fault Refusal :=
  match s.focus with
  | none => .next s
  | some n =>
    if !s.firingLive n.inst || (s.cellAt n).kind != .actor then .next s
    else if (s.slotAt n).firing.isSome then .next (stepFiring n opc eff o s)
    else if mayFire s n then
      let s := beginFiring s n false (firingTag (s.slotAt n))
      .next (if (s.slotAt n).firing.isSome then stepFiring n opc eff o s else s)
    else .next s

/-! ## The meanings -/

/-- PEEK of an actor. -/
def execPeek (o : ActorOp) (s : State) : Host.Outcome State Fault Refusal :=
  actorWord 0x01 effPeek o s
/-- ADV of an actor. -/
def execAdv (o : ActorOp) (s : State) : Host.Outcome State Fault Refusal :=
  actorWord 0x02 effAdv o s
/-- PUT of an actor. -/
def execPut (o : ActorOp) (s : State) : Host.Outcome State Fault Refusal :=
  actorWord 0x03 effPut o s
/-- PADV of an actor. -/
def execPadv (o : ActorOp) (s : State) : Host.Outcome State Fault Refusal :=
  actorWord 0x04 effPadv o s
/-- HRD of an actor. -/
def execHrd (o : ActorOp) (s : State) : Host.Outcome State Fault Refusal :=
  actorWord 0x05 effHrd o s
/-- HWR of an actor. -/
def execHwr (o : ActorOp) (s : State) : Host.Outcome State Fault Refusal :=
  actorWord 0x06 effHwr o s
/-- QRD of an actor. -/
def execQrd (o : ActorOp) (s : State) : Host.Outcome State Fault Refusal :=
  actorWord 0x07 effQrd o s
/-- QWR of an actor. -/
def execQwr (o : ActorOp) (s : State) : Host.Outcome State Fault Refusal :=
  actorWord 0x08 effQwr o s
/-- CONST of an actor. -/
def execConst (o : ActorOp) (s : State) : Host.Outcome State Fault Refusal :=
  actorWord 0x09 effConst o s
/-- CONSTH of an actor. -/
def execConsth (o : ActorOp) (s : State) : Host.Outcome State Fault Refusal :=
  actorWord 0x0A effConsth o s
/-- LANEID of an actor. -/
def execLaneid (o : ActorOp) (s : State) : Host.Outcome State Fault Refusal :=
  actorWord 0x0B effLaneid o s
/-- TAGRD of an actor. -/
def execTagrd (o : ActorOp) (s : State) : Host.Outcome State Fault Refusal :=
  actorWord 0x0C effTagrd o s
/-- TAGRD.pred.kind of an actor. -/
def execTagrdKind (o : ActorOp) (s : State) : Host.Outcome State Fault Refusal :=
  actorWord 0x0C effTagrdKind o s
/-- MASKRD of an actor. -/
def execMaskrd (o : ActorOp) (s : State) : Host.Outcome State Fault Refusal :=
  actorWord 0x0D effMaskrd o s
/-- MASKSET of an actor. -/
def execMaskset (o : ActorOp) (s : State) : Host.Outcome State Fault Refusal :=
  actorWord 0x0E effMaskset o s
/-- IADD of an actor. -/
def execIadd (o : ActorOp) (s : State) : Host.Outcome State Fault Refusal :=
  actorWord 0x10 effIadd o s
/-- ISUB of an actor. -/
def execIsub (o : ActorOp) (s : State) : Host.Outcome State Fault Refusal :=
  actorWord 0x11 effIsub o s
/-- IMUL of an actor. -/
def execImul (o : ActorOp) (s : State) : Host.Outcome State Fault Refusal :=
  actorWord 0x12 effImul o s
/-- IMULH of an actor. -/
def execImulh (o : ActorOp) (s : State) : Host.Outcome State Fault Refusal :=
  actorWord 0x13 effImulh o s
/-- IAND of an actor. -/
def execIand (o : ActorOp) (s : State) : Host.Outcome State Fault Refusal :=
  actorWord 0x14 effIand o s
/-- IOR of an actor. -/
def execIor (o : ActorOp) (s : State) : Host.Outcome State Fault Refusal :=
  actorWord 0x15 effIor o s
/-- IXOR of an actor. -/
def execIxor (o : ActorOp) (s : State) : Host.Outcome State Fault Refusal :=
  actorWord 0x16 effIxor o s
/-- ISHL of an actor. -/
def execIshl (o : ActorOp) (s : State) : Host.Outcome State Fault Refusal :=
  actorWord 0x17 effIshl o s
/-- ISHR of an actor. -/
def execIshr (o : ActorOp) (s : State) : Host.Outcome State Fault Refusal :=
  actorWord 0x18 effIshr o s
/-- ISAR of an actor. -/
def execIsar (o : ActorOp) (s : State) : Host.Outcome State Fault Refusal :=
  actorWord 0x19 effIsar o s
/-- IMIN of an actor. -/
def execImin (o : ActorOp) (s : State) : Host.Outcome State Fault Refusal :=
  actorWord 0x1A effImin o s
/-- IMAX of an actor. -/
def execImax (o : ActorOp) (s : State) : Host.Outcome State Fault Refusal :=
  actorWord 0x1B effImax o s
/-- IABS of an actor. -/
def execIabs (o : ActorOp) (s : State) : Host.Outcome State Fault Refusal :=
  actorWord 0x1C effIabs o s
/-- INEG of an actor. -/
def execIneg (o : ActorOp) (s : State) : Host.Outcome State Fault Refusal :=
  actorWord 0x1D effIneg o s
/-- ISATADD of an actor. -/
def execIsatadd (o : ActorOp) (s : State) : Host.Outcome State Fault Refusal :=
  actorWord 0x1E effIsatadd o s
/-- ISATSUB of an actor. -/
def execIsatsub (o : ActorOp) (s : State) : Host.Outcome State Fault Refusal :=
  actorWord 0x1F effIsatsub o s
/-- FADD of an actor. -/
def execFadd (o : ActorOp) (s : State) : Host.Outcome State Fault Refusal :=
  actorWord 0x20 effFadd o s
/-- FSUB of an actor. -/
def execFsub (o : ActorOp) (s : State) : Host.Outcome State Fault Refusal :=
  actorWord 0x21 effFsub o s
/-- FMUL of an actor. -/
def execFmul (o : ActorOp) (s : State) : Host.Outcome State Fault Refusal :=
  actorWord 0x22 effFmul o s
/-- FFMA of an actor. -/
def execFfma (o : ActorOp) (s : State) : Host.Outcome State Fault Refusal :=
  actorWord 0x23 effFfma o s
/-- FMIN of an actor. -/
def execFmin (o : ActorOp) (s : State) : Host.Outcome State Fault Refusal :=
  actorWord 0x24 effFmin o s
/-- FMAX of an actor. -/
def execFmax (o : ActorOp) (s : State) : Host.Outcome State Fault Refusal :=
  actorWord 0x25 effFmax o s
/-- FABS of an actor. -/
def execFabs (o : ActorOp) (s : State) : Host.Outcome State Fault Refusal :=
  actorWord 0x26 effFabs o s
/-- FNEG of an actor. -/
def execFneg (o : ActorOp) (s : State) : Host.Outcome State Fault Refusal :=
  actorWord 0x27 effFneg o s
/-- FRCP of an actor. -/
def execFrcp (o : ActorOp) (s : State) : Host.Outcome State Fault Refusal :=
  actorWord 0x28 effFrcp o s
/-- FRSQ of an actor. -/
def execFrsq (o : ActorOp) (s : State) : Host.Outcome State Fault Refusal :=
  actorWord 0x29 effFrsq o s
/-- FEXP2 of an actor. -/
def execFexp2 (o : ActorOp) (s : State) : Host.Outcome State Fault Refusal :=
  actorWord 0x2A effFexp2 o s
/-- FLOG2 of an actor. -/
def execFlog2 (o : ActorOp) (s : State) : Host.Outcome State Fault Refusal :=
  actorWord 0x2B effFlog2 o s
/-- FTANH of an actor. -/
def execFtanh (o : ActorOp) (s : State) : Host.Outcome State Fault Refusal :=
  actorWord 0x2C effFtanh o s
/-- FSINPI of an actor. -/
def execFsinpi (o : ActorOp) (s : State) : Host.Outcome State Fault Refusal :=
  actorWord 0x2D effFsinpi o s
/-- FCOSPI of an actor. -/
def execFcospi (o : ActorOp) (s : State) : Host.Outcome State Fault Refusal :=
  actorWord 0x2E effFcospi o s
/-- FRND of an actor. -/
def execFrnd (o : ActorOp) (s : State) : Host.Outcome State Fault Refusal :=
  actorWord 0x2F effFrnd o s
/-- ICMP of an actor. -/
def execIcmp (o : ActorOp) (s : State) : Host.Outcome State Fault Refusal :=
  actorWord 0x30 effIcmp o s
/-- FCMP of an actor. -/
def execFcmp (o : ActorOp) (s : State) : Host.Outcome State Fault Refusal :=
  actorWord 0x31 effFcmp o s
/-- SEL of an actor. -/
def execSel (o : ActorOp) (s : State) : Host.Outcome State Fault Refusal :=
  actorWord 0x32 effSel o s
/-- PAND of an actor. -/
def execActorPand (o : ActorOp) (s : State) : Host.Outcome State Fault Refusal :=
  actorWord 0x33 effPand o s
/-- POR of an actor. -/
def execActorPor (o : ActorOp) (s : State) : Host.Outcome State Fault Refusal :=
  actorWord 0x34 effPor o s
/-- PNOT of an actor. -/
def execActorPnot (o : ActorOp) (s : State) : Host.Outcome State Fault Refusal :=
  actorWord 0x35 effPnot o s
/-- ANYL of an actor. -/
def execAnyl (o : ActorOp) (s : State) : Host.Outcome State Fault Refusal :=
  actorWord 0x36 effAnyl o s
/-- ALLL of an actor. -/
def execAlll (o : ActorOp) (s : State) : Host.Outcome State Fault Refusal :=
  actorWord 0x37 effAlll o s
/-- CVTFI of an actor. -/
def execCvtfi (o : ActorOp) (s : State) : Host.Outcome State Fault Refusal :=
  actorWord 0x38 effCvtfi o s
/-- CVTIF of an actor. -/
def execCvtif (o : ActorOp) (s : State) : Host.Outcome State Fault Refusal :=
  actorWord 0x39 effCvtif o s
/-- CVTFB of an actor. -/
def execCvtfb (o : ActorOp) (s : State) : Host.Outcome State Fault Refusal :=
  actorWord 0x3A effCvtfb o s
/-- CVTBF of an actor. -/
def execCvtbf (o : ActorOp) (s : State) : Host.Outcome State Fault Refusal :=
  actorWord 0x3B effCvtbf o s
/-- PACK of an actor. -/
def execPack (o : ActorOp) (s : State) : Host.Outcome State Fault Refusal :=
  actorWord 0x3C effPack o s
/-- UNPACK of an actor. -/
def execUnpack (o : ActorOp) (s : State) : Host.Outcome State Fault Refusal :=
  actorWord 0x3D effUnpack o s
/-- SHUF of an actor. -/
def execShuf (o : ActorOp) (s : State) : Host.Outcome State Fault Refusal :=
  actorWord 0x40 effShuf o s
/-- BCAST of an actor. -/
def execBcast (o : ActorOp) (s : State) : Host.Outcome State Fault Refusal :=
  actorWord 0x41 effBcast o s
/-- ROTL of an actor. -/
def execRotl (o : ActorOp) (s : State) : Host.Outcome State Fault Refusal :=
  actorWord 0x42 effRotl o s
/-- RSUM of an actor. -/
def execRsum (o : ActorOp) (s : State) : Host.Outcome State Fault Refusal :=
  actorWord 0x43 effRsum o s
/-- RMAX of an actor. -/
def execRmax (o : ActorOp) (s : State) : Host.Outcome State Fault Refusal :=
  actorWord 0x44 effRmax o s
/-- RMIN of an actor. -/
def execRmin (o : ActorOp) (s : State) : Host.Outcome State Fault Refusal :=
  actorWord 0x45 effRmin o s
/-- SCAN of an actor. -/
def execScan (o : ActorOp) (s : State) : Host.Outcome State Fault Refusal :=
  actorWord 0x46 effScan o s
/-- COMPACT of an actor. -/
def execCompact (o : ActorOp) (s : State) : Host.Outcome State Fault Refusal :=
  actorWord 0x47 effCompact o s
/-- EXPAND of an actor. -/
def execExpand (o : ActorOp) (s : State) : Host.Outcome State Fault Refusal :=
  actorWord 0x48 effExpand o s
/-- SPLD of an actor. -/
def execSpld (o : ActorOp) (s : State) : Host.Outcome State Fault Refusal :=
  actorWord 0x50 effSpld o s
/-- SPST of an actor. -/
def execSpst (o : ActorOp) (s : State) : Host.Outcome State Fault Refusal :=
  actorWord 0x51 effSpst o s
/-- SPLDSYN of an actor. -/
def execSpldsyn (o : ActorOp) (s : State) : Host.Outcome State Fault Refusal :=
  actorWord 0x52 effSpldsyn o s
/-- SPRED of an actor. -/
def execSpred (o : ActorOp) (s : State) : Host.Outcome State Fault Refusal :=
  actorWord 0x53 effSpred o s
/-- TIDLD of an actor. -/
def execTidld (o : ActorOp) (s : State) : Host.Outcome State Fault Refusal :=
  actorWord 0x58 effTidld o s
/-- EMITCTL of an actor. -/
def execEmitctl (o : ActorOp) (s : State) : Host.Outcome State Fault Refusal :=
  actorWord 0x60 effEmitctl o s
/-- MARK of an actor. -/
def execMark (o : ActorOp) (s : State) : Host.Outcome State Fault Refusal :=
  actorWord 0x61 effMark o s
/-- FAULT of an actor. -/
def execFault (o : ActorOp) (s : State) : Host.Outcome State Fault Refusal :=
  actorWord 0x62 effFault o s
/-- CALLREQ of an actor. -/
def execCallreq (o : ActorOp) (s : State) : Host.Outcome State Fault Refusal :=
  actorWord 0x63 effCallreq o s
/-- EVT of an actor. -/
def execActorEvt (o : ActorOp) (s : State) : Host.Outcome State Fault Refusal :=
  actorWord 0x64 effActorEvt o s
/-- MVSPLIT of an actor. -/
def execMvsplit (o : ActorOp) (s : State) : Host.Outcome State Fault Refusal :=
  actorWord 0x68 effMvsplit o s
/-- QPSCALE of an actor. -/
def execQpscale (o : ActorOp) (s : State) : Host.Outcome State Fault Refusal :=
  actorWord 0x69 effQpscale o s
/-- ZIGZAG of an actor. -/
def execZigzag (o : ActorOp) (s : State) : Host.Outcome State Fault Refusal :=
  actorWord 0x6A effZigzag o s
/-- ERRACC of an actor. -/
def execErracc (o : ActorOp) (s : State) : Host.Outcome State Fault Refusal :=
  actorWord 0x6B effErracc o s

/-! ## Whole firings -/

/-- Opcode, effect and fields of an actor instruction. -/
def actorEff : Instr → Option (Nat × Eff × ActorOp)
  | .peek o => some (0x01, effPeek, o)
  | .adv o => some (0x02, effAdv, o)
  | .put o => some (0x03, effPut, o)
  | .padv o => some (0x04, effPadv, o)
  | .hrd o => some (0x05, effHrd, o)
  | .hwr o => some (0x06, effHwr, o)
  | .qrd o => some (0x07, effQrd, o)
  | .qwr o => some (0x08, effQwr, o)
  | .const o => some (0x09, effConst, o)
  | .consth o => some (0x0A, effConsth, o)
  | .laneid o => some (0x0B, effLaneid, o)
  | .tagrd o => some (0x0C, effTagrd, o)
  | .tagrdKind o => some (0x0C, effTagrdKind, o)
  | .maskrd o => some (0x0D, effMaskrd, o)
  | .maskset o => some (0x0E, effMaskset, o)
  | .iadd o => some (0x10, effIadd, o)
  | .isub o => some (0x11, effIsub, o)
  | .imul o => some (0x12, effImul, o)
  | .imulh o => some (0x13, effImulh, o)
  | .iand o => some (0x14, effIand, o)
  | .ior o => some (0x15, effIor, o)
  | .ixor o => some (0x16, effIxor, o)
  | .ishl o => some (0x17, effIshl, o)
  | .ishr o => some (0x18, effIshr, o)
  | .isar o => some (0x19, effIsar, o)
  | .imin o => some (0x1A, effImin, o)
  | .imax o => some (0x1B, effImax, o)
  | .iabs o => some (0x1C, effIabs, o)
  | .ineg o => some (0x1D, effIneg, o)
  | .isatadd o => some (0x1E, effIsatadd, o)
  | .isatsub o => some (0x1F, effIsatsub, o)
  | .fadd o => some (0x20, effFadd, o)
  | .fsub o => some (0x21, effFsub, o)
  | .fmul o => some (0x22, effFmul, o)
  | .ffma o => some (0x23, effFfma, o)
  | .fmin o => some (0x24, effFmin, o)
  | .fmax o => some (0x25, effFmax, o)
  | .fabs o => some (0x26, effFabs, o)
  | .fneg o => some (0x27, effFneg, o)
  | .frcp o => some (0x28, effFrcp, o)
  | .frsq o => some (0x29, effFrsq, o)
  | .fexp2 o => some (0x2A, effFexp2, o)
  | .flog2 o => some (0x2B, effFlog2, o)
  | .ftanh o => some (0x2C, effFtanh, o)
  | .fsinpi o => some (0x2D, effFsinpi, o)
  | .fcospi o => some (0x2E, effFcospi, o)
  | .frnd o => some (0x2F, effFrnd, o)
  | .icmp o => some (0x30, effIcmp, o)
  | .fcmp o => some (0x31, effFcmp, o)
  | .sel o => some (0x32, effSel, o)
  | .actorPand o => some (0x33, effPand, o)
  | .actorPor o => some (0x34, effPor, o)
  | .actorPnot o => some (0x35, effPnot, o)
  | .anyl o => some (0x36, effAnyl, o)
  | .alll o => some (0x37, effAlll, o)
  | .cvtfi o => some (0x38, effCvtfi, o)
  | .cvtif o => some (0x39, effCvtif, o)
  | .cvtfb o => some (0x3A, effCvtfb, o)
  | .cvtbf o => some (0x3B, effCvtbf, o)
  | .pack o => some (0x3C, effPack, o)
  | .unpack o => some (0x3D, effUnpack, o)
  | .shuf o => some (0x40, effShuf, o)
  | .bcast o => some (0x41, effBcast, o)
  | .rotl o => some (0x42, effRotl, o)
  | .rsum o => some (0x43, effRsum, o)
  | .rmax o => some (0x44, effRmax, o)
  | .rmin o => some (0x45, effRmin, o)
  | .scan o => some (0x46, effScan, o)
  | .compact o => some (0x47, effCompact, o)
  | .expand o => some (0x48, effExpand, o)
  | .spld o => some (0x50, effSpld, o)
  | .spst o => some (0x51, effSpst, o)
  | .spldsyn o => some (0x52, effSpldsyn, o)
  | .spred o => some (0x53, effSpred, o)
  | .tidld o => some (0x58, effTidld, o)
  | .emitctl o => some (0x60, effEmitctl, o)
  | .mark o => some (0x61, effMark, o)
  | .fault o => some (0x62, effFault, o)
  | .callreq o => some (0x63, effCallreq, o)
  | .actorEvt o => some (0x64, effActorEvt, o)
  | .mvsplit o => some (0x68, effMvsplit, o)
  | .qpscale o => some (0x69, effQpscale, o)
  | .zigzag o => some (0x6A, effZigzag, o)
  | .erracc o => some (0x6B, effErracc, o)
  | _ => none

/-- Runs the instructions of a firing until it ends or waits. -/
def runBlock (n : NodeRef) : Nat → State → State
  | 0, s => s
  | fuel + 1, s =>
    let f := s.firingAt n
    match (decodeActor ((s.slotAt n).instr f.idx)).bind actorEff with
    | none => haltSlot s n { code := .illegalInstr }
    | some (opc, eff, o) =>
      let s := stepFiring n opc eff o s
      match (s.slotAt n).firing with
      | none => s
      | some f => if f.waiting then s else runBlock n fuel s

/-- ACTOR_DATA_FIRING (R287 to R290): a ready slot runs its block, or goes on with the firing that
waits. -/
def execActorDataFiring (n : NodeRef) (s : State) : Host.Outcome State Fault Refusal :=
  .next <|
    if !s.firingLive n.inst || (s.cellAt n).kind != .actor then s
    else if (s.slotAt n).firing.isSome then runBlock n 128 s
    else if mayFire s n then
      let s := beginFiring s n false (firingTag (s.slotAt n))
      if (s.slotAt n).firing.isSome then runBlock n 128 s else s
    else s

/-- MARKER_STEP (R291): agreeing markers at the heads of every used input pass, after the close firing
that is due. -/
def execMarkerStep (n : NodeRef) (s : State) : Host.Outcome State Fault Refusal :=
  .next <|
    let x := s.slotAt n
    if !s.nodeLive n || (s.cellAt n).kind != .actor || !x.valid || x.done || x.halted then s
    else
      match x.firing with
      | some f => if f.close then runBlock n 128 s else s
      | none =>
        match headMarkers x with
        | some (m :: rest) =>
          if (m :: rest).any Token.isPmk then s
          else if !rest.all (sameMarker m) then haltSlot s n rateFault
          else
            if !markerRoom x (closeDue x m) || !mayTurn s n x || !slotFirst s n then s
            else if closeDue x m then
              let s := beginFiring s n true m.tag
              if (s.slotAt n).firing.isSome then runBlock n 128 s else s
            else checkSlot (bumpWaited (passMarkers s n m) n) n
        | _ => s

/-- WINDOW_WRITE_APPLY (R112): between firings, the window writes that waited take effect. -/
def execWindowWriteApply (n : NodeRef) (s : State) : Host.Outcome State Fault Refusal :=
  .next <|
    if (s.slotAt n).firing.isSome || (s.slotAt n).writes.isEmpty then s
    else s.updSlot n applyWrites

/-- Weights of a cell's slots (R374): the filled input slots of each. -/
def weighSlots (c : Cell) : Cell :=
  { c with slots := c.slots.map fun (a, x) =>
      (a, { x with weight := (x.usedIn.map fun p => (x.port p).fill).foldl (· + ·) 0 }) }

/-- FIRING_WEIGHT_UPDATE (R374). -/
def execFiringWeightUpdate (n : NodeRef) (s : State) : Host.Outcome State Fault Refusal :=
  .next (if (s.cellAt n).kind = .actor ∧ s.cycle.toNat % 256 = 0 then s.setCellAt n (weighSlots (s.cellAt n)) else s)

/-- Abandons a firing that waits (R294): it commits nothing and leaves every waiter order. -/
def abandonFiring (s : State) (n : NodeRef) : State :=
  let s := { release s (.node n) with waiters := s.waiters.filter (·.who != Who.node n) }
  s.updSlot n fun x => applyWrites { x with firing := none }

end Sys2Proof.Machine
end

