-- ==== Sys2Proof/Machine/Fabric.lean ====
section
/-! DEFINITION. Circuits (R26, R30, R32, R176 to R178, R310, R395): moving tokens from output ports into
link FIFOs and from link FIFOs into input buffers, by credits. -/

namespace Sys2Proof.Machine

/-- Replaces a circuit. -/
def Inst.setCirc (x : Inst) (i : Nat) (c : Circ) : Inst := { x with circs := lset x.circs i c }
/-- Replaces a hop. -/
def Circ.setLink (c : Circ) (k : Nat) (l : Link) : Circ := { c with links := lset c.links k l }
/-- A hop; one that the circuit does not have takes nothing. -/
def Circ.link (c : Circ) (k : Nat) : Link := (c.links[k]?).getD { credits := 0 }
/-- A token into a hop's FIFO, spending a credit. -/
def Link.push (l : Link) (t : Token) : Link := { l with fifo := l.fifo ++ [t], credits := l.credits - 1 }
/-- A hop without its oldest token, whose slot is free. -/
def Link.pop (l : Link) : Link := { l with fifo := l.fifo.drop 1, returned := l.returned + 1 }
/-- A hop whose freed slots have given their credits back. -/
def Link.refund (l : Link) : Link := { l with credits := l.credits + l.returned, returned := 0 }
/-- Puts a token into a circuit's first FIFO. -/
def Circ.push (c : Circ) (t : Token) : Circ := c.setLink 0 ((c.link 0).push t)

/-- Whether an output port can send `k` tokens now: an unused port drops what it would send. -/
def canSend (s : State) (n : NodeRef) (port k : Nat) : Bool :=
  match s.inst n.inst with
  | some x =>
    match x.outCirc n.page n.cell port with
    | some i => match x.circs[i]? with
      | some c => k ≤ (c.link 0).credits
      | none => true
    | none => true
  | none => false

/-- Sends a token from an output port; what a node passes on is no initial token any more (R395). -/
def send (s : State) (n : NodeRef) (port : Nat) (t : Token) : State :=
  s.updInst n.inst fun x =>
    match x.outCirc n.page n.cell port with
    | some i => match x.circs[i]? with
      | some c => x.setCirc i (c.push { t with init := false })
      | none => x
    | none => x

/-- The plane of an input port: true for the control plane. -/
def inPlane (s : State) (n : NodeRef) (port : Nat) : Bool :=
  match s.inst n.inst with
  | some x => match x.inCirc n.page n.cell port with
    | some c => c.ctrl
    | none => false
  | none => false
/-- The plane of an output port. -/
def outPlane (s : State) (n : NodeRef) (port : Nat) : Bool :=
  match s.inst n.inst with
  | some x => match (x.outCirc n.page n.cell port).bind (x.circs[·]?) with
    | some c => c.ctrl
    | none => false
  | none => false

/-! ## Off an output port -/

/-- Takes the token that waits at an output port: an actor's port buffer, a stream port's buffer or a
FANOUT's elastic buffer.  Operators send into the circuit themselves.  A token of an actor leaves once every access of
its slot has been performed (R158, R160). -/
def takeOut (s : State) (n : NodeRef) (port : Nat) : Option (Token × State) :=
  let c := s.cellAt n
  match c.kind with
  | .actor =>
    let n := { n with sub := port / 8 }
    let s := s.updSlot n (oweEos s n)
    let x := s.slotAt n
    let a := x.port (port % 8)
    match a.front with
    | some t =>
      if !allPerformed s (.node n) then none
      else
        let s := s.updSlot n fun x => oweEos s n (x.setPort (port % 8) (a.adv 1))
        some (t, s.updSlot n (·.noteReady s.cycle))
    | none => none
  | .memory =>
    if port < 16 then
      let h := s.nodeHam n
      let q := s.sport h port
      match q.buf with
      | t :: rest =>
        if s.sourceMay n q.midRound then
          some (t, s.setSport h port { q with
            buf := rest, midRound := t.kind != .eor && t.kind != .eos })
        else none
      | [] => none
    else none
  | .fanout =>
    match mgetD c.outq port [] with
    | t :: rest => some (t, s.setCellAt n { c with outq := mput c.outq port rest [] })
    | [] => none
  | _ => none

/-- A token from an output port onto the first link of its circuit. -/
def linkOut (s : State) (inst i : Nat) : State :=
  match (s.inst inst).bind fun x => x.circs[i]? with
  | none => s
  | some c =>
    let n := c.srcRef inst
    if (c.link 0).credits = 0 || !s.nodeLive n then s
    else
      match takeOut s n c.sport with
      | some (t, s) => s.updInst inst fun x =>
          match x.circs[i]? with
          | some c => x.setCirc i (c.push t)
          | none => x
      | none => s

/-! ## Into an input buffer -/

/-- Whether an input has a free slot (R176). -/
def bufRoom (s : State) (n : NodeRef) (port : Nat) : Bool :=
  let c := s.cellAt n
  match c.kind with
  | .actor => ((c.slot (port / 8)).port (port % 8)).fill < 16
  | .memory => if port < 16 then (s.sport (s.nodeHam n) port).buf.length < 16
      else (c.buf port).length < 8
  | _ => (c.buf port).length < 8

/-- Depth of an input's buffer (R176). -/
def bufDepth (s : State) (n : NodeRef) (port : Nat) : Nat :=
  match (s.cellAt n).kind with
  | .actor => 16
  | .memory => if port < 16 then 16 else 8
  | _ => 8

/-- Tokens in an input's buffer. -/
def bufFill (s : State) (n : NodeRef) (port : Nat) : Nat :=
  let c := s.cellAt n
  match c.kind with
  | .actor => ((c.slot (port / 8)).port (port % 8)).fill
  | .memory => if port < 16 then (s.sport (s.nodeHam n) port).buf.length else (c.buf port).length
  | _ => (c.buf port).length

/-- Whether the way of an output, its FIFOs and the buffer at its end, has room for `k` tokens or, where it is too small
for them, is empty (R394). -/
def pathTakes (s : State) (n : NodeRef) (port k : Nat) : Bool :=
  match s.inst n.inst with
  | some x =>
    match (x.outCirc n.page n.cell port).bind fun i => x.circs[i]? with
    | some c =>
      let d := c.dstRef n.inst
      let whole := 4 * c.links.length + bufDepth s d c.dport
      let held := c.links.foldl (fun m l => m + l.fifo.length) 0 + bufFill s d c.dport
      decide (held + Nat.min k whole ≤ whole)
    | none => true
  | none => false

/-- Puts a token into an input: a foreign context is dropped with CTX_MISMATCH (R26), a token after
EOS with RATE_MISMATCH (R32), and a control word on a data-plane input is discarded (R309).  PMK follows EOS
where a source that has ended is gated (R380). -/
def enterIn (s : State) (n : NodeRef) (port : Nat) (ctrl : Bool) (t : Token) : State :=
  let (ctx, vf) := s.instCtx n.inst
  let c := s.cellAt n
  if tagCtx t.tag != ctx then (nodeFault s n { code := .ctxMismatch }).count vf 0x068
  else if c.closed.contains port && !t.isPmk then nodeFault s n rateFault
  else if t.kind == .control && !ctrl && c.kind != .fanout then s
  else
    let c := if t.kind == .eos then { c with closed := sadd c.closed port } else c
    match c.kind with
    | .actor =>
      let m := { n with sub := port / 8 }
      let s := s.setCellAt n c
      let x := s.slotAt m
      if x.done && !t.isPmk then nodeFault s m rateFault
      else
        checkSlot (s.updSlot m fun x => (x.setPort (port % 8) ((x.port (port % 8)).put t)).noteReady s.cycle) m
    | .memory =>
      let s := s.setCellAt n c
      if port < 16 then
        let h := s.nodeHam n
        let q := s.sport h port
        s.setSport h port { q with buf := q.buf ++ [t], closed := q.closed || t.kind == .eos }
      else s.setCellAt n (c.setBuf port (c.buf port ++ [t]))
    | _ => s.setCellAt n (c.setBuf port (c.buf port ++ [t]))

/-- A token off the last link of its circuit into the input buffer. -/
def linkIn (s : State) (inst i : Nat) : State :=
  match (s.inst inst).bind fun x => x.circs[i]? with
  | none => s
  | some c =>
    let n := c.dstRef inst
    let k := c.links.length - 1
    match (c.link k).fifo with
    | [] => s
    | t :: _ =>
      let there : Bool := match s.inst n.inst with
        | some x => x.plane == .active || x.plane == .freezing
        | none => false
      if !there || !bufRoom s n c.dport then s
      else
        enterIn (s.updInst inst fun x => x.setCirc i { c.setLink k (c.link k).pop with eos := c.eos || t.kind == .eos })
          n c.dport c.ctrl t

/-- A token from one hop of a circuit to the next. -/
def Circ.hop (c : Circ) (k : Nat) : Circ :=
  match (c.link (k - 1)).fifo with
  | [] => c
  | t :: _ =>
    if (c.link k).credits = 0 then c
    else (c.setLink (k - 1) (c.link (k - 1)).pop).setLink k ((c.link k).push t)

/-- Changes a circuit. -/
def State.updCirc (s : State) (inst i : Nat) (f : Circ → Circ) : State :=
  s.updInst inst fun x =>
    match x.circs[i]? with
    | some c => x.setCirc i (f c)
    | none => x

/-- The hops of a circuit. -/
def hopsOf (s : State) (inst i : Nat) : Nat :=
  match (s.inst inst).bind fun x => x.circs[i]? with
  | some c => c.links.length
  | none => 0

/-- LINK_TOKEN_TRANSFER (R177): into the first FIFO, from a FIFO to the next, or out of the last. -/
def execLinkTokenTransfer (inst circ hop : Nat) (s : State) : Host.Outcome State Fault Refusal :=
  .next (if hop = 0 then linkOut s inst circ
    else if hop < hopsOf s inst circ then s.updCirc inst circ (·.hop hop)
    else if hop = hopsOf s inst circ then linkIn s inst circ
    else s)

/-- CREDIT_RETURN (R177): the slots freed in the FIFOs of a circuit's hops give their credits back. -/
def execCreditReturn (inst circ : Nat) (s : State) : Host.Outcome State Fault Refusal :=
  .next (s.updCirc inst circ fun c => { c with links := c.links.map Link.refund })

end Sys2Proof.Machine
end

