-- ==== Sys2Proof/Machine/Nodes.lean ====
section
/-! DEFINITION. What every operator node shares (R308, R309): its ports, the heads of its inputs, sending,
halting, and the passing of markers (R31, R326). -/

namespace Sys2Proof.Machine

/-! ## Ports -/

/-- The used input ports (R308). -/
def Cell.ins (c : Cell) : List Nat := (List.range 4).filter fun p => c.fld 0 (4 + p) 1 == 1
/-- The used output ports, by route number. -/
def Cell.outs (c : Cell) : List Nat :=
  ((List.range 4).filter fun p => c.fld 0 (8 + p) 1 == 1).map (· + 4)
/-- Element type. -/
def Cell.ety (c : Cell) : Nat := c.fld 0 18 3
/-- Lane width. -/
def Cell.width (c : Cell) : Nat := etyWidth c.ety
/-- Rounding mode. -/
def Cell.rmode (c : Cell) : Nat := c.fld 0 21 3

/-- The head of an input. -/
def Cell.front (c : Cell) (p : Nat) : Option Token := (c.buf p).head?
/-- Drops the heads of inputs. -/
def Cell.pop (c : Cell) (ps : List Nat) : Cell := ps.foldl (fun c p => c.setBuf p ((c.buf p).drop 1)) c

/-- What stands at the heads of a node's used inputs (R31). -/
inductive Heads where
  | wait
  | data (ts : List Token)
  | marker (m : Token)
  | pmk (m : Token)
  | bad
  deriving DecidableEq, Repr

/-- The heads of some inputs, by R31: PMK waits for PMK on every one of them (R380). -/
def Cell.heads (c : Cell) (ps : List Nat) : Heads :=
  let l := ps.map c.front
  if l.isEmpty || l.any Option.isNone then .wait
  else
    match l.filterMap id with
    | [] => .wait
    | t :: ts =>
      let all := t :: ts
      if all.any Token.isPmk then (if all.all Token.isPmk then .pmk t else .wait)
      else if all.all fun x => !x.isMarker then .data all
      else if t.isMarker && ts.all (sameMarker t) then .marker t
      else .bad

/-! ## Acting -/

/-- Whether a node of a kind may act. -/
def nodeOk (s : State) (n : NodeRef) (k : Kind) : Bool :=
  let c := s.cellAt n
  s.nodeLive n && c.kind == k && !c.halted.contains n.sub

/-- Halts a node with a fault (R309). -/
def haltNode (s : State) (n : NodeRef) (t : Trap) : State :=
  let c := s.cellAt n
  nodeFault (s.setCellAt n { c with halted := sadd c.halted n.sub }) n t

/-- A poisoned decision raises the poison record's fault and halts the node (R33). -/
def poisonHalt (s : State) (n : NodeRef) : State :=
  haltNode s n (poisonFault s (s.instCtx n.inst).1)

/-- Drops heads of the node's inputs. -/
def popIns (s : State) (n : NodeRef) (ps : List Nat) : State :=
  markActive (s.setCellAt n ((s.cellAt n).pop ps)) n.inst

/-- Whether every port of a list can send `k` tokens. -/
def allCan (s : State) (n : NodeRef) (ps : List Nat) (k : Nat) : Bool := ps.all fun p => canSend s n p k
/-- Sends a token on every port of a list. -/
def sendAll (s : State) (n : NodeRef) (ps : List Nat) (t : Token) : State :=
  ps.foldl (fun s p => send s n p t) s

/-- A copy of a marker. -/
def Token.copy (t : Token) : Token := { kind := t.kind, tag := t.tag }

/-- With another index in the tag. -/
def withIndex (tag : W64) (i : Nat) : W64 := mkTag (tagCtx tag) (tagThread tag) (tagRound tag) i
/-- With another round in the tag. -/
def withRound (tag : W64) (r : Nat) : W64 := mkTag (tagCtx tag) (tagThread tag) r (tagIndex tag)

/-! ## Tokens as values (R27, R285) -/

/-- A token as lanes of a width. -/
def Token.val (t : Token) (ctrl : Bool) (w : Nat) : Val :=
  if ctrl then
    let ok := t.mask.getLsbD 0
    { data := if ok then (field t.data 0 64).zeroExtend 512 else 0, mask := if ok then fullMask w else 0
      width := w, poison := t.poison }
  else { data := t.data, mask := t.mask &&& fullMask w, width := w, poison := t.poison }

/-- A value as a data token. -/
def Val.token (v : Val) (ctrl : Bool) (tag : W64) : Token :=
  if ctrl then
    { kind := .data, data := v.low.zeroExtend 512, mask := if v.lowValid 64 then 1 else 0, tag := tag
      poison := v.poison }
  else { kind := .data, data := v.data, mask := v.mask, tag := tag, poison := v.poison }

/-- A control-plane scalar token. -/
def scalarTok (x : W64) (tag : W64) (poison : Bool := false) : Token :=
  { kind := .data, data := x.zeroExtend 512, mask := 1, tag := tag, poison := poison }

/-- The scalar of a token. -/
def Token.scalar (t : Token) : W64 := field t.data 0 64

end Sys2Proof.Machine
end

