-- ==== Sys2Proof/Machine/Operators.lean ====
section
/-! DEFINITION. The operator kinds JOIN, STEER, MERGE, COUNT, FILTER, COALESCE, FANOUT and REDUCE (R312 to
R320). -/

namespace Sys2Proof.Machine

/-! ## JOIN (R312) -/

/-- The state of a JOIN. -/
def Cell.joinSt (c : Cell) : JoinSt :=
  match c.node 0 with
  | .join j => j
  | _ => {}
/-- Replaces it. -/
def setJoin (s : State) (n : NodeRef) (j : JoinSt) : State :=
  s.setCellAt n ((s.cellAt n).setNode 0 (.join j))
/-- CALLS. -/
def Cell.isCalls (c : Cell) : Bool := c.fld 1 8 1 == 1
/-- RETS. -/
def Cell.isRets (c : Cell) : Bool := c.fld 1 9 1 == 1
/-- ARGN. -/
def Cell.argn (c : Cell) : Nat := c.fld 1 12 2 + 1

/-- Whether two tags agree in the fields of MATCH. -/
def matches_ (m : Nat) (a b : W64) : Bool :=
  (!m.testBit 0 || tagThread a == tagThread b) && (!m.testBit 1 || tagRound a == tagRound b)
    && (!m.testBit 2 || tagIndex a == tagIndex b)

/-- The combined token of a JOIN. -/
def joinTokens (s : State) (n : NodeRef) (c : Cell) (ts : List Token) : Token :=
  let t0 := ts.headD { kind := .data }
  let w := c.width
  let ps := c.ins
  let part (k : Nat) : List (Option Nat) := (ts.zip ps).flatMap fun (t, p) =>
    ((t.val (inPlane s n p) w).lanes w).take (512 / w / k)
  let poison := ts.any (·.poison)
  let fin (v : Val) : Token := { v.token false t0.tag with poison := poison }
  match c.fld 1 4 2 with
  | 1 => fin (Val.ofList w (part 2))
  | 2 => fin (Val.ofList w (part 4))
  | 3 =>
    let at_ (j : Nat) : Option W64 := match (ts.zip ps).find? (·.2 == j) with
      | some (t, _) => if t.mask.getLsbD 0 then some t.scalar else none
      | none => none
    let l := (List.range 4).map at_
    let data := ofLanes 64 (l.map fun x => (x.getD 0).toNat) + 0
    let m := ofBits (l.flatMap fun x => List.replicate (64 / w) x.isSome)
    { kind := .data, data := BitVec.ofNat 512 data, mask := BitVec.ofNat 64 m, tag := t0.tag
      poison := poison }
  | _ => { t0 with poison := poison }

/-- Gathers one word of a call or return site: ARGN from each used input in turn. -/
def gatherWord (s : State) (n : NodeRef) : State :=
  let c := s.cellAt n
  let j := c.joinSt
  let p := c.ins.getD (j.words.length / c.argn) 0
  match c.front p with
  | none => s
  | some t =>
    if t.isMarker then
      if j.words.isEmpty then
        (match c.heads c.ins with
         | .bad => haltNode s n rateFault
         | _ => s)
      else if t.isPmk then s else haltNode s n rateFault
    else if j.words.length % c.argn = 0 && j.any && !matches_ (c.fld 1 0 3) j.tag t.tag then
      haltNode s n rateFault
    else
      let c := c.pop [p]
      let j := { j with
        words := j.words ++ [t.scalar]
        tag := if j.any then j.tag else t.tag
        any := true
        poison := j.poison || t.poison }
      markActive (s.setCellAt n (c.setNode 0 (.join j))) n.inst

/-- Whether a site's combination is complete. -/
def siteFull (c : Cell) : Bool := c.joinSt.words.length ≥ c.argn * c.ins.length

/-- JOIN_COMBINE (R312). -/
def execJoinCombine (n : NodeRef) (s : State) : Host.Outcome State Fault Refusal :=
  .next <|
    if !nodeOk s n .join then s
    else
      let c := s.cellAt n
      let j := c.joinSt
      if c.isCalls || c.isRets then
        match j.results with
        | t :: rest =>
          if canSend s n 4 1 then setJoin (send s n 4 t) n { j with results := rest } else s
        | [] => if j.calling || j.held.isSome || siteFull c then s else gatherWord s n
      else
        match c.heads c.ins with
        | .data ts =>
          let t0 := ts.headD { kind := .data }
          if !ts.all (fun t => matches_ (c.fld 1 0 3) t0.tag t.tag) then haltNode s n rateFault
          else if !canSend s n 4 1 then s
          else send (popIns s n c.ins) n 4 (joinTokens s n c ts)
        | .bad => haltNode s n rateFault
        | _ => s

/-! ## STEER (R313) -/

/-- The predicate of a STEER's token: PMODE 0 is in1's bit 0. -/
def steerPred (c : Cell) (ctrl : Bool) (t : Token) (p : Option Token) : Bool :=
  let w := c.width
  match c.fld 1 0 2 with
  | 0 => match p with
    | some d => d.data.getLsbD 0
    | none => false
  | 1 =>
    match ((t.val ctrl w).lanes w).getD (c.fld 1 8 6) none with
    | some x => laneCmp c.ety (c.fld 1 4 3) x ((c.word 2).toNat % 2 ^ w)
    | none => false
  | _ => tagIndex t.tag % c.fld 2 0 16 == c.fld 2 16 16

/-- STEER_ROUTE (R313). -/
def execSteerRoute (n : NodeRef) (s : State) : Host.Outcome State Fault Refusal :=
  .next <|
    if !nodeOk s n .steer then s
    else
      let c := s.cellAt n
      let ps := if c.fld 1 0 2 = 0 then [0, 1] else [0]
      match c.heads ps with
      | .data ts =>
        let t := ts.headD { kind := .data }
        let d := ts[1]?
        if (match d with | some d => d.poison | none => false) then poisonHalt s n
        else if c.fld 1 0 2 = 1 && t.poison then poisonHalt s n
        else
          let p := steerPred c (inPlane s n 0) t d
          let arm := if p then 4 else 5
          if !canSend s n arm 1 || !canSend s n 6 1 then s
          else
            let s := send (popIns s n ps) n arm t
            send s n 6 (scalarTok (if p then 1 else 0) t.tag)
      | .bad => haltNode s n rateFault
      | _ => s

/-! ## MERGE (R314) -/

/-- MERGE_SEQUENCE (R314): the decision channel names the arm. -/
def execMergeSequence (n : NodeRef) (s : State) : Host.Outcome State Fault Refusal :=
  .next <|
    let c := s.cellAt n
    if !nodeOk s n .merge || c.fld 1 0 2 != 0 then s
    else
      match c.front 2 with
      | none => s
      | some d =>
        if d.isMarker then s
        else if d.poison then poisonHalt s n
        else
          let arm := if d.data.getLsbD 0 then 0 else 1
          match c.front arm with
          | none => s
          | some t =>
            if t.isPmk then s
            else if t.isMarker then haltNode s n rateFault
            else if !canSend s n 4 1 then s
            else send (popIns s n [2, arm]) n 4 t

/-- A key as a number in its order: -0 below +0, every NaN above every number. -/
def keyRank (ety x : Nat) : Int :=
  let w := etyWidth ety
  if etyFloat ety then
    if (unpackF (etyFmt ety) x).isNan then 2 ^ 40
    else
      let m : Int := x % 2 ^ (w - 1)
      if x ≥ 2 ^ (w - 1) then -1 - m else m
  else asInt (etySigned ety) w x

/-- The key of a token of a key-mode MERGE. -/
def mergeKey (c : Cell) (ctrl : Bool) (t : Token) : Option Int :=
  let w := c.width
  if ctrl then (if t.mask.getLsbD 0 then some (keyRank c.ety (t.scalar.toNat % 2 ^ w)) else none)
  else (((t.val false w).lanes w).getD (c.fld 1 8 6) none).map (keyRank c.ety)

/-- MERGE_KEY (R314): the lesser key, A first on equal keys; a marker on one side lets the other
run. -/
def execMergeKey (n : NodeRef) (s : State) : Host.Outcome State Fault Refusal :=
  .next <|
    let c := s.cellAt n
    if !nodeOk s n .merge || c.fld 1 0 2 != 1 then s
    else
      match c.front 0, c.front 1 with
      | some a, some b =>
        if !canSend s n 4 1 then s
        else if a.isMarker && b.isMarker then
          (if a.isPmk || b.isPmk || sameMarker a b then s else haltNode s n rateFault)
        else if a.isMarker then
          (if a.isPmk then s
           else if (mergeKey c (inPlane s n 1) b).isNone then haltNode s n rateFault
           else send (popIns s n [1]) n 4 b)
        else if b.isMarker then
          (if b.isPmk then s
           else if (mergeKey c (inPlane s n 0) a).isNone then haltNode s n rateFault
           else send (popIns s n [0]) n 4 a)
        else
          match mergeKey c (inPlane s n 0) a, mergeKey c (inPlane s n 1) b with
          | some x, some y =>
            if (if c.fld 1 2 1 = 1 then y ≤ x else x ≤ y) then send (popIns s n [0]) n 4 a
            else send (popIns s n [1]) n 4 b
          | _, _ => haltNode s n rateFault
      | _, _ => s

/-! ## LOOPHEAD (R316) -/

/-- The state of a loop head. -/
def Cell.loopSt (c : Cell) : LoopSt :=
  match c.node 0 with
  | .loop l => l
  | _ => {}
/-- Replaces it. -/
def setLoop (s : State) (n : NodeRef) (l : LoopSt) : State :=
  s.setCellAt n ((s.cellAt n).setNode 0 (.loop l))

/-- The discard counter of a loop's COUNT rises (R46, R204, R315). -/
def bumpDiscard (s : State) (n : NodeRef) : State :=
  match (s.inst n.inst).bind fun x => x.inCirc n.page n.cell 2 with
  | none => s
  | some c =>
    let m := c.srcRef n.inst
    let k := s.cellAt m
    match k.node 0 with
    | .count x => s.setCellAt m (k.setNode 0 (.count { x with
        discard := if x.discard = 0xFFFFFFFF then x.discard else x.discard + 1 }))
    | _ => s

/-- Takes an issue or exit of the round in progress. -/
def loopIssue (s : State) (n : NodeRef) (l : LoopSt) (t : Token) : State :=
  let s := popIns s n [2]
  if t.isMarker then s
  else
    let v := natField t.scalar.toNat 0 32
    setLoop s n (if t.scalar.getLsbD 63 then { l with exit := some v }
      else { l with started := true, issued := v })

/-- A step of the entry phase. -/
def loopEntry (s : State) (n : NodeRef) (l : LoopSt) (t : Token) : State :=
  if !canSend s n 4 1 then s
  else
    match t.kind with
    | .eos =>
      let e : Token := { kind := .eor, tag := withRound t.tag l.r0 }
      setLoop (send (popIns s n [0]) n 4 e) n { l with looping := true, ended := true, openR := false }
    | .eor =>
      setLoop (send (popIns s n [0]) n 4 t.copy) n
        { l with looping := true, openR := false, r0 := tagRound t.tag }
    | _ => setLoop (send (popIns s n [0]) n 4 t) n { l with openR := true, r0 := tagRound t.tag }

/-- The next entry round. -/
def loopNext (s : State) (n : NodeRef) (l : LoopSt) : State :=
  setLoop s n { ended := l.ended, r0 := l.r0 }

/-- The iteration of a back-edge token (R46, R316): the one of its round that lies nearest to the last that was emitted,
since at most 64 are in flight (R44). -/
def LoopSt.iterOf (l : LoopSt) (t : Token) : Nat :=
  let d := (tagRound t.tag + 4096 - (l.r0 + l.iter) % 4096) % 4096
  if d < 2048 then l.iter + d else l.iter + d - 4096

/-- The cells that tokens from some cells come from. -/
def Inst.reachBack (x : Inst) : Nat → List (Nat × Nat) → List (Nat × Nat)
  | 0, l => l
  | n + 1, l =>
    let m := (l ++ (x.circs.filter fun c => l.contains (c.dp, c.dc)).map fun c => (c.sp, c.sc)).dedup
    if m.length = l.length then l else x.reachBack n m

/-- Whether the body of a loop holds a token: the cells and circuits from the head's out0 back to its in1. -/
def bodyHolds (s : State) (n : NodeRef) : Bool :=
  match s.inst n.inst with
  | none => false
  | some x =>
    let head := (n.page, n.cell)
    let outs := x.circs.filter fun c => (c.sp, c.sc) == head && c.sport == 4
    let ins := x.circs.filter fun c => (c.dp, c.dc) == head && c.dport == 1
    let y : Inst := { x with circs := x.circs.filter fun c => (c.sp, c.sc) != head && (c.dp, c.dc) != head }
    let fw := y.reach x.circs.length (outs.map fun c => (c.dp, c.dc)).dedup
    let bw := y.reachBack x.circs.length (ins.map fun c => (c.sp, c.sc)).dedup
    let body := fw.filter fun c => c != head && bw.contains c
    ((y.circs.filter fun c => body.contains (c.sp, c.sc) && body.contains (c.dp, c.dc)) ++ outs ++ ins).any
        (fun c => !c.tokens.isEmpty)
      || body.any fun (p, c) => !(x.cell p c).openTags.isEmpty

/-- A step of the loop phase: a back-edge token of iteration i is restamped once issue i + 1 has arrived, or discarded
and counted, markers too, once an exit at or before i has (R46, R204).  The EOR of the last iteration that the node has
emitted whole ends the entry round, once what it emitted of the next has come back (log 64). -/
def loopBack (s : State) (n : NodeRef) (l : LoopSt) (t : Token) : State :=
  let i := l.iterOf t
  let past : Bool := match l.exit with
    | some e => e ≤ i
    | none => false
  if t.kind == .eos then popIns s n [1]
  else if past then
    let s := bumpDiscard (popIns s n [1]) n
    if t.kind == .eor && l.iter ≤ i then (if l.part then setLoop s n { l with drain := true } else loopNext s n l)
    else s
  else if l.issued ≤ i || !canSend s n 4 1 then s
  else
    setLoop (send (popIns s n [1]) n 4 { t with tag := withRound t.tag ((l.r0 + i + 1) % 4096) }) n
      (if t.kind == .eor then { l with iter := i + 1, part := false } else { l with part := true })

/-- LOOPHEAD_MERGE (R44, R46, R316): an issue of the round, else an entry or a back-edge token. -/
def execLoopheadMerge (n : NodeRef) (s : State) : Host.Outcome State Fault Refusal :=
  .next <|
    let c := s.cellAt n
    if !nodeOk s n .merge || c.fld 1 0 2 != 2 then s
    else
      let l := c.loopSt
      match c.front 2, l.exit with
      | some t, none => if t.isPmk then s else loopIssue s n l t
      | _, _ =>
        if l.gone then
          -- the body's own EOS comes back on in1
          (match c.front 1 with
           | some t => if t.isPmk then s else popIns s n [1]
           | none => s)
        else if l.ended && !l.looping then
          (if canSend s n 4 1 then
            setLoop (send s n 4 { kind := .eos, tag := mkTag (s.instCtx n.inst).1 0 l.r0 0 }) n
              { l with gone := true }
           else s)
        else if !l.looping then
          match c.front 0 with
          | some t =>
            if t.isPmk then s
            else if t.kind == .eos && !l.openR then setLoop (popIns s n [0]) n { l with ended := true }
            else if l.started then loopEntry s n l t else s
          | none => s
        else
          match c.front 1 with
          | some t =>
            if t.isPmk then s
            else if l.drain && t.kind != .eos then bumpDiscard (popIns s n [1]) n
            else loopBack s n l t
          | none => if l.drain && !bodyHolds s n then loopNext s n l else s

/-! ## COUNT (R315, R316) -/

/-- The state of a COUNT. -/
def Cell.countSt (c : Cell) : CountSt :=
  match c.node 0 with
  | .count x => x
  | _ => {}
/-- Replaces it. -/
def setCount (s : State) (n : NodeRef) (x : CountSt) : State :=
  markActive (s.setCellAt n ((s.cellAt n).setNode 0 (.count x))) n.inst
/-- Whether EOR comes after each count's indices. -/
def Cell.marksEor (c : Cell) : Bool := c.fld 1 11 1 == 1

/-- The tag of an index. -/
def countTag (s : State) (n : NodeRef) (c : Cell) (x : CountSt) (i : Nat) : W64 :=
  mkTag (s.instCtx n.inst).1 (tagThread x.tag) (if c.marksEor then x.round else tagRound x.tag) i

/-- The token of the next indices. -/
def countToken (s : State) (n : NodeRef) (c : Cell) (x : CountSt) : Token × Nat :=
  let tag := countTag s n c x x.next
  if c.fld 1 12 1 = 1 then
    let k := Nat.min 16 (x.n - x.next)
    ({ kind := .data, data := BitVec.ofNat 512 (ofLanes 32 (rangeFrom x.next k)), mask := lowMask k
       tag := tag, poison := x.poison }, k)
  else (scalarTok (BitVec.ofNat 64 x.next) tag x.poison, 1)

/-- Whether nothing of the count being emitted has been sent. -/
def CountSt.opening (x : CountSt) (c : Cell) : Bool := x.next == 0 && x.marks == c.fld 1 8 1 + 2 * c.fld 1 11 1

/-- COUNT_INDEX (R315): takes a count, or emits the next index, or a marker after them. -/
def execCountIndex (n : NodeRef) (s : State) : Host.Outcome State Fault Refusal :=
  .next <|
    let c := s.cellAt n
    if !nodeOk s n .count || c.fld 1 0 2 != 0 then s
    else
      let x := c.countSt
      if !x.busy then
        match c.front 0 with
        | some t =>
          if t.isMarker then s
          else if t.poison then poisonHalt s n
          else setCount (popIns s n [0]) n { x with
            n := natField t.scalar.toNat 0 32, next := 0, busy := true, tag := t.tag, poison := false
            marks := c.fld 1 8 1 + 2 * c.fld 1 11 1 }
        | none => s
      else if !canSend s n 4 1 || (c.marksEor && x.opening c && roundFar s n x.round) then s
      else if x.next < x.n then
        let (t, k) := countToken s n c x
        setCount (send s n 4 t) n { x with next := x.next + k, busy := x.next + k < x.n || x.marks != 0 }
      else if x.marks % 2 = 1 then
        setCount (send s n 4 { kind := .eod 0, tag := countTag s n c x x.next }) n
          { x with marks := x.marks - 1, busy := x.marks != 1 }
      else if x.marks = 2 then
        setCount (send s n 4 { kind := .eor, tag := countTag s n c x x.next }) n
          { x with marks := 0, busy := false, round := (x.round + 1) % 4096 }
      else setCount s n { x with busy := false }

/-- A token of a LOOP-mode COUNT. -/
def loopTok (s : State) (n : NodeRef) (x : CountSt) (i : Nat) (v : W64) : Token :=
  scalarTok v (mkTag (s.instCtx n.inst).1 0 x.round i)

/-- Whether the next undecided iteration is decided: its predicate continued, or the exit is known. -/
def decidable_ (x : CountSt) : Bool :=
  match x.exit with
  | some _ => x.decided < x.issued
  | none => x.decided < x.got

/-- COUNT_LOOP (R316): the exit, then decisions in order, then a predicate, then an issue. -/
def execCountLoop (n : NodeRef) (s : State) : Host.Outcome State Fault Refusal :=
  .next <|
    let c := s.cellAt n
    if !nodeOk s n .count || c.fld 1 0 2 != 1 then s
    else
      let x := c.countSt
      let window := c.fld 1 2 6 + 1
      let next : CountSt := { round := (x.round + 1) % 4096, discard := x.discard, ended := x.ended }
      match x.exit with
      | some e =>
        if !x.exitSent then
          if canSend s n 4 1 then
            setCount (send s n 4 (loopTok s n x e (BitVec.ofNat 64 (2 ^ 63 + e)))) n
              { x with exitSent := true }
          else s
        else if decidable_ x then
          if canSend s n 5 1 && canSend s n 6 1 then
            let i := x.decided
            let s := send s n 5 (loopTok s n x i (if i ≤ e then 1 else 0))
            setCount (send s n 6 (loopTok s n x i (if i = e then 1 else 0))) n
              { x with decided := i + 1 }
          else s
        else if x.got ≥ x.issued then setCount s n next
        else
          match c.front 0 with
          | some t =>
            if t.isPmk then s
            else if t.kind == .eos then setCount (popIns s n [0]) n { x with ended := true, got := x.issued }
            else if t.isMarker then popIns s n [0]
            else setCount (popIns s n [0]) n { x with got := x.got + 1 }
          | none => s
      | none =>
        if decidable_ x then
          if canSend s n 5 1 && canSend s n 6 1 then
            let i := x.decided
            let s := send s n 5 (loopTok s n x i 1)
            setCount (send s n 6 (loopTok s n x i 0)) n { x with decided := i + 1 }
          else s
        else if x.ended then
          -- every issued iteration is decided, or the entry round has received no predicate (log 64)
          if x.gone || (x.got != 0 && x.decided < x.issued) || !allCan s n [4, 5, 6] 1 then s
          else
            let e : Token := { kind := .eos, tag := mkTag (s.instCtx n.inst).1 0 x.round 0 }
            setCount (sendAll s n [4, 5, 6] e) n { x with gone := true }
        else
          match c.front 0 with
          | some t =>
            if t.isPmk then s
            else if t.kind == .eos then setCount (popIns s n [0]) n { x with ended := true }
            else if t.isMarker then popIns s n [0]
            else if t.poison then poisonHalt s n
            else setCount (popIns s n [0]) n { x with
              got := x.got + 1
              exit := if t.data.getLsbD 0 then none else some x.got }
          | none =>
            if x.issued - x.got < window && canSend s n 4 1 then
              setCount (send s n 4 (loopTok s n x x.issued (BitVec.ofNat 64 x.issued))) n
                { x with issued := x.issued + 1 }
            else s

/-! ## FILTER (R317) -/

/-- FILTER_TOKEN (R317). -/
def execFilterToken (n : NodeRef) (s : State) : Host.Outcome State Fault Refusal :=
  .next <|
    if !nodeOk s n .filter then s
    else
      let c := s.cellAt n
      let mode := c.fld 1 0 2
      let ps := if mode = 2 then [0] else [0, 1]
      match c.heads ps with
      | .data ts =>
        let t := ts.headD { kind := .data }
        let d := ts.getD 1 { kind := .data }
        if d.poison then poisonHalt s n
        else if !canSend s n 4 1 then s
        else
          let s1 := popIns s n ps
          let w := c.width
          match mode with
          | 0 =>
            let v := t.val (inPlane s n 0) w
            let p : Val := { data := d.data, mask := fullMask w, width := w, pred := true }
            let keep := (v.lanes w).zipWith (fun x b => if b == some true then x else none) (p.preds w)
            let r := (Val.ofList w keep).tainted t.poison
            send s1 n 4 (r.token (inPlane s n 0) t.tag)
          | 1 => if d.data.getLsbD 0 then send s1 n 4 t else s1
          | _ => if (t.val (inPlane s n 0) w).mask = 0 then s1 else send s1 n 4 t
      | .bad => haltNode s n rateFault
      | _ => s

/-! ## COALESCE (R318) -/

/-- The state of a COALESCE. -/
def Cell.coalSt (c : Cell) : CoalSt :=
  match c.node 0 with
  | .coal x => x
  | _ => {}
/-- Replaces it. -/
def setCoal (s : State) (n : NodeRef) (x : CoalSt) : State :=
  s.setCellAt n ((s.cellAt n).setNode 0 (.coal x))
/-- The token of the lanes held. -/
def coalToken (w : Nat) (x : CoalSt) (ls : List Nat) : Token :=
  { kind := .data, data := BitVec.ofNat 512 (ofLanes w ls), mask := lowMask ls.length
    tag := withIndex x.tag x.idx, poison := x.poison }

/-- COALESCE (R318). -/
def execCoalesce (n : NodeRef) (s : State) : Host.Outcome State Fault Refusal :=
  .next <|
    if !nodeOk s n .coalesce then s
    else
      let c := s.cellAt n
      match c.heads [0] with
      | .data ts =>
        let t := ts.headD { kind := .data }
        let w := c.width
        let x := c.coalSt
        let got := ((t.val (inPlane s n 0) w).lanes w).filterMap id
        let x := if x.lanes.isEmpty then { x with tag := t.tag, poison := false } else x
        let all := x.lanes ++ got
        let x := if got.isEmpty then x else { x with poison := x.poison || t.poison }
        if all.length < 512 / w then setCoal (popIns s n [0]) n { x with lanes := all }
        else if !canSend s n 4 1 then s
        else
          let s := send (popIns s n [0]) n 4 (coalToken w x (all.take (512 / w)))
          setCoal s n { lanes := all.drop (512 / w), tag := t.tag, poison := t.poison, idx := x.idx + 1 }
      | .bad => haltNode s n rateFault
      | _ => s

/-- The flush and the passing of a COALESCE's marker. -/
def coalMarker (s : State) (n : NodeRef) (m : Token) : State :=
  let x := (s.cellAt n).coalSt
  let ends := m.kind == .eor || m.kind == .eos
  if x.lanes.isEmpty then
    if canSend s n 4 1 then
      setCoal (send (popIns s n [0]) n 4 m.copy) n { idx := if ends then 0 else x.idx }
    else s
  else if canSend s n 4 2 then
    let s := send (popIns s n [0]) n 4 (coalToken (s.cellAt n).width x x.lanes)
    setCoal (send s n 4 m.copy) n { idx := if ends then 0 else x.idx + 1 }
  else s

/-! ## FANOUT (R319) -/

/-- Whether every used branch of a FANOUT takes a token: its count is below its window, and its elastic buffer has a free
slot (R319, R395). -/
def branchRoom (s : State) (n : NodeRef) : Bool :=
  let c := s.cellAt n
  c.outs.all fun p =>
    nth0 (branchCounts s n) (p - 4) < c.fld 1 (4 * (p - 4)) 4 + 1 && (mgetD c.outq p []).length < 16

/-- FANOUT_ENQUEUE (R319): one copy into every used branch at once, markers and control words too. -/
def execFanoutEnqueue (n : NodeRef) (s : State) : Host.Outcome State Fault Refusal :=
  .next <|
    if !nodeOk s n .fanout then s
    else
      let c := s.cellAt n
      match c.front 0 with
      | none => s
      | some t =>
        if !branchRoom s n || t.isPmk then s
        else
          let w := c.width
          let spread : Token := { t with
            data := BitVec.ofNat 512 (ofLanes w (List.replicate (512 / w) t.scalar.toNat))
            mask := if t.mask.getLsbD 0 then fullMask w else 0 }
          let copy (p : Nat) : Token :=
            { (if c.fld 1 16 1 = 1 && t.kind == .data && !outPlane s n p then spread else t) with init := false }
          let s := popIns s n [0]
          let c := s.cellAt n
          s.setCellAt n { c with
            outq := c.outs.foldl (fun m p => mset m p (mgetD m p [] ++ [copy p])) c.outq }

/-! ## REDUCE (R320) -/

/-- The state of a REDUCE. -/
def Cell.redSt (c : Cell) : RedSt :=
  match c.node 0 with
  | .red x => x
  | _ => {}
/-- Replaces it. -/
def setRed (s : State) (n : NodeRef) (x : RedSt) : State :=
  s.setCellAt n ((s.cellAt n).setNode 0 (.red x))

/-- One fold of a lane (R320). -/
def redLane (c : Cell) (a v : Nat) : Nat :=
  let t := c.ety
  match c.fld 1 0 4 with
  | 0 => intOp t (· + ·) a v
  | 1 => intOp t (fun x y => if x ≤ y then x else y) a v
  | 2 => intOp t (fun x y => if x ≤ y then y else x) a v
  | 3 => a &&& v
  | 4 => a ||| v
  | 5 => a ^^^ v
  | 6 => fl2 t c.rmode (Num.addM (c.rmode == 3)) a v
  | 7 => fl2 t 0 numMax a v
  | _ => fl2 t 0 numMin a v

/-- Folds one token into the accumulators. -/
def redFold (c : Cell) (accs : List (Option Nat)) (v : Val) : List (Option Nat) :=
  let w := c.width
  let accs := if accs.isEmpty then List.replicate (512 / w) none else accs
  accs.zipWith (fun a x =>
    match a, x with
    | some a, some x => some (redLane c a x)
    | none, x => x
    | a, none => a) (v.lanes w)

/-- REDUCE_STEP (R320). -/
def execReduceStep (n : NodeRef) (s : State) : Host.Outcome State Fault Refusal :=
  .next <|
    if !nodeOk s n .reduce then s
    else
      let c := s.cellAt n
      match c.heads c.ins with
      | .data ts =>
        let x := c.redSt
        let accs := (ts.zip c.ins).foldl (fun a (t, p) => redFold c a (t.val (inPlane s n p) c.width)) x.accs
        setRed (popIns s n c.ins) n { x with
          accs := accs
          tag := if x.any then x.tag else (ts.headD { kind := .data }).tag
          any := true
          poison := x.poison || ts.any (·.poison) }
      | .bad => haltNode s n rateFault
      | _ => s

/-- Whether a marker closes a REDUCE's group. -/
def redCloses (c : Cell) (k : TokKind) : Bool :=
  match k with
  | .eod l => c.fld 1 4 3 ≤ l
  | .eor => true
  | .eos => true
  | _ => false

/-- REDUCE_GROUP_CLOSE (R320): the result, then the marker. -/
def execReduceGroupClose (n : NodeRef) (s : State) : Host.Outcome State Fault Refusal :=
  .next <|
    if !nodeOk s n .reduce then s
    else
      let c := s.cellAt n
      match c.heads c.ins with
      | .marker m =>
        if !redCloses c m.kind || !canSend s n 4 2 then s
        else
          let x := c.redSt
          let w := c.width
          let accs := if x.accs.isEmpty then List.replicate (512 / w) none else x.accs
          let v := (Val.ofList w accs).tainted x.poison
          let tag := withIndex (if x.any then x.tag else m.tag) x.idx
          let s := send (popIns s n c.ins) n 4 (v.token (outPlane s n 4) tag)
          let idx := if m.kind == .eor || m.kind == .eos then 0 else x.idx + 1
          setRed (send s n 4 m.copy) n { idx := idx }
      | .bad => haltNode s n rateFault
      | _ => s

end Sys2Proof.Machine
end

