-- ==== Sys2Proof/Machine/MemNode.lean ====
section
/-! DEFINITION. MEMORY nodes (R159, R176, R262, R322): their ports, the address-compare queue, the access of one
element, and the whole step of each mode.  A token's accesses enter the queue when it is taken and are performed oldest
first, but that one which must wait lets accesses to other words pass; results and ordering tokens leave in token
order. -/

namespace Sys2Proof.Machine

/-! ## Words and ports -/

/-- A field of a MEMORY node's configuration word. -/
def memFld (c : Cell) (k lo n : Nat) : Nat := c.fld (1 + 4 * k) lo n
/-- MODE. -/
def memMode (c : Cell) (k : Nat) : Nat := memFld c k 0 3
/-- ESIZE. -/
def memEsize (c : Cell) (k : Nat) : Nat := memFld c k 3 3
/-- AOP. -/
def memAop (c : Cell) (k : Nat) : Nat := memFld c k 6 4
/-- UNORD. -/
def memUnord (c : Cell) (k : Nat) : Bool := memFld c k 10 1 == 1
/-- ORDIN. -/
def memOrdin (c : Cell) (k : Nat) : Bool := memFld c k 11 1 == 1
/-- ORDOUT. -/
def memOrdout (c : Cell) (k : Nat) : Bool := memFld c k 12 1 == 1
/-- COMMIT. -/
def memCommit (c : Cell) (k : Nat) : Bool := memFld c k 13 1 == 1
/-- CAPN. -/
def memCapn (c : Cell) (k : Nat) : Nat := memFld c k 14 7
/-- TID. -/
def memTid (c : Cell) (k : Nat) : Nat := memFld c k 21 8
/-- Whether the cell's mask names the node. -/
def memValid (c : Cell) (k : Nat) : Bool := c.fld 0 (4 + k) 1 == 1
/-- The modes that write. -/
def memWrites (m : Nat) : Bool := m == 1 || m == 3 || m == 4

/-- A capability of a port cell (R114, R126). -/
def portCap (c : Cell) (i : Nat) : Cap := ⟨c.word (65 + 2 * i) ++ c.word (64 + 2 * i), c.ctags.contains i⟩

/-- The first route port of a node: address, data, ordering in, commit, result, ordering out. -/
def memBase (k : Nat) : Nat := 16 + 8 * k
/-- The used input ports. -/
def memIns (c : Cell) (k : Nat) : List Nat :=
  let b := memBase k
  [b] ++ (if memWrites (memMode c k) then [b + 1] else [])
    ++ (if memOrdin c k then [b + 2] else []) ++ (if memCommit c k then [b + 3] else [])
/-- Whether the node has a result output. -/
def memResult (c : Cell) (k : Nat) : Bool := !memWrites (memMode c k)

/-- Lane width at ESIZE 6, by the format of the node's TID (R322). -/
def memLane (d : Desc) (tid : Nat) : Nat :=
  if tid = 0 then 8
  else match d.fmt with
    | 0 => 32 | 1 => 32
    | 2 => 16 | 3 => 16 | 19 => 16 | 22 => 16
    | _ => 8

/-! ## The heads of a node's inputs -/

/-- What a node takes in one step. -/
structure MemArgs where
  a : Token
  d : Token
  /-- Second data token of a SCATTER or UPDATE of 8-byte elements. -/
  d2 : Token
  /-- Bit 0 of the commit token. -/
  go : Bool
  /-- The address or data is poisoned; the commit token is. -/
  poison : Bool
  cpoison : Bool
  deriving DecidableEq, Repr

/-- What stands at a node's heads. -/
inductive MemHeads where
  | wait
  | bad
  | ready (m : MemArgs)
  deriving DecidableEq, Repr

/-- Whether a node takes two data tokens for an address token. -/
def memTwo (c : Cell) (k : Nat) : Bool := memEsize c k == 3 && (memMode c k == 3 || memMode c k == 4)

/-- The heads of a node by R31. -/
def memHeads (c : Cell) (k : Nat) : MemHeads :=
  let b := memBase k
  let none_ : Token := { kind := .data }
  match c.heads (memIns c k) with
  | .bad => .bad
  | .data _ =>
    let at_ (p : Nat) : Token := (c.front p).getD none_
    let mk (d2 : Token) : MemHeads :=
      let cm := at_ (b + 3)
      .ready { a := at_ b, d := at_ (b + 1), d2 := d2
               go := !memCommit c k || cm.data.getLsbD 0
               poison := (at_ b).poison || (at_ (b + 1)).poison || d2.poison
               cpoison := memCommit c k && cm.poison }
    if memTwo c k then
      match (c.buf (b + 1))[1]? with
      | none => .wait
      | some t => if t.isPmk then .wait else if t.isMarker then .bad else mk t
    else mk none_
  | _ => .wait

/-! ## One element -/

/-- The place of an element (R322, R238): the declared range, then the check of the capability. -/
def memLoc (s : State) (n : NodeRef) (o z : Nat) (cl : AClass) (need : Nat) : Except Stop Loc := do
  let c := s.cellAt n
  let cap := portCap c (memCapn c n.sub)
  let lo := c.fld (2 + 4 * n.sub) 0 40
  let len := c.fld (3 + 4 * n.sub) 0 40
  check (len == 0 || (lo ≤ o && o < lo + len)) .capBounds (cap.addr + o)
  access s (s.nodeAcx n) cap ((cap.offset : Int) + o) z z cl.engine need

/-- A load of an element: its value, and whether it faulted.  A fault enters the poison record, and the value that the
poisoned result carries is free (R33, log 13). -/
def memLoadEl (s : State) (n : NodeRef) (o z : Nat) : Except Stop ((Nat × Bool) × State) :=
  let r : Except Stop (Nat × State) := do
    let l ← memLoc s n o z clLoad rR
    let (bs, s) ← loadLoc s (s.nodeAcx n) l z
    let s := match l with
      | .peer a _ _ => { s with peerIn := s.peerIn.filter fun g => g.who != .node n || g.addr != a }
      | _ => s
    .ok (leNat bs, s)
  let fail (s : State) (t : Trap) : Except Stop ((Nat × Bool) × State) :=
    .ok (((Config.freeValue s.freeCtr).toNat % 2 ^ (8 * z), true),
      { recordPoison s (s.instCtx n.inst).1 t with freeCtr := s.freeCtr + 1 })
  match r with
  | .ok (v, s) => .ok ((v, false), performedBy s (.node n))
  | .error (.trap t) => fail s t
  | .error (.trapIn s t) => fail s t
  | .error e => .error e

/-- What a write makes of a stop: a fault leaves the element unwritten and is recorded (R262). -/
def memRecord (s : State) (n : NodeRef) (r : Except Stop State) : Except Stop State :=
  match r with
  | .error (.trap t) => .ok (nodeFault (recordPoison s (s.instCtx n.inst).1 t) n t)
  | .error (.trapIn s t) => .ok (nodeFault (recordPoison s (s.instCtx n.inst).1 t) n t)
  | r => r

/-- Marks a launch whose node wrote where a replay would not repeat it (R386). -/
def memDirty (s : State) (n : NodeRef) : State :=
  let c := s.cellAt n
  if notIdempotent (portCap c (memCapn c n.sub)).space then markDirty s (s.instLaunch n.inst) else s

/-- A store of an element, of the bytes that a mask selects.  It leaves the full bits as they are (R142), and one to a
peer is performed with its acknowledgement. -/
def memStoreEl (s : State) (n : NodeRef) (o z : Nat) (on : List Bool) (bs : List Byte) :
    Except Stop State :=
  memRecord s n do
    let l ← memLoc s n o z clStore rW
    let s ← writeMasked s (s.nodeAcx n) l on bs
    let later : Bool := match l with
      | .peer _ _ _ => on.any id
      | _ => false
    .ok (memDirty (if later then s else performedBy s (.node n)) n)

/-- An update of an element, sent to its sparse-update unit with its address token (R170); it is performed when the unit
applies it. -/
def memUpdEl (s : State) (n : NodeRef) (o z : Nat) (t : MemTok) (v : Nat) : Except Stop State :=
  memRecord s n do
    let c := s.cellAt n
    let l ← memLoc s n o z clReduce rA
    let x := s.nodeAcx n
    let launch := s.instLaunch n.inst
    let s ← sendUpd s l { src := x.who, ctx := x.ctx, vf := x.vf, launch := launch
                          op := memAop c n.sub, val := BitVec.ofNat 64 v, n := z
                          ordered := !memUnord c n.sub, round := tagRound t.addr.tag
                          idx := tagIndex t.addr.tag, full := true, tok := some t.tok }
    .ok (markDirty s launch)

/-! ## The accesses of a token -/

/-- The valid offset lanes of an address token, as lane and offset. -/
def memOffs (a : Token) : List (Nat × Nat) :=
  (List.range 16).filterMap fun q => if a.mask.getLsbD q then some (q, lane a.data 32 q) else none

/-- The lanes that a SCATTER or UPDATE writes: lane, offset and value, in ascending lane order. -/
def memPairs (e : Nat) (m : MemArgs) : List (Nat × Nat × Nat) :=
  let w := 8 * 2 ^ e
  (memOffs m.a).filterMap fun (q, o) =>
    let (d, i) := if e = 3 && 8 ≤ q then (m.d2, q - 8) else (m.d, q)
    if d.mask.getLsbD i then some (q, o, lane d.data w i) else none

/-- The accesses of what a node takes, by its mode. -/
def memAccs (c : Cell) (k tok : Nat) (m : MemArgs) : List MemAcc :=
  let e := memEsize c k
  let z := 2 ^ e
  let o := natField m.a.scalar.toNat 0 40
  let acc (q o : Nat) (on : List Bool) (bs : List Byte) : MemAcc :=
    { tok := tok, lane := q, off := o, bytes := bs, on := on }
  match memMode c k with
  | 0 => if m.a.mask.getLsbD 0 then [acc 0 o [] []] else []
  | 1 =>
    if !m.a.mask.getLsbD 0 then []
    else if e = 6 then
      [acc 0 o (byteMask m.d.mask (memLane (c.memSt k).desc (memTid c k))) (leBytes 64 m.d.data.toNat)]
    else if m.d.mask.getLsbD 0 then [acc 0 o (List.replicate z true) (leBytes z m.d.scalar.toNat)]
    else []
  | 2 => (memOffs m.a).map fun (q, o) => acc q o [] []
  | _ => (memPairs e m).map fun (q, o, v) => acc q o (List.replicate z true) (leBytes z v)

/-- Performs one access, or sends it on its way. -/
def memPerform (s : State) (n : NodeRef) (t : MemTok) (a : MemAcc) : Except Stop State :=
  let c := s.cellAt n
  let z := 2 ^ memEsize c n.sub
  match memMode c n.sub with
  | 1 => memStoreEl s n a.off z a.on a.bytes
  | 3 => memStoreEl s n a.off z a.on a.bytes
  | 4 => memUpdEl s n a.off z t (leNat a.bytes)
  | _ => do
    let ((v, bad), s) ← memLoadEl s n a.off z
    .ok (updMem s n fun x => { x with toks := x.toks.map fun y =>
      if y.tok = a.tok then
        { y with vals := mset y.vals a.lane v, bad := if bad then y.bad ++ [a.lane] else y.bad }
      else y })

/-! ## The address-compare queue (R159, R176) -/

/-- Whether an access may not leave the queue before an older one: they meet in a word, and they are not loads.  Words
are compared within the smallest page, so that two names of one word agree. -/
def memMeets (c : Cell) (k : Nat) (a b : MemAcc) : Bool :=
  let words (x : MemAcc) : Nat × Nat :=
    (((portCap c (memCapn c k)).addr + x.off) % 0x10000 / 8, Nat.max 1 (2 ^ memEsize c k / 8))
  let (w, m) := words a
  let (v, l) := words b
  memWrites (memMode c k) && decide (w < v + l) && decide (v < w + m)

/-- Performs the accesses of the queue that can be, oldest first; `older` are those that wait. -/
def memPass (n : NodeRef) : List MemAcc → List MemAcc → State → State
  | [], _, s => s
  | a :: l, older, s =>
    let c := s.cellAt n
    let x := c.memSt n.sub
    match x.toks.find? (·.tok == a.tok) with
    | none => memPass n l older s
    | some t =>
      if older.any (memMeets c n.sub a) then memPass n l (older ++ [a]) s
      else
        match memPerform s n t a with
        | .ok s => memPass n l older (updMem s n fun x => { x with queue := x.queue.filter (· != a) })
        | .error (.wait _ rq) => memPass n l (older ++ [a]) (register s rq)
        | .error _ => memPass n l (older ++ [a]) s

/-! ## Results -/

/-- The token of gathered elements of the lanes from `lo`, at width `8 × z`. -/
def gatherToken (z : Nat) (t : MemTok) (lo per : Nat) : Token :=
  let l := (List.range (64 / z)).map fun q => if q < per then mget t.vals (lo + q) else none
  { kind := .data, tag := t.addr.tag
    poison := t.addr.poison || t.bad.any fun q => lo ≤ q && q < lo + per
    data := BitVec.ofNat 512 (ofLanes (8 * z) (l.map (·.getD 0)))
    mask := BitVec.ofNat 64 (ofBits (l.map Option.isSome)) }

/-- The results of an address token whose accesses have been performed: one for a LOAD, one for a GATHER, two at
ESIZE 3. -/
def memResults (c : Cell) (k : Nat) (t : MemTok) : List Token :=
  let e := memEsize c k
  let z := 2 ^ e
  match memMode c k with
  | 0 =>
    let full := if e = 6 then lowMask (512 / memLane (c.memSt k).desc (memTid c k)) else 1
    [{ kind := .data, tag := t.addr.tag, data := BitVec.ofNat 512 (mgetD t.vals 0 0)
       mask := if t.addr.mask.getLsbD 0 then full else 0, poison := t.addr.poison || !t.bad.isEmpty }]
  | 2 => if e = 3 then [gatherToken z t 0 8, gatherToken z t 8 8] else [gatherToken z t 0 16]
  | _ => []

/-- Forms what the oldest tokens owe, as far as their accesses have left the queue. -/
def memForm (c : Cell) (k : Nat) (x : MemSt) : List MemTok → MemSt
  | [] => { x with toks := [] }
  | t :: l =>
    if x.queue.any (·.tok == t.tok) then { x with toks := t :: l }
    else
      memForm c k { x with
        out := x.out ++ memResults c k t
        ord := x.ord ++ (if memOrdout c k then [scalarTok 0 t.addr.tag] else []) } l

/-! ## The steps -/

/-- Takes what stands at the heads. -/
def memTake (s : State) (n : NodeRef) : State :=
  let c := s.cellAt n
  let k := n.sub
  let s := popIns s n (memIns c k)
  if memTwo c k then popIns s n [memBase k + 1] else s

/-- Takes one token of each used input, where the queue has room for its accesses.  A poisoned commit token of a write
raises the poison record's fault; a clear commit bit skips the writes and what stands with it raises nothing; else
a poisoned address or data does (R33, R45, R47, R322). -/
def memEnter (n : NodeRef) (s : State) : State :=
  let c := s.cellAt n
  let k := n.sub
  match memHeads c k with
  | .wait => s
  | .bad => haltNode s n rateFault
  | .ready m =>
    let x := c.memSt k
    let writes := memWrites (memMode c k)
    let raises := writes && (m.cpoison || (m.go && m.poison))
    let accs := if raises || !m.go then [] else memAccs c k s.nextId m
    if 16 < x.queue.length + accs.length || 15 ≤ x.out.length + 2 * x.toks.length || 16 ≤ x.ord.length + x.toks.length
    then s
    else
      let s := if raises then nodeFault s n (poisonFault s (s.instCtx n.inst).1) else s
      let t : MemTok := { tok := s.nextId, addr := m.a }
      let s := memTake { s with nextId := s.nextId + 1 } n
      updMem s n fun x => { x with queue := x.queue ++ accs, toks := x.toks ++ [t] }

/-- One step of a node of a mode: a token is taken, the accesses that can be are performed, and results are formed. -/
def memStep (mode : Nat) (n : NodeRef) (s : State) : State :=
  let c := s.cellAt n
  if !nodeOk s n .memory || !memValid c n.sub || memMode c n.sub != mode then s
  else
    let s := memEnter n s
    let s := memPass n ((s.cellAt n).memSt n.sub).queue [] s
    let c := s.cellAt n
    let x := c.memSt n.sub
    let s := if x.toks.isEmpty then s else updMem s n fun x => memForm c n.sub x x.toks
    if ((s.cellAt n).memSt n.sub).queue.isEmpty then release s (.node n) else s

/-- MEMORY_LOAD (R322). -/
def execMemoryLoad (n : NodeRef) (s : State) : Host.Outcome State Fault Refusal := .next (memStep 0 n s)
/-- MEMORY_STORE (R322). -/
def execMemoryStore (n : NodeRef) (s : State) : Host.Outcome State Fault Refusal := .next (memStep 1 n s)
/-- MEMORY_GATHER (R322). -/
def execMemoryGather (n : NodeRef) (s : State) : Host.Outcome State Fault Refusal := .next (memStep 2 n s)
/-- MEMORY_SCATTER (R322). -/
def execMemoryScatter (n : NodeRef) (s : State) : Host.Outcome State Fault Refusal := .next (memStep 3 n s)
/-- MEMORY_UPDATE (R322). -/
def execMemoryUpdate (n : NodeRef) (s : State) : Host.Outcome State Fault Refusal := .next (memStep 4 n s)

/-- Whether a node holds no token and no access in its queue. -/
def MemSt.idle (x : MemSt) : Bool := x.queue.isEmpty && x.toks.isEmpty && x.out.isEmpty && x.ord.isEmpty

/-- Whether every access that a node has sent has been performed: none rests in a window or at a peer. -/
def memSettled (s : State) (n : NodeRef) : Bool := allPerformed s (.node n)

/-- MEMORY_REPLY (R322): the oldest result leaves. -/
def execMemoryReply (n : NodeRef) (s : State) : Host.Outcome State Fault Refusal :=
  .next <|
    if !nodeOk s n .memory then s
    else
      match ((s.cellAt n).memSt n.sub).out with
      | t :: rest =>
        if canSend s n (memBase n.sub + 4) 1 then
          markActive (updMem (send s n (memBase n.sub + 4) t) n fun x => { x with out := rest }) n.inst
        else s
      | [] => s

/-- MEMORY_ORDER_OUT (R322, R159): the oldest ordering token leaves once its accesses are performed. -/
def execMemoryOrderOut (n : NodeRef) (s : State) : Host.Outcome State Fault Refusal :=
  .next <|
    if !nodeOk s n .memory || !memSettled s n then s
    else
      match ((s.cellAt n).memSt n.sub).ord with
      | t :: rest =>
        if canSend s n (memBase n.sub + 5) 1 then
          markActive (updMem (send s n (memBase n.sub + 5) t) n fun x => { x with ord := rest }) n.inst
        else s
      | [] => s

/-- A marker of a MEMORY node passes after its results and ordering tokens, and after its accesses have been performed
(R160, R326). -/
def memMarker (s : State) (n : NodeRef) (m : Token) : State :=
  let c := s.cellAt n
  let k := n.sub
  let x := c.memSt k
  let outs := (if memResult c k then [memBase k + 4] else [])
    ++ (if memOrdout c k then [memBase k + 5] else [])
  if !x.idle || !memSettled s n || !allCan s n outs 1 then s
  else sendAll (popIns s n (memIns c k)) n outs m.copy

end Sys2Proof.Machine
end

