-- ==== Sys2Proof/Machine/Warp.lean ====
section
/-! DEFINITION. WARP (R321): reference units read, weighted and rounded, the out-of-frame fraction and the
greatest reference error; and the reading of block scales (R192). -/

namespace Sys2Proof.Machine

/-! ## Scales (R192) -/

/-- Block scales per row. -/
def scaleBlocks (d : Desc) : Nat := if d.sblk = 0 then 0 else cdiv (d.count 0) d.sblk
/-- Rows of a tensor: dimensions 1 to 3, a count of 0 ending the list (R190). -/
def descRows (d : Desc) : Nat :=
  let f (n : Nat) (rest : Nat) : Nat := if n = 0 then 1 else n * rest
  f (d.count 1) (f (d.count 2) (f (d.count 3) 1))

/-- Bytes of a block scale of a format. -/
def scaleBytes (fmt : Nat) : Nat := if fmt == 21 || fmt == 23 then 2 else 1

/-- The scale of block `b` of row `y`: its bits and the superblock scale of Q16N. -/
def readScale (s : State) (x : Acx) (fmt : Nat) (d sd : Desc) (b y : Nat) :
    Except Stop ((Nat × W32) × State) := do
  let k := sd.base
  let z := scaleBytes fmt
  let nb := scaleBlocks d
  let (raw, s) ← capReadNat s x k (k.offset + (y * nb + b) * z) z 1 clLoad
  if fmt = 20 then
    let ng := cdiv nb 256
    let at_ := cdiv (k.addr + descRows d * nb) 4 * 4 - k.addr
    let (sup, s) ← capReadNat s x k (k.offset + at_ + 4 * (y * ng + b / 256)) 4 1 clLoad
    .ok ((raw, BitVec.ofNat 32 sup), s)
  else .ok ((raw, 0), s)

/-- Scales of blocks `b`, …, `b + n - 1` of a row. -/
def readScales (s : State) (x : Acx) (fmt : Nat) (d sd : Desc) (y b : Nat) :
    Nat → Except Stop (List (Nat × W32) × State)
  | 0 => .ok ([], s)
  | n + 1 => do
    let (l, s) ← readScales s x fmt d sd y b n
    let (v, s) ← readScale s x fmt d sd (b + n) y
    .ok (l ++ [v], s)

/-! ## WARP -/

/-- The state of a WARP. -/
def Cell.warpSt (c : Cell) : WarpSt :=
  match c.node 0 with
  | .warp x => x
  | _ => {}

/-- The reference units of non-zero weight, in order, as column, row and weight (R321). -/
def warpUnits (x y : Int) : List (Int × Int × Nat) :=
  let ax := (x % 16).toNat
  let ay := (y % 16).toNat
  let x0 := x / 16
  let y0 := y / 16
  [(x0, y0, (16 - ax) * (16 - ay)), (x0 + 1, y0, ax * (16 - ay)),
   (x0, y0 + 1, (16 - ax) * ay), (x0 + 1, y0 + 1, ax * ay)].filter (·.2.2 != 0)

/-- A column or row mapped into a plane of `n` units. -/
def warpMap (wrap : Bool) (n : Nat) (c : Int) : Nat :=
  if n = 0 then 0 else if wrap then (c % n).toNat else (clampI 0 (n - 1) c).toNat

/-- The element of a plane at a unit: `n` bytes at its strides. -/
def warpRead (s : State) (x : Acx) (d : Desc) (cx cy n : Nat) : Except Stop (Nat × State) :=
  let k := d.base
  capReadNat s x k ((k.offset : Int) + cx * d.stride 0 + cy * d.stride 1) n n clLoad

/-- Reads every unit: weight, feature token and error. -/
def warpReads (s : State) (x : Acx) (f e : Desc) (hasE : Bool) :
    List (Int × Int × Nat) → Except Stop (List (Nat × Nat × Nat) × State)
  | [] => .ok ([], s)
  | (cx, cy, w) :: l => do
    let mx := warpMap f.wrapx (f.count 0) cx
    let my := warpMap f.wrapy (f.count 1) cy
    let (v, s) ← warpRead s x f mx my 64
    let (ev, s) ← if hasE then warpRead s x e mx my 4 else Except.ok (0, s)
    let (rest, s) ← warpReads s x f e hasE l
    .ok ((w, v, ev) :: rest, s)

/-- One lane of the feature: the weighted sum over the units, FP32 with one rounding each. -/
def warpLane (bf : Bool) (e : Nat) (us : List (Nat × Nat × Nat)) : Nat :=
  let w := if bf then 16 else 32
  let val (v : Nat) : Num := unpackF (if bf then bf16 else fp32) (natField v (w * e) w)
  let term (u : Nat × Nat × Nat) : Num := Num.mul (Num.dy u.1 (-8)) (val u.2.1)
  let acc := match us with
    | [] => Num.zero
    | u :: l => l.foldl (fun a u => rn (Num.add a (term u))) (rn (term u))
  if bf then packF bf16 0 acc else packF fp32 0 acc

/-- The part of a unit that lies in the frame along one axis, in quarters of a sample: 0 to 16. -/
def warpIn (wrap : Bool) (n : Nat) (x : Int) : Nat :=
  if wrap then 16
  else
    let lo := if x < 0 then 0 else x
    let hi : Int := if x + 16 < 16 * n then x + 16 else 16 * n
    (clampI 0 16 (hi - lo)).toNat

/-- The out-of-frame fraction of a unit at (`x`, `y`) sixteenths in a plane of `nx` by `ny` units, as an
FP32 word (R321, R358). -/
def outFrac (wx wy : Bool) (nx ny : Nat) (x y : Int) : Nat :=
  packF fp32 0 (Num.dy (256 - warpIn wx nx x * warpIn wy ny y) (-8))

/-- The three results of a request. -/
def warpResults (f : Desc) (x y : Int) (us : List (Nat × Nat × Nat)) : W512 × Nat × W64 × W64 :=
  let bf := f.fmt == 2
  let n := if bf then 32 else 16
  let data := ofLanes (512 / n) ((List.range n).map fun e => warpLane bf e us)
  let frac := outFrac f.wrapx f.wrapy (f.count 0) (f.count 1) x y
  let err := match us with
    | [] => 0
    | u :: l => packF fp32 0
        (l.foldl (fun a u => numMax a (unpackF fp32 u.2.2)) (unpackF fp32 u.2.2))
  (BitVec.ofNat 512 data, n, BitVec.ofNat 64 frac, BitVec.ofNat 64 err)

/-- WARP_REQUEST (R321): a fault on a read poisons the outputs. -/
def execWarpRequest (n : NodeRef) (s : State) : Host.Outcome State Fault Refusal :=
  .next <|
    if !nodeOk s n .warp then s
    else
      let c := s.cellAt n
      match c.front 0 with
      | none => s
      | some t =>
        if t.isMarker || !allCan s n c.outs 1 then s
        else
          let st := c.warpSt
          let f := st.feat
          let r := t.scalar.toNat
          let x : Int := 16 * natField r 0 16 + sgn 16 (natField r 32 16)
          let y : Int := 16 * natField r 16 16 + sgn 16 (natField r 48 16)
          let hasE := c.fld 1 8 8 != 0
          let fin (us : List (Nat × Nat × Nat)) (bad : Bool) (s : State) : State :=
            let (d, k, fr, er) := warpResults f x y us
            let bad := bad || t.poison
            let s := popIns s n [0]
            let tok (p : Nat) : Token := match p with
              | 4 => { kind := .data, data := d, mask := lowMask k, tag := t.tag, poison := bad }
              | 5 => scalarTok fr t.tag bad
              | _ => scalarTok er t.tag bad
            c.outs.foldl (fun s p => send s n p (tok p)) s
          let poisoned (s : State) (e : Trap) : State :=
            fin [] true (recordPoison (release s (.node n)) (s.instCtx n.inst).1 e)
          match warpReads s (s.nodeAcx n) f st.err hasE (warpUnits x y) with
          | .ok (us, s) => fin us false (release s (.node n))
          | .error (.trap e) => poisoned s e
          | .error (.trapIn s e) => poisoned s e
          | .error (.wait _ rq) => register s rq
          | .error (.keep s _) => s

end Sys2Proof.Machine
end

