-- ==== Sys2Proof/Machine/Smithy.lean ====
section
/-! DEFINITION. CONVERT (R323, R83): source elements out of their containers, conversion, the packing of target
elements and of MX scales, and the flush at a marker. -/

namespace Sys2Proof.Machine

/-- The state of a smithy. -/
def Cell.convSt (c : Cell) : ConvSt :=
  match c.node 0 with
  | .conv x => x
  | _ => {}
/-- Replaces it. -/
def setConv (s : State) (n : NodeRef) (x : ConvSt) : State :=
  s.setCellAt n ((s.cellAt n).setNode 0 (.conv x))
/-- SFMT. -/
def Cell.sfmt (c : Cell) : Nat := c.fld 1 0 5
/-- TFMT. -/
def Cell.tfmt (c : Cell) : Nat := c.fld 1 8 5
/-- SAT. -/
def Cell.satBit (c : Cell) : Bool := c.fld 1 16 1 == 1

/-- An element's bits out of its container's bits (R61). -/
def unbox (f x : Nat) : Nat := if f = 1 then x >>> 13 else x % 2 ^ fmtBits f
/-- An element's bits into its container's (R61). -/
def inbox (f x : Nat) : Nat := if f = 1 then (x % 2 ^ 19) <<< 13 else x % 2 ^ fmtBits f

/-- The valid elements of a token in a format, in order: mask bit e covers element e, or byte e of
elements below a byte (R323). -/
def tokenElems (f : Nat) (t : Token) : List Nat :=
  let b := fmtBox f
  (List.range (512 / b)).filterMap fun e =>
    let m := if b < 8 then e * b / 8 else e
    if t.mask.getLsbD m then some (unbox f (lane t.data b e)) else none

/-- A token of up to 64 bytes of target elements. -/
def elemToken (f : Nat) (tag : W64) (poison : Bool) (xs : List Nat) : Token :=
  let b := fmtBox f
  let k := if b < 8 then cdiv (xs.length * b) 8 else xs.length
  { kind := .data, tag := tag, poison := poison, mask := lowMask k
    data := BitVec.ofNat 512 (ofLanes b (xs.map (inbox f))) }

/-- MX target formats. -/
def isMx (f : Nat) : Bool := 9 ≤ f && f ≤ 14

/-- Adds target elements, sending every full token (R318's packing). -/
def convAdd (f : Nat) (x : ConvSt) (tag : W64) (poison : Bool) : List Nat → ConvSt
  | [] => x
  | e :: l =>
    let x := if x.elems.isEmpty then { x with tag := tag, poison := false } else x
    let x := { x with elems := x.elems ++ [e], poison := x.poison || poison }
    let x :=
      if x.elems.length < 512 / fmtBox f then x
      else { x with out := x.out ++ [elemToken f (withIndex x.tag x.idx) x.poison x.elems]
                    elems := [], idx := x.idx + 1 }
    convAdd f x tag poison l

/-- The token of the scales held. -/
def scaleToken (x : ConvSt) : Token :=
  { kind := .data, tag := withIndex x.stag x.idx1, poison := x.spoison
    mask := lowMask x.scales.length, data := BitVec.ofNat 512 (ofLanes 8 x.scales) }

/-- Closes the open MX block: its scale, then its elements (R83). -/
def convBlock (c : Cell) (x : ConvSt) : ConvSt :=
  if x.block.isEmpty then x
  else
    let vals := x.block.map fun (b, r, sup) => elemVal c.sfmt b { raw := r, super := sup }
    let (sc, e) := mxScale c.tfmt (x.block.map (·.1)) vals
    let elems := vals.map fun v => convertTo c.tfmt c.rmode c.satBit (v.scale (-e))
    let x1 := if x.scales.isEmpty then { x with stag := x.btag, spoison := false } else x
    let x1 := { x1 with scales := x1.scales ++ [sc], spoison := x1.spoison || x.bpoison }
    let x1 :=
      if x1.scales.length < 64 then x1
      else { x1 with out1 := x1.out1 ++ [scaleToken x1], scales := [], idx1 := x1.idx1 + 1 }
    { convAdd c.tfmt x1 x.btag x.bpoison elems with block := [], bpoison := false }

/-- Takes source elements with their scales. -/
def convTake (c : Cell) (tag : W64) (poison : Bool) (x : ConvSt) :
    List (Nat × Nat × W32) → ConvSt
  | [] => x
  | (b, r, sup) :: l =>
    let x := { x with x := x.x + 1 }
    let x :=
      if isMx c.tfmt then
        let x := if x.block.isEmpty then { x with btag := tag, bpoison := false } else x
        let x := { x with block := x.block ++ [(b, r, sup)], bpoison := x.bpoison || poison }
        if x.block.length < 32 then x else convBlock c x
      else
        let v := elemVal c.sfmt b { raw := r, super := sup }
        convAdd c.tfmt x tag poison [convertTo c.tfmt c.rmode c.satBit v]
    convTake c tag poison x l

/-- The scales of `cnt` source elements from position `x` of row `y` (R192, R323). -/
def convScales (s : State) (n : NodeRef) (c : Cell) (x : ConvSt) (cnt : Nat) :
    Except Stop (List (Nat × W32) × State) :=
  let f := c.sfmt
  let blk := fmtBlock f
  if blk = 0 || cnt = 0 then .ok (List.replicate cnt (0, 0), s)
  else do
    let b0 := x.x / blk
    let b1 := (x.x + cnt - 1) / blk
    let (l, s) ← readScales s (s.nodeAcx n) f x.desc x.sdesc x.y b0 (b1 - b0 + 1)
    .ok ((List.range cnt).map fun i => l.getD ((x.x + i) / blk - b0) (0, 0), s)

/-- Sends the tokens that a smithy has formed, where its outputs take them. -/
def convFlush (s : State) (n : NodeRef) : State :=
  let x := (s.cellAt n).convSt
  match x.out with
  | t :: l => if canSend s n 4 1 then setConv (send s n 4 t) n { x with out := l } else s
  | [] => match x.out1 with
    | t :: l => if canSend s n 5 1 then setConv (send s n 5 t) n { x with out1 := l } else s
    | [] => s

/-- Whether a smithy has nothing to send. -/
def convIdle (x : ConvSt) : Bool := x.out.isEmpty && x.out1.isEmpty

/-- CONVERT_ELEMENT (R323): a formed token leaves, or a source token is converted. -/
def execConvertElement (n : NodeRef) (s : State) : Host.Outcome State Fault Refusal :=
  .next <|
    if !nodeOk s n .convert then s
    else
      let c := s.cellAt n
      let x := c.convSt
      if !convIdle x then convFlush s n
      else match c.front 0 with
        | none => s
        | some t =>
          if t.isMarker then s
          else
            let es := tokenElems c.sfmt t
            match convScales s n c x es.length with
            | .ok (sc, s) =>
              let x := convTake c t.tag t.poison x ((es.zip sc).map fun (e, r) => (e, r.1, r.2))
              setConv (popIns (release s (.node n)) n [0]) n x
            | .error (.trap e) => haltNode s n e
            | .error (.trapIn s e) => haltNode s n e
            | .error (.wait _ rq) => register s rq
            | .error (.keep s _) => s

/-- The flush and the passing of a smithy's marker (R323, R326): EOD(0) begins a row, EOR and EOS a
round. -/
def convMarker (s : State) (n : NodeRef) (m : Token) : State :=
  let c := s.cellAt n
  let x := c.convSt
  if !convIdle x then convFlush s n
  else
    let x := convBlock c x
    let x := if x.elems.isEmpty then x
      else { x with out := x.out ++ [elemToken c.tfmt (withIndex x.tag x.idx) x.poison x.elems]
                    elems := [], idx := x.idx + 1 }
    let x := if x.scales.isEmpty then x
      else { x with out1 := x.out1 ++ [scaleToken x], scales := [], idx1 := x.idx1 + 1 }
    let x := { x with
      out := if c.outs.contains 4 then x.out ++ [m.copy] else x.out
      out1 := if c.outs.contains 5 then x.out1 ++ [m.copy] else x.out1 }
    let x : ConvSt := match m.kind with
      | .eod 0 => { x with x := 0, y := x.y + 1 }
      | .eor => { x with x := 0, y := 0, idx := 0, idx1 := 0 }
      | .eos => { x with x := 0, y := 0, idx := 0, idx1 := 0 }
      | _ => x
    setConv (popIns s n [0]) n x

end Sys2Proof.Machine
end

