-- ==== Sys2Proof/Machine/Mill.lean ====
section
/-! DEFINITION. Mills (R22, R72 to R79, R116, R117, R324, R393): the cells of a mill, weight loads,
activation rows and the release of an accumulated round. -/

namespace Sys2Proof.Machine

/-- The state of a mill, at its head. -/
def Cell.macSt (c : Cell) : MacSt :=
  match c.node 0 with
  | .mac x => x
  | _ => {}
/-- Replaces it. -/
def setMac (s : State) (n : NodeRef) (x : MacSt) : State :=
  s.setCellAt n ((s.cellAt n).setNode 0 (.mac x))
/-- WFMT. -/
def Cell.wfmt (c : Cell) : Nat := c.fld 1 8 5
/-- AFMT. -/
def Cell.afmt (c : Cell) : Nat := c.fld 1 0 5
/-- ACC. -/
def Cell.accBit (c : Cell) : Bool := c.fld 1 15 1 == 1
/-- BANK. -/
def Cell.bank (c : Cell) : Nat := c.fld 1 16 3
/-- SYS. -/
def Cell.sysBit (c : Cell) : Bool := c.fld 1 19 1 == 1
/-- FEED. -/
def Cell.feed (c : Cell) : Bool := c.fld 1 20 1 == 1
/-- Mill height. -/
def Cell.millH (c : Cell) : Nat := if c.sysBit then c.fld 2 8 1 + 1 else 1
/-- Mill width. -/
def Cell.millW (c : Cell) : Nat := if c.sysBit then c.fld 2 4 4 + 1 else 1
/-- Row of a cell in its mill. -/
def Cell.millR (c : Cell) : Nat := if c.sysBit then c.fld 2 3 1 else 0
/-- Column of a cell in its mill. -/
def Cell.millC (c : Cell) : Nat := if c.sysBit then c.fld 2 0 3 else 0
/-- K. -/
def Cell.millK (c : Cell) : Nat := 32 * c.millH
/-- NCOL: columns loaded and summed (R393). -/
def Cell.ncol (c : Cell) : Nat := if c.fld 2 16 8 = 0 then 32 * c.millW else c.fld 2 16 8
/-- The head of a cell's mill, as page and cell. -/
def Cell.millHead (c : Cell) (page cell : Nat) : Nat × Nat :=
  if c.sysBit then (c.fld 3 32 13, c.fld 3 48 4) else (page, cell)
/-- Whether a node is a mill's head. -/
def isHead (c : Cell) : Bool := c.millR == 0 && c.millC == 0

/-- The cell of a mill at a row and column, by its head. -/
def millCell (s : State) (n : NodeRef) (r m : Nat) : NodeRef :=
  match s.inst n.inst with
  | some x =>
    match x.cells.find? fun (_, c) =>
        c.kind == .mac && c.sysBit && c.millHead 0 0 == (n.page, n.cell) && c.millR == r && c.millC == m with
    | some (k, _) => { n with page := k / 16, cell := k % 16 }
    | none => n
  | none => n
/-- Every cell of a mill. -/
def millCells (s : State) (n : NodeRef) : List NodeRef :=
  let c := s.cellAt n
  if c.sysBit then (List.range c.millH).flatMap fun r => (List.range c.millW).map fun m => millCell s n r m
  else [n]

/-- Key of the accumulator word of a sum: row `i`, column `j` of the mill (R116, R324).  DESIGN CHOICE (log 58): in a mill
two cells tall the words of a column stand in its cell of MROW 0. -/
def sumKey (s : State) (n : NodeRef) (c : Cell) (i j : Nat) : Nat :=
  let m := if c.sysBit then millCell s n 0 (j / 32) else n
  accIdx (s.nodeHam m) m.cell c.bank i (j % 32)

/-- Sets or clears ABUSY in every cell of a mill (R115).  DESIGN CHOICE (log 58): cells of both rows show it. -/
def setBusy (s : State) (n : NodeRef) (on : Bool) : State :=
  let b := (s.cellAt n).bank
  (millCells s n).foldl (fun s m =>
    let c := s.cellAt m
    s.setCellAt m { c with abusy := on, abank := if on then b else 0 }) s

/-- Sets the saturation flag of the cells that hold the columns named (R73, R115). -/
def setSat (s : State) (n : NodeRef) (c : Cell) (cols : List Nat) : State :=
  cols.foldl (fun s j =>
    let m := if c.sysBit then millCell s n 0 (j / 32) else n
    s.setCellAt m { s.cellAt m with sat := true }) s

/-- Whether an access still waits for the bank of a round that has been released: it completes before the next round's
first product (R117). -/
def bankHeld (s : State) (n : NodeRef) (c : Cell) : Bool :=
  c.accBit && !c.abusy && (millCells s n).any fun m =>
    s.bankWait.any fun (_, cell, b) => cell == accCell (s.nodeHam m) m.cell && b == c.bank

/-- Counts products towards MAC_KPROD, whose unit is 1,024 of them (R205). -/
def countProds (s : State) (vf n : Nat) : State :=
  let v := s.vfOf vf
  if v.freeze then s
  else (s.setVf vf { v with prods := (v.prods + n) % 1024 }).count vf 0x018 ((v.prods + n) / 1024)

/-! ## Sums (R73) -/

/-- An operand element: its bits and its scale. -/
abbrev Opnd := Nat × Nat × W32

/-- Its exact value. -/
def opndVal (f : Nat) (x : Opnd) : Num := elemVal f x.1 { raw := x.2.1, super := x.2.2 }

/-- One matrix sum from an accumulator word, and whether it saturated. -/
def matSum (fa fb : Nat) (acc : W32) (a b : List Opnd) : W32 × Bool :=
  if fmtInt fa && fmtInt fb then
    let (v, sat) := dotI (sgn 32 acc.toNat) false
      ((a.map fun x => elemInt fa x.1).zip (b.map fun x => elemInt fb x.1))
    (BitVec.ofInt 32 v, sat)
  else
    let v := dotF (ofFP32 acc) ((a.map (opndVal fa)).zip (b.map (opndVal fb)))
    (BitVec.ofNat 32 (packF fp32 0 v), false)

/-- Tokens of `k` elements of a format. -/
def packTokens (f k : Nat) : Nat := cdiv (k * fmtBox f) 512

/-- Element `k` of a packed run of tokens. -/
def tokElem (f : Nat) (ts : List Token) (k : Nat) : Nat :=
  let pos := k * fmtBox f
  let t := ts.getD (pos / 512) { kind := .data }
  unbox f (natField t.data.toNat (pos % 512) (fmtBox f))

/-- Scales of `k` elements of a row from position `k0`. -/
def rowScales (s : State) (x : Acx) (f : Nat) (d sd : Desc) (y k0 k : Nat) :
    Except Stop (List (Nat × W32) × State) :=
  let blk := fmtBlock f
  if blk = 0 || k = 0 then .ok ([], s)
  else
    let b0 := k0 / blk
    readScales s x f d sd y b0 ((k0 + k - 1) / blk - b0 + 1)

/-- The operands of a row: bits with scales. -/
def rowOpnds (f q : Nat) (ts : List Token) (sc : List (Nat × W32)) (k0 k : Nat) : List Opnd :=
  let blk := fmtBlock f
  (List.range k).map fun i =>
    let s := if blk = 0 then (0, 0) else sc.getD ((k0 + i) / blk - k0 / blk) (0, 0)
    (cutPlanes f q (tokElem f ts i), s.1, s.2)

/-- Column `j` of a weight load. -/
def weightCol (c : Cell) (x : MacSt) (j : Nat) : List Token :=
  let tw := packTokens c.wfmt c.millK
  (x.wtoks.drop (j * tw)).take tw
/-- Read planes of the weights (R79). -/
def weightPlanes (c : Cell) (x : MacSt) : Nat := if c.fld 3 8 8 = 0 then 0 else x.wdesc.rplanes

/-- The scales of every column of a weight load. -/
def loadScales (s : State) (n : NodeRef) (c : Cell) (x : MacSt) :
    Nat → Except Stop (List (List (Nat × W32)) × State)
  | 0 => .ok ([], s)
  | j + 1 => do
    let (l, s) ← loadScales s n c x j
    let (v, s) ← rowScales s (s.nodeAcx n) c.wfmt x.wdesc x.wsdesc j (x.chunk * c.millK) c.millK
    .ok (l ++ [v], s)

/-! ## Sending -/

/-- Sends the oldest token that a mill has formed. -/
def millFlush (s : State) (n : NodeRef) : State :=
  let x := (s.cellAt n).macSt
  match x.out with
  | t :: l => if canSend s n 4 1 then setMac (send s n 4 t) n { x with out := l } else s
  | [] => s

/-- The tokens of a row of sums: lane j of token t holds column 16t + j (R393). -/
def sumTokens (tag : W64) (idx : Nat) (sums : List W32) (pois : List Bool) : List Token :=
  (List.range (cdiv sums.length 16)).map fun t =>
    let part := (sums.drop (16 * t)).take 16
    { kind := .data, data := BitVec.ofNat 512 (ofLanes 32 (part.map (·.toNat)))
      mask := lowMask part.length, tag := withIndex tag (idx + t)
      poison := ((pois.drop (16 * t)).take 16).any id }

/-- Adds a row's tokens to what a mill has to send. -/
def addSums (x : MacSt) (tag : W64) (sums : List W32) (pois : List Bool) : MacSt :=
  let ts := sumTokens tag x.idx sums pois
  { x with out := x.out ++ ts, idx := x.idx + ts.length }

/-! ## The steps -/

/-- Whether a head cell may act on its ports: it is not fed by the Miller. -/
def millOk (s : State) (n : NodeRef) : Bool :=
  nodeOk s n .mac && isHead (s.cellAt n) && !(s.cellAt n).feed

/-- MAC_WEIGHT_LOAD (R324): a weight token, or the EOD(0) that ends the load. -/
def execMacWeightLoad (n : NodeRef) (s : State) : Host.Outcome State Fault Refusal :=
  .next <|
    let c := s.cellAt n
    let x := c.macSt
    if !millOk s n || x.loaded then s
    else match c.front 0 with
      | none => s
      | some t =>
        if !t.isMarker then
          -- another marker on in1 facing the first weight token
          let facing : Bool := match c.front 1 with
            | some u => x.wtoks.isEmpty && u.isMarker && !u.isPmk && u.kind != .eod 0
            | none => false
          if facing then haltNode s n rateFault
          else setMac (popIns s n [0]) n { x with wtoks := x.wtoks ++ [t] }
        else if t.kind == .eod 0 then
          if x.wtoks.length != c.ncol * packTokens c.wfmt c.millK then haltNode s n rateFault
          else match loadScales s n c x (if fmtBlock c.wfmt = 0 then 0 else c.ncol) with
            | .ok (ws, s) =>
              setMac (popIns (release s (.node n)) n [0]) n
                { x with loaded := true, wscales := ws, atoks := [], row := 0 }
            | .error (.trap e) => haltNode s n e
            | .error (.trapIn s e) => haltNode s n e
            | .error (.wait _ rq) => register s rq
            | .error (.keep s _) => s
        else if t.isPmk then s
        else if !x.wtoks.isEmpty then haltNode s n rateFault
        else match c.front 1 with
          | some u => if !u.isMarker then haltNode s n rateFault else s
          | none => s

/-- The sums of a complete row, with the words that they are added into where ACC is set. -/
def millRow (s : State) (n : NodeRef) (c : Cell) (x : MacSt) (asc : List (Nat × W32)) :
    List (W32 × Bool) :=
  let k0 := if c.accBit then x.chunk * c.millK else 0
  let a := rowOpnds c.afmt 0 x.atoks asc k0 c.millK
  (List.range c.ncol).map fun j =>
    let b := rowOpnds c.wfmt (weightPlanes c x) (weightCol c x j) (x.wscales.getD j []) k0 c.millK
    let acc := if c.accBit then s.acc (sumKey s n c x.row j) else 0
    matSum c.afmt c.wfmt acc a b

/-- Takes a complete row. -/
def millTakeRow (s : State) (n : NodeRef) (c : Cell) (x : MacSt) (asc : List (Nat × W32)) : State :=
  let r := millRow s n c x asc
  let sums := r.map (·.1)
  let cols := (r.zipIdx.filter (·.1.2)).map (·.2)
  let ap := x.atoks.any (·.poison)
  let pois := (List.range c.ncol).map fun j => ap || (weightCol c x j).any (·.poison)
  let tag := (x.atoks.headD { kind := .data }).tag
  let s := countProds (setSat s n c cols) (s.instCtx n.inst).2 (c.millK * c.ncol)
  let y : MacSt := { x with atoks := [], row := x.row + 1 }
  if c.accBit then
    let s := (sums.zipIdx).foldl (fun s (v, j) => s.setAcc (sumKey s n c x.row j) v) s
    let s := setBusy s n true
    let rows := match x.rows[x.row]? with
      | some (t, q) => lset x.rows x.row (t, q.zipWith or pois)
      | none => x.rows ++ [(tag, pois)]
    setMac s n { y with rows := rows }
  else setMac s n (addSums y tag sums pois)

/-- Whether out0 holds a credit for every token of a row's sums, or every credit that its link has, and its FIFOs and the
consumer's buffer have room for them (R394).  A row of more tokens than they hold waits until they are empty (DEDUCED, log
58). -/
def rowRoom (s : State) (n : NodeRef) (c : Cell) : Bool :=
  let k := cdiv c.ncol 16
  c.accBit || (canSend s n 4 (Nat.min k 4) && pathTakes s n 4 k)

/-- MAC_ACTIVATION_ROW (R324, R394): a formed token leaves, else an activation token or the EOD(0) that ends
the batch is taken; a row is taken while out0 has room for its sums, and its last token gives them. -/
def execMacActivationRow (n : NodeRef) (s : State) : Host.Outcome State Fault Refusal :=
  .next <|
    let c := s.cellAt n
    let x := c.macSt
    if !millOk s n then s
    else if !x.out.isEmpty then millFlush s n
    else if !x.loaded then s
    else match c.front 1 with
      | none => s
      | some t =>
        if t.isPmk then s
        else if t.isMarker then
          if t.kind != .eod 0 || !x.atoks.isEmpty then haltNode s n rateFault
          else setMac (popIns s n [1]) n { x with
            loaded := false, wtoks := [], wscales := [], out := [t.copy]
            chunk := if c.accBit then x.chunk + 1 else 0 }
        else
          let x := { x with atoks := x.atoks ++ [t] }
          if !rowRoom s n c then s
          else if x.atoks.length < packTokens c.afmt c.millK then setMac (popIns s n [1]) n x
          else if c.accBit && x.row ≥ 32 then haltNode s n rateFault
          else if bankHeld s n c then s
          else
            let k0 := if c.accBit then x.chunk * c.millK else 0
            match rowScales s (s.nodeAcx n) c.afmt x.adesc x.asdesc x.row k0 c.millK with
            | .ok (asc, s) => millTakeRow (popIns (release s (.node n)) n [1]) n c x asc
            | .error (.trap e) => haltNode s n e
            | .error (.trapIn s e) => haltNode s n e
            | .error (.wait _ rq) => register s rq
            | .error (.keep s _) => s

/-- Emits every row of a round, sets their words to +0 and clears ABUSY (R324, R117).  Record 0x02 names the round of the
marker that releases it. -/
def releaseRound (s : State) (n : NodeRef) (m : Token) : State :=
  let c := s.cellAt n
  let x := c.macSt
  let row (x : MacSt) (i : Nat) (r : W64 × List Bool) : MacSt :=
    addSums x r.1 ((List.range c.ncol).map fun j => s.acc (sumKey s n c i j)) r.2
  let y := (x.rows.zipIdx).foldl (fun y (r, i) => row y i r) x
  let keys := (List.range x.rows.length).flatMap fun i =>
    (List.range c.ncol).map fun j => sumKey s n c i j
  let s := keys.foldl (fun s k => s.setAcc k 0) s
  let s := crierAt s (s.instLaunch n.inst) 0x02 (s.nodeHam n) n.cell 0
    ([BitVec.ofNat 8 c.bank] ++ leBytes 2 (tagRound m.tag))
  setBusy (setMac s n { y with rows := [], chunk := 0, row := 0 }) n false

/-- The marker that stands at both heads between batches, where there is one. -/
def millMarker (s : State) (n : NodeRef) : Option Token :=
  let c := s.cellAt n
  let x := c.macSt
  if x.loaded || !x.wtoks.isEmpty || !x.out.isEmpty then none
  else match c.heads [0, 1] with
    | .marker m => if m.kind == .eod 0 then none else some m
    | _ => none

/-- Passes a marker on out0; the index count starts again after EOR. -/
def millPass (s : State) (n : NodeRef) (m : Token) : State :=
  let s := popIns s n [0, 1]
  let x := (s.cellAt n).macSt
  setMac s n { x with out := x.out ++ [m.copy], idx := if m.kind == .eor then 0 else x.idx }

/-- Whether a marker releases the round of an accumulating mill (R324, R32). -/
def releases (c : Cell) (m : Token) : Bool :=
  c.accBit && (m.kind == .eor || (m.kind == .eos && !c.macSt.rows.isEmpty))

/-- MAC_ROUND_RELEASE (R324): a formed token leaves, else the round is released and its marker
passed. -/
def execMacRoundRelease (n : NodeRef) (s : State) : Host.Outcome State Fault Refusal :=
  .next <|
    if !millOk s n then s
    else if !(s.cellAt n).macSt.out.isEmpty then millFlush s n
    else match millMarker s n with
      | some m => if releases (s.cellAt n) m then millPass (releaseRound s n m) n m else s
      | none => s

/-- Any other marker of a mill between batches (R324, R326). -/
def macMarker (s : State) (n : NodeRef) : State :=
  if !millOk s n then s
  else if !(s.cellAt n).macSt.out.isEmpty then millFlush s n
  else match millMarker s n with
    | some m => if releases (s.cellAt n) m then s else millPass s n m
    | none =>
      match (s.cellAt n).heads [0, 1] with
      | .bad =>
        let x := (s.cellAt n).macSt
        let c := s.cellAt n
        let bothMarks : Bool := match c.front 0, c.front 1 with
          | some a, some b => a.isMarker && b.isMarker && a.kind != .eod 0
          | _, _ => false
        if !x.loaded && x.wtoks.isEmpty && bothMarks then haltNode s n rateFault else s
      | _ => s

end Sys2Proof.Machine
end

