-- ==== Sys2Proof/Machine/Markers.lean ====
section
/-! DEFINITION. The passing of markers by operator nodes (R31, R309, R326), and of PMK by sources and nodes
(R380). -/

namespace Sys2Proof.Machine

/-- Passes a marker that stands at the heads of some inputs to some outputs. -/
def passPlain (s : State) (n : NodeRef) (ps outs : List Nat) (act : Token → Bool := fun _ => true) :
    State :=
  match (s.cellAt n).heads ps with
  | .marker m => if act m && allCan s n outs 1 then sendAll (popIns s n ps) n outs m.copy else s
  | .bad => haltNode s n rateFault
  | _ => s

/-- JOIN: between the combinations of a call site, and after its results (R312). -/
def joinMarker (s : State) (n : NodeRef) : State :=
  let c := s.cellAt n
  let j := c.joinSt
  if (c.isCalls || c.isRets) && (!j.words.isEmpty || j.calling || j.held.isSome || !j.results.isEmpty) then s
  else passPlain s n c.ins c.outs

/-- A sequence-mode MERGE passes a marker of its decision channel once both arms hold the same one; a key-mode one ends
the run (R314). -/
def mergeMarker (s : State) (n : NodeRef) : State :=
  let c := s.cellAt n
  match c.fld 1 0 2 with
  | 0 =>
    (match c.heads [0, 1, 2] with
     | .marker _ => passPlain s n [0, 1, 2] [4]
     | _ => s)
  | 1 =>
    let marks : Bool := [0, 1].all fun p => match c.front p with
      | some t => t.isMarker
      | none => false
    if marks then passPlain s n [0, 1] [4] else s
  | _ => s

/-- An INDEX-mode COUNT passes markers after the indices of earlier counts; with MARK bit 3 it
consumes EOR (R315). -/
def countMarker (s : State) (n : NodeRef) : State :=
  let c := s.cellAt n
  if c.fld 1 0 2 != 0 || c.countSt.busy then s
  else match c.heads [0] with
    | .marker m => if c.marksEor && m.kind == .eor then popIns s n [0] else passPlain s n [0] [4]
    | _ => s

/-- REDUCE consumes an EOD below LEVEL (R320). -/
def reduceMarker (s : State) (n : NodeRef) : State :=
  let c := s.cellAt n
  match c.heads c.ins with
  | .marker m => if redCloses c m.kind then s else popIns s n c.ins
  | _ => s

/-- NODE_MARKER_PASS (R31, R326). -/
def execNodeMarkerPass (n : NodeRef) (s : State) : Host.Outcome State Fault Refusal :=
  .next <|
    let c := s.cellAt n
    if !nodeOk s n c.kind then s
    else match c.kind with
      | .join => joinMarker s n
      | .steer => passPlain s n (if c.fld 1 0 2 = 0 then [0, 1] else [0]) c.outs
      | .merge => mergeMarker s n
      | .filter => passPlain s n (if c.fld 1 0 2 = 2 then [0] else [0, 1]) c.outs
      | .coalesce => (match c.heads [0] with
        | .marker m => coalMarker s n m
        | _ => s)
      | .fanout => s
      | .reduce => reduceMarker s n
      | .count => countMarker s n
      | .warp => passPlain s n [0] c.outs
      | .memory => if memValid c n.sub then (match c.heads (memIns c n.sub) with
        | .marker m => memMarker s n m
        | .bad => haltNode s n rateFault
        | _ => s) else s
      | .convert => (match c.heads [0] with
        | .marker m => convMarker s n m
        | _ => if convIdle c.convSt then s else convFlush s n)
      | .mac => macMarker s n
      | .actor => s
      | .unused => s

/-! ## PMK (R380) -/

/-- The key of a source or node within its instance: cell, and actor slot, MEMORY node, or 4 plus the
number of a stream port. -/
def nodeKey (n : NodeRef) : Nat × Nat := (16 * n.page + n.cell, n.sub)

/-- The launch of an instance is GATING. -/
def State.gating (s : State) (i : Nat) : Bool :=
  match s.launchOf (s.instLaunch i) with
  | some l => l.st == .gating
  | none => false

/-- Whether a source has emitted PMK. -/
def pmkSentBy (s : State) (n : NodeRef) : Bool :=
  match s.inst n.inst with
  | some x => x.pmkSent.contains (nodeKey n)
  | none => false
/-- Notes it. -/
def notePmk (s : State) (n : NodeRef) : State :=
  s.updInst n.inst fun x => { x with pmkSent := nodeKey n :: x.pmkSent }

/-- PMK of a pre-emption, or with payload bit 0 of a checkpoint (R385). -/
def pmkToken (ckpt : Bool) (tag : W64) : Token := { kind := .pmk ckpt, tag := tag }

/-- Whether a checkpoint of an instance's launch is under way. -/
def State.ckpting (s : State) (i : Nat) : Bool :=
  match s.launchOf (s.instLaunch i) with
  | some l => l.ckptAt.isSome && ckptOpen s (s.instLaunch i) l
  | none => false

/-- Whether a source slot stands at a checkpoint: every output waits for it or has ended (R385). -/
def slotAtCkpt (s : State) (i : Nat) (x : Slot) : Bool :=
  x.usedOut.all fun p => (x.port (4 + p)).eos || ckptHolds s i (x.port (4 + p)).round

/-- Whether a stream port stands at a checkpoint: it waits for it, or has ended (R385). -/
def portAtCkpt (s : State) (i : Nat) (q : SPort) : Bool :=
  q.closed || (q.buf.isEmpty && q.sent == 0 && ckptHolds s i q.round)

/-- SOURCE_PMK_EMIT (R380, R385): a source of a launch that is GATING emits PMK at a round boundary on each of its outputs,
once; at a checkpoint it emits PMK with payload bit 0. -/
def execSourcePmkEmit (n : NodeRef) (s : State) : Host.Outcome State Fault Refusal :=
  .next <|
    let c := s.cellAt n
    let tag := mkTag (s.instCtx n.inst).1 0 0 0
    let ckpt := !s.gating n.inst
    if (ckpt && !s.ckpting n.inst) || !s.nodeLive n || pmkSentBy s n then s
    else match c.kind with
      | .actor =>
        let x := s.slotAt n
        if !x.valid || !x.source || x.midRound || x.firing.isSome || (ckpt && !slotAtCkpt s n.inst x)
            || x.usedOut.any (fun p => (x.port (4 + p)).fill ≥ 16) then s
        else
          let put (x : Slot) (p : Nat) : Slot := x.setPort (4 + p) ((x.port (4 + p)).put (pmkToken ckpt tag))
          notePmk (s.updSlot n fun x => x.usedOut.foldl put x) n
      | .memory =>
        let p := n.sub - 4
        let h := s.nodeHam n
        if n.sub < 4 || declDir (c.word (32 + 2 * p)).toNat || !declUsed (c.word (32 + 2 * p)).toNat
            || (s.sport h p).midRound || (ckpt && !portAtCkpt s n.inst (s.sport h p)) || !canSend s n p 1 then s
        else notePmk (send s n p (pmkToken ckpt tag)) n
      | _ => s

/-- Marks a node as saved and passed. -/
def notePassed (s : State) (n : NodeRef) : State :=
  s.updInst n.inst fun x => { x with passed := nodeKey n :: x.passed }

/-- The inputs and outputs by which an operator takes and passes PMK, where it has nothing left to
send. -/
def pmkPorts (c : Cell) (n : NodeRef) : Option (List Nat × List Nat) :=
  match c.kind with
  | .memory =>
    let x := c.memSt n.sub
    if !memValid c n.sub || !x.idle then none
    else some (memIns c n.sub, (if memResult c n.sub then [memBase n.sub + 4] else [])
      ++ (if memOrdout c n.sub then [memBase n.sub + 5] else []))
  | .convert => if convIdle c.convSt then some ([0], c.outs) else none
  | .mac => if isHead c && !c.feed && c.macSt.out.isEmpty then some ([0, 1], [4]) else none
  | .fanout => none
  | .actor => none
  | .unused => none
  | _ => some (c.ins, c.outs)

/-- PMK_ARRIVAL (R380): a node with PMK on every used input saves its state, which stands in the
image, and passes PMK. -/
def execPmkArrival (n : NodeRef) (s : State) : Host.Outcome State Fault Refusal :=
  .next <|
    let c := s.cellAt n
    if !s.nodeLive n then s
    else match c.kind with
      | .actor =>
        let x := s.slotAt n
        match headMarkers x with
        | some (m :: rest) =>
          if (m :: rest).all Token.isPmk && x.firing.isNone && markerRoom x false then
            notePassed (passMarkers s n m) n
          else s
        | _ => s
      | .fanout =>
        (match c.front 0 with
         | some t =>
           if t.isPmk && branchRoom s n then
             let s := popIns s n [0]
             let c := s.cellAt n
             notePassed (s.setCellAt n { c with
               outq := c.outs.foldl (fun m p => mset m p (mgetD m p [] ++ [t.copy])) c.outq }) n
           else s
         | none => s)
      | k =>
        if k == .memory && n.sub ≥ 4 then
          -- a stream port that takes from the fabric
          let h := s.nodeHam n
          let q := s.sport h (n.sub - 4)
          match q.buf with
          | t :: rest =>
            if t.isPmk && declDir (c.word (32 + 2 * (n.sub - 4))).toNat then
              notePassed (s.setSport h (n.sub - 4) { q with buf := rest }) n
            else s
          | [] => s
        else
          match pmkPorts c n with
          | none => s
          | some (ps, outs) =>
            match c.heads ps with
            | .pmk m =>
              if allCan s n outs 1 then notePassed (sendAll (popIns s n ps) n outs m.copy) n else s
            | _ => s

end Sys2Proof.Machine
end

