-- ==== Sys2Proof/Machine/Blocks.lean ====
section
/-! DEFINITION. The loader's checks of an actor block (R108, R224 to R227, R293 to R305, R306): each answers the
CFG_REJECT subcode of the first refusal, or nothing. -/

namespace Sys2Proof.Machine

/-- CFG_REJECT subcode FORMAT (R271). -/
def sFormat : Nat := 1
/-- OPCODE. -/
def sOpcode : Nat := 2
/-- PLANE. -/
def sPlane : Nat := 3
/-- KIND. -/
def sKind : Nat := 4
/-- NOCONV. -/
def sNoconv : Nat := 5
/-- CYCLE. -/
def sCycle : Nat := 6
/-- RACE. -/
def sRace : Nat := 7
/-- PLACE. -/
def sPlace : Nat := 8
/-- CALL. -/
def sCall : Nat := 9
/-- PORT. -/
def sPort : Nat := 10
/-- HANDLE. -/
def sHandle : Nat := 11

/-- The first refusal of a list of checks: a condition that refuses, with its subcode. -/
def firstBad : List (Bool × Nat) → Option Nat
  | [] => none
  | (b, n) :: l => if b then some n else firstBad l

/-- Refuses with a subcode, or goes on. -/
def refuse (r : Option Nat) : Except Stop Unit :=
  match r with
  | some n => cfgReject n
  | none => .ok ()

/-- An actor instruction by its fields (R225). -/
structure AWord where
  opc : Nat
  pred : Nat
  t0 : Nat
  t1 : Nat
  imm : Nat
  ety : Nat
  rnd : Nat
  flags : Nat
  ab : Nat
  deriving DecidableEq, Repr

/-- The fields of a word. -/
def aword (w : W64) : AWord :=
  let f (lo n : Nat) : Nat := natField w.toNat lo n
  { opc := f 56 8, pred := f 54 2, t0 := f 43 11, t1 := f 32 11, imm := f 16 16
    ety := f 13 3, rnd := f 10 3, flags := f 8 2, ab := f 0 8 }

/-- What aux-b may hold. -/
inductive AuxB where
  | zero | inPort | outPort | h | q | tid | icc | fcc | redOp
  deriving DecidableEq, Repr

/-- Whether aux-b is one that the entry allows. -/
def AuxB.ok : AuxB → Nat → Bool
  | .zero, x => x == 0
  | .inPort, x => x ≤ 3
  | .outPort, x => 4 ≤ x && x ≤ 7
  | .h, x => x ≤ 15
  | .q, x => x ≤ 7
  | .tid, _ => true
  | .icc, x => x ≤ 5
  | .fcc, x => x ≤ 6
  | .redOp, x => 1 ≤ x && x ≤ 8

/-- What an opcode's entry allows: element types, flag values, aux-b, rounding codes, targets. -/
structure OpRule where
  types : List Nat := [0]
  flags : Nat := 0
  aux : AuxB := .zero
  rounds : Bool := false
  targets : Bool := true
  deriving DecidableEq, Repr

/-- Integer types. -/
def tInt : List Nat := [0, 1, 4, 5, 6]
/-- Every type but pred. -/
def tData : List Nat := [0, 1, 2, 3, 4, 5, 6]

/-- The entry of an opcode (R227, R296 to R305); `none` for an unused code.  `flags` is the greatest
flag value allowed; an untyped instruction has type 0. -/
def opRule (opc : Nat) : Option OpRule :=
  match opc with
  | 0x01 => some { aux := .inPort }
  | 0x02 => some { aux := .inPort, targets := false }
  | 0x03 => some { aux := .outPort, targets := false }
  | 0x04 => some { aux := .outPort, targets := false }
  | 0x05 => some { aux := .h }
  | 0x06 => some { aux := .h, targets := false }
  | 0x07 => some { aux := .q }
  | 0x08 => some { aux := .q, targets := false }
  | 0x09 => some { types := tData }
  | 0x0A => some { types := [0, 1, 2] }
  | 0x0B => some { types := tInt }
  | 0x0C => some { types := [0, 7], flags := 1, aux := .inPort }
  | 0x0D => some { types := [7] }
  | 0x0E => some {}
  | 0x30 => some { types := tInt, flags := 1, aux := .icc }
  | 0x31 => some { types := [2, 3], aux := .fcc }
  | 0x32 => some { types := [0, 1, 2, 3, 4, 5, 6, 7] }
  | 0x38 => some { rounds := true }
  | 0x39 => some { types := [2], rounds := true }
  | 0x3A => some { types := [3], flags := 1, rounds := true }
  | 0x3B => some { types := [2], flags := 1 }
  | 0x3C => some { types := [4, 5, 6], flags := 3 }
  | 0x3D => some { types := [0, 1, 4], flags := 3 }
  | 0x50 => some {}
  | 0x51 => some { targets := false }
  | 0x52 => some { flags := 1 }
  | 0x53 => some { aux := .redOp, targets := false }
  | 0x58 => some { aux := .tid }
  | 0x60 => some { aux := .outPort }
  | 0x61 => some { aux := .outPort, targets := false }
  | 0x62 => some { targets := false }
  | 0x63 => some { targets := false }
  | 0x64 => some { targets := false }
  | 0x68 => some { flags := 3 }
  | 0x69 => some { types := [2] }
  | 0x6A => some { types := tData, flags := 1 }
  | 0x6B => some { types := [2], aux := .tid, rounds := true }
  | o =>
    if 0x10 ≤ o && o ≤ 0x1F then some { types := tInt, flags := 1 }
    else if 0x20 ≤ o && o ≤ 0x27 then some { types := [2, 3], rounds := true }
    else if 0x28 ≤ o && o ≤ 0x2E then some { types := [2], rounds := true }
    else if o = 0x2F then some { types := [2, 3], flags := 3 }
    else if 0x33 ≤ o && o ≤ 0x37 then some { types := [7] }
    else if 0x40 ≤ o && o ≤ 0x48 then
      some { types := tData, flags := if o == 0x46 then 2 else 0, rounds := o == 0x43 || o == 0x46 }
    else none

/-- Whether a word's rounding code is one that its entry takes: RSUM and SCAN take them for
floating-point types only. -/
def roundOk (r : OpRule) (w : AWord) : Bool :=
  if r.rounds && !((w.opc == 0x43 || w.opc == 0x46) && !etyFloat w.ety) then w.rnd ≤ 4 else w.rnd == 0

/-- Index of a target word. -/
def tIndex (t : Nat) : Nat := natField t 2 7
/-- Slot of a target word. -/
def tSlot (t : Nat) : Nat := natField t 0 2
/-- Kind of a target word. -/
def tKind (t : Nat) : Nat := natField t 9 2

/-- A target word that R226 refuses, for instruction `i` of a block of `n` whose slot is `x`. -/
def targetBad (x : Slot) (i n : Nat) (some_ : Bool) (t : Nat) : Bool :=
  match tKind t with
  | 0 => t != 0
  | 1 => !some_ || tIndex t ≤ i || n ≤ tIndex t
  | 2 => !some_ || 3 < tIndex t || tSlot t != 0 || x.outRate (tIndex t) == 0
  | _ => !some_ || 23 < tIndex t || tSlot t != 0

/-- The registers a word writes at firing end: h as 0 to 15, q as 16 to 23 (R226). -/
def writesRegs (w : AWord) : List Nat :=
  (if w.opc = 0x06 then [w.ab] else if w.opc = 0x08 then [16 + w.ab] else [])
    ++ ([w.t0, w.t1].filter fun t => tKind t == 3).map tIndex

/-- Whether a register is in a slot's live masks. -/
def liveReg (x : Slot) (r : Nat) : Bool := if r < 16 then x.hf (40 + r) 1 == 1 else x.hf (56 + (r - 16)) 1 == 1

/-- The refusals of one instruction by its port, register and immediate (R306). -/
def entryBad (x : Slot) (w : AWord) : Bool :=
  let inRate := x.inRate w.ab
  let outRate := x.outRate (w.ab - 4)
  match w.opc with
  | 0x01 => inRate ≤ w.imm
  | 0x02 => w.imm < 1 || 16 < w.imm
  | 0x03 => outRate ≤ w.imm
  | 0x04 => w.imm < 1 || 16 < w.imm || outRate == 0
  | 0x05 => !liveReg x w.ab
  | 0x07 => !liveReg x (16 + w.ab)
  | 0x0C =>
    if w.flags = 1 then w.ety != 7 || w.ab != 0 || w.imm != 0 else w.ety != 0 || inRate ≤ w.imm
  | 0x58 => 7 < w.imm
  | 0x60 => outRate == 0
  | 0x61 =>
    let k := w.imm % 8
    32 ≤ w.imm || k < 2 || 4 < k || outRate == 0 || (k != 2 && !x.source)
  | 0x62 => 4095 < w.imm
  | 0x63 => 7 < w.imm
  | _ => false

/-- Whether instruction `i` is refused with OPCODE, its producers apart. -/
def instrBad (x : Slot) (n i : Nat) (w : AWord) : Bool :=
  match opRule w.opc with
  | none => true
  | some r =>
    w.pred == 3 || !r.types.contains w.ety || r.flags < w.flags || !roundOk r w || !r.aux.ok w.ab
      || targetBad x i n r.targets w.t0 || targetBad x i n r.targets w.t1 || entryBad x w

/-- The operand slots that targets of kind 01 fill, as 4 × instruction + slot. -/
def filledSlots (ws : List AWord) : List Nat :=
  ws.flatMap fun w => ([w.t0, w.t1].filter fun t => tKind t == 1).map fun t => 4 * tIndex t + tSlot t

/-- Whether a list of numbers names one twice. -/
def hasDup : List Nat → Bool
  | [] => false
  | x :: l => l.contains x || hasDup l

/-- Producers (R226): no slot twice, every slot read, slot P exactly under predication. -/
def producersBad (ws : List AWord) : Bool :=
  let f := filledSlots ws
  hasDup f || ws.zipIdx.any fun (w, i) =>
    f.contains (4 * i + 3) != (w.pred != 0)
      || (List.range 3).any fun k => (slotsRead w.opc w.flags).testBit k && !f.contains (4 * i + k)

/-- The scratchpad order of R294: at most one SPLDSYN, and no SPST or SPRED before it. -/
def syncBad (ws : List AWord) : Bool :=
  let ops := ws.map (·.opc)
  1 < (ops.filter (· == 0x52)).length
    || (ops.contains 0x52 && (ops.takeWhile (· != 0x52)).any fun o => o == 0x51 || o == 0x53)

/-- The refusal of a block whose slot would be `x`, against the plane masks of its cell record
(R224, R306). -/
def blockRefusal (x : Slot) (inMask outMask : Nat) : Option Nat :=
  let ws := x.code.map aword
  let n := x.size
  let regs := ws.flatMap writesRegs
  firstBad [
    (x.hf 91 5 != 0 || 2 < x.hf 76 4, sFormat),
    (x.hf 72 4 != outMask || x.hf 68 4 != inMask, sPlane),
    ((List.range 4).any (fun p => x.repl p && !x.inCtrl p), sPlane),
    (x.source && x.closing, sOpcode),
    (ws.zipIdx.any (fun (w, i) => instrBad x n i w), sOpcode),
    (producersBad ws || syncBad ws, sOpcode),
    (hasDup regs || regs.any (fun r => !liveReg x r), sOpcode)]

end Sys2Proof.Machine
end

