-- ==== Sys2Proof/Machine/Loader.lean ====
section
/-! DEFINITION. The loader: a graph image into a graph (R194, R195, R418, R419), and every check that refuses one
(R16, R22, R28, R48, R54, R170, R172, R306, R310, R312 to R325, R392, R393, R398, R399; log 16). -/

namespace Sys2Proof.Machine

/-! ## Records -/

/-- A little-endian field of a byte list. -/
def bfld (bs : List Byte) (o n : Nat) : Nat := leNat ((bs.drop o).take n)

/-- A kind code (R16). -/
def kindOf : Nat → Option Kind
  | 0 => some .join | 1 => some .steer | 2 => some .merge | 3 => some .filter | 4 => some .coalesce
  | 5 => some .fanout | 6 => some .reduce | 7 => some .count | 8 => some .warp | 9 => some .memory
  | 10 => some .convert | 11 => some .mac | _ => none

/-- Whether a cell accepts a kind (R13, R16). -/
def cellTakes (i : Nat) (actor : Bool) (code : Nat) : Bool :=
  if actor then code == 0 && 8 ≤ i && i ≤ 11
  else if i < 8 then code == 11
  else if i < 12 then false
  else if i < 15 then code ≤ 8 || (i == 14 && code == 10)
  else code == 9

/-- Parameter words of a kind (R114). -/
def wordCount : Kind → Nat
  | .convert => 16 | .actor => 64 | .memory => 256 | _ => 32

/-- Parameter words other than 0, from word `i` on. -/
def takeWords (bs : List Byte) (i n : Nat) : SMap W64 :=
  (List.range n).filterMap fun k =>
    let v := bfld bs (8 * k) 8
    if v = 0 then none else some (i + k, BitVec.ofNat 64 v)

/-- A parameter word of a record. -/
def CellRec.w (c : CellRec) (i : Nat) : Nat := (mgetD c.words i 0).toNat
/-- A field of a parameter word. -/
def CellRec.fld (c : CellRec) (i lo n : Nat) : Nat := natField (c.w i) lo n
/-- Input plane mask of an actor slot, or of the cell. -/
def CellRec.inMask (c : CellRec) (a : Nat) : Nat :=
  if a < 2 then natField c.ctrl.toNat (8 + 4 * a) 4 else natField c.in2.toNat (4 * (a - 2)) 4
/-- Output plane mask of an actor slot, or of the cell. -/
def CellRec.outMask (c : CellRec) (a : Nat) : Nat :=
  if a < 2 then natField c.ctrl.toNat (16 + 4 * a) 4 else natField c.out2.toNat (4 * (a - 2)) 4
/-- The slot that a block of the record makes. -/
def Block.slot (b : Block) : Slot := { hdr := b.hdr, code := b.code, valid := true }

/-- The empty record. -/
def CellRec.unused : CellRec :=
  { kind := .unused, ctrl := 0, words := [], in2 := 0, out2 := 0, tokens := [], blocks := [] }

/-- An initial token (R419): the port, and the token with context 0; `none` where it is malformed. -/
def initToken (bs : List Byte) : Option (Nat × Token) :=
  let k := bfld bs 0x51 1
  let kind : Option TokKind := match k % 8 with
    | 0 => some .data | 1 => some .control | 2 => some (.eod (k / 8 % 4)) | 3 => some .eor
    | 4 => some .eos | _ => none
  if 32 ≤ k || bfld bs 0x52 14 != 0 then none
  else kind.map fun kd =>
    (bfld bs 0x50 1, { kind := kd, data := BitVec.ofNat 512 (bfld bs 0 64)
                       mask := BitVec.ofNat 64 (bfld bs 0x40 8), tag := BitVec.ofNat 64 (bfld bs 0x48 8) })

/-- The block image at an offset of an extension (R224, R418). -/
def blockAt (ext : List Byte) (o : Nat) : Block :=
  let hdr := bfld ext o 16
  { hdr := BitVec.ofNat 128 hdr
    code := (List.range (hdr % 128 + 1)).map fun j => BitVec.ofNat 64 (bfld ext (o + 16 + 8 * j) 8) }

/-- The slots of an actor cell that hold a block, with their IMAGE offsets. -/
def imagesOf (ws : SMap W64) : List (Nat × Nat) :=
  (List.range 4).filterMap fun a =>
    let v := (mgetD ws (16 * a + 2) 0).toNat
    if v.testBit 63 then some (a, v % 2 ^ 32) else none

/-- Whether the block images of an extension lie wrong (R418): `lo` is the end of its tokens. -/
def imagesBad (ext : List Byte) (lo : Nat) (l : List (Nat × Nat)) : Bool :=
  let size (o : Nat) : Nat := 16 + 8 * (bfld ext o 1 % 128 + 1)
  l.any (fun x => x.2 % 16 != 0 || x.2 < lo || ext.length < x.2 + 16 || ext.length < x.2 + size x.2)
    || l.any fun x => l.any fun y => x.1 != y.1 && x.2 < y.2 + size y.2 && y.2 < x.2 + size x.2

/-- What reads an image: `n` bytes at an offset, and which of the `n` granules from an offset on hold a tagged
capability. -/
structure Reader where
  bytes : State → Nat → Nat → Except Stop (List Byte × State)
  tags : State → Nat → Nat → List Nat

/-- The tagged ones of `n` granules of an image; none where the image's granules are not those of memory, or its
capability lacks LDC, which R122 gives for loading a capability with its tag (DEDUCED, log 66). -/
def imageTags (x : Acx) (k : Cap) (s : State) (o n : Nat) : List Nat :=
  if s.mem.tags.isEmpty || (k.addr + o) % 16 != 0 || !permsIn pLDC k.perms then []
  else (List.range n).filter fun i =>
    match locate s x k.space (k.addr + o + 16 * i) rR with
    | .ok (.phys a) => s.mem.tagAt a && !isHost a
    | _ => false

/-- Reads an image at a capability's address; every part lies in its bounds (R124, R194, R270). -/
def imageReader (x : Acx) (k : Cap) : Reader where
  bytes s o n :=
    if n = 0 then .ok ([], s)
    else do
      let ea ← checkCapAt k (k.offset + o) (some n) 1 clConfigure
      readSpan s x k.space (n / 0x10000 + 2) ea n
  tags := imageTags x k

/-- A cell record from its 160 bytes (R195, R418), with what its extension holds.  DESIGN CHOICE (log 66): the 16-byte
boundary on which an extension begins is counted from the parameter section's first byte, as its offset is. -/
def cellRec (rd : Reader) (parm i : Nat) (r : List Byte) (s : State) : Except Stop (CellRec × State) := do
  let cw := bfld r 0 8
  let off := cw >>> 32
  let len := bfld r 136 8
  let init := natField cw 24 8
  let actor := cw.testBit 4
  refuse (firstBad [(natField cw 6 2 != 0 || bfld r 146 14 != 0, sFormat)])
  if cw.testBit 5 then do
    refuse (firstBad [(off != 0 || len != 0 || init != 0 || bfld r 144 2 != 0, sFormat)])
    .ok (CellRec.unused, s)
  else do
    let code := cw % 16
    refuse (firstBad [(!cellTakes i actor code, sKind)])
    let kind := if actor then .actor else (kindOf code).getD .unused
    let masks := natField cw 8 16
    refuse (firstBad [
      (!actor && (bfld r 144 2 != 0 || natField cw 12 4 != 0 || natField cw 20 4 != 0), sFormat),
      (kind == .memory && masks != 0, sFormat),
      (off == 0 && (len != 0 || init != 0), sFormat),
      (off % 16 != 0, sFormat)])
    let p1 := 8 * (wordCount kind - 16)
    let lo := p1 + 96 * init
    refuse (firstBad [(off != 0 && len < lo, sFormat)])
    let (ext, s) ← if off = 0 then Except.ok ([], s) else rd.bytes s (parm + off) len
    let words := takeWords (r.drop 8) 0 16 ++ takeWords ext 16 (if off = 0 then 0 else p1 / 8)
    let toks := (List.range init).map fun t => initToken ((ext.drop (p1 + 96 * t)).take 96)
    refuse (firstBad [(toks.any Option.isNone, sFormat)])
    let imgs := if actor then imagesOf words else []
    refuse (firstBad [(imagesBad ext lo imgs, sFormat)])
    .ok ({ kind := kind, ctrl := BitVec.ofNat 64 cw, words := words
           in2 := BitVec.ofNat 8 (bfld r 144 1), out2 := BitVec.ofNat 8 (bfld r 145 1)
           tokens := toks.filterMap id, blocks := imgs.map fun x => (x.1, blockAt ext x.2)
           ctags := if kind = .memory && off != 0 then rd.tags s (parm + off + 384) 96 else [] }, s)

/-- The cell records of a page from cell `16 - n`. -/
def cellRecs (rd : Reader) (parm : Nat) (page : List Byte) :
    Nat → State → Except Stop (List CellRec × State)
  | 0, s => .ok ([], s)
  | n + 1, s => do
    let i := 15 - n
    let (c, s) ← cellRec rd parm i ((page.drop (0x80 + 0xA0 * i)).take 0xA0) s
    let (cs, s) ← cellRecs rd parm page n s
    .ok (c :: cs, s)

/-- A route word, or a link's first doubleword, between two pages (R195); `none` where malformed. -/
def routeOf (w sp dp : Nat) : Option Route :=
  if !w.testBit 63 || natField w 21 42 != 0 then none
  else some { sp := sp, sc := w % 16, sport := natField w 4 6, dp := dp, dc := natField w 10 4
              dport := natField w 14 6, ctrl := w.testBit 20 }

/-- A page of the image.  DESIGN CHOICE (log 66), safe: a page whose SMITHY or INIT flag does not say what R195 gives it to
say is refused with FORMAT. -/
def pageOf (rd : Reader) (pageoff parm j : Nat) (s : State) :
    Except Stop ((List CellRec × List Route) × State) := do
  let (b, s) ← rd.bytes s (pageoff + 4096 * j) 4096
  let nr := bfld b 4 2
  refuse (firstBad [(bfld b 0 2 != j || 4 ≤ bfld b 2 1 || bfld b 3 1 != 0 || (b.take 0x80).drop 6 != List.replicate 0x7A 0
    || 176 < nr, sFormat)])
  let (cs, s) ← cellRecs rd parm b 16 s
  let rs := (List.range nr).map fun k => routeOf (bfld b (0xA80 + 8 * k) 8) j j
  refuse (firstBad [
    ((bfld b 2 1).testBit 0 != cs.any (·.kind == .convert), sFormat),
    ((bfld b 2 1).testBit 1 != cs.any (!·.tokens.isEmpty), sFormat),
    (rs.any Option.isNone, sFormat)])
  .ok ((cs, rs.filterMap id), s)

/-- The pages of the image from page `np - n`. -/
def pagesOf (rd : Reader) (pageoff parm np : Nat) :
    Nat → State → Except Stop ((List (List CellRec) × List Route) × State)
  | 0, s => .ok (([], []), s)
  | n + 1, s => do
    let ((c, r), s) ← pageOf rd pageoff parm (np - (n + 1)) s
    let ((cs, rs), s) ← pagesOf rd pageoff parm np n s
    .ok ((c :: cs, r ++ rs), s)

/-! ## Ports -/

/-- A used port of a cell. -/
structure PortUse where
  port : Nat
  input : Bool
  ctrl : Bool
  deriving DecidableEq, Repr

/-- The ports of a side-call entry, by route number: arguments and results (R284). -/
def sidePorts (c : CellRec) (a : Nat) : List Nat :=
  (List.range 8).flatMap fun k =>
    let v := c.w (16 * a + 4 + k)
    if v.testBit 63 then
      ((List.range 4).filter fun p => v.testBit (8 + p)).map (8 * a + 4 + ·)
        ++ ((List.range 4).filter fun p => v.testBit (12 + p)).map (8 * a + ·)
    else []

/-- The used ports of a record (R195, R308, R322, R392). -/
def CellRec.uses (c : CellRec) : List PortUse :=
  match c.kind with
  | .unused => []
  | .actor => c.blocks.flatMap fun (a, b) =>
      let x := b.slot
      x.usedIn.map (fun p => ⟨8 * a + p, true, x.inCtrl p⟩)
        ++ x.usedOut.map fun p => ⟨8 * a + 4 + p, false, x.outCtrl p⟩
  | .memory =>
    let streams : List PortUse := (List.range 16).filterMap fun p =>
      let d := c.w (32 + 2 * p)
      if declUsed d then some ⟨p, declDir d, declCtrl d⟩ else none
    let nodes : List PortUse := ((List.range 4).filter fun k => c.fld 0 (4 + k) 1 == 1).flatMap fun k =>
      let f (lo n : Nat) : Nat := c.fld (1 + 4 * k) lo n
      let m := f 0 3
      let b := 16 + 8 * k
      let vec := f 3 3 == 6 || 2 ≤ m
      [⟨b, true, m < 2⟩]
        ++ (if m = 1 || m = 3 || m = 4 then [⟨b + 1, true, !vec⟩] else [])
        ++ (if f 11 1 = 1 then [⟨b + 2, true, true⟩] else [])
        ++ (if f 13 1 = 1 then [⟨b + 3, true, true⟩] else [])
        ++ (if m = 0 || m = 2 then [⟨b + 4, false, !vec⟩] else [])
        ++ (if f 12 1 = 1 then [⟨b + 5, false, true⟩] else [])
    streams ++ nodes
  | _ =>
    ((List.range 4).filter fun p => c.fld 0 (4 + p) 1 == 1).map (fun p => ⟨p, true, (c.inMask 0).testBit p⟩)
      ++ ((List.range 4).filter fun p => c.fld 0 (8 + p) 1 == 1).map fun p =>
        ⟨4 + p, false, (c.outMask 0).testBit p⟩

/-- The use of a port. -/
def CellRec.use (c : CellRec) (port : Nat) : Option PortUse := c.uses.find? (·.port == port)

/-- Whether a used port is on the data plane. -/
def CellRec.dataPort (c : CellRec) (port : Nat) : Bool :=
  match c.use port with
  | some u => !u.ctrl
  | none => false

/-! ## Words of a kind (R308 to R324) -/

/-- Whether a word has a bit outside a mask. -/
def CellRec.outside (c : CellRec) (i mask : Nat) : Bool := c.w i &&& mask != c.w i
/-- Whether words `i`, …, `i + n - 1` hold anything. -/
def CellRec.anyIn (c : CellRec) (i n : Nat) : Bool := c.words.any fun x => i ≤ x.1 && x.1 < i + n && x.2 != 0

/-- The refusals of word 0 and of the words that a kind does not use. -/
def commonBad (c : CellRec) (code m1 m2 m3 : Nat) : List (Bool × Nat) :=
  [(c.fld 0 0 4 != code, sKind),
   (c.outside 0 0xFF0FFF || 4 < c.fld 0 21 3 || c.fld 0 18 3 == 7 || c.fld 0 16 2 == 3, sFormat),
   (c.outside 1 m1 || c.outside 2 m2 || c.outside 3 m3 || c.anyIn 4 28, sFormat)]

/-- INUSE. -/
def CellRec.inUse (c : CellRec) : Nat := c.fld 0 4 4
/-- OUTUSE. -/
def CellRec.outUse (c : CellRec) : Nat := c.fld 0 8 4

/-- Whether a kind that passes on or repacks what it takes would send a scalar of a control-plane input out on a
data-plane output, which R28 allows a FANOUT with REPL, a JOIN in SCALARS mode and a COUNT in VEC mode only. -/
def CellRec.lifts (c : CellRec) (ins outs : List Nat) : Bool :=
  ins.any (fun p => match c.use p with
    | some u => u.input && u.ctrl
    | none => false)
  && outs.any fun p => c.dataPort (4 + p)

/-- Refusals of a JOIN (R312, R325). -/
def joinBad (c : CellRec) : List (Bool × Nat) :=
  let calls := c.fld 1 8 1 == 1
  let rets := c.fld 1 9 1 == 1
  let n := ((List.range 4).filter fun p => c.inUse.testBit p).length
  commonBad c 0 0x3337 0xFF 0 ++ [
    (calls && (rets || c.outUse != 1), sCall), (rets && c.outUse != 0, sCall),
    ((calls || rets) && 8 < (c.fld 1 12 2 + 1) * n, sCall),
    (c.outUse &&& 0xE != 0, sFormat),
    (c.fld 1 4 2 == 1 && c.inUse != 3, sFormat), (c.fld 1 4 2 == 2 && c.inUse != 15, sFormat),
    (calls && (List.range 4).any (c.dataPort ·), sPlane),
    (!calls && c.fld 1 4 2 != 3 && c.lifts (if c.fld 1 4 2 = 0 then [0] else [0, 1, 2, 3]) [0], sPlane)]

/-- Refusals of a STEER (R313). -/
def steerBad (c : CellRec) : List (Bool × Nat) :=
  let m := c.fld 2 0 16
  let idx := c.fld 1 0 2 == 2
  commonBad c 1 0x3F73 (2 ^ 64 - 1) 0 ++ [
    (5 < c.fld 1 4 3 || c.fld 1 0 2 == 3, sFormat),
    (idx && (m == 0 || m ≤ c.fld 2 16 16 || c.w 2 ≥ 2 ^ 32 || c.fld 1 8 6 != 0 || c.fld 1 4 3 != 0
      || c.inUse.testBit 1), sFormat),
    (c.fld 1 0 2 == 0 && c.dataPort 1, sPlane), (c.dataPort 6, sPlane), (c.lifts [0] [0, 1], sPlane)]

/-- Refusals of the other operators that one word configures. -/
def opBad (c : CellRec) : List (Bool × Nat) :=
  match c.kind with
  | .merge => commonBad c 2 0x3F07 0 0 ++ [(c.fld 1 0 2 == 3, sFormat), (c.dataPort 2, sPlane),
      (c.lifts [0, 1] [0], sPlane)]
  | .filter => commonBad c 3 0x3 0 0 ++ [(c.fld 1 0 2 == 3, sFormat), (c.lifts [0] [0], sPlane)]
  | .coalesce => commonBad c 4 0 0 0 ++ [(c.inUse &&& 0xE != 0, sFormat), (c.lifts [0] [0], sPlane)]
  | .fanout => commonBad c 5 0x1FFFF 0 0 ++ [(c.inUse &&& 0xE != 0, sFormat),
      (c.fld 1 16 1 == 1 && c.dataPort 0, sPlane), (c.fld 1 16 1 == 0 && c.lifts [0] [0, 1, 2, 3], sPlane)]
  | .reduce => commonBad c 6 0x7F 0 0 ++ [(4 < c.fld 1 4 3 || 8 < c.fld 1 0 4, sFormat),
      (decide (6 ≤ c.fld 1 0 4) != etyFloat (c.fld 0 18 3), sFormat), (c.lifts [0, 1, 2, 3] [0], sPlane)]
  | .count => commonBad c 7 0x19FF 0 0 ++ [(decide (2 ≤ c.fld 1 0 2), sFormat), (c.dataPort 0, sPlane),
      (c.lifts [0] ((List.range 4).filter fun p => p != 0 || c.fld 1 12 1 = 0 || c.fld 1 0 2 != 0),
        sPlane)]
  | .warp => commonBad c 8 0xFFFF 0 0 ++ [(c.outUse.testBit 2 && c.fld 1 8 8 == 0, sFormat)]
  | _ => []

/-- Refusals of a CONVERT (R323): an unknown format, or a target that R323 excludes. -/
def convertBad (c : CellRec) : List (Bool × Nat) :=
  let t := c.fld 1 8 5
  let f := c.fld 1 0 5
  commonBad c 10 0xFF011F1F 0 0 ++ [
    (t == 20 || t == 21 || t == 22 || t == 23 || 24 ≤ t || 24 ≤ f, sFormat),
    (fmtBlock f != 0 && c.fld 1 24 8 == 0, sFormat),
    (isMx t && !c.outUse.testBit 1, sFormat), (c.lifts [0] [0, 1], sPlane)]

/-- Refusals of a MAC cell (R324, R393): formats, a scaled operand with no descriptor, the columns, and
the ports that only a head has. -/
def macBad (c : CellRec) : List (Bool × Nat) :=
  let sys := c.fld 1 19 1 == 1
  let head := !sys || (c.fld 2 0 4 == 0)
  let ports := if head && c.fld 1 20 1 == 0 then c.inUse &&& 0xC == 0 && c.outUse &&& 0xE == 0
    else c.inUse == 0 && c.outUse == 0
  let mw := if sys then c.fld 2 4 4 + 1 else 1
  commonBad c 11 0x1F9F1F 0xFF01FF 0x000F1FFF0000FFFF ++ [
    (24 ≤ c.fld 1 8 5 || 24 ≤ c.fld 1 0 5, sFormat),
    (fmtBlock (c.fld 1 8 5) != 0 && c.fld 3 8 8 == 0, sFormat),
    (fmtBlock (c.fld 1 0 5) != 0 && c.fld 3 0 8 == 0, sFormat),
    (decide (32 * mw < c.fld 2 16 8), sFormat), (sys && decide (8 ≤ c.fld 2 4 4), sFormat), (!ports, sFormat)]

/-- The access class of a MEMORY mode (R123, R396). -/
def modeClass (m : Nat) : AClass := match m with
  | 0 => clLoad | 2 => clLoad | 1 => clStore | 3 => clStore | _ => clReduce

/-- Whether a capability lacks what a MEMORY node of a mode needs: EN, its class and no seal (R325, R396). -/
def modeRefused (m : Nat) (k : Cap) : Bool :=
  k.otype != 0 || !permsIn (modeClass m).engine.perms k.perms || !(modeClass m).engine.spaces.contains k.space

/-- Capability `n` of a port cell's record. -/
def CellRec.cap (c : CellRec) (n : Nat) : Cap :=
  ⟨BitVec.ofNat 64 (c.w (65 + 2 * n)) ++ BitVec.ofNat 64 (c.w (64 + 2 * n)), c.ctags.contains n⟩

/-- Refusals of MEMORY node `k` of a port cell (R322; of its capability where the words hold a tagged one, R325, R396). -/
def nodeBad (c : CellRec) (k : Nat) : Bool :=
  let b := 1 + 4 * k
  let f (lo n : Nat) : Nat := c.fld b lo n
  let m := f 0 3
  let z := f 3 3
  if c.fld 0 (4 + k) 1 = 0 then c.anyIn b 4
  else
    2 ^ 29 ≤ c.w b || 4 < m || (3 < z && !(z == 6 && m < 2))
      || (if m = 4 then f 6 4 == 0 || 8 < f 6 4 else f 6 4 != 0)
      || (f 10 1 == 1 && (m != 4 || f 6 4 == 7)) || (f 13 1 == 1 && (m == 0 || m == 2))
      || 95 < f 14 7 || 2 ^ 40 ≤ c.w (b + 1) || 2 ^ 40 ≤ c.w (b + 2) || c.w (b + 3) != 0
      || ((c.cap (f 14 7)).tag && modeRefused m (c.cap (f 14 7)))

/-- Refusals of a port cell (R322, R392). -/
def portCellBad (c : CellRec) : List (Bool × Nat) :=
  [(c.fld 0 0 4 != 9, sKind),
   (c.outside 0 0xFF || c.anyIn 17 15, sFormat),
   ((List.range 16).any (fun p => c.outside (32 + 2 * p) 0xC200 || c.w (33 + 2 * p) != 0), sFormat),
   ((List.range 4).any (nodeBad c), sFormat)]

/-- Refusals of an actor cell (R284, R306). -/
def actorBad (c : CellRec) : Option Nat :=
  let slotBad (a : Nat) : Bool :=
    c.outside (16 * a + 2) (2 ^ 63 + 2 ^ 32 - 1) || c.outside (16 * a + 3) 0xFF || c.anyIn (16 * a + 12) 4
  if (List.range 4).any slotBad then some sFormat
  else c.blocks.findSome? fun (a, b) => blockRefusal b.slot (c.inMask a) (c.outMask a)

/-- The refusal of a cell's words. -/
def wordsRefusal (c : CellRec) : Option Nat :=
  match c.kind with
  | .unused => none
  | .join => firstBad (joinBad c)
  | .steer => firstBad (steerBad c)
  | .convert => firstBad (convertBad c)
  | .mac => firstBad (macBad c)
  | .memory => firstBad (portCellBad c)
  | .actor => actorBad c
  | _ => firstBad (opBad c)

/-- The element count of an input (R27, R419). -/
def elemsOf (c : CellRec) (u : PortUse) : Nat :=
  if u.ctrl then 1
  else match c.kind with
    | .actor => 512 / (match mget c.blocks (u.port / 8) with | some b => b.slot.width | none => 8)
    | .memory => 64
    | _ => 16 * 2 ^ c.fld 0 16 2

/-- The refusal of a cell's initial tokens (R419). -/
def tokensRefusal (c : CellRec) : Option Nat :=
  let room := if c.kind = .actor then 16 else 8
  c.tokens.findSome? fun (p, t) =>
    match c.use p with
    | none => some sFormat
    | some u => firstBad [
        (!u.input || 2 ^ elemsOf c u ≤ t.mask.toNat || room < (c.tokens.filter (·.1 == p)).length, sFormat),
        (u.ctrl && (t.kind == .control || 2 ^ 64 ≤ t.data.toNat), sPlane)]

/-! ## The graph as a whole -/

/-- A record of a graph. -/
def recAt (pages : List (List CellRec)) (p c : Nat) : CellRec :=
  match pages[p]? with
  | some l => l.getD c CellRec.unused
  | none => CellRec.unused

/-- Every record with its place. -/
def allRecs (pages : List (List CellRec)) : List (Nat × Nat × CellRec) :=
  pages.zipIdx.flatMap fun (l, p) => l.zipIdx.map fun (c, i) => (p, i, c)

/-- The part of a cell that a port belongs to: actor slot, MEMORY node after the stream ports, or the
cell. -/
def partOf (c : CellRec) (port : Nat) : Nat :=
  match c.kind with
  | .actor => port / 8
  | .memory => if port < 16 then 100 + port else port / 8
  | _ => 0

/-- Whether a route leaves the node that another enters. -/
def feeds (pages : List (List CellRec)) (a b : Route) : Bool :=
  let c := recAt pages a.dp a.dc
  a.dp == b.sp && a.dc == b.sc && partOf c a.dport == partOf c b.sport

/-- The refusal of the routes (R28, R310, R325). -/
def routesRefusal (pages : List (List CellRec)) (exempt : Nat → Nat → Nat → Bool) (rs : List Route) :
    Option Nat :=
  let np := pages.length
  let src (r : Route) := (r.sp, r.sc, r.sport)
  let dst (r : Route) := (r.dp, r.dc, r.dport)
  let planes (r : Route) : Option Nat :=
    match (recAt pages r.sp r.sc).use r.sport, (recAt pages r.dp r.dc).use r.dport with
    | some a, some b => firstBad [(a.input || !b.input, sPort), (a.ctrl != r.ctrl || b.ctrl != r.ctrl, sPlane)]
    | _, _ => some sPort
  let unrouted (x : Nat × Nat × CellRec) : Bool := x.2.2.uses.any fun u =>
    !exempt x.1 x.2.1 u.port &&
      if u.input then !rs.any (fun r => dst r == (x.1, x.2.1, u.port))
      else !rs.any fun r => src r == (x.1, x.2.1, u.port)
  let twice (f : Route → Nat × Nat × Nat) : Bool := !(rs.map f).Nodup
  match firstBad [(rs.any (fun r => np ≤ r.sp || np ≤ r.dp), sFormat), (twice src || twice dst, sFormat)] with
  | some n => some n
  | none => match rs.findSome? planes with
    | some n => some n
    | none => if (allRecs pages).any unrouted then some sPort else none

/-- Whether a route's destination holds an initial token: it breaks every cycle through it (R54,
R316). -/
def breaks (pages : List (List CellRec)) (r : Route) : Bool :=
  let c := recAt pages r.dp r.dc
  c.tokens.any (·.1 == r.dport) || (c.kind == .merge && c.fld 1 0 2 == 2 && r.dport == 1)

/-- The routes that still have a predecessor, after `n` rounds of removing those that have none. -/
def onCycle (pages : List (List CellRec)) : Nat → List Route → List Route
  | 0, rs => rs
  | n + 1, rs => onCycle pages n (rs.filter fun b => rs.any fun a => !breaks pages a && feeds pages a b)

/-- The routes that a set of routes leads to, by `n` rounds, where `stop` ends a path. -/
def reach (pages : List (List CellRec)) (stop : Route → Bool) (rs : List Route) :
    Nat → List Route → List Route
  | 0, l => l
  | n + 1, l => reach pages stop rs n
      (l ++ rs.filter fun b => !l.contains b && l.any fun a => !stop a && feeds pages a b)

/-- Whether an input takes the stream of an output: routed from it, or from a FANOUT that copies it (R319).  DEDUCED (log
64): R310 gives an output one circuit, and R316 sends one stream to every write node of a body. -/
def takesFrom (pages : List (List CellRec)) (rs : List Route) (sp sc sport : Nat) : Nat → Nat → Nat → Nat → Bool
  | 0, _, _, _ => false
  | fuel + 1, p, c, port => rs.any fun q =>
    q.dp == p && q.dc == c && q.dport == port &&
      ((q.sp == sp && q.sc == sc && q.sport == sport)
        || ((recAt pages q.sp q.sc).kind == .fanout && takesFrom pages rs sp sc sport fuel q.sp q.sc 0))

/-- Whether a node that a route enters may not stand in a loop whose window exceeds 1 (R45, R316):
`cp`, `cc` is the loop's COUNT. -/
def loopBad (pages : List (List CellRec)) (rs : List Route) (cp cc : Nat) (r : Route) : Bool :=
  let c := recAt pages r.dp r.dc
  match c.kind with
  | .join => true
  | .reduce => true
  | .mac => c.fld 1 15 1 == 1
  | .actor =>
    (match mget c.blocks (r.dport / 8) with
     | some b => b.slot.closing || b.slot.hf 40 24 != 0
         || b.code.any fun w => (aword w).opc == 0x51 || (aword w).opc == 0x53
     | none => false)
  | .memory =>
    let k := (r.dport - 16) / 8
    let m := c.fld (1 + 4 * k) 0 3
    16 ≤ r.dport && (m == 1 || m == 3 || m == 4) &&
      !(c.fld (1 + 4 * k) 13 1 == 1 && takesFrom pages rs cp cc 5 rs.length r.dp r.dc (19 + 8 * k))
  | _ => false

/-- Whether a LOOPHEAD MERGE heads a loop that R316 refuses. -/
def loopRefused (pages : List (List CellRec)) (rs : List Route) (x : Nat × Nat × CellRec) : Bool :=
  let (p, i, c) := x
  if c.kind != .merge || c.fld 1 0 2 != 2 then false
  else match rs.find? fun r => r.dp == p && r.dc == i && r.dport == 2 with
    | none => false
    | some q =>
      let k := recAt pages q.sp q.sc
      if k.kind != .count || k.fld 1 0 2 != 1 || k.fld 1 2 6 == 0 then false
      else
        let exit (r : Route) : Bool := (recAt pages r.dp r.dc).kind == .filter &&
          (List.range 4).any fun i => takesFrom pages rs q.sp q.sc 6 rs.length r.dp r.dc i
        let stop (r : Route) : Bool :=
          (r.dp == p && r.dc == i) || (r.dp == q.sp && r.dc == q.sc) || exit r
        let body := reach pages stop rs rs.length (rs.filter fun r => r.sp == p && r.sc == i && r.sport == 4)
        body.any fun r => !stop r && loopBad pages rs q.sp q.sc r

/-- A MEMORY node with its declared range (R172). -/
structure MemRange where
  page : Nat
  node : Nat
  space : Nat
  lo : Nat
  hi : Nat
  writes : Bool
  ordered : Bool
  deriving DecidableEq, Repr

/-- The declared ranges of a graph's MEMORY nodes; a node whose capability words are all 0 declares
none (log 29). -/
def memRanges (pages : List (List CellRec)) : List MemRange :=
  (allRecs pages).flatMap fun (p, _, c) =>
    if c.kind != .memory then []
    else ((List.range 4).filter fun k => c.fld 0 (4 + k) 1 == 1).filterMap fun k =>
      let m := c.fld (1 + 4 * k) 0 3
      let n := c.fld (1 + 4 * k) 14 7
      let cap := c.cap n
      if cap.bits = 0 then none
      else
        let lo := cap.base * 256
        let hi := lo + cap.length
        let rlo := cap.addr + c.w (2 + 4 * k)
        let len := c.w (3 + 4 * k)
        some { page := p, node := k, space := cap.space
               lo := if len = 0 then lo else Nat.max lo rlo
               hi := if len = 0 then hi else Nat.min hi (rlo + len)
               writes := m == 1 || m == 3 || m == 4, ordered := m == 4 && c.fld (1 + 4 * k) 10 1 == 0 }

/-- Whether a path of links leads from one MEMORY node to another. -/
def memPath (pages : List (List CellRec)) (rs : List Route) (a b : MemRange) : Bool :=
  let from_ := rs.filter fun r => r.sp == a.page && r.sc == 15 && r.sport / 8 == a.node + 2
  (reach pages (fun _ => false) rs rs.length from_).any fun r =>
    r.dp == b.page && r.dc == 15 && r.dport / 8 == b.node + 2

/-- The pairs of nodes whose ranges overlap, one of which writes, by a test. -/
def overlaps (pages : List (List CellRec)) (f : MemRange → MemRange → Bool) : Bool :=
  let l := memRanges pages
  l.zipIdx.any fun (a, i) => (l.drop (i + 1)).any fun b =>
    a.space == b.space && a.lo < b.hi && b.lo < a.hi && (a.writes || b.writes) && f a b

/-- Whether the graph is a racing graph (R172). -/
def isRacing (pages : List (List CellRec)) (rs : List Route) : Bool :=
  overlaps pages fun a b => !memPath pages rs a b && !memPath pages rs b a

/-- Whether two ordered-mode nodes declare overlapping ranges (R170). -/
def orderedClash (pages : List (List CellRec)) : Bool := overlaps pages fun a b => a.ordered && b.ordered

/-- Whether the replicas of a stage are not as many, or not of one mind (R48). -/
def stagesBad (pages : List (List CellRec)) : Bool :=
  let l := (allRecs pages).flatMap fun (_, _, c) => c.blocks.map fun (_, b) => b.slot
  l.any fun x =>
    let mates := l.filter fun y => y.hf 80 8 == x.hf 80 8 && y.blockId == x.blockId
    mates.any (fun y => y.hf 88 3 != x.hf 88 3) || mates.length != x.hf 88 3 + 1

/-! ## Mills (R22, R324) -/

/-- The systolic MAC cells of a graph: page, cell, record. -/
def sysCells (pages : List (List CellRec)) : List (Nat × Nat × CellRec) :=
  (allRecs pages).filter fun x => x.2.2.kind == .mac && x.2.2.fld 1 19 1 == 1
/-- The head that a systolic cell names. -/
def CellRec.head (c : CellRec) : Nat × Nat := (c.fld 3 32 13, c.fld 3 48 4)

/-- The east page of a mill, by its head: the page of its cells other than the head's. -/
def eastPage (pages : List (List CellRec)) (h : Nat × Nat) : Option Nat :=
  ((sysCells pages).find? fun x => x.2.2.head == h && x.1 != h.1).map (·.1)

/-- Whether the mill of a head breaks R324. -/
def millBad (pages : List (List CellRec)) (h : Nat × Nat) : Bool :=
  let hc := recAt pages h.1 h.2
  let mates := (sysCells pages).filter fun x => x.2.2.head == h
  let geo (c : CellRec) := (c.fld 1 0 5, c.fld 1 8 5, c.fld 1 15 4, c.fld 2 4 5, c.fld 2 16 8)
  let mh := hc.fld 2 8 1 + 1
  let mw := hc.fld 2 4 4 + 1
  let place (c : CellRec) : Nat × Nat := (c.fld 2 3 1, c.fld 2 0 3)
  let wrong (x : Nat × Nat × CellRec) : Bool :=
    let (r, m) := place x.2.2
    let col := h.2 % 4 + m
    let row := h.2 / 4 + r
    geo x.2.2 != geo hc || mh ≤ r || mw ≤ m || 1 < row || 7 < col
      || x.2.1 != row * 4 + col % 4
      || (if col < 4 then x.1 != h.1 else x.1 == h.1 || some x.1 != eastPage pages h)
  7 < h.2 || hc.kind != .mac || hc.fld 1 19 1 == 0 || hc.head != h || place hc != (0, 0)
    || mates.any wrong || mates.length != mh * mw || !(mates.map fun x => place x.2.2).Nodup

/-- The mills that two pages hold: west and east page. -/
def millPairs (pages : List (List CellRec)) : List (Nat × Nat) :=
  ((sysCells pages).filterMap fun x =>
    if (x.1, x.2.1) = x.2.2.head then (eastPage pages x.2.2.head).map fun e => (x.1, e) else none).dedup

/-! ## Entry and result ports (R398, R399) -/

/-- Whether page 0 fails to declare the entry and result ports. -/
def callPortsBad (pages : List (List CellRec)) (ne nr : Nat) : Bool :=
  let c := recAt pages 0 15
  ((List.range ne).any fun j => c.kind != .memory || c.w (32 + 2 * j) != 0xC000)
    || (List.range nr).any fun j => c.kind != .memory || c.w (32 + 2 * (ne + j)) != 0xC200

/-- Ports that need no route: entry and result ports, and the ports of side calls. -/
def exemptPort (pages : List (List CellRec)) (n p c port : Nat) : Bool :=
  (p == 0 && c == 15 && port < n) ||
    let r := recAt pages p c
    r.kind == .actor && (sidePorts r (port / 8)).contains port

/-- The refusal of a graph by the checks of this chapter. -/
def graphRefusal (g : Graph) : Option Nat :=
  let ps := g.pages
  let rs := g.routes
  let cells := allRecs ps
  match cells.findSome? fun x => wordsRefusal x.2.2 with
  | some n => some n
  | none => match cells.findSome? fun x => tokensRefusal x.2.2 with
    | some n => some n
    | none => match routesRefusal ps (exemptPort ps (g.nentry + g.nresult)) rs with
      | some n => some n
      | none => firstBad [
          (!(onCycle ps rs.length rs).isEmpty, sCycle),
          (cells.any (loopRefused ps rs), sCycle),
          (orderedClash ps || (g.racing && !g.raceok), sRace),
          (stagesBad ps, sFormat),
          ((sysCells ps).any (fun x => millBad ps x.2.2.head), sFormat),
          (callPortsBad ps g.nentry g.nresult, sCall)]

/-! ## The image -/

/-- Whether the header of an image is refused (R194). -/
def headerBad (h : List Byte) : Bool :=
  bfld h 0 4 != 0x44564749 || (bfld h 4 2 != 1 && bfld h 4 2 != 2) || bfld h 6 2 == 0 || 5120 < bfld h 6 2
    || 1 < bfld h 12 1 || 8 < bfld h 13 1 || 8 < bfld h 14 1 || bfld h 15 1 != 0
    || bfld h 0x2C 20 != 0 || bfld h 0x10 8 % 4096 != 0

/-- A graph image, read and checked (R194, R195, R270).  `handle` is the handle it will have.  DESIGN CHOICE (log 66): the
16 reserved bytes of the parameter section are read where some cell has an extension, and only then. -/
def parseImage (rd : Reader) (handle : Nat) (s : State) : Except Stop (Graph × State) := do
  let (h, s) ← rd.bytes s 0 64
  refuse (firstBad [(headerBad h, sFormat)])
  let np := bfld h 6 2
  let nl := bfld h 8 4
  let parm := bfld h 0x20 8
  let ((pages, inner), s) ← pagesOf rd (bfld h 0x10 8) parm np np s
  let (lb, s) ← if nl = 0 then Except.ok ([], s) else rd.bytes s (bfld h 0x18 8) (16 * nl)
  let (pb, s) ← rd.bytes s parm (if pages.any (·.any fun c => c.ctrl.toNat >>> 32 != 0) then 16 else 0)
  let links := (List.range nl).map fun k =>
    let pw := bfld lb (16 * k + 8) 8
    if 2 ^ 32 ≤ pw then none else routeOf (bfld lb (16 * k) 8) (pw % 2 ^ 16) (pw >>> 16)
  refuse (firstBad [(links.any Option.isNone || pb.any (· != 0), sFormat)])
  let routes := inner ++ links.filterMap id
  let g : Graph := { handle := handle, gid := BitVec.ofNat 32 (bfld h 0x28 4), raceok := (bfld h 12 1).testBit 0
                     racing := isRacing pages routes, nentry := bfld h 13 1, nresult := bfld h 14 1
                     pages := pages, routes := routes, parm := parm }
  refuse (graphRefusal g)
  .ok (g, s)

/-! ## Blocks at a placement or thaw (R224) -/

/-- A block image as it stands in memory: its header, then its instructions. -/
def readBlock (rd : Reader) (o : Nat) (s : State) : Except Stop (Block × State) := do
  let (hb, s) ← rd.bytes s o 16
  let n := leNat hb % 128 + 1
  let (cb, s) ← rd.bytes s (o + 16) (8 * n)
  .ok (blockAt (hb ++ cb) 0, s)

/-- The block of a slot, read and checked again. -/
def rereadBlock (rd : Reader) (parm : Nat) (c : CellRec) (a : Nat) (s : State) : Except Stop (Block × State) := do
  let (b, s) ← readBlock rd (parm + c.ctrl.toNat >>> 32 + c.fld (16 * a + 2) 0 32) s
  refuse (blockRefusal b.slot (c.inMask a) (c.outMask a))
  .ok (b, s)

/-- The record with the blocks of its slots read and checked again. -/
def rereadRec (rd : Reader) (parm : Nat) (c : CellRec) (s : State) : Except Stop (CellRec × State) :=
  if c.kind != .actor then .ok (c, s)
  else (mkeys c.blocks).foldlM (fun (c, s) a => do
    let (b, s) ← rereadBlock rd parm c a s
    .ok ({ c with blocks := mset c.blocks a b }, s)) (c, s)

/-- The records of a page with their blocks read again. -/
def rereadPage (rd : Reader) (parm : Nat) : List CellRec → State → Except Stop (List CellRec × State)
  | [], s => .ok ([], s)
  | c :: l, s => do
    let (c, s) ← rereadRec rd parm c s
    let (l, s) ← rereadPage rd parm l s
    .ok (c :: l, s)

/-- The pages of a graph with their blocks read again. -/
def rereadPages (rd : Reader) (parm : Nat) : List (List CellRec) → State → Except Stop (List (List CellRec) × State)
  | [], s => .ok ([], s)
  | p :: l, s => do
    let (p, s) ← rereadPage rd parm p s
    let (l, s) ← rereadPages rd parm l s
    .ok (p :: l, s)

/-- A graph whose blocks have been read from its image again; a graph without an image stays. -/
def rereadGraph (s : State) (x : Acx) (g : Graph) : Except Stop (Graph × State) :=
  if !g.cap.tag then .ok (g, s)
  else do
    let (ps, s) ← rereadPages (imageReader x g.cap) g.parm g.pages s
    .ok ({ g with pages := ps }, s)

end Sys2Proof.Machine
end

