-- ==== Sys2Proof/Machine/Streams.lean ====
section
/-! DEFINITION. Streams and copies in motion (R257 to R264), and the sparse-update units (R170). -/

namespace Sys2Proof.Machine

/-! ## What streams and copies share -/

/-- A fault of a stream or copy enters the poison record and the launch status (R262). -/
def xferFault (s : State) (h cell : Nat) (t : Trap) : State :=
  let r := s.reeve h
  recordFault (recordPoison s r.ctx t) r.launch t (siteOf s r.vf h cell 0 false)

/-- A RATE_MISMATCH of a stream port in the launch status. -/
def streamRate (s : State) (h : Nat) : State :=
  let r := s.reeve h
  recordFault s r.launch rateFault (siteOf s r.vf h portCell 0 false)

/-- Whether a launch's transfers move: it is RUNNING, or GATING until its save (R368). -/
def xfersMove (s : State) (h : Nat) : Bool :=
  match s.launchOf (s.reeve h).launch with
  | some l => l.st == .running || l.st == .gating
  | none => false

/-- The unit that serves a place: a granary slice, or an LPDDR-6 interface from 160 up (R133, R134). -/
def unitAt (l : Loc) : Option Nat :=
  match l with
  | .phys a =>
    if isGranary a then some (natField a 0 48 >>> 27)
    else if isOnChip a || isHost a then none else some (160 + a / 4096 % 32)
  | _ => none

/-- A best-effort tenant's throttle level at a unit, by its key (R373). -/
def throttleLevel (s : State) (vf u : Nat) : Nat :=
  if (s.vfOf vf).qos.getLsbD 5 then mgetD s.throttle (1024 * u + vf) 0 else 0

/-- A stream or copy issues an access to units; a throttle lets its tenant's dispatchers issue one in 2^level cycles to a
unit, and holds it till then (R373). -/
def issueTo (s : State) (who : Who) (vf : Nat) (us : List Nat) : Except Stop State :=
  let us := us.filter fun u => throttleLevel s vf u != 0
  if us.any fun u => s.cycle.toNat < (mgetD s.issueAt (1024 * u + vf) 0).toNat then
    .error (.keep (if s.throttled.contains who then s else { s with throttled := who :: s.throttled }) .memory)
  else if us.isEmpty && !s.throttled.contains who then .ok s
  else .ok { s with
    throttled := s.throttled.filter (· != who)
    issueAt := us.foldl (fun m u =>
      mset m (1024 * u + vf) (s.cycle + BitVec.ofNat 64 (2 ^ throttleLevel s vf u))) s.issueAt }

/-- Bytes of a tile (R138). -/
def tileBytes (d : Desc) : Nat := 32 * fmtBits d.fmt

/-- A granule that holds only +0: 0 bits, or the planes of code 7 (R139). -/
def plusZero (d : Desc) (a : Nat) (bs : List Byte) : Bool :=
  let plane := (a - d.base.addr) / 32 % fmtBits d.fmt
  if d.fmt == 23 then false
  else bs.all (· == if (d.fmt == 20 || d.fmt == 21) && plane != 0 then 0xFF else 0)

/-- A tile writer leaves the zero flags of the granules that end in `n` bytes at `pa` (virtual address
`va`) as their contents are (R139, log 22). -/
def markTiles (s : State) (d : Desc) (va pa n : Nat) : State :=
  if !isOnChip pa then s
  else
    let (g, c) := granules 5 pa n
    (rangeFrom g c).foldl (fun s i =>
      if 32 * i + 32 ≤ pa + n then
        let zero := plusZero d (va + 32 * i - pa) (s.mem.read (32 * i) 32)
        { s with mem := { s.mem with nonzero := sput s.mem.nonzero i (!zero) } }
      else s) s

/-! ## The loop of R258 -/

/-- A count of a specification. -/
def Spec.c (p : Spec) (i : Nat) : Nat := p.count.getD i 0
/-- A stride. -/
def Spec.s (p : Spec) (i : Nat) : Int := p.stride.getD i 0

/-- The phase on entering the loop of a dimension (R259). -/
def Spec.enter (p : Spec) : Nat → Phase
  | 0 => if p.c 0 = 0 then .mark 0 else .elem
  | n + 1 => if p.c (n + 1) = 0 then .mark (n + 1) else p.enter n

/-- A stream at its start. -/
def Spec.begin (p : Spec) : Stream :=
  { spec := p, phase := if p.c 3 = 0 then .eos else p.enter 2 }

/-- The stream after what its phase names has been done. -/
def Stream.advance (x : Stream) : Stream :=
  let p := x.spec
  let i (k : Nat) : Nat := x.pos.getD k 0
  match x.phase with
  | .elem =>
    let y := { x with pos := lset x.pos 0 (i 0 + 1) }
    if i 0 + 1 < p.c 0 then y else { y with phase := .mark 0 }
  | .mark k =>
    let pos := lset (x.pos.zipIdx.map fun (v, j) => if j ≤ k then 0 else v) (k + 1) (i (k + 1) + 1)
    if i (k + 1) + 1 < p.c (k + 1) then { x with pos := pos, phase := p.enter k }
    else { x with pos := pos, phase := if k < 2 then .mark (k + 1) else .eor }
  | .eor => { x with phase := .eos }
  | .eos => { x with phase := .done }
  | .done => x

/-- The offset of the element at the stream's position (R258). -/
def Stream.offset (x : Stream) : Int :=
  (List.range 4).foldl (fun a k => a + (x.pos.getD k 0 : Int) * x.spec.s k) (x.spec.cap.offset : Int)

/-- Positions of a token on a plane. -/
def Stream.per (x : Stream) (ctrl : Bool) : Nat := if ctrl then 1 else 64 / 2 ^ x.spec.esize

/-- A stream to memory on its next element; it sends no marker. -/
def Stream.skip (x : Stream) : Nat → Stream
  | 0 => x
  | n + 1 => match x.phase with
    | .mark _ => x.advance.skip n
    | _ => x

/-- Whether a stream to memory has an element left. -/
def Stream.more (x : Stream) : Bool :=
  x.spec.c 0 != 0 && x.spec.c 1 != 0 && x.spec.c 2 != 0 && x.phase == .elem

/-- Whether a stream writes whole tiles of a bit-plane descriptor with zero flags (R139, R261). -/
def Spec.tiles (p : Spec) : Bool :=
  let z : Nat := 2 ^ p.esize
  let t := tileBytes p.desc
  p.red == 0 && p.desc.zfTiles && t != 0 && p.s 0 == z && p.c 0 * z % t == 0
    && ((p.cap.addr : Int) - p.desc.base.addr) % t == 0
    && (List.range 4).all fun k => k == 0 || p.c k ≤ 1 || p.s k % t == 0

/-! ## STREAM_START -/

/-- STREAM_START (R257): the dispatcher takes the oldest pending specification. -/
def execStreamStart (h p : Nat) (s : State) : Host.Outcome State Fault Refusal :=
  .next <|
    let q := s.sport h p
    match q.pending with
    | sp :: rest =>
      if q.cur.isSome || !xfersMove s h then s
      else s.setSport h p { q with pending := rest, cur := some sp.begin, xfer := 0 }
    | [] => s

/-! ## STREAM_ELEMENT -/

/-- The access context of a stream. -/
def streamAcx (s : State) (h p : Nat) : Acx :=
  { who := .stream h p, ctx := (s.reeve h).ctx, vf := (s.reeve h).vf, ham := h }

/-- Ends an access of a stream or copy: waits register what they ask for. -/
def settleStop (s : State) (r : Except Stop State) (fail : State → Trap → State) : State :=
  match r with
  | .ok s => s
  | .error (.trap t) => fail s t
  | .error (.trapIn s t) => fail s t
  | .error (.wait _ rq) => register s rq
  | .error (.keep s _) => s

/-- Memory to port: reads the element and adds it to the token, which leaves when it is full or its run
ends; a fault poisons the token, and the element's value is then a free one (R260, R262; log 60). -/
def readElement (s : State) (h p : Nat) (ctrl : Bool) (x : Stream) : State :=
  let q := s.sport h p
  let z := 2 ^ x.spec.esize
  let x0 := x.part.getD { kind := .data }
  let put (s : State) (v : Nat) (bad : Bool) : State :=
    let s := release s (.stream h p)
    let t := { x0 with
      data := x0.data ||| BitVec.ofNat 512 (v <<< (8 * z * x.at_))
      mask := x0.mask ||| (1#64 <<< x.at_), poison := x0.poison || bad }
    let y := { x.advance with moved := x.moved + 1 }
    let q := { q with xfer := q.xfer + 1 }
    if x.at_ + 1 = x.per ctrl || y.phase != .elem then
      let q := q.push { t with tag := portTag s h q }
      s.setSport h p { q with cur := some { y with part := none, at_ := 0 } }
    else s.setSport h p { q with cur := some { y with part := some t, at_ := x.at_ + 1 } }
  let r : Except Stop State := do
    let cx := streamAcx s h p
    let l ← access s cx x.spec.cap x.offset z z clLoad.engine rR
    let s ← issueTo s cx.who cx.vf (unitAt l).toList
    let (v, s) ← capReadNat s cx x.spec.cap x.offset z z clLoad.engine
    .ok (put s v false)
  settleStop s r fun s t =>
    let (v, s) := (xferFault s h portCell t).freeBits (8 * z)
    put s v true

/-- Sends a marker of a stream. -/
def streamMark (s : State) (h p : Nat) (x : Stream) (k : TokKind) : State :=
  let q := s.sport h p
  s.setSport h p { q.push { kind := k, tag := portTag s h q } with cur := some x.advance }

/-- One step of a stream from memory. -/
def streamOut (s : State) (h p : Nat) (n : NodeRef) (ctrl : Bool) (x : Stream) : State :=
  let q := s.sport h p
  let next : State := s.setSport h p { q with cur := some x.advance }
  let room : Bool := decide (q.buf.length < x.spec.window) && decide (q.buf.length < 16)
  if !s.nodeLive n || !s.sourceMay n q.midRound || (q.sent == 0 && roundHeld s n q.round) then s
  else match x.phase with
    | .elem => if room || x.part.isSome then readElement s h p ctrl x else s
    | .mark k => if !x.spec.mark.getLsbD k then next else if room then streamMark s h p x (.eod k) else s
    | .eor => if !x.spec.mark.getLsbD 3 then next else if room then streamMark s h p x .eor else s
    | .eos => if room then streamMark s h p x .eos else s
    | .done => s

/-- Notes a piece of a transfer that a replay would not repeat: one with a reduce op, or a store to spaces 5 and 6 or a
window (R386). -/
def notePiece (s : State) (h red space : Nat) : State :=
  if red != 0 || notIdempotent space then markDirty s (s.reeve h).launch else s

/-- Writes one element of a stream to memory, or sends its update (R260, R261). -/
def writeElement (s : State) (h p : Nat) (x : Stream) (tag : W64) (v : Nat) : Except Stop State := do
  let s := notePiece s h x.spec.red x.spec.cap.space
  let cx := streamAcx s h p
  let sp := x.spec
  let z := 2 ^ sp.esize
  if sp.red = 0 then
    let l ← access s cx sp.cap x.offset z z clStore.engine rW
    let s ← issueTo s cx.who cx.vf (unitAt l).toList
    let s ← storeLoc s cx l (leBytes z v) true
    .ok (match l with
      | .phys a =>
        if sp.tiles then markTiles s sp.desc (sp.cap.base * 256 + x.offset.toNat) a z else s
      | _ => s)
  else
    let l ← access s cx sp.cap x.offset z z (streamClass true sp.red) rA
    let s ← issueTo s cx.who cx.vf (unitAt l).toList
    sendUpd s l { src := .stream h p, ctx := cx.ctx, vf := cx.vf, launch := (s.reeve h).launch
                  op := sp.red, val := BitVec.ofNat 64 v, n := z, ordered := true
                  round := tagRound tag, idx := tagIndex tag, full := true }

/-- Port to memory: the next position of the token taken. -/
def sinkElement (s : State) (h p : Nat) (ctrl : Bool) (x : Stream) (t : Token) : State :=
  let q := s.sport h p
  let z := 2 ^ x.spec.esize
  let y := { x.advance with moved := x.moved + 1 }
  let y := if x.at_ + 1 = x.per ctrl || y.phase != .elem
    then { y with part := none, at_ := 0 } else { y with at_ := x.at_ + 1 }
  let done (s : State) : State :=
    let s := release s (.stream h p)
    s.setSport h p { s.sport h p with cur := some (y.skip 3), xfer := q.xfer + 1 }
  let last := (y.skip 3).phase != .elem
  if !t.mask.getLsbD x.at_ then done s
  else if last && x.spec.comp == .full && !allPerformed s (.stream h p) then s
  else
    let v := natField t.data.toNat (8 * z * x.at_) (8 * z)
    settleStop s ((writeElement s h p x t.tag v).map done) fun s t => done (xferFault s h portCell t)

/-- The positions that a poisoned token uses up, unwritten. -/
def passToken (x : Stream) (q : SPort) : Nat → Stream × SPort
  | 0 => (x, q)
  | n + 1 =>
    if x.phase = .elem then
      passToken { x.advance with moved := x.moved + 1 } { q with xfer := q.xfer + 1 } n
    else (x, q)

/-- Port to memory: takes the token at the head (R260, R33). -/
def sinkToken (s : State) (h p : Nat) (ctrl : Bool) (x : Stream) : State :=
  let q := s.sport h p
  match q.buf with
  | [] => s
  | t :: rest =>
    let q := { q with buf := rest }
    let keep (q : SPort) (x : Stream) : State := s.setSport h p { q with cur := some x }
    match t.kind with
    | .pmk _ => s
    | .eos =>
      let s1 := keep q { x with phase := .done, eosTaken := true }
      if x.more then streamRate s1 h else s1
    | .data =>
      if !x.more then streamRate (keep q x) h
      else if t.poison then
        let (y, q) := passToken x q (x.per ctrl)
        let f := poisonFault s (s.reeve h).ctx
        let r := s.reeve h
        recordFault (keep q (y.skip 3)) r.launch f (siteOf s r.vf h portCell 0 false)
      else keep q { x with part := some t, at_ := 0 }
    | _ => keep q x

/-- STREAM_ELEMENT (R258, R260): one element, one marker or one token taken, once every stream barrier
lets the stream move (R267). -/
def execStreamElement (h p : Nat) (s : State) : Host.Outcome State Fault Refusal :=
  .next <|
    let q := s.sport h p
    match q.cur, cellOfHam s h portCell with
    | some x, some (n, _) =>
      let ctrl := declCtrl (portDecl s h p)
      let held := match mget (s.reeve h).xfers x.spec.xid with
        | some y => barred s h x.spec.xid y
        | none => false
      if held || !xfersMove s h then s
      else if x.spec.dir then
        match x.part with
        | some t => sinkElement s h p ctrl x t
        | none => if x.phase = .done then s else sinkToken s h p ctrl (x.skip 3)
      else streamOut s h p n ctrl x
    | _, _ => s

/-! ## STREAM_COMPLETE -/

/-- Bytes that a stream has moved (R211). -/
def streamBytes (x : Stream) : Nat := x.moved * 2 ^ x.spec.esize

/-- STREAM_COMPLETE (R263): once EOS has been sent or taken and every write is performed. -/
def execStreamComplete (h p : Nat) (s : State) : Host.Outcome State Fault Refusal :=
  .next <|
    let q := s.sport h p
    match q.cur with
    | some x =>
      if x.phase != .done || !allPerformed s (.stream h p) then s
      else completeXfer (s.setSport h p { q with cur := none }) h x.spec.xid portCell (streamBytes x)
    | none => s

/-- Ends the stream of a port and every pending one, as a release of its page does (R270). -/
def endStreams (s : State) (h p : Nat) : State :=
  let q := s.sport h p
  let fin (s : State) (sp : Spec) (bytes : Nat) : State :=
    completeXfer (streamRate s h) h sp.xid portCell bytes
  let s := match q.cur with
    | some x => fin s x.spec (streamBytes x)
    | none => s
  let s := q.pending.foldl (fun s sp => fin s sp 0) s
  { s with ports := mdel s.ports (h * 16 + p), throttled := s.throttled.filter (· != Who.stream h p) }

/-! ## COPY_COMPLETE -/

/-- The access context of a copy. -/
def copyAcx (s : State) (h x : Nat) : Acx :=
  { who := .copy h x, ctx := (s.reeve h).ctx, vf := (s.reeve h).vf, ham := h }

/-- Copies `k` bytes from the copy's position. -/
def copyPart (s : State) (h id : Nat) (x : Xfer) (k : Nat) : Except Stop State := do
  let cx := copyAcx s h id
  let sa ← checkCapAt x.src (x.src.offset + x.pos) (some k) 1 clLoad.engine
  let da ← checkCapAt x.dst (x.dst.offset + x.pos) (some k) 1 clStore.engine
  let (bs, s) ← readSpan s cx x.src.space 2 sa k
  writeSpan (notePiece s h x.red x.dst.space) cx x.dst.space true 2 da bs

/-- Copies bytes one at a time from a position; a fault is recorded once for each 8-byte word that meets it
(R262, R264, log 38). -/
def copyBytes (s : State) (h id : Nat) (x : Xfer) (last : Option Trap) : Nat → Except Stop State
  | 0 => .ok s
  | n + 1 =>
    let next : Trap → State → Except Stop State := fun t s =>
      let again := match last with
        | some u => u.code == t.code && u.addr.toNat / 8 == t.addr.toNat / 8
        | none => false
      copyBytes (if again then s else xferFault s h 0 t) h id { x with pos := x.pos + 1 } (some t) n
    match copyPart s h id x 1 with
    | .error (.trap t) => next t s
    | .error (.trapIn s t) => next t s
    | .error e => .error e
    | .ok s => copyBytes s h id { x with pos := x.pos + 1 } none n

/-- The units that a piece of a copy is issued to: those of its first and last source byte and of its first destination
byte, where they translate. -/
def copyUnits (s : State) (h id : Nat) (x : Xfer) (k : Nat) : List Nat :=
  let unit (c : Cap) (o need : Nat) : List Nat :=
    match locate s (copyAcx s h id) c.space (c.addr + x.pos + o) need with
    | .ok l => (unitAt l).toList
    | .error _ => []
  (unit x.src 0 rR ++ unit x.src (k - 1) rR ++ unit x.dst 0 rW).dedup

/-- The next piece of a plain copy. -/
def copyPiece (s : State) (h id : Nat) (x : Xfer) (k : Nat) : Except Stop State := do
  let s ← issueTo s (.copy h id) (s.reeve h).vf (copyUnits s h id x k)
  match copyPart s h id x k with
  | .error (.trap _) => copyBytes s h id x none k
  | .error (.trapIn _ _) => copyBytes s h id x none k
  | r => r

/-- The next operand of a reducing copy (R261, R264). -/
def copyReduce (s : State) (h id : Nat) (x : Xfer) (z : Nat) : Except Stop State := do
  let cx := copyAcx s h id
  let s ← issueTo s cx.who cx.vf (copyUnits s h id x z)
  let (v, s) ← capReadNat s cx x.src (x.src.offset + x.pos) z z clLoad.engine
  let l ← access s cx x.dst (x.dst.offset + x.pos) z z (streamClass true x.red) rA
  let s := notePiece s h x.red x.dst.space
  sendUpd s l { src := .copy h id, ctx := cx.ctx, vf := cx.vf, launch := (s.reeve h).launch
                op := x.red, val := BitVec.ofNat 64 v, n := z, ordered := true
                round := 0, idx := x.pos / z, full := true }

/-- The zero flags that a finished copy of whole tiles leaves (R139). -/
def copyTiles (s : State) (h id : Nat) (x : Xfer) : State :=
  let t := tileBytes x.desc
  if x.red != 0 || !x.desc.zfTiles || t = 0 || x.len % t != 0 || x.dst.addr % 32 != 0
      || ((x.dst.addr : Int) - x.desc.base.addr) % t != 0 then s
  else
    (List.range (x.len / 32)).foldl (fun s i =>
      match locate s (copyAcx s h id) x.dst.space (x.dst.addr + 32 * i) rW with
      | .ok (.phys a) => markTiles s x.desc (x.dst.addr + 32 * i) a 32
      | _ => s) s

/-- COPY_COMPLETE (R264): the next piece of the copy is moved; once all of it is written and performed
at package scope, the copy signals. -/
def execCopyComplete (h id : Nat) (s : State) : Host.Outcome State Fault Refusal :=
  .next <|
    match mget (s.reeve h).xfers id with
    | some x =>
      if x.kind != .copy || barred s h id x || !xfersMove s h then s
      else if x.pos < x.len then
        let z := redSize x.red
        let k := if x.red = 0 then Nat.min (x.len - x.pos) (64 - (x.dst.addr + x.pos) % 64) else z
        let moved (s : State) : State :=
          let s := release s (.copy h id)
          s.setReeve h { s.reeve h with
            xfers := mupd (s.reeve h).xfers id fun x => { x with pos := x.pos + k } }
        let r := if x.red = 0 then copyPiece s h id x k
          else copyReduce s h id x z
        if x.pos + k = x.len && x.comp == .full && !allPerformed s (.copy h id) then s
        else settleStop s (r.map moved) fun s t => moved (xferFault s h 0 t)
      else if allPerformed s (.copy h id) then completeXfer (copyTiles s h id x) h id 0 x.len
      else s
    | none => s

/-! ## SPARSE_UPDATE_APPLY (R170) -/

/-- Whether two updates have a source in common. -/
def SUpd.meets (u v : SUpd) : Bool := u.srcs.any v.srcs.contains

/-- Whether an update in a window must be applied before another that came after it: one source's FADDs to a word go
in the order sent, and so do its updates of two operations. -/
def SUpd.ahead (v u : SUpd) : Bool :=
  v.meets u && v.addr / 8 == u.addr / 8 && (u.op == 7 || v.op != u.op)

/-- Whether update `i` of a window may be applied now: no earlier update of its word that must come
first.  Ordered updates of one source go by round and index among those in the window (log 61). -/
def mayApply (w : List SUpd) (i : Nat) : Bool :=
  match w[i]? with
  | none => false
  | some u =>
    !w.zipIdx.any fun (v, j) =>
      j != i &&
        (if u.ordered && v.ordered && v.meets u && v.addr / 8 == u.addr / 8 then
          let e := (u.round + 4096 - v.round) % 4096
          if e = 0 then v.idx < u.idx || (v.idx == u.idx && decide (j < i)) else e < 2048
        else decide (j < i) && v.ahead u)

/-- Whether update `j` of a window may merge into the earlier update `i` (R170): both unordered, of one word and
operation, FADDs only of different sources, and nothing between them that must stay ahead of update `j`. -/
def mayMerge (w : List SUpd) (i j : Nat) : Bool :=
  match w[i]?, w[j]? with
  | some u, some v =>
    decide (i < j) && !u.ordered && !v.ordered && u.addr == v.addr && u.n == v.n && u.op == v.op && u.launch == v.launch
      && (u.op != 7 || !u.meets v)
      && !w.zipIdx.any fun (x, k) => decide (i < k) && decide (k < j) && x.ahead v
  | _, _ => false

/-- The operand of an update with those merged into it: FADDs are added exactly and rounded once (R170). -/
def SUpd.operand (u : SUpd) : W64 :=
  if u.more.isEmpty then u.val
  else if u.op = 7 then
    let x := u.more.foldl (fun x v => Num.add x (ofFP32 (v.truncate 32))) (ofFP32 (u.val.truncate 32))
    BitVec.ofNat 64 (packF fp32 0 x)
  else BitVec.ofNat 64 (u.more.foldl (fun x v => reduceOpN u.n u.op x v.toNat) u.val.toNat)

/-- How many data tokens stand ahead of the first marker of an input. -/
def dataAhead (c : Cell) (p : Nat) : Nat := ((c.buf p).takeWhile fun t => !t.isMarker).length

/-- Whether an update of an ordered MEMORY node must still wait for one with an earlier tag that has reached the node: an
address token whose other operands stand there too, or an access in its queue (R170, log 61).  A full window waits for
nothing. -/
def tagWaits (s : State) (w : List SUpd) (u : SUpd) : Bool :=
  let before (t : W64) : Bool :=
    let e := (u.round + 4096 - tagRound t) % 4096
    if e = 0 then tagIndex t < u.idx else e < 2048
  u.ordered && (w.map (·.tok)).dedup.length < 64 && u.srcs.any fun who =>
    match who with
    | .node n =>
      let c := s.cellAt n
      let whole := (memIns c n.sub).foldl (fun k p => Nat.min k (dataAhead c p)) 64
      s.nodeLive n && c.kind == .memory && !c.halted.contains n.sub
        && (((c.buf (memBase n.sub)).take whole).any (fun t => before t.tag)
          || (c.memSt n.sub).toks.any fun t => before t.addr.tag && (c.memSt n.sub).queue.any fun q => q.tok == t.tok)
    | _ => false

/-- SPARSE_UPDATE_APPLY (R170): an update of a slice's window is applied to its word, or a later one merges into it. -/
def execSparseUpdateApply (slice i : Nat) (merge : Option Nat) (s : State) :
    Host.Outcome State Fault Refusal :=
  .next <|
    let w := mgetD s.windows slice []
    match w[i]? with
    | none => s
    | some u =>
      let without (k : Nat) (l : List SUpd) : List SUpd := l.eraseIdx k
      match merge with
      | none =>
        if !mayApply w i || tagWaits s w u then s
        else applyUpd { s with windows := mput s.windows slice (without i w) [] } u.addr
          { src := u.srcs.headD .steward, ctx := u.ctx, vf := u.vf, launch := u.launch, op := u.op
            val := u.operand, n := u.n, full := u.full } u.srcs
      | some j =>
        match w[j]? with
        | some v =>
          if !mayMerge w i j then s
          else
            let both := { u with srcs := u.srcs ++ v.srcs, more := u.more ++ v.val :: v.more }
            { s with windows := mput s.windows slice (without j (lset w i both)) [] }
        | none => s

end Sys2Proof.Machine
end

