-- ==== Sys2Proof/Machine/Place.lean ====
section
/-! DEFINITION. Placement (R36, R37, R42, R140, R193, R196, R197, R311, R391, R400): which hamlets a page may go
on, the cells of a fresh instance, its circuits, the hand-over clear, and the release of an instance. -/

namespace Sys2Proof.Machine

/-! ## Hamlets -/

/-- A hamlet's entry. -/
def State.ham (s : State) (h : Nat) : Hamlet := (mget s.hamlets h).getD {}
/-- Changes it. -/
def State.updHam (s : State) (h : Nat) (f : Hamlet → Hamlet) : State :=
  { s with hamlets := mset s.hamlets h (f (s.ham h)) }

/-- The partition of a VF as hamlets. -/
def vfHamlets (s : State) (vf : Nat) : List Nat :=
  match partition s vf with
  | some p => partHamlets p
  | none => []

/-- The REEVES rectangle of a parameter block in a partition, in the order of R52: a rectangle of relative hamlets, on every
die of a partition of whole dies (R199). -/
def rectIn (p : Nat × FenceEntry) (b : Lpb) : List Nat :=
  let c := if p.2.dies then 0 else p.2.c0
  let h := if p.2.dies then 0 else p.2.h0
  (partHamlets p).filter fun x =>
    c + b.c0 ≤ hamCol x && hamCol x < c + b.c0 + b.width && h + b.h0 ≤ hamRow x && hamRow x < h + b.h0 + b.height

/-- The REEVES rectangle of a launch; that of a launch that a restore has moved lies where its reeves have gone (R389). -/
def launchRect (s : State) (l : Launch) : List Nat :=
  match partition s l.vf with
  | none => []
  | some p =>
    match l.shift with
    | none => rectIn p l.lpb
    | some m => (rectIn m.part l.lpb).filterMap m.move

/-! ## Which hamlets a page may go on (R36, R391) -/

/-- A page with its smithy flag set. -/
def pageSmithy (cs : List CellRec) : Bool := cs.any (·.kind == .convert)
/-- A page that R36 keeps off smithy hamlets: its cell 14 names a kind 0 to 8. -/
def pageKeepOff (cs : List CellRec) : Bool :=
  match cs[14]? with
  | some c => c.kind != .unused && c.kind != .convert
  | none => false
/-- A page whose port cell uses a stream port. -/
def pageStreams (cs : List CellRec) : Bool :=
  match cs[15]? with
  | some c => c.kind == .memory && (List.range 16).any fun p => declUsed (c.w (32 + 2 * p))
  | none => false
/-- Whether a page may go on a hamlet. -/
def pageFits (cs : List CellRec) (h : Nat) : Bool :=
  (!pageSmithy cs || isSmithy h) && (!pageKeepOff cs || !isSmithy h)

/-- The pages with stream ports, each with its hamlet of the rectangle (R391); `none` where the rectangle is too
small. -/
def streamPlaces (g : Graph) (rect : List Nat) : Option (List (Nat × Nat)) :=
  let ps := (g.pages.zipIdx.filter fun x => pageStreams x.1).map (·.2)
  if rect.length < ps.length then none else some (ps.zip rect)

/-- The place that a choice gives a page. -/
def placeOf (f : List (Nat × Nat)) (p : Nat) : Option Nat := (f.find? (·.1 == p)).map (·.2)

/-- Whether two hamlets stand side by side in a parish, the first to the west. -/
def sideBySide (w e : Nat) : Bool := hamCol w % 2 == 0 && e == w + 1

/-- The partners of the pages of mills that are fixed. -/
def closePairs (pairs : List (Nat × Nat)) (f : List (Nat × Nat)) : List (Nat × Nat) :=
  pairs.foldl (fun f (w, e) =>
    match placeOf f w, placeOf f e with
    | some h, none => f ++ [(e, h + 1)]
    | none, some h => f ++ [(w, h - 1)]
    | _, _ => f) f

/-- Whether hamlets, page by page, are a placement that R36 and R391 allow, whatever stands on them. -/
def legalHams (part : List Nat) (g : Graph) (fixed : List (Nat × Nat)) (hams : List Nat) : Bool :=
  hams.length == g.pages.length && decide hams.Nodup && hams.all part.contains
    && (g.pages.zip hams).all (fun x => pageFits x.1 x.2)
    && fixed.all (fun x => hams[x.1]? == some x.2)
    && (millPairs g.pages).all fun (w, e) => sideBySide (hams.getD w 1) (hams.getD e 0)

/-- Whether a partition can never hold a graph whose stream pages are fixed (R37, R391). -/
def neverFits (part : List Nat) (g : Graph) (fixed : List (Nat × Nat)) : Bool :=
  let ps := g.pages
  let sm := (part.filter isSmithy).length
  let page (i : Nat) : List CellRec := ps.getD i []
  let noPair (x : Nat × Nat) : Bool := !part.any fun h =>
    sideBySide h (h + 1) && part.contains (h + 1) && pageFits (page x.1) h && pageFits (page x.2) (h + 1)
      && fixed.all fun f => (f.1 != x.1 || f.2 == h) && (f.1 != x.2 || f.2 == h + 1)
        && (f.2 != h || f.1 == x.1) && (f.2 != h + 1 || f.1 == x.2)
  part.length < ps.length || sm < (ps.filter pageSmithy).length
    || part.length - sm < (ps.filter pageKeepOff).length
    || fixed.any (fun f => !pageFits (page f.1) f.2) || (millPairs ps).any noPair

/-- The refusal of a graph that a partition can never hold: NOCONV where it needs a smithy and the partition has none, so
that no route passes one (R21; DESIGN CHOICE, log 62), else PLACE (R37). -/
def placeRefusal (part : List Nat) (g : Graph) (fixed : List (Nat × Nat)) : Option Nat :=
  firstBad [(g.pages.any pageSmithy && !part.any isSmithy, sNoconv), (neverFits part g fixed, sPlace)]

/-- Pages that have no place yet take candidates in turn, a mill's two pages together; a dead end is backed out
of (log 15). -/
def assign (g : Graph) (pairs : List (Nat × Nat)) (cands : List Nat) :
    List Nat → List (Nat × Nat) → Option (List (Nat × Nat))
  | [], f => some f
  | p :: ps, f =>
    if (placeOf f p).isSome then assign g pairs cands ps f
    else cands.findSome? fun h =>
      let used (x : Nat) : Bool := f.any (·.2 == x)
      if used h || !pageFits (g.pages.getD p []) h then none
      else match pairs.find? (·.1 == p) with
        | none => assign g pairs cands ps ((p, h) :: f)
        | some (_, e) =>
          if sideBySide h (h + 1) && cands.contains (h + 1) && !used (h + 1)
              && pageFits (g.pages.getD e []) (h + 1) && (placeOf f e).isNone then
            assign g pairs cands ps ((e, h + 1) :: (p, h) :: f)
          else none

/-- The order in which pages are given places: mills, smithy pages, kept-off pages, the rest. -/
def placeOrder (g : Graph) : List Nat :=
  let idx := List.range g.pages.length
  let page (i : Nat) : List CellRec := g.pages.getD i []
  let pairs := millPairs g.pages
  let west (i : Nat) : Bool := pairs.any (·.1 == i)
  let rest := idx.filter fun i => !west i
  idx.filter west ++ rest.filter (fun i => pageSmithy (page i))
    ++ rest.filter (fun i => !pageSmithy (page i) && pageKeepOff (page i))
    ++ rest.filter fun i => !pageSmithy (page i) && !pageKeepOff (page i)

/-- The pager's own choice of hamlets among candidates, with some pages fixed (log 15). -/
def chooseHams (part cands : List Nat) (g : Graph) (fixed : List (Nat × Nat)) : Option (List Nat) :=
  let pairs := millPairs g.pages
  match assign g pairs cands (placeOrder g) (closePairs pairs fixed) with
  | some f =>
    let hams := (List.range g.pages.length).map fun i => (placeOf f i).getD 0
    if legalHams part g fixed hams then some hams else none
  | none => none

/-! ## The hand-over clear (R140) -/

/-- Whether a hamlet must be cleared before a context takes it. -/
def needsClear (s : State) (ctx h : Nat) : Bool :=
  match (s.ham h).owner with
  | some c => c != ctx
  | none => false

/-- Begins the clear of a hamlet for a context. -/
def startClear (s : State) (ctx h : Nat) : State :=
  s.updHam h fun x => { x with place := .clearing, clearFor := some (ctx, s.cycle) }

/-- Whether the pager has claimed a hamlet for a placement that has not been made yet (R196). -/
def claimed (s : State) (h : Nat) : Bool :=
  s.places.any (·.2.claim.contains h) || s.sides.any (·.2.claim.contains h) || s.insts.any (·.2.claim.contains h)
    || s.launches.any (·.2.claim.contains h)

/-- Whether a plane stands in a shadow plane of its cells. -/
def Plane.shadows (p : Plane) : Bool := p == .shadow || p == .spilling || p == .refilling

/-- Whether a hamlet is free (R36): no page of an active plane occupies it and it is not retired, being cleared or
claimed, and its cells have a plane left. -/
def hamFree (s : State) (h : Nat) : Bool :=
  ((s.ham h).place == .free || (s.ham h).place == .occupied) && !claimed s h
    && !s.insts.any (fun x => (x.2.plane == .active || x.2.plane == .freezing) && x.2.hams.contains h)
    && decide ((s.insts.filter fun x => x.2.plane.shadows && x.2.hams.contains h).length ≤ 2)

/-- Clears a range of memory; the waiters of its words are served as they become full. -/
def clearServe (s : State) (a n : Nat) : State :=
  let s := { s with mem := s.mem.clearRange a n }
  let ws := ((s.waiters.map (·.word)).filter fun w => a ≤ 8 * w && 8 * w < a + n).dedup
  ws.foldl serveWaiters s

/-- HAMLET_CLEAR_COMPLETE (R140): after 1,024 cycles the scratchpad is clear and the hamlet has its new owner. -/
def execHamletClearComplete (h : Nat) (s : State) : Host.Outcome State Fault Refusal :=
  .next <|
    let x := s.ham h
    match x.clearFor with
    | none => s
    | some (c, t) =>
      if (s.cycle - t).toNat < 1024 then s
      else (clearServe s (scratchBase h) Config.scratchBytes).updHam h fun x =>
        { x with place := if x.place != .clearing then x.place else if claimed s h then .occupied else .free
                 owner := some c, ctx := c, clearFor := none }

/-- GRANARY_CLEAR_COMPLETE (R140): after 262,144 cycles the slice is clear and belongs to its new context. -/
def execGranaryClearComplete (sl : Nat) (s : State) : Host.Outcome State Fault Refusal :=
  .next <|
    match mget s.sliceClear sl with
    | none => s
    | some (c, t) =>
      if (s.cycle - t).toNat < 262144 then s
      else { clearServe s (slicePhys sl 0) Config.sliceBytes with
        sliceClear := mdel s.sliceClear sl
        sliceOwner := mset s.sliceOwner sl c }

/-! ## The cells of a fresh instance -/

/-- A descriptor and the scale tensor that it names, taken at placement (R193). -/
def takePair (s : State) (ctx tid : Nat) : Except Stop (Desc × Desc) := do
  let d ← takeDesc s ctx tid
  let sd ← if d.sc then takeDesc s ctx d.stid else Except.ok Desc.raw
  .ok (d, sd)

/-- Rows of a tensor: the elements of its dimensions 1 to 3 together; a count of 0 ends the list (R190, R192). -/
def Desc.rows (d : Desc) : Nat :=
  (((List.range 3).map fun i => d.count (i + 1)).takeWhile (· != 0)).foldl (· * ·) 1

/-- Whether a scaled weight operand can have k along dimension 0, as it must (R59): the tensor has a row for each of the
mill's columns.  DEDUCED (log 54): a descriptor does not name its dimensions, so what its counts do not contradict is
taken; those of an activation operand, of which a mill may take any number of rows, contradict nothing. -/
def scaledAlongK (c : Cell) (d : Desc) : Bool := fmtBlock c.wfmt == 0 || decide (c.ncol ≤ d.rows)

/-- The node states of a cell, with the descriptors that it takes. -/
def freshNodes (s : State) (ctx vf : Nat) (c : Cell) : Except Stop (SMap NodeSt) :=
  match c.kind with
  | .join => .ok [(0, .join {})]
  | .merge => .ok (if c.fld 1 0 2 = 2 then [(0, .loop {})] else [])
  | .count => .ok [(0, .count {})]
  | .coalesce => .ok [(0, .coal {})]
  | .reduce => .ok [(0, .red {})]
  | .warp => do
    let f ← takeDesc s ctx (c.fld 1 0 8)
    let e ← takeDesc s ctx (c.fld 1 8 8)
    let _ ← takeCtab s vf (c.fld 1 0 8) f.ctab
    .ok [(0, .warp { feat := f, err := e })]
  | .memory =>
    ((List.range 4).filter (memValid c)).foldlM (fun m k => do
      let d ← takeDesc s ctx (memTid c k)
      .ok (mset m k (NodeSt.mem { desc := d }))) []
  | .convert => do
    let (d, sd) ← takePair s ctx (c.fld 1 24 8)
    .ok [(0, .conv { desc := d, sdesc := sd })]
  | .mac =>
    if isHead c then do
      let (w, ws) ← takePair s ctx (c.fld 3 8 8)
      let (a, as) ← takePair s ctx (c.fld 3 0 8)
      check (scaledAlongK c w) .cfgReject 0 sFormat
      .ok [(0, .mac { wdesc := w, wsdesc := ws, adesc := a, asdesc := as })]
    else .ok []
  | _ => .ok []

/-- A fresh cell of a record. -/
def freshCell (s : State) (ctx vf : Nat) (r : CellRec) : Except Stop Cell := do
  let c : Cell := { kind := r.kind, words := r.words, ctags := r.ctags
                    slots := r.blocks.map fun x => (x.1, x.2.slot.noteReady s.cycle) }
  let ns ← freshNodes s ctx vf c
  .ok { c with nodes := ns }

/-- The cells of a graph from a list of records with their places. -/
def freshCells (s : State) (ctx vf : Nat) : List (Nat × Nat × CellRec) → Except Stop (SMap Cell)
  | [] => .ok []
  | (p, i, r) :: l => do
    let m ← freshCells s ctx vf l
    if r.kind = .unused then .ok m
    else do
      let c ← freshCell s ctx vf r
      .ok (mset m (16 * p + i) c)

/-! ## Circuits (R36, R197, R311; log 14) -/

/-- The hamlet at a column and row of the package's grid of dies (R11). -/
def gridHam (col row : Nat) : Nat := (row / 8 * 4 + col / 10) * 80 + row % 8 * 10 + col % 10
/-- Column in the package's grid. -/
def gridCol (h : Nat) : Nat := hamDie h % 4 * 10 + hamCol h
/-- Row in the package's grid. -/
def gridRow (h : Nat) : Nat := hamDie h / 4 * 8 + hamRow h

/-- The neighbours of a hamlet, north, east, south, west. -/
def neighbours (h : Nat) : List Nat :=
  let c := gridCol h
  let r := gridRow h
  (if r = 0 then [] else [gridHam c (r - 1)]) ++ (if c < 39 then [gridHam (c + 1) r] else [])
    ++ (if r < 15 then [gridHam c (r + 1)] else []) ++ (if c = 0 then [] else [gridHam (c - 1) r])

/-- The side of a hamlet that faces another. -/
def sideTo (h d : Nat) : Nat := ((neighbours h).findIdx? (· == d)).elim 4 fun i =>
  let c := gridCol h
  let r := gridRow h
  let sides := (if r = 0 then [] else [0]) ++ (if c < 39 then [1] else []) ++ (if r < 15 then [2] else [])
    ++ (if c = 0 then [] else [3])
  sides.getD i 4

/-- A shortest path to a hamlet through hamlets that pass a test, breadth first: paths with their last hamlet
first. -/
def findPath (ok : Nat → Bool) (dst : Nat) : Nat → List (List Nat) → List Nat → Option (List Nat)
  | 0, _, _ => none
  | fuel + 1, paths, seen =>
    match paths.find? fun p => p.head? == some dst with
    | some p => some p.reverse
    | none =>
      let ext : List (List Nat) × List Nat := paths.foldl (fun a p =>
        (neighbours (p.headD 0)).foldl (fun a h =>
          if ok h && !a.2.contains h then (a.1 ++ [h :: p], h :: a.2) else a) a) ([], seen)
      if ext.1.isEmpty then none else findPath ok dst fuel ext.1 ext.2

/-- A switch entry. -/
def switchEntry (ctx circ in_ out lport : Nat) : W64 :=
  BitVec.ofNat 64 (1 <<< 63 + (ctx % 1024) <<< 53 + (circ % 65536) <<< 37 + in_ <<< 34 + out <<< 31 + (lport % 64) <<< 25)

/-- The entries of a circuit along a path. -/
def pathEntries (ctx circ sport dport : Nat) (prev : Nat) : List Nat → List (Nat × W64)
  | [] => []
  | [h] => [(h, switchEntry ctx circ (sideTo h prev) 4 dport)]
  | h :: d :: l =>
    let i := sideTo h prev
    (h, switchEntry ctx circ i (sideTo h d) (if i = 4 then sport else 0))
      :: pathEntries ctx circ sport dport h (d :: l)

/-- Circuit identifiers in use. -/
def usedIds (s : State) : List Nat := s.insts.flatMap fun x => (x.2.circs.map (·.id)).filter (· != 0)

/-- The lowest circuit identifier from `i` up that is not in use. -/
def freshId (used : List Nat) : Nat → Nat → Nat
  | 0, i => i
  | n + 1, i => if used.contains i then freshId used n (i + 1) else i

/-- Entries that a hamlet's switch has left, beside a list of new ones. -/
def switchRoom (s : State) (new : List (Nat × W64)) (h : Nat) : Bool :=
  (s.ham h).switch.length + (new.filter (·.1 == h)).length < 64

/-- Routes circuits between hamlets, each as identifier, source and destination hamlet and ports; `none` where
one has no route. -/
def routeAll (s : State) (part : List Nat) (ctx : Nat) :
    List (Nat × Nat × Nat × Nat × Nat) → List (Nat × W64) → Option (List (Nat × W64))
  | [], new => some new
  | (id, hs, hd, sp, dp) :: l, new =>
    let ok (h : Nat) : Bool := part.contains h && switchRoom s new h
    if !ok hs then none
    else match findPath ok hd 641 [[hs]] [hs] with
      | none => none
      | some p => routeAll s part ctx l (new ++ pathEntries ctx id sp dp hs p)

/-- Writes switch entries. -/
def putHops (s : State) (es : List (Nat × W64)) : State :=
  es.foldl (fun s e => s.updHam e.1 fun x => { x with switch := x.switch ++ [e.2] }) s
/-- Clears switch entries. -/
def dropHops (s : State) (es : List (Nat × W64)) : State :=
  es.foldl (fun s e => s.updHam e.1 fun x => { x with switch := x.switch.erase e.2 }) s

/-! ## The placement map (R196) -/

/-- Planes of a hamlet in use. -/
def planesAt (s : State) (h : Nat) : Nat :=
  (s.insts.filter fun x => x.2.plane != .spilled && x.2.hams.contains h).length

/-- Brings DEPTH and PAGE of a hamlet's entry up to date; one whose last page has gone falls free, or is
retired (R196, R201). -/
def syncHam (s : State) (h : Nat) : State :=
  let held := claimed s h || s.insts.any fun x => x.2.hams.contains h
  let page := match pageAt s h with
    | some (_, p) => p
    | none => (s.ham h).page
  s.updHam h fun x => { x with
    place := if held then x.place else if x.place = .retiring then .retired
      else if x.place = .occupied then .free else x.place
    page := page, depth := planesAt s h }

/-- Claims hamlets for a context in one step (R196): one of another owner is CLEARING first (R140). -/
def takeHams (s : State) (ctx : Nat) (hams : List Nat) : State :=
  hams.foldl (fun s h => if needsClear s ctx h then startClear s ctx h
    else s.updHam h fun x => { x with place := if x.place = .free then .occupied else x.place }) s

/-- Whether claimed hamlets have been cleared. -/
def cleared (s : State) (hams : List Nat) : Bool := hams.all fun h => (s.ham h).place != .clearing

/-- The hamlets of an instance that is placed: OCCUPIED, with their owner. -/
def claimHams (s : State) (ctx : Nat) (hams : List Nat) : State :=
  hams.foldl (fun s h => syncHam (s.updHam h fun x => { x with
    place := if x.place = .free then .occupied else x.place, ctx := ctx, owner := some ctx }) h) s

/-! ## A fresh instance -/

/-- Why an instance cannot be made: it waits, or it ends with a fault. -/
abbrev Placing (α : Type) := Except (Option Trap) α

/-- The circuits of a graph; those between pages have identifiers. -/
def graphCircs (used : List Nat) : List Route → List Circ
  | [] => []
  | r :: l =>
    let id := if r.sp = r.dp then 0 else freshId used (used.length + 1) 1
    { sp := r.sp, sc := r.sc, sport := r.sport, dp := r.dp, dc := r.dc, dport := r.dport, ctrl := r.ctrl, id := id : Circ }
      :: graphCircs (if id = 0 then used else id :: used) l

/-- Gives circuits identifiers that are not in use. -/
def numberCircs (used : List Nat) : List Circ → List Circ
  | [] => []
  | c :: l =>
    let id := freshId used (used.length + 1) 1
    { c with id := id } :: numberCircs (id :: used) l

/-- Puts the initial tokens of a record into its inputs, with the launch's context (R419). -/
def putInitial (s : State) (i ctx : Nat) (x : Nat × Nat × CellRec) : State :=
  x.2.2.tokens.foldl (fun s (p, t) =>
    let ctrl := match x.2.2.use p with
      | some u => u.ctrl
      | none => false
    enterIn s ⟨i, x.1, x.2.1, 0⟩ p ctrl
      { t with tag := mkTag ctx (tagThread t.tag) (tagRound t.tag) (tagIndex t.tag), init := true }) s

/-- The accumulators and stream ports of a hamlet at the load of its first page. -/
def freshHam (s : State) (h : Nat) : State :=
  { s with
    accs := s.accs.filter fun x => !(h * 65536 ≤ x.1 && x.1 < (h + 1) * 65536)
    ports := s.ports.filter fun x => !(h * 16 ≤ x.1 && x.1 < (h + 1) * 16) }

/-- A circuit with one link for each switch entry that it has (R176). -/
def Circ.hopped (c : Circ) (hops : List (Nat × W64)) : Circ :=
  let n := (hops.filter fun e => natField e.2.toNat 37 16 == c.id).length
  if c.id = 0 then c else { c with links := List.replicate (Nat.max n 1) {} }

/-- Whether the Hayward of a hamlet's die lets a VF's switch entries be written there: an entry of its own table covers
the hamlet (R198). -/
def haywardTakes (s : State) (vf h : Nat) : Bool :=
  s.fences.any fun (i, e) => i / 16 == hamDie h && e.valid && e.vf == vf && (partHamlets (hamDie h, e)).contains h

/-- Makes a gated instance of a graph on hamlets, which it claims (R36, R42, R193, R196, R197). -/
def makeInst (s : State) (launch : Nat) (g : Graph) (kind : InstKind) (depth : Nat) (hams : List Nat)
    (extra : List Circ := []) : Placing (State × Nat) := do
  let (ctx, vf) := match s.launchOf launch with
    | some l => (l.ctx, l.vf)
    | none => (0, 0)
  let cells ← match freshCells s ctx vf (allRecs g.pages) with
    | .ok m => Except.ok m
    | .error (.trap t) => .error (some t)
    | .error (.trapIn _ t) => .error (some t)
    | .error _ => .error none
  let own := graphCircs (usedIds s) g.routes
  let circs := own ++ numberCircs (usedIds s ++ own.map (·.id)) extra
  let ham (i : Option Nat) (p : Nat) : Nat := match i.bind s.inst with
    | some x => x.hams.getD p 0
    | none => hams.getD p 0
  let ends := (circs.filter (·.id != 0)).map fun c => (c.id, ham c.si c.sp, ham c.di c.dp, c.sport, c.dport)
  match routeAll s (vfHamlets s vf) ctx ends [] with
  | none => .error none
  | some hops =>
    if !hops.all (fun e => haywardTakes s vf e.1) then .error (some { code := .placeFail }) else
    let i := s.nextId
    let x : Inst := { launch := launch, graph := g, kind := kind, depth := depth, hams := hams, cells := cells
                      circs := circs.map (·.hopped hops), hops := hops }
    let s := (hams.filter fun h => planesAt s h == 0).foldl freshHam s
    let s := { s with nextId := i + 1, insts := mset s.insts i x }
    let s := putHops (claimHams s ctx hams) hops
    let s := if g.racing then s.updLaunch launch fun l => { l.note 3 with racing := true } else s
    .ok ((allRecs g.pages).foldl (fun s r => putInitial s i ctx r) s, i)

/-- Places a graph on hamlets that the pager has claimed for it: once they are clear, its blocks are read and checked
again (R224) and its pages load; until then it waits. -/
def placeOn (s : State) (launch ctx : Nat) (g : Graph) (kind : InstKind) (depth : Nat) (hams : List Nat)
    (extra : List Circ := []) : Placing (State × Option Nat) :=
  if !cleared s hams then .error none
  else
    let vf := match s.launchOf launch with
      | some l => l.vf
      | none => 0
    match rereadGraph s { who := .steward, ctx := ctx, vf := vf, ham := hams.headD 0 } g with
    | .ok (g, s) => do
      let (s, i) ← makeInst (release s .steward) launch g kind depth hams extra
      .ok (s, some i)
    | .error (.trap t) => .error (some t)
    | .error (.trapIn _ t) => .error (some t)
    | .error (.wait _ rq) => .ok (register s rq, none)
    | .error (.keep s _) => .ok (s, none)

/-! ## Handles (R270, R400) -/

/-- The base instance of a handle among a launch's live graphs. -/
def handleInst (s : State) (launch handle : Nat) : Option (Nat × Inst) :=
  s.insts.find? fun (_, x) => x.launch == launch && x.kind == .base && x.graph.handle == handle

/-- The lowest handle that names no live graph of a launch; `none` where 255 are live. -/
def freeHandle (s : State) (launch : Nat) : Option Nat :=
  (rangeFrom 1 255).find? fun h => (handleInst s launch h).isNone

/-! ## Release (R270, R38, R39) -/

/-- Drops what the nodes of an instance wait for and have been given; the claims of its side calls end. -/
def forgetNodes (s : State) (i : Nat) : State :=
  let gone : List Nat := (s.sides.filter fun x => x.2.node.inst == i).flatMap fun x => x.2.claim
  let mine (w : Who) : Bool := match w with
    | .node n => n.inst == i
    | _ => false
  gone.foldl syncHam { s with
    waiters := s.waiters.filter fun w => !mine w.who
    gifts := s.gifts.filter fun g => !mine g.who
    walkGifts := s.walkGifts.filter fun g => !mine g.who
    peerIn := s.peerIn.filter fun g => !mine g.who
    bankWait := s.bankWait.filter fun g => !mine g.1
    walks := s.walks.map fun w => { w with waiters := w.waiters.filter fun x => !mine x }
    sides := s.sides.filter fun x => x.2.node.inst != i }

/-- Drops the placement requests of a launch, whose claims end. -/
def dropPlaces (s : State) (launch : Nat) : State :=
  let gone : List Nat := (s.places.filter fun x => x.2.launch == launch).flatMap fun x => x.2.claim
  gone.foldl syncHam { s with places := s.places.filter fun x => x.2.launch != launch }

/-- Puts the stream ports that a frozen plane holds back at its hamlets (R39, R269). -/
def thawPorts (s : State) (x : Inst) : State :=
  x.ports.foldl (fun s (k, q) => s.setSport (x.hams.getD (k / 16) 0) (k % 16) q) s

/-- Takes the stream ports of a plane off its hamlets. -/
def freezePorts (s : State) (i : Nat) : State :=
  match s.inst i with
  | none => s
  | some x =>
    let at_ : SMap SPort := x.hams.zipIdx.flatMap fun (h, p) =>
      (List.range 16).filterMap fun j => (mget s.ports (h * 16 + j)).map fun q => (16 * p + j, q)
    let s := { s with ports := s.ports.filter fun y => !x.hams.contains (y.1 / 16) }
    s.updInst i fun x => { x with ports := at_ }

/-- The instances that an instance has called and that still stand. -/
def calleesOf (s : State) (i : Nat) : List Nat :=
  (s.insts.filter fun x => match x.2.kind with
    | .base => false
    | .stacked c _ => c == i
    | .side n _ => n.inst == i).map (·.1)

/-- Releases one instance: its streams end, its tokens and state go, its hamlets and switch entries fall free. -/
def releaseOne (s : State) (i : Nat) : State :=
  match s.inst i with
  | none => s
  | some x =>
    let s := if x.plane = .active || x.plane = .freezing then s else thawPorts s x
    let s := x.hams.foldl (fun s h => (List.range 16).foldl (fun s p =>
      if (mget s.ports (h * 16 + p)).isSome then endStreams s h p else s) s) s
    let s := dropHops (forgetNodes s i) x.hops
    let s := raiseHeld { s with insts := mdel s.insts i } x.launch
    let s := if x.plane = .freezing || x.plane = .spilling || x.plane = .refilling then sweepAfresh s x.launch else s
    let c := match s.launchOf x.launch with
      | some l => l.ctx
      | none => 0
    let cx := s.ctxOf c
    let s := s.setCtx c { cx with spill := cx.spill.filter (·.1 != i) }
    (x.hams ++ x.claim).foldl syncHam s

/-- Releases an instance and everything that it has called, callees first. -/
def releaseInst : Nat → Nat → State → State
  | 0, i, s => releaseOne s i
  | n + 1, i, s => releaseOne ((calleesOf s i).foldl (fun s j => releaseInst n j s) s) i

/-- Releases every graph of a launch (R41, R377). -/
def releaseLaunch (s : State) (launch : Nat) : State :=
  let base := (s.insts.filter fun x => x.2.launch == launch && x.2.kind == .base).map (·.1)
  base.foldl (fun s i => releaseInst s.insts.length i s) s

end Sys2Proof.Machine
end

