-- ==== Sys2Proof/Machine/Sweep.lean ====
section
/-! DEFINITION. What a graph can still do, whether it has settled, and the Beadle's sweeps (R39, R56, R57, R273,
R388). -/

namespace Sys2Proof.Machine

/-! ## The steps open to a graph -/

/-- A step of the machine that goes on by itself. -/
abbrev Act := State → State

/-- The step that a meaning makes. -/
def act (f : State → Host.Outcome State Fault Refusal) : Act := fun s =>
  match f s with
  | .next t => t
  | _ => s

/-- The steps of the node or nodes of a cell. -/
def cellSteps (i p c : Nat) (x : Cell) : List Act :=
  let n (k : Nat) : NodeRef := ⟨i, p, c, k⟩
  let mark : Act := act (execNodeMarkerPass (n 0))
  match x.kind with
  | .actor => (mkeys x.slots).flatMap fun a =>
      [act (execWindowWriteApply (n a)), act (execActorDataFiring (n a)), act (execMarkerStep (n a))]
  | .join => [act (execJoinCombine (n 0)), mark]
  | .steer => [act (execSteerRoute (n 0)), mark]
  | .merge => (match x.fld 1 0 2 with
    | 0 => [act (execMergeSequence (n 0)), mark]
    | 1 => [act (execMergeKey (n 0)), mark]
    | _ => [act (execLoopheadMerge (n 0))])
  | .count => if x.fld 1 0 2 = 0 then [act (execCountIndex (n 0)), mark] else [act (execCountLoop (n 0))]
  | .filter => [act (execFilterToken (n 0)), mark]
  | .coalesce => [act (execCoalesce (n 0)), mark]
  | .fanout => [act (execFanoutEnqueue (n 0))]
  | .reduce => [act (execReduceStep (n 0)), act (execReduceGroupClose (n 0)), mark]
  | .warp => [act (execWarpRequest (n 0)), mark]
  | .convert => [act (execConvertElement (n 0)), mark]
  | .mac => [act (execMacWeightLoad (n 0)), act (execMacActivationRow (n 0)), act (execMacRoundRelease (n 0)), mark]
  | .memory => ((List.range 4).filter (memValid x)).flatMap fun k =>
      [act (execMemoryOrderOut (n k)), act (execMemoryReply (n k)),
       (match memMode x k with
        | 0 => act (execMemoryLoad (n k)) | 1 => act (execMemoryStore (n k)) | 2 => act (execMemoryGather (n k))
        | 3 => act (execMemoryScatter (n k)) | _ => act (execMemoryUpdate (n k))),
       act (execNodeMarkerPass (n k))]
  | .unused => []

/-- The steps of the links of an instance, the last hop of a circuit first. -/
def linkSteps (i : Nat) (x : Inst) : List Act :=
  x.circs.zipIdx.flatMap fun (c, k) => act (execCreditReturn i k) ::
    (List.range (c.links.length + 1)).reverse.map fun hop => act (execLinkTokenTransfer i k hop)

/-- The steps of the stream ports of an instance's pages. -/
def portSteps (x : Inst) : List Act :=
  x.hams.zipIdx.flatMap fun (h, p) =>
    let c := x.cell p 15
    if c.kind != .memory then []
    else ((List.range 16).filter fun j => declUsed (c.word (32 + 2 * j)).toNat).flatMap fun j =>
      [act (execStreamStart h j), act (execStreamElement h j), act (execStreamComplete h j)]

/-- Every step of an instance, links first. -/
def instSteps (i : Nat) (x : Inst) : List Act :=
  linkSteps i x ++ (x.cells.flatMap fun (k, c) => cellSteps i (k / 16) (k % 16) c) ++ portSteps x

/-! ## Replies owed, settled graphs -/

/-- Whether a requester belongs to an instance: a node of it, or a stream port of its pages. -/
def ownedBy (i : Nat) (x : Inst) (w : Who) : Bool :=
  match w with
  | .node n => n.inst == i
  | .stream h _ => x.hams.contains h && (x.plane == .active || x.plane == .freezing)
  | _ => false

/-- Whether a MEMORY node of a cell has accesses in its queue, or a result not formed. -/
def memBusy (x : Cell) : Bool :=
  x.kind == .memory && (List.range 4).any fun k => !(x.memSt k).queue.isEmpty || !(x.memSt k).toks.isEmpty

/-- Whether a memory reply or an acknowledgement is owed to an instance (R56): from another package, from a
sparse-update unit, of a page walk, or for an access that stands in a MEMORY node's queue. -/
def repliesOwed (s : State) (i : Nat) : Bool :=
  match s.inst i with
  | none => false
  | some x =>
    s.peerOut.any (fun p => ownedBy i x p.who) || s.windows.any (fun w => w.2.any fun u => u.srcs.any (ownedBy i x))
      || s.walks.any (fun w => w.waiters.any (ownedBy i x)) || x.cells.any fun y => memBusy y.2

/-- Whether a circuit of an instance stands still: no token on its wires can enter the buffer or the FIFO that it
stands before, and every freed slot has given its credit back (R39, R56). -/
def circStill (s : State) (i : Nat) (c : Circ) : Bool :=
  (List.range c.links.length).all fun k =>
    let l := c.link k
    l.returned == 0 && (l.fifo.isEmpty ||
      (if k + 1 = c.links.length then !bufRoom s (c.dstRef i) c.dport else (c.link (k + 1)).credits == 0))

/-- A firing in progress in a cell. -/
def firingWaits (x : Cell) : Bool := x.slots.any fun y => y.2.firing.isSome

/-- Whether a firing waits in SPLDSYN (R294). -/
def Slot.inSyn (y : Slot) : Bool :=
  match y.firing with
  | some f => f.waiting && (aword (y.code.getD f.idx 0)).opc == 0x52
  | none => false

/-- The token-consistent point of an instance (R39, R294): no token on a wire that a buffer could take, no reply
owed, and no firing in progress but one that waits in SPLDSYN. -/
def settled (s : State) (i : Nat) : Bool :=
  match s.inst i with
  | some x => !repliesOwed s i && x.circs.all (circStill s i)
      && x.cells.all fun y => y.2.slots.all fun z => z.2.firing.isNone || z.2.inSyn
  | none => true

/-- Abandons the firings of an instance that wait in SPLDSYN (R294). -/
def abandonAll (s : State) (i : Nat) : State :=
  match s.inst i with
  | none => s
  | some x => x.cells.foldl (fun s (k, c) =>
      c.slots.foldl (fun s (a, y) =>
        if y.inSyn then abandonFiring s ⟨i, k / 16, k % 16, a⟩ else s) s) s

/-! ## The Beadle -/

/-- Whether a site JOIN holds a call or a return that it has gathered. -/
def siteBusy (c : Cell) : Bool :=
  c.kind == .join && (c.isCalls || c.isRets) && (siteFull c || c.joinSt.calling || c.joinSt.held.isSome)

/-- Whether an instance is quiescent (R56): no step of it changes anything, nothing is in flight, nothing is
owed. -/
def quietInst (s : State) (i : Nat) (x : Inst) : Bool :=
  x.plane == .active && !repliesOwed s i
    && x.circs.all (·.idle)
    && !x.cells.any (fun y => siteBusy y.2 || firingWaits y.2)
    && (instSteps i x).all fun e => e s == s

/-- Whether an instance is idle at a sweep: no step of it changes anything and nothing is owed (R57). -/
def idleInst (s : State) (i : Nat) (x : Inst) : Bool :=
  !repliesOwed s i && (instSteps i x).all fun e => e s == s

/-- The input ports of a node of a cell that is a sink, by cell and actor slot or MEMORY node. -/
def sinkInputs (x : Cell) : List (Nat × Nat) :=
  match x.kind with
  | .actor => x.slots.flatMap fun (a, y) =>
      if y.valid && y.usedOut.isEmpty then y.usedIn.map fun p => (a, 8 * a + p) else []
  | .memory => ((List.range 4).filter (memValid x)).flatMap fun k =>
      if memResult x k || memOrdout x k then [] else (memIns x k).map fun p => (k, p)
  | .unused => []
  | _ => if x.outs.isEmpty then x.ins.map fun p => (0, p) else []

/-- A stream port of a page of an instance, in the hamlet or, where the plane is frozen, with the plane. -/
def instPort (s : State) (x : Inst) (pg p : Nat) : SPort :=
  if x.plane.shadows then mgetD x.ports (16 * pg + p) {} else s.sport (x.hams.getD pg 0) p

/-- Whether EOS has come to every sink of an instance (R56).  DESIGN CHOICE (log 30): the spec does not say what a sink
is; the model takes the nodes without outputs, and the stream ports towards memory. -/
def allEos (s : State) (x : Inst) : Bool :=
  x.cells.all (fun (k, c) =>
    (sinkInputs c).all (fun q => c.closed.contains q.2)
      && (c.kind != .memory || (List.range 16).all fun p =>
        let d := (c.word (32 + 2 * p)).toNat
        !(declUsed d && declDir d) || (instPort s x (k / 16) p).closed))

/-- The instances of a graph: its base instance and all that it has called. -/
def graphInsts : Nat → State → Nat → List Nat
  | 0, _, i => [i]
  | n + 1, s, i => i :: (calleesOf s i).flatMap (graphInsts n s)

/-- The instances of a launch. -/
def launchInsts (s : State) (l : Nat) : List (Nat × Inst) := s.insts.filter fun x => x.2.launch == l

/-- How a reeve stands to the region of its launch (R57). -/
inductive Stand where
  | waits
  /-- It waits in LDSYN on an empty word. -/
  | ldsyn
  | runs
  deriving DecidableEq, Repr

/-- Whether a transfer is a stream on a stream port of the region. -/
def regionStream (s : State) (h : Nat) (x : Xfer) : Bool :=
  match x.kind with
  | .stream _ => s.insts.any fun y => y.2.launch == (s.reeve h).launch && y.2.hams.contains h
  | _ => false

/-- Whether a reeve that waits on tags still has some busy and all of those belong to streams of its region. -/
def tagsStand (s : State) (h : Nat) (m : W64) : Bool :=
  let r := s.reeve h
  let busy := r.tbusy &&& m
  busy != 0 && (List.range 64).all fun t => !busy.getLsbD t ||
    r.xfers.any fun x => x.2.comp == .tag t && regionStream s h x.2

/-- A reeve's standing.  An open session can complete entries of the ring that it writes; a reeve whose wait has ended, but
which has not gone on yet, runs. -/
def standOf (s : State) (h : Nat) : Stand :=
  let r := s.reeve h
  if r.run != .running then .waits
  else if r.stop then .runs
  else match r.wait with
    | some (.qsweep _) => .waits
    | some (.tags m) => if tagsStand s h m then .waits else .runs
    | some (.anyTag m) => if r.tbits &&& m == 0 && tagsStand s h m then .waits else .runs
    | some (.ring n k) =>
      let mine (x : Xfer) : Bool := match x.comp with
        | .ring k _ => k == n
        | _ => false
      if ((r.ring n).wp - (r.ring n).rp).toNat < k && (ringSession s h n).isNone && r.xfers.all fun x => !mine x.2 || regionStream s h x.2 then .waits else .runs
    | some (.ldsyn w) => if s.emptyAt w then .ldsyn else .runs
    | _ => .runs

/-- The remaining conditions of R57 for a launch: no side call waits, no freeze is in progress, and every reeve
has exited or waits on the region. -/
def deadConds (s : State) (l : Nat) (x : Launch) (own : Option Nat) : Bool :=
  let side := s.sides.any fun y => s.instLaunch y.2.node.inst == l
  let freeze := (launchInsts s l).any fun y =>
    y.2.plane == .freezing || y.2.plane == .spilling || y.2.plane == .refilling
  let st := (x.reeves.filter fun h => some h != own).map (standOf s)
  let other := x.reeves.any fun h => (s.reeve h).xfers.any fun y => match y.2.kind with
    | .stream _ => false
    | _ => true
  !side && !freeze && !st.contains .runs && (!st.contains .ldsyn || !other)

/-- A DEADLIST entry (R376): relative die in bits 26:24, relative hamlet in bits 22:16, cell in bits 11:8 and slot in
bits 5:4 as in FSITE, and the mask of inputs held in bits 3:0 (DESIGN CHOICE, log 30). -/
def deadEntry (s : State) (vf h cell slot mask : Nat) : BitVec 32 :=
  siteOf s vf h cell slot false ||| BitVec.ofNat 32 (mask % 16)

/-- The mask of the ports of a list that pass a test, if some but not all do. -/
def someNotAll (ps : List Nat) (f : Nat → Bool) : Nat :=
  let on := ps.filter f
  if on.isEmpty || on.length = ps.length then 0 else on.foldl (fun m p => m ||| 2 ^ p) 0

/-- The nodes of a cell that the Beadle lists, by slot, with the inputs for which it lists them (R34, R57): a JOIN's
tokens, a stateful node's EOR. -/
def deadMasks (x : Cell) : List (Nat × Nat) :=
  let eor (p : Nat) : Bool := (x.buf p).any (·.kind == .eor)
  match x.kind with
  | .join => [(0, someNotAll x.ins (fun p => !(x.buf p).isEmpty) ||| someNotAll x.ins eor)]
  | .reduce => [(0, someNotAll x.ins eor)]
  | .mac => if x.accBit then [(0, someNotAll x.ins eor)] else []
  | .actor => x.slots.filterMap fun (a, y) =>
      if y.closing then
        some (a, someNotAll y.usedIn fun p =>
          (List.range (y.port p).fill).any fun j => ((y.port p).at j).kind == .eor)
      else none
  | _ => []

/-- A node in the Beadle's order: hamlet, cell, slot. -/
structure DeadNode where
  ham : Nat
  cell : Nat
  slot : Nat
  mask : Nat
  deriving DecidableEq, Repr

/-- Whether a node comes before another: by hamlet, then cell, then slot. -/
def DeadNode.before (a b : DeadNode) : Bool :=
  a.ham < b.ham || (a.ham == b.ham && (a.cell < b.cell || (a.cell == b.cell && a.slot < b.slot)))

/-- A node put in its place. -/
def insDead (a : DeadNode) : List DeadNode → List DeadNode
  | [] => [a]
  | b :: l => if a.before b then a :: b :: l else b :: insDead a l

/-- The Beadle's report of a launch: up to 32 entries, one a node, in cell order.  DESIGN CHOICE (log 30): over several
hamlets the order is by the package's hamlet number, then the cell, then the slot; planes of one cell stand in the order
in which they were made. -/
def deadList (s : State) (l vf : Nat) : List (BitVec 32) :=
  let nodes : List DeadNode := (launchInsts s l).flatMap fun (_, x) => x.cells.flatMap fun (k, c) =>
    (deadMasks c).filterMap fun (a, m) =>
      if m = 0 then none else some { ham := x.hams.getD (k / 16) 0, cell := k % 16, slot := a, mask := m }
  ((nodes.foldl (fun l a => insDead a l) []).take 32).map fun a => deadEntry s vf a.ham a.cell a.slot a.mask

/-- DEADLOCK enters the launch status, with the report (R57, R388). -/
def raiseDeadlock (s : State) (l vf : Nat) : State :=
  let s := s.updLaunch l fun x => { x.note 2 with deadlist := deadList s l vf }
  let s := recordFault s l { code := .deadlock } 0
  (launchInsts s l).foldl (fun s y => s.updInst y.1 fun x => { x with deadlocked := true }) s

/-- Notes what a sweep found of an instance (R272). -/
def noteSweep (s : State) (i : Nat) (x : Inst) : State :=
  let q := quietInst s i x
  s.updInst i fun x => { x with
    quiescent := q, complete := q && allEos s x, deadlocked := x.deadlocked && idleInst s i x }

/-- A sweep of the Beadle has seen what an instance did since the one before. -/
def seen (s : State) (i : Nat) : State := s.updInst i fun x => { x with active := false }

/-- Cycles between sweeps. -/
def sweepGap : Nat := 65536

/-- Whether sweeps of a launch are suspended (R388), also while a checkpoint holds its sources (log 43). -/
def sweepsOff (s : State) (l : Nat) (x : Launch) : Bool :=
  x.st != .running || x.ckptAt.isSome || (launchInsts s l).any fun y =>
    y.2.plane == .freezing || y.2.plane == .spilling || y.2.plane == .refilling

/-- BEADLE_SWEEP (R388): the launch's region is swept when 65,536 cycles have passed; two sweeps in a row that saw
no firing and no reply owed, some sink without EOS and the conditions of R57 are a DEADLOCK. -/
def execBeadleSweep (l : Nat) (s : State) : Host.Outcome State Fault Refusal :=
  .next <|
    match s.launchOf l with
    | none => s
    | some x =>
      if sweepsOff s l x then s.updLaunch l fun x => { x with sweepAt := s.cycle, idle := false }
      else if (s.cycle - x.sweepAt).toNat < sweepGap then s
      else
        let is := launchInsts s l
        let idle := !is.isEmpty && is.all fun (i, y) => !y.active && idleInst s i y
        let dead := idle && x.idle && !is.all (fun y => allEos s y.2) && deadConds s l x none
          && !is.all fun y => y.2.deadlocked
        let t := is.foldl (fun t y => seen (noteSweep t y.1 y.2) y.1) s
        let t := if dead then raiseDeadlock t l x.vf else t
        t.updLaunch l fun x => { x with sweepAt := s.cycle, idle := idle }

/-- Whether an instance has been idle since a reeve's last sweep, which saw how often each instance had acted; `none` at its
first sweep. -/
def restful (s : State) (saw : Option (SMap Nat)) (y : Nat × Inst) : Bool :=
  idleInst s y.1 y.2 && match saw with
    | some m => y.2.acts == mgetD m y.1 0
    | none => true

/-- The code of a QSWEEP (R273), from a sweep of its graph; `none` where it sweeps again.  `saw` is what the sweep before
it saw, where there was one.  The region of R57, for a deadlock, is that of the launch, with all its graphs (R388; DEDUCED,
log 30). -/
def qsweepCode (s : State) (h l : Nat) (x : Launch) (is : List (Nat × Inst)) (saw : Option (SMap Nat)) : Option Nat :=
  let quiet := is.all fun (i, y) => quietInst s i y
  let region := launchInsts s l
  let dead := deadConds s l x (some h) && region.all (restful s saw)
  if !is.all (restful s saw) then some 0
  else if quiet && is.all fun y => allEos s y.2 then some 2
  else if quiet && !dead then some 1
  else if saw.isSome && !region.all (fun y => allEos s y.2) && dead then some 3
  else none

/-- How often each instance of a launch has acted, as a sweep sees it. -/
def actsOf (s : State) (l : Nat) : SMap Nat := (launchInsts s l).map fun y => (y.1, y.2.acts)

/-- QSWEEP (R273). -/
def execQsweep (p : Guard) (d a : GReg) (s : State) : Host.Outcome State Fault Refusal :=
  word p (fun s =>
    let r := s.me
    let v := (r.gr a).toNat
    match handleInst s r.launch v, s.launchOf r.launch with
    | some (i, _), some x =>
      let is := (graphInsts s.insts.length s i).filterMap fun j => (s.inst j).map fun y => (j, y)
      let off := sweepsOff s r.launch x
      let due := match r.sweepAt with
        | some c => decide (sweepGap ≤ (s.cycle - c).toNat)
        | none => true
      if off then
        .error (.keep (s.setMe { r with sweepAt := r.sweepAt.map fun _ => s.cycle }) (.qsweep v))
      else if !due then await (.qsweep v)
      else
        let code := qsweepCode s s.cur r.launch x is (r.sweepAt.map fun _ => r.sweepSaw)
        let t := is.foldl (fun t y => noteSweep t y.1 y.2) s
        match code with
        | none => .error (.keep (t.setMe { r with sweepAt := some s.cycle, sweepSaw := actsOf s r.launch }) (.qsweep v))
        | some 3 =>
          let t := raiseDeadlock t r.launch x.vf
          let n := match t.launchOf r.launch with
            | some x => x.deadlist.length
            | none => 0
          .ok (t.setMe ({ r with sweepAt := none }.setG d (BitVec.ofNat 64 (3 + n <<< 8))), .next)
        | some c => .ok (t.setMe ({ r with sweepAt := none }.setG d (BitVec.ofNat 64 c)), .next)
    | _, _ => cfgReject sHandle) s

end Sys2Proof.Machine
end

