-- ==== Sys2Proof/Machine/Graphs.lean ====
section
/-! DEFINITION. The graph instructions of a reeve (R270 to R272, R391, R396, R400) and the pager's placement of a
graph (R36, R37, R198). -/

namespace Sys2Proof.Machine

/-! ## CFGLD -/

/-- The fixed places of a graph's stream pages in its launch's rectangle, and the refusals of R37 and R391. -/
def placeCheck (s : State) (l : Launch) (g : Graph) : Except Stop Unit :=
  match streamPlaces g (launchRect s l) with
  | none => cfgReject sPlace
  | some f => refuse (placeRefusal (vfHamlets s l.vf) g f)

/-- CFGLD (R270, R391): the image is read and checked; then the reeve waits for the pager. -/
def execCfgld (p : Guard) (d : GReg) (a : KReg) (s : State) : Host.Outcome State Fault Refusal :=
  word p (fun s => do
    let r := s.me
    let done (s : State) : State := s.updMe fun r => { r with placed := none, asking := false }
    if r.asking then
      match r.placed with
      | some (.inl h) => .ok ((done s).updMe (·.setG d (BitVec.ofNat 64 h)), .next)
      | some (.inr t) => .error (.trapIn (done s) t)
      | none => await .output
    else do
      let k := r.kr a
      let _ ← checkCapAt k k.offset (some 64) 256 clConfigure
      let (g, s) ← parseImage (imageReader s.acx k) 0 s
      match s.launchOf r.launch with
      | none => cfgReject sPlace
      | some l => do
        placeCheck s l g
        refuse (firstBad [((freeHandle s r.launch).isNone, sPlace)])
        let s ← releaseAll s s.cur
        let q : PReq := { launch := r.launch, hamlet := s.cur, graph := { g with cap := k } }
        let s := { s with nextId := s.nextId + 1, places := mset s.places s.nextId q }
        .error (.keep (s.updMe fun r => { r with asking := true, placed := none }) .output)) s

/-- Answers a placement request, whose claim ends. -/
def answerPlace (s : State) (req : Nat) (q : PReq) (a : Nat ⊕ Trap) : State :=
  let s := q.claim.foldl syncHam { s with places := mdel s.places req }
  s.setReeve q.hamlet { s.reeve q.hamlet with placed := some a }

/-- Whether every hamlet of a list is free (R36). -/
def allFree (s : State) (hams : List Nat) : Bool := hams.all (hamFree s)

/-- The free hamlets of a partition, those first where no plane stands (log 15). -/
def freeHams (s : State) (part : List Nat) : List Nat :=
  let l := part.filter (hamFree s)
  l.filter (fun h => planesAt s h == 0) ++ l.filter fun h => planesAt s h != 0

/-- The hamlets that the pager chooses for a request (log 15). -/
def pickPlace (s : State) (q : PReq) : Option (List Nat) :=
  match s.launchOf q.launch with
  | none => none
  | some l =>
    let part := vfHamlets s l.vf
    match streamPlaces q.graph (launchRect s l) with
    | none => none
    | some f =>
      match chooseHams part (freeHams s part) q.graph f with
      | some hams => if allFree s hams then some hams else none
      | none => none

/-- The claim of a placement request (R196). -/
def setClaim (s : State) (req : Nat) (q : PReq) (hams : List Nat) : State :=
  { s with places := mset s.places req { q with claim := hams } }

/-- Places a graph on the hamlets that its request has claimed, once they are clear; where no route can be had, the
claim is given up and the request waits. -/
def placeClaimed (s : State) (l : Launch) (req : Nat) (q : PReq) : State :=
  match freeHandle s q.launch with
  | none => answerPlace s req q (.inr { code := .cfgReject, sub := sPlace })
  | some handle =>
    match placeOn s q.launch l.ctx { q.graph with handle := handle } .base 0 q.claim with
    | .error none => if cleared s q.claim then q.claim.foldl syncHam (setClaim s req q []) else s
    | .error (some t) => answerPlace s req q (.inr t)
    | .ok (s, none) => s
    | .ok (s, some _) => answerPlace s req q (.inl handle)

/-- PAGE_PLACEMENT (R36, R37, R140, R196, R198): the pager claims free hamlets for a waiting graph and, once they are
clear, places it on them.  A choice outside the partition is refused by the Hayward: that placement fails with PLACE_FAIL,
which the launch status shows and no reeve traps on (R378), and the request waits for another (log 15). -/
def execPagePlacement (req : Nat) (hams : List Nat) (s : State) : Host.Outcome State Fault Refusal :=
  .next <|
    match mget s.places req with
    | none => s
    | some q =>
      match s.launchOf q.launch with
      | none => q.claim.foldl syncHam { s with places := mdel s.places req }
      | some l =>
        let part := vfHamlets s l.vf
        if l.st != .running then s
        else if !q.claim.isEmpty then placeClaimed s l req q
        else if hams.any fun h => !part.contains h then
          recordFault s q.launch { code := .placeFail } (siteOf s l.vf q.hamlet 0 0 false)
        else
          let fixed := (streamPlaces q.graph (launchRect s l)).getD []
          if !legalHams part q.graph fixed hams || !allFree s hams then s
          else placeClaimed (setClaim (takeHams s l.ctx hams) req q hams) l req { q with claim := hams }

/-! ## CFGREL -/

/-- The live graph that a register names. -/
def graphArg (s : State) (v : W64) : Except Stop (Nat × Inst) :=
  match handleInst s s.me.launch v.toNat with
  | some x => .ok x
  | none => cfgReject sHandle

/-- CFGREL (R270); a replay would not repeat it (R386). -/
def execCfgrel (p : Guard) (a : GReg) (s : State) : Host.Outcome State Fault Refusal :=
  word p (fun s => do
    let (i, _) ← graphArg s (s.me.gr a)
    let is := graphInsts s.insts.length s i
    if is.any (repliesOwed s) then await .memory
    else .ok (releaseInst s.insts.length i (markDirty s s.me.launch), .next)) s

/-! ## CFGQRY (R272) -/

/-- The number of stacked callees above an instance. -/
def callDepth : Nat → State → Nat → Nat
  | 0, _, _ => 0
  | n + 1, s, i =>
    match s.insts.find? fun x => match x.2.kind with
      | .stacked c _ => c == i
      | _ => false with
    | some (j, _) => callDepth n s j + 1
    | none => 0

/-- The query word. -/
def queryWord (s : State) (i : Nat) (x : Inst) (sel : W64) : W64 :=
  let (vf, code, sub) := match s.launchOf x.launch with
    | some l => (l.vf, l.fcode.num, l.fsub)
    | none => (0, 0, 0)
  if sel.getLsbD 63 then
    let b (k : Nat) (on : Bool) : Nat := if on then 2 ^ k else 0
    BitVec.ofNat 64 (1 + b 1 x.gated + b 2 x.quiescent + b 3 x.complete + b 4 x.deadlocked
      + code <<< 8 + (sub % 256) <<< 16 + (callDepth s.insts.length s i % 128) <<< 32)
  else
    match x.hams[natField sel.toNat 0 13]? with
    | some h =>
      let (d, r) := homeRel s vf x.launch h
      BitVec.ofNat 64 (2 ^ 15 + (d % 8) <<< 8 + r % 128)
    | none => 0

/-- CFGQRY (R272). -/
def execCfgqry (p : Guard) (d a b : GReg) (s : State) : Host.Outcome State Fault Refusal :=
  word p (fun s => do
    let (i, x) ← graphArg s (s.me.gr a)
    .ok (s.updMe (·.setG d (queryWord s i x (s.me.gr b))), .next)) s

/-! ## CFGSTART and CFGGATE (R270, R396) -/

/-- Whether a MEMORY node's capability fails R396. -/
def capRefused (c : Cell) (k : Nat) : Bool :=
  let cap := portCap c (memCapn c k)
  !cap.tag || modeRefused (memMode c k) cap

/-- Whether any used MEMORY node of an instance fails R396. -/
def instRefused (x : Inst) : Bool :=
  x.cells.any fun (_, c) => c.kind == .memory && (List.range 4).any fun k => memValid c k && capRefused c k

/-- The instances of a graph's handle (R400). -/
def sharing (s : State) (x : Inst) : List (Nat × Inst) :=
  s.insts.filter fun y => y.2.launch == x.launch && y.2.graph.handle == x.graph.handle

/-- Notes which slots of an instance's actor cells stand ready (R374). -/
def Inst.noteReady (x : Inst) (cycle : W64) : Inst :=
  { x with cells := x.cells.map fun (k, c) =>
      (k, if c.kind = .actor then { c with slots := c.slots.map fun y => (y.1, y.2.noteReady cycle) } else c) }

/-- Ungates a graph: every MEMORY node's capability is checked first; a graph already ungated is unchanged. -/
def ungate (s : State) (x : Inst) : Except Stop State :=
  let is := (sharing s x).filter (·.2.gated)
  if is.any fun y => instRefused y.2 then cfgReject sFormat
  else .ok (is.foldl (fun s y => s.updInst y.1 fun x => { x.noteReady s.cycle with gated := false }) s)

/-- CFGSTART as an operation: a release, then the graph fires. -/
def startGraph (s : State) (a : GReg) : Except Stop (State × Flow) := do
  let (_, x) ← graphArg s (s.me.gr a)
  let t ← ungate s x
  if t == s then .ok (s, .next)
  else do
    let s ← releaseAll s s.cur
    let t ← ungate s x
    .ok (t, .next)

/-- CFGSTART (R270). -/
def execCfgstart (p : Guard) (a : GReg) (s : State) : Host.Outcome State Fault Refusal :=
  word p (fun s => startGraph s a) s

/-- One step of gating an instance: its sources close, and once it is settled no cell of it fires (R39, R270). -/
def gateInst (s : State) (i : Nat) (x : Inst) : State :=
  match x.plane with
  | .active => if x.gated then s else s.updInst i fun x => { x with plane := .freezing }
  | .freezing =>
    if x.call.isNone && settled s i then
      sweepAfresh ((abandonAll s i).updInst i fun x => { x with plane := .active, gated := true }) x.launch
    else s
  | _ => s.updInst i fun x => { x with gated := true }

/-- Whether an instance is gated. -/
def isGated (s : State) (i : Nat) : Bool :=
  match s.inst i with
  | some x => x.gated && x.plane != .freezing
  | none => true

/-- CFGGATE (R270). -/
def execCfggate (p : Guard) (a b : GReg) (s : State) : Host.Outcome State Fault Refusal :=
  word p (fun s =>
    if !(s.me.gr b).getLsbD 0 then startGraph s a
    else do
      let (_, x) ← graphArg s (s.me.gr a)
      let is := sharing s x
      let step (s : State) : State := is.foldl (fun s y => match s.inst y.1 with
        | some x => gateInst s y.1 x
        | none => s) s
      let s := step (step s)
      if is.all fun y => isGated s y.1 then .ok (s, .next) else .error (.keep s .gate)) s

end Sys2Proof.Machine
end

