-- ==== Sys2Proof/Machine/Calls.lean ====
section
/-! DEFINITION. Stacked calls and side calls (R38 to R43, R304, R312, R384, R398 to R402). -/

namespace Sys2Proof.Machine

/-! ## Planes -/

/-- The frozen callers below an instance, nearest first. -/
def callers : Nat → State → Nat → List Nat
  | 0, _, _ => []
  | n + 1, s, i =>
    match s.inst i with
    | some x => (match x.kind with
      | .stacked c _ => c :: callers n s c
      | _ => [])
    | none => []

/-- The plane of an instance. -/
def planeOf (s : State) (i : Nat) : Plane :=
  match s.inst i with
  | some x => x.plane
  | none => .active

/-- The planes that stand in shadow planes of a hamlet's cells, the oldest first. -/
def shadowsAt (s : State) (h : Nat) : List Nat :=
  (s.insts.filter fun x => x.2.plane.shadows && x.2.hams.contains h).map (·.1)

/-- Whether every cell of some hamlets has a shadow plane left (R40). -/
def shadowRoom (s : State) (hams : List Nat) : Bool := hams.all fun h => decide ((shadowsAt s h).length < 2)

/-- The spill area of an instance's context: images, last written first (R401). -/
def spillArea (s : State) (i : Nat) : List (Nat × Inst) := (s.ctxOf (s.instCtx i).1).spill
/-- Replaces it. -/
def setSpill (s : State) (i : Nat) (l : List (Nat × Inst)) : State :=
  let c := (s.instCtx i).1
  s.setCtx c { s.ctxOf c with spill := l }

/-- A plane becomes SPILLED: its switch entries are cleared (R197, R384). -/
def markSpilled (s : State) (i : Nat) : State :=
  match s.inst i with
  | some x =>
    let s := (dropHops s x.hops).updInst i fun x => { x with plane := .spilled }
    x.hams.foldl syncHam s
  | none => s

/-- The plane that must give way: one being refilled, or whose image is still on the stack, is SPILLED at once; another
starts to spill (R40, R401). -/
def evict (s : State) (j : Nat) : State :=
  match planeOf s j with
  | .refilling => sweepAfresh (s.updInst j fun x => { x with plane := .spilled }) (s.instLaunch j)
  | .shadow =>
    if (spillArea s j).any (·.1 == j) then markSpilled s j
    else s.updInst j fun x => { x with plane := .spilling }
  | _ => s

/-- Before an instance freezes: where both shadow planes of a hamlet of it are full, the oldest gives way (R40). -/
def makeRoom (s : State) (i : Nat) : State :=
  match s.inst i with
  | none => s
  | some x => x.hams.foldl (fun s h =>
      let l := shadowsAt s h
      if l.length < 2 || l.any (planeOf s · == .spilling) then s
      else match l with
        | j :: _ => evict s j
        | [] => s) s

/-- The bytes of a plane's spill image, at most 76 KiB for each of its pages (R40). -/
def spillImage (x : Inst) : List Byte := (Config.spillBytes x).take (77824 * x.hams.length)

/-- Where the next image of the spill area of an instance's context begins in its granary allotment: after those on the
stack (R141, R401). -/
def spillEnd (s : State) (i : Nat) : Nat :=
  (spillArea s i).foldl (fun n y => n + (spillImage y.2).length) (Config.spillBase (s.instCtx i).1)

/-- SPILL_COMPLETE (R40, R141, R401): the image is in the spill area.  DESIGN CHOICE (log 12): the spec does not say where
in the allotment a context's spill area lies, nor the bytes of a spill image, which are free values; what a refill reads
back is the plane itself, which the context's stack holds beside the bytes. -/
def execSpillComplete (i : Nat) (s : State) : Host.Outcome State Fault Refusal :=
  .next <|
    match s.inst i with
    | some x =>
      if x.plane != .spilling then s
      else
        let s := writeAllot s (s.instCtx i).1 (spillEnd s i) (spillImage x)
        sweepAfresh (markSpilled (setSpill s i ((i, { x with plane := .shadow }) :: spillArea s i)) i) x.launch
    | none => s

/-- Starts the refill of the most recently spilled plane below an instance (R40), where the cells of its hamlets have a
shadow plane left. -/
def startRefill (s : State) (i : Nat) : State :=
  match (callers s.insts.length s i).find? fun j => planeOf s j == .spilled with
  | some j =>
    match s.inst j with
    | some y => if shadowRoom s y.hams then s.updInst j fun x => { x with plane := .refilling } else s
    | none => s
  | none => s

/-- REFILL_COMPLETE (R40, R401): the plane stands in a shadow plane again, with its switch entries. -/
def execRefillComplete (i : Nat) (s : State) : Host.Outcome State Fault Refusal :=
  .next <|
    match s.inst i, (spillArea s i).find? (·.1 == i) with
    | some x, some (_, im) =>
      let room (h : Nat) : Bool := (s.ham h).switch.length + (im.hops.filter (·.1 == h)).length ≤ 64
      if x.plane != .refilling || !im.hops.all (fun e => room e.1) then s
      else
        let s := putHops { s with insts := mset s.insts i im } im.hops
        sweepAfresh (im.hams.foldl syncHam s) im.launch
    | _, _ => s

/-! ## STACKED_CALL -/

/-- Stops every reeve of a launch as a trap at S level does, with no fault of its own (R41). -/
def stopLaunchReeves (s : State) (l : Nat) (hs : List Nat) : State :=
  hs.foldl (fun s h =>
    let r := s.reeve h
    if r.run != .running then s
    else
      let s := { s.setReeve h { r with run := .trapped, wait := none, barWait := none } with
        waiters := s.waiters.filter (·.who != .reeve h)
        bankWait := s.bankWait.filter (·.1 != .reeve h) }
      breakBarriers s l h) s

/-- The places of a callee's pages that its caller's hamlets fix (R39). -/
def calleeFixed (x : Inst) (g : Graph) : List (Nat × Nat) :=
  (List.range g.pages.length).filterMap fun p => (x.hams[p]?).map fun h => (p, h)

/-- CALL_DEPTH ends the launch (R41). -/
def callTooDeep (s : State) (n : NodeRef) : State :=
  let l := s.instLaunch n.inst
  match s.launchOf l with
  | some x =>
    let s := nodeFault s n { code := .callDepth }
    releaseLaunch (stopLaunchReeves s l x.reeves) l
  | none => s

/-- STACKED_CALL (R39 to R43, R312): a full call site asks for its callee, and the caller begins to freeze. -/
def execStackedCall (n : NodeRef) (s : State) : Host.Outcome State Fault Refusal :=
  .next <|
    let c := s.cellAt n
    let j := c.joinSt
    match s.inst n.inst, s.launchOf (s.instLaunch n.inst) with
    | some x, some l =>
      if !nodeOk s n .join || !c.isCalls || !siteFull c || j.calling || !j.results.isEmpty || x.plane != .active
          || l.st != .running then s
      else match liveGraph s x.launch (c.fld 2 0 8) with
        | none => haltNode s n { code := .cfgReject, sub := sHandle }
        | some g =>
          if j.words.length != g.nentry then haltNode s n { code := .cfgReject, sub := sCall }
          else if 64 ≤ x.depth then callTooDeep s n
          else match placeRefusal (vfHamlets s l.vf) g (calleeFixed x g) with
            | some sub => haltNode s n { code := .cfgReject, sub := sub }
            | none =>
              let s := setJoin s n { j with calling := true }
              let s := s.updInst n.inst fun x => { x with plane := .freezing, call := some (n, j.words, j.tag) }
              makeRoom s n.inst
    | _, _ => s

/-! ## FREEZE_POINT -/

/-- The descriptors of a node as a thaw takes them again (R193). -/
def retaken (old : NodeSt) (new : Option NodeSt) : NodeSt :=
  match old, new with
  | .warp _, some (.warp f) => .warp f
  | .mem o, some (.mem f) => .mem { o with desc := f.desc }
  | .conv o, some (.conv f) => .conv { o with desc := f.desc, sdesc := f.sdesc }
  | .mac o, some (.mac f) =>
    .mac { o with wdesc := f.wdesc, wsdesc := f.wsdesc, adesc := f.adesc, asdesc := f.asdesc }
  | o, _ => o

/-- Takes the descriptors of an instance's cells again; a node whose taking faults halts (R193). -/
def retakeDescs (s : State) (i : Nat) : State :=
  let (ctx, vf) := s.instCtx i
  match s.inst i with
  | none => s
  | some x => x.cells.foldl (fun s (k, c) =>
      match freshNodes s ctx vf c with
      | .ok ns => s.updInst i fun x => x.setCell (k / 16) (k % 16)
          { c with nodes := c.nodes.map fun y => (y.1, retaken y.2 (mget ns y.1)) }
      | .error (.trap t) => haltNode s ⟨i, k / 16, k % 16, 0⟩ t
      | .error _ => s) s

/-- A port that holds nothing but its filled slots (R112). -/
def APort.trim (a : APort) : APort :=
  { a with slots := a.slots.filter fun x => decide ((x.1 + 16 - a.head % 16) % 16 < a.fill) }

/-- A slot as a save keeps it: the registers of its live masks and its filled port slots; the others are 0 (R112,
R118). -/
def Slot.trim (x : Slot) : Slot :=
  { x with
    h := x.h.filter fun y => (x.hf 40 16).testBit y.1
    q := x.q.filter fun y => (x.hf 56 8).testBit y.1
    ports := x.ports.map fun y => (y.1, y.2.trim) }

/-- The slots of an instance, trimmed. -/
def Inst.trim (x : Inst) : Inst :=
  { x with cells := x.cells.map fun y => (y.1, { y.2 with slots := y.2.slots.map fun z => (z.1, z.2.trim) }) }

/-- The block of a slot, read and checked again at a thaw; one that is refused halts the slot (R224). -/
def thawBlock (rd : Reader) (parm : Nat) (n : NodeRef) (r : CellRec) (s : State) : Except Stop State :=
  match rereadBlock rd parm r n.sub s with
  | .ok (b, s) => .ok (s.updSlot n fun x => { x with hdr := b.hdr, code := b.code })
  | .error (.trap t) => .ok (haltSlot s n t)
  | .error (.trapIn s t) => .ok (haltSlot s n t)
  | .error e => .error e

/-- The blocks of an instance, read and checked again. -/
def thawBlocks (s : State) (i : Nat) (x : Inst) : Except Stop State :=
  if !x.graph.cap.tag then .ok s
  else
    let (ctx, vf) := s.instCtx i
    let rd := imageReader { who := .steward, ctx := ctx, vf := vf, ham := x.hams.headD 0 } x.graph.cap
    (allRecs x.graph.pages).foldlM (fun s (p, c, r) =>
      if r.kind != .actor then .ok s
      else (mkeys r.blocks).foldlM (fun s a => thawBlock rd x.graph.parm ⟨i, p, c, a⟩ r s) s) s

/-- Whether no other active plane stands, or is to stand, on the hamlets of a frozen plane once some instances have gone
(R36, R39). -/
def thawRoom (s : State) (i : Nat) (x : Inst) (gone : List Nat) : Bool :=
  let s := { s with insts := s.insts.filter fun y => y.1 != i && !gone.contains y.1 }
  x.hams.all fun h => !claimed s h
    && !s.insts.any fun y => (y.2.plane == .active || y.2.plane == .freezing) && y.2.hams.contains h

/-- A frozen plane becomes active again, its buffers as they were (R39). -/
def thawed (s : State) (i : Nat) : State :=
  match s.inst i with
  | none => s
  | some x =>
    let s := thawPorts s x
    let s := s.updInst i fun x => { x.trim with plane := .active, ports := [], call := none, claim := [] }
    let s := setSpill s i ((spillArea s i).filter (·.1 != i))
    (x.hams ++ x.claim).foldl syncHam (retakeDescs s i)

/-- Thaws a plane once its hamlets are free and its blocks have been read (R224); `gone` are released first, and `k` goes
on from there. -/
def thaw (s : State) (i : Nat) (gone : Option Nat) (k : State → State) : State :=
  match s.inst i with
  | none => s
  | some x =>
    let l := match gone with
      | some j => graphInsts s.insts.length s j
      | none => []
    if !thawRoom s i x l then s
    else match thawBlocks s i x with
      | .ok s =>
        let s := release s .steward
        let s := match gone with
          | some j => releaseInst s.insts.length j s
          | none => s
        k (thawed s i)
      | .error (.wait _ rq) => register s rq
      | .error (.keep s _) => s
      | .error _ => s

/-- The call of a frozen caller fails: it thaws, and its call site halts. -/
def failCall (s : State) (i : Nat) (site : NodeRef) (t : Trap) : State :=
  thaw s i none fun s =>
    let j := (s.cellAt site).joinSt
    haltNode (setJoin s site { j with calling := false }) site t

/-- Delivers the argument words to a callee's entry ports, each followed by EOS (R398). -/
def enterArgs (s : State) (i ctx : Nat) (tag : W64) (poison : Bool) (words : List W64) : State :=
  words.zipIdx.foldl (fun s (w, j) =>
    let n : NodeRef := ⟨i, 0, 15, 0⟩
    let s := enterIn s n j true (scalarTok w (mkTag ctx (tagThread tag) 0 0) poison)
    enterIn s n j true { kind := .eos, tag := mkTag ctx (tagThread tag) 0 1 }) s

/-- Loads the callee of a frozen caller on the hamlets claimed for it, once they are clear, and gives it its arguments. -/
def enterCallee (s : State) (i : Nat) (x : Inst) (g : Graph) (site : NodeRef) (words : List W64) (tag : W64) : State :=
  let (ctx, _) := s.instCtx i
  match placeOn s x.launch ctx g (.stacked i site) (x.depth + 1) x.claim with
  | .error none => s
  | .error (some t) => failCall s i site t
  | .ok (s, none) => s
  | .ok (s, some j) =>
    let s := s.updInst j fun y => { y with gated := false }
    let s := s.updInst i fun x => { x with call := none, claim := [] }
    enterArgs (x.claim.foldl syncHam s) j ctx tag (s.cellAt site).joinSt.poison words

/-- CALLEE_LOAD (R39, R42, R196): the callee's pages are to load over the caller's, which are claimed first, and further
pages on free hamlets; once all are claimed it loads. -/
def loadCallee (s : State) (i : Nat) (x : Inst) (site : NodeRef) (words : List W64) (tag : W64) : State :=
  let (ctx, vf) := s.instCtx i
  match liveGraph s x.launch ((s.cellAt site).fld 2 0 8) with
  | none => failCall s i site { code := .cfgReject, sub := sHandle }
  | some g =>
    if x.claim.length = g.pages.length then enterCallee s i x g site words tag
    else
      let part := vfHamlets s vf
      let fixed := calleeFixed x g
      match chooseHams part (freeHams s part) g fixed with
      | none => s.updInst i fun x => { x with claim := fixed.map (·.2) }
      | some hams =>
        let s := (takeHams s ctx (hams.drop fixed.length)).updInst i fun x => { x with claim := hams }
        enterCallee s i { x with claim := hams } g site words tag

/-- FREEZE_POINT (R39, R188): the caller stands at its token-consistent point; the combining entries of its launch are
flushed, its plane becomes a shadow plane, and the callee loads. -/
def execFreezePoint (i : Nat) (s : State) : Host.Outcome State Fault Refusal :=
  .next <|
    match s.inst i with
    | none => s
    | some x =>
      match x.call with
      | none => s
      | some (site, words, tag) =>
        if x.plane = .shadow then loadCallee s i x site words tag
        else if x.plane != .freezing || !settled s i then s
        else if !shadowRoom s x.hams then makeRoom s i
        else
          let (s, clear) := flushReeves s (match s.launchOf x.launch with
            | some l => l.reeves
            | none => [])
          if !clear then s
          else
            let s := (freezePorts (abandonAll s i) i).updInst i fun x => { x with plane := .shadow }
            let s := sweepAfresh (raiseHeld s x.launch) x.launch
            match s.inst i with
            | some x => loadCallee s i x site words tag
            | none => s

/-! ## RET -/

/-- The launch of an instance is between a pre-emption request and its restore (R402). -/
def saving (s : State) (i : Nat) : Bool :=
  match s.launchOf (s.instLaunch i) with
  | some l => l.st == .gating || l.st == .saving
  | none => false

/-- A RET at depth 0 or in a side callee: result j enters result port j, followed by EOS (R399). -/
def retToPorts (s : State) (n : NodeRef) (x : Inst) (words : List W64) (poison : Bool) : State :=
  let (ctx, _) := s.instCtx n.inst
  let d : NodeRef := ⟨n.inst, 0, 15, 0⟩
  let ws := (words.take x.graph.nresult).zipIdx
  let h := x.hams.getD 0 0
  if ws.any fun y => 15 ≤ (s.sport h (x.graph.nentry + y.2)).buf.length then s
  else
    let j := (s.cellAt n).joinSt
    let s := setJoin s n { j with words := [], any := false, poison := false, held := none }
    markActive (ws.foldl (fun s (w, k) =>
      let p := x.graph.nentry + k
      let s := enterIn s d p true (scalarTok w (mkTag ctx 0 0 0) poison)
      enterIn s d p true { kind := .eos, tag := mkTag ctx 0 0 1 }) s) n.inst

/-- A RET of a stacked callee: once its memory replies have come (R270) and its caller can thaw, its pages are released,
the caller thaws and takes the results, and a refill starts (R39, R40, R312).  A caller that is SPILLED is refilled first. -/
def retToCaller (s : State) (n : NodeRef) (caller : Nat) (site : NodeRef) (words : List W64) (poison : Bool) :
    State :=
  match planeOf s caller with
  | .spilled => startRefill s n.inst
  | .shadow =>
    if (graphInsts s.insts.length s n.inst).any (repliesOwed s) then s
    else thaw s caller (some n.inst) fun s =>
      let j := (s.cellAt site).joinSt
      let res := words.zipIdx.map fun (w, k) =>
        scalarTok w (withIndex j.tag ((tagIndex j.tag + k) % 2 ^ 24)) (poison || j.poison)
      let s := setJoin s site { j with calling := false, words := [], any := false, poison := false, results := res }
      startRefill (markActive s caller) caller
  | _ => s

/-- RET (R39, R399, R402): while its launch is GATING or SAVING, a RET that is formed is held at its JOIN. -/
def execRet (n : NodeRef) (s : State) : Host.Outcome State Fault Refusal :=
  .next <|
    let c := s.cellAt n
    let j := c.joinSt
    match s.inst n.inst with
    | none => s
    | some x =>
      if !nodeOk s n .join || !c.isRets || !(siteFull c || j.held.isSome) then s
      else if saving s n.inst then
        if j.held.isSome then s else setJoin s n { j with held := some j.words, words := [], any := false }
      else
        let words := j.held.getD j.words
        match x.kind with
        | .stacked caller site =>
          if x.plane != .active then s else retToCaller s n caller site words j.poison
        | _ => retToPorts s n x words j.poison

/-! ## Side calls (R38, R304) -/

/-- The entry word of a side call. -/
def sideWord (s : State) (q : SideReq) : Nat :=
  ((s.cellAt q.node).word (16 * q.node.sub + 4 + q.entry)).toNat

/-- The circuits of a side call: argument ports to entry ports, result ports to result inputs, in ascending
order. -/
def sideCircs (s : State) (q : SideReq) (g : Graph) : List Circ :=
  let v := sideWord s q
  let n := q.node
  let outs := (List.range 4).filter fun p => v.testBit (8 + p)
  let ins := (List.range 4).filter fun p => v.testBit (12 + p)
  (outs.zipIdx.map fun (p, j) =>
    { sp := n.page, sc := n.cell, sport := 8 * n.sub + 4 + p, dp := 0, dc := 15, dport := j, ctrl := true
      si := some n.inst : Circ })
  ++ ((ins.zipIdx.filter fun x => x.2 < g.nresult).map fun (p, j) =>
    { sp := 0, sc := 15, sport := g.nentry + j, dp := n.page, dc := n.cell, dport := 8 * n.sub + p, ctrl := true
      di := some n.inst : Circ })

/-- Ends a side call's request, whose claim ends. -/
def endSide (s : State) (req : Nat) (q : SideReq) : State :=
  q.claim.foldl syncHam { s with sides := mdel s.sides req }

/-- Ends a side call's request with a fault; the slot halts. -/
def failSide (s : State) (req : Nat) (q : SideReq) (t : Trap) : State := haltSlot (endSide s req q) q.node t

/-- The hamlets that the pager chooses for a side call (log 15). -/
def pickSide (s : State) (q : SideReq) : Option (List Nat) :=
  let (_, vf) := s.instCtx q.node.inst
  match liveGraph s (s.instLaunch q.node.inst) q.handle with
  | none => some []
  | some g =>
    let part := vfHamlets s vf
    if !q.claim.isEmpty || (placeRefusal part g []).isSome then some []
    else chooseHams part (freeHams s part) g []

/-- Places the subgraph of a side call on the hamlets claimed for it, once they are clear, and links it to the requester;
where no route can be had, the claim is given up and the request waits. -/
def placeSide (s : State) (req : Nat) (q : SideReq) (g : Graph) : State :=
  let (ctx, _) := s.instCtx q.node.inst
  let depth := match s.inst q.node.inst with
    | some x => x.depth
    | none => 0
  match placeOn s (s.instLaunch q.node.inst) ctx g (.side q.node q.entry) depth q.claim (sideCircs s q g) with
  | .error none =>
    if cleared s q.claim then q.claim.foldl syncHam { s with sides := mset s.sides req { q with claim := [] } } else s
  | .error (some t) => failSide s req q t
  | .ok (s, none) => s
  | .ok (s, some i) => endSide (s.updInst i fun x => { x with gated := false }) req q

/-- SIDE_CALL_PLACE (R37, R38, R196): the subgraph is placed on free hamlets, which the pager claims first, and linked to
the requester, whose waiting tokens go. -/
def execSideCallPlace (req : Nat) (hams : List Nat) (s : State) : Host.Outcome State Fault Refusal :=
  .next <|
    match mget s.sides req with
    | none => s
    | some q =>
      let (ctx, vf) := s.instCtx q.node.inst
      let part := vfHamlets s vf
      if !s.nodeLive q.node || s.gating q.node.inst then s
      else match liveGraph s (s.instLaunch q.node.inst) q.handle with
        | none => failSide s req q { code := .cfgReject, sub := sHandle }
        | some g =>
          let v := sideWord s q
          let args := ((List.range 4).filter fun p => v.testBit (8 + p)).length
          if args != g.nentry then failSide s req q { code := .cfgReject, sub := sCall }
          else match placeRefusal part g [] with
            | some sub => failSide s req q { code := .cfgReject, sub := sub }
            | none =>
              if !q.claim.isEmpty then placeSide s req q g
              else if hams.any fun h => !part.contains h then failSide s req q { code := .placeFail }
              else if !legalHams part g [] hams || !allFree s hams then s
              else
                let q := { q with claim := hams }
                placeSide { takeHams s ctx hams with sides := mset s.sides req q } req q g

/-- Whether EOS has passed all outputs of a side callee: it has left every circuit that its results take, into the
requester's inputs; one without results has it at every sink (R38). -/
def sideDone (s : State) (x : Inst) : Bool :=
  let outs := x.circs.filter (·.di.isSome)
  if outs.isEmpty then allEos s x else outs.all (·.eos)

/-- SIDE_CALL_RELEASE (R38). -/
def execSideCallRelease (i : Nat) (s : State) : Host.Outcome State Fault Refusal :=
  .next <|
    match s.inst i with
    | some x => (match x.kind with
      | .side _ _ =>
        if x.plane == .active && sideDone s x && !repliesOwed s i then releaseInst s.insts.length i s else s
      | _ => s)
    | none => s

end Sys2Proof.Machine
end

