-- ==== Sys2Proof/Machine/Engines.lean ====
section
/-! DEFINITION. The ENGINE instructions and their parameter blocks, engine accesses and status areas, the
Drover, the Pinfold and MPATH (R278, R327 to R340, R348, R403, R404). -/

namespace Sys2Proof.Machine

/-! ## Engine accesses (R329, R403, R417) -/

/-- The access context of a command. -/
def Cmd.acx (c : Cmd) (id : Nat) : Acx := { who := .cmd id, ctx := c.ctx, vf := c.vf, ham := c.hamlet }

/-- A read of `n` bytes at a byte offset from a capability's address (R403). -/
def engRead (s : State) (x : Acx) (k : Cap) (off : Int) (n align : Nat) :
    Except Stop (List Byte × State) := do
  let ea ← checkCapAt k (k.offset + off) (some n) align clLoad.engine
  readSpan s x k.space (n / 0x10000 + 2) ea n

/-- A read as a number. -/
def engNat (s : State) (x : Acx) (k : Cap) (off : Int) (n align : Nat) : Except Stop (Nat × State) := do
  let (bs, s) ← engRead s x k off n align
  .ok (leNat bs, s)

/-- A write of bytes at a byte offset from a capability's address: it sets full bits (R329, R403). -/
def engWrite (s : State) (x : Acx) (k : Cap) (off : Int) (align : Nat) (bs : List Byte) :
    Except Stop State := do
  let ea ← checkCapAt k (k.offset + off) (some bs.length) align clStore.engine
  writeSpan s x k.space true (bs.length / 0x10000 + 2) ea bs

/-! ## Status areas (R328, R330, R404) -/

/-- ECC_UNCORR and LINK of an engine access enter the launch status (R330). -/
def engFault (s : State) (c : Cmd) (t : Trap) : State :=
  if t.code.replays then recordFault s c.launch t (siteOf s c.vf c.hamlet 0 0 false) else s

/-- The work of a command: it ends with a result, or waits. -/
abbrev Work (α : Type) := Except (Stop ⊕ (State × EngRes)) α

/-- An access of a command's work: a fault ends it at once with STATE 3 and its code; what it wrote
stands and the counts are those given (R330). -/
def step_ {α : Type} (s : State) (c : Cmd) (c1 c2 : Nat) (m : Except Stop α) : Work α :=
  match m with
  | .ok a => .ok a
  | .error (.trap t) =>
    .error (.inr (engFault s c t, { st := 3, fc := t.code.num, c1 := c1, c2 := c2 }))
  | .error (.trapIn s t) =>
    .error (.inr (engFault s c t, { st := 3, fc := t.code.num, c1 := c1, c2 := c2 }))
  | .error e => .error (.inl e)

/-- The bytes of a status area (R328). -/
def statusBytes (s : State) (c : Cmd) (r : EngRes) : List Byte :=
  leBytes 4 c.handle.toNat ++ [BitVec.ofNat 8 r.st, BitVec.ofNat 8 r.fc, BitVec.ofNat 8 r.fs, 0]
    ++ leBytes 8 r.c1 ++ leBytes 8 r.c2 ++ leBytes 8 s.time.toNat

/-- Writes the status area; nothing is written where the block no longer translates (log 26). -/
def writeStatus (s : State) (id : Nat) (c : Cmd) (r : EngRes) : State :=
  match locateIn s (c.acx id) c.cap.space c.cap.addr rW with
  | .ok (l, s) =>
    match storeLoc s (c.acx id) l (statusBytes s c r) true with
    | .ok s => s
    | .error _ => s
  | .error _ => s

/-- The command ends: its status area, then its completion signal (R328). -/
def finishCmd (s : State) (id : Nat) (c : Cmd) (r : EngRes) : State :=
  let s := writeStatus s id c r
  let v := s.reeve c.hamlet
  let s := match mget v.xfers c.xid with
    | some x =>
      if x.kind = XKind.engine id then
        s.setReeve c.hamlet { v.signal x.comp with xfers := mdel v.xfers c.xid }
      else s
    | none => s
  release { s with cmds := mdel s.cmds id } (.cmd id)

/-- The command ends once its work is done and everything that it has written is performed at package scope (R160,
R328). -/
def closeCmd (s : State) (id : Nat) (c : Cmd) : State :=
  if c.prog.fin && allPerformed s (.cmd id) then finishCmd s id c c.prog.res else s

/-- One piece of a command's work, and its end where that was the last (R162); a wait for an access registers what it
needs and changes nothing else. -/
def cmdStep (s : State) (id : Nat) (c : Cmd) (m : Work (State × Prog)) : State :=
  let go (s : State) (p : Prog) : State :=
    let c := { c with prog := p }
    closeCmd (release { s with cmds := mset s.cmds id c } (.cmd id)) id c
  if c.prog.fin then closeCmd s id c
  else match m with
    | .ok (s, p) => go s p
    | .error (.inr (s, r)) => go s { c.prog with fin := true, res := r }
    | .error (.inl (.wait _ rq)) => register s rq
    | .error (.inl _) => s

/-! ## Issue (R278, R327) -/

/-- Takes the descriptors that a block names: an untagged BASE raises CAP_TAG, as TID 0 does, a layout other than the
one required FORMAT (R327, R403). -/
def takeTids (s : State) (ctx : Nat) : List (Nat × Option Nat) → Except Stop (SMap Desc)
  | [] => .ok []
  | (tid, lay) :: l => do
    let d ← takeDesc s ctx tid
    check d.tag .capTag
    check (lay.isNone || lay == some d.layout) .cfgReject 0 1
    let m ← takeTids s ctx l
    .ok (mset m tid d)

/-- A descriptor that a command took. -/
def Cmd.desc (c : Cmd) (o : Nat) : Desc := (mget c.descs (c.fld o 1)).getD Desc.raw

/-- Whether bytes `o` to `o + n - 1` of a block are 0. -/
def Cmd.zeros (c : Cmd) (o n : Nat) : Bool := c.fld o n == 0

/-- An ENGINE instruction: the checks of R278, then those of R327 in their order, `chk` for the fn's
own block; `enter` is what the engine does as it takes the command, once the issue no longer stalls (R179). -/
def engine (p : Guard) (d : GReg) (a : KReg) (b : GReg) (eng : Eng) (size : Nat)
    (chk : State → Cmd → Except Stop (State × Cmd)) (s : State) (enter : State → Nat → Cmd → State := fun s _ _ => s) :
    Host.Outcome State Fault Refusal :=
  word p (fun s => do
    let v := (s.me.gr b).toNat
    let comp := natField v 0 2
    let idx := natField v 2 6
    let n := if comp = 2 then idx % 16 else idx
    let s ← issue s comp n fun s => do
      let r := s.me
      let k := r.kr a
      let ea ← checkCapAt k k.offset none 1 clLoad.engine
      let _ ← stepOne r comp n
      check (ea % 64 == 0) .align ea
      check (permsIn pST k.perms) .capPerm ea
      let s ← releaseAll s s.cur
      let (bs, s) ← capBlock s s.acx k k.offset size 1 clLoad.engine
      let (s, c) ← chk s { eng := eng, hamlet := s.cur, xid := 0, ctx := r.ctx, vf := r.vf
                           launch := r.launch, handle := 0, cap := k, block := bs
                           arg := natField v 8 56, descs := [] }
      check (!(comp == 2 && idx / 16 != 0) && !((comp == 0 || comp == 3) && idx != 0)) .cfgReject 0 1
      let x := s.ctxOf r.ctx
      .ok (s.setCtx r.ctx { x with engSerial := nextSerial x.engSerial },
        fun q => .cmd { c with handle := x.engSerial } q)
    let (h, s) := match mget s.cmds (s.nextId - 1) with
      | some c => (c.handle, enter s (s.nextId - 1) c)
      | none => (0, s)
    .ok (s.updMe (·.setG d (h.zeroExtend 64)), .next)) s

/-! ## The Drover (R332 to R336) -/

/-- Whether a rule word is refused (R333). -/
def ruleBad (nr recw w : Nat) : Bool :=
  let half (act nxt ptr : Nat) : Bool := nxt ≥ nr || (act == 0 && ptr ≥ recw)
  natField w 60 4 > 5 || natField w 54 3 ≥ recw || natField w 52 2 != 0 || natField w 32 2 != 0
    || natField w 0 16 != 0
    || half (natField w 50 2) (natField w 46 4) (natField w 43 3)
    || half (natField w 41 2) (natField w 37 4) (natField w 34 3)

/-- The checks of a DROVE block (R332, R333, R403). -/
def checkDrove (s : State) (c : Cmd) : Except Stop (State × Cmd) := do
  let nr := c.fld 0x24 1 % 16 + 1
  let recw := c.fld 0x25 1
  let start := natField (c.fld 0x26 1) 0 1
  let rule (r : Nat) : Nat := c.fld (0x40 + 8 * r) 8
  check (c.arg == 0 && c.fld 0x24 1 < 16 && 1 ≤ recw && recw ≤ 6 && c.fld 0x26 1 < 4
    && c.zeros 0x27 1 && c.fld 0x2C 2 != 0 && c.zeros 0x2E 2 && c.zeros 0x3C 4
    && (start == 0 || c.fld 0x38 4 != 0) && (start == 1 || c.zeros 0x23 1)
    && (List.range 16).all (fun r => if r < nr then !ruleBad nr recw (rule r) else rule r == 0))
    .cfgReject 0 1
  let ds ← takeTids s c.ctx ([c.fld 0x20 1, c.fld 0x21 1, c.fld 0x22 1].map (·, some 0)
    ++ (if start = 1 then [(c.fld 0x23 1, some 0)] else []))
  .ok (s, { c with descs := ds })

/-- DROVE (R278, R332). -/
def execDrove (p : Guard) (d : GReg) (a : KReg) (b : GReg) (s : State) :
    Host.Outcome State Fault Refusal := engine p d a b .drove 192 checkDrove s

/-- How a key of a walk ended. -/
structure KeyRes where
  outcome : Nat
  trap : Option Trap := none
  steps : Nat := 0
  last : Nat := 0
  rec_ : List Byte := []
  deriving DecidableEq, Repr

/-- The hash of a key (R334). -/
def droveHash (k : Nat) : Nat := natField (k * 0x9E3779B97F4A7C15) 32 32

/-- Cond of a rule on a record field and a comparand at the width of the rule (R333). -/
def ruleCond (w : Nat) (rec_ : List Byte) (key : Nat) : Bool :=
  let bits := 64 >>> natField w 58 2
  let x := leNat ((rec_.drop (8 * natField w 54 3)).take 8) % 2 ^ bits
  let y := (if natField w 57 1 = 1 then natField w 16 16 else key) % 2 ^ bits
  match natField w 60 4 with
  | 0 => true
  | 1 => x == y
  | 2 => x != y
  | 3 => sgn bits x < sgn bits y
  | 4 => x < y
  | _ => x == 0

/-- The loop of R334 for one key from offset `o` at rule `r`, with at most `fuel` steps left; `rec_` is
the record where it has been loaded. -/
def droveLoop (x : Acx) (c : Cmd) (key : Nat) :
    Nat → State → Nat → Nat → Nat → Nat → Option (List Byte) → Except Stop (KeyRes × State)
  | fuel, s, o, r, steps, last, held =>
    if o = 0 then .ok ({ outcome := 1, steps := steps, last := last }, s)
    else
      match fuel with
      | 0 => .ok ({ outcome := 2, steps := steps, last := last }, s)
      | fuel + 1 =>
        let got : Except Stop (List Byte × State) := match held with
          | some b => .ok (b, s)
          | none => engRead s x (c.desc 0x22).base o (8 * c.fld 0x25 1) 1
        match got with
        | .error (.trap t) => .ok ({ outcome := 3, trap := some t, steps := steps, last := last }, s)
        | .error e => .error e
        | .ok (b, s) =>
          let w := c.fld (0x40 + 8 * r) 8
          let t := ruleCond w b key
          let act := if t then natField w 50 2 else natField w 41 2
          let nxt := if t then natField w 46 4 else natField w 37 4
          let ptr := if t then natField w 43 3 else natField w 34 3
          match act with
          | 0 => droveLoop x c key fuel s (leNat ((b.drop (8 * ptr)).take 5)) nxt (steps + 1) o none
          | 1 => .ok ({ outcome := 0, steps := steps + 1, last := o, rec_ := b }, s)
          | 2 => .ok ({ outcome := 1, steps := steps + 1, last := o }, s)
          | _ => droveLoop x c key fuel s o nxt (steps + 1) o (some b)

/-- One key: it is read, its start is found, and the loop runs (R334). -/
def droveKey (s : State) (x : Acx) (c : Cmd) (j : Nat) : Except Stop (KeyRes × State) :=
  let start : Except Stop (Nat × Nat × State) := do
    let (k, s) ← engNat s x (c.desc 0x20).base (8 * j) 8 8
    if natField (c.fld 0x26 1) 0 1 = 0 then .ok (k, c.fld 0x30 8, s)
    else do
      let (o, s) ← engNat s x (c.desc 0x23).base (8 * (droveHash k % c.fld 0x38 4)) 8 8
      .ok (k, o, s)
  match start with
  | .ok (k, o, s) => droveLoop x c k (c.fld 0x2C 2) s o 0 0 0 none
  | .error (.trap t) => .ok ({ outcome := 3, trap := some t }, s)
  | .error e => .error e

/-- The 64-byte result entry (R335). -/
def KeyRes.bytes (r : KeyRes) : List Byte :=
  leBytes 8 r.last ++ [BitVec.ofNat 8 r.outcome, BitVec.ofNat 8 ((r.trap.map (·.code.num)).getD 0)]
    ++ leBytes 2 r.steps ++ leBytes 4 0
    ++ (r.rec_ ++ List.replicate 48 0).take 48

/-- The next key of a walk and its result entry (R334, R404). -/
def droveNext (s : State) (x : Acx) (c : Cmd) : Work (State × Prog) :=
  let p := c.prog
  let n := c.fld 0x28 4
  if p.at_ ≥ n then .ok (s, { p with fin := true })
  else match droveKey s x c p.at_ with
    | .error e => .error (.inl e)
    | .ok (k, s) =>
      let s := match k.trap with
        | some t => engFault s c t
        | none => s
      match engWrite s x (c.desc 0x21).base (64 * p.at_) 64 k.bytes with
      | .error (.trap t) =>
        .ok (engFault s c t,
          { p with fin := true, res := { p.res with st := 3, fc := Code.walkFault.num, fs := t.code.num } })
      | .error e => .error (.inl e)
      | .ok s =>
        let r := { p.res with
          c1 := p.res.c1 + (if k.outcome = 0 then 1 else 0), c2 := p.res.c2 + k.steps }
        let r := if r.fc != 0 || k.outcome < 2 then r
          else if k.outcome = 2 then { r with fc := Code.walkLimit.num }
          else { r with fc := Code.walkFault.num, fs := (k.trap.map (·.code.num)).getD 0 }
        let abort := k.outcome = 3 && natField (c.fld 0x26 1) 1 1 = 1
        .ok (s, { p with
          at_ := p.at_ + 1
          res := if abort then { r with st := 3 } else r
          fin := abort || p.at_ + 1 ≥ n })

/-- A command of the package. -/
def State.cmd (s : State) (id : Nat) : Option Cmd := mget s.cmds id

/-- DROVER_WALK_START (R336): a waiting DROVE of a parish takes one of its 16 walks. -/
def execDroverWalkStart (parish : Nat) (s : State) : Host.Outcome State Fault Refusal :=
  .next <|
    let here := s.cmds.filter fun (_, c) => c.eng == .drove && hamSlice c.hamlet == parish
    match here.find? fun (_, c) => !c.started with
    | some (id, c) =>
      if (here.filter fun (_, c) => c.started).length < 16 then
        { s with cmds := mset s.cmds id { c with started := true } }
      else s
    | none => s

/-- DROVER_WALK_COMPLETE (R334): the next key, and after the last one the end of the walk. -/
def execDroverWalkComplete (id : Nat) (s : State) : Host.Outcome State Fault Refusal :=
  .next <| match s.cmd id with
  | some c =>
    if c.eng == .drove && c.started then
      cmdStep s id c (droveNext s (c.acx id) c)
    else s
  | none => s

/-! ## The Pinfold (R203, R337 to R340) -/

/-- A pen grid's header (R203). -/
structure Grid where
  nx : Nat
  ny : Nat
  cap : Nat
  edge : Num
  rc : Num
  ox : Num
  oy : Num
  wrapx : Bool
  wrapy : Bool
  epoch : Nat
  deriving DecidableEq, Repr

/-- The header from its bytes. -/
def gridOf (bs : List Byte) : Grid :=
  let f (o n : Nat) : Nat := leNat ((bs.drop o).take n)
  let fp (o : Nat) : Num := unpackF fp32 (f o 4)
  { nx := f 0 2, ny := f 2 2, cap := f 4 4, edge := fp 8, rc := fp 12, ox := fp 16, oy := fp 20
    wrapx := (f 0x18 1).testBit 0, wrapy := (f 0x18 1).testBit 1, epoch := f 0x1C 4 }

/-- Finite and at least 0. -/
def Num.nonneg (x : Num) : Bool := x.isFin && (x.isZero || !x.isNeg)

/-- The checks of a grid header (R337). -/
def Grid.ok (g : Grid) : Bool :=
  g.nx != 0 && g.ny != 0 && g.cap != 0 && g.edge.nonneg && !g.edge.isZero && g.rc.nonneg

/-- The checks of a PINBIN or PINPAIR block, and of the grid that it names (R337, R403). -/
def checkPinfold (pair : Bool) (s : State) (c : Cmd) : Except Stop (State × Cmd) := do
  let lo := if pair then 0x25 else 0x24
  check (c.arg == 0 && c.zeros lo (0x28 - lo) && c.zeros 0x30 16
    && (!pair || (unpackF fp32 (c.fld 0x2C 4)).nonneg)) .cfgReject 0 1
  let ds ← takeTids s c.ctx ([(c.fld 0x20 1, some 0), (c.fld 0x21 1, some 5), (c.fld 0x22 1, some 0),
    (c.fld 0x23 1, some 0)] ++ (if pair then [(c.fld 0x24 1, some 0)] else []))
  let c := { c with descs := ds }
  let k := (c.desc 0x20).base
  let (bs, s) ← capBlock s s.acx k k.offset 64 16 clLoad.engine
  check (gridOf bs).ok .cfgReject 0 1
  .ok (s, c)

/-- PINBIN (R278, R337). -/
def execPinbin (p : Guard) (d : GReg) (a : KReg) (b : GReg) (s : State) :
    Host.Outcome State Fault Refusal := engine p d a b .pinbin 64 (checkPinfold false) s

/-- PINPAIR (R278, R337). -/
def execPinpair (p : Guard) (d : GReg) (a : KReg) (b : GReg) (s : State) :
    Host.Outcome State Fault Refusal := engine p d a b .pinpair 64 (checkPinfold true) s

/-- The grid base of a Pinfold command: space and address. -/
def Cmd.gridBase (c : Cmd) : Nat × Nat :=
  let k := (c.desc 0x20).base
  (k.space, k.addr)

/-- Whether an engine is the Pinfold's. -/
def Eng.pinfold (e : Eng) : Bool := e == .pinbin || e == .pinpair

/-- PINFOLD_COMMAND_START (R340): the oldest waiting command of the shire whose grid base no earlier command of the shire
names, whatever its context. -/
def execPinfoldCommandStart (shire : Nat) (s : State) : Host.Outcome State Fault Refusal :=
  .next <|
    let here := s.cmds.filter fun (_, c) => c.eng.pinfold && hamShireG c.hamlet == shire
    match here.find? fun (id, c) => !c.started && !here.any fun (j, e) =>
        j < id && e.gridBase == c.gridBase with
    | some (id, c) => { s with cmds := mset s.cmds id { c with started := true } }
    | none => s

/-- The floor of the exact quotient of finite values, the divisor positive. -/
def floorDiv : Num → Num → Int
  | .fin n m e, .fin _ d f =>
    let a : Int := if n then -(m : Int) else m
    if f ≤ e then Int.fdiv (a * 2 ^ (e - f).toNat) d else Int.fdiv a (d * 2 ^ (f - e).toNat)
  | _, _ => 0

/-- The pen of a coordinate on an axis; `none` where the point is not binned (R338). -/
def penOf (x o edge : Num) (n : Nat) (wrap : Bool) : Option Nat :=
  let d := rn (Num.sub x o)
  if !x.isFin || !d.isFin then none
  else
    let q := floorDiv d edge
    some (if wrap then (q % n).toNat else (clampI 0 (n - 1) q).toNat)

/-- The 16 bytes of a pen entry (R203). -/
def Pen.bytes (p : Pen) (epoch : Nat) : List Byte :=
  leBytes 2 p.count ++ leBytes 2 p.ovf ++ leBytes 4 epoch ++ leBytes 4 p.head ++ leBytes 4 0

/-- One point of PINBIN (R338). -/
def binPoint (s : State) (x : Acx) (c : Cmd) (g : Grid) : Work (State × Prog) := do
  let b := c.prog
  let i := b.at_
  let go {α : Type} (s : State) (m : Except Stop α) : Work α := step_ s c b.binned b.used m
  let (v, s) ← go s (engRead s x (c.desc 0x21).base (16 * i) 16 16)
  let f (o : Nat) : Num := unpackF fp32 (leNat ((v.drop o).take 4))
  match penOf (f 0) g.ox g.edge g.nx g.wrapx, penOf (f 4) g.oy g.edge g.ny g.wrapy with
  | some px, some py =>
    let p := py * g.nx + px
    let e := mgetD b.pens p {}
    if e.count < g.cap then do
      let s ← go s (engWrite s x (c.desc 0x22).base (4 * (p * g.cap + e.count)) 4 (leBytes 4 i))
      let e := { e with count := e.count + 1 }
      let s ← go s (engWrite s x (c.desc 0x20).base (0x40 + 16 * p) 16 (e.bytes ((g.epoch + 1) % 2 ^ 32)))
      .ok (s, { b with at_ := i + 1, pens := mset b.pens p e, binned := b.binned + 1 })
    else if b.used ≥ c.fld 0x2C 4 then
      .ok (s, { b with fin := true, res := { st := 3, fc := Code.penOverflow.num, c1 := b.binned, c2 := b.used } })
    else do
      let k := (c.desc 0x23).base
      let s ← go s (engWrite s x k (8 * b.used) 8 (leBytes 4 i ++ leBytes 4 0xFFFFFFFF))
      let s ← if e.tail = 0xFFFFFFFF then Except.ok s
        else go s (engWrite s x k (8 * e.tail + 4) 4 (leBytes 4 b.used))
      let e := { e with
        ovf := e.ovf + 1
        head := if e.tail = 0xFFFFFFFF then b.used else e.head
        tail := b.used }
      let s ← go s (engWrite s x (c.desc 0x20).base (0x40 + 16 * p) 16 (e.bytes ((g.epoch + 1) % 2 ^ 32)))
      .ok (s, { b with at_ := i + 1, pens := mset b.pens p e, used := b.used + 1, binned := b.binned + 1 })
  | _, _ => .ok (s, { b with at_ := i + 1 })

/-- The next piece of a PINBIN (R338, R404): the grid's header and epoch, a point, or a pen that no point reached, which
is written empty. -/
def binNext (s : State) (x : Acx) (c : Cmd) : Work (State × Prog) := do
  let b := c.prog
  let n := c.fld 0x28 4
  let k := (c.desc 0x20).base
  if !b.begun then
    let (bs, s) ← step_ s c 0 0 (engRead s x k 0 64 16)
    let s ← step_ s c 0 0 (engWrite s x k 0x1C 4 (leBytes 4 (((gridOf bs).epoch + 1) % 2 ^ 32)))
    .ok (s, { b with begun := true, hdr := bs })
  else
    let g := gridOf b.hdr
    if b.at_ < n then binPoint s x c g
    else
      let p := b.at_ - n
      if p ≥ g.nx * g.ny then .ok (s, { b with fin := true, res := { c1 := b.binned, c2 := b.used } })
      else do
        let s ← if (mget b.pens p).isSome then Except.ok s
          else step_ s c b.binned b.used (engWrite s x k (0x40 + 16 * p) 16
            (Pen.bytes {} ((g.epoch + 1) % 2 ^ 32)))
        .ok (s, { b with at_ := b.at_ + 1 })

/-- PINBIN_COMPLETE (R338): the next piece, and after the last one the end of the command. -/
def execPinbinComplete (id : Nat) (s : State) : Host.Outcome State Fault Refusal :=
  .next <| match s.cmd id with
  | some c => if c.eng == .pinbin && c.started then cmdStep s id c (binNext s (c.acx id) c) else s
  | none => s

/-- The points of a pen's slots: index and pen. -/
def pairSlots (x : Acx) (c : Cmd) (g : Grid) (p : Nat) :
    Nat → State → SMap Nat → Work (State × SMap Nat)
  | 0, s, m => .ok (s, m)
  | n + 1, s, m => do
    let (s, m) ← pairSlots x c g p n s m
    let (i, s) ← step_ s c 0 0 (engNat s x (c.desc 0x22).base (4 * (p * g.cap + n)) 4 4)
    .ok (s, mset m i p)

/-- The points of a pen's overflow chain from entry `e`. -/
def pairChain (x : Acx) (c : Cmd) (p : Nat) : Nat → Nat → State → SMap Nat → Work (State × SMap Nat)
  | 0, _, s, m => .ok (s, m)
  | n + 1, e, s, m =>
    if e = 0xFFFFFFFF then .ok (s, m)
    else do
      let (v, s) ← step_ s c 0 0 (engNat s x (c.desc 0x23).base (8 * e) 8 8)
      pairChain x c p n (natField v 32 32) s (mset m (natField v 0 32) p)

/-- The entries of `n` pens, first to last. -/
def pairPens (x : Acx) (c : Cmd) : Nat → State → Work (State × List Nat)
  | 0, s => .ok (s, [])
  | n + 1, s => do
    let (s, l) ← pairPens x c n s
    let (v, s) ← step_ s c 0 0 (engNat s x (c.desc 0x20).base (0x40 + 16 * n) 16 16)
    .ok (s, l ++ [v])

/-- The binned points of the pens, ascending by index, with the pen of each. -/
def pairPoints (x : Acx) (c : Cmd) (g : Grid) : List (Nat × Nat) → State → SMap Nat →
    Work (State × SMap Nat)
  | [], s, m => .ok (s, m)
  | (v, p) :: l, s, m => do
    let (s, m) ← pairSlots x c g p (Nat.min (natField v 0 16) g.cap) s m
    let (s, m) ← pairChain x c p (natField v 16 16) (natField v 64 32) s m
    pairPoints x c g l s m

/-- The coordinates of the binned points. -/
def pairCoords (x : Acx) (c : Cmd) : List (Nat × Nat) → State → Work (State × List (Nat × Nat × Num × Num))
  | [], s => .ok (s, [])
  | (i, p) :: l, s => do
    let (v, s) ← step_ s c 0 0 (engRead s x (c.desc 0x21).base (16 * i) 16 16)
    let f (o : Nat) : Num := unpackF fp32 (leNat ((v.drop o).take 4))
    let (s, r) ← pairCoords x c l s
    .ok (s, (i, p, f 0, f 4) :: r)

/-- Whether two pens lie within `m` on an axis of `n` pens; `none`: any distance. -/
def penNear (a b n : Nat) (wrap : Bool) (m : Option Int) : Bool :=
  let d := if a ≤ b then b - a else a - b
  let d := if wrap then Nat.min d (n - d) else d
  match m with
  | some m => (d : Int) ≤ m
  | none => true

/-- The difference along an axis and whether it was wrapped (R339). -/
def pairDelta (a b edge : Num) (n : Nat) (wrap : Bool) : Num × Bool :=
  let d := rn (Num.sub b a)
  let l := Num.mul (Num.ofInt n) edge
  let half := l.scale (-1)
  if wrap && Num.lt half d then (rn (Num.sub d l), true)
  else if wrap && Num.lt d half.neg then (rn (Num.add d l), true)
  else (d, false)

/-- The list radius, its square and the reach in pens (R339). -/
def pairReach (g : Grid) (skin : Num) : Num × Option Int :=
  let rl := rn (Num.add g.rc skin)
  (rn (Num.mul rl rl), if rl.isFin then some (-(floorDiv rl.neg g.edge)) else none)

/-- The pair of two binned points, as the entry's w and d2, where it is within the radius. -/
def pairOf (g : Grid) (t : Num) (m : Option Int) (a b : Nat × Nat × Num × Num) : Option (Nat × Nat) :=
  if penNear (a.2.1 % g.nx) (b.2.1 % g.nx) g.nx g.wrapx m
      && penNear (a.2.1 / g.nx) (b.2.1 / g.nx) g.ny g.wrapy m then
    let (dx, wx) := pairDelta a.2.2.1 b.2.2.1 g.edge g.nx g.wrapx
    let (dy, wy) := pairDelta a.2.2.2 b.2.2.2 g.edge g.ny g.wrapy
    let d2 := packF fp32 0 (Num.add (rn (Num.mul dx dx)) (rn (Num.mul dy dy)))
    if Num.le (unpackF fp32 d2) t then
      some ((if wx then 1 else 0) + (if wy then 2 else 0), d2)
    else none
  else none

/-- Every pair, ascending in (i, j), as 16-byte entries. -/
def pairList (g : Grid) (t : Num) (m : Option Int) : List (Nat × Nat × Num × Num) → List (List Byte)
  | [] => []
  | a :: l =>
    (l.filterMap fun b => (pairOf g t m a b).map fun (w, d2) =>
      leBytes 4 a.1 ++ leBytes 4 b.1 ++ leBytes 4 d2 ++ leBytes 4 w) ++ pairList g t m l

/-- What a PINPAIR finds (R339, R404): the entries that it is to write, or STALE_BIN. -/
def pairRead (s : State) (x : Acx) (c : Cmd) : Work (State × Prog) := do
  let (bs, s) ← step_ s c 0 0 (engRead s x (c.desc 0x20).base 0 64 16)
  let g := gridOf bs
  let (s, pens) ← pairPens x c (g.nx * g.ny) s
  let stale := (pens.filter fun v => natField v 32 32 != g.epoch).length
  if stale != 0 then .ok (s, { c.prog with fin := true, res := { st := 3, fc := Code.staleBin.num, c1 := stale } })
  else do
    let (s, pts) ← pairPoints x c g pens.zipIdx s []
    let (s, xs) ← pairCoords x c pts s
    let (t, m) := pairReach g (unpackF fp32 (c.fld 0x2C 4))
    let es := pairList g t m xs
    let out := es.take (c.fld 0x28 4)
    .ok (s, { c.prog with
      begun := true, rest := out, fin := out.isEmpty, res := { c1 := out.length, c2 := es.length } })

/-- The next piece of a PINPAIR: its reads, or one entry; the counts at a fault are those before it (R330). -/
def pairNext (s : State) (x : Acx) (c : Cmd) : Work (State × Prog) :=
  let p := c.prog
  if !p.begun then pairRead s x c
  else match p.rest with
    | [] => .ok (s, { p with fin := true })
    | e :: l => do
      let q := p.res.c1 - p.rest.length
      let s ← step_ s c q (q + 1) (engWrite s x (c.desc 0x24).base (16 * q) 16 e)
      .ok (s, { p with rest := l, fin := l.isEmpty })

/-- PINPAIR_COMPLETE (R339): the next piece, and after the last one the end of the command. -/
def execPinpairComplete (id : Nat) (s : State) : Host.Outcome State Fault Refusal :=
  .next <| match s.cmd id with
  | some c => if c.eng == .pinpair && c.started then cmdStep s id c (pairNext s (c.acx id) c) else s
  | none => s

/-! ## MPATH (R348) -/

/-- P, the number of parts. -/
def Cmd.parts (c : Cmd) : Nat := natField c.arg 0 24

/-- The checks of an MPATH block (R348). -/
def checkMpath (s : State) (c : Cmd) : Except Stop (State × Cmd) := do
  check (c.arg < 2 ^ 24 && 1 ≤ c.parts && c.parts ≤ 65535 && c.fld 0x23 1 ≤ 5 && c.fld 0x24 1 ≤ 1
    && c.zeros 0x26 26) .cfgReject 0 1
  let ds ← takeTids s c.ctx ([c.fld 0x20 1, c.fld 0x21 1, c.fld 0x22 1].map (·, none))
  .ok (s, { c with descs := ds })

/-- MPATH (R278, R348). -/
def execMpath (p : Guard) (d : GReg) (a : KReg) (b : GReg) (s : State) :
    Host.Outcome State Fault Refusal := engine p d a b .mpath 64 checkMpath s

/-- The key ranks of `n` elements of a sorted input (R314, R348). -/
def mpathKeys (x : Acx) (c : Cmd) (d : Desc) : Nat → State → Work (State × List Int)
  | 0, s => .ok (s, [])
  | n + 1, s => do
    let (s, l) ← mpathKeys x c d n s
    let z := etyWidth (c.fld 0x23 1) / 8
    let (v, s) ← step_ s c 0 0 (engRead s x d.base (n * d.stride 0 + c.fld 0x25 1) z z)
    .ok (s, l ++ [keyRank (c.fld 0x23 1) (leNat v)])

/-- The numbers of A elements among the first 0, 1, … outputs of the merge: A first on equal keys. -/
def mergeSplit (desc : Bool) : Nat → Nat → List Int → List Int → List Nat
  | 0, na, _, _ => [na]
  | fuel + 1, na, a, b =>
    na :: (match a, b with
    | x :: a', y :: b' =>
      if (if desc then y ≤ x else x ≤ y) then mergeSplit desc fuel (na + 1) a' (y :: b')
      else mergeSplit desc fuel na (x :: a') b'
    | _ :: a', [] => mergeSplit desc fuel (na + 1) a' []
    | [], _ :: b' => mergeSplit desc fuel na [] b'
    | [], [] => [])

/-- The entries that an MPATH is to write (R348). -/
def mpathRead (s : State) (x : Acx) (c : Cmd) : Work (State × Prog) := do
  let a := c.desc 0x20
  let b := c.desc 0x21
  let (s, ka) ← mpathKeys x c a (a.count 0) s
  let (s, kb) ← mpathKeys x c b (b.count 0) s
  let n := a.count 0 + b.count 0
  let split := mergeSplit (c.fld 0x24 1 == 1) n 0 ka kb
  let es := (List.range (c.parts + 1)).map fun q =>
    let d := q * n / c.parts
    let na := nth0 split d
    leBytes 4 na ++ leBytes 4 (d - na)
  .ok (s, { c.prog with begun := true, rest := es, res := { c1 := c.parts + 1 } })

/-- The next piece of an MPATH: its reads, or one entry. -/
def mpathNext (s : State) (x : Acx) (c : Cmd) : Work (State × Prog) :=
  let p := c.prog
  if !p.begun then mpathRead s x c
  else match p.rest with
    | [] => .ok (s, { p with fin := true })
    | e :: l => do
      let q := p.res.c1 - p.rest.length
      let s ← step_ s c q 0 (engWrite s x (c.desc 0x22).base (8 * q) 8 e)
      .ok (s, { p with rest := l, fin := l.isEmpty })

/-- MPATH_COMPLETE (R348): the next piece, and after the last one the end of the command. -/
def execMpathComplete (id : Nat) (s : State) : Host.Outcome State Fault Refusal :=
  .next <| match s.cmd id with
  | some c => if c.eng == .mpath then cmdStep s id c (mpathNext s (c.acx id) c) else s
  | none => s

end Sys2Proof.Machine
end

