-- ==== Sys2Proof/Machine/Miller.lean ====
section
/-! DEFINITION. The Miller: MTASK, tile-task queues and records, and a tile task on a mill (R22, R76, R185, R324,
R345 to R347). -/

namespace Sys2Proof.Machine

/-! ## Records (R346) -/

/-- `n` bytes of a record from byte `o`. -/
def recFld (r : List Byte) (o n : Nat) : Nat := leNat ((r.drop o).take n)

/-- The access context of a queue's Miller. -/
def MQueue.acx (q : MQueue) (key : Nat) : Acx := { who := .cmd key, ctx := q.ctx, vf := q.vf, ham := q.hamlet }

/-- A record's bytes: an access is aligned to the record that it moves (R346, R417). -/
def readRec (s : State) (key : Nat) (q : MQueue) (i : Nat) : Except Stop (List Byte × State) :=
  engRead s (q.acx key) q.desc.base (64 * i) 64 64

/-- Writes bytes of a record; nothing is written where the place no longer answers (log 26). -/
def writeRec (s : State) (key : Nat) (q : MQueue) (i o : Nat) (bs : List Byte) : State :=
  match engWrite s (q.acx key) q.desc.base (64 * i + o) 1 bs with
  | .ok s => s
  | .error _ => s

/-- Writes STATE, and FCODE where the record has failed. -/
def setState (s : State) (key : Nat) (q : MQueue) (i st fcode : Nat) : State :=
  let s := writeRec s key q i 4 [BitVec.ofNat 8 st]
  if st = 4 then writeRec s key q i 6 [BitVec.ofNat 8 fcode] else s

/-- The queue that a context's QTID names at a shire's Miller: the one attached last. -/
def queueOf (s : State) (shire ctx tid : Nat) : Option (Nat × MQueue) :=
  (s.mqueues.filter fun (_, q) => q.shire == shire && q.ctx == ctx && q.tid == tid).getLast?

/-! ## The end of APPEND and DETACH (R345) -/

/-- Notes that a record of a queue has ended for the APPEND that waits for it. -/
def noteEnd (s : State) (key i : Nat) (ok : Bool) : State :=
  match s.cmds.find? fun (_, c) => c.eng == .mtaskAppend && c.queue == key && c.left.contains i with
  | some (id, c) =>
    { s with cmds := mset s.cmds id { c with
        left := c.left.filter (· != i)
        done := c.done + (if ok then 1 else 0)
        failed := c.failed + (if ok then 0 else 1) } }
  | none => s

/-- Ends one command of a queue that has nothing left to wait for: an APPEND whose records have all
ended, a DETACH of a queue with no issued record, and then the APPENDs of the freed queue. -/
def endTask (s : State) (x : Nat × Cmd) : State :=
  let (id, c) := x
  match c.eng with
  | .mtaskAppend =>
    if c.left.isEmpty then finishCmd s id c { c1 := c.done, c2 := c.failed }
    else if (mget s.mqueues c.queue).isNone then
      finishCmd s id c { st := 3, c1 := c.done, c2 := c.failed }
    else s
  | .mtaskDetach =>
    match mget s.mqueues c.queue with
    | some q =>
      if q.issued.isEmpty then finishCmd { s with mqueues := mdel s.mqueues c.queue } id c {} else s
    | none => finishCmd s id c {}
  | _ => s

/-- Whether a command's launch stands on the machine, so that the command may end (R188). -/
def cmdLive (s : State) (c : Cmd) : Bool :=
  match s.launchOf c.launch with
  | some l => l.st == .running || l.st == .gating || l.st == .saving
  | none => false

/-- Ends every command of the Millers that can end: DETACHes first. -/
def endTasks (s : State) : State :=
  let due (e : Eng) (s : State) : SMap Cmd := s.cmds.filter fun x => x.2.eng == e && cmdLive s x.2
  let s := (due .mtaskDetach s).foldl endTask s
  (due .mtaskAppend s).foldl endTask s

/-! ## MTASK (R278, R345) -/

/-- The records that an APPEND names, in order. -/
def Cmd.records (c : Cmd) (size : Nat) : List Nat :=
  (List.range (c.fld 0x28 4)).map fun i => (c.fld 0x24 4 + i) % size

/-- The check of an APPEND's records at issue: one that is not EMPTY or DONE, or that it names twice, raises RING_FAULT
(R345). -/
def appendRecs (x : Acx) (k : Cap) : List Nat → State → Except Stop State
  | [], s => .ok s
  | i :: l, s => do
    let (r, s) ← engRead s x k (64 * i) 64 64
    let st := recFld r 4 1
    check ((st == 0 || st == 3) && !l.contains i) .ringFault
    appendRecs x k l s

/-- What a Miller does as it takes an MTASK (R345): ATTACH makes its queue, APPEND sets its records to WAITING, DETACH
closes its queue. -/
def enterMtask (s : State) (id : Nat) (c : Cmd) : State :=
  match c.eng with
  | .mtaskAttach =>
    let tid := c.fld 0x20 1
    let d := (mget c.descs tid).getD Desc.raw
    { s with
      nextId := s.nextId + 1
      mqueues := mset s.mqueues s.nextId { shire := hamShireG c.hamlet, ctx := c.ctx, vf := c.vf, launch := c.launch
                                           tid := tid, desc := d, size := d.count 0, hamlet := c.hamlet } }
  | .mtaskAppend =>
    match mget s.mqueues c.queue with
    | none => s
    | some q =>
      let s := c.left.foldl (fun s i => writeRec s c.queue q i 4 [1]) s
      release { s with mqueues := mset s.mqueues c.queue { q with waiting := q.waiting ++ c.left } } (.cmd id)
  | .mtaskDetach => { s with mqueues := mupd s.mqueues c.queue fun q => { q with closing := true } }
  | _ => s

/-- The checks of an MTASK block. -/
def checkMtask (s : State) (c : Cmd) : Except Stop (State × Cmd) := do
  let shire := hamShireG c.hamlet
  let tid := c.fld 0x20 1
  check (natField c.arg 0 8 ≤ 2 && c.zeros 0x21 3 && c.zeros 0x2C 20) .cfgReject 0 1
  let ds ← takeTids s c.ctx [(tid, none)]
  let d := (mget ds tid).getD Desc.raw
  match natField c.arg 0 8 with
  | 0 => do
    check (64 ≤ d.count 0 && d.count 0 ≤ 65536) .cfgReject 0 1
    check ((s.mqueues.filter fun (_, q) => q.shire == shire).length < 16) .ringFault
    .ok (s, { c with eng := .mtaskAttach, descs := ds })
  | op =>
    match queueOf s shire c.ctx tid with
    | none => raise .ringFault
    | some (key, q) =>
      if op = 1 then do
        let rs := c.records q.size
        let s ← appendRecs s.acx q.desc.base rs s
        .ok (s, { c with eng := .mtaskAppend, queue := key, left := rs })
      else .ok (s, { c with eng := .mtaskDetach, queue := key })

/-- An ATTACH completes at once; an APPEND of no record and a DETACH of an idle queue do too. -/
def settleTasks (o : Host.Outcome State Fault Refusal) : Host.Outcome State Fault Refusal :=
  match o with
  | .next s =>
    let s := (s.cmds.filter (·.2.eng == .mtaskAttach)).foldl (fun s (id, c) => finishCmd s id c {}) s
    .next (endTasks s)
  | o => o

/-- MTASK: the op lies in g[b] (R345; log 8). -/
def mtask (p : Guard) (d : GReg) (a : KReg) (b : GReg) (s : State) : Host.Outcome State Fault Refusal :=
  settleTasks (engine p d a b .mtaskAttach 64 checkMtask s enterMtask)

/-- MTASK ATTACH (R345). -/
def execMtaskAttach (p : Guard) (d : GReg) (a : KReg) (b : GReg) (s : State) :
    Host.Outcome State Fault Refusal := mtask p d a b s
/-- MTASK APPEND (R345). -/
def execMtaskAppend (p : Guard) (d : GReg) (a : KReg) (b : GReg) (s : State) :
    Host.Outcome State Fault Refusal := mtask p d a b s
/-- MTASK DETACH (R345). -/
def execMtaskDetach (p : Guard) (d : GReg) (a : KReg) (b : GReg) (s : State) :
    Host.Outcome State Fault Refusal := mtask p d a b s

/-! ## Issue (R185, R346) -/

/-- A mill's width in columns. -/
def millCols (c : Cell) : Nat := 32 * c.millW

/-- Whether a node is the head of a free mill that the Miller of a shire feeds for a context. -/
def freeMill (s : State) (shire ctx : Nat) (n : NodeRef) : Bool :=
  match s.inst n.inst with
  | none => false
  | some x =>
    let c := s.cellAt n
    c.kind == .mac && isHead c && x.plane == .active && (millCells s n).all (fun m => (s.cellAt m).feed)
      && hamShireG (s.nodeHam n) == shire
      && (match s.launchOf x.launch with
          | some l => l.ctx == ctx && l.st == .running && !l.preemptAsked
          | none => false)
      && !s.mqueues.any fun (_, q) => q.issued.any (·.mill == n)

/-- Whether a record's fields lie in their ranges (R346). -/
def recOk (r : List Byte) : Bool :=
  recFld r 5 1 < 2 && recFld r 7 1 == 0 && recFld r 0x0B 1 == 0 && recFld r 0x28 24 == 0
    && recFld r 0x18 4 != 0 && 1 ≤ recFld r 0x1C 2 && recFld r 0x1C 2 ≤ 32
    && 1 ≤ recFld r 0x1E 2 && recFld r 0x1E 2 ≤ 256

/-- The descriptors of a task, with the scale tensors of A and W, by TID (R193).  DESIGN CHOICE (log 66): R193 does not
say when a record's descriptors are taken; the Miller takes them as it issues the record. -/
def taskDescs (s : State) (ctx : Nat) (r : List Byte) : Except Stop (SMap Desc) := do
  let ds ← takeTids s ctx ([recFld r 8 1, recFld r 9 1, recFld r 10 1].map (·, none))
  let scaled := [recFld r 8 1, recFld r 9 1].filterMap fun t =>
    match mget ds t with
    | some d => if d.sc then some (d.stid, none) else none
    | none => none
  let es ← takeTids s ctx scaled
  .ok (es.foldl (fun m (t, d) => mset m t d) ds)

/-- The oldest record of a list that is ready, WAITING with DEP 0, with the state after its read; or the record whose
read stops. -/
def findReady (s : State) (key : Nat) (q : MQueue) :
    List Nat → Except (Nat × Stop) (Option (Nat × List Byte × State))
  | [] => .ok none
  | i :: l =>
    match readRec s key q i with
    | .error e => .error (i, e)
    | .ok (r, t) =>
      if recFld r 4 1 == 1 && recFld r 0 4 == 0 then .ok (some (i, r, t)) else findReady s key q l

/-- A fault that the Miller meets at a record: ECC_UNCORR and LINK enter the status of the launch whose APPEND waits for
the record, or else of the one that attached the queue (R330, log 35). -/
def taskFault (s : State) (key i : Nat) (q : MQueue) (t : Trap) : State :=
  let l := match s.cmds.find? fun (_, c) => c.queue == key && c.left.contains i with
    | some (_, c) => c.launch
    | none => q.launch
  if t.code.replays then recordFault s l t (siteOf s q.vf q.hamlet 0 0 false) else s

/-- A record ends without running. -/
def failRec (s : State) (key : Nat) (q : MQueue) (i fcode : Nat) : State :=
  let s := setState s key q i 4 fcode
  let s := { s with mqueues := mupd s.mqueues key fun q => { q with waiting := q.waiting.filter (· != i) } }
  endTasks (noteEnd (release s (.cmd key)) key i false)

/-- A ready record goes to a mill: its fields are checked and its descriptors taken (R193); crier record 0x03. -/
def issueRec (s : State) (key : Nat) (q : MQueue) (mill : NodeRef) (i : Nat) (r : List Byte) : State :=
  if !recOk r then failRec s key q i Code.cfgReject.num
  else
    match taskDescs s q.ctx r with
    | .error (.trap t) => failRec s key q i t.code.num
    | .error _ => s
    | .ok ds =>
      if recFld r 0x1E 2 > millCols (s.cellAt mill) then s
      else
        let s := release (setState s key q i 2 0) (.cmd key)
        let task : Task := { idx := i, mill := mill, rec_ := r, descs := ds }
        let s := { s with mqueues := mset s.mqueues key { q with
          waiting := q.waiting.filter (· != i), issued := q.issued ++ [task] } }
        crierAt s (s.instLaunch mill.inst) 0x03 (s.nodeHam mill) mill.cell 0
          ([BitVec.ofNat 8 q.tid] ++ leBytes 4 i)

/-- TILE_TASK_ISSUE (R185): the oldest ready record among the 32 oldest of a queue goes to a free
mill that is wide enough. -/
def execTileTaskIssue (shire key : Nat) (mill : NodeRef) (s : State) :
    Host.Outcome State Fault Refusal :=
  .next <| match mget s.mqueues key with
  | none => s
  | some q =>
    if q.shire != shire || q.closing || !freeMill s shire q.ctx mill then s
    else
      match findReady s key q (q.waiting.take 32) with
      | .ok none => release s (.cmd key)
      | .ok (some (i, r, s)) => issueRec s key q mill i r
      | .error (_, .wait _ rq) => register s rq
      | .error (i, .trap t) => failRec (taskFault s key i q t) key q i t.code.num
      | .error (i, .trapIn s t) => failRec (taskFault s key i q t) key q i t.code.num
      | .error (_, .keep s _) => s

/-! ## Operands (R59, R61, R137 to R139, R346) -/

/-- An element of a row-major tensor at dimension-0 position `k` of row `r`. -/
def rowElem (s : State) (x : Acx) (d : Desc) (k r : Nat) : Except Stop (Nat × State) := do
  let b := fmtBox d.fmt
  if b ≥ 8 then
    let (v, s) ← engNat s x d.base (k * d.stride 0 + r * d.stride 1) (b / 8) (b / 8)
    .ok (unbox d.fmt v, s)
  else
    let (v, s) ← engNat s x d.base ((k * b / 8 : Nat) + r * d.stride 1) 1 1
    .ok (natField v (k * b % 8) b, s)

/-- `n` elements of a row. -/
def rowElems (s : State) (x : Acx) (d : Desc) (k r : Nat) : Nat → Except Stop (List Nat × State)
  | 0 => .ok ([], s)
  | n + 1 => do
    let (l, s) ← rowElems s x d k r n
    let (v, s) ← rowElem s x d (k + n) r
    .ok (l ++ [v], s)

/-- Element (i, j) of a bit-plane tile (R138): the first plane is its most significant bit. -/
def tileElem (b : Nat) (t : List Byte) (i j : Nat) : Nat :=
  (List.range b).foldl (fun v p =>
    2 * v + (if (t.getD (32 * p + 2 * i + j / 8) 0).getLsbD (j % 8) then 1 else 0)) 0

/-- The byte offset of the tile that holds column `k` of row `r` (R138). -/
def tileOff (d : Desc) (k r : Nat) : Nat :=
  (r / 16 * cdiv (d.count 0) 16 + k / 16) * (32 * fmtBits d.fmt)

/-- Columns `k` to `k + n - 1` of row `r`, within one tile, and the tile's zero flag where the
descriptor keeps it. -/
def tileElems (s : State) (x : Acx) (d : Desc) (k r n : Nat) : Except Stop (List Nat × Bool × State) := do
  let z := 32 * fmtBits d.fmt
  let (t, s) ← engRead s x d.base (tileOff d k r) z 32
  let l ← access s x d.base (d.base.offset + tileOff d k r) z 32 clLoad.engine rR
  let zero : Bool := match l with
    | .phys a => d.zf && s.mem.flagged a z
    | _ => false
  .ok ((List.range n).map fun i => tileElem (fmtBits d.fmt) t (r % 16) ((k + i) % 16), zero, s)

/-- The runs of `n` steps from `k` that end at multiples of 16. -/
def kRuns (k n : Nat) : List (Nat × Nat) :=
  let e := k + n
  (List.range (e / 16 - k / 16 + 1)).filterMap fun t =>
    let lo := if t = 0 then k else (k / 16 + t) * 16
    let hi := Nat.min e ((k / 16 + t + 1) * 16)
    if lo < hi then some (lo, hi - lo) else none

/-- One run of a row with its scales, and whether its tile may be skipped (R76).  DESIGN CHOICE (log 58): the flag decides,
also in cleared memory, where R140 sets it and a Q16N, Q16N-B or BIN1 tile of zero bytes holds another value than +0. -/
def runOpnds (s : State) (x : Acx) (d sd : Desc) (q k r n : Nat) :
    Except Stop ((List Opnd × Bool) × State) := do
  let (es, zero, s) ← if d.layout = 1 then tileElems s x d k r n else do
    let (es, s) ← rowElems s x d k r n
    .ok (es, false, s)
  let blk := fmtBlock d.fmt
  let (sc, s) ← if blk = 0 then .ok ([], s)
    else readScales s x d.fmt d sd r (k / blk) ((k + n - 1) / blk - k / blk + 1)
  let ops := (es.zipIdx).map fun (e, i) =>
    let c := if blk = 0 then (0, 0) else sc.getD ((k + i) / blk - k / blk) (0, 0)
    (cutPlanes d.fmt q e, c.1, c.2)
  .ok ((ops, zero && ops.all fun o => (opndVal d.fmt o).isFin), s)

/-- A row's runs. -/
def rowRuns (s : State) (x : Acx) (d sd : Desc) (q r : Nat) :
    List (Nat × Nat) → Except Stop (List (List Opnd × Bool) × State)
  | [] => .ok ([], s)
  | (k, n) :: l => do
    let (v, s) ← runOpnds s x d sd q k r n
    let (vs, s) ← rowRuns s x d sd q r l
    .ok (v :: vs, s)

/-- Rows `r`, …, `r + n - 1`. -/
def rowsRuns (s : State) (x : Acx) (d sd : Desc) (q : Nat) (ks : List (Nat × Nat)) (r : Nat) :
    Nat → Except Stop (List (List (List Opnd × Bool)) × State)
  | 0 => .ok ([], s)
  | n + 1 => do
    let (l, s) ← rowsRuns s x d sd q ks r n
    let (v, s) ← rowRuns s x d sd q (r + n) ks
    .ok (l ++ [v], s)

/-! ## The sum (R73, R76, R346) -/

/-- One output word over the runs of its row and column: a run whose tile is flagged is skipped by the
rule of R76. -/
def taskSum (fa fb : Nat) (acc : W32) (a b : List (List Opnd × Bool)) : W32 × Bool :=
  if fmtInt fa && fmtInt fb then
    let (v, sat) := (a.zip b).foldl (fun (v, sat) (x, y) =>
      if x.2 || y.2 then (v, sat)
      else dotI v sat ((x.1.map fun o => elemInt fa o.1).zip (y.1.map fun o => elemInt fb o.1)))
      (sgn 32 acc.toNat, false)
    (BitVec.ofInt 32 v, sat)
  else
    let v := (a.zip b).foldl (fun v (x, y) =>
      if x.2 then skipF v (y.1.map (opndVal fb))
      else if y.2 then skipF v (x.1.map (opndVal fa))
      else dotF v ((x.1.map (opndVal fa)).zip (y.1.map (opndVal fb)))) (ofFP32 acc)
    (BitVec.ofNat 32 (packF fp32 0 v), false)

/-- The number of tiles that the rows of an operand from row `r` let a task skip. -/
def skips (rows : List (List (List Opnd × Bool))) (r : Nat) : Nat :=
  (rows.zipIdx.map fun (row, i) =>
    if i = 0 || (r + i) % 16 = 0 then (row.filter (·.2)).length else 0).sum

/-- The byte offset of word (ROW0 + i, COL0 + j) of C. -/
def cOff (d : Desc) (row col : Nat) : Int := row * d.stride 0 + col * d.stride 1

/-- Initial words of C: the stored ones where ACC is set. -/
def cInit (s : State) (x : Acx) (d : Desc) (acc : Bool) : List (Nat × Nat) → Except Stop (List W32 × State)
  | [] => .ok ([], s)
  | (i, j) :: l => do
    let (v, s) ← if acc then engNat s x d.base (cOff d i j) 4 4 else .ok (0, s)
    let (vs, s) ← cInit s x d acc l
    .ok (BitVec.ofNat 32 v :: vs, s)

/-- Writes the words of C. -/
def cWrite (x : Acx) (d : Desc) : List ((Nat × Nat) × W32) → State → Except Stop State
  | [], s => .ok s
  | ((i, j), v) :: l, s => do
    let s ← engWrite s x d.base (cOff d i j) 4 (leBytes 4 v.toNat)
    cWrite x d l s

/-- The zero flags of the granules that a task's words cover whole (R139, log 22). -/
def cFlags (s : State) (x : Acx) (d : Desc) (at_ : List (Nat × Nat)) : State :=
  let pas := at_.filterMap fun (i, j) =>
    match checkCapAt d.base (d.base.offset + cOff d i j) (some 4) 4 clStore.engine with
    | .ok ea => match locate s x d.base.space ea rW with
      | .ok (.phys a) => if isOnChip a then some a else none
      | _ => none
    | _ => none
  (pas.map (· / 32)).dedup.foldl (fun s g =>
    if (List.range 8).all fun k => pas.contains (32 * g + 4 * k) then
      { s with mem := { s.mem with
        nonzero := sput s.mem.nonzero g (!(s.mem.read (32 * g) 32).all (· == 0)) } }
    else s) s

/-- The tensor C of a task, and the places of its words. -/
def taskOut (t : Task) : Desc × List (Nat × Nat) :=
  let f (o n : Nat) : Nat := recFld t.rec_ o n
  ((mget t.descs (f 10 1)).getD Desc.raw, (List.range (f 0x1C 2)).flatMap fun i =>
    (List.range (f 0x1E 2)).map fun j => (f 0x0C 4 + i, f 0x10 4 + j))

/-- The sums of a task (R346): the state after its reads, the words of C, the columns that saturated, the products
made and the tiles skipped.  Every word's place is checked before the first is written, so that a task that faults writes
none (R347). -/
def taskRun (s : State) (x : Acx) (t : Task) :
    Except Stop (State × List ((Nat × Nat) × W32) × List Nat × Nat × Nat) := do
  let f (o n : Nat) : Nat := recFld t.rec_ o n
  let desc (tid : Nat) : Desc := (mget t.descs tid).getD Desc.raw
  let a := desc (f 8 1)
  let w := desc (f 9 1)
  let c := desc (f 10 1)
  let row0 := f 0x0C 4
  let col0 := f 0x10 4
  let rows := f 0x1C 2
  let cols := f 0x1E 2
  let ks := kRuns (f 0x14 4) (f 0x18 4)
  let (av, s) ← rowsRuns s x a (desc a.stid) 0 ks row0 rows
  let (wv, s) ← rowsRuns s x w (desc w.stid) w.rplanes ks col0 cols
  let at_ := (List.range rows).flatMap fun i => (List.range cols).map fun j => (i, j)
  let places := (taskOut t).2
  let (c0, s) ← cInit s x c (f 5 1 == 1) places
  let sums := (at_.zip c0).map fun ((i, j), v) =>
    taskSum a.fmt w.fmt v (av.getD i []) (wv.getD j [])
  let words := places.zip (sums.map (·.1))
  let _ ← cWrite x c words s
  let sat := (at_.zip sums).filterMap fun ((_, j), v) => if v.2 then some j else none
  .ok (s, words, sat, rows * cols * f 0x18 4, skips av row0 + skips wv col0)

/-- Decrements the DEP of a successor (R347): at 0 it stays 0 and the successor has failed; where the word cannot be
read, the successor fails with that fault (log 35). -/
def decDep (key : Nat) (s : State) (i : Nat) : Except Stop State :=
  match mget s.mqueues key with
  | none => .ok s
  | some q =>
    let fail (s : State) (code : Code) : State :=
      let s := setState s key q i 4 code.num
      if q.waiting.contains i then
        noteEnd { s with mqueues := mset s.mqueues key { q with waiting := q.waiting.filter (· != i) } } key i false
      else s
    if i ≥ q.size then .ok s
    else
      match engNat s (q.acx key) q.desc.base (64 * i) 4 4 with
      | .ok (0, s) => .ok (fail s .ringFault)
      | .ok (d + 1, s) => .ok (writeRec s key q i 0 (leBytes 4 d))
      | .error (.trap t) => .ok (fail (taskFault s key i q t) t.code)
      | .error (.trapIn s t) => .ok (fail (taskFault s key i q t) t.code)
      | .error e => .error e

/-- The task leaves its queue, and its mill is free. -/
def freeTask (s : State) (key i : Nat) : State :=
  release { s with mqueues := mupd s.mqueues key fun q => { q with
    issued := q.issued.filter (·.idx != i) } } (.cmd key)

/-- The end of a task whose C writes are made: once they are performed at package scope, STATE DONE and then the
decrements (R347). -/
def closeTask (s : State) (key i : Nat) (q : MQueue) (t : Task) : State :=
  if !allPerformed s (.cmd key) then s
  else
    match [recFld t.rec_ 0x20 4, recFld t.rec_ 0x24 4].foldlM (decDep key) (setState s key q i 3 0) with
    | .ok s => endTasks (noteEnd (freeTask s key i) key i true)
    | .error (.wait _ rq) => register s rq
    | .error _ => s

/-- Changes an issued task of a queue. -/
def updTask (s : State) (key i : Nat) (f : Task → Task) : State :=
  { s with mqueues := mupd s.mqueues key fun q => { q with
      issued := q.issued.map fun y => if y.idx = i then f y else y } }

/-- What a task leaves when its sums are formed: the flags and counts, and the words that it has to write.  DESIGN CHOICE
(log 66): the products of tiles that R76 lets it skip count as completed in MAC_KPROD, as they do in its sum. -/
def storeTask (s : State) (key i : Nat) (q : MQueue) (t : Task) (words : List ((Nat × Nat) × W32)) (sat : List Nat)
    (prods skipped : Nat) : State :=
  let s := (countProds (setSat s t.mill (s.cellAt t.mill) sat) q.vf prods).count q.vf 0x020 skipped
  release (updTask s key i fun y => { y with summed := true, rest := words }) (.cmd key)

/-- Writes the next word of a task's tile; after the last one the zero flags of whole granules (R139, R162). -/
def taskWord (s : State) (key i : Nat) (q : MQueue) (t : Task) (w : (Nat × Nat) × W32)
    (l : List ((Nat × Nat) × W32)) : Except Stop State := do
  let (c, places) := taskOut t
  let s ← cWrite (q.acx key) c [w] s
  let s := if l.isEmpty then cFlags s (q.acx key) c places else s
  .ok (release (updTask s key i fun y => { y with rest := l }) (.cmd key))

/-- TILE_TASK_COMPLETE (R162, R347): a task's next piece: its sums, a word of C, and after the last one STATE and the
successors.  A fault of its reads or of a word's place writes no C word. -/
def execTileTaskComplete (shire key i : Nat) (s : State) : Host.Outcome State Fault Refusal :=
  .next <| match mget s.mqueues key with
  | none => s
  | some q =>
    match if q.shire = shire then q.issued.find? (·.idx == i) else none with
    | none => s
    | some t =>
      let failed (s : State) (e : Trap) : State :=
        endTasks (noteEnd (freeTask (setState (taskFault s key i q e) key q i 4 e.code.num) key i) key i false)
      let next : Except Stop State := if t.summed then (match t.rest with
          | [] => .ok (closeTask s key i q t)
          | w :: l => taskWord s key i q t w l)
        else do
          let (s, words, sat, prods, skipped) ← taskRun s (q.acx key) t
          .ok (storeTask s key i q t words sat prods skipped)
      match next with
      | .ok s => s
      | .error (.wait _ rq) => register s rq
      | .error (.trap e) => failed s e
      | .error (.trapIn s e) => failed s e
      | .error _ => s

end Sys2Proof.Machine
end

