-- ==== Sys2Proof/Machine/Video.lean ====
section
/-! DEFINITION. Coded video as tensors (R349 to R366): the chain state, the error estimate and refresh of a block,
block records, pool entries and side records.  What a coded stream says is `Config.nextPicture` (log 10). -/

namespace Sys2Proof.Machine

/-- The VTID descriptor of a session. -/
def Cmd.vdesc (c : Cmd) : Desc := c.desc 0x2C
/-- A constant of the session's c-table (R202): 0 to 63 c_q, 64 to 127 c_a, 128 c_f, 129 c_o. -/
def Cmd.cword (c : Cmd) (i : Nat) : W32 := (mget c.ctab (132 * c.fld 0x2C 1 + i)).getD 0

/-! ## What a session accepts (R349, R350) -/

/-- Whether a declaration stands in the table of R349. -/
def declOk (codec : Nat) (d : SeqDecl) : Bool :=
  let profiles : List Profile := match codec with
    | 0 => [.high, .high10] | 1 => [.main, .main10, .main42210] | 2 => [.main10] | _ => [.main, .high]
  let chromas : List Chroma := match codec with
    | 0 => [.c400, .c420] | 1 => [.c420, .c422] | 2 => [.c400, .c420] | _ => [.c400, .c420, .c444]
  profiles.contains d.profile && d.level ≤ (if codec = 3 then 63 else 62) && (d.depth == 8 || d.depth == 10)
    && chromas.contains d.chroma

/-- Columns of units. -/
def picNx (p : Picture) : Nat := cdiv p.width 4
/-- Rows of units. -/
def picNy (p : Picture) : Nat := cdiv p.height 4

/-- Whether a picture keeps the limits of R350. -/
def picOk (c : Cmd) (p : Picture) : Bool :=
  p.width ≤ 16384 && p.height ≤ 16384 && p.width * p.height ≤ 35651584
    && picNx p ≤ c.vdesc.count 0 && picNy p ≤ c.vdesc.count 1 && p.frame

/-! ## Prediction blocks (R353) -/

/-- The prediction blocks of a coding block: in AVC and HEVC its partitions or prediction units, in VVC and AV1 the block,
or its motion sub-blocks where its motion is derived per sub-block; only VVC and AV1 copy within a picture. -/
def unitBlocks (codec : Nat) (u : PicUnit) : List PicBlock :=
  let plain (b : PicBlock) : PicBlock := { b with sub := false, ibc := b.ibc && 2 ≤ codec && b.pred == 0 }
  if codec < 2 then (if u.parts.isEmpty then [u.whole] else u.parts).map plain
  else if u.perSub then u.parts.map fun b => { plain b with sub := true }
  else [plain u.whole]

/-- The prediction blocks of a picture, in decoding order. -/
def picBlocks (codec : Nat) (p : Picture) : List PicBlock := p.units.flatMap (unitBlocks codec)

/-- Units of luma that a unit of a component spans across and down. -/
def compScale (ch : Chroma) (comp : Nat) : Nat × Nat :=
  if comp = 0 then (1, 1) else match ch with
    | .c400 => (1, 1)
    | .c420 => (2, 2)
    | .c422 => (2, 1)
    | .c444 => (1, 1)

/-- Whether a block's area covers the north-west luma sample of a sub-block (R353). -/
def blkCovers (b : PicBlock) (ch : Chroma) (c : PicCoef) : Bool :=
  let (sx, sy) := compScale ch c.comp
  b.ux ≤ c.col * sx && c.col * sx < b.ux + 2 ^ b.lw / 4 && b.uy ≤ c.row * sy && c.row * sy < b.uy + 2 ^ b.lh / 4

/-- A sub-block with its place counted within a block (R356). -/
def coefWithin (c : PicCoef) (ch : Chroma) (b : PicBlock) : PicCoef :=
  let (sx, sy) := compScale ch c.comp
  { c with col := c.col - cdiv b.ux sx, row := c.row - cdiv b.uy sy }

/-! ## Chain state (R357) -/

/-- The byte of the entry of stream `st`, slot `j`, unit (`x`, `y`). -/
def chainOff (d : Desc) (st j x y : Nat) : Nat :=
  ((((st * 17) + j) * d.count 1 + y) * d.count 0 + x) * 8

/-- An entry: e as FP32 bits and the depth. -/
def chainRead (s : State) (x : Acx) (c : Cmd) (st j ux uy : Nat) : Except Stop ((Nat × Nat) × State) := do
  let (v, s) ← engNat s x c.vdesc.base (chainOff c.vdesc st j ux uy) 8 8
  .ok ((natField v 0 32, natField v 32 8), s)

/-- Writes an entry. -/
def chainWrite (s : State) (x : Acx) (c : Cmd) (st j ux uy e depth : Nat) : Except Stop State :=
  engWrite s x c.vdesc.base (chainOff c.vdesc st j ux uy) 8 (leBytes 4 e ++ leBytes 4 depth)

/-- The units of a rectangle, row by row. -/
def unitsOf (x y w h : Nat) : List (Nat × Nat) :=
  (List.range h).flatMap fun j => (List.range w).map fun i => (x + i, y + j)

/-- Fills a slot with e := E_max and depth 31 in every unit (R365). -/
def chainFill (x : Acx) (c : Cmd) (st j : Nat) : List (Nat × Nat) → State → Except Stop State
  | [], s => .ok s
  | (ux, uy) :: l, s => do
    let s ← chainWrite s x c st j ux uy c.vdesc.emax.toNat 31
    chainFill x c st j l s

/-- Fills several slots over the whole area. -/
def chainFills (x : Acx) (c : Cmd) (st : Nat) : List Nat → State → Except Stop State
  | [], s => .ok s
  | j :: l, s => do
    let s ← chainFill x c st j (unitsOf 0 0 (c.vdesc.count 0) (c.vdesc.count 1)) s
    chainFills x c st l s

/-- Copies a picture's units from slot `k` to slot `j`. -/
def chainCopy (x : Acx) (c : Cmd) (st k j : Nat) : List (Nat × Nat) → State → Except Stop State
  | [], s => .ok s
  | (ux, uy) :: l, s => do
    let ((e, d), s) ← chainRead s x c st k ux uy
    let s ← chainWrite s x c st j ux uy e d
    chainCopy x c st k j l s

/-- Copies whole slots, in order. -/
def chainCopies (x : Acx) (c : Cmd) (st : Nat) : List (Nat × Nat) → State → Except Stop State
  | [], s => .ok s
  | (j, k) :: l, s => do
    let s ← chainCopy x c st k j (unitsOf 0 0 (c.vdesc.count 0) (c.vdesc.count 1)) s
    chainCopies x c st l s

/-- Copies the current picture, in slot 16, to several slots. -/
def chainKeeps (x : Acx) (c : Cmd) (st : Nat) (us : List (Nat × Nat)) : List Nat → State → Except Stop State
  | [], s => .ok s
  | j :: l, s => do
    let s ← chainCopy x c st 16 j us s
    chainKeeps x c st us l s

/-! ## Motion and quantisers (R354, R355) -/

/-- A motion component in quarter-samples, clamped. -/
def mvQuarter (codec : Nat) (m : Int) : Int :=
  clampI (-32768) 32767 (match codec with
    | 2 => (m + 2) / 4
    | 3 => (m + 1) / 2
    | _ => m)

/-- The QP byte of a codec's quantiser. -/
def qpByte (codec q : Nat) : Nat := Nat.min 63 (if codec = 3 then q / 4 else q)

/-- One list that a block uses: motion in quarter-samples, REF as written, slot of its reference. -/
structure PicRef where
  mx : Int
  my : Int
  ref : Nat
  slot : Nat
  deriving DecidableEq, Repr

/-- REF as written (R354). -/
def refField (back : Nat) (scaled : Bool) : Nat := if scaled || back > 255 then 0 else back

/-- The lists that a block uses, list 0 first. -/
def blockLists (b : PicBlock) (codec : Nat) : List PicRef :=
  if b.pred = 0 then []
  else
    let r (mv : Int × Int) (back slot : Nat) (sc : Bool) : List PicRef :=
      if back = 0 then []
      else [{ mx := mvQuarter codec mv.1, my := mvQuarter codec mv.2, ref := refField back sc, slot := slot }]
    r b.mv0 b.ref0 b.slot0 b.scaled0 ++ r b.mv1 b.ref1 b.slot1 b.scaled1

/-! ## The error estimate (R358, R361) -/

/-- FMax of FP32 words; 0 of none. -/
def fmaxBits : List Nat → Nat
  | [] => 0
  | a :: l => packF fp32 0 (l.foldl (fun m v => numMax m (unpackF fp32 v)) (unpackF fp32 a))

/-- The chain entries of the units that a unit covers in a reference. -/
def coverRead (x : Acx) (c : Cmd) (st : Nat) (p : Picture) (slot : Nat) :
    List (Int × Int × Nat) → State → Except Stop (List (Nat × Nat) × State)
  | [], s => .ok ([], s)
  | (cx, cy, _) :: l, s => do
    let (v, s) ← chainRead s x c st slot (warpMap c.vdesc.wrapx (picNx p) cx) (warpMap c.vdesc.wrapy (picNy p) cy)
    let (vs, s) ← coverRead x c st p slot l s
    .ok (v :: vs, s)

/-- The entries that a unit covers over every list of its block. -/
def coverAll (x : Acx) (c : Cmd) (st : Nat) (p : Picture) (ux uy : Nat) :
    List PicRef → State → Except Stop (List (Nat × Nat) × State)
  | [], s => .ok ([], s)
  | r :: l, s => do
    let (v, s) ← coverRead x c st p r.slot (warpUnits (16 * ux + r.mx) (16 * uy + r.my)) s
    let (vs, s) ← coverAll x c st p ux uy l s
    .ok (v ++ vs, s)

/-- The fractional motion that R361 takes: the list of the larger fx + fy, list 0 on a tie. -/
def fracMotion (rs : List PicRef) : Nat × Nat :=
  rs.foldl (fun (m : Nat × Nat) r =>
    let f := ((r.mx % 4).toNat, (r.my % 4).toNat)
    if m.1 + m.2 < f.1 + f.2 then f else m) (0, 0)

/-- A unit's out-of-frame fraction: the greatest over its lists. -/
def unitFrac (c : Cmd) (p : Picture) (rs : List PicRef) (ux uy : Nat) : Nat :=
  fmaxBits (rs.map fun r =>
    outFrac c.vdesc.wrapx c.vdesc.wrapy (picNx p) (picNy p) (16 * ux + r.mx) (16 * uy + r.my))

/-- The candidate of each unit of a block: its e, its fraction and the greatest depth it covers. -/
def unitEsts (x : Acx) (c : Cmd) (st : Nat) (p : Picture) (rs : List PicRef) (qp : Nat) :
    List (Nat × Nat) → State → Except Stop (List (Nat × Nat × Nat) × State)
  | [], s => .ok ([], s)
  | (ux, uy) :: l, s => do
    let (v, s) ← coverAll x c st p ux uy rs s
    let (fx, fy) := fracMotion rs
    let f := unitFrac c p rs ux uy
    let e := erracc c.cword (fmaxBits (v.map (·.1))) (qp + fx <<< 8 + fy <<< 10) f
    let (vs, s) ← unitEsts x c st p rs qp l s
    .ok ((e, f, (v.map (·.2)).foldl Nat.max 0) :: vs, s)

/-- What R361 and R362 decide for a block. -/
structure BlockEst where
  refresh : Bool
  oof : Bool
  depth : Nat
  e : Nat
  /-- e and depth of each unit's chain state. -/
  units : List (Nat × Nat)
  deriving DecidableEq, Repr

/-- The decision of R362 from the candidates; `lost`: a used list whose REF was written 0. -/
def decideBlock (c : Cmd) (qp : Nat) (intra lost : Bool) (n : Nat) (us : List (Nat × Nat × Nat)) : BlockEst :=
  let ca := (c.cword (64 + qp)).toNat
  let eb := fmaxBits (us.map (·.1))
  let d := 1 + (us.map (·.2.2)).foldl Nat.max 0
  let bad := lost || Num.lt (ofFP32 c.vdesc.emax) (unpackF fp32 eb) || eb == 0x7F800000 || d > 31
  if intra || bad then
    { refresh := !intra, oof := us.any (fun u => !(unpackF fp32 u.2.1).isZero), depth := 0, e := ca
      units := List.replicate n (ca, 0) }
  else
    { refresh := false, oof := us.any (fun u => !(unpackF fp32 u.2.1).isZero), depth := d, e := eb
      units := us.map fun u => (u.1, d) }

/-- Writes the chain state of a block's units into slot 16. -/
def chainBlock (x : Acx) (c : Cmd) (st : Nat) : List ((Nat × Nat) × (Nat × Nat)) → State → Except Stop State
  | [], s => .ok s
  | ((ux, uy), e, d) :: l, s => do
    let s ← chainWrite s x c st 16 ux uy e d
    chainBlock x c st l s

/-! ## Pool entries (R356) -/

/-- The order of a block's entries: component, then raster order. -/
def coefKey (c : PicCoef) : Nat := c.comp * 2 ^ 34 + c.row * 2 ^ 17 + c.col

/-- Inserts a sub-block in its place. -/
def insCoef (c : PicCoef) : List PicCoef → List PicCoef
  | [] => [c]
  | d :: l => if coefKey c < coefKey d then c :: d :: l else d :: insCoef c l

/-- A block's sub-blocks with a non-zero level, in order. -/
def blockPool (p : Picture) (b : PicBlock) : List PicCoef :=
  let ch := p.decl.chroma
  ((p.coefs.filter fun c => (c.levels.take 16).any (· != 0) && (c.comp == 0 || ch != .c400) && blkCovers b ch c).map
    (coefWithin · ch b)).foldl (fun l c => insCoef c l) []

/-- A pool entry of a block and its QP byte: 49 bytes.  In AV1 every component has the block's own quantiser (R355). -/
def coefBytes (b : PicBlock) (c : PicCoef) (codec : Nat) : List Byte :=
  let ls := (c.levels ++ List.replicate 16 0).take 16
  let nz := ls.zipIdx.foldl (fun n (v, i) => if v = 0 then n else n + 2 ^ i) 0
  (ls.flatMap fun v => leBytes 2 (wrapN 16 (clampI (-32768) 32767 v))) ++ leBytes 2 nz
    ++ [BitVec.ofNat 8 c.comp, 0] ++ leBytes 2 c.col ++ leBytes 2 c.row ++ leBytes 8 0
    ++ [BitVec.ofNat 8 (qpByte codec (if codec = 3 then b.qp else c.qp))]

/-! ## Records (R352, R353) -/

/-- Replaces bytes of a record. -/
def recPut (r : List Byte) (o : Nat) (bs : List Byte) : List Byte := r.take o ++ bs ++ r.drop (o + bs.length)

/-- A motion vector as stored. -/
def mvBytes (codec : Nat) (mv : Int × Int) : List Byte :=
  leBytes 2 (wrapN 16 (mvQuarter codec mv.1)) ++ leBytes 2 (wrapN 16 (mvQuarter codec mv.2))

/-- A block record with its pool entries; COEF is `first`. -/
def blockRec (codec : Nat) (b : PicBlock) (pool : List PicCoef) (e : BlockEst) (first : Nat) : List Byte :=
  let flag (on : Bool) (i : Nat) : Nat := if on then 2 ^ i else 0
  let uses0 := if b.pred = 0 then b.ibc else b.ref0 != 0
  let uses1 := b.pred != 0 && b.ref1 != 0
  leBytes 2 b.ux ++ leBytes 2 b.uy
    ++ [BitVec.ofNat 8 (b.lw + 16 * b.lh),
        BitVec.ofNat 8 (b.pred + flag e.refresh 2 + flag e.oof 3 + flag b.sub 4),
        BitVec.ofNat 8 (qpByte codec b.qp), BitVec.ofNat 8 e.depth]
    ++ (if uses0 then mvBytes codec b.mv0 else leBytes 4 0)
    ++ (if uses1 then mvBytes codec b.mv1 else leBytes 4 0)
    ++ [BitVec.ofNat 8 (if b.pred = 0 then 0 else refField b.ref0 b.scaled0),
        BitVec.ofNat 8 (if b.pred = 0 then 0 else refField b.ref1 b.scaled1)]
    ++ leBytes 2 (pool.filter (·.comp == 0)).length ++ leBytes 4 first ++ leBytes 2 pool.length
    ++ leBytes 2 0 ++ leBytes 4 e.e

/-- The side records of one payload, from sequence number `q`, `n` of them. -/
def sideRun (kind len : Nat) (bs : List Byte) (q : Nat) : Nat → List (List Byte)
  | 0 => []
  | n + 1 =>
    ([BitVec.ofNat 8 kind, BitVec.ofNat 8 q] ++ leBytes 2 len ++ [0, 3]
      ++ ((bs.drop (26 * q)) ++ List.replicate 26 0).take 26) :: sideRun kind len bs (q + 1) n

/-- Every side record of a picture: the film grain syntax of AV1 (R351, R353). -/
def picSides (codec : Nat) (p : Picture) : List (List Byte) :=
  if codec = 3 then sideRun 1 p.grain.length p.grain 0 (cdiv p.grain.length 26) else []

/-- Whether a record is a side record. -/
def isSide (r : List Byte) : Bool := natField (recFld r 5 1) 0 2 == 3

/-- A record with COEF counted from `base`. -/
def rebase (base : Nat) (r : List Byte) : List Byte :=
  if isSide r then r else recPut r 0x14 (leBytes 4 (recFld r 0x14 4 + base))

/-- A record as a replacement copies it (R364). -/
def replacedRec (emax : W32) (r : List Byte) : List Byte :=
  let f := recFld r 5 1
  let r := recPut r 5 [BitVec.ofNat 8 (f ||| 0x24)]
  if isSide r then r else recPut (recPut r 7 [31]) 0x1C (leBytes 4 emax.toNat)

/-- One block: its record, and the chain state of its units. -/
def codeBlock (s : State) (x : Acx) (c : Cmd) (st : Nat) (p : Picture) (b : PicBlock) (first : Nat) :
    Except Stop (List Byte × State) := do
  let codec := c.fld 0x20 1
  let qp := qpByte codec b.qp
  let us := unitsOf b.ux b.uy (Nat.min (2 ^ b.lw / 4) (picNx p - b.ux)) (Nat.min (2 ^ b.lh / 4) (picNy p - b.uy))
  let rs := blockLists b codec
  let lost := rs.any (·.ref == 0)
  let (es, s) ← if rs.isEmpty || lost then .ok ([], s) else unitEsts x c st p rs qp us s
  let e := decideBlock c qp (b.pred == 0) lost us.length es
  let e := if lost then { e with oof := us.any fun (ux, uy) => unitFrac c p rs ux uy != 0 } else e
  let s ← chainBlock x c st (us.zip e.units) s
  .ok (blockRec codec b (blockPool p b) e first, s)

/-- The blocks of a picture, the pool entries before it `first`. -/
def codeBlocks (x : Acx) (c : Cmd) (st : Nat) (p : Picture) : List PicBlock → Nat → State →
    Except Stop (List (List Byte) × State)
  | [], _, s => .ok ([], s)
  | b :: l, first, s => do
    let (r, s) ← codeBlock s x c st p b first
    let (rs, s) ← codeBlocks x c st p l (first + (blockPool p b).length) s
    .ok (r :: rs, s)

/-- Every pool entry of a picture. -/
def picPool (codec : Nat) (p : Picture) : List (List Byte) :=
  (picBlocks codec p).flatMap fun b => (blockPool p b).map (coefBytes b · codec)

/-- The slots of a list that the chain state has (R357). -/
def dpbSlots (l : List Nat) : List Nat := l.filter (· < 17)

/-- The copies of a list between slots that the chain state has. -/
def dpbCopies (l : List (Nat × Nat)) : List (Nat × Nat) := l.filter fun x => decide (x.1 < 16) && decide (x.2 < 16)

/-- A good picture: its records and pool entries; its chain state goes to the slots that keep it. -/
def codePicture (s : State) (x : Acx) (c : Cmd) (st : Nat) (p : Picture) :
    Except Stop ((List (List Byte) × List (List Byte)) × State) := do
  let codec := c.fld 0x20 1
  let (rs, s) ← codeBlocks x c st p (picBlocks codec p) 0 s
  let s ← chainKeeps x c st (unitsOf 0 0 (picNx p) (picNy p)) (dpbSlots p.keep) s
  .ok ((picSides codec p ++ rs, picPool codec p), s)

end Sys2Proof.Machine
end

