-- ==== Sys2Proof/Machine/Thresher.lean ====
section
/-! DEFINITION. The Thresher (R186, R341 to R344, R364 to R366): THRESH, its sessions and their batches. -/

namespace Sys2Proof.Machine

/-! ## THRESH (R278, R341) -/

/-- Whether a descriptor is one that CTID may name (R356). -/
def ctidOk (d : Desc) : Bool :=
  d.fmt == 22 && d.layout == 3 && d.count 0 == 16 && d.stride 0 == 2 && d.stride 1 == 48 && d.sc
    && d.sblk == 16

/-- The checks of an OPEN block (R341, R356, R357). -/
def checkOpen (s : State) (c : Cmd) : Except Stop (State × Cmd) := do
  let g := s.me.ring (c.fld 0x23 1 % 16)
  check (c.fld 0x20 1 ≤ 3 && c.fld 0x21 1 < 4 && c.fld 0x23 1 < 16 && g.init && 1 ≤ g.lsize
    && g.lsize ≤ 8 && 1 ≤ c.fld 0x24 2 && c.fld 0x24 2 ≤ 4096 && c.fld 0x26 1 ≤ g.size
    && c.zeros 0x27 1 && c.zeros 0x2D 3 && c.zeros 0x38 8) .cfgReject 0 1
  let ds ← takeTids s c.ctx ((List.range 5).map fun i => (c.fld (0x28 + i) 1, none))
  let c := { c with descs := ds }
  let es ← takeTids s c.ctx (if (c.desc 0x2A).sc then [((c.desc 0x2A).stid, none)] else [])
  check ((c.desc 0x28).base.space == 4) .feSpace
  let v := c.vdesc
  check ((c.desc 0x29).layout == 2 && (c.desc 0x29).fmt == 16 && ctidOk (c.desc 0x2A)
    && v.base.offset + c.fld 0x24 2 * 17 * v.count 0 * v.count 1 * 8 ≤ v.base.length) .cfgReject 0 1
  let t ← takeCtab s c.vf (c.fld 0x2C 1) v.ctab
  .ok (s, { c with eng := .threshOpen, descs := es.foldl (fun m (i, d) => mset m i d) ds, ctab := t })

/-- The session of a context that a handle names. -/
def sessionOf (s : State) (ctx : Nat) (h : Nat) : Option (Nat × Cmd) :=
  s.cmds.find? fun (_, c) => c.eng == .threshOpen && c.ctx == ctx && c.handle.toNat == h

/-- The checks of a THRESH command, by its op (R341). -/
def checkThresh (s : State) (c : Cmd) : Except Stop (State × Cmd) :=
  match natField c.arg 0 8 with
  | 0 => checkOpen s c
  | 1 =>
    match sessionOf s c.ctx (natField c.arg 8 32) with
    | some (id, _) => .ok (s, { c with eng := .threshClose, queue := id })
    | none => .ok (s, { c with eng := .threshClose, queue := 0 })
  | _ => cfgReject 1

/-- What a Thresher does as it takes a command (R341, R386): the ring of an OPEN is a Thresher's, and a CLOSE closes its
session. -/
def enterThresh (s : State) (_ : Nat) (c : Cmd) : State :=
  match c.eng with
  | .threshOpen =>
    let n := c.fld 0x23 1 % 16
    s.setReeve c.hamlet ((s.reeve c.hamlet).setRing n { (s.reeve c.hamlet).ring n with feed := true })
  | .threshClose => { s with cmds := mupd s.cmds c.queue fun o => { o with sess := { o.sess with closing := true } } }
  | _ => s

/-- A CLOSE that names no session completes at once with CFG_REJECT; one whose session has ended while it stalled at issue
completes too. -/
def settleClose (o : Host.Outcome State Fault Refusal) : Host.Outcome State Fault Refusal :=
  match o with
  | .next s =>
    .next ((s.cmds.filter fun (_, c) => c.eng == .threshClose && (mget s.cmds c.queue).isNone).foldl
      (fun s (id, c) => finishCmd s id c (if c.queue = 0 then { st := 3, fc := Code.cfgReject.num } else {})) s)
  | o => o

/-- THRESH: the op lies in g[b] (log 8). -/
def thresh (p : Guard) (d : GReg) (a : KReg) (b : GReg) (s : State) : Host.Outcome State Fault Refusal :=
  settleClose (engine p d a b .threshOpen 64 checkThresh s enterThresh)

/-- THRESH OPEN (R341). -/
def execThreshOpen (p : Guard) (d : GReg) (a : KReg) (b : GReg) (s : State) :
    Host.Outcome State Fault Refusal := thresh p d a b s
/-- THRESH CLOSE (R341). -/
def execThreshClose (p : Guard) (d : GReg) (a : KReg) (b : GReg) (s : State) :
    Host.Outcome State Fault Refusal := thresh p d a b s

/-! ## Sessions (R341 to R344) -/

/-- THRESHER_SESSION_START: the oldest waiting OPEN of a shire, while 128 sessions do not run. -/
def execThresherSessionStart (shire : Nat) (s : State) : Host.Outcome State Fault Refusal :=
  .next <|
    let here := s.cmds.filter fun (_, c) => c.eng == .threshOpen && hamShireG c.hamlet == shire
    match here.find? fun (_, c) => !c.started with
    | some (id, c) =>
      if (here.filter fun (_, c) => c.started).length < 128 then
        { s with cmds := mset s.cmds id { c with started := true } }
      else s
    | none => s

/-- A session ends: its OPEN completes, and then the CLOSEs that wait for it. -/
def endSession (s : State) (id : Nat) (c : Cmd) (r : EngRes) : State :=
  let s := finishCmd s id c r
  (s.cmds.filter fun (_, k) => k.eng == .threshClose && k.queue == id).foldl
    (fun s (j, k) => finishCmd s j k {}) s

/-- A directory entry of a stream (R342). -/
structure DirIn where
  tid : Nat
  fin : Bool
  size : Nat
  wr : Nat
  rd : Nat
  deriving DecidableEq, Repr

/-- Reads a stream's entry of the input directory; it waits while WR's word is empty (R342). -/
def dirRead (s : State) (x : Acx) (c : Cmd) (st : Nat) : Except Stop (DirIn × State) := do
  let k := (c.desc 0x28).base
  let (bs, s) ← engRead s x k (32 * st) 32 8
  let l ← access s x k (k.offset + 32 * st + 8) 8 8 clLoad.engine rR
  match l with
  | .phys a => if s.emptyAt (a / 8) then await .memory
  | _ => pure ()
  .ok ({ tid := recFld bs 0 1, fin := recFld bs 1 1 % 2 == 1, size := recFld bs 4 4
         wr := recFld bs 8 8, rd := recFld bs 0x10 8 }, s)

/-- `n` bytes of a stream's ring from RD on, in one run or in two about the ring's end. -/
def ringRead (s : State) (x : Acx) (k : Cap) (d : DirIn) (n : Nat) : Except Stop (List Byte × State) := do
  let o := d.rd % d.size
  let m := Nat.min n (d.size - o)
  let (a, s) ← if m = 0 then Except.ok ([], s) else engRead s x k o m 1
  let (b, s) ← if n = m then Except.ok ([], s) else engRead s x k 0 (n - m) 1
  .ok (a ++ b, s)

/-- The bytes of a stream's ring that can be read, at most `n`, and what the byte after them met. -/
def ringPrefix (s : State) (x : Acx) (k : Cap) (d : DirIn) : Nat → (List Byte × Option Stop) × State
  | 0 => (([], none), s)
  | n + 1 =>
    match ringRead s x k d (n + 1) with
    | .ok (bs, s) => ((bs, none), s)
    | .error e =>
      let ((bs, _), t) := ringPrefix s x k d n
      ((bs, some (if bs.length = n then e else match ringRead s x k d (bs.length + 1) with
        | .error e => e
        | .ok _ => e)), t)

/-- What a stream gives next (R343). -/
inductive Next where
  | pic (dec : Nat) (p : Picture)
  /-- END, and no picture left. -/
  | over
  deriving DecidableEq, Repr

/-- The next picture of a stream from its bytes below WR (R342, R343, R351): while they hold no whole picture, the session
waits; a byte that a picture needs and that cannot be read ends it (R366). -/
def nextOf (s : State) (x : Acx) (c : Cmd) (st : Nat) (d : DirIn) : Except Stop (Next × State) := do
  let avail := Nat.min (d.wr - d.rd) d.size
  let r := tidEntry s c.ctx d.tid
  check (avail = 0 || (d.tid != 0 && r.tag)) .capTag
  let ((bs, stop), s) := ringPrefix s x r.base d avail
  if avail = 0 then (if d.fin then .ok (.over, s) else await .memory)
  else match Config.nextPicture (c.fld 0x20 1) (mgetD c.sess.dec st 0) bs (d.fin && stop.isNone) with
    | some (dec, p) => .ok (.pic dec { p with used := Nat.min p.used bs.length }, s)
    | none => match stop with
      | some e => .error e
      | none => if d.fin then .ok (.over, s) else await .memory

/-- A directory entry of the output (R343). -/
def dirEntry (st pic first n sub m flags : Nat) : List Byte :=
  leBytes 4 st ++ leBytes 4 pic ++ leBytes 4 first ++ leBytes 4 n ++ leBytes 4 sub ++ leBytes 4 m
    ++ [BitVec.ofNat 8 flags] ++ leBytes 7 0

/-- The pieces of byte strings at consecutive places of `z` bytes, from place `i` on. -/
def pieces (field z align i : Nat) (l : List (List Byte)) : List Piece :=
  l.zipIdx.map fun (b, k) => { field := field, off := z * (i + k), align := align, bytes := b }

/-- The tensor of a piece. -/
def Piece.base (p : Piece) (c : Cmd) : Cap :=
  if p.field = 0 then ((mget c.descs (c.desc 0x2A).stid).getD Desc.raw).base else (c.desc p.field).base

/-- A sample is taken: its records, pool entries and directory entry are to be written into the slot of its batch. -/
def putSample (s : State) (c : Cmd) (e : Session) (st pic flags : Nat)
    (r : List (List Byte) × List (List Byte)) : Except Stop (State × Session) :=
  let first := e.slot * c.fld 0x30 4 + e.recs
  let sub := e.slot * c.fld 0x34 4 + e.subs
  .ok (s, { e with
    sample := e.sample + 1, recs := e.recs + r.1.length, subs := e.subs + r.2.length
    rest := pieces 0x29 32 1 first (r.1.map (rebase sub)) ++ pieces 0x2A 48 2 sub (r.2.map (·.take 48))
      ++ pieces 0 1 1 sub (r.2.map (·.drop 48))
      ++ pieces 0x2B 32 1 (e.slot * (c.fld 0x22 1 + 1) + e.sample)
        [dirEntry st pic first r.1.length sub r.2.length flags] })

/-- Whether a sample's records fit what is left of a slot. -/
def fits (c : Cmd) (e : Session) (recs subs : Nat) : Bool :=
  e.recs + recs ≤ c.fld 0x30 4 && e.subs + subs ≤ c.fld 0x34 4

/-- Counts a replacement (R366): crier record 0x06, and SYNTAX under TRAPSYN.  The stream is skipped to its next
random-access point or sequence header (R364). -/
def noteReplaced (s : State) (c : Cmd) (e : Session) (st : Nat) : State × Session :=
  let n := if e.corrupt = 0xFFFFFFFF then e.corrupt else e.corrupt + 1
  let s := crierAt s c.launch 0x06 c.hamlet 0 0
    (leBytes 2 c.handle.toNat ++ leBytes 4 st ++ leBytes 4 n.toNat)
  let s := if natField (c.fld 0x21 1) 1 1 = 1 then
      recordFault (s.updLaunch c.launch (·.note 4)) c.launch { code := .syntaxError }
        (siteOf s c.vf c.hamlet 0 0 false)
    else s
  (s, { e with corrupt := n, skip := sadd e.skip st })

/-- A corrupt sample's place in the batch (R364, R365). -/
def replaceSample (s : State) (x : Acx) (c : Cmd) (e : Session) (st pic : Nat) (p : Picture) :
    Except Stop (State × Session) := do
  let s ← chainFills x c st (dpbSlots p.keep) s
  let (s, e) := noteReplaced s c e st
  match mget e.good st with
  | some (rs, es) =>
    if natField (c.fld 0x21 1) 0 1 = 0 && fits c e rs.length es.length then
      putSample s c e st pic 3 (rs.map (replacedRec c.vdesc.emax), es)
    else putSample s c e st pic 2 ([], [])
  | none => putSample s c e st pic 2 ([], [])

/-- Whether a picture is corrupt (R364): an error of syntax, a declaration outside R349, a break of R350, one that is
skipped, or records that do not fit. -/
def picCorrupt (c : Cmd) (e : Session) (st : Nat) (p : Picture) : Bool :=
  let codec := c.fld 0x20 1
  p.bad || !declOk codec p.decl || !picOk c p || (e.skip.contains st && !p.starts)
    || !fits c e ((picSides codec p).length + (picBlocks codec p).length) (picPool codec p).length

/-- The next sample of a batch, of stream `st` (R343): no picture left, a good picture or a corrupt one. -/
def takeSample (s : State) (x : Acx) (c : Cmd) (e : Session) (st : Nat) : Except Stop (State × Session) := do
  let pic := mgetD e.pics st 0
  let (d, s) ← dirRead s x c st
  let (r, s) ← nextOf s x c st d
  match r with
  | .over => putSample s c e st pic 4 ([], [])
  | .pic dec p =>
    let s ← engWrite s x (c.desc 0x28).base (32 * st + 0x10) 8 (leBytes 8 (d.rd + p.used))
    let s ← chainCopies x c st (dpbCopies p.copies) s
    let s ← chainFills x c st (dpbSlots p.missing) s
    let e := { e with pics := mset e.pics st (pic + 1), dec := mset e.dec st dec }
    if picCorrupt c e st p then replaceSample s x c e st pic p
    else
      let (r, s) ← codePicture s x c st p
      putSample s c { e with good := mset e.good st r, skip := e.skip.filter (· != st) } st pic 1 r

/-- Whether a session may go on: its launch runs and is not being pre-empted (R331). -/
def sessionRuns (s : State) (c : Cmd) : Bool :=
  c.eng == .threshOpen && c.started && match s.launchOf c.launch with
    | some l => l.st == .running && !l.preemptAsked
    | none => false

/-- The end of a batch: the ring advances, crier record 0x04, the status area (R186, R341). -/
def batchDone (s : State) (id : Nat) (c : Cmd) : State :=
  let n := c.fld 0x23 1 % 16
  let r := s.reeve c.hamlet
  let g := r.ring n
  let s := s.setReeve c.hamlet (r.setRing n (Ring.complete { g with rsv := g.rsv + 1 } g.rsv))
  let c := { c with sess := { c.sess with batches := c.sess.batches + 1, sample := 0, recs := 0, subs := 0 } }
  let s := { s with cmds := mset s.cmds id c }
  let s := crierAt s c.launch 0x04 c.hamlet 0 0
    (leBytes 2 c.handle.toNat ++ leBytes 4 ((s.reeve c.hamlet).ring n).wp.toNat)
  let s := writeStatus s id c { st := 0, c1 := c.sess.batches, c2 := c.sess.corrupt.toNat }
  release (lowWater s c.hamlet n) (.cmd id)

/-- What a stream holds for the next batch (R343, R344). -/
inductive Ahead where
  /-- A picture, or a byte that cannot be read. -/
  | more
  /-- END, and no picture left. -/
  | over
  /-- Too few bytes to tell. -/
  | unknown (rq : Option Req)
  deriving DecidableEq, Repr

/-- What a stream holds for the next batch. -/
def streamAhead (s : State) (x : Acx) (c : Cmd) (st : Nat) : Ahead :=
  match (do let (d, s) ← dirRead s x c st; nextOf s x c st d) with
  | .ok (.over, _) => .over
  | .error (.wait _ rq) => .unknown rq
  | _ => .more

/-- What every stream of a session holds. -/
def streamsAhead (s : State) (id : Nat) (c : Cmd) : List Ahead :=
  (List.range (c.fld 0x24 2)).map (streamAhead s (c.acx id) c)

/-- Whether a session stands between batches. -/
def Session.between (e : Session) : Bool := e.sample == 0 && e.rest.isEmpty

/-- Whether a session takes no further batch (R344): after a CLOSE, or after a batch in which every stream is over. -/
def sessionOver (s : State) (id : Nat) (c : Cmd) : Bool :=
  c.sess.between && (c.sess.closing || (c.sess.batches != 0 && (streamsAhead s id c).all (· == .over)))

/-- What a session between batches waits for where it is not known yet whether any stream has a picture left, so that the
batches do not depend on when bytes arrive (R344). -/
def sessionHeld (s : State) (id : Nat) (c : Cmd) : Option (Option Req) :=
  if !c.sess.between || c.sess.batches = 0 || (streamsAhead s id c).contains .more then none
  else (streamsAhead s id c).findSome? fun a => match a with
    | .unknown rq => some rq
    | _ => none

/-- One sample of a session, at its place in the batch (R343, R344): a CLOSE completes the batch in progress with samples
that have END. -/
def sampleStep (s : State) (id : Nat) (c : Cmd) : Work (State × Session) :=
  let n := c.fld 0x22 1 + 1
  let g := (s.reeve c.hamlet).ring (c.fld 0x23 1 % 16)
  let e := if c.sess.sample = 0 then { c.sess with slot := g.wp.toNat % g.size } else c.sess
  let st := (c.sess.batches * n + e.sample) % c.fld 0x24 2
  step_ s c c.sess.batches c.sess.corrupt.toNat
    (if e.closing then putSample s c e st (mgetD e.pics st 0) 4 ([], []) else takeSample s (c.acx id) c e st)

/-- Writes the next piece of the sample that was taken last (R162). -/
def pieceStep (s : State) (id : Nat) (c : Cmd) (p : Piece) (l : List Piece) : Work (State × Session) := do
  let s ← step_ s c c.sess.batches c.sess.corrupt.toNat
    (engWrite s (c.acx id) (p.base c) p.off p.align p.bytes)
  .ok (s, { c.sess with rest := l })

/-- Makes a step of a session. -/
def sessionStep (s : State) (id : Nat) (c : Cmd) (w : Work (State × Session)) : State :=
  match w with
  | .ok (s, e) => release { s with cmds := mset s.cmds id { c with sess := e } } (.cmd id)
  | .error (.inr (t, r)) => endSession t id c r
  | .error (.inl (.wait _ rq)) => register s rq
  | .error (.inl _) => s

/-- The next step of a batch (R162, R186, R343): a piece of the sample that was taken last, also while the launch is being
saved, since a session stops between samples (R331); its next sample; after the last, once its writes are performed at
package scope, the ring advances.  A full ring holds the session. -/
def batchStep (id : Nat) (s : State) : State :=
  match s.cmd id with
  | none => s
  | some c =>
    let g := (s.reeve c.hamlet).ring (c.fld 0x23 1 % 16)
    match c.sess.rest with
    | p :: l => if c.eng == .threshOpen && cmdLive s c then sessionStep s id c (pieceStep s id c p l) else s
    | [] =>
    if !sessionRuns s c || sessionOver s id c || (g.wp - g.rp).toNat ≥ g.size then s
    else if c.sess.sample = c.fld 0x22 1 + 1 then
      if (g.rsv - g.rp).toNat ≥ g.size || !allPerformed s (.cmd id) then s else batchDone s id c
    else match sessionHeld s id c with
      | some rq => register s rq
      | none => sessionStep s id c (sampleStep s id c)

/-- The next step of a batch, and some after it. -/
def batchSteps (id : Nat) : Nat → State → State
  | 0, s => batchStep id s
  | n + 1, s => batchSteps id n (batchStep id s)

/-- THRESHER_BATCH (R186, R343): a batch goes on by one step, and by `more` steps after it. -/
def execThresherBatch (id more : Nat) (s : State) : Host.Outcome State Fault Refusal := .next (batchSteps id more s)

/-- THRESHER_SESSION_END (R344). -/
def execThresherSessionEnd (id : Nat) (s : State) : Host.Outcome State Fault Refusal :=
  .next <| match s.cmd id with
  | none => s
  | some c =>
    if sessionRuns s c && sessionOver s id c then
      endSession s id c { c1 := c.sess.batches, c2 := c.sess.corrupt.toNat }
    else s

end Sys2Proof.Machine
end

