-- ==== Sys2Proof/Machine/Outside.lean ====
section
/-! DEFINITION. Walks and invalidations (R148 to R152), accesses of the host and of peer packages (R131 to R136,
R173, R174, R409) and the Ezton ports (R407, R408). -/

namespace Sys2Proof.Machine

/-! ## Walks (R150) -/

/-- Whether a parish lies in a shire of the package. -/
def parishShire (p : Nat) : Nat := p / 20 * 4 + p % 20 / 5

/-- The parishes of a shire in rotation, the one after the last served first. -/
def rotation (s : State) (shire : Nat) : List Nat :=
  let p0 := shire / 4 * 20 + shire % 4 * 5
  let r := mgetD s.walkRot shire 4
  (List.range 5).map fun i => p0 + (r + 1 + i) % 5

/-- WALKER_GRANT (R150): a free walker of a shire's 32 goes to the next parish in rotation that asks,
for its oldest request, once the shire can be used (R411). -/
def execWalkerGrant (shire : Nat) (s : State) : Host.Outcome State Fault Refusal :=
  .next <|
    if (s.walks.filter fun w => w.running && parishShire w.parish == shire).length ≥ 32
        || !(s.usable (64 + shire) || s.steward.failed) then s
    else
      match (rotation s shire).findSome? fun p => s.walks.find? fun w => !w.running && w.parish == p with
      | none => s
      | some w =>
        let mark (v : Walk) : Walk := if v.id = w.id then { v with running := true } else v
        let t : State := { s with
          walks := s.walks.map mark, walkRot := mset s.walkRot shire (w.parish % 5) }
        t.count w.vf 0x048

/-- The hamlet whose cache serves a requester. -/
def whoHam (s : State) : Who → Option Nat
  | .reeve h => some h
  | .node n => some (s.nodeHam n)
  | .stream h _ => some h
  | .copy h _ => some h
  | _ => none

/-- Adds a mapping to the hamlet caches of the waiters (R149; log 24). -/
def fillHamlets (s : State) (e : TlbEntry) (ws : List Who) : State :=
  ws.foldl (fun s w => match whoHam s w with
    | some h => { s with tlbH := mset s.tlbH h (tlbAdd (mgetD s.tlbH h []) e) }
    | none => s) s

/-- WALK_COMPLETE (R144, R148, R150): the result goes to every waiter, a mapping into the caches; the soft errors that the
walk met are corrected and counted. -/
def execWalkComplete (id : Nat) (s : State) : Host.Outcome State Fault Refusal :=
  .next <| match s.walks.find? fun w => w.id == id && w.running with
  | none => s
  | some w =>
    let res := walk s w.ctx w.vf w.va w.need
    let gift (who : Who) : WalkGift := { who := who, va := w.va, ctx := w.ctx, need := w.need, res := res }
    let s := { correctWalk s w.ctx w.vf w.va w.need with
      walks := s.walks.filter (·.id != id)
      walkGifts := s.walkGifts ++ w.waiters.map gift }
    match res with
    | .ok e =>
      fillHamlets { s with tlbP := mset s.tlbP w.parish (tlbAddP (mgetD s.tlbP w.parish []) e) }
        e w.waiters
    | .fault _ => s

/-! ## Invalidations (R151, R152, R200) -/

/-- The roots of a list of contexts or VFs that have been written take effect (R200). -/
def takeRoots (old new : SMap W64) (ids : List Nat) : SMap W64 × SMap W64 :=
  ids.foldl (fun m i => match mget new i with
    | some v => (mset m.1 i v, mdel m.2 i)
    | none => m) (old, new)

/-- The root changes that an invalidation of kind 1 or 3 puts into effect, for the walks that begin after it has arrived
(R152, R200): its context's, or its VF's and those of the VF's contexts. -/
def rootsFor (s : State) (e : InvEntry) : State :=
  let first (ids : List Nat) (s : State) : State :=
    let (a, b) := takeRoots s.roots1 s.next1 ids
    { s with roots1 := a, next1 := b }
  match e.kind with
  | 1 => first [e.id] s
  | 3 =>
    let s := first (mkeys (s.ctxs.filter fun x => x.2.vf == e.id)) s
    let (a, b) := takeRoots s.roots2 s.next2 [e.id]
    { s with roots2 := a, next2 := b }
  | _ => s

/-- INVALIDATION_ENQUEUE (R151, R200): the queue holds 256 entries. -/
def execInvalidationEnqueue (e : InvEntry) (s : State) : Host.Outcome State Fault Refusal :=
  .next <| if s.invq.length < 256 && e.kind < 4 then rootsFor { s with invq := s.invq ++ [e] } e else s

/-- Whether an invalidation names a mapping of a page of `2^lg` bytes. -/
def invNames (e : InvEntry) (ctx vf va lg : Nat) : Bool :=
  match e.kind with
  | 0 => e.id == ctx && va >>> lg <<< lg < e.start + e.len && e.start < (va >>> lg + 1) <<< lg
  | 1 => e.id == ctx
  | _ => e.id == vf

/-- Whether an invalidation names a requester's context or VF. -/
def invOwner (e : InvEntry) (ctx vf : Nat) : Bool := if e.kind < 2 then e.id == ctx else e.id == vf

/-- Drops what an invalidation names from every cache, and the results not yet used. -/
def dropCaches (s : State) (e : InvEntry) : State :=
  let keep (l : List TlbEntry) : List TlbEntry :=
    l.filter fun t => !invNames e t.ctx t.vf (t.vpage <<< t.lg) t.lg
  { s with
    tlbH := s.tlbH.map fun (h, l) => (h, keep l)
    tlbP := s.tlbP.map fun (h, l) => (h, keep l)
    walkGifts := s.walkGifts.filter fun g => match g.res with
      | .ok t => !invNames e t.ctx t.vf (t.vpage <<< t.lg) t.lg
      | .fault _ => !(if e.kind < 2 then e.id == g.ctx else e.id == (s.ctxOf g.ctx).vf) }

/-- Running walks that an invalidation names restart: they count again (R152). -/
def restartWalks (s : State) (e : InvEntry) : State :=
  (s.walks.filter fun w => w.running && invNames e w.ctx w.vf w.va 16).foldl
    (fun s w => (s.count w.vf 0x050).count w.vf 0x048) s

/-- The reductions that rest under a mapping are performed (R152). -/
def flushFor (e : InvEntry) : List Nat → State → Except Stop State
  | [], s => .ok s
  | h :: l, s => do
    let r := s.reeve h
    let s ← if invOwner e r.ctx r.vf then flushComb s h fun c => c.space != 5 || c.mapped else Except.ok s
    flushFor e l s

/-- INVALIDATION_COMPLETE (R152): once every access that used a dropped mapping has been performed,
the completion word receives 1. -/
def execInvalidationComplete (s : State) : Host.Outcome State Fault Refusal :=
  .next <| match s.invq with
  | [] => s
  | e :: l =>
    match flushFor e (mkeys s.reeves) s with
    | .error _ => s
    | .ok t =>
      if t.windows.any (fun (_, us) => us.any fun u => invOwner e u.ctx u.vf)
          || t.peerOut.any (fun p => p.mapped && invOwner e p.ctx p.vf) then t
      else
        let t := restartWalks (dropCaches { t with invq := l } e) e
        if populated e.word then { t with mem := t.mem.store e.word (leBytes 8 1) false } else t

/-! ## The host (R132, R136, R173, R405) -/

/-- The access context of the outside: it belongs to no VF. -/
def outsideAcx (vf : Nat := 512) : Acx := { who := .steward, ctx := 1024, vf := vf, ham := 0 }

/-- Whether an address lies in the registers of a function: the physical function's, or the model's place of the others
(log 63). -/
def isMmio (a : Nat) : Bool := a >>> 48 == 14 || 2 ^ 52 ≤ a

/-- The host reaches its own memory always, the device once its link has trained and the HOST bit is set; over a trained
link it reaches the registers also in the FAILED state, which they report, and after a firmware stage has failed (R390,
R410, R414; log 56). -/
def hostReaches (s : State) (a : Nat) : Bool :=
  isHost a || (s.linkMode != 0 && (s.usable 10 || (isMmio a && (s.steward.failed || s.boot != 0))))

/-- A host write of bytes within one aligned doubleword; one to a place that is not populated is
discarded (R136). -/
def hostPut (s : State) (a : Nat) (bs : List Byte) : Except Stop State :=
  if !hostReaches s a then .ok s
  else match physLoc a a with
    | .ok (.phys a) => .ok { s with mem := s.mem.store a bs false }
    | .ok (.peer _ _ _) => .ok s
    | .ok l => storeLoc s (outsideAcx) l bs
    | .error _ => .ok s

/-- A host write, a doubleword at a time. -/
def hostPuts : Nat → Nat → List Byte → State → Except Stop State
  | 0, _, _, s => .ok s
  | fuel + 1, a, bs, s =>
    if bs.isEmpty then .ok s
    else do
      let k := 8 - a % 8
      let s ← hostPut s a (bs.take k)
      hostPuts fuel (a + k) (bs.drop k) s


/-- A doubleword of BAR 0 of a VF (R183, R187, R205, R372, R406); the rest reads 0. -/
def barRead (s : State) (vf off : Nat) : W64 :=
  let q := s.vfOf vf
  match off with
  | 0x00000 => q.base
  | 0x00008 => q.size
  | 0x00010 => q.head.zeroExtend 64
  | 0x00018 => q.tail.zeroExtend 64
  | 0x01FF8 => if q.freeze then 2 else 0
  | 0x02000 => q.qos
  | 0x02008 => q.mask.zeroExtend 64
  | 0x02010 => q.cbase
  | 0x02018 => q.csize
  | 0x02020 => q.cwr.zeroExtend 64
  | 0x02028 => q.crd.zeroExtend 64
  | 0x03000 => BitVec.ofNat 64 ((if q.err then 1 else 0) + (if s.steward.failed then 2 else 0))
  | _ => if 0x1000 ≤ off && off < 0x1FF8 then mgetD q.counters (off - 0x1000) 0 else 0

/-- A counter of the package page: the sum over every VF (R206). -/
def packageCounter (s : State) (off : Nat) : W64 :=
  ((mkeys s.vfs).filter (· < 512)).foldl (fun n v => n + mgetD (s.vfOf v).counters off 0) 0

/-- The launch status as a record of 256 bytes (R376): FCODE, FSUB, NOTES, a byte of 0, NFAULT, the stage and level of a
walk's failure (R148), FSITE, REPLAYS, FADDR, and from byte 0x80 DEADLIST. -/
def statusRecord (l : Launch) : List Byte :=
  let (st, lv) := l.fwalk.getD (0, 0)
  [BitVec.ofNat 8 l.fcode.num, BitVec.ofNat 8 l.fsub, l.notes, 0] ++ leBytes 2 l.nfault.toNat
    ++ [BitVec.ofNat 8 st, BitVec.ofNat 8 lv] ++ leBytes 4 l.fsite.toNat ++ leBytes 4 l.replays.toNat
    ++ leBytes 8 l.faddr.toNat ++ List.replicate 104 0
    ++ ((l.deadlist.take 32).flatMap fun w => leBytes 4 w.toNat)

/-- What the host reads over MMIO, by a convention of the model's for where it lies (DESIGN CHOICE, log 63): above the
52 bits of the device, BAR 0 of VF v at 2^52 + v × 2^20; the package page at 2^53; the launch status of LAUNCHID i of
context c at 2^54 + (c × 2^32 + i) × 256. -/
def hostMmio (s : State) (a : Nat) : W64 :=
  if a < 2 ^ 53 then (if a - 2 ^ 52 < 512 * 2 ^ 20 then barRead s (natField a 20 9) (natField a 0 20) else 0)
  else if a < 2 ^ 54 then packageCounter s (a - 2 ^ 53)
  else
    let k := (a - 2 ^ 54) / 256
    match s.launches.find? fun x => x.2.ctx == k / 2 ^ 32 && x.2.lid.toNat == k % 2 ^ 32 with
    | some (_, l) => BitVec.ofNat 64 (leNat (((statusRecord l).drop (a % 256)).take 8))
    | none => 0

/-- A host read within one aligned doubleword; `none` is poison.  Soft errors are corrected (R144). -/
def hostGet (s : State) (a n : Nat) : Except Stop (Option (List Byte) × State) :=
  if !hostReaches s a then .ok (none, s)
  else if 2 ^ 52 ≤ a then .ok (some (wordBytes (hostMmio s) a n), s)
  else match physLoc a a with
    | .ok (.phys a) => .ok (if s.mem.badAt a n then (none, s) else (some (s.mem.read a n), correctSoft s 512 a n))
    | .ok (.peer _ _ _) => .ok (none, s)
    | .ok l => do
      let (bs, s) ← loadLoc s (outsideAcx) l n
      .ok (some bs, s)
    | .error _ => .ok (none, s)

/-- A host read, a doubleword at a time. -/
def hostGets : Nat → Nat → Nat → State → Except Stop (Option (List Byte) × State)
  | 0, _, _, s => .ok (some [], s)
  | fuel + 1, a, n, s =>
    if n = 0 then .ok (some [], s)
    else do
      let k := Nat.min n (8 - a % 8)
      let (x, s) ← hostGet s a k
      let (y, s) ← hostGets fuel (a + k) (n - k) s
      .ok (match x, y with
        | some x, some y => some (x ++ y)
        | _, _ => none, s)

/-! ## Peers (R131, R174, R409) -/

/-- The rights that a peer's access needs. -/
def peerNeed : PeerOp → Nat
  | .load _ => rR
  | .store _ => rW
  | _ => rA

/-- A peer's access at a place: what it is answered. -/
def peerDo (s : State) (x : Acx) (l : Loc) (op : PeerOp) : Except Stop (List Byte × State) :=
  match op with
  | .load n => loadLoc s x l n
  | .store bs => do
    let s ← storeLoc s x l bs
    .ok ([], s)
  | .atomic o v => do
    let (old, s) ← updateLoc s x l 8 op (fun old => some (atomOp o old v.toNat))
    .ok (leBytes 8 old, s)
  | .cas o n => do
    let (old, s) ← updateLoc s x l 8 op (fun old => if old = o.toNat then some n.toNat else none)
    .ok (leBytes 8 old, s)
  | .reduce o v => do
    let (_, s) ← updateLoc s x l (redSize o) op (fun old => some (reduceOp o old v.toNat))
    .ok ([], s)

/-- A peer's access: the domain table names the VF whose second stage translates; a refusal comes back as an error reply
(R409). -/
def peerServe (src vf a : Nat) (op : PeerOp) (s : State) : Except Stop State :=
  match mget s.domain (src * 512 + vf) with
  | none => .ok { s with outside := .refused }
  | some v =>
    match stage2 s v (natField a 0 41) (peerNeed op) with
    | .error _ => .ok { s with outside := .refused }
    | .ok (pa, _, _) =>
      match physLoc pa a with
      | .ok (.peer _ _ _) => .ok { s with outside := .refused }
      | .ok l =>
        match peerDo s (outsideAcx v) l op with
        | .ok (bs, s) => .ok { s with outside := .done bs }
        | .error (.trap _) => .ok { s with outside := .poison }
        | .error e => .error e
      | .error _ => .ok { s with outside := .refused }

/-! ## The accesses of the outside -/

/-- An access of the outside: it is answered in `outside`, but for a host write; or it waits for an accumulator bank
(R117). -/
def outDo (s : State) : OutOp → Except Stop State
  | .put a bs => hostPuts (bs.length + 1) a bs s
  | .get a n =>
    match hostGets (n + 1) a n s with
    | .ok (some bs, s) => .ok { s with outside := .done bs }
    | .ok (none, s) => .ok { s with outside := .poison }
    | .error e => .error e
  | .peer src vf a op => peerServe src vf a op s

/-- An access of the outside that arrives: one that must wait is queued at the bank (R117). -/
def outArrive (s : State) (op : OutOp) : State :=
  match outDo s op with
  | .ok s => s
  | .error (.wait _ (some (.bank _ cell b))) =>
    register { s with nextId := s.nextId + 1, outOps := s.outOps ++ [(s.nextId, op)] }
      (some (.bank (.outside s.nextId) cell b))
  | .error _ => s

/-- The accesses of the outside that can be made are made, oldest first. -/
def outServe (s : State) : State :=
  s.outOps.foldl (fun s (i, op) => match outDo s op with
    | .ok s => release { s with outOps := s.outOps.filter (·.1 != i) } (.outside i)
    | .error _ => s) s

/-- HOST_MEM_WRITE (R173). -/
def execHostMemWrite (a : Nat) (bs : List Byte) (s : State) : Host.Outcome State Fault Refusal :=
  .next (outArrive s (.put a bs))

/-- HOST_MEM_READ (R132, R136): of a place that is not populated or uncorrectable it returns poison. -/
def execHostMemRead (a n : Nat) (s : State) : Host.Outcome State Fault Refusal := .next (outArrive s (.get a n))

/-- Whether a port carries accesses: it is up, and can be used (R408, R411), as it could before the package FAILED (R390). -/
def portOpen (s : State) (p : Nat) : Bool :=
  (mgetD s.eztons p {}).up && (s.usable (896 + p) || s.steward.failed)

/-- PEER_ACCESS (R409): it comes in once the domain table can be used, over the port of its package (R411, log 20). -/
def execPeerAccess (src vf a : Nat) (op : PeerOp) (s : State) : Host.Outcome State Fault Refusal :=
  .next (if (s.usable 11 || s.steward.failed) && portOpen s (src % 48) then outArrive s (.peer src vf a op) else s)

/-- The end of an outstanding access: a requester that waits is given the answer; a store that was
refused or poisoned enters its launch status and, but for a reeve's, the poison record (R262, R302), and one that was lost
shows at a FENCE (R256). -/
def answerPeer (s : State) (p : PeerReq) (ans : PeerAns) (down : Bool) : State :=
  let s := { s with peerOut := s.peerOut.filter (·.id != p.id) }
  let note (t : Trap) : State := leftFault s p.who p.ctx p.vf (whoLaunch s p.who) t
  if p.wants then
    { s with peerIn := s.peerIn ++ [{ who := p.who, addr := p.addr, op := p.op, ans := ans, down := down }] }
  else if down then note { code := .link, sub := 1 }
  else match ans with
    | .done _ => if p.part then s else performedBy s p.who
    | .poison => note { code := .link, sub := 2 }
    | .refused => note { code := .xlatePerm, addr := BitVec.ofNat 64 p.ea }
    | .lost => { s with lost := p.who :: s.lost }

/-- A port. -/
def State.port (s : State) (p : Nat) : Port := (mget s.eztons p).getD {}
/-- Replaces a port. -/
def State.setPort (s : State) (p : Nat) (x : Port) : State := { s with eztons := mset s.eztons p x }

/-- Bytes that a peer access covers. -/
def peerSize : PeerOp → Nat
  | .load n => n
  | .store bs => bs.length
  | _ => 8

/-- Whether two accesses have a peer word in common. -/
def sharesWord (p q : PeerReq) : Bool :=
  p.addr / 8 * 8 < q.addr + peerSize q.op && q.addr / 8 * 8 < p.addr + peerSize p.op

/-- Whether an outstanding access may be answered now: accesses of one party to one peer word are
performed in order (R174). -/
def isOldest (s : State) (p : PeerReq) : Bool :=
  !s.peerOut.any fun q => q.id < p.id && q.who == p.who && sharesWord p q

/-- PEER_REPLY (R174). -/
def execPeerReply (id : Nat) (ans : PeerAns) (s : State) : Host.Outcome State Fault Refusal :=
  .next <| match s.peerOut.find? (·.id == id) with
  | none => s
  | some p =>
    let q := s.port p.port
    if !portOpen s p.port || !isOldest s p then s
    else answerPeer (s.setPort p.port { q with retries := 0 }) p ans false

/-- FLIT_RETRY (R407): a flit of a port fails its CRC and is sent again. -/
def execFlitRetry (port : Nat) (s : State) : Host.Outcome State Fault Refusal :=
  .next <|
    let q := s.port port
    if port < 48 && q.up && q.retries < 8 then
      s.setPort port { q with retries := q.retries + 1 }
    else s

/-- PORT_DOWN (R407): after the eighth failure the port goes down, and every access outstanding on it
is answered with poison. -/
def execPortDown (port : Nat) (s : State) : Host.Outcome State Fault Refusal :=
  .next <|
    let q := s.port port
    if port < 48 && q.up && q.retries ≥ 8 then
      let s := { s.setPort port { q with up := false, retries := 0 } with
        ready := sdel s.ready (896 + port) }
      (s.peerOut.filter (·.port == port)).foldl (fun s p => answerPeer s p .poison true) s
    else s

/-- PORT_RETRAIN (R408): the fabric manager writes RETRAIN. -/
def execPortRetrain (port : Nat) (s : State) : Host.Outcome State Fault Refusal :=
  .next <| if port < 48 then writeMmio s (0x400 + 8 * port) 1 else s

/-- Whether the first firmware stage has failed its check, which keeps every READY bit clear (R414, log 11). -/
def firstStageDown (s : State) : Bool := s.boot != 0 && s.boot.toNat < 2

/-- PORT_TRAINING_DONE (R408). -/
def execPortTrainingDone (port : Nat) (ok : Bool) (s : State) : Host.Outcome State Fault Refusal :=
  .next <|
    let q := s.port port
    if port ≥ 48 || !q.training then s
    else if ok then
      let s := s.setPort port { up := true }
      if s.steward.failed || firstStageDown s then s else s.setReady (896 + port)
    else
      { s.setPort port { q with training := false, fail := true, up := false } with
        ready := sdel s.ready (896 + port) }

end Sys2Proof.Machine
end

