-- ==== Sys2Proof/Machine/Images.lean ====
section
/-! DEFINITION. Images of launches: what a save and a replay record keep, and loading one onto a place (R118, R188,
R382, R385, R389, R402). -/

namespace Sys2Proof.Machine

/-! ## Taking an image -/

/-- The hamlets that a launch uses: its pages' and its reeves', rising. -/
def usedHams (s : State) (key : Nat) (l : Launch) : List Nat :=
  ((launchInsts s key).flatMap (·.2.hams) ++ l.reeves).foldl sadd []

/-- The scratchpads of some hamlets. -/
def scratchOf (m : Mem) (hs : List Nat) : Mem :=
  hs.foldl (fun x h => x.merge (m.slice (scratchBase h) Config.scratchBytes (scratchBase h))) {}

/-- A reeve as an image keeps it: a placement that has not been answered is asked for again (R118). -/
def Reeve.kept (r : Reeve) : Reeve := { r with asking := r.asking && r.placed.isSome }

/-- An instance as an image keeps it (R118): its slots trimmed; it claims its callee's hamlets again. -/
def Inst.kept (x : Inst) : Inst := { x.trim with claim := [] }

/-- The shape of a partition in a header (R382): width and height in hamlets, or a die count. -/
def shapeBytes : Option (Nat × FenceEntry) → List Byte
  | none => leBytes 4 0
  | some (_, e) =>
    if e.dies then leBytes 4 (maskDies e.dieMask).length
    else leBytes 2 (e.c1 + 1 - e.c0) ++ leBytes 2 (e.h1 + 1 - e.h0)

/-- The flags of a header (R382): FORCED, REPLAY_PENDING, SPILLED. -/
def headerFlags (l : Launch) (is : SMap Inst) : Nat :=
  (if l.forced then 1 else 0) + (if l.rollback.isSome then 2 else 0) + (if is.any fun y => y.2.plane == .spilled then 4 else 0)

/-- The 256-byte header of an image (R382).  The halves of the shape and of the counts are the model's choice, and the
section offsets, which no rule gives, are free values (log 12). -/
def imageHeader (s : State) (key : Nat) (l : Launch) : List Byte :=
  let is := launchInsts s key
  leBytes 4 0x4456494D ++ leBytes 4 2 ++ leBytes 4 l.ctx ++ leBytes 4 l.lid.toNat ++ shapeBytes (partition s l.vf)
    ++ leBytes 2 (is.foldl (fun n y => n + y.2.hams.length) 0) ++ leBytes 2 (is.foldl (fun n y => Nat.max n y.2.depth) 0)
    ++ leBytes 4 (headerFlags l is) ++ List.replicate 36 0
    ++ (List.range 24).flatMap fun j => leBytes 8 (Config.freeValue (s.freeCtr + j)).toNat

/-- The image of a launch: of a save or a checkpoint, with its scratchpads and its context's identifiers (R189, R382), or
of its start. -/
def takeImage (s : State) (key : Nat) (l : Launch) (scratch : Bool) : Image :=
  let hs := usedHams s key l
  { header := if scratch then imageHeader s key l else []
    reeves := l.reeves.foldl (fun m h => mset m h (s.reeve h).kept) []
    insts := (launchInsts s key).map fun x => (x.1, x.2.kept)
    sides := (s.sides.filter fun x => s.instLaunch x.2.node.inst == key).map fun x => (x.1, { x.2 with claim := [] })
    tids := if scratch then (s.ctxOf l.ctx).tids else []
    preempts := l.preempts
    replays := l.replays
    ports := s.ports.filter fun x => hs.contains (x.1 / 16)
    accs := s.accs.filter fun x => hs.contains (x.1 / 65536)
    scratch := if scratch then some (scratchOf s.mem hs) else none
    cmds := s.cmds.filter fun x => x.2.launch == key
    mqueues := s.mqueues.filter fun x => x.2.launch == key
    bars := l.bars
    poison := (s.ctxOf l.ctx).poison
    hams := hs
    part := partition s l.vf
    shift := l.shift
    forced := l.forced }

/-- The bytes of a save image: its header and its sections, at most 186 MiB for each die of its hamlets and 6 MiB more for
each shadow plane held there (R382, R383).  DESIGN CHOICE (log 12): the bytes of the sections, of which R382 gives no
layout, are a free value of what they hold. -/
def imageBytes (im : Image) : List Byte :=
  let dies := ((im.hams.map hamDie).foldl sadd []).length
  let planes := (im.insts.filter fun y => y.2.plane == .shadow).length
  (im.header ++ Config.imageBody im).take (dies * (186 + 6 * planes) * 1048576)

/-- Bytes that the device itself writes to local LPDDR-6 from byte `o` on (R153). -/
def writeDram (s : State) (ctx o : Nat) (bs : List Byte) : State :=
  bs.zipIdx.foldl (fun s (b, k) =>
    if o + k < Config.lpddrBytes then storePhys s (s.ctxOf ctx).vf (o + k) [b] else s) s

/-- An image goes into its context's save area, in the granary allotment or in LPDDR-6 (R141, R153, R380, R385).  DESIGN
CHOICE (log 12): which of the two, and where, no rule says; both are free values. -/
def writeImage (s : State) (l : Launch) (im : Image) : State :=
  let a := Config.saveBase l.ctx l.lid.toNat
  if Config.saveInGranary l.ctx then writeAllot s l.ctx a (imageBytes im) else writeDram s l.ctx a (imageBytes im)

/-! ## Taking a launch off its hamlets -/

/-- Drops what a launch's reeves, streams and copies wait for and have been given. -/
def forgetReeves (s : State) (hs : List Nat) : State :=
  let mine (w : Who) : Bool := match w with
    | .reeve h => hs.contains h
    | .stream h _ => hs.contains h
    | .copy h _ => hs.contains h
    | _ => false
  { s with
    waiters := s.waiters.filter fun w => !mine w.who
    gifts := s.gifts.filter fun g => !mine g.who
    walkGifts := s.walkGifts.filter fun g => !mine g.who
    peerIn := s.peerIn.filter fun g => !mine g.who
    lost := s.lost.filter fun w => !mine w
    bankWait := s.bankWait.filter fun g => !mine g.1
    throttled := s.throttled.filter fun w => !mine w
    walks := s.walks.map fun w => { w with waiters := w.waiters.filter fun x => !mine x } }

/-- Removes an instance from its hamlets, keeping nothing of it. -/
def liftInst (s : State) (i : Nat) : State :=
  match s.inst i with
  | none => s
  | some x =>
    let s := { dropHops (forgetNodes s i) x.hops with
      insts := mdel s.insts i
      ports := s.ports.filter fun y => !x.hams.contains (y.1 / 16) }
    (x.hams ++ x.claim).foldl syncHam s

/-- A reeve without a launch: it keeps its registers until the next work unit starts on it (R92). -/
def Reeve.rest (r : Reeve) : Reeve :=
  { r with
    run := .idle, stop := false, wait := none, issued := none, barWait := none, comb := [], xfers := []
    sbars := [], placed := none, asking := false, sweepAt := none }

/-- Takes a launch off the fabric and off its reeves (R368, R387): its hamlets fall free, their owner stays. -/
def liftLaunch (s : State) (key : Nat) (l : Launch) : State :=
  let s := ((launchInsts s key).map (·.1)).foldl liftInst (forgetReeves s l.reeves)
  l.reeves.foldl (fun s h => { s.setReeve h (s.reeve h).rest with
    ports := s.ports.filter fun y => y.1 / 16 != h }) s

/-! ## Candidates (R389) -/

/-- The sets of `n` elements of a list, in ascending order. -/
def combos : Nat → List Nat → List (List Nat)
  | 0, _ => [[]]
  | _ + 1, [] => []
  | n + 1, x :: l => (combos n l).map (x :: ·) ++ combos (n + 1) l

/-- The mask of some dies. -/
def dieMaskOf (ds : List Nat) : BitVec 8 := BitVec.ofNat 8 (ds.foldl (fun m d => m ||| 2 ^ d) 0)

/-- A place of an image: what it covers, where a hamlet of the image goes, and how it has moved (R389). -/
structure Spot where
  cover : List Nat
  goes : List (Nat × Nat)
  dies : List (Nat × Nat)
  dx : Int := 0
  dy : Int := 0
  deriving DecidableEq, Repr

/-- Where a hamlet of an image goes. -/
def Spot.ham (p : Spot) (h : Nat) : Nat := ((p.goes.find? fun x => x.1 == h).map (·.2)).getD h

/-- An image at its own place. -/
def Spot.stay (hams : List Nat) : Spot :=
  { cover := hams, goes := [], dies := (hams.map hamDie).foldl sadd [] |>.map fun d => (d, d) }

/-- The places of the shape of an image within a partition given: the saved one, then rectangles by die and
north-west corner, or sets of dies, in ascending order (R389).  The shape is the saved partition's, which the header
holds (R382, log 32). -/
def candidates (im : Image) (given : Nat × FenceEntry) : List Spot :=
  let hams := im.hams
  let room := partHamlets given
  let gd := (room.map hamDie).foldl sadd []
  let all : List Spot := match im.part with
  | none => []
  | some (d0, e) =>
    if e.dies then
      let ud := maskDies e.dieMask
      (ud :: combos ud.length gd).map fun ds =>
        let m := ud.zip ds
        let put (h : Nat) : Nat × Nat := (h, ((m.find? fun x => x.1 == hamDie h).map (·.2)).getD 0 * 80 + hamNo h)
        { cover := ds.flatMap fun d => rangeFrom (d * 80) 80, goes := hams.map put, dies := m }
    else
      let (c0, c1, h0, h1) := (e.c0, e.c1, e.h0, e.h1)
      let spot (d c r : Nat) : Spot :=
        { cover := (rangeFrom (d * 80) 80).filter fun h =>
            c ≤ hamCol h && hamCol h ≤ c + (c1 - c0) && r ≤ hamRow h && hamRow h ≤ r + (h1 - h0)
          goes := hams.map fun h => (h, d * 80 + (hamRow h - h0 + r) * 10 + (hamCol h - c0 + c))
          dies := [(d0, d)], dx := (c : Int) - (c0 : Int), dy := (r : Int) - (h0 : Int) }
      spot d0 c0 h0 :: gd.flatMap fun d =>
        (List.range (8 - (h1 - h0))).flatMap fun r => (List.range (10 - (c1 - c0))).map fun c => spot d c r
  all.filter fun p => p.cover.all room.contains

/-- How a launch stands after a move, from how it stood before; it keeps the numbers of its old partition. -/
def shiftBy (old : Option Shift) (part : Nat × FenceEntry) (p : Spot) : Shift :=
  match old with
  | none => { part := part, dies := p.dies, dx := p.dx, dy := p.dy }
  | some m =>
    let on (d : Nat) : Nat := ((p.dies.find? fun x => x.1 == d).map (·.2)).getD d
    { m with dies := m.dies.map fun (a, b) => (a, on b), dx := m.dx + p.dx, dy := m.dy + p.dy }

/-- Whether a hamlet can take a launch's reeve: none runs there. -/
def reeveFree (s : State) (h : Nat) : Bool := (s.reeve h).run == .idle

/-- Whether a place qualifies for an image (R389): every hamlet in it is FREE, the pages fit, no other reeve
runs where one goes. -/
def qualifies (s : State) (im : Image) (f : Nat → Nat) (cover : List Nat) : Bool :=
  cover.all (fun h => (s.ham h).place == .free)
    && (mkeys im.reeves).all (fun h => reeveFree s (f h))
    && im.insts.all fun (_, x) =>
      (x.graph.pages.zip x.hams).all (fun y => pageFits y.1 (f y.2))
        && (millPairs x.graph.pages).all fun (w, e) => sideBySide (f (x.hams.getD w 1)) (f (x.hams.getD e 0))

/-! ## Loading an image -/

/-- Gives the circuits of an instance identifiers that are free, keeping those without one. -/
def renumber (used : List Nat) : List Circ → List Circ
  | [] => []
  | c :: l =>
    if c.id = 0 then c :: renumber used l
    else
      let id := freshId used (used.length + 1) 1
      { c with id := id } :: renumber (id :: used) l

/-- The ends of an instance's numbered circuits, as `routeAll` takes them. -/
def circEnds (s : State) (x : Inst) : List (Nat × Nat × Nat × Nat × Nat) :=
  let ham (i : Option Nat) (p : Nat) : Nat := match i.bind s.inst with
    | some y => y.hams.getD p 0
    | none => x.hams.getD p 0
  (x.circs.filter (·.id != 0)).map fun c => (c.id, ham c.si c.sp, ham c.di c.dp, c.sport, c.dport)

/-- A circuit over a new route, with its tokens in the last links; `none` where they do not fit (DESIGN CHOICE, log
32). -/
def Circ.rehop (c : Circ) (hops : List (Nat × W64)) : Option Circ :=
  let n := if c.id = 0 then c.links.length
    else Nat.max 1 (hops.filter fun e => natField e.2.toNat 37 16 == c.id).length
  let ts := c.links.reverse.flatMap (·.fifo)
  let link (k : Nat) : Link :=
    let f := (ts.drop (4 * (n - 1 - k))).take 4
    { fifo := f, credits := 4 - f.length }
  if 4 * n < ts.length then none else some { c with links := (List.range n).map link }

/-- Routes an instance that stands at its hamlets anew; the entries go to its spill image too, where it has one (R401). -/
def rerouteInst (s : State) (ctx vf i : Nat) : Option State :=
  match s.inst i with
  | none => some s
  | some x =>
    let x := { x with circs := renumber (usedIds s) x.circs }
    match routeAll s (vfHamlets s vf) ctx (circEnds s x) [] with
    | none => none
    | some hops => do
      let cs ← if hops.all (fun e => haywardTakes s vf e.1) then x.circs.mapM (·.rehop hops) else none
      let x := { x with circs := cs }
      let s := { s with insts := mset s.insts i { x with hops := hops } }
      let c := s.ctxOf ctx
      let s := s.setCtx ctx { c with spill := c.spill.map fun (j, y) =>
        if j = i then (j, { y with circs := x.circs, hops := hops, hams := x.hams }) else (j, y) }
      some (if x.plane = .spilled then s else putHops s hops)

/-- Moves a barrier instance with its first reeve (log 37). -/
def moveBar (hs : List Nat) (f : Nat → Nat) (b : Barrier) : Barrier :=
  let key := match hs.find? fun h => barKey (b.key % 8) h == b.key with
    | some h => barKey (b.key % 8) (f h)
    | none => b.key
  { b with key := key, arrived := (b.arrived.map f).foldl sadd [] }

/-- The key of the barrier that a reeve waits at, moved. -/
def moveBarWait (f : Nat → Nat) (h : Nat) (w : Option (Nat × Nat)) : Option (Nat × Nat) :=
  w.map fun (key, phase) => (barKey (key % 8) (f h), phase)

/-- Clears the scratchpads of an image's hamlets and loads what it holds; the record of a launch start holds none, and
hamlets of another owner are cleared (R140, R382).  The clear of a restore or rollback is made in its step (log 12). -/
def loadScratch (s : State) (im : Image) (f : Nat → Nat) (foreign : List Nat) : State :=
  match im.scratch with
  | none => foreign.foldl (fun s h => clearServe s (scratchBase h) Config.scratchBytes) s
  | some m =>
    let s := (im.hams.map f).foldl (fun s h => clearServe s (scratchBase h) Config.scratchBytes) s
    im.hams.foldl (fun s h =>
      { s with mem := s.mem.merge (m.slice (scratchBase h) Config.scratchBytes (scratchBase (f h))) }) s

/-- Drops a context's entries from the translation caches (R153). -/
def dropCtxTlb (s : State) (ctx : Nat) : State :=
  let keep (l : List TlbEntry) : List TlbEntry := l.filter fun e => e.ctx != ctx
  { s with tlbH := s.tlbH.map fun (k, l) => (k, keep l), tlbP := s.tlbP.map fun (k, l) => (k, keep l) }

/-- A byte of a granary allotment of 160 bytes (R200): 0xFF ends the list of slices, and a byte that names neither a slice
nor the end is discarded (DESIGN CHOICE, log 46).  A slice that another context has had is cleared first (R140). -/
def allotWrite (s : State) (ctx pos : Nat) (v : W64) : State :=
  let l := mgetD s.allot ctx []
  let sl := natField v.toNat 0 8
  if 160 ≤ pos || (160 ≤ sl && sl != 0xFF) then s
  else
    let s := { s with allot := mset s.allot ctx (lset (l ++ List.replicate (pos + 1 - l.length) 0xFF) pos sl) }
    if sl = 0xFF then s
    else match mget s.sliceOwner sl with
    | some c => if c = ctx then s else { s with sliceClear := mset s.sliceClear sl (ctx, s.cycle) }
    | none => { s with sliceOwner := mset s.sliceOwner sl ctx }

/-- Remaps a context's granary allotment for a restore (R200, R389): a slice that another context's allotment holds gives
way to the lowest slice that is in none; `none` where no slice is left. -/
def remapAllot (s : State) (ctx : Nat) : Option State :=
  (s.slices ctx).zipIdx.foldlM (fun s (sl, j) =>
    let taken (x : Nat) : Bool := s.allot.any fun y => y.1 != ctx && y.2.contains x
    if !taken sl then some s
    else match (List.range 160).find? fun x => !s.allot.any fun y => y.2.contains x with
      | some x => some (allotWrite s ctx j (BitVec.ofNat 64 x))
      | none => none) s

/-- Loads an image onto a place: pages, circuits, accumulators, ports, scratchpads, reeves (R389, R402).  `none`
where it has no route there. -/
def loadImage (s : State) (key : Nat) (l : Launch) (im : Image) (p : Spot) : Option State := do
  let f := p.ham
  let foreign := (im.hams.map f).filter fun h => (s.ham h).owner != some l.ctx && (s.ham h).owner.isSome
  let s := im.insts.foldl (fun s (i, x) =>
    let x := { x with hams := x.hams.map f, hops := [], pmkSent := [], passed := [] }
    claimHams { (x.hams.filter fun h => planesAt s h == 0).foldl freshHam s with
      insts := mset s.insts i x } l.ctx x.hams) s
  let s ← (mkeys im.insts).foldlM (fun s i => rerouteInst s l.ctx l.vf i) s
  let s := loadScratch s im f foreign
  let s := { s with
    ports := im.ports.foldl (fun m (k, q) => mset m (f (k / 16) * 16 + k % 16) q) s.ports
    accs := im.accs.foldl (fun m (k, v) => mset m (f (k / 65536) * 65536 + k % 65536) v) s.accs }
  let s : State := im.reeves.foldl (fun s (h, r) =>
    (s.setReeve (f h) { r with wait := none, barWait := moveBarWait f h r.barWait, sweepAt := none }).updHam (f h)
      fun x => { x with owner := some l.ctx, ctx := l.ctx }) s
  let mvc (c : Cmd) : Cmd := if c.launch = key then { c with hamlet := f c.hamlet } else c
  let mvq (q : MQueue) : MQueue := if q.launch = key then
    { q with hamlet := f q.hamlet, shire := hamShireG (f q.hamlet) } else q
  let s := { s with
    cmds := s.cmds.map fun (i, c) => (i, mvc c)
    mqueues := s.mqueues.map fun (i, q) => (i, mvq q) }
  let c := s.ctxOf l.ctx
  let c := { c with poison := im.poison, tids := if im.scratch.isSome then im.tids else c.tids }
  let s := { dropCtxTlb (s.setCtx l.ctx c) l.ctx with sides := im.sides.foldl (fun m (k, q) => mset m k q) s.sides }
  let hs := mkeys im.reeves
  some (s.updLaunch key fun x => { x with
    reeves := hs.map f, bars := im.bars.map (moveBar hs f), sweepAt := s.cycle, idle := false
    forced := false, preemptAsked := false
    shift := if p.goes.all (fun y => y.1 == y.2) && im.part == partition s l.vf then im.shift
      else im.part.map fun q => shiftBy im.shift q p })

/-- Tries places in turn. -/
def placeImage (s : State) (key : Nat) (l : Launch) (im : Image) : List Spot → Option (State × Bool)
  | [] => none
  | p :: rest =>
    if !qualifies s im p.ham p.cover then placeImage s key l im rest
    else match loadImage s key l im p with
      | some t => some (t, im.hams.any fun h => p.ham h != h)
      | none => placeImage s key l im rest

end Sys2Proof.Machine
end

