-- ==== Sys2Proof/Machine/Steward.lean ====
section
/-! DEFINITION. The Steward: VF launch queues, the dispatcher, the start of a launch and its completion (R51, R52,
R183, R184, R199, R368 to R371, R375, R377, R390, R411). -/

namespace Sys2Proof.Machine

/-! ## VF launch queues (R183) -/

/-- A BASE that the queue accepts. -/
def baseOk (v : W64) : Bool := v.toNat % 64 == 0 && v.toNat < 2 ^ 51
/-- A SIZE that the queue accepts. -/
def sizeOk (v : W64) : Bool := (rangeFrom 4 13).any fun i => v.toNat == 2 ^ i

/-- Resets a queue after a write to BASE or SIZE. -/
def resetQueue (v : Vf) : Vf :=
  { v with head := 0, tail := 0, err := !(baseOk v.base && sizeOk v.size) }

/-- QUEUE_BASE_WRITE (R183). -/
def execQueueBaseWrite (vf : Nat) (v : W64) (s : State) : Host.Outcome State Fault Refusal :=
  .next (s.setVf vf (resetQueue { s.vfOf vf with base := v }))

/-- QUEUE_SIZE_WRITE (R183). -/
def execQueueSizeWrite (vf : Nat) (v : W64) (s : State) : Host.Outcome State Fault Refusal :=
  .next (s.setVf vf (resetQueue { s.vfOf vf with size := v }))

/-- Marks a queue in error and reports it through vector 1. -/
def queueError (s : State) (vf : Nat) : State :=
  raiseMsix (s.setVf vf { s.vfOf vf with err := true }) vf 1

/-- DOORBELL (R183): a TAIL more than SIZE past HEAD is refused. -/
def execDoorbell (vf : Nat) (v : W64) (s : State) : Host.Outcome State Fault Refusal :=
  .next <|
    let q := s.vfOf vf
    let tail : BitVec 32 := field v 0 32
    if q.size.toNat < (tail - q.head).toNat then queueError s vf
    else
      let s := s.setVf vf { q with tail := tail }
      { s with steward := { s.steward with kicks := sadd s.steward.kicks vf } }

/-- Whether the active Steward core acts: it has passed its self-test and has not trapped. -/
def stewardUp (s : State) : Bool :=
  !s.steward.trapped && !s.steward.failed && s.usable (8 + s.steward.active)

/-- The bits of a launch-queue entry (R199): LPB, context and cookie; `none` where a reserved byte is not 0 or
the context is not the VF's. -/
def queueEntry (s : State) (vf : Nat) (bs : List Byte) : Option (Nat × Nat × Nat) :=
  let f (o n : Nat) : Nat := leNat ((bs.drop o).take n)
  let ctx := f 8 2
  let mine : Bool := match mget s.ctxs ctx with
    | some c => c.vf == vf
    | none => false
  if f 0x0A 6 != 0 || f 0x18 40 != 0 || !mine then none else some (f 0 8, ctx, f 0x10 8)

/-- An argument capability of a host kick as the Steward tags it; `none` where it fails (R199). -/
def kickCap (bs : List Byte) : Option Cap :=
  let c : Cap := ⟨BitVec.ofNat 128 (leNat bs), true⟩
  if c.space ≤ 6 && boundsOk c.space (c.base * 256) c.length then some c else none

/-- The refusal of a host kick by its parameter block, in the order of R274. -/
def kickFault (bs : List Byte) (lpb : Lpb) (args : List (Option Cap)) : Option Trap :=
  let code : Cap := { lpb.code with tag := true }
  if lpbBad bs then some { code := .cfgReject, sub := 1 }
  else if 2 ^ 24 ≤ lpb.count then some { code := .launchRange }
  else if args.any Option.isNone || code.space != 0 || code.otype != 0
      || !boundsOk 0 (code.base * 256) code.length then some { code := .capSpace }
  else if !permsIn pX code.perms then some { code := .capPerm }
  else none

/-- Cuts a list into groups of 16. -/
def groups16 : Nat → List Byte → List (List Byte)
  | 0, _ => []
  | n + 1, bs => bs.take 16 :: groups16 n (bs.drop 16)

/-- The launch of a queue entry. -/
def takeEntry (s : State) (vf : Nat) (q : Vf) : Except Stop State := do
  let a := q.base.toNat + 64 * (q.head.toNat % q.size.toNat)
  check (populated a) .xlateMiss
  let (bs, s) ← loadPhys s vf a 64
  match queueEntry s vf bs with
  | none => raise .ringFault
  | some (va, ctx, cookie) => do
    let x : Acx := { who := .steward, ctx := ctx, vf := vf, ham := 0 }
    let (hd, s) ← readSpan s x 0 2 va 64
    let lpb := lpbOf hd
    let n := if lpbBad hd then 0 else lpb.nargs
    let (ab, s) ← readSpan s x 0 2 (va + 64) (16 * n)
    let args := (groups16 n ab).map kickCap
    let fault := kickFault hd lpb args
    let lpb := { lpb with code := { lpb.code with tag := fault.isNone } }
    let l : Launch := { ctx := ctx, vf := vf, lid := 0, lpb := lpb, args := args.filterMap id
                        cookie := BitVec.ofNat 64 cookie }
    let l := match fault with
      | some t => { l with fcode := t.code, fsub := t.sub, nfault := 1 }
      | none => l
    let (s, _) := newLaunch (release s .steward) l
    .ok s

/-- STEWARD_TAKE_ENTRY (R183): the lowest kicked VF whose queue can be served gives its next entry, or has its
kick bit cleared where it is empty.  A read that waits, as for another package, leaves the entry for later. -/
def execStewardTakeEntry (s : State) : Host.Outcome State Fault Refusal :=
  .next <|
    if !stewardUp s then s
    else match s.steward.kicks.find? fun v => s.usable (384 + v) && !(s.vfOf v).err with
      | none => s
      | some vf =>
        let q := s.vfOf vf
        if q.head = q.tail then { s with steward := { s.steward with kicks := sdel s.steward.kicks vf } }
        else match takeEntry s vf q with
          | .ok s =>
            let s := s.setVf vf { s.vfOf vf with head := q.head + 1 }
            { s with steward := { s.steward with journal := s.steward.journal + 1 } }
          | .error (.wait _ rq) => register s rq
          | .error (.keep s _) => s
          | .error _ => queueError s vf

/-! ## What a launch needs (R37, R199, R368, R411) -/

/-- The capability under which the Steward reads a launch's graph image: configure class, from GRAPH (R123). -/
def graphCap (graph : Nat) : Cap := Cap.make true 0 (pCF ||| pLD) 0 22 (2 ^ 18 - 1) (graph / 256) 0

/-- The graph of a parameter block, which has handle 1 (R400); its image is aligned to 256 bytes (R123). -/
def launchGraph (s : State) (l : Launch) : Except Stop (Option Graph × State) :=
  let a := l.lpb.graph.toNat
  if a = 0 then .ok (none, s)
  else do
    check (a % 256 == 0) .align a
    check (decide (a < 2 ^ 56)) .xlateMiss a
    let x : Acx := { who := .steward, ctx := l.ctx, vf := l.vf, ham := 0 }
    let (g, s) ← parseImage (imageReader x (graphCap a)) 1 s
    .ok (some { g with cap := graphCap a }, s)

/-- What the dispatcher finds of a launch. -/
inductive Plan where
  | refuse (t : Trap)
  /-- It waits, for hamlets or for what a read of its image asks for. -/
  | wait (rq : Option Req)
  | go (hams : List Nat)
  deriving DecidableEq, Repr

/-- CFG_REJECT with a subcode, of a launch. -/
def rejectTrap (sub : Nat) : Trap := { code := .cfgReject, sub := sub }

/-- Whether a page may be placed on a hamlet now: it is free, on a die that is ready (R36, R411). -/
def hamOpen (s : State) (h : Nat) : Bool := hamFree s h && s.usable (hamDie h)

/-- Whether a reeve of a launch may start on a hamlet now (R199): FREE, on a die that is ready, with an idle reeve. -/
def reeveOpen (s : State) (h : Nat) : Bool :=
  (s.ham h).place == .free && s.usable (hamDie h) && reeveFree s h

/-- Whether a launch's rectangle lies in its partition and is not empty (R199, R274). -/
def rectOk (s : State) (l : Launch) : Bool :=
  match partition s l.vf with
  | none => false
  | some p =>
    let n := if p.2.dies then (maskDies p.2.dieMask).length else 1
    let rect := launchRect s l
    rect.length != 0 && rect.length == l.lpb.width * l.lpb.height * n

/-- The hamlets that the pager chooses for a launch's graph (log 15). -/
def planGraph (s : State) (l : Launch) (rect : List Nat) (g : Graph) : Plan :=
  let part := vfHamlets s l.vf
  match streamPlaces g rect with
  | none => .refuse (rejectTrap sPlace)
  | some f =>
    match placeRefusal part g f with
    | some sub => .refuse (rejectTrap sub)
    | none => match chooseHams part ((freeHams s part).filter (hamOpen s)) g f with
      | some hams => if hams.all (hamOpen s) then .go hams else .wait none
      | none => .wait none

/-- The dispatcher's offer of a launch to the pager. -/
def plan (s : State) (l : Launch) : Plan :=
  let rect := launchRect s l
  if !rectOk s l || rect.any (fun h => (s.ham h).place == .retired) then .refuse (rejectTrap sPlace)
  else match launchGraph s l with
    | .error (.trap t) => .refuse t
    | .error (.trapIn _ t) => .refuse t
    | .error (.wait _ rq) => .wait rq
    | .error (.keep _ _) => .wait none
    | .ok (g, _) =>
      let p : Plan := match g with
        | none => .go []
        | some g => planGraph s l rect g
      match p with
      | .go hams => if rect.all (reeveOpen s) then .go hams else .wait none
      | p => p

/-! ## Selection (R369 to R371) -/

/-- The time that a launch has been QUEUED. -/
def queuedFor (s : State) (l : Launch) : Nat :=
  l.queued.toNat + if l.st = .queued then (s.time - l.queuedAt).toNat else 0

/-- The effective priority class of a launch: one less for every full 10 ms QUEUED. -/
def effClass (s : State) (l : Launch) : Nat := l.lpb.pclass - queuedFor s l / 10000000

/-- Whether a launch comes before another. -/
def before (s : State) (a b : Launch) : Bool :=
  let x := effClass s a
  let y := effClass s b
  x < y || (x == y && (b.lpb.qos < a.lpb.qos || (a.lpb.qos == b.lpb.qos && a.age < b.age)))

/-- Puts a launch into a list in order. -/
def insertLaunch (s : State) (x : Nat × Launch) : List (Nat × Launch) → List (Nat × Launch)
  | [] => [x]
  | y :: l => if before s x.2 y.2 then x :: y :: l else y :: insertLaunch s x l

/-- The QUEUED launches of a VF in the order of R369; of a device queue, only its first (R184). -/
def queueOrder (s : State) (vf : Nat) : List (Nat × Launch) :=
  (s.launches.filter fun (k, l) => l.vf == vf && l.st == .queued
    && (!l.device || (s.ctxOf l.ctx).devq.head? == some k)).foldl (fun m x => insertLaunch s x m) []

/-- Ends a launch that is being placed with a fault, before it runs. -/
def refuseLaunch (s : State) (key : Nat) (t : Trap) : State :=
  closeLaunch (s.updLaunch key fun l => { l with fcode := t.code, fsub := t.sub, nfault := 1 }) key

/-- Whether the partition's reservation holds a launch back (R370). -/
def heldBack (s : State) (vf key : Nat) (l : Launch) : Bool :=
  match (s.vfOf vf).reserved.bind fun r => (s.launchOf r).map fun x => (r, x) with
  | some (r, x) => r != key && (x.st == .queued || x.st == .placing) && effClass s x ≤ effClass s l
  | none => false

/-- A launch is selected: PLACING, with the time that it has been QUEUED (R368, R369). -/
def selectLaunch (s : State) (key : Nat) : State :=
  s.enter key fun x => { x with st := .placing, queued := x.queued + (s.time - x.queuedAt), behindAt := none }

/-- Offers launches in turn until one can be placed; one that the pager refuses goes through PLACING to COMPLETE
(R368). -/
def offer (s : State) (vf : Nat) : List (Nat × Launch) → State
  | [] => s
  | (k, l) :: rest =>
    if heldBack s vf k l then offer s vf rest
    else match plan s l with
      | .refuse t => offer (refuseLaunch (selectLaunch s k) k t) vf rest
      | .wait rq =>
        offer ((register s rq).updLaunch k fun x => { x with passedAt := some (x.passedAt.getD s.time) }) vf rest
      | .go _ => selectLaunch s k

/-- Whether a launch stands QUEUED behind a running launch of a less urgent class (R371). -/
def standsBehind (s : State) (l : Launch) : Bool :=
  s.launches.any fun (_, x) => x.vf == l.vf && x.st == .running && effClass s l < effClass s x

/-- Notes since when each launch of a VF stands behind less urgent ones. -/
def noteBehind (s : State) (vf : Nat) : State :=
  (queueOrder s vf).foldl (fun s (k, l) => s.updLaunch k fun x => { x with
    behindAt := if standsBehind s l then some (x.behindAt.getD s.time) else none }) s

/-- DISPATCH_SELECT (R369 to R371). -/
def execDispatchSelect (vf : Nat) (s : State) : Host.Outcome State Fault Refusal :=
  .next (if stewardUp s then offer (noteBehind s vf) vf (queueOrder s vf) else s)

/-- RESERVATION_TIMER (R370): a launch passed over for 1 ms takes the partition's reservation. -/
def execReservationTimer (vf : Nat) (s : State) : Host.Outcome State Fault Refusal :=
  .next <|
    let v := s.vfOf vf
    let due (l : Launch) : Bool := match l.passedAt with
      | some t => 1000000 ≤ (s.time - t).toNat
      | none => false
    if v.reserved.isSome || !stewardUp s then s
    else match (queueOrder s vf).find? fun x => due x.2 with
      | some (k, _) => s.setVf vf { v with reserved := some k }
      | none => s

/-! ## Starting a launch (R52, R140, R368, R376) -/

/-- Starts the reeve at position `j` of a launch's rectangle. -/
def startReeve (s : State) (key stride : Nat) (l : Launch) (h j : Nat) : State :=
  let r : Reeve := { ctx := l.ctx, vf := l.vf, lid := l.lid, launch := key, nunits := l.lpb.count
                     stride := stride, code := l.lpb.code, args := l.args, tvec := s.steward.tvec
                     prio := BitVec.ofNat 64 (l.lpb.qos * 16 + l.lpb.pclass), run := .running }
  (s.setReeve h (r.startUnit j)).updHam h fun x => { x with owner := some l.ctx, ctx := l.ctx }

/-- A placed launch runs: its reeves start, its status and the poison record are cleared, and a replayable one
has its first record (R33, R385). -/
def startLaunch (s : State) (key : Nat) (l : Launch) (rect : List Nat) : State :=
  let go := rect.take l.lpb.count
  let s := go.zipIdx.foldl (fun s (h, j) => startReeve s key rect.length l h j) s
  let s := s.setCtx l.ctx { s.ctxOf l.ctx with poison := none }
  let s := leaveDevq (unreserve s l.vf key) key
  let l := { l with claim := [], st := .running, reeves := go, startedAt := s.steward.journal, sweepAt := s.cycle
                    passedAt := none }
  let rec_ := if l.lpb.replay = 0 then none else some (takeImage s key l false)
  let s := { s with
    steward := { s.steward with journal := s.steward.journal + 1 }
    launches := mset s.launches key { l with record := rec_ } }
  crier s l.vf 0x07 0 0 0 l.lid ([BitVec.ofNat 8 (l.lpb.qos * 16 + l.lpb.pclass)] ++ leBytes 4 l.lpb.count)

/-- Ends the claim of a launch (R196). -/
def dropClaim (s : State) (key : Nat) : State :=
  let hams := match s.launchOf key with
    | some l => l.claim
    | none => []
  hams.foldl syncHam (s.updLaunch key fun l => { l with claim := [] })

/-- Back to the queue, keeping its age (R368). -/
def requeue (s : State) (key : Nat) : State :=
  (dropClaim s key).enter key fun l => { l with
    st := .queued, queuedAt := s.time, passedAt := some (l.passedAt.getD s.time) }

/-- Ends a launch that is being placed, with its claim. -/
def refusePlacing (s : State) (key : Nat) (t : Trap) : State := refuseLaunch (dropClaim s key) key t

/-- The hamlets that a launch claims: those of its pages, then those of its reeves. -/
def claimOf (l : Launch) (hams rect : List Nat) : List Nat := hams ++ (rect.take l.lpb.count).filter (!hams.contains ·)

/-- Places a launch's graph on the hamlets claimed for it and starts it. -/
def placeLaunch (s : State) (key : Nat) (l : Launch) (g : Option Graph) (rect : List Nat) : State :=
  let start (s : State) : State :=
    match s.launchOf key with
    | some x => l.claim.foldl syncHam (startLaunch s key x rect)
    | none => s
  match g with
  | none => start s
  | some g =>
    match makeInst s key g .base 0 (l.claim.take g.pages.length) with
    | .ok (s, _) => start s
    | .error none => requeue s key
    | .error (some t) => refusePlacing s key t

/-- The graph of a launch that is being placed, then what goes on with it. -/
def withGraph (s : State) (key : Nat) (l : Launch) (k : State → Option Graph → State) : State :=
  match launchGraph s l with
  | .error (.trap t) => refusePlacing s key t
  | .error (.trapIn _ t) => refusePlacing s key t
  | .error (.wait _ rq) => register s rq
  | .error (.keep s _) => s
  | .ok (g, s) => k (release s .steward) g

/-- LAUNCH_PLACE (R37, R140, R196, R198, R368, R370): the pager claims hamlets of its choice for a selected launch, and once
they are clear its graph is placed and its reeves start.  A launch that a reservation holds back by then is QUEUED again
(log 45). -/
def execLaunchPlace (key : Nat) (hams : List Nat) (s : State) : Host.Outcome State Fault Refusal :=
  .next <|
    match s.launchOf key with
    | none => s
    | some l =>
      let part := vfHamlets s l.vf
      let rect := launchRect s l
      if l.st != .placing || !stewardUp s then s
      else if heldBack s l.vf key l then requeue s key
      else if !rectOk s l then refusePlacing s key (rejectTrap sPlace)
      else if !l.claim.isEmpty then
        if cleared s l.claim then withGraph s key l fun s g => placeLaunch s key l g rect else s
      else if hams.any fun h => !part.contains h then refuseLaunch s key { code := .placeFail }
      else withGraph s key l fun s g =>
        let legal : Bool := match g with
          | none => hams.isEmpty
          | some g => legalHams part g ((streamPlaces g rect).getD []) hams
        if !legal then s
        else if !hams.all (hamOpen s) || !rect.all (reeveOpen s) then requeue s key
        else
          let claim := claimOf l hams rect
          let s := (takeHams s l.ctx claim).updLaunch key fun x => { x with claim := claim }
          if cleared s claim then placeLaunch s key { l with claim := claim } g rect else s

/-! ## Completion (R377) -/

/-- Whether every work unit, stream, copy and engine command of a launch has ended. -/
def launchDone (s : State) (key : Nat) (l : Launch) : Bool :=
  l.reeves.all (fun h =>
    let r := s.reeve h
    (r.run == .exited || r.run == .trapped) && r.xfers.isEmpty)
  && !s.cmds.any fun x => x.2.launch == key

/-- Ends a launch: its graphs are released, its reeves fall idle, its record is written. -/
def endLaunch (s : State) (key : Nat) (l : Launch) : State :=
  let s := dropPlaces (releaseLaunch s key) key
  let s := l.reeves.foldl (fun s h => s.setReeve h (s.reeve h).rest) (forgetReeves s l.reeves)
  closeLaunch s key

/-- Whether an access of a launch is still owed an answer: from another package, or in a sparse-update unit. -/
def accessOwed (s : State) (key : Nat) : Bool :=
  s.peerOut.any (fun p => whoLaunch s p.who == key)
    || s.windows.any (fun w => w.2.any fun u => u.launch == key)

/-- LAUNCH_COMPLETE (R377): its live graphs are released as CFGREL does, once every memory reply owed to them has come
(R270).  The completion is a release (R160): entries that rest in the combining buffers of its reeves, stopped ones too,
are flushed first, and every access has been performed (R168). -/
def execLaunchComplete (key : Nat) (s : State) : Host.Outcome State Fault Refusal :=
  .next <|
    match s.launchOf key with
    | none => s
    | some l =>
      if l.st != .running || l.rollback.isSome || l.preemptAsked || !launchDone s key l
          || (launchInsts s key).any (fun y => repliesOwed s y.1) then s
      else
        let (s, clear) := flushReeves s l.reeves
        if !clear || accessOwed s key then s else endLaunch s key l

end Sys2Proof.Machine
end

