-- ==== Sys2Proof/Machine/Preempt.lean ====
section
/-! DEFINITION. Pre-emption, its save, restore, checkpoints and replay (R43, R118, R188, R331, R368, R371, R380 to
R389, R402). -/

namespace Sys2Proof.Machine

/-! ## Taking markers out (R381, R385) -/

/-- Takes PMK off a token list. -/
def noPmk (l : List Token) : List Token := l.filter fun t => !t.isPmk

/-- Takes PMK out of a port of an actor slot, whose slots keep what was last written into them (R112). -/
def portNoPmk (a : APort) : APort :=
  let ts := noPmk ((List.range a.fill).map a.at)
  ts.foldl APort.put { a with fill := 0, tail := a.head }

/-- Takes PMK out of the buffers of a cell. -/
def cellNoPmk (c : Cell) : Cell :=
  let slot (x : Slot) : Slot := { x with ports := x.ports.map fun y => (y.1, portNoPmk y.2) }
  { c with
    inb := c.inb.map fun y => (y.1, noPmk y.2)
    outq := c.outq.map fun y => (y.1, noPmk y.2)
    slots := c.slots.map fun y => (y.1, slot y.2) }

/-- Takes PMK off a link, whose credits return. -/
def linkNoPmk (l : Link) : Link :=
  let f := noPmk l.fifo
  { l with fifo := f, credits := l.credits + (l.fifo.length - f.length) }

/-- Takes PMK off a circuit. -/
def circNoPmk (c : Circ) : Circ := { c with links := c.links.map linkNoPmk }

/-- Takes the markers of a pre-emption out of an instance that was saved part-way (R381). -/
def instNoPmk (x : Inst) : Inst :=
  { x with
    cells := x.cells.map fun y => (y.1, cellNoPmk y.2)
    circs := x.circs.map circNoPmk
    ports := x.ports.map fun y => (y.1, { y.2 with buf := noPmk y.2.buf }) }

/-- Takes out the markers of a pre-emption from a launch that stays on the fabric. -/
def stripPmk (s : State) (key : Nat) : State :=
  let hs := (launchInsts s key).flatMap (·.2.hams)
  let s := (mkeys (launchInsts s key)).foldl (fun s i => s.updInst i instNoPmk) s
  { s with ports := s.ports.map fun (k, q) =>
      (k, if hs.contains (k / 16) then { q with buf := noPmk q.buf } else q) }

/-- A checkpoint that is under way is given up: its markers are taken out. -/
def ckptDrop (s : State) (key : Nat) (l : Launch) : State :=
  if l.ckptAt.isNone then s else stripPmk (sweepAfresh (s.updLaunch key fun x => { x with ckptAt := none }) key) key

/-! ## The request (R43, R371, R380) -/

/-- Whether a launch must still be left alone: a freeze, spill or refill is under way (R43, R384), or a reeve has
not taken a value that it has been given. -/
def requestHeld (s : State) (key : Nat) (l : Launch) : Bool :=
  (launchInsts s key).any (fun y =>
    y.2.plane == .freezing || y.2.plane == .spilling || y.2.plane == .refilling)
  || l.reeves.any fun h =>
    let mine (w : Who) : Bool := w == Who.reeve h
    s.gifts.any (fun g => mine g.who) || s.peerIn.any (fun g => mine g.who)
      || s.peerOut.any fun p => mine p.who && p.wants

/-- A reeve of a launch that is being pre-empted stands between instructions and leaves every waiter order
(R118). -/
def parkReeves (s : State) (hs : List Nat) : State :=
  hs.foldl (fun s h =>
    let r := s.reeve h
    { s.setReeve h { r with wait := none } with
      waiters := s.waiters.filter fun w => w.who != Who.reeve h }) s

/-- Begins the gating of a launch, or notes the request until it can begin. -/
def askPreempt (s : State) (key : Nat) (l : Launch) : State :=
  if l.st != .running then s
  else if requestHeld s key l then
    s.updLaunch key fun x => { x with
      preemptAsked := true, gatingAt := if x.preemptAsked then x.gatingAt else s.cycle }
  else
    let s := parkReeves (ckptDrop s key l) l.reeves
    let s := s.enter key fun x => { x with
      st := .gating, gatingAt := if x.preemptAsked then x.gatingAt else s.cycle, preemptAsked := false }
    (mkeys (launchInsts s key)).foldl (fun s i => s.updInst i fun x =>
      { x with pmkSent := [], passed := [] }) s

/-- PREEMPT_REQUEST (R371, R380): of the runtime or the dispatcher; a launch that is not RUNNING is left as it
is. -/
def execPreemptRequest (key : Nat) (s : State) : Host.Outcome State Fault Refusal :=
  .next <|
    match s.launchOf key with
    | some l => askPreempt s key l
    | none => s

/-- The state as it would be with a launch's hamlets and reeves free. -/
def without (s : State) (key : Nat) : State :=
  match s.launchOf key with
  | some l => liftLaunch s key l
  | none => s

/-- Running launches in the order in which they are pre-empted: the least urgent class first, then the most
recently started. -/
def victimOrder (s : State) (vf : Nat) (cls : Nat) : List Nat :=
  let l := s.launches.filter fun (_, l) => l.vf == vf && l.st == .running && !l.preemptAsked && cls < effClass s l
  let ins (x : Nat × Launch) (m : List (Nat × Launch)) : List (Nat × Launch) :=
    let lower (y : Nat × Launch) : Bool :=
      effClass s x.2 < effClass s y.2 || (effClass s x.2 == effClass s y.2 && x.2.startedAt < y.2.startedAt)
    m.takeWhile lower ++ x :: m.dropWhile lower
  (l.foldl (fun m x => ins x m) []).map (·.1)

/-- The shortest run of victims whose hamlets let a launch be placed; all of them where none does. -/
def victims (s : State) (l : Launch) : List Nat → List Nat
  | [] => []
  | k :: ks =>
    let s := without s k
    match plan s l with
    | .go _ => [k]
    | _ => k :: victims s l ks

/-- The state as it will be once the launches of a VF that are being pre-empted have left their hamlets. -/
def afterPreempts (s : State) (vf : Nat) : State :=
  let going (l : Launch) : Bool := l.vf == vf && (l.st == .gating || l.st == .saving || l.preemptAsked)
  (mkeys (s.launches.filter fun x => going x.2)).foldl without s

/-- PWAIT_PREEMPT (R371): a launch that has stood PWAIT behind running launches of a less urgent class has launches
pre-empted, where those that already leave do not free hamlets enough. -/
def execPwaitPreempt (vf : Nat) (s : State) : Host.Outcome State Fault Refusal :=
  .next <|
    let v := s.vfOf vf
    let s := noteBehind s vf
    let due (l : Launch) : Bool := match l.behindAt with
      | some t => v.pwait.toNat ≤ (s.time - t).toNat
      | none => false
    if v.pwait = 0 || !stewardUp s then s
    else match (queueOrder s vf).find? fun x => due x.2 with
      | none => s
      | some (_, l) =>
        let t := afterPreempts s vf
        match plan t l with
        | .wait none => (victims t l (victimOrder s vf (effClass s l))).foldl (fun s k =>
            match s.launchOf k with
            | some x => askPreempt s k x
            | none => s) s
        | _ => s

/-! ## Saving (R380 to R383) -/

/-- The sources of an instance as source keys (R380): source slots, and stream ports that send to the fabric. -/
def sourcesOf (x : Inst) : List (Nat × Nat) :=
  x.cells.flatMap fun (k, c) =>
    match c.kind with
    | .actor => (c.slots.filter fun y => y.2.valid && y.2.source).map fun y => (k, y.1)
    | .memory => if k % 16 != portCell then [] else
        ((List.range 16).filter fun p =>
          let d := (c.word (32 + 2 * p)).toNat
          declUsed d && !declDir d).map fun p => (k, 4 + p)
    | _ => []

/-- The nodes of an instance that PMK passes: every node with a used input, but a return site that holds its RET
(R402), and the stream ports that a circuit feeds. -/
def passNodes (x : Inst) : List (Nat × Nat) :=
  x.cells.flatMap fun (k, c) =>
    match c.kind with
    | .actor => (c.slots.filter fun y => y.2.valid && !y.2.source).map fun y => (k, y.1)
    | .memory =>
      ((List.range 4).filter fun i => memValid c i && !(memIns c i).isEmpty).map (fun i => (k, i))
        ++ (if k % 16 != portCell then [] else ((List.range 16).filter fun p =>
          let d := (c.word (32 + 2 * p)).toNat
          declUsed d && declDir d
            && x.circs.any fun c => c.dp == k / 16 && c.dc == portCell && c.dport == p).map fun p => (k, 4 + p))
    | .mac => if isHead c && !c.feed then [(k, 0)] else []
    | .unused => []
    | _ => if c.ins.isEmpty || (c.kind == .join && c.joinSt.held.isSome) then [] else [(k, 0)]

/-- Whether an instance holds a stacked call that is deferred until after the restore (R384). -/
def callWaits (x : Inst) : Bool :=
  x.cells.any fun (_, c) => c.kind == .join && c.isCalls && siteFull c && !c.joinSt.calling

/-- Whether a source has emitted PMK, or cannot for want of room downstream. -/
def sourceStill (s : State) (i : Nat) (x : Inst) (k : Nat × Nat) : Bool :=
  x.pmkSent.contains k ||
    (let n : NodeRef := ⟨i, k.1 / 16, k.1 % 16, k.2⟩
     let c := s.cellAt n
     if c.kind == .actor then (c.slot k.2).usedOut.any fun p => ((c.slot k.2).port (4 + p)).fill ≥ 16
     else !canSend s n (k.2 - 4) 1)

/-- Whether an instance has reached step 4 of R380.  A deferred call, and what waits behind it, does not count
(R384). -/
def instDrained (s : State) (i : Nat) (x : Inst) : Bool :=
  x.gated || x.plane == .shadow || x.plane == .spilled
    || (settled s i && (sourcesOf x).all x.pmkSent.contains && (passNodes x).all x.passed.contains)
    || (settled s i && callWaits x && (sourcesOf x).all (sourceStill s i x) && idleInst s i x)

/-- Whether an engine command of a launch, or a tile task on its mills, still runs (R331): a Thresher session stops
between samples, and a Miller issues nothing more. -/
def enginesRun (s : State) (key : Nat) : Bool :=
  s.cmds.any (fun x => x.2.launch == key
    && ([Eng.drove, .pinbin, .pinpair, .mpath].contains x.2.eng || !x.2.sess.rest.isEmpty))
  || s.mqueues.any fun x => x.2.issued.any fun t => s.instLaunch t.mill.inst == key

/-- PREEMPT_FORCE (R381): 80,000 cycles after the request the save is forced. -/
def execPreemptForce (key : Nat) (s : State) : Host.Outcome State Fault Refusal :=
  .next <|
    match s.launchOf key with
    | some l =>
      if l.st != .gating || (s.cycle - l.gatingAt).toNat < 80000
          || (launchInsts s key).all (fun y => instDrained s y.1 y.2) then s
      else s.enter key fun x => { x.note 1 with st := .saving, forced := true }
    | none => s

/-- Tokens in flight that find room settle into buffers, the last hop of a circuit first, and credits come back
(R381). -/
def settleAll : Nat → Nat → State → State
  | 0, _, s => s
  | fuel + 1, key, s =>
    let t := (launchInsts s key).foldl (fun s (i, x) =>
      (List.range x.circs.length).foldl (fun s k =>
        (List.range (hopsOf s i k)).reverse.foldl (fun s hop =>
          act (execCreditReturn i k) (act (execLinkTokenTransfer i k (hop + 1)) s)) s) s) s
    if t == s then s else settleAll fuel key t

/-- The image is written: the launch leaves the machine (R188, R368, R382). -/
def saveLaunch (s : State) (key : Nat) (l : Launch) : State :=
  let s := (mkeys (launchInsts s key)).foldl abandonAll (dropPlaces s key)
  let s := if l.forced then settleAll 512 key s else s
  let s := stripPmk s key
  let im := takeImage s key { l with preempts := l.preempts + 1 } true
  let s := writeImage { liftLaunch s key l with freeCtr := s.freeCtr + 24 } l im
  let s := s.enter key fun x => { x with
    st := .saved, image := some im, preempts := x.preempts + 1, reeves := [] }
  let s := s.count l.vf 0x078
  let s := if l.forced then s.count l.vf 0x080 else s
  crier s l.vf 0x0A 0 0 0 l.lid (leBytes 8 (imageBytes im).length ++ [if l.forced then 1 else 0])

/-- Whether a firing of a launch is in progress that ends before the save (R380). -/
def firingRuns (s : State) (key : Nat) : Bool :=
  (launchInsts s key).any fun (_, x) => x.live && x.cells.any fun y => y.2.slots.any fun z =>
    z.2.firing.isSome && !z.2.inSyn

/-- SAVE_COMPLETE (R368, R380, R381): once every node has been passed a GATING launch is SAVING; in SAVING, once engine
commands and firings have run to their ends, combining entries have been flushed and no access is owed, the image is
written, and the launch is SAVED. -/
def execSaveComplete (key : Nat) (s : State) : Host.Outcome State Fault Refusal :=
  .next <|
    match s.launchOf key with
    | some l =>
      if l.st == .gating then
        if (launchInsts s key).all fun y => instDrained s y.1 y.2 then
          s.enter key fun x => { x with st := .saving }
        else s
      else if l.st != .saving || enginesRun s key || firingRuns s key then s
      else
        let (s, clear) := flushReeves s l.reeves
        if !clear || accessOwed s key then s else saveLaunch s key l
    | none => s

/-! ## Restore (R389) -/

/-- Delivers the returns that were held while a launch was saved (R402). -/
def deliverRets (s : State) (key : Nat) : State :=
  (launchInsts s key).foldl (fun s (i, x) => x.cells.foldl (fun s (k, c) =>
    if c.kind == .join && c.joinSt.held.isSome then act (execRet ⟨i, k / 16, k % 16, 0⟩) s else s) s) s

/-- A restored launch runs, or is REPLAYING where a rollback is pending; returns that were held are delivered before any
source goes on (R387, R402). -/
def resumeLaunch (s : State) (key : Nat) (l : Launch) (im : Image) (moved : Bool) : State :=
  let s := s.enter key fun x => { x with
    st := if x.rollback.isSome then .replaying else .running, image := none
    preempts := im.preempts, replays := im.replays }
  let s := crier s l.vf 0x0B 0 0 0 l.lid [if moved then 1 else 0]
  endTasks { deliverRets s key with outside := .done [0] }

/-- RESTORE (R368, R378, R389): a SAVED launch is RESTORING; then the whole image goes on the first place that qualifies,
or PLACE_FAIL leaves it SAVED with the image intact; the runtime has the fault code (log 21). -/
def execRestore (key : Nat) (s : State) : Host.Outcome State Fault Refusal :=
  .next <|
    match s.launchOf key with
    | none => s
    | some l =>
      match l.st, l.image with
      | .saved, some _ => s.enter key fun x => { x with st := .restoring }
      | .restoring, some im =>
        let put : Option (State × Bool) := do
          let given ← partition s l.vf
          let s ← remapAllot s l.ctx
          placeImage s key l im (candidates im given)
        (match put with
         | none =>
           { s.enter key fun x => { x with st := .saved } with outside := .done [BitVec.ofNat 8 Code.placeFail.num] }
         | some (s, moved) => resumeLaunch s key l im moved)
      | _, _ => s

/-! ## Checkpoints (R385) -/

/-- The rounds before which the sources of an instance stand, where each stands at a round boundary; one that has ended has
none. -/
def instRounds (s : State) (i : Nat) (x : Inst) : Option (List Nat) :=
  (sourcesOf x).foldlM (fun l (k, a) =>
    let c := s.cellAt ⟨i, k / 16, k % 16, 0⟩
    if c.kind == .actor then
      let y := c.slot a
      let rs := (y.usedOut.filter fun p => !(y.port (4 + p)).eos).map fun p => (y.port (4 + p)).round
      if y.midRound || y.firing.isSome then none else some (l ++ rs)
    else
      let q := s.sport (x.hams.getD (k / 16) 0) (a - 4)
      if q.closed then some l
      else if q.midRound || q.sent != 0 || !q.buf.isEmpty then none
      else some (l ++ [q.round])) []

/-- The round at which a checkpoint holds a source of an instance. -/
def heldRound (s : State) (i : Nat) (x : Inst) : Option Nat :=
  ((sourcesOf x).flatMap fun (k, a) =>
    let c := s.cellAt ⟨i, k / 16, k % 16, 0⟩
    if c.kind == .actor then
      let y := c.slot a
      if y.midRound then [] else (y.usedOut.filter fun p => !(y.port (4 + p)).eos).map fun p => (y.port (4 + p)).round
    else
      let q := s.sport (x.hams.getD (k / 16) 0) (a - 4)
      if q.closed || q.sent != 0 then [] else [q.round]).find? (ckptHolds s i)

/-- The running graphs of a launch. -/
def openInsts (s : State) (key : Nat) : List (Nat × Inst) := (launchInsts s key).filter fun y => !y.2.gated

/-- Whether every source of each graph of a launch stands at the boundary of one round, a multiple of CKPT, has emitted PMK,
and every node has been passed (R385). -/
def ckptClean (s : State) (key ckpt : Nat) : Bool :=
  !accessOwed s key && (openInsts s key).all fun (i, x) =>
    settled s i && (sourcesOf x).all x.pmkSent.contains && (passNodes x).all x.passed.contains
      && match instRounds s i x with
         | some rs => rs.all fun r => r % ckpt == 0 && r == rs.headD 0
         | none => false

/-- Sources that a checkpoint holds go on. -/
def ckptPass (s : State) (key : Nat) : State :=
  (openInsts s key).foldl (fun t (i, x) => match heldRound s i x with
    | some r => t.updInst i fun x => { x with ckptRound := r }
    | none => t) s

/-- A checkpoint begins (R385): no source has emitted PMK, and no node has been passed. -/
def ckptBegin (s : State) (key : Nat) : State :=
  (mkeys (launchInsts s key)).foldl (fun s i => s.updInst i fun x => { x with pmkSent := [], passed := [] })
    (s.updLaunch key fun x => { x with ckptAt := some s.cycle })

/-- The image of a launch becomes its record, in the context's save area, and NOREPLAY is clear (R385, R386). -/
def ckptTake (s : State) (key : Nat) : State :=
  let s := ckptPass s key
  match s.launchOf key with
  | none => s
  | some l =>
    let im := takeImage s key { l with ckptAt := none } true
    let s := writeImage { s with freeCtr := s.freeCtr + 24 } l im
    sweepAfresh (s.updLaunch key fun x => { x with
      record := some im, ckptAt := none, dirty := false, notes := x.notes &&& ~~~0x08#8 }) key

/-- CHECKPOINT (R385): it begins once a source stands at the boundary of a round that is a multiple of CKPT, and is taken
once every source does, has emitted PMK with payload bit 0, and every node has been passed.  After 80,000 cycles it is put
off to the next multiple (R381). -/
def execCheckpoint (key : Nat) (s : State) : Host.Outcome State Fault Refusal :=
  .next <|
    match s.launchOf key with
    | none => s
    | some l =>
      if !ckptOpen s key l then ckptDrop s key l
      else match l.ckptAt with
        | none => if (openInsts s key).any fun (i, x) => (heldRound s i x).isSome then ckptBegin s key else s
        | some c =>
          if ckptClean s key l.lpb.ckpt then ckptTake s key
          else if (s.cycle - c).toNat < 80000 then s
          else ckptDrop (ckptPass s key) key l

/-! ## Replay (R386, R387) -/

/-- Discards a launch's fabric, reeves, transfers, commands, and the updates that no release has sent; a tile-task queue is
its context's and stays (R175, R188). -/
def discardLaunch (s : State) (key : Nat) (l : Launch) : State :=
  let c := s.ctxOf l.ctx
  let is := mkeys (launchInsts s key)
  let s := dropPlaces (liftLaunch s key l) key
  let s := s.setCtx l.ctx { s.ctxOf l.ctx with spill := c.spill.filter fun x => !is.contains x.1 }
  { s with
    cmds := s.cmds.filter fun x => x.2.launch != key
    windows := s.windows.map fun w => (w.1, w.2.filter fun u => u.launch != key || u.sent) }

/-- Ends a launch that cannot be replayed with REPLAY_FAIL, the underlying code in FSUB (R387). -/
def failReplay (s : State) (key : Nat) (l : Launch) (t : Trap) : State :=
  let s := discardLaunch s key l
  closeLaunch (s.updLaunch key fun x => { x with
    fcode := .replayFail, fsub := t.code.num, rollback := none }) key

/-- Whether a launch may be rolled back (R172, R386, R387). -/
def mayReplay (l : Launch) : Bool :=
  (l.lpb.replay == 1 || l.lpb.replay == 2) && !l.dirty && !l.racing && l.replays.toNat < 3

/-- The launch after its record has been loaded, and the queues that it attached as they were then. -/
def replayed (s : State) (key : Nat) (l : Launch) (im : Image) (t : Trap) : State :=
  let s := s.enter key fun x => { x with
    st := .running, replays := x.replays + 1, rollback := none, ckptAt := none
    fcode := if x.fcode.replays then .none else x.fcode
    fsub := if x.fcode.replays then 0 else x.fsub
    faddr := if x.fcode.replays then 0 else x.faddr
    fsite := if x.fcode.replays then 0 else x.fsite
    fpc := if x.fcode.replays then 0 else x.fpc }
  let s := { s with
    cmds := im.cmds.foldl (fun m (i, c) => mset m i c) s.cmds
    mqueues := im.mqueues.foldl (fun m (i, q) => mset m i q) (s.mqueues.filter fun x => x.2.launch != key) }
  let s := s.setCtx l.ctx { s.ctxOf l.ctx with poison := none }
  let s := s.count l.vf 0x088
  crier s l.vf 0x0C 0 0 0 l.lid ([BitVec.ofNat 8 t.code.num] ++ leBytes 4 (l.replays + 1).toNat)

/-- REPLAY_ROLLBACK (R368, R387): a launch with a replay-triggering fault is REPLAYING, after a freeze under way (R43); it
goes back to its record, on its own hamlets or on the first place of R389 that is free; or it completes with
REPLAY_FAIL. -/
def execReplayRollback (key : Nat) (s : State) : Host.Outcome State Fault Refusal :=
  .next <|
    match s.launchOf key with
    | none => s
    | some l =>
      match l.rollback with
      | none => s
      | some t =>
        if l.st == .running then
          if freezes s key then s else s.enter key fun x => { x with st := .replaying }
        else if l.st != .replaying then s
        else
          match mayReplay l, l.record, partition s l.vf with
          | true, some im, some given =>
            let d := discardLaunch s key l
            (match placeImage (replayed d key l im t) key l im
                ([Spot.stay im.hams].filter fun (p : Spot) => p.cover.all (partHamlets given).contains) with
             | some (u, _) => u
             | none =>
               match placeImage (replayed d key l im t) key l im (candidates im given) with
               | some (u, _) => u
               | none => d.updLaunch key fun x => { x with st := .replaying, reeves := [] })
          | _, _, _ => failReplay s key l t

end Sys2Proof.Machine
end

