-- ==== Sys2Proof/Machine/Service.lean ====
section
/-! DEFINITION. Takeover of the Steward, samples, the crier's and the counters' registers, quality of service, fence
entries, run control, and the register writes of the runtime, the hypervisor and the driver (R105, R106, R112, R135,
R187, R198, R200, R202, R205, R208, R209, R371 to R373, R390, R406, R408, R409). -/

namespace Sys2Proof.Machine

/-! ## The Steward's cores (R390) -/

/-- Raises vector 3 of every VF (R406). -/
def raiseAll (s : State) : State := (List.range 512).foldl (fun s v => raiseMsix s v 3) s

/-- The package enters FAILED: every READY bit but FAILED clears, and nothing more is delivered (R390, R410). -/
def enterFailed (s : State) : State :=
  raiseAll { s with ready := [12], steward := { s.steward with failed := true, trapped := false, standby := false } }

/-- STEWARD_TRAP (R390): delivery is held; with no standby core left the package has failed: after a takeover, or in one
once the standby core is the active one. -/
def execStewardTrap (s : State) : Host.Outcome State Fault Refusal :=
  .next <|
    if s.steward.failed then s
    else if s.steward.trapped then (if s.steward.standby then enterFailed s else s)
    else if s.steward.last || !s.usable (8 + (1 - s.steward.active)) then enterFailed s
    else { s with steward := { s.steward with trapped := true, standby := false } }

/-- STANDBY_START (R390): the standby core is the active one, and the launches that were being placed are QUEUED with their
age unless their reeves started. -/
def execStandbyStart (s : State) : Host.Outcome State Fault Refusal :=
  .next <|
    if s.steward.trapped && !s.steward.standby then
      let placing : List Nat := (s.launches.filter fun x => x.2.st == .placing).map (·.1)
      let s := placing.foldl (fun s k => requeue s k) s
      { s with steward := { s.steward with active := 1 - s.steward.active, standby := true } }
    else s

/-- TAKEOVER_END (R390): the takeover record goes to every tenant's ring, and the completions that were held are delivered
in order. -/
def execTakeoverEnd (s : State) : Host.Outcome State Fault Refusal :=
  .next <|
    if !s.steward.trapped || !s.steward.standby then s
    else
      let n := s.steward.journal
      let s := (mkeys s.vfs).foldl (fun s v => crier s v 0x09 0 0 0 0 (leBytes 4 n) true) s
      let s := s.steward.held.foldl deliver s
      raiseAll { s with steward := { s.steward with trapped := false, standby := false, last := true, held := [] } }

/-- THERMAL_STOP (R413): the package enters FAILED. -/
def execThermalStop (s : State) : Host.Outcome State Fault Refusal :=
  .next (if s.steward.failed then s else enterFailed s)

/-- The fabric clock changes; what has passed of a nanosecond stays (R413). -/
def setClock (s : State) (mhz : Nat) : State := { s with clock := mhz, frac := s.frac * mhz / s.clock }

/-- THERMAL_THROTTLE (R413): the clock falls by 100 MHz, down to 800. -/
def execThermalThrottle (s : State) : Host.Outcome State Fault Refusal :=
  .next (if 900 ≤ s.clock then setClock s (s.clock - 100) else s)

/-- CLOCK_RAISE (R413): the clock rises by 100 MHz, up to 1,600. -/
def execClockRaise (s : State) : Host.Outcome State Fault Refusal :=
  .next (if s.clock ≤ 1500 then setClock s (s.clock + 100) else s)

/-! ## Samples (R105, R208, R209) -/

/-- Whether a save or a restore of a tenant is under way. -/
def tenantMoves (s : State) (vf : Nat) : Bool :=
  s.launches.any fun x => x.2.vf == vf
    && (x.2.st == .gating || x.2.st == .saving || x.2.st == .restoring)

/-- The stall code of a wait (R209). -/
def Wait.stall : Wait → Nat
  | .bar => 7
  | .lwait => 7
  | .sbar => 7
  | .gate => 7
  | .qsweep _ => 7
  | .tags _ => 3
  | .anyTag _ => 3
  | .ring _ _ => 4
  | .translation => 6
  | .memory => 5
  | .ldsyn _ => 5
  | .finish => 7
  | .output => 2
  | .input => 1

/-- Whether a requester is a stream or copy of a hamlet's reeve. -/
def dispatcherOf (h : Nat) (w : Who) : Bool :=
  match w with
  | .stream g _ => g == h
  | .copy g _ => g == h
  | _ => false

/-- The stall reason of a hamlet's reeve, by rank (R209); its dispatchers are those of its streams and copies, and an access
of one of them waits for the reeve's sample too. -/
def reeveStall (s : State) (h : Nat) (r : Reeve) : Nat :=
  let own : Nat := match r.wait with
    | some w => w.stall
    | none => 0
  if tenantMoves s r.vf then 9
  else if s.throttled.any (dispatcherOf h) then 10
  else if [7, 3, 4].contains own then own
  else if s.walks.any fun w => w.waiters.any (dispatcherOf h) then 6
  else if own = 6 then 6
  else if s.peerOut.any fun p => dispatcherOf h p.who then 5
  else own

/-- The slot that has been ready longest, then the lowest, of some. -/
def oldestSlot : SMap Slot → Option (Nat × Slot)
  | [] => none
  | x :: l => match oldestSlot l with
    | none => some x
    | some y => some (if y.2.readyAt.toNat < x.2.readyAt.toNat then y else x)

/-- The slot of an actor cell that a sample names: the one with a firing in progress, or the oldest that holds a block:
the one that became ready first (log 45). -/
def sampledSlot (c : Cell) : Option (Nat × Slot) :=
  match c.slots.find? fun x => x.2.firing.isSome with
  | some x => some x
  | none => oldestSlot (c.slots.filter fun x => x.2.valid)

/-- The instruction index of an actor sample: that of the instruction of the firing in progress that fired last, one that
waits included; where none has fired yet, a free value (log 45). -/
def sampledIdx (s : State) (x : Slot) : Byte :=
  match x.firing with
  | none => 0xFF
  | some f =>
    if f.waiting then BitVec.ofNat 8 f.idx
    else match f.last with
      | some i => BitVec.ofNat 8 i
      | none => field (Config.freeValue s.freeCtr) 0 8

/-- Whether an output port of a slot lacks room for what its next firing or marker step sends. -/
def outputsFull (x : Slot) : Bool :=
  match headMarkers x with
  | some (m :: _) => !markerRoom x (closeDue x m)
  | _ => (List.range 4).any fun p => 16 - (x.port (4 + p)).fill < x.rateOut false p + x.marksOn p

/-- The stall reason of an actor slot, by rank (R209). -/
def slotStall (s : State) (vf : Nat) (p : Plane) (n : NodeRef) (x : Slot) : Nat :=
  if tenantMoves s vf then 9
  else if p != .active then 8
  else if s.walks.any fun w => w.waiters.contains (Who.node n) then 6
  else match x.firing with
    | some f => if f.waiting then 5 else 0
    | none => if slotReady x then 0 else if outputsFull x then 2 else 1

/-- One sample record, counted whether or not it is dropped (R208). -/
def sampleRec (s : State) (vf code h cell slot : Nat) (lid : BitVec 32) (pay : List Byte) (stall : Nat) : State :=
  crier ((s.count vf 0x090).count vf (0x0A0 + 8 * stall)) vf code h cell slot lid pay

/-- The plane of a launch that stands at a hamlet, with its page: the active one, or else one that is frozen, spilling or
being refilled. -/
def planeAt (s : State) (launch h : Nat) : Option (Nat × Nat) :=
  let mine (i : Nat) : Bool := s.instLaunch i == launch
  match (pageAt s h).filter fun x => mine x.1 with
  | some x => some x
  | none => s.insts.findSome? fun (i, x) =>
    if mine i && x.plane.shadows then (x.hams.findIdx? (· == h)).map fun p => (i, p) else none

/-- The records of the actor cells of a hamlet that hold a page of its reeve's launch. -/
def sampleCells (s : State) (h : Nat) (r : Reeve) : State :=
  match planeAt s r.launch h with
  | none => s
  | some (i, p) =>
    match s.inst i with
    | none => s
    | some x =>
      (List.range 16).foldl (fun s c =>
        let y := x.cell p c
        if y.kind != .actor then s
        else match sampledSlot y with
          | none => s
          | some (a, z) =>
            let st := slotStall s r.vf x.plane ⟨i, p, c, a⟩ z
            sampleRec { s with freeCtr := s.freeCtr + 1 } r.vf 0x11 h c a r.lid
              (leBytes 4 z.blockId ++ [sampledIdx s z, BitVec.ofNat 8 st]) st) s

/-- A sample of a hamlet under a configuration. -/
def takeSampleOf (s : State) (h : Nat) (cfg : W64) : State :=
  let r := s.reeve h
  let st := reeveStall s h r
  let s := if cfg.getLsbD 1 then
      sampleRec s r.vf 0x10 h 0 0 r.lid (leBytes 8 r.pc.toNat ++ [BitVec.ofNat 8 st]) st else s
  if cfg.getLsbD 2 then sampleCells s h r else s

/-- SAMPLE_TIMER (R105, R208): a sample that is due is taken and the interval starts again; one that fell due before
SAMPLECFG was written is taken first, under the old value.  A hamlet whose reeve belongs to no launch takes none. -/
def execSampleTimer (h : Nat) (s : State) : Host.Outcome State Fault Refusal :=
  .next <|
    let r := s.reeve h
    let every := (natField r.samplecfg.toNat 8 24 + 1) * 16
    if r.run == .idle then s
    else match r.sampleDue with
      | some cfg => takeSampleOf (s.setReeve h { r with sampleDue := none }) h cfg
      | none =>
        if !r.samplecfg.getLsbD 0 || r.sampleCount < every then s
        else takeSampleOf (s.setReeve h { r with sampleCount := r.sampleCount - every }) h r.samplecfg

/-! ## Registers of a VF (R187, R205 to R207, R372, R406) -/

/-- CRIER_READ_OFFSET_WRITE (R187): room that is made takes the overflow record that is owed. -/
def execCrierReadOffsetWrite (vf : Nat) (v : W64) (s : State) : Host.Outcome State Fault Refusal :=
  .next (crierFlush (s.setVf vf { s.vfOf vf with crd := field v 0 32 }) vf)

/-- COUNTER_CLR (R205). -/
def execCounterClr (vf : Nat) (s : State) : Host.Outcome State Fault Refusal :=
  .next (s.setVf vf { s.vfOf vf with counters := [], prods := 0 })

/-- COUNTER_FREEZE (R205). -/
def execCounterFreeze (vf : Nat) (on : Bool) (s : State) : Host.Outcome State Fault Refusal :=
  .next (s.setVf vf { s.vfOf vf with freeze := on })

/-- QOS_WORD_WRITE (R372): a word with both CRIT and BE is discarded. -/
def execQosWordWrite (vf : Nat) (v : W64) (s : State) : Host.Outcome State Fault Refusal :=
  .next (if v.getLsbD 4 && v.getLsbD 5 then s
    else s.setVf vf { s.vfOf vf with qos := v &&& 0xFFFF003F#64 })

/-! ## The quality-of-service window (R373) -/

/-- Puts a number into a rising list. -/
def insNat (x : Nat) : List Nat → List Nat
  | [] => [x]
  | y :: l => if x ≤ y then x :: y :: l else y :: insNat x l

/-- The p99 of a window's reads: the smallest latency that at least 99 per cent of them did not pass. -/
def p99 (l : List Nat) : Nat := (l.foldl (fun m x => insNat x m) []).getD (cdiv (99 * l.length) 100 - 1) 0

/-- The verdict of a window for a critical tenant: whether its target was missed; none below 100 reads. -/
def verdict (s : State) (x : Nat × List Nat) : Option Bool :=
  let q := (s.vfOf x.1).qos.toNat
  if !q.testBit 4 || x.2.length < 100 then none else some (decide (natField q 16 16 < p99 x.2))

/-- Whether a window of a unit may end: 16,000 cycles have passed since the last (R373). -/
def windowEnds (s : State) (unit : Nat) : Bool := 16000 ≤ (s.cycle - mgetD s.qosAt unit 0).toNat

/-- QOS_WINDOW (R373): the windows of a unit follow each other every 16,000 cycles.  The latencies and the tenants that made
a request are the event's (log 7); each tenant counts once. -/
def execQosWindow (unit : Nat) (lat : List (Nat × List Nat)) (best : List Nat) (s : State) :
    Host.Outcome State Fault Refusal :=
  .next <|
    let vs := lat.filterMap (verdict s)
    let open_ := windowEnds s unit
    let s := { s with qosAt := if open_ then mset s.qosAt unit (mgetD s.qosAt unit 0 + 16000) else s.qosAt }
    if !open_ then s
    else if vs.any id then
      let be := (best.filter fun v => v < 512 && (s.vfOf v).qos.getLsbD 5).foldl sadd []
      { s with throttle := be.foldl (fun m v =>
          let k := 1024 * unit + v
          mset m k (min 7 (mgetD m k 0 + 1))) s.throttle }
    else if vs.isEmpty then s
    else
      { s with throttle := (s.throttle.map fun (k, n) =>
          (k, if k / 1024 = unit then n - 1 else n)).filter fun x => x.2 != 0 }

/-! ## Fence entries (R198, R375) -/

/-- Whether a launch of a VF stands on the machine. -/
def vfBusy (s : State) (vf : Nat) : Bool :=
  s.launches.any fun x => x.2.vf == vf && x.2.st != .queued && x.2.st != .saved && x.2.st != .complete

/-- FENCE_ENTRY_WRITE (R198): a write that would make two partitions overlap is discarded and sets the error bit;
one to a partition in use is discarded.  A partition of whole dies has its entry in the table of each of them. -/
def execFenceEntryWrite (die idx : Nat) (e : FenceEntry) (s : State) : Host.Outcome State Fault Refusal :=
  .next <|
    let k := 16 * die + idx
    let busy : Bool := (e.valid && vfBusy s e.vf) || match mget s.fences k with
      | some o => o.valid && vfBusy s o.vf
      | none => false
    let clash : Bool := e.valid && s.fences.any fun (j, o) => j != k && o.valid && !(o.dies && o == e)
      && (partHamlets (j / 16, o)).any (partHamlets (die, e)).contains
    if 8 ≤ die || 16 ≤ idx || busy then s
    else if clash then { s with fenceErr := sadd s.fenceErr die }
    else { s with fences := mset s.fences k e }

/-! ## Run control (R135) -/

/-- RUN_CONTROL_STOP (R135). -/
def execRunControlStop (h : Nat) (s : State) : Host.Outcome State Fault Refusal :=
  .next (if h < 640 then haltReeve s h else s)

/-- RUN_CONTROL_RUN (R135). -/
def execRunControlRun (h : Nat) (s : State) : Host.Outcome State Fault Refusal :=
  .next (if h < 640 then resumeReeve s h else s)

/-! ## Register writes -/

/-- The state after a meaning that gives one. -/
def after (o : Host.Outcome State Fault Refusal) (s : State) : State :=
  match o with
  | .next t => t
  | _ => s

/-- A doubleword write to BAR 0 of a VF (R406); other offsets ignore it. -/
def barWrite (s : State) (vf off : Nat) (v : W64) : State :=
  let q := s.vfOf vf
  match off with
  | 0x00000 => after (execQueueBaseWrite vf v s) s
  | 0x00008 => after (execQueueSizeWrite vf v s) s
  | 0x00018 => after (execDoorbell vf v s) s
  | 0x01FF8 =>
    let s := if v.getLsbD 0 then after (execCounterClr vf s) s else s
    after (execCounterFreeze vf (v.getLsbD 1) s) s
  | 0x02000 => after (execQosWordWrite vf v s) s
  | 0x02008 => s.setVf vf { q with mask := field v 0 32 }
  | 0x02010 => s.setVf vf { q with cbase := v }
  | 0x02018 => s.setVf vf { q with csize := v }
  | 0x02028 => after (execCrierReadOffsetWrite vf v s) s
  | _ => s

/-- Whether the runtime copies from or to a page: it lies in LPDDR-6 or in a granary (R412). -/
def copies (a : Nat) : Bool := populated a && !isHost a && !isScratch a

/-- REGISTER_WRITE: a write of the runtime, the hypervisor, the driver or the fabric manager. -/
def execRegisterWrite (t : RegTarget) (v : W64) (s : State) : Host.Outcome State Fault Refusal :=
  .next <|
    match t with
    | .bar vf off => if vf < 512 then barWrite s vf off v else s
    | .pf off => writeMmio s off v
    | .reeve h off => if h < 640 then writeCtl s h off v else s
    | .root1 c => if c < 1024 then { s with next1 := mset s.next1 c (v &&& 0xFFFFFFFFF0000#64) } else s
    | .root2 f => if f < 512 then { s with next2 := mset s.next2 f (v &&& 0xFFFFFFFFF0000#64) } else s
    | .allot c p => if c < 1024 then allotWrite s c p v else s
    | .domain p f =>
      let x := natField v.toNat 0 10
      if 384 ≤ p || 512 ≤ f then s
      else { s with domain := if x = 0x3FF then mdel s.domain (512 * p + f) else mset s.domain (512 * p + f) x }
    | .ctable c tab w =>
      let f := (s.ctxOf c).vf
      if (mget s.ctxs c).isNone || 16 ≤ tab || 130 ≤ w then s
      else s.setVf f { s.vfOf f with ctabs := mset (s.vfOf f).ctabs (132 * tab + w) (field v 0 32) }
    | .pwait f => if f < 512 then s.setVf f { s.vfOf f with pwait := v } else s
    | .stewardTvec => { s with steward := { s.steward with tvec := v &&& ~~~3#64 } }
    | .pkg => if v.toNat < 384 && s.ready.isEmpty then { s with pkg := v.toNat } else s
    | .msix f vec => if f < 512 && vec < 4 then maskMsix s f vec (v.getLsbD 0) else s
    | .pageCopy a b => if copies a && copies b then { s with mem := s.mem.copyPage a b } else s

end Sys2Proof.Machine
end

