-- ==== Sys2Proof/Machine/Bringup.lean ====
section
/-! DEFINITION. Retirement, package reset, self-tests, firmware and attestation, the life of contexts and virtual
functions, and the clocks (R99, R188, R189, R201, R204, R205, R208, R328, R405, R410 to R415). -/

namespace Sys2Proof.Machine

/-! ## Retirement (R201, R412) -/

/-- The errors within the last 24 hours that a test selects, by SUB and place (R412). -/
def errorsOf (s : State) (f : Nat → Nat → Bool) : Nat :=
  (s.errs.filter fun e => (s.time - e.2.2).toNat < errWindow && f e.1 e.2.1).length

/-- The errors of a hamlet's scratchpad, cells and reeve. -/
def hamErrors (s : State) (h : Nat) : Nat :=
  errorsOf s fun sub a => if sub = 1 then winHam a == h else (sub == 4 || sub == 5) && a == h

/-- The errors of a 64 KiB page of LPDDR-6 or granary. -/
def pageErrors (s : State) (a : Nat) : Nat :=
  errorsOf s fun sub b => (sub == 2 || sub == 3) && b >>> 16 == a >>> 16

/-- HAMLET_RETIRE (R201, R412): after its third error, at once where no page stands there, else when its pages have gone. -/
def execHamletRetire (h : Nat) (s : State) : Host.Outcome State Fault Refusal :=
  .next <|
    if 640 ≤ h || hamErrors s h < 3 then s
    else { s.updHam h fun x => { x with place := match x.place with
        | .free => .retired
        | .clearing => .retired
        | .occupied => .retiring
        | p => p } with retiredH := sadd s.retiredH h }

/-- PAGE_RETIRE (R412): after its second error the 64 KiB page of LPDDR-6 or granary at an address enters the non-volatile
map. -/
def execPageRetire (a : Nat) (s : State) : Host.Outcome State Fault Refusal :=
  .next (if copies a && 2 ≤ pageErrors s a then { s with retiredP := sadd s.retiredP (a >>> 16) } else s)

/-- MAINTENANCE_COMMAND (R201, R412, R414): a signed command clears a die's retired-hamlet map (0) or the
retired-page map (1) at the next reset. -/
def execMaintenanceCommand (cmd die : Nat) (image : List Byte) (s : State) : Host.Outcome State Fault Refusal :=
  .next <|
    if !Config.signatureOk image then s
    else match cmd with
      | 0 => if die < 8 then { s with clearAt := sadd s.clearAt die } else s
      | 1 => { s with clearAt := sadd s.clearAt 8 }
      | _ => s

/-! ## Package reset (R140, R201, R410) -/

/-- Host memory, which a reset of the package leaves. -/
def hostPart (m : Mem) : Mem :=
  { bytes := m.bytes.filter fun x => isHost x.1
    tags := []
    empties := []
    nonzero := m.nonzero.filter fun x => isHost (x <<< 5)
    bad := m.bad.filter fun x => isHost (x <<< 3)
    soft := m.soft.filter fun x => isHost (x <<< 3) }

/-- PACKAGE_RESET: every register at its reset value; the non-volatile maps, with the clears that take effect, the
package id and what lies outside the package stay. -/
def execPackageReset (s : State) : Host.Outcome State Fault Refusal :=
  let rh := s.retiredH.filter fun h => !s.clearAt.contains (hamDie h)
  let gone : Hamlet := { place := .retired }
  .next { State.reset with
    agenda := s.agenda
    focus := s.focus
    freeCtr := s.freeCtr
    outside := s.outside
    time := s.time
    pkg := s.pkg
    domainPkgs := s.domainPkgs
    mem := hostPart s.mem
    errs := s.errs
    retiredH := rh
    retiredP := if s.clearAt.contains 8 then [] else s.retiredP
    hamlets := rh.map fun h => (h, gone) }

/-! ## Self-tests and links (R405, R410, R411) -/

/-- The READY bit of a function. -/
def ReadyFn.bit : ReadyFn → Nat
  | .die d => d
  | .steward c => 8 + c
  | .ezton => 11
  | .shire i => 64 + i
  | .thresher i => 96 + i
  | .pinfold i => 128 + i
  | .miller i => 160 + i
  | .drover i => 192 + i
  | .vfq v => 384 + v
  | .port p => 896 + p

/-- Whether a function exists. -/
def ReadyFn.exists_ : ReadyFn → Bool
  | .die d => d < 8
  | .steward c => c < 2
  | .ezton => true
  | .shire i => i < 32
  | .thresher i => i < 32
  | .pinfold i => i < 32
  | .miller i => i < 32
  | .drover i => i < 160
  | .vfq v => v < 512
  | .port p => p < 48

/-- Whether a firmware stage that failed keeps a function down (R414): the first stage every function, the
Steward image the Steward and its queues. -/
def stageDown (s : State) (f : ReadyFn) : Bool :=
  firstStageDown s || s.boot != 0 && (match f with
    | .steward _ => true
    | .vfq _ => true
    | _ => false)

/-- SELF_TEST_PASS (R410): the bit of the function sets; an Ezton port's is set by training alone (R408). -/
def execSelfTestPass (f : ReadyFn) (s : State) : Host.Outcome State Fault Refusal :=
  .next <|
    if !ReadyFn.exists_ f || s.steward.failed || s.tested.contains (ReadyFn.bit f) || stageDown s f then s
    else match f with
      | .port _ => s
      | f => s.setReady (ReadyFn.bit f)

/-- SELF_TEST_FAIL (R411): the bit stays clear until the next reset; the hamlets of a failed die stand RETIRED. -/
def execSelfTestFail (f : ReadyFn) (s : State) : Host.Outcome State Fault Refusal :=
  .next <|
    if !ReadyFn.exists_ f || s.ready.contains (ReadyFn.bit f) then s
    else
      let s := { s with tested := sadd s.tested (ReadyFn.bit f) }
      match f with
      | .die d => (rangeFrom (80 * d) 80).foldl (fun s h => s.updHam h fun x => { x with place := .retired }) s
      | _ => s

/-- HOST_LINK_TRAINING (R405): the mode is fixed until the next link reset, which mode 0 stands for (log 20). -/
def execHostLinkTraining (mode : Nat) (s : State) : Host.Outcome State Fault Refusal :=
  .next <|
    if mode = 0 then { s with linkMode := 0 }
    else if 4 < mode || s.steward.failed || s.linkMode != 0 then s
    else { (if firstStageDown s then s else s.setReady 10) with linkMode := mode }

/-! ## Firmware and attestation (R414, R415) -/

/-- A measurement register extended by a digest. -/
def extendMr (mr digest : BitVec 512) : BitVec 512 :=
  Config.sha512 (leBytes 64 mr.toNat ++ leBytes 64 digest.toNat)

/-- Whether the stage before a stage checks its signature: the first firmware stage and the Steward image (R414). -/
def signedStage (stage : Nat) : Bool := stage == 1 || stage == 2

/-- What a measurement register measures: the image of a stage, the retirement maps, the fuses (R415). -/
def measured (s : State) (stage : Nat) (image : List Byte) : List Byte :=
  match stage with
  | 3 => Config.mapImage s.retiredH s.retiredP
  | 4 => Config.fuseImage s.pkg
  | _ => image

/-- The READY bits that a failed stage leaves set (R414): none for the first, none of the Steward and its queues for the
Steward image. -/
def readyAfter (stage : Nat) (l : List Nat) : List Nat :=
  if stage < 2 then [] else l.filter fun b => !(b == 8 || b == 9 || (384 ≤ b && b < 896))

/-- FIRMWARE_STAGE_CHECK (R414, R415): once after a reset a stage is measured and runs; a signed stage does so only after the
stage before it, and where its signature is not good the boot-status word names it and it does not run. -/
def execFirmwareStageCheck (stage : Nat) (image : List Byte) (s : State) : Host.Outcome State Fault Refusal :=
  .next <|
    if h : stage < 5 then
      if s.booted.contains stage || (signedStage stage && (s.boot != 0 || !s.booted.contains (stage - 1))) then s
      else if signedStage stage && !Config.signatureOk image then
        { s with boot := BitVec.ofNat 64 stage, ready := readyAfter stage s.ready }
      else { s with
        booted := sadd s.booted stage
        mrs := s.mrs.set stage (extendMr s.mrs[stage] (Config.sha512 (measured s stage image))) h }
    else s

/-- An SPDM request over the host link (R415). -/
def spdm (code : Nat) (nonce : List Byte) (mrs : List (BitVec 512)) (s : State) :
    Host.Outcome State Fault Refusal :=
  .next (if s.linkMode = 0 then s else { s with outside := .done (Config.spdmBody code nonce mrs) })

/-- GET_VERSION (R415). -/
def execGetVersion (s : State) : Host.Outcome State Fault Refusal := spdm 0 [] [] s
/-- GET_CAPABILITIES (R415). -/
def execGetCapabilities (s : State) : Host.Outcome State Fault Refusal := spdm 1 [] [] s
/-- NEGOTIATE_ALGORITHMS (R415): the only algorithms offered are ECDSA P-521 and SHA-512, bit 8 of SPDM's signature
algorithms and bit 2 of its hashes (PRESUMED, log 11). -/
def execNegotiateAlgorithms (s : State) : Host.Outcome State Fault Refusal :=
  .next (if s.linkMode = 0 then s
    else { s with outside := .done (leBytes 4 0x100 ++ leBytes 4 4 ++ Config.spdmBody 2 [] []) })
/-- GET_DIGESTS (R415). -/
def execGetDigests (s : State) : Host.Outcome State Fault Refusal := spdm 3 [] [] s
/-- GET_CERTIFICATE (R415). -/
def execGetCertificate (s : State) : Host.Outcome State Fault Refusal := spdm 4 [] [] s
/-- CHALLENGE (R415). -/
def execChallenge (nonce : List Byte) (s : State) : Host.Outcome State Fault Refusal :=
  spdm 5 nonce s.mrs.toList s
/-- GET_MEASUREMENTS (R415): registers 0 to 4 as they stand. -/
def execGetMeasurements (nonce : List Byte) (s : State) : Host.Outcome State Fault Refusal :=
  spdm 6 nonce s.mrs.toList s

/-! ## Contexts and virtual functions (R153, R188, R189, R200, R328) -/

/-- CONTEXT_CREATION (R97, R189, R328): an empty identifier table, serial numbers at 1. -/
def execContextCreation (ctx vf : Nat) (s : State) : Host.Outcome State Fault Refusal :=
  .next <|
    if 1024 ≤ ctx || 512 ≤ vf || (mget s.ctxs ctx).isSome then s
    else s.setCtx ctx { vf := vf }

/-- Discards a launch and everything that it has queued; nothing of it is performed or reported (R188). -/
def dropLaunch (s : State) (key : Nat) : State :=
  match s.launchOf key with
  | none => s
  | some l =>
    let s := discardLaunch s key l
    let v := s.vfOf l.vf
    let s := if v.reserved = some key then s.setVf l.vf { v with reserved := none } else s
    { s with
      launches := mdel s.launches key
      steward := { s.steward with held := s.steward.held.filter (· != key) } }

/-- Ends a context. -/
def dropContext (s : State) (ctx : Nat) : State :=
  let keys : List Nat := (s.launches.filter fun x => x.2.ctx == ctx).map (·.1)
  let s := dropCtxTlb (keys.foldl dropLaunch s) ctx
  { s with
    ctxs := mdel s.ctxs ctx
    roots1 := mdel s.roots1 ctx
    next1 := mdel s.next1 ctx
    walks := s.walks.filter fun w => w.ctx != ctx
    walkGifts := s.walkGifts.filter fun w => w.ctx != ctx
    windows := s.windows.map fun (k, l) => (k, l.filter fun u => u.ctx != ctx || u.sent)
    mqueues := s.mqueues.filter fun x => x.2.ctx != ctx
    cmds := s.cmds.filter fun x => x.2.ctx != ctx }

/-- CONTEXT_TEARDOWN (R188, R189, R200). -/
def execContextTeardown (ctx : Nat) (s : State) : Host.Outcome State Fault Refusal :=
  .next (if (mget s.ctxs ctx).isNone then s else dropContext s ctx)

/-- VF_TEARDOWN (R153, R175): every context of the VF ends, and its registers return to their reset values. -/
def execVfTeardown (vf : Nat) (s : State) : Host.Outcome State Fault Refusal :=
  .next <|
    let cs : List Nat := (s.ctxs.filter fun x => x.2.vf == vf).map (·.1)
    let s := cs.foldl dropContext s
    let keep (l : List TlbEntry) : List TlbEntry := l.filter fun e => e.vf != vf
    { s with
      vfs := mdel s.vfs vf
      roots2 := mdel s.roots2 vf
      next2 := mdel s.next2 vf
      tlbH := s.tlbH.map fun (k, l) => (k, keep l)
      tlbP := s.tlbP.map fun (k, l) => (k, keep l)
      throttle := s.throttle.filter fun x => x.1 % 1024 != vf
      issueAt := s.issueAt.filter fun x => x.1 % 1024 != vf
      steward := { s.steward with kicks := sdel s.steward.kicks vf } }

/-! ## The clocks (R99, R205, R208, R374) -/

/-- The hamlets that a VF's pages occupy. -/
def vfPages (s : State) (vf : Nat) : Nat :=
  ((s.insts.filter fun x => match s.launchOf x.2.launch with
    | some l => l.vf == vf
    | none => false).flatMap fun x => x.2.hams).dedup.length

/-- A reeve at a cycle: its sample interval goes on. -/
def tickReeve (r : Reeve) : Reeve :=
  if r.samplecfg.getLsbD 0 then { r with sampleCount := r.sampleCount + 1 } else r

/-- Weighs the slots of every actor cell (R374). -/
def weighAll (x : Inst) : Inst :=
  { x with cells := x.cells.map fun (k, c) => (k, if c.kind = .actor then weighSlots c else c) }

/-- The VF of a reeve whose stream or copy it is. -/
def dispatcherVf (s : State) (w : Who) : Nat :=
  match w with
  | .stream h _ => (s.reeve h).vf
  | .copy h _ => (s.reeve h).vf
  | _ => 0

/-- A list of errors is met: each gives a fault of the launch whose page stands at its hamlet. -/
def meetErrors (s : State) (sub : Nat) (l : List Nat) (ham cell : Nat → Nat) : State :=
  l.foldl (fun s e =>
    match pageAt s (ham e) with
    | some (i, p) => nodeFault s ⟨i, p, cell e, 0⟩ { code := .eccUncorr, sub := sub }
    | none => s) s

/-- Uncorrectable errors of cells and of configuration storage enter the launch status of what they stand in (R379, R412;
log 65). -/
def execErrors (s : State) : State :=
  let s := s.ecc.cells.foldl (fun s e => noteError s 4 (e / 16)) s
  let s := meetErrors s 4 s.ecc.cells (· / 16) (· % 16)
  let s := meetErrors s 6 s.ecc.pages id fun _ => portCell
  { s with ecc := { s.ecc with cells := [], pages := [] } }

/-- FABRIC_CYCLE (R99, R117, R205, R374, R379, R411): one cycle of the fabric clock. -/
def execFabricCycle (s : State) : Host.Outcome State Fault Refusal :=
  .next <|
    let s : State := { s with insts := s.insts.map fun (i, x) => (i, x.noteReady s.cycle) }
    let s : State := { s with
      cycle := s.cycle + 1, newly := [], reeves := s.reeves.map fun (h, r) => (h, tickReeve r) }
    let s : State := (mkeys s.vfs).foldl (fun s v => s.count v 0x000 (vfPages s v)) s
    let s : State := s.throttled.foldl (fun s w => s.count (dispatcherVf s w) 0x058) s
    let s : State := outServe (execErrors s)
    if s.cycle.toNat % 256 = 0 then { s with insts := s.insts.map fun (i, x) => (i, weighAll x) } else s

/-- TIME_NANOSECOND (R99). -/
def execTimeNanosecond (s : State) : Host.Outcome State Fault Refusal := .next { s with time := s.time + 1 }

end Sys2Proof.Machine
end

