-- ==== Sys2Proof/Machine/CapOps.lean ====
section
/-! DEFINITION. The capability instructions (R247 to R249). -/

namespace Sys2Proof.Machine

/-- The source checks of R247: tagged, then unsealed. -/
def capSource (c : Cap) : Except Stop Unit := do
  check c.tag .capTag
  check (c.otype == 0) .capSeal

/-- A new offset, refused outside 0 to 2^40 - 1 (R247). -/
def capMove (c : Cap) (o : Int) : Except Stop Cap := do
  capSource c
  check (decide (0 ≤ o) && decide (o < 2 ^ 40)) .capBounds
  .ok (c.withOff o.toNat)

/-- The smallest exponent from `e` up, `n` more to try, at which `m` bytes fit (R248). -/
def fitExp (m e : Nat) : Nat → Option Nat
  | 0 => none
  | n + 1 => if cdiv m (2 ^ e) ≤ 262144 then some e else fitExp m (e + 1) n

/-- The bounds that CSETB gives a capability (R248). -/
def capNarrow (c : Cap) (n : Nat) : Except Stop Cap := do
  capSource c
  check (n != 0) .capBounds
  let a := c.addr
  let m := a % 256 + n
  match fitExp m 0 32 with
  | none => raise .capBounds
  | some e => do
    let nb := a / 256
    let len := cdiv m (2 ^ e) * 2 ^ e
    check (boundsOk c.space (nb * 256) len) .capSpace
    check (c.base * 256 ≤ nb * 256 && nb * 256 + len ≤ c.base * 256 + c.length) .capBounds
    .ok (Cap.make c.tag c.otype c.perms c.space e (len / 2 ^ e - 1) nb (a % 256))

/-- The checks on the sealing capability (R249), which give the object type. -/
def sealType (c : Cap) : Except Stop Nat := do
  check c.tag .capTag
  check (c.otype == 0) .capSeal
  check (permsIn pSE c.perms) .capPerm
  let t := c.offset
  check (1 ≤ t && t ≤ 15 && t + 1 ≤ c.length) .capBounds
  .ok t

/-- CSETB (R248). -/
def execCsetb (p : Guard) (d a : KReg) (b : GReg) (s : State) : Host.Outcome State Fault Refusal :=
  toK p d (fun r => capNarrow (r.kr a) (r.gr b).toNat) s

/-- CINC (R247). -/
def execCinc (p : Guard) (d a : KReg) (b : GReg) (s : State) : Host.Outcome State Fault Refusal :=
  toK p d (fun r => capMove (r.kr a) ((r.kr a).offset + (r.gr b).toInt)) s

/-- CSETO (R247). -/
def execCseto (p : Guard) (d a : KReg) (b : GReg) (s : State) : Host.Outcome State Fault Refusal :=
  toK p d (fun r => capMove (r.kr a) (r.gr b).toNat) s

/-- CANDP (R247): bits 63:10 of g[b] are ignored. -/
def execCandp (p : Guard) (d a : KReg) (b : GReg) (s : State) : Host.Outcome State Fault Refusal :=
  toK p d (fun r => do
    let c := r.kr a
    capSource c
    .ok (c.withPerms (BitVec.ofNat 10 c.perms &&& field (r.gr b) 0 10))) s

/-- CGETB (R247). -/
def execCgetb (p : Guard) (d : GReg) (a : KReg) (s : State) : Host.Outcome State Fault Refusal :=
  toG p d (fun s => BitVec.ofNat 64 ((s.me.kr a).base * 256)) s

/-- CGETL (R247). -/
def execCgetl (p : Guard) (d : GReg) (a : KReg) (s : State) : Host.Outcome State Fault Refusal :=
  toG p d (fun s => BitVec.ofNat 64 (s.me.kr a).length) s

/-- CGETO (R247). -/
def execCgeto (p : Guard) (d : GReg) (a : KReg) (s : State) : Host.Outcome State Fault Refusal :=
  toG p d (fun s => BitVec.ofNat 64 (s.me.kr a).offset) s

/-- CGETP (R247). -/
def execCgetp (p : Guard) (d : GReg) (a : KReg) (s : State) : Host.Outcome State Fault Refusal :=
  toG p d (fun s => BitVec.ofNat 64 (s.me.kr a).perms) s

/-- CGETS (R247): SPACE in 2:0, OTYPE in 7:4, TAG in 8. -/
def execCgets (p : Guard) (d : GReg) (a : KReg) (s : State) : Host.Outcome State Fault Refusal :=
  toG p d (fun s =>
    let c := s.me.kr a
    BitVec.ofNat 64 ((if c.tag then 256 else 0) + c.otype * 16 + c.space)) s

/-- CTEST (R247). -/
def execCtest (p : Guard) (d : PReg) (a : KReg) (s : State) : Host.Outcome State Fault Refusal :=
  toP p d (fun r => (r.kr a).tag) s

/-- CCLR (R247): the 128 bits are kept. -/
def execCclr (p : Guard) (d : KReg) (s : State) : Host.Outcome State Fault Refusal :=
  toK p d (fun r => .ok ⟨(r.kr d).bits, false⟩) s

/-- CMOV (R247). -/
def execCmov (p : Guard) (d a : KReg) (s : State) : Host.Outcome State Fault Refusal :=
  toK p d (fun r => .ok (r.kr a)) s

/-- CSEAL (R249). -/
def execCseal (p : Guard) (d a b : KReg) (s : State) : Host.Outcome State Fault Refusal :=
  toK p d (fun r => do
    let c := r.kr a
    capSource c
    let t ← sealType (r.kr b)
    .ok (c.withOtype t)) s

/-- CUNSEAL (R249). -/
def execCunseal (p : Guard) (d a b : KReg) (s : State) : Host.Outcome State Fault Refusal :=
  toK p d (fun r => do
    let c := r.kr a
    check c.tag .capTag
    check (c.otype != 0) .capSeal
    let t ← sealType (r.kr b)
    check (t == c.otype) .capSeal
    .ok (c.withOtype 0)) s

/-- CINCI (R247). -/
def execCinci (p : Guard) (d a : KReg) (imm : BitVec 12) (s : State) :
    Host.Outcome State Fault Refusal :=
  toK p d (fun r => capMove (r.kr a) ((r.kr a).offset + imm.toInt)) s

end Sys2Proof.Machine
end

