-- ==== Sys2Proof/Machine/Dispatch.lean ====
section
/-! DEFINITION. The one match over every instruction and whole step. -/

namespace Sys2Proof.Machine

def exec (i : Instr) (s : State) : Host.Outcome State Fault Refusal :=
  match i with
  | .add p d a b => Sys2Proof.Machine.execAdd p d a b s
  | .sub p d a b => Sys2Proof.Machine.execSub p d a b s
  | .and p d a b => Sys2Proof.Machine.execAnd p d a b s
  | .or p d a b => Sys2Proof.Machine.execOr p d a b s
  | .xor p d a b => Sys2Proof.Machine.execXor p d a b s
  | .andn p d a b => Sys2Proof.Machine.execAndn p d a b s
  | .shl p d a b => Sys2Proof.Machine.execShl p d a b s
  | .shr p d a b => Sys2Proof.Machine.execShr p d a b s
  | .sar p d a b => Sys2Proof.Machine.execSar p d a b s
  | .rot p d a b => Sys2Proof.Machine.execRot p d a b s
  | .min p d a b => Sys2Proof.Machine.execMin p d a b s
  | .max p d a b => Sys2Proof.Machine.execMax p d a b s
  | .minu p d a b => Sys2Proof.Machine.execMinu p d a b s
  | .maxu p d a b => Sys2Proof.Machine.execMaxu p d a b s
  | .clz p d a => Sys2Proof.Machine.execClz p d a s
  | .ctz p d a => Sys2Proof.Machine.execCtz p d a s
  | .popc p d a => Sys2Proof.Machine.execPopc p d a s
  | .brev p d a => Sys2Proof.Machine.execBrev p d a s
  | .sext p d a b => Sys2Proof.Machine.execSext p d a b s
  | .mul p d a b => Sys2Proof.Machine.execMul p d a b s
  | .mulh p d a b => Sys2Proof.Machine.execMulh p d a b s
  | .mulhu p d a b => Sys2Proof.Machine.execMulhu p d a b s
  | .div p d a b => Sys2Proof.Machine.execDiv p d a b s
  | .divu p d a b => Sys2Proof.Machine.execDivu p d a b s
  | .rem p d a b => Sys2Proof.Machine.execRem p d a b s
  | .remu p d a b => Sys2Proof.Machine.execRemu p d a b s
  | .addi p d a imm => Sys2Proof.Machine.execAddi p d a imm s
  | .andi p d a imm => Sys2Proof.Machine.execAndi p d a imm s
  | .ori p d a imm => Sys2Proof.Machine.execOri p d a imm s
  | .xori p d a imm => Sys2Proof.Machine.execXori p d a imm s
  | .shli p d a sh => Sys2Proof.Machine.execShli p d a sh s
  | .shri p d a sh => Sys2Proof.Machine.execShri p d a sh s
  | .sari p d a sh => Sys2Proof.Machine.execSari p d a sh s
  | .lui p d imm => Sys2Proof.Machine.execLui p d imm s
  | .li p d imm => Sys2Proof.Machine.execLi p d imm s
  | .cmp p comb d a b cc => Sys2Proof.Machine.execCmp p comb d a b cc s
  | .cmpi p cc d a imm => Sys2Proof.Machine.execCmpi p cc d a imm s
  | .pand p d a b => Sys2Proof.Machine.execPand p d a b s
  | .por p d a b => Sys2Proof.Machine.execPor p d a b s
  | .pxor p d a b => Sys2Proof.Machine.execPxor p d a b s
  | .pandn p d a b => Sys2Proof.Machine.execPandn p d a b s
  | .pnot p d a => Sys2Proof.Machine.execPnot p d a s
  | .pmov p d a => Sys2Proof.Machine.execPmov p d a s
  | .pfromg p d a => Sys2Proof.Machine.execPfromg p d a s
  | .ptog p d a => Sys2Proof.Machine.execPtog p d a s
  | .br off => Sys2Proof.Machine.execBr off s
  | .jal off => Sys2Proof.Machine.execJal off s
  | .jalr p d a imm => Sys2Proof.Machine.execJalr p d a imm s
  | .loop p d imm => Sys2Proof.Machine.execLoop p d imm s
  | .trap p sel => Sys2Proof.Machine.execTrap p sel s
  | .exit p => Sys2Proof.Machine.execExit p s
  | .ld p d kc a sz x imm => Sys2Proof.Machine.execLd p d kc a sz x imm s
  | .st p d kc a sz x imm => Sys2Proof.Machine.execSt p d kc a sz x imm s
  | .ldc p d kc a imm => Sys2Proof.Machine.execLdc p d kc a imm s
  | .stc p d kc a imm => Sys2Proof.Machine.execStc p d kc a imm s
  | .ldsyn p d kc a x imm => Sys2Proof.Machine.execLdsyn p d kc a x imm s
  | .fe p d kc a x imm => Sys2Proof.Machine.execFe p d kc a x imm s
  | .atom p d kc a b aop => Sys2Proof.Machine.execAtom p d kc a b aop s
  | .red p kc a b aop => Sys2Proof.Machine.execRed p kc a b aop s
  | .swap p d kc a b => Sys2Proof.Machine.execSwap p d kc a b s
  | .cas p d kc a b => Sys2Proof.Machine.execCas p d kc a b s
  | .fence p sets scope => Sys2Proof.Machine.execFence p sets scope s
  | .csetb p d a b => Sys2Proof.Machine.execCsetb p d a b s
  | .cinc p d a b => Sys2Proof.Machine.execCinc p d a b s
  | .cseto p d a b => Sys2Proof.Machine.execCseto p d a b s
  | .candp p d a b => Sys2Proof.Machine.execCandp p d a b s
  | .cgetb p d a => Sys2Proof.Machine.execCgetb p d a s
  | .cgetl p d a => Sys2Proof.Machine.execCgetl p d a s
  | .cgeto p d a => Sys2Proof.Machine.execCgeto p d a s
  | .cgetp p d a => Sys2Proof.Machine.execCgetp p d a s
  | .cgets p d a => Sys2Proof.Machine.execCgets p d a s
  | .ctest p d a => Sys2Proof.Machine.execCtest p d a s
  | .cclr p d => Sys2Proof.Machine.execCclr p d s
  | .cmov p d a => Sys2Proof.Machine.execCmov p d a s
  | .cseal p d a b => Sys2Proof.Machine.execCseal p d a b s
  | .cunseal p d a b => Sys2Proof.Machine.execCunseal p d a b s
  | .cinci p d a imm => Sys2Proof.Machine.execCinci p d a imm s
  | .sspec p port kd kp ga comp dir tag tid red cls => Sys2Proof.Machine.execSspec p port kd kp ga comp dir tag tid red cls s
  | .scopy p kd ks gn comp tag tid red cls => Sys2Proof.Machine.execScopy p kd ks gn comp tag tid red cls s
  | .twaitany p d a => Sys2Proof.Machine.execTwaitany p d a s
  | .twaitall p a => Sys2Proof.Machine.execTwaitall p a s
  | .tfirst p d a => Sys2Proof.Machine.execTfirst p d a s
  | .tclr p a => Sys2Proof.Machine.execTclr p a s
  | .tread p d => Sys2Proof.Machine.execTread p d s
  | .rinit p n a => Sys2Proof.Machine.execRinit p n a s
  | .rawait p d a n => Sys2Proof.Machine.execRawait p d a n s
  | .rrel p a n => Sys2Proof.Machine.execRrel p a n s
  | .rstat p d n => Sys2Proof.Machine.execRstat p d n s
  | .sbarOrder p a => Sys2Proof.Machine.execSbarOrder p a s
  | .sbarConfig p a => Sys2Proof.Machine.execSbarConfig p a s
  | .sbarMemphase p a => Sys2Proof.Machine.execSbarMemphase p a s
  | .sbarCond p a => Sys2Proof.Machine.execSbarCond p a s
  | .inject p n a => Sys2Proof.Machine.execInject p n a s
  | .markp p n a => Sys2Proof.Machine.execMarkp p n a s
  | .drain p d n => Sys2Proof.Machine.execDrain p d n s
  | .pstat p d n => Sys2Proof.Machine.execPstat p d n s
  | .cfgld p d a => Sys2Proof.Machine.execCfgld p d a s
  | .cfgrel p a => Sys2Proof.Machine.execCfgrel p a s
  | .cfgqry p d a b => Sys2Proof.Machine.execCfgqry p d a b s
  | .cfgstart p a => Sys2Proof.Machine.execCfgstart p a s
  | .cfggate p a b => Sys2Proof.Machine.execCfggate p a b s
  | .qsweep p d a => Sys2Proof.Machine.execQsweep p d a s
  | .launch p d a => Sys2Proof.Machine.execLaunch p d a s
  | .lwait p d a => Sys2Proof.Machine.execLwait p d a s
  | .bar p d scope arrive => Sys2Proof.Machine.execBar p d scope arrive s
  | .drove p d a b => Sys2Proof.Machine.execDrove p d a b s
  | .pinbin p d a b => Sys2Proof.Machine.execPinbin p d a b s
  | .pinpair p d a b => Sys2Proof.Machine.execPinpair p d a b s
  | .threshOpen p d a b => Sys2Proof.Machine.execThreshOpen p d a b s
  | .threshClose p d a b => Sys2Proof.Machine.execThreshClose p d a b s
  | .mtaskAttach p d a b => Sys2Proof.Machine.execMtaskAttach p d a b s
  | .mtaskAppend p d a b => Sys2Proof.Machine.execMtaskAppend p d a b s
  | .mtaskDetach p d a b => Sys2Proof.Machine.execMtaskDetach p d a b s
  | .mpath p d a b => Sys2Proof.Machine.execMpath p d a b s
  | .tidset p a b => Sys2Proof.Machine.execTidset p a b s
  | .tidget p a b => Sys2Proof.Machine.execTidget p a b s
  | .tidinv p a => Sys2Proof.Machine.execTidinv p a s
  | .srrd p d sel => Sys2Proof.Machine.execSrrd p d sel s
  | .srwr p a sel => Sys2Proof.Machine.execSrwr p a sel s
  | .eret p => Sys2Proof.Machine.execEret p s
  | .evt p a => Sys2Proof.Machine.execEvt p a s
  | .rdtime p d => Sys2Proof.Machine.execRdtime p d s
  | .ident p d => Sys2Proof.Machine.execIdent p d s
  | .peek o => Sys2Proof.Machine.execPeek o s
  | .adv o => Sys2Proof.Machine.execAdv o s
  | .put o => Sys2Proof.Machine.execPut o s
  | .padv o => Sys2Proof.Machine.execPadv o s
  | .hrd o => Sys2Proof.Machine.execHrd o s
  | .hwr o => Sys2Proof.Machine.execHwr o s
  | .qrd o => Sys2Proof.Machine.execQrd o s
  | .qwr o => Sys2Proof.Machine.execQwr o s
  | .const o => Sys2Proof.Machine.execConst o s
  | .consth o => Sys2Proof.Machine.execConsth o s
  | .laneid o => Sys2Proof.Machine.execLaneid o s
  | .tagrd o => Sys2Proof.Machine.execTagrd o s
  | .tagrdKind o => Sys2Proof.Machine.execTagrdKind o s
  | .maskrd o => Sys2Proof.Machine.execMaskrd o s
  | .maskset o => Sys2Proof.Machine.execMaskset o s
  | .iadd o => Sys2Proof.Machine.execIadd o s
  | .isub o => Sys2Proof.Machine.execIsub o s
  | .imul o => Sys2Proof.Machine.execImul o s
  | .imulh o => Sys2Proof.Machine.execImulh o s
  | .iand o => Sys2Proof.Machine.execIand o s
  | .ior o => Sys2Proof.Machine.execIor o s
  | .ixor o => Sys2Proof.Machine.execIxor o s
  | .ishl o => Sys2Proof.Machine.execIshl o s
  | .ishr o => Sys2Proof.Machine.execIshr o s
  | .isar o => Sys2Proof.Machine.execIsar o s
  | .imin o => Sys2Proof.Machine.execImin o s
  | .imax o => Sys2Proof.Machine.execImax o s
  | .iabs o => Sys2Proof.Machine.execIabs o s
  | .ineg o => Sys2Proof.Machine.execIneg o s
  | .isatadd o => Sys2Proof.Machine.execIsatadd o s
  | .isatsub o => Sys2Proof.Machine.execIsatsub o s
  | .fadd o => Sys2Proof.Machine.execFadd o s
  | .fsub o => Sys2Proof.Machine.execFsub o s
  | .fmul o => Sys2Proof.Machine.execFmul o s
  | .ffma o => Sys2Proof.Machine.execFfma o s
  | .fmin o => Sys2Proof.Machine.execFmin o s
  | .fmax o => Sys2Proof.Machine.execFmax o s
  | .fabs o => Sys2Proof.Machine.execFabs o s
  | .fneg o => Sys2Proof.Machine.execFneg o s
  | .frcp o => Sys2Proof.Machine.execFrcp o s
  | .frsq o => Sys2Proof.Machine.execFrsq o s
  | .fexp2 o => Sys2Proof.Machine.execFexp2 o s
  | .flog2 o => Sys2Proof.Machine.execFlog2 o s
  | .ftanh o => Sys2Proof.Machine.execFtanh o s
  | .fsinpi o => Sys2Proof.Machine.execFsinpi o s
  | .fcospi o => Sys2Proof.Machine.execFcospi o s
  | .frnd o => Sys2Proof.Machine.execFrnd o s
  | .icmp o => Sys2Proof.Machine.execIcmp o s
  | .fcmp o => Sys2Proof.Machine.execFcmp o s
  | .sel o => Sys2Proof.Machine.execSel o s
  | .actorPand o => Sys2Proof.Machine.execActorPand o s
  | .actorPor o => Sys2Proof.Machine.execActorPor o s
  | .actorPnot o => Sys2Proof.Machine.execActorPnot o s
  | .anyl o => Sys2Proof.Machine.execAnyl o s
  | .alll o => Sys2Proof.Machine.execAlll o s
  | .cvtfi o => Sys2Proof.Machine.execCvtfi o s
  | .cvtif o => Sys2Proof.Machine.execCvtif o s
  | .cvtfb o => Sys2Proof.Machine.execCvtfb o s
  | .cvtbf o => Sys2Proof.Machine.execCvtbf o s
  | .pack o => Sys2Proof.Machine.execPack o s
  | .unpack o => Sys2Proof.Machine.execUnpack o s
  | .shuf o => Sys2Proof.Machine.execShuf o s
  | .bcast o => Sys2Proof.Machine.execBcast o s
  | .rotl o => Sys2Proof.Machine.execRotl o s
  | .rsum o => Sys2Proof.Machine.execRsum o s
  | .rmax o => Sys2Proof.Machine.execRmax o s
  | .rmin o => Sys2Proof.Machine.execRmin o s
  | .scan o => Sys2Proof.Machine.execScan o s
  | .compact o => Sys2Proof.Machine.execCompact o s
  | .expand o => Sys2Proof.Machine.execExpand o s
  | .spld o => Sys2Proof.Machine.execSpld o s
  | .spst o => Sys2Proof.Machine.execSpst o s
  | .spldsyn o => Sys2Proof.Machine.execSpldsyn o s
  | .spred o => Sys2Proof.Machine.execSpred o s
  | .tidld o => Sys2Proof.Machine.execTidld o s
  | .emitctl o => Sys2Proof.Machine.execEmitctl o s
  | .mark o => Sys2Proof.Machine.execMark o s
  | .fault o => Sys2Proof.Machine.execFault o s
  | .callreq o => Sys2Proof.Machine.execCallreq o s
  | .actorEvt o => Sys2Proof.Machine.execActorEvt o s
  | .mvsplit o => Sys2Proof.Machine.execMvsplit o s
  | .qpscale o => Sys2Proof.Machine.execQpscale o s
  | .zigzag o => Sys2Proof.Machine.execZigzag o s
  | .erracc o => Sys2Proof.Machine.execErracc o s
  | .actorDataFiring n => Sys2Proof.Machine.execActorDataFiring n s
  | .markerStep n => Sys2Proof.Machine.execMarkerStep n s
  | .windowWriteApply n => Sys2Proof.Machine.execWindowWriteApply n s
  | .linkTokenTransfer inst circ hop => Sys2Proof.Machine.execLinkTokenTransfer inst circ hop s
  | .creditReturn inst circ => Sys2Proof.Machine.execCreditReturn inst circ s
  | .nodeMarkerPass n => Sys2Proof.Machine.execNodeMarkerPass n s
  | .joinCombine n => Sys2Proof.Machine.execJoinCombine n s
  | .stackedCall n => Sys2Proof.Machine.execStackedCall n s
  | .freezePoint inst => Sys2Proof.Machine.execFreezePoint inst s
  | .spillComplete inst => Sys2Proof.Machine.execSpillComplete inst s
  | .ret n => Sys2Proof.Machine.execRet n s
  | .refillComplete inst => Sys2Proof.Machine.execRefillComplete inst s
  | .sideCallPlace req hams => Sys2Proof.Machine.execSideCallPlace req hams s
  | .sideCallRelease inst => Sys2Proof.Machine.execSideCallRelease inst s
  | .steerRoute n => Sys2Proof.Machine.execSteerRoute n s
  | .mergeSequence n => Sys2Proof.Machine.execMergeSequence n s
  | .mergeKey n => Sys2Proof.Machine.execMergeKey n s
  | .loopheadMerge n => Sys2Proof.Machine.execLoopheadMerge n s
  | .countIndex n => Sys2Proof.Machine.execCountIndex n s
  | .countLoop n => Sys2Proof.Machine.execCountLoop n s
  | .filterToken n => Sys2Proof.Machine.execFilterToken n s
  | .coalesce n => Sys2Proof.Machine.execCoalesce n s
  | .fanoutEnqueue n => Sys2Proof.Machine.execFanoutEnqueue n s
  | .reduceStep n => Sys2Proof.Machine.execReduceStep n s
  | .reduceGroupClose n => Sys2Proof.Machine.execReduceGroupClose n s
  | .warpRequest n => Sys2Proof.Machine.execWarpRequest n s
  | .memoryLoad n => Sys2Proof.Machine.execMemoryLoad n s
  | .memoryStore n => Sys2Proof.Machine.execMemoryStore n s
  | .memoryGather n => Sys2Proof.Machine.execMemoryGather n s
  | .memoryScatter n => Sys2Proof.Machine.execMemoryScatter n s
  | .memoryUpdate n => Sys2Proof.Machine.execMemoryUpdate n s
  | .memoryReply n => Sys2Proof.Machine.execMemoryReply n s
  | .memoryOrderOut n => Sys2Proof.Machine.execMemoryOrderOut n s
  | .convertElement n => Sys2Proof.Machine.execConvertElement n s
  | .macWeightLoad n => Sys2Proof.Machine.execMacWeightLoad n s
  | .macActivationRow n => Sys2Proof.Machine.execMacActivationRow n s
  | .macRoundRelease n => Sys2Proof.Machine.execMacRoundRelease n s
  | .firingWeightUpdate n => Sys2Proof.Machine.execFiringWeightUpdate n s
  | .beadleSweep launch => Sys2Proof.Machine.execBeadleSweep launch s
  | .pagePlacement req hams => Sys2Proof.Machine.execPagePlacement req hams s
  | .hamletClearComplete hamlet => Sys2Proof.Machine.execHamletClearComplete hamlet s
  | .granaryClearComplete slice => Sys2Proof.Machine.execGranaryClearComplete slice s
  | .streamStart hamlet port => Sys2Proof.Machine.execStreamStart hamlet port s
  | .streamElement hamlet port => Sys2Proof.Machine.execStreamElement hamlet port s
  | .streamComplete hamlet port => Sys2Proof.Machine.execStreamComplete hamlet port s
  | .copyComplete hamlet xfer => Sys2Proof.Machine.execCopyComplete hamlet xfer s
  | .sparseUpdateApply slice j merge => Sys2Proof.Machine.execSparseUpdateApply slice j merge s
  | .walkerGrant shire => Sys2Proof.Machine.execWalkerGrant shire s
  | .walkComplete walk => Sys2Proof.Machine.execWalkComplete walk s
  | .invalidationEnqueue e => Sys2Proof.Machine.execInvalidationEnqueue e s
  | .invalidationComplete => Sys2Proof.Machine.execInvalidationComplete s
  | .hostMemWrite addr bytes => Sys2Proof.Machine.execHostMemWrite addr bytes s
  | .hostMemRead addr n => Sys2Proof.Machine.execHostMemRead addr n s
  | .peerAccess src vf addr op => Sys2Proof.Machine.execPeerAccess src vf addr op s
  | .peerReply id ans => Sys2Proof.Machine.execPeerReply id ans s
  | .flitRetry port => Sys2Proof.Machine.execFlitRetry port s
  | .portDown port => Sys2Proof.Machine.execPortDown port s
  | .portRetrain port => Sys2Proof.Machine.execPortRetrain port s
  | .portTrainingDone port ok => Sys2Proof.Machine.execPortTrainingDone port ok s
  | .queueBaseWrite vf v => Sys2Proof.Machine.execQueueBaseWrite vf v s
  | .queueSizeWrite vf v => Sys2Proof.Machine.execQueueSizeWrite vf v s
  | .doorbell vf v => Sys2Proof.Machine.execDoorbell vf v s
  | .stewardTakeEntry => Sys2Proof.Machine.execStewardTakeEntry s
  | .dispatchSelect vf => Sys2Proof.Machine.execDispatchSelect vf s
  | .launchPlace launch hams => Sys2Proof.Machine.execLaunchPlace launch hams s
  | .reservationTimer vf => Sys2Proof.Machine.execReservationTimer vf s
  | .pwaitPreempt vf => Sys2Proof.Machine.execPwaitPreempt vf s
  | .launchComplete launch => Sys2Proof.Machine.execLaunchComplete launch s
  | .preemptRequest launch => Sys2Proof.Machine.execPreemptRequest launch s
  | .sourcePmkEmit n => Sys2Proof.Machine.execSourcePmkEmit n s
  | .pmkArrival n => Sys2Proof.Machine.execPmkArrival n s
  | .preemptForce launch => Sys2Proof.Machine.execPreemptForce launch s
  | .saveComplete launch => Sys2Proof.Machine.execSaveComplete launch s
  | .restore launch => Sys2Proof.Machine.execRestore launch s
  | .checkpoint launch => Sys2Proof.Machine.execCheckpoint launch s
  | .replayRollback launch => Sys2Proof.Machine.execReplayRollback launch s
  | .stewardTrap => Sys2Proof.Machine.execStewardTrap s
  | .standbyStart => Sys2Proof.Machine.execStandbyStart s
  | .takeoverEnd => Sys2Proof.Machine.execTakeoverEnd s
  | .droverWalkStart parish => Sys2Proof.Machine.execDroverWalkStart parish s
  | .droverWalkComplete cmd => Sys2Proof.Machine.execDroverWalkComplete cmd s
  | .pinfoldCommandStart shire => Sys2Proof.Machine.execPinfoldCommandStart shire s
  | .pinbinComplete cmd => Sys2Proof.Machine.execPinbinComplete cmd s
  | .pinpairComplete cmd => Sys2Proof.Machine.execPinpairComplete cmd s
  | .thresherSessionStart shire => Sys2Proof.Machine.execThresherSessionStart shire s
  | .thresherBatch cmd more => Sys2Proof.Machine.execThresherBatch cmd more s
  | .thresherSessionEnd cmd => Sys2Proof.Machine.execThresherSessionEnd cmd s
  | .tileTaskIssue shire queue mill => Sys2Proof.Machine.execTileTaskIssue shire queue mill s
  | .tileTaskComplete shire queue record => Sys2Proof.Machine.execTileTaskComplete shire queue record s
  | .mpathComplete cmd => Sys2Proof.Machine.execMpathComplete cmd s
  | .sampleTimer hamlet => Sys2Proof.Machine.execSampleTimer hamlet s
  | .crierReadOffsetWrite vf v => Sys2Proof.Machine.execCrierReadOffsetWrite vf v s
  | .counterClr vf => Sys2Proof.Machine.execCounterClr vf s
  | .counterFreeze vf on => Sys2Proof.Machine.execCounterFreeze vf on s
  | .qosWordWrite vf v => Sys2Proof.Machine.execQosWordWrite vf v s
  | .qosWindow unit lat best => Sys2Proof.Machine.execQosWindow unit lat best s
  | .fenceEntryWrite die idx e => Sys2Proof.Machine.execFenceEntryWrite die idx e s
  | .runControlStop hamlet => Sys2Proof.Machine.execRunControlStop hamlet s
  | .runControlRun hamlet => Sys2Proof.Machine.execRunControlRun hamlet s
  | .registerWrite t v => Sys2Proof.Machine.execRegisterWrite t v s
  | .hamletRetire hamlet => Sys2Proof.Machine.execHamletRetire hamlet s
  | .pageRetire addr => Sys2Proof.Machine.execPageRetire addr s
  | .thermalThrottle => Sys2Proof.Machine.execThermalThrottle s
  | .clockRaise => Sys2Proof.Machine.execClockRaise s
  | .thermalStop => Sys2Proof.Machine.execThermalStop s
  | .packageReset => Sys2Proof.Machine.execPackageReset s
  | .selfTestPass f => Sys2Proof.Machine.execSelfTestPass f s
  | .hostLinkTraining mode => Sys2Proof.Machine.execHostLinkTraining mode s
  | .firmwareStageCheck stage image => Sys2Proof.Machine.execFirmwareStageCheck stage image s
  | .maintenanceCommand cmd die image => Sys2Proof.Machine.execMaintenanceCommand cmd die image s
  | .getVersion => Sys2Proof.Machine.execGetVersion s
  | .getCapabilities => Sys2Proof.Machine.execGetCapabilities s
  | .negotiateAlgorithms => Sys2Proof.Machine.execNegotiateAlgorithms s
  | .getDigests => Sys2Proof.Machine.execGetDigests s
  | .getCertificate => Sys2Proof.Machine.execGetCertificate s
  | .challenge nonce => Sys2Proof.Machine.execChallenge nonce s
  | .getMeasurements nonce => Sys2Proof.Machine.execGetMeasurements nonce s
  | .illegalInstr => Sys2Proof.Machine.execIllegalInstr s
  | .fetchFault code sub addr => Sys2Proof.Machine.execFetchFault code sub addr s
  | .contextCreation ctx vf => Sys2Proof.Machine.execContextCreation ctx vf s
  | .contextTeardown ctx => Sys2Proof.Machine.execContextTeardown ctx s
  | .vfTeardown vf => Sys2Proof.Machine.execVfTeardown vf s
  | .fabricCycle => Sys2Proof.Machine.execFabricCycle s
  | .timeNanosecond => Sys2Proof.Machine.execTimeNanosecond s
  | .selfTestFail f => Sys2Proof.Machine.execSelfTestFail f s

end Sys2Proof.Machine
end

