-- ==== Sys2Proof/Machine/Sched.lean ====
section
/-! DEFINITION. Which agent acts next (log 1): fetching a reeve's instruction, the handler in TVEC, the turns of the
agenda, and the order in which the machine goes on by itself. -/

namespace Sys2Proof.Machine

/-! ## A reeve's turn (R123, R215, R377) -/

/-- Whether a reeve fetches: it runs, is not stopped, and its launch is RUNNING. -/
def canRun (s : State) (h : Nat) : Bool :=
  let r := s.reeve h
  r.run == .running && !r.stop && match s.launchOf r.launch with
    | some l => l.st == .running
    | none => false

/-- Bytes of the instruction stream at an address. -/
def fetchAt (s : State) (a n : Nat) : Except Stop (List Byte × State) := do
  let r := s.me
  let ea ← checkCapAt r.code ((a : Int) - (r.code.base * 256 : Nat)) (some n) 4 clFetch
  let l ← locate s s.acx 0 ea rX
  loadLoc s s.acx l n

/-- The bytes of the acting reeve's next instruction: one word, or two. -/
def fetch (s : State) : Except Stop (List Byte × State) := do
  let pc := s.me.pc.toNat
  let (bs, s) ← fetchAt s pc 4
  if isLong (BitVec.ofNat 32 (leNat bs)) then do
    let (cs, s) ← fetchAt s (pc + 4) 4
    .ok (bs ++ cs, s)
  else .ok (bs, s)

/-- The handler that the Steward installs in TVEC (R377): it copies ECAUSE, EADDR and the reeve's position into the
launch status and stops the reeve. -/
def runHandler (s : State) : State :=
  let r := s.me
  let t : Trap := { code := Code.ofNum (natField r.ecause.toNat 0 8), sub := natField r.ecause.toNat 8 8
                    sel := field r.ecause 16 12, addr := r.eaddr, walk := r.ewalk }
  let s := s.setMe { r with run := .trapped, wait := none, barWait := none }
  let isFirst : Bool := match s.launchOf r.launch with
    | some x => x.fcode == .none && x.heldFaults.isEmpty
    | none => false
  let s := if t.code.replays then s
    else recordFault s r.launch t (siteOf s r.vf s.cur 0 0 true)
  let s := if isFirst then s.updLaunch r.launch fun x => { x with fpc := r.epc } else s
  breakBarriers s r.launch s.cur

/-- Whether the acting reeve stands at the handler that the Steward installed. -/
def atHandler (s : State) : Bool :=
  s.me.superv && s.me.pc == s.me.tvec && s.me.tvec == s.steward.tvec

/-- The bytes of the acting reeve's next instruction; one that waits has been fetched already (R215). -/
def nextBytes (s : State) : Except Stop (List Byte × State) :=
  match s.me.wait, s.me.got with
  | some _, some bs => .ok (bs, s)
  | _, _ => do
    let (bs, t) ← fetch s
    .ok (bs, t.updMe fun r => { r with got := some bs })

/-- Fetches, decodes and executes the acting reeve's next instruction; an uncorrectable error of its register file is met
first (R379, log 65). -/
def runNext (s : State) : Host.Outcome State Fault Refusal :=
  if s.ecc.reeves.contains s.cur then
    fetchTrap { code := .eccUncorr, sub := 5 }
      { noteError s 5 s.cur with ecc := { s.ecc with reeves := sdel s.ecc.reeves s.cur } }
  else if atHandler s then .next (runHandler s)
  else match nextBytes s with
    | .ok (bs, s) =>
      (match decode bs with
       | some (i, _) => exec i s
       | none => execIllegalInstr s)
    | .error (.trap t) => fetchTrap t s
    | .error (.trapIn s t) => fetchTrap t s
    | .error (.wait w rq) => .next ((register s rq).updMe fun r => { r with wait := some w, got := none })
    | .error (.keep s w) => .next (s.updMe fun r => { r with wait := some w, got := none })

/-- A turn of a reeve. -/
def reeveTurn (h : Nat) (s : State) : Host.Outcome State Fault Refusal :=
  let s := { s with cur := h }
  if canRun s h then runNext s else .next s

/-! ## An actor's turn (log 9) -/

/-- The next instruction of a slot's firing, or the first of the firing that it can begin. -/
def actorTurn (n : NodeRef) (s : State) : Host.Outcome State Fault Refusal :=
  let s := { s with focus := some n }
  let x := s.slotAt n
  let i := match x.firing with
    | some f => f.idx
    | none => 0
  match decodeActor (x.instr i) with
  | some op => exec op s
  | none => .next (if x.firing.isSome || mayFire s n then haltSlot s n { code := .illegalInstr } else s)

/-! ## What goes on by itself -/

/-- The steps of the translation and of the memories. -/
def memSteps (s : State) : List Act :=
  (s.walks.map fun w => act (execWalkComplete w.id))
  ++ ((s.walks.map fun w => parishShire w.parish).dedup.map fun n => act (execWalkerGrant n))
  ++ (if s.invq.isEmpty then [] else [act execInvalidationComplete])
  ++ ((mkeys s.sliceClear).map fun n => act (execGranaryClearComplete n))
  ++ (s.hamlets.filterMap fun (h, x) => x.clearFor.map fun _ => act (execHamletClearComplete h))
  ++ (s.windows.flatMap fun (n, l) => (List.range l.length).map fun i => act (execSparseUpdateApply n i none))

/-- The steps of a reeve's copies. -/
def copySteps (s : State) : List Act :=
  s.reeves.flatMap fun (h, r) => r.xfers.filterMap fun (i, x) =>
    match x.kind with
    | .copy => some (act (execCopyComplete h i))
    | _ => none

/-- The steps of the engines that need no input of their own. -/
def engineSteps (s : State) : List Act :=
  (s.cmds.flatMap fun (i, c) =>
    match c.eng with
    | .drove => [act (execDroverWalkStart (hamSlice c.hamlet)), act (execDroverWalkComplete i)]
    | .pinbin => [act (execPinfoldCommandStart (hamShireG c.hamlet)), act (execPinbinComplete i)]
    | .pinpair => [act (execPinfoldCommandStart (hamShireG c.hamlet)), act (execPinpairComplete i)]
    | .threshOpen =>
      [act (execThresherSessionStart (hamShireG c.hamlet)), act (execThresherBatch i 0), act (execThresherSessionEnd i)]
    | .mpath => [act (execMpathComplete i)]
    | _ => [])
  ++ s.mqueues.flatMap fun (k, q) =>
    (q.issued.map fun t => act (execTileTaskComplete q.shire k t.idx))
    ++ (if q.waiting.isEmpty then [] else s.insts.flatMap fun (i, x) => x.cells.filterMap fun (j, c) =>
        if c.kind == .mac && isHead c && c.feed then
          some (act (execTileTaskIssue q.shire k ⟨i, j / 16, j % 16, 0⟩)) else none)

/-- The steps of planes, calls and returns of an instance. -/
def callSteps (i : Nat) (x : Inst) : List Act :=
  [act (execFreezePoint i), act (execSpillComplete i), act (execRefillComplete i), act (execSideCallRelease i)]
  ++ x.cells.flatMap fun (k, c) =>
    if c.kind == .join && (c.isCalls || c.isRets) then
      [act (execStackedCall ⟨i, k / 16, k % 16, 0⟩), act (execRet ⟨i, k / 16, k % 16, 0⟩)]
    else []

/-- The steps of an instance towards its save or a checkpoint (R380, R385). -/
def drainSteps (i : Nat) (x : Inst) : List Act :=
  ((sourcesOf x).map fun (k, a) => act (execSourcePmkEmit ⟨i, k / 16, k % 16, a⟩))
  ++ ((passNodes x).map fun (k, a) => act (execPmkArrival ⟨i, k / 16, k % 16, a⟩))

/-- The steps of the regions. -/
def regionSteps (s : State) : List Act :=
  s.insts.flatMap fun (i, x) =>
    match s.launchOf x.launch with
    | none => []
    | some l =>
      callSteps i x ++ (if l.st == .gating || l.ckptAt.isSome then drainSteps i x else [])
        ++ (if x.gated then [] else instSteps i x)

/-- The placements that wait, with the pager's own choice (log 15). -/
def pagerSteps (s : State) : List Act :=
  (s.places.filterMap fun (k, q) => (pickPlace s q).map fun h => act (execPagePlacement k h))
  ++ (s.sides.filterMap fun (k, q) => (pickSide s q).map fun h => act (execSideCallPlace k h))

/-- The pager's choice for a launch that is being placed and has claimed nothing yet. -/
def pickLaunch (s : State) (l : Launch) : List Nat :=
  if !l.claim.isEmpty then [] else
  match plan s l with
  | .go hams => hams
  | _ => []

/-- The steps of the Steward and the pre-emption logic. -/
def stewardSteps (s : State) : List Act :=
  [act execStandbyStart, act execTakeoverEnd, act execStewardTakeEntry]
  ++ (s.launches.flatMap fun (k, l) =>
    match l.st with
    | .queued => []
    | .placing => [act (execLaunchPlace k (pickLaunch s l))]
    | .running =>
      [act (execReplayRollback k), act (execLaunchComplete k), act (execCheckpoint k)]
        ++ (if l.preemptAsked then [act (execPreemptRequest k)] else [])
    | .gating => [act (execSaveComplete k), act (execPreemptForce k)]
    | .saving => [act (execSaveComplete k)]
    | .replaying => [act (execReplayRollback k)]
    | .restoring => [act (execRestore k)]
    | _ => [])
  ++ ((s.launches.filterMap fun (_, l) => if l.st == .queued then some l.vf else none).dedup.flatMap fun v =>
    [act (execDispatchSelect v), act (execReservationTimer v), act (execPwaitPreempt v)])

/-- The timers: the Beadle's and the samples'. -/
def timerSteps (s : State) : List Act :=
  (s.launches.filterMap fun (k, l) => if l.st == .running then some (act (execBeadleSweep k)) else none)
  ++ s.reeves.filterMap fun (h, r) =>
    if r.samplecfg.getLsbD 0 || r.sampleDue.isSome then some (act (execSampleTimer h)) else none

/-- The steps of the machine that need no outside. -/
def ownSteps (s : State) : List Act :=
  memSteps s ++ regionSteps s ++ copySteps s ++ engineSteps s ++ pagerSteps s ++ stewardSteps s ++ timerSteps s

/-- The first of some steps that changes the state. -/
def firstStep (s : State) : List Act → Option State
  | [] => none
  | e :: l =>
    let t := e s
    if t == s then firstStep s l else some t

/-- Some nanoseconds. -/
def ticks : Nat → State → State
  | 0, s => s
  | n + 1, s => ticks n (act execTimeNanosecond s)

/-- One more cycle of the fabric, and the nanoseconds that it takes at the clock (R4, R99, R413). -/
def passTime (s : State) : State :=
  let n := s.frac + 1000
  ticks (n / s.clock) (act execFabricCycle { s with frac := n % s.clock })

/-- The first reeve of some whose turn changes the state. -/
def firstReeve (s : State) : List Nat → Option State
  | [] => none
  | h :: l =>
    match reeveTurn h s with
    | .next t => if t == { s with cur := h } then firstReeve s l else some t
    | _ => none

/-- A list from its element number `k` on, round to it again. -/
def rotate {α : Type} (k : Nat) (l : List α) : List α :=
  l.drop (k % l.length) ++ l.take (k % l.length)

/-- What one kind of agent does next, if it can act: the acting reeve, the graphs and units, another reeve, the clock.
Steps and reeves take turns by `k`, so that none is held off for good (R55). -/
def agentStep (s : State) (k : Nat) : Nat → Option (Host.Outcome State Fault Refusal)
  | 0 => if canRun s s.cur && s.me.wait.isNone then some (runNext s) else none
  | 1 => (firstStep s (rotate k (ownSteps s))).map .next
  | 2 => (firstReeve s ((rotate k (mkeys s.reeves)).filter (canRun s))).map .next
  | _ => some (.next (passTime s))

/-- The machine goes on by itself: the kinds of agents take turns, and one that cannot act gives its turn to the next
(R55, log 1). -/
def goOn (s : State) : Host.Outcome State Fault Refusal :=
  let k := s.rot
  let s := { s with rot := k + 1 }
  (((List.range 4).map fun j => (k + j) % 4).findSome? (agentStep s (k / 4))).getD (.next (passTime s))

/-! ## The agenda -/

/-- A turn that the agenda names.  An event is never a word of a program: those come from memory. -/
def takeTurn (t : Turn) (s : State) : Host.Outcome State Fault Refusal :=
  match t with
  | .reeve h => if h < 640 then reeveTurn h s else .fault .noSuchUnit
  | .actor n => if (s.inst n.inst).isSome then actorTurn n s else .fault .noSuchUnit
  | .event i => if (encode i).isEmpty then exec i s else .fault .noSuchUnit

/-- One step: the next turn of the agenda, or the machine goes on by itself. -/
def nextStep (s : State) : Host.Outcome State Fault Refusal :=
  match s.agenda with
  | t :: rest => takeTurn t { s with agenda := rest }
  | [] => goOn s

/-! ## Placing an instruction where the next step fetches it -/

/-- The pc that a program placed from outside starts at: the reeve's own, aligned and within space 0. -/
def stagePc (r : Reeve) : W64 := BitVec.ofNat 64 (r.pc.toNat % 2 ^ 56 / 4 * 4)

/-- A mapping of a virtual page to a page of LPDDR-6 in a hamlet's cache. -/
def stageMap (r : Reeve) (vpage ppage : Nat) : TlbEntry :=
  { ctx := r.ctx, vf := r.vf, lg := 16, vpage := vpage, ppage := ppage, r := true, w := true, x := true
    a := true, t := true }

/-- Sets what a fetch of bytes at the acting reeve's pc needs, and the bytes (log 5): the reeve runs, its code
capability covers the pc, its launch is RUNNING, the two pages from the pc are mapped to the first two pages of
LPDDR-6. -/
def stageCode (s : State) (bs : List Byte) : State :=
  let r := s.me
  let pc := stagePc r
  let v := pc.toNat / 65536
  let code := Cap.make true 0 pX 0 0 1023 (pc.toNat / 256) 0
  let l : Launch := { ctx := r.ctx, vf := r.vf, lid := r.lid, st := .running }
  let s := s.setMe { r with pc := pc, code := code, run := .running, stop := false, wait := none, issued := none
                            estat := r.estat &&& ~~~1#64 }
  let keep : Bool := match s.launchOf r.launch with
    | some l => l.st == .running
    | none => false
  let m := s.mem.write (pc.toNat % 65536) bs
  { s with
    agenda := []
    rot := 0
    launches := if keep then s.launches else mset s.launches r.launch l
    tlbH := mset s.tlbH s.cur (stageMap r v 0 :: stageMap r (v + 1) 1 :: mgetD s.tlbH s.cur [])
    mem := { m with bad := m.bad.filter fun x => 3 ≤ x * 8 / 65536 } }

end Sys2Proof.Machine
end

