-- ==== Sys2Proof/Machine/Step.lean ====
section
/-! DEFINITION. The step of the machine, and placing one instruction where the next step fetches it. -/

namespace Sys2Proof.Machine

/-- One step of the package (log 1). -/
def step (s : State) : Host.Outcome State Fault Refusal := nextStep s

/-- The state with one instruction of `nbits` bits `w` where `step` fetches next; the bits above are 0 (log 5). -/
def State.withFetchWord (s : State) (nbits w : Nat) : State := stageCode s (leBytes 8 (w % 2 ^ nbits))

end Sys2Proof.Machine
end

