-- ==== Sys2Proof/Safety.lean ====
section
/-! DEFINITION. The terms in which the statements speak: what a retired instruction leaves unchanged, what a trap at U
level does, what an event does, and what a safe run is. -/

namespace Sys2Proof.Machine

/-- A machine that a step leads on: neither a fault of the model nor a refusal. -/
def Goes (s : State) : Prop := ∃ t, step s = .next t

/-- Runs of the machine: the states that `n` steps lead to. -/
def runsTo (s : State) : Nat → Option State
  | 0 => some s
  | n + 1 =>
    match runsTo s n with
    | some t => (match step t with
      | .next u => some u
      | _ => none)
    | none => none

/-- A safe run: no step of it ends in a fault of the model or in a refusal. -/
def SafeRun (s : State) : Prop := ∀ n, (runsTo s n).isSome

/-- The state but for the reeves, the VF records, and what is held for a requester until its access is made. -/
def State.rest (s : State) : State :=
  { s with reeves := [], vfs := [], walkGifts := [], peerIn := [], gifts := [], bankWait := [] }

/-- `t` is `u` after the acting reeve has retired its instruction with the registers `r` and the pc `pc` (R215, R237):
no other reeve changes; of the VF pages only the reeve's retired instructions are counted, at offset 0x008 (R205); all
else is as in `u`. -/
structure Retires (u t : State) (r : Reeve) (pc : W64) : Prop where
  me : t.me = { r with pc := pc, wait := none, issued := none }
  others : ∀ h, h ≠ u.cur → t.reeve h = u.reeve h
  counts : t.vfs = (u.count u.me.vf 0x008).vfs
  rest : t.rest = u.rest

/-- The instruction completes from `s`: what it does besides the registers of the acting reeve makes `u` of `s`, and it
retires with the registers `r` and the pc `pc`. -/
def Does (i : Instr) (s u : State) (r : Reeve) (pc : W64) : Prop :=
  ∃ t, exec i s = .next t ∧ Retires u t r pc

/-- The instruction completes with the registers `r` and the pc `pc`, and changes nothing else. -/
def Gives (i : Instr) (s : State) (r : Reeve) (pc : W64) : Prop := Does i s s r pc

/-- The instruction completes, writes `v` to a general register (a write to g0 is discarded, R214), and the pc goes on by
one word. -/
def WritesG (i : Instr) (s : State) (d : GReg) (v : W64) : Prop := Gives i s (s.me.setG d v) (s.me.pc + 4)

/-- The instruction completes, writes `v` to a predicate (a write to p0 is discarded, R214), and the pc goes on by one
word. -/
def WritesP (i : Instr) (s : State) (d : PReg) (v : Bool) : Prop := Gives i s (s.me.setP d v) (s.me.pc + 4)

/-- The instruction completes, writes `c` to a capability register, and the pc goes on by one word. -/
def WritesK (i : Instr) (s : State) (d : KReg) (c : Cap) : Prop := Gives i s (s.me.setK d c) (s.me.pc + 4)

/-- `t` is `s` after the acting reeve, at U level, has taken a fault (R101, R103): EPC holds the pc, past the word for USER;
ECAUSE holds code, subcode and sel; EADDR the address, and beside it the stage and level of a failed walk; ESTAT the
predicates, level U before and S now; the pc is TVEC.
No g or k register, no predicate, no other reeve and no memory changes. -/
structure Traps (s t : State) (f : Trap) : Prop where
  me : t.me = { s.me with
    epc := if f.code = .user then s.me.pc + 4 else s.me.pc
    ecause := BitVec.ofNat 64 (f.code.num + f.sub * 256) ||| BitVec.ofNat 64 (f.sel.toNat * 65536)
    eaddr := f.addr
    ewalk := f.walk
    estat := BitVec.ofNat 64 (s.me.p.toNat / 2 * 512 + 1)
    pc := s.me.tvec
    wait := none }
  others : ∀ h, h ≠ s.cur → t.reeve h = s.reeve h
  counts : t.vfs = s.vfs
  rest : t.rest = s.rest

/-- The instruction takes a fault at U level. -/
def TakesTrap (i : Instr) (s : State) (f : Trap) : Prop := ∃ t, exec i s = .next t ∧ Traps s t f

/-- A waiting instruction changes nothing but the acting reeve's note of what it waits for (R215). -/
def Waits (i : Instr) (s : State) (w : Wait) : Prop :=
  exec i s = .next (s.updMe fun r => { r with wait := some w })

/-- No reduction of the acting reeve is on its way to memory (R168, R170): its combining buffer is empty and no
sparse-update window holds an update of it. -/
def Quiet (s : State) : Prop := s.me.comb = [] ∧ windowBusy s (.reeve s.cur) = false

/-- Every access of the acting reeve has been performed (R155, R160): it is quiet, and no access of it to another package
is unanswered. -/
def Still (s : State) : Prop := Quiet s ∧ (s.peerOut.any fun p => p.who == .reeve s.cur) = false

/-- The waiters of a word in their order; a reeve of a launch that is to be rolled back has left it (R143, R252). -/
def State.waiting (s : State) (w : Nat) : List Waiter := s.waiters.filter fun x => x.word == w && !rolledBack s x.who

/-- How many waiters a setting to full satisfies: those up to and including the first consumer, or all where there is none
or the word is uncorrectable (R143, R252). -/
def servedBy (bad : Bool) (l : List Waiter) : Nat :=
  if bad then l.length else (l.takeWhile fun x => !x.consume).length + 1

/-- `t` is `s` after the words under a test have been set full, their bytes as in `t` (R143, R252): each satisfies its
waiters in order, whose gifts hold the word or its error, and is left empty where one of them consumes it; a waiter that
is not satisfied stays. -/
structure SetsFull (s t : State) (under : Nat → Prop) : Prop where
  empties : ∀ w, under w → (w ∈ t.mem.empties ↔ w ∉ t.mem.bad ∧ ∃ x ∈ s.waiting w, x.consume = true)
  gifts : ∀ w, under w → ∀ x ∈ (s.waiting w).take (servedBy (decide (w ∈ t.mem.bad)) (s.waiting w)),
    ({ who := x.who, word := w, val := BitVec.ofNat 64 (leNat (t.mem.read (8 * w) 8))
       bad := decide (w ∈ t.mem.bad) } : SyncGift) ∈ t.gifts
  waiters : ∀ w, under w →
    t.waiting w = (s.waiting w).drop (servedBy (decide (w ∈ t.mem.bad)) (s.waiting w))
  others : ∀ w, ¬ under w → (w ∈ t.mem.empties ↔ w ∈ s.mem.empties) ∧ t.waiting w = s.waiting w
  rest : { t with mem := s.mem, waiters := s.waiters, gifts := s.gifts, vfs := s.vfs } = s

/-- Nothing but memory and the VF counters differs. -/
def OnlyMem (s u : State) : Prop := { u with mem := s.mem, vfs := s.vfs } = s

/-- Memory keeps every byte, tag, full/empty bit and zero flag. -/
def SameMem (m n : Mem) : Prop :=
  (∀ a, n.byte a = m.byte a) ∧ n.tags = m.tags ∧ n.empties = m.empties ∧ n.nonzero = m.nonzero

/-- `t` is `s` after the acting reeve has retired its instruction with the registers `r` and the pc `pc`, and after what
it did to memory, its launch and the VF counters, of which the statement speaks besides: no other reeve, node, transfer
or table changes. -/
structure RetiresMem (s t : State) (r : Reeve) (pc : W64) : Prop where
  me : t.me = { r with pc := pc, wait := none, issued := none }
  others : ∀ h, h ≠ s.cur → t.reeve h = s.reeve h
  rest : { t.rest with mem := s.mem, launches := s.launches } = s.rest

/-- The instruction completes with the registers `r` and the pc `pc`, and what it does besides satisfies `P`. -/
def Ends (i : Instr) (s : State) (r : Reeve) (pc : W64) (P : State → Prop) : Prop :=
  ∃ t, exec i s = .next t ∧ RetiresMem s t r pc ∧ P t

/-! ## Firings -/

/-- A firing of the slot in focus has come to an instruction whose guard, where it has one, holds (R286, R288; the slot
in focus is the model's own, log 9). -/
structure Running (s : State) (n : NodeRef) (f : Firing) (o : ActorOp) : Prop where
  focus : s.focus = some n
  live : s.nodeLive n = true
  actor : (s.cellAt n).kind = .actor
  firing : (s.slotAt n).firing = some f
  guard : o.pred = 0 ∨ ∃ v, opSlot f f.idx 3 = some (some v) ∧ v.poison = false ∧
    (o.pred = 1 → v.data.getLsbD 0 = true) ∧ (o.pred = 2 → v.data.getLsbD 0 = false)

/-- Operand slot `k` of the instruction that a firing has come to holds `v`. -/
def Firing.has (f : Firing) (k : Nat) (v : Val) : Prop := opSlot f f.idx k = some (some v)

/-- The firing of a node goes on to its next instruction, whether the present one has fired or was absent (R208, R288);
after the last of its block it ends. -/
def State.goOn (s : State) (n : NodeRef) (fired : Bool := true) : State :=
  let t := release (s.updFiring n fun f =>
    { f with idx := f.idx + 1, waiting := false, last := if fired then some f.idx else f.last }) (.node n)
  if (t.slotAt n).size ≤ (t.firingAt n).idx then endFiring t n else t

/-- What the instruction does besides its value makes `u` of `s`; its value `v` goes to its targets, and the firing goes
on. -/
def YieldsFrom (i : Instr) (o : ActorOp) (s u : State) (n : NodeRef) (v : Val) : Prop :=
  ∀ t, deliverTo u n o.t0 (some v) = .ok t → ∀ t', deliverTo t n o.t1 (some v) = .ok t' → exec i s = .next (t'.goOn n)

/-- The instruction delivers `v` to its targets, and the firing goes on; nothing else changes. -/
def Yields (i : Instr) (o : ActorOp) (s : State) (n : NodeRef) (v : Val) : Prop := YieldsFrom i o s s n v

/-- The instruction changes the state to `u`, gives no value, and the firing goes on. -/
def Effects (i : Instr) (s : State) (n : NodeRef) (u : State) : Prop := exec i s = .next (u.goOn n)

/-- The firing ends and commits nothing, and the slot halts with a fault (R307). -/
def Halts (i : Instr) (s : State) (n : NodeRef) (t : Trap) : Prop :=
  exec i s = .next (haltSlot (release s (.node n)) n t)

end Sys2Proof.Machine
end

