-- ==== Sys2Proof/WellFormed.lean ====
section
/-! DEFINITION. Which instructions the encodings admit: the conditions of R214 to R221 on fields
that the types of the fields do not already say. -/

namespace Sys2Proof

/-- A guard other than the reserved 0b1000 (R215). -/
def guardOk (p : Guard) : Bool := p != 8

/-- The guard of a reeve instruction that has one. -/
def guardOf : Instr → Option Guard
  | .add p _ _ _ => some p
  | .sub p _ _ _ => some p
  | .and p _ _ _ => some p
  | .or p _ _ _ => some p
  | .xor p _ _ _ => some p
  | .andn p _ _ _ => some p
  | .shl p _ _ _ => some p
  | .shr p _ _ _ => some p
  | .sar p _ _ _ => some p
  | .rot p _ _ _ => some p
  | .min p _ _ _ => some p
  | .max p _ _ _ => some p
  | .minu p _ _ _ => some p
  | .maxu p _ _ _ => some p
  | .clz p _ _ => some p
  | .ctz p _ _ => some p
  | .popc p _ _ => some p
  | .brev p _ _ => some p
  | .sext p _ _ _ => some p
  | .mul p _ _ _ => some p
  | .mulh p _ _ _ => some p
  | .mulhu p _ _ _ => some p
  | .div p _ _ _ => some p
  | .divu p _ _ _ => some p
  | .rem p _ _ _ => some p
  | .remu p _ _ _ => some p
  | .addi p _ _ _ => some p
  | .andi p _ _ _ => some p
  | .ori p _ _ _ => some p
  | .xori p _ _ _ => some p
  | .shli p _ _ _ => some p
  | .shri p _ _ _ => some p
  | .sari p _ _ _ => some p
  | .lui p _ _ => some p
  | .li p _ _ => some p
  | .cmp p _ _ _ _ _ => some p
  | .cmpi p _ _ _ _ => some p
  | .pand p _ _ _ => some p
  | .por p _ _ _ => some p
  | .pxor p _ _ _ => some p
  | .pandn p _ _ _ => some p
  | .pnot p _ _ => some p
  | .pmov p _ _ => some p
  | .pfromg p _ _ => some p
  | .ptog p _ _ => some p
  | .jalr p _ _ _ => some p
  | .loop p _ _ => some p
  | .trap p _ => some p
  | .exit p => some p
  | .ld p _ _ _ _ _ _ => some p
  | .st p _ _ _ _ _ _ => some p
  | .ldc p _ _ _ _ => some p
  | .stc p _ _ _ _ => some p
  | .ldsyn p _ _ _ _ _ => some p
  | .fe p _ _ _ _ _ => some p
  | .atom p _ _ _ _ _ => some p
  | .red p _ _ _ _ => some p
  | .swap p _ _ _ _ => some p
  | .cas p _ _ _ _ => some p
  | .fence p _ _ => some p
  | .csetb p _ _ _ => some p
  | .cinc p _ _ _ => some p
  | .cseto p _ _ _ => some p
  | .candp p _ _ _ => some p
  | .cgetb p _ _ => some p
  | .cgetl p _ _ => some p
  | .cgeto p _ _ => some p
  | .cgetp p _ _ => some p
  | .cgets p _ _ => some p
  | .ctest p _ _ => some p
  | .cclr p _ => some p
  | .cmov p _ _ => some p
  | .cseal p _ _ _ => some p
  | .cunseal p _ _ _ => some p
  | .cinci p _ _ _ => some p
  | .sspec p _ _ _ _ _ _ _ _ _ _ => some p
  | .scopy p _ _ _ _ _ _ _ _ => some p
  | .twaitany p _ _ => some p
  | .twaitall p _ => some p
  | .tfirst p _ _ => some p
  | .tclr p _ => some p
  | .tread p _ => some p
  | .rinit p _ _ => some p
  | .rawait p _ _ _ => some p
  | .rrel p _ _ => some p
  | .rstat p _ _ => some p
  | .sbarOrder p _ => some p
  | .sbarConfig p _ => some p
  | .sbarMemphase p _ => some p
  | .sbarCond p _ => some p
  | .inject p _ _ => some p
  | .markp p _ _ => some p
  | .drain p _ _ => some p
  | .pstat p _ _ => some p
  | .cfgld p _ _ => some p
  | .cfgrel p _ => some p
  | .cfgqry p _ _ _ => some p
  | .cfgstart p _ => some p
  | .cfggate p _ _ => some p
  | .qsweep p _ _ => some p
  | .launch p _ _ => some p
  | .lwait p _ _ => some p
  | .bar p _ _ _ => some p
  | .drove p _ _ _ => some p
  | .pinbin p _ _ _ => some p
  | .pinpair p _ _ _ => some p
  | .threshOpen p _ _ _ => some p
  | .threshClose p _ _ _ => some p
  | .mtaskAttach p _ _ _ => some p
  | .mtaskAppend p _ _ _ => some p
  | .mtaskDetach p _ _ _ => some p
  | .mpath p _ _ _ => some p
  | .tidset p _ _ => some p
  | .tidget p _ _ => some p
  | .tidinv p _ => some p
  | .srrd p _ _ => some p
  | .srwr p _ _ => some p
  | .eret p => some p
  | .evt p _ => some p
  | .rdtime p _ => some p
  | .ident p _ => some p
  | _ => none

/-- A well-formed instruction: the guard is not reserved and every field is in its range. -/
def WellFormed (i : Instr) : Bool :=
  (match guardOf i with | some p => guardOk p | none => true) &&
  match i with
  | .cmp _ comb _ _ _ cc => comb != 3 && decide (cc.toNat < 6)
  | .ld _ _ _ _ sz x _ => !(sz == 3 && x)
  | .sspec _ _ _ _ _ comp dir tag _ red _ => tailOk comp tag red && (red == 0 || dir)
  | .scopy _ _ _ _ comp tag _ red _ => tailOk comp tag red
  | .bar _ _ scope _ => decide (scope.toNat < 5)
  | .srrd _ _ sel => sysRegs.contains sel.toNat
  | .srwr _ _ sel => sysRegs.contains sel.toNat
  | .tagrd o => o.flags != 1
  | .tagrdKind o => o.flags == 1
  | _ => true

/-- Whether an instruction is one that a word of the reeve's own encodings stands for. THRESH_CLOSE,
MTASK_APPEND and MTASK_DETACH share the word of the first row of their group (log 8). -/
def reeveEncoded (i : Instr) : Bool :=
  match i with
  | .br _ => true
  | .jal _ => true
  | .threshClose .. => false
  | .mtaskAppend .. => false
  | .mtaskDetach .. => false
  | i => (guardOf i).isSome

end Sys2Proof
end

