-- ==== Sys2Proof/Certificates/Slice0/Obligations.lean ====
section
/-! DEFINITION. The statements for the provers: what the rules of the spec say the instructions and the machine do. -/

open Sys2Proof Sys2Proof.Machine

/-! ### The reeve's registers, guard, arithmetic and control -/

/-- R92, R214: g0 reads 0 and p0 reads 1 whatever is written to them; a write to any other register is read back there
and nowhere else. -/
def Obligations.RegisterFile : Prop :=
  ∀ (r : Reeve) (d e : GReg) (v : W64) (i j : KReg) (c : Cap) (q w : PReg) (b : Bool),
    r.gr 0 = 0 ∧ r.setG 0 v = r ∧ r.pr 0 = true ∧ r.setP 0 b = r ∧
    (r.setG d v).gr e = (if e = 0 then 0 else if e = d then v else r.gr e) ∧
    (r.setK i c).kr j = (if j = i then c else r.kr j) ∧
    (r.setP q b).pr w = (if w = 0 then true else if w = q then b else r.pr w) ∧
    (r.setG d v).k = r.k ∧ (r.setG d v).p = r.p ∧ (r.setK i c).g = r.g ∧ (r.setK i c).p = r.p ∧
    (r.setP q b).g = r.g ∧ (r.setP q b).k = r.k

/-- R215, step 3: an instruction whose guard is false only advances the pc, by 8 for an instruction of two words and
else by 4; it writes no register and raises no fault. -/
def Obligations.FalseGuardOnlyAdvances : Prop :=
  ∀ (i : Instr) (p : Guard) (s : State), guardOf i = some p → s.me.guard p = false →
    Gives i s s.me (s.me.pc + BitVec.ofNat 64 (instrBytes i))

/-- R239: the functions of ALU, each completing with its result as the rule gives it on numbers; CLZ, CTZ, POPC and
BREV with a b field other than 0 are no instruction. -/
def Obligations.AluResults : Prop :=
  ∀ (s : State) (p : Guard) (d a b : GReg), s.me.guard p = true →
    let x := s.me.gr a
    let y := s.me.gr b
    WritesG (.add p d a b) s d (BitVec.ofNat 64 (x.toNat + y.toNat)) ∧
    WritesG (.sub p d a b) s d (BitVec.ofInt 64 (x.toNat - y.toNat)) ∧
    WritesG (.and p d a b) s d (BitVec.ofFnLE fun i : Fin 64 => x.getLsbD i && y.getLsbD i) ∧
    WritesG (.or p d a b) s d (BitVec.ofFnLE fun i : Fin 64 => x.getLsbD i || y.getLsbD i) ∧
    WritesG (.xor p d a b) s d (BitVec.ofFnLE fun i : Fin 64 => x.getLsbD i ^^ y.getLsbD i) ∧
    WritesG (.andn p d a b) s d (BitVec.ofFnLE fun i : Fin 64 => x.getLsbD i && !y.getLsbD i) ∧
    WritesG (.shl p d a b) s d (BitVec.ofNat 64 (x.toNat * 2 ^ y.toNat)) ∧
    WritesG (.shr p d a b) s d (BitVec.ofNat 64 (x.toNat / 2 ^ y.toNat)) ∧
    WritesG (.sar p d a b) s d (BitVec.ofInt 64 (x.toInt / 2 ^ y.toNat)) ∧
    WritesG (.rot p d a b) s d (BitVec.ofFnLE fun i : Fin 64 => x.getLsbD ((i.val + 64 - y.toNat % 64) % 64)) ∧
    WritesG (.min p d a b) s d (BitVec.ofInt 64 (min x.toInt y.toInt)) ∧
    WritesG (.max p d a b) s d (BitVec.ofInt 64 (max x.toInt y.toInt)) ∧
    WritesG (.minu p d a b) s d (BitVec.ofNat 64 (min x.toNat y.toNat)) ∧
    WritesG (.maxu p d a b) s d (BitVec.ofNat 64 (max x.toNat y.toNat)) ∧
    WritesG (.clz p d a) s d (if x = 0 then 64 else BitVec.ofNat 64 (63 - x.toNat.log2)) ∧
    WritesG (.popc p d a) s d (BitVec.ofNat 64 ((List.range 64).countP fun i => x.getLsbD i)) ∧
    WritesG (.brev p d a) s d (BitVec.ofFnLE fun i : Fin 64 => x.getLsbD (63 - i.val)) ∧
    WritesG (.sext p d a b) s d (BitVec.ofFnLE fun i : Fin 64 => x.getLsbD (min i.val (y.toNat % 64))) ∧
    (∃ n, n ≤ 64 ∧ WritesG (.ctz p d a) s d (BitVec.ofNat 64 n) ∧ (∀ i, i < n → x.getLsbD i = false) ∧
      (n < 64 → x.getLsbD n = true)) ∧
    ∀ w : W32, w.toNat / 2 ^ 26 = 0x01 → 14 ≤ w.toNat % 128 → w.toNat % 128 ≤ 17 → w.toNat / 128 % 32 ≠ 0 →
      decode (leBytes 4 w.toNat) = none

/-- R240: the functions of MULDIV, with the results for a divisor 0 and for −2^63 ÷ −1. -/
def Obligations.MulDivResults : Prop :=
  ∀ (s : State) (p : Guard) (d a b : GReg), s.me.guard p = true →
    let x := s.me.gr a
    let y := s.me.gr b
    WritesG (.mul p d a b) s d (BitVec.ofInt 64 (x.toInt * y.toInt)) ∧
    WritesG (.mulh p d a b) s d (BitVec.ofInt 64 (x.toInt * y.toInt / 2 ^ 64)) ∧
    WritesG (.mulhu p d a b) s d (BitVec.ofNat 64 (x.toNat * y.toNat / 2 ^ 64)) ∧
    WritesG (.div p d a b) s d (if y = 0 then -1
      else if x = 0x8000000000000000 ∧ y = -1 then 0x8000000000000000
      else BitVec.ofInt 64 (x.toInt.tdiv y.toInt)) ∧
    WritesG (.divu p d a b) s d (if y = 0 then -1 else BitVec.ofNat 64 (x.toNat / y.toNat)) ∧
    WritesG (.rem p d a b) s d (if y = 0 then x
      else if x = 0x8000000000000000 ∧ y = -1 then 0
      else BitVec.ofInt 64 (x.toInt.tmod y.toInt)) ∧
    WritesG (.remu p d a b) s d (if y = 0 then x else BitVec.ofNat 64 (x.toNat % y.toNat))

/-- R241, R242: the instructions with an immediate; a shift immediate above 63 is no instruction. -/
def Obligations.ImmediateResults : Prop :=
  ∀ (s : State) (p : Guard) (d a : GReg) (imm : BitVec 12) (sh : BitVec 6) (u : BitVec 17) (v : BitVec 49),
    s.me.guard p = true →
    let x := s.me.gr a
    WritesG (.addi p d a imm) s d (BitVec.ofInt 64 (x.toInt + imm.toInt)) ∧
    WritesG (.andi p d a imm) s d (BitVec.ofFnLE fun i : Fin 64 => x.getLsbD i && imm.getLsbD (min i.val 11)) ∧
    WritesG (.ori p d a imm) s d (BitVec.ofFnLE fun i : Fin 64 => x.getLsbD i || imm.getLsbD (min i.val 11)) ∧
    WritesG (.xori p d a imm) s d (BitVec.ofFnLE fun i : Fin 64 => x.getLsbD i ^^ imm.getLsbD (min i.val 11)) ∧
    WritesG (.shli p d a sh) s d (BitVec.ofNat 64 (x.toNat * 2 ^ sh.toNat)) ∧
    WritesG (.shri p d a sh) s d (BitVec.ofNat 64 (x.toNat / 2 ^ sh.toNat)) ∧
    WritesG (.sari p d a sh) s d (BitVec.ofInt 64 (x.toInt / 2 ^ sh.toNat)) ∧
    WritesG (.lui p d u) s d (BitVec.ofInt 64 (u.toInt * 4096)) ∧
    Gives (.li p d v) s (s.me.setG d (BitVec.ofInt 64 v.toInt)) (s.me.pc + 8) ∧
    ∀ w : W32, ((w.toNat / 2 ^ 26) ∈ [7, 8, 9]) → w.toNat / 64 % 64 ≠ 0 → decode (leBytes 4 w.toNat) = none

/-- R243 to R245: compares and predicate logic; combine mode 3, codes above 5 and predicate fields with an upper bit
set are no instruction. -/
def Obligations.CompareAndPredicateResults : Prop :=
  ∀ (s : State) (p : Guard) (d q w : PReg) (g a b : GReg) (imm : BitVec 12), s.me.guard p = true →
    let x := s.me.gr a
    let y := s.me.gr b
    let conds := [decide (x.toNat = y.toNat), decide (x.toNat ≠ y.toNat), decide (x.toInt < y.toInt),
      decide (x.toInt ≤ y.toInt), decide (x.toNat < y.toNat), decide (x.toNat ≤ y.toNat)]
    let v : W64 := BitVec.ofInt 64 imm.toInt
    let iconds := [decide (x.toInt = imm.toInt), decide (x.toInt ≠ imm.toInt), decide (x.toInt < imm.toInt),
      decide (x.toNat < v.toNat)]
    (∀ (cc : BitVec 3) (c : Bool), conds[cc.toNat]? = some c →
      WritesP (.cmp p 0 d a b cc) s d c ∧
      WritesP (.cmp p 1 d a b cc) s d (s.me.pr d && c) ∧
      WritesP (.cmp p 2 d a b cc) s d (s.me.pr d || c)) ∧
    (∀ (cc : BitVec 2) (c : Bool), iconds[cc.toNat]? = some c → WritesP (.cmpi p cc d a imm) s d c) ∧
    (∀ u : W32, u.toNat / 2 ^ 26 = 0x0B → (u.toNat / 2 ^ 20 % 4 = 3 ∨ 5 < u.toNat % 128) →
      decode (leBytes 4 u.toNat) = none) ∧
    WritesP (.pand p d q w) s d (s.me.pr q && s.me.pr w) ∧
    WritesP (.por p d q w) s d (s.me.pr q || s.me.pr w) ∧
    WritesP (.pxor p d q w) s d (s.me.pr q ^^ s.me.pr w) ∧
    WritesP (.pandn p d q w) s d (s.me.pr q && !s.me.pr w) ∧
    WritesP (.pnot p d q) s d (!s.me.pr q) ∧
    WritesP (.pmov p d q) s d (s.me.pr q) ∧
    WritesP (.pfromg p d a) s d (decide (x ≠ 0)) ∧
    WritesG (.ptog p g q) s g (if s.me.pr q then 1 else 0) ∧
    ∀ u : W32, u.toNat / 2 ^ 26 = 0x0D →
      (u.toNat % 128 ≠ 7 ∧ 8 ≤ u.toNat / 2 ^ 17 % 32) ∨ (u.toNat % 128 ≠ 6 ∧ 8 ≤ u.toNat / 2 ^ 12 % 32) ∨
        (u.toNat % 128 ≤ 3 ∧ 8 ≤ u.toNat / 2 ^ 7 % 32) → decode (leBytes 4 u.toNat) = none

/-- R246: branches, calls and the counted loop; a JALR whose target is no multiple of 4 raises ALIGN with the target.
-/
def Obligations.ControlTransfers : Prop :=
  ∀ (s : State) (p : Guard) (d a : GReg) (imm : BitVec 12) (off : BitVec 22),
    let pc := s.me.pc
    let to22 : W64 := BitVec.ofInt 64 (pc.toInt + 4 * off.toInt)
    let t : W64 := BitVec.ofInt 64 ((s.me.gr a).toInt + 4 * imm.toInt)
    Gives (.br off) s s.me to22 ∧
    Gives (.jal off) s (s.me.setG 31 (pc + 4)) to22 ∧
    (s.me.guard p = true → t.toNat % 4 = 0 → Gives (.jalr p d a imm) s (s.me.setG d (pc + 4)) t) ∧
    (s.me.guard p = true → t.toNat % 4 ≠ 0 → s.me.superv = false →
      TakesTrap (.jalr p d a imm) s { code := .align, addr := t }) ∧
    (s.me.guard p = true →
      Gives (.loop p d imm) s (s.me.setG d (s.me.gr d - 1))
        (if d ≠ 0 ∧ s.me.gr d ≠ 1 then BitVec.ofInt 64 (pc.toInt - 4 * imm.toNat) else pc + 4)) ∧
    (s.me.guard p = false →
      Gives (.jalr p d a imm) s s.me (pc + 4) ∧ Gives (.loop p d imm) s s.me (pc + 4))

/-- R103: at U level a fault saves pc, cause, address, predicates and level and enters TVEC; at S level it stops the
reeve, enters code and pc in the launch status where no freeze holds its faults (R43), and breaks the reeve's barriers;
ERET returns at S level and raises PRIV at U level. -/
def Obligations.TrapEntryAndReturn : Prop :=
  ∀ (s : State) (f : Trap) (p : Guard),
    (s.me.superv = false → f.code.replays = false → Traps s (trapEntry f s) f) ∧
    (s.me.superv = false → (trapEntry f s).me.epc = (if f.code = .user then s.me.pc + 4 else s.me.pc) ∧
      (trapEntry f s).me.pc = s.me.tvec ∧ (trapEntry f s).me.superv = true ∧
      (trapEntry f s).me.g = s.me.g ∧ (trapEntry f s).me.k = s.me.k ∧ (trapEntry f s).mem = s.mem) ∧
    (s.me.superv = true →
      (trapEntry f s).me = { s.me with run := .trapped, wait := none, barWait := none } ∧
      (trapEntry f s).mem = s.mem ∧
      ∀ l, s.launchOf s.me.launch = some l → l.fcode = .none → l.heldFaults = [] → f.code ≠ .none →
        freezes s s.me.launch = false →
        ∃ l', (trapEntry f s).launchOf s.me.launch = some l' ∧ l'.fcode = f.code ∧ l'.fpc = s.me.pc ∧
          ∀ scope, scope < 5 → (barOf l' (barKey scope s.cur)).broken = true) ∧
    (s.me.superv = true → s.me.guard p = true →
      Gives (.eret p) s { s.me with
        p := BitVec.ofFnLE fun i : Fin 8 => if i = 0 then s.me.p.getLsbD 0 else s.me.estat.getLsbD (8 + i)
        estat := BitVec.ofFnLE fun i : Fin 64 => if i = 0 then s.me.estat.getLsbD 1 else s.me.estat.getLsbD i }
        s.me.epc) ∧
    (s.me.superv = false → s.me.guard p = true → TakesTrap (.eret p) s { code := .priv })

/-- TRAP raises USER with its number (R281); a word that is no instruction and a fetch that faults raise their fault
with EPC at the word (R215); a fault that triggers a replay also asks for the rollback of the launch (R387), unless a
freeze holds it (R43); an event with a code that no fetch raises changes nothing. EXIT (R94, R281): with no transfer left
and every access performed, a reeve with another id below the count restarts at its entry point with its registers reset,
else it stops and leaves its barriers: it participates no longer, its open arrivals are withdrawn, and a phase whose other
participants have all arrived ends (R276), but for an instance that has been broken in an earlier cycle (R277); while a
transfer is left, it waits. An EXIT with entries in the combining buffer, an update in a window or an access to another
package unanswered flushes the entries and waits (R160, R168). -/
def Obligations.RaisingAndExit : Prop :=
  (∀ (s : State) (p : Guard) (sel : BitVec 12) (code sub : BitVec 8) (a : W64), s.me.superv = false →
     (s.me.guard p = true → TakesTrap (.trap p sel) s { code := .user, sel := sel }) ∧
     TakesTrap .illegalInstr s { code := .illegalInstr } ∧
     (fetchCode code.toNat sub.toNat = (decide (3 ≤ code.toNat ∧ code.toNat ≤ 10 ∧ sub = 0)
       || decide (code = 11 ∧ 1 ≤ sub.toNat ∧ sub.toNat ≤ 3) || decide (code = 29 ∧ (sub = 1 ∨ sub = 2 ∨ sub = 4)))) ∧
     (fetchCode code.toNat sub.toNat = false → exec (.fetchFault code sub a) s = .next s) ∧
     (fetchCode code.toNat sub.toNat = true → (Code.ofNum code.toNat).replays = false →
       TakesTrap (.fetchFault code sub a) s { code := Code.ofNum code.toNat, sub := sub.toNat, addr := a }) ∧
     ∀ l, fetchCode code.toNat sub.toNat = true → (Code.ofNum code.toNat).replays = true →
       s.launchOf s.me.launch = some l → l.rollback = none → freezes s s.me.launch = false →
       ∃ t l', exec (.fetchFault code sub a) s = .next t ∧ t.me.epc = s.me.pc ∧ t.me.pc = s.me.tvec ∧
         t.launchOf s.me.launch = some l' ∧
         l'.rollback = some { code := Code.ofNum code.toNat, sub := sub.toNat, addr := a }) ∧
  (∀ (s u : State) (p : Guard), s.me.guard p = true →
     (flushComb s s.cur (fun _ => true) = .error (.keep u .memory) ∨
       (flushComb s s.cur (fun _ => true) = .ok u ∧ (windowBusy u (.reeve s.cur) = true ∨
         (u.peerOut.any fun q => q.who == .reeve s.cur) = true))) →
     ∃ t, exec (.exit p) s = .next t ∧ t.me = { u.me with wait := some .memory } ∧ t.mem = u.mem ∧
       t.launches = u.launches ∧ t.peerOut = u.peerOut ∧ ∀ h, h ≠ s.cur → t.reeve h = u.reeve h) ∧
  (∀ (s : State) (p : Guard), s.me.guard p = true → Still s →
     (s.me.xfers ≠ [] → Waits (.exit p) s .finish) ∧
     (s.me.xfers = [] → ∃ t, exec (.exit p) s = .next t ∧ t.mem = s.mem ∧ t.insts = s.insts ∧
       (∀ h, h ≠ s.cur → t.reeve h = s.reeve h) ∧
       (s.me.unit + s.me.stride < s.me.nunits →
         t.me.unit = s.me.unit + s.me.stride ∧ t.me.run = s.me.run ∧
         t.me.pc = BitVec.ofNat 64 (s.me.code.base * 256 + s.me.code.offset) ∧
         (∀ i, t.me.gr i = 0) ∧ (∀ i, t.me.pr i = decide (i = 0)) ∧
         (∀ i, t.me.kr i = (s.me.args[i.toNat]?).getD Cap.null) ∧ t.me.rings = [] ∧ t.launches = s.launches) ∧
       (¬ s.me.unit + s.me.stride < s.me.nunits →
         t.me = { s.me with run := .exited, wait := none, issued := none } ∧
         ∀ l, s.launchOf s.me.launch = some l → ∃ l', t.launchOf s.me.launch = some l' ∧ { l' with bars := l.bars } = l ∧
           ∀ scope, scope < 5 →
             let key := barKey scope s.cur
             let b := barOf l key
             let left := b.arrived.filter fun h => h != s.cur
             let others := l.reeves.filter fun h => h != s.cur && barKey scope h == key && (s.reeve h).run != .exited
             barOf l' key = if left ≠ [] ∧ ¬ (b.broken = true ∧ b.brokenAt ≠ s.cycle) ∧ others.length ≤ left.length
               then { b with arrived := [], phase := b.phase + 1 } else { b with arrived := left })))

/-- R95, R96, R101, R104 to R106, R280: every system register as SRRD reads it and SRWR writes it; the privileged ones
raise PRIV at U level, a write to a read-only one raises ILLEGAL_INSTR. R282, R283: RDTIME, IDENT and EVT; IDENT's
stepping is any value, since the spec states none (log 13). -/
def Obligations.SystemRegistersAndIdentity : Prop :=
  (∀ (s : State) (p : Guard) (d a : GReg), s.me.guard p = true →
     let r := s.me
     let h := s.cur % 80
     let v := r.gr a
     let mix (m old : W64) : W64 := BitVec.ofFnLE fun i : Fin 64 => if m.getLsbD i then v.getLsbD i else old.getLsbD i
     (∀ x ∈ ([(0x000, BitVec.ofNat 64 r.ctx), (0x001, BitVec.ofNat 64 r.vf),
         (0x002, BitVec.ofNat 64 (h / 10 * 4096 + h % 10 * 256 + h)),
         (0x003, BitVec.ofNat 64 (h / 10 / 2 * 5 + h % 10 / 2)), (0x004, BitVec.ofNat 64 (h / 10 / 2)),
         (0x005, BitVec.ofNat 64 (s.pkg * 256 + s.cur / 80)), (0x006, BitVec.ofNat 64 r.unit),
         (0x007, BitVec.ofNat 64 r.nunits), (0x008, BitVec.ofNat 64 r.lid.toNat), (0x010, r.tbits), (0x011, r.tbusy),
         (0x030, s.time), (0x031, s.cycle), (0x040, r.samplecfg), (0x050, r.prio)] : List (BitVec 12 × W64)),
       WritesG (.srrd p d x.1) s d x.2 ∧
       (r.superv = false → x.1 < 0x040 → TakesTrap (.srwr p a x.1) s { code := .illegalInstr })) ∧
     (∀ x ∈ ([(0x020, r.tvec), (0x021, r.epc), (0x022, r.ecause), (0x023, r.eaddr), (0x024, r.estat)] :
         List (BitVec 12 × W64)),
       (r.superv = true → WritesG (.srrd p d x.1) s d x.2) ∧
       (r.superv = false → TakesTrap (.srrd p d x.1) s { code := .priv } ∧
         TakesTrap (.srwr p a x.1) s { code := .priv })) ∧
     (r.superv = true →
       Gives (.srwr p a 0x020) s { r with tvec := mix 0xFFFFFFFFFFFFFFFC r.tvec } (r.pc + 4) ∧
       Gives (.srwr p a 0x021) s { r with epc := v } (r.pc + 4) ∧
       Gives (.srwr p a 0x022) s { r with ecause := mix 0x0FFFFFFF r.ecause } (r.pc + 4) ∧
       Gives (.srwr p a 0x023) s { r with eaddr := v } (r.pc + 4) ∧
       Gives (.srwr p a 0x024) s { r with estat := mix 0xFE02 r.estat } (r.pc + 4)) ∧
     Gives (.srwr p a 0x040) s { r with
       samplecfg := mix 0xFFFFFF07 r.samplecfg, sampleCount := 0
       sampleDue := if r.samplecfg.getLsbD 0 = true ∧ (r.samplecfg.toNat / 256 % 2 ^ 24 + 1) * 16 ≤ r.sampleCount
         then some r.samplecfg else r.sampleDue } (r.pc + 4) ∧
     ∀ l, s.launchOf r.launch = some l →
       Gives (.srwr p a 0x050) s { r with
         prio := BitVec.ofNat 64 (min (v.toNat / 16 % 16) ((s.vfOf r.vf).qos.toNat % 16) * 16
           + max (v.toNat % 4) l.lpb.pclass) } (r.pc + 4)) ∧
  (∀ (s : State) (p : Guard) (d a : GReg), s.me.guard p = true →
     WritesG (.rdtime p d) s d s.time ∧
     (∃ stepping : BitVec 16, WritesG (.ident p d) s d (BitVec.ofNat 64 (0x000200010000 + stepping.toNat))) ∧
     Does (.evt p a) s
       (((crier s s.me.vf 0x10 s.cur 0 0 s.me.lid
         (leBytes 8 s.me.pc.toNat ++ [0] ++ leBytes 7 ((s.me.gr a).toNat % 2 ^ 56))).count s.me.vf 0x090).count
           s.me.vf 0x0A0) s.me (s.me.pc + 4))

/-! ### Memory -/

/-- R126, R139, R142, R144: what a write to the physical memories does: the bytes written, the tags of the granules it
overlaps, the full/empty bits and the zero flags; every other byte reads as before. R143: a write that sets words full
satisfies their waiters. -/
def Obligations.PhysicalWrites : Prop :=
  ∀ (s : State) (vf pa : Nat) (bs : List Byte) (full zero : Bool), bs ≠ [] →
    let u := storePhys s vf pa bs full zero
    let inGranule (lg g : Nat) : Prop := pa / 2 ^ lg ≤ g ∧ g ≤ (pa + bs.length - 1) / 2 ^ lg
    (∀ i, i < bs.length → u.mem.byte (pa + i) = bs.getD i 0) ∧
    (∀ a, a < pa ∨ pa + bs.length ≤ a → u.mem.byte a = s.mem.byte a) ∧
    (∀ g, g ∈ u.mem.tags ↔ g ∈ s.mem.tags ∧ ¬ inGranule 4 g) ∧
    (full = false ∨ isOnChip pa = false → u.mem.empties = s.mem.empties) ∧
    (full = true → isOnChip pa = true → SetsFull s u (inGranule 3)) ∧
    (isOnChip pa = true → ∀ g, g ∈ u.mem.nonzero ↔
      (if zero then g ∈ s.mem.nonzero ∧ ¬ inGranule 5 g else g ∈ s.mem.nonzero ∨ inGranule 5 g)) ∧
    (isOnChip pa = false → u.mem.nonzero = s.mem.nonzero) ∧
    u.reeves = s.reeves ∧ u.launches = s.launches ∧ u.insts = s.insts

/-- R250: LD and ST complete at every place that their access reaches: LD writes the loaded value, sign- or
zero-extended; ST stores the low bytes of its register, and with x is a store that sets the full bit. In the physical
memories LD reads the bytes there and changes none, and ST is the write of PhysicalWrites. R251: LDC reads a granule
with its tag; STC writes one with its tag, but a tagged capability without GL goes not into space 0. -/
def Obligations.LoadsAndStores : Prop :=
  (∀ (s : State) (p : Guard) (d : GReg) (kc : KReg) (a : GReg) (sz : BitVec 2) (x : Bool) (imm : BitVec 5),
     s.me.guard p = true → Quiet s →
     let n := 2 ^ sz.toNat
     let k := s.me.kr kc
     let off : Nat := k.offset + (s.me.gr a).toNat + imm.toNat * n
     (∀ l, access s s.acx k off n n clLoad rR = .ok l → ∀ v, loadLoc s s.acx l n = .ok v →
       OnlyMem s v.2 ∧ SameMem s.mem v.2.mem ∧
       Does (.ld p d kc a sz x imm) s v.2 (s.me.setG d
         (if x then (BitVec.ofNat (8 * n) (leNat v.1)).signExtend 64 else BitVec.ofNat 64 (leNat v.1))) (s.me.pc + 4)) ∧
     (∀ l, access s s.acx k off n n (if x then clSyncStore else clStore) rW = .ok l → (x = true → Still s) →
       ∀ u, storeLoc s s.acx l (leBytes n (s.me.gr d).toNat) x = .ok u →
       Does (.st p d kc a sz x imm) s (noteStore u k) (noteStore u k).me (s.me.pc + 4)) ∧
     ∀ pa, (s.mem.badAt pa n = false → (loadLoc s s.acx (.phys pa) n).toOption.map (·.1) = some (s.mem.read pa n)) ∧
       storeLoc s s.acx (.phys pa) (leBytes n (s.me.gr d).toNat) x =
         .ok (storePhys s s.me.vf pa (leBytes n (s.me.gr d).toNat) x)) ∧
  (∀ (s : State) (p : Guard) (d kc : KReg) (a : GReg) (imm : BitVec 5), s.me.guard p = true → Quiet s →
     let k := s.me.kr kc
     let c := s.me.kr d
     let off : Nat := k.offset + (s.me.gr a).toNat + imm.toNat * 16
     (∀ l, access s s.acx k off 16 16 clCapLoad rR = .ok l → ∀ v, loadCapLoc s s.acx l = .ok v →
       OnlyMem s v.2 ∧ SameMem s.mem v.2.mem ∧ Does (.ldc p d kc a imm) s v.2 (s.me.setK d v.1) (s.me.pc + 4)) ∧
     (∀ ea, checkCapAt k off (some 16) 16 clCapStore = .ok ea →
       (c.tag = true → k.space = 0 → c.perms / 256 % 2 = 1) →
       ∀ l, locate s s.acx k.space ea (rW ||| rT) = .ok l → ∀ u, storeCapLoc s s.acx l c = .ok u →
       Does (.stc p d kc a imm) s (noteStore u k) (noteStore u k).me (s.me.pc + 4)) ∧
     (∀ ea, checkCapAt k off (some 16) 16 clCapStore = .ok ea → c.tag = true → k.space = 0 →
       c.perms / 256 % 2 = 0 → s.me.superv = false →
       TakesTrap (.stc p d kc a imm) s { code := .capPerm, addr := BitVec.ofNat 64 ea }) ∧
     ∀ pa, let u := storeCap s s.me.vf pa c
       (s.mem.badAt pa 16 = false → (loadCapLoc s s.acx (.phys pa)).toOption.map (·.1) =
         some ⟨BitVec.ofNat 128 (leNat (s.mem.read pa 16)), decide (pa / 16 ∈ s.mem.tags) && !isHost pa⟩) ∧
       storeCapLoc s s.acx (.phys pa) c = .ok u ∧ u.mem.read pa 16 = leBytes 16 c.bits.toNat ∧
       (pa / 16 ∈ u.mem.tags ↔ c.tag = true ∧ isHost pa = false) ∧
       ∀ b, b < pa ∨ pa + 16 ≤ b → u.mem.byte b = s.mem.byte b)

/-- R124, R237, R238: the checks of an access in their order, each with its fault and EADDR, as LD takes them at U
level; a fault of the translation comes after them. -/
def Obligations.AccessChecksInOrder : Prop :=
  ∀ (s : State) (p : Guard) (d : GReg) (kc : KReg) (a : GReg) (sz : BitVec 2) (x : Bool) (imm : BitVec 5),
    s.me.guard p = true → s.me.superv = false →
    let n := 2 ^ sz.toNat
    let k := s.me.kr kc
    let off := k.offset + (s.me.gr a).toNat + imm.toNat * n
    let ea : W64 := BitVec.ofNat 64 (k.base * 256 + off)
    let i : Instr := .ld p d kc a sz x imm
    let unsealed := k.tag = true ∧ k.otype = 0
    (k.tag = false → TakesTrap i s { code := .capTag, addr := ea }) ∧
    (k.tag = true → k.otype ≠ 0 → TakesTrap i s { code := .capSeal, addr := ea }) ∧
    (unsealed → k.space = 7 → TakesTrap i s { code := .capSpace, addr := ea }) ∧
    (unsealed → k.space ≠ 7 → k.perms % 2 = 0 → TakesTrap i s { code := .capPerm, addr := ea }) ∧
    (unsealed → k.space ≠ 7 → k.perms % 2 = 1 → (2 ^ 40 ≤ off ∨ k.length < off + n) →
      TakesTrap i s { code := .capBounds, addr := ea }) ∧
    (unsealed → k.space ≠ 7 → k.perms % 2 = 1 → off < 2 ^ 40 → off + n ≤ k.length → off % n ≠ 0 →
      TakesTrap i s { code := .align, addr := ea }) ∧
    (unsealed → k.space ≠ 7 → k.perms % 2 = 1 → off < 2 ^ 40 → off + n ≤ k.length → off % n = 0 →
      ∀ t : Trap, t.code.replays = false →
        locate s s.acx k.space ((k.base * 256 + off) % 2 ^ 64) rR = .error (.trap t) → TakesTrap i s t)

/-- R252, R253: LDSYN takes a full word at once, and with x leaves it empty; at an empty word it waits in the word's
order. FE changes the bits of its words and no byte, and with x it satisfies their waiters (R143); a count of 0 changes
nothing, a count of 2^37 is out of bounds. -/
def Obligations.FullEmptyWords : Prop :=
  ∀ (s : State) (p : Guard) (d : GReg) (kc : KReg) (a : GReg) (x : Bool) (imm : BitVec 5) (pa : Nat),
    s.me.guard p = true → Quiet s →
    let k := s.me.kr kc
    let off : Nat := k.offset + (s.me.gr a).toNat + imm.toNat * 8
    let c := (s.me.gr d).toNat
    let ld : Instr := .ldsyn p d kc a x imm
    let fe : Instr := .fe p d kc a x imm
    (access s s.acx k off 8 8 clSyncLoad rR = .ok (.phys pa) → s.mem.badAt pa 8 = false →
      (∀ g ∈ s.gifts, g.who ≠ .reeve s.cur) →
      (pa / 8 ∉ s.mem.empties →
        Ends ld s (s.me.setG d (BitVec.ofNat 64 (leNat (s.mem.read pa 8)))) (s.me.pc + 4) fun t =>
          (∀ b, t.mem.byte b = s.mem.byte b) ∧ t.mem.tags = s.mem.tags ∧ t.launches = s.launches ∧
          ∀ w, w ∈ t.mem.empties ↔ w ∈ s.mem.empties ∨ x = true ∧ w = pa / 8) ∧
      (pa / 8 ∈ s.mem.empties → (∀ w ∈ s.waiters, w.who ≠ .reeve s.cur) →
        exec ld s = .next (({ s with
          waiters := s.waiters ++ [{ word := pa / 8, who := .reeve s.cur, consume := x }] } : State).setReeve s.cur
            { s.me with wait := some (.ldsyn (pa / 8)) }))) ∧
    (c = 0 → (x = true → Still s) → (∀ ea, checkCapAt k off none 1 clSyncStore = .ok ea → Gives fe s s.me (s.me.pc + 4))) ∧
    (2 ^ 37 ≤ c → s.me.superv = false →
      TakesTrap fe s { code := .capBounds, addr := BitVec.ofNat 64 (k.base * 256 + off) }) ∧
    (0 < c → c < 2 ^ 37 → access s s.acx k off (8 * c) 8 clSyncStore rW = .ok (.phys pa) → (x = true → Still s) →
      ∃ u, Does fe s u s.me (s.me.pc + 4) ∧ (∀ b, u.mem.byte b = s.mem.byte b) ∧ u.mem.tags = s.mem.tags ∧
        u.mem.nonzero = s.mem.nonzero ∧ u.mem.bad = s.mem.bad ∧
        (x = true → SetsFull s u fun w => pa / 8 ≤ w ∧ w < pa / 8 + c) ∧
        (x = false → OnlyMem s u ∧ u.waiters = s.waiters ∧
          ∀ w, w ∈ u.mem.empties ↔ (pa / 8 ≤ w ∧ w < pa / 8 + c) ∨ w ∈ s.mem.empties))

/-- R254: ATOM, SWAP and CAS read the old value and write the new one in one step; a CAS that fails writes nothing.
R174, R254: an atomic on another package takes the old value that the peer answers, and waits while there is no
answer. -/
def Obligations.AtomicInstructions : Prop :=
  (∀ (s : State) (p : Guard) (d : GReg) (kc : KReg) (a b : GReg) (aop : BitVec 3) (pa : Nat),
     s.me.guard p = true → Quiet s →
     let k := s.me.kr kc
     let off : Nat := k.offset + (s.me.gr a).toNat
     access s s.acx k off 8 8 clAtomic rA = .ok (.phys pa) → s.mem.badAt pa 8 = false →
     let old : W64 := BitVec.ofNat 64 (leNat (s.mem.read pa 8))
     let y := s.me.gr b
     let result : W64 := (([old + y, if old.toInt ≤ y.toInt then old else y, if old.toInt ≤ y.toInt then y else old,
       BitVec.ofNat 64 (min old.toNat y.toNat), BitVec.ofNat 64 (max old.toNat y.toNat), old &&& y, old ||| y,
       old ^^^ y] : List W64)[aop.toNat]?).getD 0
     let writes (i : Instr) (v : W64) : Prop := Ends i s (s.me.setG d old) (s.me.pc + 4) fun t =>
       t.mem.read pa 8 = leBytes 8 v.toNat ∧ (∀ c, c < pa ∨ pa + 8 ≤ c → t.mem.byte c = s.mem.byte c) ∧
       pa / 16 ∉ t.mem.tags ∧ t.mem.empties = s.mem.empties
     writes (.atom p d kc a b aop) result ∧ writes (.swap p d kc a b) y ∧
     (old = s.me.gr d → writes (.cas p d kc a b) y) ∧
     (old ≠ s.me.gr d → Ends (.cas p d kc a b) s (s.me.setG d old) (s.me.pc + 4) fun t => SameMem s.mem t.mem)) ∧
  (∀ (s : State) (p : Guard) (d : GReg) (kc : KReg) (a b : GReg) (aop : BitVec 3) (pa ea : Nat) (m : Bool),
     s.me.guard p = true → Quiet s →
     let k := s.me.kr kc
     let off : Nat := k.offset + (s.me.gr a).toNat
     access s s.acx k off 8 8 clAtomic rA = .ok (.peer pa ea m) →
     ∀ x ∈ ([(.atom p d kc a b aop, .atomic aop.toNat (s.me.gr b)), (.swap p d kc a b, .atomic 8 (s.me.gr b)),
         (.cas p d kc a b, .cas (s.me.gr d) (s.me.gr b))] : List (Instr × PeerOp)),
       (∀ g, s.peerIn.find? (fun g => g.who == .reeve s.cur && g.addr == pa && g.op == x.2) = some g →
         g.down = false → ∀ bs, g.ans = .done bs →
         Ends x.1 s (s.me.setG d (BitVec.ofNat 64 (leNat bs))) (s.me.pc + 4) fun t => t.mem = s.mem) ∧
       (s.peerIn.find? (fun g => g.who == .reeve s.cur && g.addr == pa && g.op == x.2) = none →
         (s.peerOut.any fun q => q.who == .reeve s.cur && q.addr == pa && q.op == x.2 && q.wants) = true →
         Waits x.1 s .memory))

/-- R168, R255: a RED of an integer operation or FMAX to spaces 0, 4 and 5 may rest in the combining buffer, where
this model lets it rest (log 25): as a new entry, or joined to an entry of its word and operation; an entry of its word and
of another operation, or the oldest of 64, is evicted first. An FADD, and any to space 1, goes out at once, after the
entries of its word, and returns nothing: to memory, into the window of its granary slice while that takes its token
(R170), or to the other package. R165, R256: a FENCE
changes nothing once its reductions are performed; one of scope 6 or 7 waits for this reeve's accesses to other
packages and raises LINK where one was not acknowledged. -/
def Obligations.ReductionsAndFences : Prop :=
  (∀ (s : State) (p : Guard) (kc : KReg) (a b : GReg) (aop : BitVec 3) (pa : Nat), s.me.guard p = true →
     let i : Instr := .red p kc a b aop
     let k := s.me.kr kc
     let off : Nat := k.offset + (s.me.gr a).toNat
     let n := if aop = 6 ∨ aop = 7 then 4 else 8
     let y := (s.me.gr b).toNat % 2 ^ (8 * n)
     let low : Bool := n = 8 ∨ pa % 8 < 4
     let high : Bool := n = 8 ∨ 4 ≤ pa % 8
     let new (old : Nat) : Nat :=
       let oldI := (BitVec.ofNat 64 old).toInt
       let yI := (BitVec.ofNat 64 y).toInt
       (([(old + y) % 2 ^ 64, if oldI ≤ yI then old else y, if oldI ≤ yI then y else old, old &&& y, old ||| y,
         old ^^^ y, (roundFP32 (Machine.Num.add (unpackF fp32 old) (unpackF fp32 y))).toNat,
         (roundFP32 (numMax (unpackF fp32 old) (unpackF fp32 y))).toNat] : List Nat)[aop.toNat]?).getD 0
     let entry (space ea : Nat) (m : Bool) : Comb :=
       { space := space, addr := pa - pa % 8, op := aop.toNat + 1
         val := BitVec.ofNat 64 (if low then y else y * 2 ^ 32), lo := low, hi := high
         ea := ea - pa % 8, mapped := m }
     let keeps (u : State) (l : List Comb) : Prop := ∃ t, exec i s = .next t ∧
       RetiresMem u t { u.me with comb := l } (u.me.pc + 4) ∧ t.mem = u.mem
     let rests (c : Comb) : Prop :=
       let word (d : Comb) : Bool := d.space == c.space && d.addr == c.addr
       let mine (d : Comb) : Bool := word d && d.op == c.op
       (s.me.comb.any word = false → s.me.comb.length < 64 → keeps s (s.me.comb ++ [c])) ∧
       (∀ d, s.me.comb.find? mine = some d → keeps s (s.me.comb.map fun x => if mine x then d.join c else x)) ∧
       (s.me.comb.any word = true → s.me.comb.any mine = false → ∀ u, flushComb s s.cur word = .ok u →
         u.me.comb.length < 64 → keeps u (u.me.comb ++ [c])) ∧
       (∀ d rest u, s.me.comb = d :: rest → s.me.comb.any word = false → 64 ≤ s.me.comb.length →
         flushComb s s.cur (· == d) = .ok u → keeps u (u.me.comb ++ [c])) ∧
       ∀ d : Comb, let z := d.join c
         (n = 8 → z = { d with val := BitVec.ofNat 64 (new d.val.toNat) }) ∧
         (n = 4 → z.lo = (d.lo || low) ∧ z.hi = (d.hi || high) ∧
           (low = true → z.val.toNat % 2 ^ 32 = if d.lo then new (d.val.toNat % 2 ^ 32) else y) ∧
           (high = true → z.val.toNat / 2 ^ 32 = if d.hi then new (d.val.toNat / 2 ^ 32) else y))
     let l := access s s.acx k off n n clReduce rA
     (l = .ok (.phys pa) → aop ≠ 6 → k.space ≠ 1 → rests (entry 0 (k.base * 256 + off) (k.space = 0))) ∧
     (∀ ea m, l = .ok (.peer pa ea m) → aop ≠ 6 → k.space ≠ 1 → rests (entry 5 ea m)) ∧
     (l = .ok (.phys pa) → aop = 6 ∨ k.space = 1 → ∀ u, flushComb s s.cur (·.under (.phys pa) n) = .ok u →
       (isGranary pa = false → u.mem.badAt pa n = false →
         ∃ t, exec i s = .next t ∧ RetiresMem u t u.me (u.me.pc + 4) ∧
           t.mem.read pa n = leBytes n (new (leNat (u.mem.read pa n))) ∧
           (∀ c, c < pa ∨ pa + n ≤ c → t.mem.byte c = u.mem.byte c)) ∧
       (isGranary pa = true →
         let w := mgetD u.windows (pa % 2 ^ 48 / 2 ^ 27) []
         (windowTakes w u.nextId = true → ∃ t, exec i s = .next t ∧
           t.me = { u.me with pc := u.me.pc + 4, wait := none, issued := none } ∧ t.mem = u.mem ∧
           t.windows = mset u.windows (pa % 2 ^ 48 / 2 ^ 27) (w ++ [
             { srcs := [.reeve s.cur], tok := u.nextId, ordered := false, addr := pa, n := n, op := aop.toNat + 1
               val := BitVec.ofNat 64 y, round := 0, idx := 0, full := true, ctx := u.me.ctx, vf := u.me.vf
               launch := u.me.launch }])) ∧
         (windowTakes w u.nextId = false → Waits i s .memory))) ∧
     (∀ ea m, l = .ok (.peer pa ea m) → aop = 6 → ∀ u, flushComb s s.cur (·.under (.peer pa ea m) n) = .ok u →
       ∃ t, exec i s = .next t ∧ t.me = { u.me with pc := u.me.pc + 4, wait := none, issued := none } ∧ t.mem = u.mem ∧
         t.peerOut = u.peerOut ++ [
           { id := u.nextId, who := .reeve s.cur, port := pa / 2 ^ 41 % 48, addr := pa
             op := .reduce 7 (BitVec.ofNat 64 y), wants := false, ctx := u.me.ctx, vf := u.me.vf, ea := ea, mapped := m
             part := false }]) ∧
     (∀ u (under : Comb → Bool), under = (·.under (.phys pa) n) → l = .ok (.phys pa) → aop = 6 ∨ k.space = 1 →
       flushComb s s.cur under = .error (.keep u .memory) → exec i s = .next (u.updMe fun r => { r with wait := some .memory }))) ∧
  (∀ (s : State) (p : Guard) (sets : BitVec 4) (scope : BitVec 3), s.me.guard p = true → Quiet s →
     let far := 6 ≤ scope.toNat
     let owed : Bool := s.peerOut.any (·.who == .reeve s.cur)
     let lost : Bool := s.lost.contains (.reeve s.cur)
     (¬ far ∨ (owed = false ∧ lost = false) → Gives (.fence p sets scope) s s.me (s.me.pc + 4)) ∧
     (far → owed = true → Waits (.fence p sets scope) s .memory) ∧
     (far → owed = false → lost = true → s.me.superv = false → ∃ t, exec (.fence p sets scope) s = .next t ∧
       t.me.ecause = 0x31D ∧ t.me.eaddr = 0 ∧ t.me.epc = s.me.pc ∧ t.me.pc = s.me.tvec ∧ t.me.superv = true ∧
       t.me.g = s.me.g ∧ t.mem = s.mem ∧ t.lost.contains (.reeve s.cur) = false))

/-! ### Capabilities -/

/-- R120, R247: the instructions that read a capability, tagged or not, and CCLR and CMOV. R247: CINC, CSETO, CINCI
and CANDP on a tagged unsealed capability, and the faults of the others: an untagged one raises CAP_TAG, a sealed one
CAP_SEAL, an offset outside 0 to 2^40 − 1 CAP_BOUNDS, all with EADDR 0 (R249). -/
def Obligations.CapabilityReadsAndMoves : Prop :=
  (∀ (s : State) (p : Guard) (d : GReg) (q : PReg) (e a : KReg), s.me.guard p = true →
     let c := s.me.kr a
     let x := c.bits.toNat
     WritesG (.cgetb p d a) s d (BitVec.ofNat 64 (x / 2 ^ 40 % 2 ^ 48 * 256)) ∧
     WritesG (.cgetl p d a) s d (BitVec.ofNat 64 ((x / 2 ^ 88 % 2 ^ 18 + 1) * 2 ^ (x / 2 ^ 106 % 32))) ∧
     WritesG (.cgeto p d a) s d (BitVec.ofNat 64 (x % 2 ^ 40)) ∧
     WritesG (.cgetp p d a) s d (BitVec.ofNat 64 (x / 2 ^ 114 % 2 ^ 10)) ∧
     WritesG (.cgets p d a) s d
       (BitVec.ofNat 64 (x / 2 ^ 111 % 8 + x / 2 ^ 124 * 16 + if c.tag then 256 else 0)) ∧
     WritesP (.ctest p q a) s q c.tag ∧
     WritesK (.cclr p a) s a { c with tag := false } ∧
     WritesK (.cmov p e a) s e c) ∧
  (∀ (s : State) (p : Guard) (d a : KReg) (b : GReg) (imm : BitVec 12), s.me.guard p = true →
     let c := s.me.kr a
     let x := c.bits.toNat
     let g := s.me.gr b
     let all : List Instr := [.cinc p d a b, .cseto p d a b, .candp p d a b, .cinci p d a imm]
     let moves : List (Instr × Int) :=
       [(.cinc p d a b, c.offset + g.toInt), (.cseto p d a b, g.toNat), (.cinci p d a imm, c.offset + imm.toInt)]
     (c.tag = true → c.otype = 0 →
       (∀ m ∈ moves, 0 ≤ m.2 → m.2 < 2 ^ 40 →
         WritesK m.1 s d ⟨BitVec.ofNat 128 (x / 2 ^ 40 * 2 ^ 40 + m.2.toNat), true⟩) ∧
       (s.me.superv = false → ∀ m ∈ moves, (m.2 < 0 ∨ 2 ^ 40 ≤ m.2) → TakesTrap m.1 s { code := .capBounds }) ∧
       WritesK (.candp p d a b) s d ⟨BitVec.ofNat 128 (x / 2 ^ 124 * 2 ^ 124 +
         (x / 2 ^ 114 % 2 ^ 10 &&& g.toNat % 2 ^ 10) * 2 ^ 114 + x % 2 ^ 114), true⟩) ∧
     (c.tag = false → s.me.superv = false → ∀ i ∈ all, TakesTrap i s { code := .capTag }) ∧
     (c.tag = true → c.otype ≠ 0 → s.me.superv = false → ∀ i ∈ all, TakesTrap i s { code := .capSeal }))

/-- R248: CSETB gives the smallest exponent that fits, keeps address, space, permissions and tag, and refuses bounds
outside the source's or a window of its space. R249: CSEAL and CUNSEAL under a sealing capability, with their checks
in order. -/
def Obligations.BoundsAndSealing : Prop :=
  (∀ (s : State) (p : Guard) (d a : KReg) (b : GReg) (e : Nat), s.me.guard p = true →
     let c := s.me.kr a
     let n := (s.me.gr b).toNat
     let addr := c.base * 256 + c.offset
     let m := addr % 256 + n
     let units (e : Nat) := (m + 2 ^ e - 1) / 2 ^ e
     let lo := addr / 256 * 256
     let len := units e * 2 ^ e
     c.tag = true → c.otype = 0 →
     (n = 0 → s.me.superv = false → TakesTrap (.csetb p d a b) s { code := .capBounds }) ∧
     (n ≠ 0 → e < 32 → units e ≤ 262144 → (∀ f, f < e → 262144 < units f) →
       (boundsOk c.space lo len = false → s.me.superv = false →
         TakesTrap (.csetb p d a b) s { code := .capSpace }) ∧
       (boundsOk c.space lo len = true → ¬ (c.base * 256 ≤ lo ∧ lo + len ≤ c.base * 256 + c.length) →
         s.me.superv = false → TakesTrap (.csetb p d a b) s { code := .capBounds }) ∧
       (boundsOk c.space lo len = true → c.base * 256 ≤ lo → lo + len ≤ c.base * 256 + c.length →
         WritesK (.csetb p d a b) s d (Cap.make true 0 c.perms c.space e (units e - 1) (addr / 256) (addr % 256)))) ∧
     (n ≠ 0 → 262144 < units 31 → s.me.superv = false → TakesTrap (.csetb p d a b) s { code := .capBounds })) ∧
  (∀ (s : State) (p : Guard) (d a b : KReg), s.me.guard p = true →
     let c := s.me.kr a
     let k := s.me.kr b
     let t := k.offset
     let keyed := k.tag = true ∧ k.otype = 0 ∧ k.perms / 512 % 2 = 1 ∧ 1 ≤ t ∧ t ≤ 15 ∧ t + 1 ≤ k.length
     let typed (o : Nat) : Cap := ⟨BitVec.ofNat 128 (o * 2 ^ 124 + c.bits.toNat % 2 ^ 124), true⟩
     let both (f : Trap) : Prop := TakesTrap (.cseal p d a b) s f ∧ TakesTrap (.cunseal p d a b) s f
     (c.tag = true → c.otype = 0 → keyed → WritesK (.cseal p d a b) s d (typed t)) ∧
     (c.tag = true → c.otype ≠ 0 → keyed → t = c.otype → WritesK (.cunseal p d a b) s d (typed 0)) ∧
     (s.me.superv = false →
       (c.tag = false → both { code := .capTag }) ∧
       (c.tag = true → c.otype ≠ 0 → TakesTrap (.cseal p d a b) s { code := .capSeal }) ∧
       (c.tag = true → c.otype = 0 → TakesTrap (.cunseal p d a b) s { code := .capSeal }) ∧
       ∀ i ∈ ([if c.otype = 0 then .cseal p d a b else .cunseal p d a b] : List Instr), c.tag = true →
         (k.tag = false → TakesTrap i s { code := .capTag }) ∧
         (k.tag = true → k.otype ≠ 0 → TakesTrap i s { code := .capSeal }) ∧
         (k.tag = true → k.otype = 0 → k.perms / 512 % 2 = 0 → TakesTrap i s { code := .capPerm }) ∧
         (k.tag = true → k.otype = 0 → k.perms / 512 % 2 = 1 → (t < 1 ∨ 15 < t ∨ k.length < t + 1) →
           TakesTrap i s { code := .capBounds })) ∧
     (s.me.superv = false → c.tag = true → c.otype ≠ 0 → keyed → t ≠ c.otype →
       TakesTrap (.cunseal p d a b) s { code := .capSeal }))

/-- R121: none of the instructions that derive capabilities produces a tagged one that breaks the conditions on bounds
and windows, or that reaches beyond the bounds, or holds more permissions, than some tagged one that was there. -/
def Obligations.DerivedCapabilitiesKeepTheirBounds : Prop :=
  ∀ (s t : State) (p : Guard) (d a : KReg) (q : KReg) (b : GReg) (imm : BitVec 12) (i : Instr),
    i ∈ ([.csetb p d a b, .cinc p d a b, .cseto p d a b, .candp p d a b, .cclr p d, .cmov p d a, .cseal p d a q,
      .cunseal p d a q, .cinci p d a imm] : List Instr) →
    (∀ j, (s.me.kr j).tag = true → boundsOk (s.me.kr j).space ((s.me.kr j).base * 256) (s.me.kr j).length = true) →
    exec i s = .next t →
    ∀ j, (t.me.kr j).tag = true →
      boundsOk (t.me.kr j).space ((t.me.kr j).base * 256) (t.me.kr j).length = true ∧
      ∃ o, (s.me.kr o).tag = true ∧ (s.me.kr o).space = (t.me.kr j).space ∧
        (s.me.kr o).base ≤ (t.me.kr j).base ∧
        (t.me.kr j).base * 256 + (t.me.kr j).length ≤ (s.me.kr o).base * 256 + (s.me.kr o).length ∧
        (t.me.kr j).perms &&& (s.me.kr o).perms = (t.me.kr j).perms

/-! ### Tags, rings, streams and ports -/

/-- R100, R182, step 1 of R179: what an issue does to a tag or a ring before its transfer starts. R265: the
instructions on copy tags; dead tags are never waited for. R180, R182, R266: the ring instructions; RREL on a ring
that no Thresher session fills now; one of a ring that a session has filled sets NOREPLAY (R386). -/
def Obligations.TagsAndRings : Prop :=
  (∀ (r : Reeve) (n : Nat),
     stepOne r 0 n = .ok (r, .none) ∧ stepOne r 3 n = .ok (r, .full) ∧
     (n < 64 → r.tbusy.getLsbD n = true → stepOne r 1 n = .error (.trap { code := .tagBusy })) ∧
     (n < 64 → r.tbusy.getLsbD n = false → stepOne r 1 n = .ok ({ r with
       tbits := BitVec.ofFnLE fun i : Fin 64 => if i.val = n then false else r.tbits.getLsbD i
       tbusy := BitVec.ofFnLE fun i : Fin 64 => if i.val = n then true else r.tbusy.getLsbD i }, .tag n)) ∧
     let x := r.ring n
     (x.init = false ∨ (x.rsv - x.rp).toNat = 2 ^ x.lsize → stepOne r 2 n = .error (.trap { code := .ringFault })) ∧
     (x.init = true → (x.rsv - x.rp).toNat ≠ 2 ^ x.lsize →
       stepOne r 2 n = .ok (r.setRing n { x with rsv := x.rsv + 1 }, .ring n x.rsv))) ∧
  (∀ (s : State) (p : Guard) (d a : GReg), s.me.guard p = true →
     let m := s.me.gr a
     let set (i : Nat) : Bool := s.me.tbits.getLsbD i && m.getLsbD i
     let busy (i : Nat) : Bool := s.me.tbusy.getLsbD i && m.getLsbD i
     let found : W64 := BitVec.ofFnLE fun i : Fin 64 => set i
     let done := (List.range 64).any set || !(List.range 64).any busy
     (done = true → WritesG (.twaitany p d a) s d found) ∧
     (done = false → Waits (.twaitany p d a) s (.anyTag m)) ∧
     ((List.range 64).any busy = false → Gives (.twaitall p a) s s.me (s.me.pc + 4)) ∧
     ((List.range 64).any busy = true → Waits (.twaitall p a) s (.tags m)) ∧
     WritesG (.tfirst p d a) s d (BitVec.ofNat 64 (((List.range 64).find? set).getD 64)) ∧
     Gives (.tclr p a) s
       { s.me with tbits := BitVec.ofFnLE fun i : Fin 64 => s.me.tbits.getLsbD i && !m.getLsbD i } (s.me.pc + 4) ∧
     WritesG (.tread p d) s d s.me.tbits) ∧
  (∀ (s : State) (p : Guard) (d a : GReg) (n : BitVec 4), s.me.guard p = true →
     let x := s.me.ring n.toNat
     let v := (s.me.gr a).toNat
     let z := v % 32
     let held := (x.wp - x.rp).toNat
     let fits := 1 ≤ z ∧ z ≤ 16 ∧ x.rsv = x.wp
     let fault (i : Instr) : Prop := s.me.superv = false → TakesTrap i s { code := .ringFault }
     (fits → Gives (.rinit p n a) s
       (s.me.setRing n.toNat { init := true, lsize := z, rp := 0, wp := 0, rsv := 0, done := [] }) (s.me.pc + 4)) ∧
     (¬ fits → fault (.rinit p n a)) ∧
     (x.init = true → v ≤ held → v ≤ 2 ^ x.lsize → WritesG (.rawait p d a n) s d (BitVec.ofNat 64 held)) ∧
     (x.init = true → held < v → v ≤ 2 ^ x.lsize → Waits (.rawait p d a n) s (.ring n.toNat v)) ∧
     (x.init = false ∨ 2 ^ x.lsize < v → fault (.rawait p d a n)) ∧
     (x.init = true → v ≤ held → ringSession s s.cur n.toNat = none →
       Does (.rrel p a n) s (if x.feed then markDirty s s.me.launch else s)
         (s.me.setRing n.toNat { x with rp := x.rp + BitVec.ofNat 32 v }) (s.me.pc + 4)) ∧
     (x.init = false ∨ held < v → fault (.rrel p a n)) ∧
     WritesG (.rstat p d n) s d (if x.init then BitVec.ofNat 64 (x.wp.toNat * 2 ^ 32 + x.rp.toNat) else 0))

/-- R179, R257: an SSPEC whose checks pass takes its tag or ring entry and queues its specification on the port, as
one transfer in flight of the reeve. R179, R211, R264: an SCOPY whose checks pass takes its tag or ring entry; one of no
bytes completes at once, with its crier record, another is a transfer in flight of the reeve. -/
def Obligations.StreamAndCopyIssue : Prop :=
  (∀ (s : State) (p : Guard) (port : BitVec 4) (kd kp : KReg) (ga : GReg) (comp : BitVec 2) (dir : Bool) (tag : BitVec 6)
     (tid : BitVec 8) (red : BitVec 4) (cls : BitVec 3),
     s.me.guard p = true → Still s → s.me.issued = none → s.me.xfers.length < 64 →
     (s.sport s.cur port.toNat).pending.length < 4 →
     let k := s.me.kr kd
     let d := portDecl s s.cur port.toNat
     declUsed d = true → declDir d = dir → (checkCapAt k k.offset none 1 (streamClass dir red.toNat)).isOk = true →
     ∀ v, reeveBlock s (s.me.kr kp) ((s.me.kr kp).offset + (s.me.gr ga).toNat : Nat) 48 16 clLoad = .ok v →
     let sp := patternSpec v.1
     patternOk v.1 sp = true → (declCtrl d = true → sp.esize ≤ 3) →
     (red = 0 ∨ sp.esize = if red = 7 ∨ red = 8 then 2 else 3) →
     ∀ ds, takeDesc s s.me.ctx tid.toNat = .ok ds → ∀ rc, stepOne s.me comp.toNat tag.toNat = .ok rc →
     ∃ t, exec (.sspec p port kd kp ga comp dir tag tid red cls) s = .next t ∧ t.me.pc = s.me.pc + 8 ∧
       t.me.tbits = rc.1.tbits ∧ t.me.tbusy = rc.1.tbusy ∧ t.me.rings = rc.1.rings ∧ t.me.g = s.me.g ∧ t.me.k = s.me.k ∧
       t.me.xfers = mset s.me.xfers s.me.nextX { kind := .stream port.toNat, comp := rc.2, cls := cls } ∧
       t.me.nextX = s.me.nextX + 1 ∧
       (t.sport s.cur port.toNat).pending = (s.sport s.cur port.toNat).pending ++
         [{ sp with xid := s.me.nextX, cap := k, desc := ds, red := red.toNat, cls := cls, dir := dir, comp := rc.2 }] ∧
       (∀ h, h ≠ s.cur → t.reeve h = s.reeve h) ∧ ∀ a, t.mem.byte a = s.mem.byte a) ∧
  (∀ (s : State) (p : Guard) (kd ks : KReg) (gn : GReg) (comp : BitVec 2) (tag : BitVec 6) (tid : BitVec 8)
     (red : BitVec 4) (cls : BitVec 3),
     s.me.guard p = true → Still s → s.me.issued = none → s.me.xfers.length < 64 →
     let src := s.me.kr ks
     let dst := s.me.kr kd
     let n := (s.me.gr gn).toNat
     let z := if red = 7 ∨ red = 8 then 4 else 8
     ∀ sa, checkCapAt src src.offset none 1 clLoad.engine = .ok sa →
     ∀ da, checkCapAt dst dst.offset none 1 (streamClass true red.toNat) = .ok da →
     (n ≠ 0 → src.offset + n ≤ src.length ∧ dst.offset + n ≤ dst.length ∧
       (src.space ≠ dst.space ∨ da + n ≤ sa ∨ sa + n ≤ da)) →
     (red ≠ 0 → sa % z = 0 ∧ da % z = 0 ∧ n % z = 0) →
     ∀ ds, takeDesc s s.me.ctx tid.toNat = .ok ds → ∀ rc, stepOne s.me comp.toNat tag.toNat = .ok rc →
     let i : Instr := .scopy p kd ks gn comp tag tid red cls
     (n = 0 → Ends i s (rc.1.signal rc.2) (s.me.pc + 8) fun t =>
       t.mem = (crierAt s s.me.launch 1 s.cur 0 0 (BitVec.ofNat 8 rc.2.byte :: List.replicate 8 0)).mem) ∧
     (n ≠ 0 → Ends i s { rc.1 with
         nextX := s.me.nextX + 1
         xfers := mset s.me.xfers s.me.nextX
           { kind := .copy, comp := rc.2, cls, src, dst, len := n, red := red.toNat, desc := ds } } (s.me.pc + 8) fun t => t.mem = s.mem))

/-- R267: SBAR never stalls the reeve but for COND, which waits for the members of its mask; the later members wait
for the earlier ones of their class. R24, R268, R269: INJECT, MARKP and DRAIN on a port that carries streams in their
direction and is free, PSTAT, and the refusals of the others. R25, R178: INJECT and MARKP wait to open a round that lies
2,048 past an open one, and a token of a foreign context is dropped. A DRAIN of a poisoned token raises the fault of the
context's poison record, and the token stays. -/
def Obligations.BarriersOfStreamsAndPorts : Prop :=
  (∀ (s : State) (p : Guard) (a : GReg), s.me.guard p = true →
     let mask : BitVec 16 := (s.me.gr a).truncate 16
     let puts (i : Instr) (kind : Nat) : Prop := ∃ bars, Gives i s { s.me with sbars := bars } (s.me.pc + 4) ∧
       ((∃ x ∈ s.me.xfers, x.1 < s.me.nextX ∧ x.2.member mask = true) →
         ({ kind := kind, mask := mask, upto := s.me.nextX } : SBar) ∈ bars) ∧ ∀ b ∈ bars, b ∈ s.me.sbars ∨
         b = { kind := kind, mask := mask, upto := s.me.nextX }
     puts (.sbarOrder p a) 0 ∧ puts (.sbarConfig p a) 1 ∧ puts (.sbarMemphase p a) 2 ∧
     ((∀ x ∈ s.me.xfers, x.2.member mask = false) → Gives (.sbarCond p a) s s.me (s.me.pc + 4)) ∧
     ((∃ x ∈ s.me.xfers, x.2.member mask = true) → Waits (.sbarCond p a) s .sbar) ∧
     ∀ (xid : Nat) (x : Xfer) (b : SBar) (y : Nat × Xfer), b ∈ s.me.sbars → b.upto ≤ xid → x.member b.mask = true →
       y ∈ s.me.xfers → y.1 < b.upto → y.2.cls = x.cls → y.2.member b.mask = true → sentEos s s.cur y.1 y.2 = false →
       barred s s.cur xid x = true) ∧
  (∀ (s : State) (p : Guard) (n : BitVec 4) (d a : GReg), s.me.guard p = true → Still s →
     let q := s.sport s.cur n.toNat
     let w := portDecl s s.cur n.toNat
     let placed := (cellOfHam s s.cur 15).isSome = true
     let v := (s.me.gr a).toNat
     let tag : W64 := BitVec.ofNat 64 (s.me.ctx % 2 ^ 10 * 2 ^ 54 + s.me.unit % 2 ^ 18 * 2 ^ 36 +
       q.round % 2 ^ 12 * 2 ^ 24 + q.sent % 2 ^ 24)
     let sent := (q.sent + 1) % 2 ^ 24
     let idle := q.cur = none ∧ q.pending = []
     let free := idle ∧ q.buf.length < 16
     let sends (i : Instr) (q' : SPort) : Prop := Does i s (s.setSport s.cur n.toNat q') s.me (s.me.pc + 4)
     let rejects (i : Instr) (sub : Nat) : Prop := s.me.superv = false → TakesTrap i s { code := .cfgReject, sub := sub }
     (∀ x, cellOfHam s s.cur 15 = some x → declUsed w = true → declDir w = false → q.eosSent = false → free →
       let held := q.sent = 0 ∧ roundHeld s x.1 q.round = true
       let own := (nodeOwner s x.1).2.1 = s.me.ctx
       (¬ held → own →
         (declCtrl w = true → sends (.inject p n a) { q with
           buf := q.buf ++ [{ kind := .data, data := BitVec.ofNat 512 v, mask := 1, tag := tag }]
           sent := sent, idx := (q.idx + 1) % 2 ^ 24 }) ∧
         (v % 8 = 2 → sends (.markp p n a) { q with
           buf := q.buf ++ [{ kind := .eod (v / 8 % 4), tag := tag }], sent := sent }) ∧
         (v % 8 = 3 → sends (.markp p n a) { q with
           buf := q.buf ++ [{ kind := .eor, tag := tag }], round := (q.round + 1) % 4096, idx := 0, sent := 0 }) ∧
         (v % 8 = 4 → sends (.markp p n a) { q with
           buf := q.buf ++ [{ kind := .eos, tag := tag }], sent := sent, eosSent := true })) ∧
       (held → (declCtrl w = true → Waits (.inject p n a) s .output) ∧ (v % 8 = 3 → Waits (.markp p n a) s .output)) ∧
       (¬ held → ¬ own →
         (declCtrl w = true → Does (.inject p n a) s (dropForeign s x.1) s.me (s.me.pc + 4)) ∧
         (v % 8 = 3 → Does (.markp p n a) s (dropForeign s x.1) s.me (s.me.pc + 4)))) ∧
     (placed → declUsed w = true → declDir w = false → q.eosSent = false → ¬ free →
       (declCtrl w = true → Waits (.inject p n a) s .output) ∧
       (v % 8 = 3 → Waits (.markp p n a) s .output)) ∧
     (placed → declUsed w = true → declDir w = false → q.eosSent = true → declCtrl w = true → s.me.superv = false →
       TakesTrap (.inject p n a) s { code := .rateMismatch }) ∧
     (placed → declUsed w = true → declDir w = false → declCtrl w = false → rejects (.inject p n a) 3) ∧
     (placed → declUsed w = true → declDir w = false → v % 8 = 0 → rejects (.markp p n a) 1) ∧
     (placed → declUsed w = true → declDir w = true → idle → ∀ t rest, q.buf = t :: rest →
       (t.poison = false → Does (.drain p d n) s
         (s.setSport s.cur n.toNat { q with buf := rest, lastp := false, lastk := t.kind.code })
         (s.me.setG d (if t.kind = .data ∨ t.kind = .control then t.data.truncate 64 else 0)) (s.me.pc + 4)) ∧
       (t.poison = true → s.me.superv = false → ∀ x f, mget s.ctxs s.me.ctx = some x → x.poison = some f →
         (f.code.replays = false → TakesTrap (.drain p d n) s f) ∧
         ∃ u, exec (.drain p d n) s = .next u ∧ u.me.ecause.toNat % 256 = f.code.num ∧ u.me.epc = s.me.pc +
           (if f.code = .user then 4 else 0) ∧ u.me.pc = s.me.tvec ∧ u.me.g = s.me.g ∧ u.ports = s.ports)) ∧
     (placed → declUsed w = true → declDir w = true → q.buf = [] → Waits (.drain p d n) s .input) ∧
     (¬ placed ∨ declUsed w = false → rejects (.inject p n a) 10 ∧ rejects (.markp p n a) 10 ∧ rejects (.drain p d n) 10) ∧
     (placed → declUsed w = true → declDir w = true → rejects (.inject p n a) 10 ∧ rejects (.markp p n a) 10) ∧
     (placed → declUsed w = true → declDir w = false → rejects (.drain p d n) 10) ∧
     (¬ placed → WritesG (.pstat p d n) s d 0) ∧
     (placed → WritesG (.pstat p d n) s d (BitVec.ofNat 64 (q.xfer.toNat * 2 ^ 32 + q.round % 4096 * 2 ^ 16 +
       (if declUsed w then 2 ^ 15 else 0) + (if declCtrl w then 2 ^ 14 else 0) + (if q.lastp then 2 ^ 13 else 0) +
       q.lastk * 2 ^ 10 + (if declDir w then 2 ^ 9 else 0) + (if q.cur.isSome then 2 ^ 8 else 0) +
       q.pending.length * 2 ^ 5 + q.buf.length))))

/-! ### Graphs, launches, descriptors and engines -/

/-- R37, R270, R391: CFGLD reads and checks its image, asks the pager and waits; once a page is placed it writes the
handle, or takes the fault of the placement. R38, R270, R272, R396, R400: the instructions on a loaded graph, by its
handle. R273: the answers of a QSWEEP that sweeps: 0 where the graph has not come to rest, 2 where EOS has reached every
sink, 1 where it is quiescent and a condition of a deadlock does not hold, 3 and the number of entries where two sweeps
found a deadlock of the launch's region, with all its graphs (R388; DEDUCED, log 30); until the second sweep is due it
waits. -/
def Obligations.GraphInstructions : Prop :=
  (∀ (s : State) (p : Guard) (d : GReg) (a : KReg), s.me.guard p = true →
     let k := s.me.kr a
     let i : Instr := .cfgld p d a
     let rest : State := s.updMe fun r => { r with placed := none, asking := false }
     (s.me.asking = true → ∀ h, s.me.placed = some (.inl h) →
       Does i s rest (rest.me.setG d (BitVec.ofNat 64 h)) (s.me.pc + 4)) ∧
     (s.me.asking = true → s.me.placed = none → Waits i s .output) ∧
     (s.me.asking = true → s.me.superv = false → ∀ f, f.code.replays = false → s.me.placed = some (.inr f) →
       ∃ t, exec i s = .next t ∧ Traps rest t f) ∧
     (s.me.asking = false → Still s → (checkCapAt k k.offset (some 64) 256 clConfigure).isOk = true →
       ∀ v, parseImage (imageReader s.acx k) 0 s = .ok v → ∀ l, v.2.launchOf s.me.launch = some l →
       placeCheck v.2 l v.1 = .ok () → (freeHandle v.2 s.me.launch).isSome = true →
       ∃ t, exec i s = .next t ∧
         t.me = { s.me with asking := true, placed := none, wait := some .output } ∧
         mget t.places v.2.nextId =
           some { launch := s.me.launch, hamlet := s.cur, graph := { v.1 with cap := k }, claim := [] })) ∧
  (∀ (s : State) (p : Guard) (d a b : GReg), s.me.guard p = true →
     let v := (s.me.gr a).toNat
     let rejects (i : Instr) : Prop := s.me.superv = false → TakesTrap i s { code := .cfgReject, sub := 11 }
     (handleInst s s.me.launch v = none →
       rejects (.cfgrel p a) ∧ rejects (.cfgqry p d a b) ∧ rejects (.cfgstart p a) ∧ rejects (.cfggate p a b) ∧
       rejects (.qsweep p d a)) ∧
     ∀ x, handleInst s s.me.launch v = some x →
       let owed := (graphInsts s.insts.length s x.1).any (repliesOwed s)
       let same := sharing s x.2
       let refused := same.any fun y => y.2.gated && instRefused y.2
       let starts (i : Instr) : Prop :=
         ((∀ y ∈ same, y.2.gated = false) → Gives i s s.me (s.me.pc + 4)) ∧
         (refused = true → s.me.superv = false → TakesTrap i s { code := .cfgReject, sub := 1 }) ∧
         (refused = false → Still s → ∃ t, exec i s = .next t ∧ t.me.pc = s.me.pc + 4 ∧ t.me.g = s.me.g ∧
           ∀ y ∈ same, ∃ z, t.inst y.1 = some z ∧ z.gated = false)
       (owed = true → Waits (.cfgrel p a) s .memory) ∧
       (owed = false → ∃ t, exec (.cfgrel p a) s = .next t ∧ t.me.pc = s.me.pc + 4 ∧ t.me.g = s.me.g ∧
         t.inst x.1 = none) ∧
       ((s.me.gr b).getLsbD 63 = true → ∀ l, s.launchOf x.2.launch = some l →
         WritesG (.cfgqry p d a b) s d (BitVec.ofNat 64 (1 + (if x.2.gated then 2 else 0) +
           (if x.2.quiescent then 4 else 0) + (if x.2.complete then 8 else 0) + (if x.2.deadlocked then 16 else 0) +
           l.fcode.num * 2 ^ 8 + l.fsub % 256 * 2 ^ 16 + callDepth s.insts.length s x.1 % 128 * 2 ^ 32))) ∧
       ((s.me.gr b).getLsbD 63 = false → ∀ l, s.launchOf x.2.launch = some l →
         WritesG (.cfgqry p d a b) s d (match x.2.hams[(s.me.gr b).toNat % 8192]? with
           | some h => BitVec.ofNat 64 (2 ^ 15 + (homeRel s l.vf x.2.launch h).1 % 8 * 2 ^ 8 +
               (homeRel s l.vf x.2.launch h).2 % 128)
           | none => 0)) ∧
       starts (.cfgstart p a) ∧ ((s.me.gr b).getLsbD 0 = false → starts (.cfggate p a b)) ∧
       ((s.me.gr b).getLsbD 0 = true → (∀ y ∈ same, y.2.gated = true ∧ y.2.plane = .active ∧ s.inst y.1 = some y.2) →
         Gives (.cfggate p a b) s s.me (s.me.pc + 4)) ∧
       ((s.me.gr b).getLsbD 0 = true → same = [x] → s.inst x.1 = some x.2 → x.2.gated = false → x.2.plane = .active →
         x.2.call = none →
         ∃ t, exec (.cfggate p a b) s = .next t ∧ ∃ z, t.inst x.1 = some z ∧
           (settled s x.1 = true → t.me.pc = s.me.pc + 4 ∧ z.gated = true ∧ z.plane = .active) ∧
           (settled s x.1 = false → t.me.pc = s.me.pc ∧ t.me.wait = some .gate ∧ z.plane = .freezing))) ∧
  (∀ (s : State) (p : Guard) (d a : GReg), s.me.guard p = true →
     ∀ x, handleInst s s.me.launch (s.me.gr a).toNat = some x → ∀ l, s.launchOf s.me.launch = some l →
       let is := (graphInsts s.insts.length s x.1).filterMap fun j => (s.inst j).map fun y => (j, y)
       let region := launchInsts s s.me.launch
       let again := s.me.sweepAt.isSome = true
       let rests (y : Nat × Inst) := idleInst s y.1 y.2 = true ∧ (again → y.2.acts = mgetD s.me.sweepSaw y.1 0)
       let idle := ∀ y ∈ is, rests y
       let quiet := ∀ y ∈ is, quietInst s y.1 y.2 = true
       let eos := ∀ y ∈ is, allEos s y.2 = true
       let dead := deadConds s s.me.launch l (some s.cur) = true ∧ ∀ y ∈ region, rests y
       let open_ := ∃ y ∈ region, allEos s y.2 = false
       let due := ∀ c, s.me.sweepAt = some c → sweepGap ≤ (s.cycle - c).toNat
       let ends (n : Nat) (t : State) : Prop := exec (.qsweep p d a) s = .next t ∧ t.me.pc = s.me.pc + 4 ∧
         t.me.g = (s.me.setG d (BitVec.ofNat 64 n)).g ∧ t.me.sweepAt = none ∧ t.me.k = s.me.k ∧ t.mem = s.mem
       let answers (n : Nat) : Prop := ∃ t, ends n t
       let goesOn : Prop := ∃ t, exec (.qsweep p d a) s = .next t ∧ t.me.pc = s.me.pc ∧ t.me.g = s.me.g ∧
         t.me.wait = some (.qsweep (s.me.gr a).toNat) ∧ t.mem = s.mem
       (sweepsOff s s.me.launch l = true → goesOn) ∧
       (sweepsOff s s.me.launch l = false →
         (¬ due → Waits (.qsweep p d a) s (.qsweep (s.me.gr a).toNat)) ∧
         (due →
           (¬ idle → answers 0) ∧
           (idle → quiet → eos → answers 2) ∧
           (idle → quiet → ¬ eos → ¬ dead → answers 1) ∧
           (idle → again → ¬ (quiet ∧ eos) → open_ → dead → ∃ t l', ends (3 + l'.deadlist.length * 256) t ∧
             t.launchOf s.me.launch = some l' ∧ l'.deadlist.length ≤ 32 ∧ l'.notes.getLsbD 2 = true ∧
             (l.fcode = .none → l'.fcode = .deadlock)) ∧
           (idle → ¬ (quiet ∧ eos) → ¬ (quiet ∧ ¬ dead) → ¬ (again ∧ open_ ∧ dead) → goesOn))))

/-- R97, R199, R274: LAUNCH reads its block, its arguments and its code capability, and queues a launch of the reeve's
context under the next LAUNCHID, with the class and QoS of PRIO; a full device queue raises LAUNCH_BLOCK. R275: LWAIT
writes the status of a launch of the context that is complete, and all ones for a LAUNCHID that names no known launch;
for another launch it waits. -/
def Obligations.LaunchInstructions : Prop :=
  (∀ (s : State) (p : Guard) (d : GReg) (a : KReg), s.me.guard p = true → Quiet s →
     let k := s.me.kr a
     let c := s.ctxOf s.me.ctx
     ∀ v, reeveBlock s k k.offset 64 256 clConfigure = .ok v → lpbBad v.1 = false →
     let b := lpbOf v.1
     b.count < 2 ^ 24 →
     ∀ w, (if b.nargs = 0 then .ok ([], v.2) else
       (checkCapAt k (k.offset + 0x40) (some (16 * b.nargs)) 16 clConfigureCap).bind fun ea =>
         (settleSpan v.2 s.acx s.cur k.space 2 ea (16 * b.nargs)).bind fun u =>
           readCaps u s.acx k.space ea b.nargs) = .ok w →
     ∀ ea, checkCapAt k (k.offset + 0x10) (some 16) 16 clConfigureCap = .ok ea →
     ∀ u, readCaps w.2 s.acx k.space ea 1 = .ok u →
     (c.devq.length ≥ 64 → s.me.superv = false → ∃ t, exec (.launch p d a) s = .next t ∧
       t.me.ecause = BitVec.ofNat 64 Code.launchBlock.num ∧ t.me.pc = s.me.tvec) ∧
     (c.devq.length < 64 → Still s → ∃ t, exec (.launch p d a) s = .next t ∧ t.me.pc = s.me.pc + 4 ∧
       t.me.g = (s.me.setG d (c.launchSerial.zeroExtend 64)).g ∧ t.me.k = s.me.k ∧
       (t.ctxOf s.me.ctx).launchSerial = nextSerial c.launchSerial ∧
       ∃ l, mget t.launches s.nextId = some l ∧ l.ctx = s.me.ctx ∧ l.vf = s.me.vf ∧ l.lid = c.launchSerial ∧
         l.args = w.1 ∧ l.lpb = { b with
           code := u.1.getD 0 Cap.null, pclass := s.me.prio.toNat % 4, qos := s.me.prio.toNat / 16 % 16 } ∧
         (b.count ≠ 0 → l.st = .queued ∧ (t.ctxOf s.me.ctx).devq = c.devq ++ [s.nextId]) ∧
         (b.count = 0 → l.st = .complete ∧ (t.ctxOf s.me.ctx).devq = c.devq.filter (· ≠ s.nextId)))) ∧
  (∀ (s : State) (p : Guard) (d a : GReg), s.me.guard p = true →
     let v := s.me.gr a
     let known := if v.toNat < 2 ^ 32 then knownLaunch s s.me.ctx s.me.launch (field v 0 32) else none
     (known = none → WritesG (.lwait p d a) s d 0xFFFFFFFFFFFFFFFF) ∧
     ∀ l, known = some l →
       (l.st = .complete → WritesG (.lwait p d a) s d
         (BitVec.ofNat 64 (l.replays.toNat * 2 ^ 16 + l.fsub % 256 * 2 ^ 8 + l.fcode.num))) ∧
       (l.st ≠ .complete → Waits (.lwait p d a) s .lwait))

/-- R276, R277: BAR arrives once in a phase; the last arrival ends it and every waiter goes on with p := 0; a barrier broken
in an earlier cycle gives 1, while in the cycle of the break a last arrival still ends the phase (R277). R189, R191, R279: TIDSET writes a checked entry whole, with the tag of its first granule; TIDGET stores it
back in four granules, of TID 0 zero bytes; TIDINV clears it; a TID out of range raises CFG_REJECT, subcode FORMAT. -/
def Obligations.BarAndDescriptorInstructions : Prop :=
  (∀ (s : State) (p : Guard) (d : PReg) (scope : BitVec 3) (arrive : Bool), s.me.guard p = true → Still s →
     ∀ l, s.launchOf s.me.launch = some l →
     let i : Instr := .bar p d scope arrive
     let key := barKey scope.toNat s.cur
     let b := barOf l key
     let last := (participants s l b.key).length ≤ (sadd b.arrived s.cur).length
     let ends (x : Bool) (b' : Barrier) : Prop := ∃ t, exec i s = .next t ∧ t.me.pc = s.me.pc + 4 ∧
       t.me.p = (s.me.setP d x).p ∧ t.me.barWait = none ∧ t.me.g = s.me.g ∧
       t.launchOf s.me.launch = some (setBar l b')
     let ended : Prop := b.broken = true ∧ (b.brokenAt ≠ s.cycle ∨ ¬ last)
     (s.me.barWait = none → ended → Gives i s { s.me.setP d true with barWait := none } (s.me.pc + 4)) ∧
     (s.me.barWait = none → ¬ ended → s.cur ∈ b.arrived → Waits i s .bar) ∧
     (s.me.barWait = none → ¬ ended → s.cur ∉ b.arrived →
       (last → ends false { b with arrived := [], phase := b.phase + 1 }) ∧
       (¬ last → arrive = true → ends false { b with arrived := sadd b.arrived s.cur }) ∧
       (¬ last → arrive = false → ∃ t, exec i s = .next t ∧
         t.me = { s.me with barWait := some (b.key, b.phase), wait := some .bar } ∧
         t.launchOf s.me.launch = some (setBar l { b with arrived := sadd b.arrived s.cur }))) ∧
     ∀ w, s.me.barWait = some w →
       let b' := barOf l w.1
       (b'.phase ≠ w.2 → Gives i s { s.me.setP d false with barWait := none } (s.me.pc + 4)) ∧
       (b'.phase = w.2 → b'.broken = true → b'.brokenAt ≠ s.cycle →
         Gives i s { s.me.setP d true with barWait := none } (s.me.pc + 4)) ∧
       (b'.phase = w.2 → b'.broken = false ∨ b'.brokenAt = s.cycle → Waits i s .bar)) ∧
  (∀ (s : State) (p : Guard) (a : GReg) (b : KReg) (pa : Nat), s.me.guard p = true → Quiet s →
     let v := (s.me.gr a).toNat
     let k := s.me.kr b
     let entry (t : State) (tid : Nat) : Desc := tidEntry t s.me.ctx tid
     let rejects (i : Instr) : Prop := s.me.superv = false → TakesTrap i s { code := .cfgReject, sub := 1 }
     (v = 0 ∨ 255 < v → rejects (.tidset p a b) ∧ rejects (.tidinv p a)) ∧
     (255 < v → rejects (.tidget p a b)) ∧
     (1 ≤ v → v ≤ 255 →
       (∃ t, exec (.tidinv p a) s = .next t ∧
         t.me = { s.me with pc := s.me.pc + 4, wait := none, issued := none } ∧
         entry t v = { bits := 0, tag := false } ∧ (∀ n, n ≠ v → entry t n = entry s n) ∧ t.mem = s.mem) ∧
       ∀ w, reeveBlock s k k.offset 64 16 clCapLoad = .ok w → ∀ l, locate w.2 s.acx k.space k.addr rR = .ok l →
       ∀ c, loadCapLoc w.2 s.acx l = .ok c →
       let e : Desc := { bits := BitVec.ofNat 512 (leNat w.1), tag := c.1.tag }
       (c.1.tag = true → c.1.otype = 0 → descOk v e = true → ∃ t, exec (.tidset p a b) s = .next t ∧
         t.me = { s.me with pc := s.me.pc + 4, wait := none, issued := none } ∧
         entry t v = e ∧ (∀ n, n ≠ v → entry t n = entry s n)) ∧
       (s.me.superv = false → ∃ t, exec (.tidset p a b) s = .next t ∧
         (c.1.tag = false → t.me.ecause = BitVec.ofNat 64 Code.capTag.num) ∧
         (c.1.tag = true → c.1.otype ≠ 0 → t.me.ecause = BitVec.ofNat 64 Code.capSeal.num) ∧
         (c.1.tag = true → c.1.otype = 0 → descOk v e = false →
           t.me.ecause = BitVec.ofNat 64 (Code.cfgReject.num + 256)))) ∧
     (v ≤ 255 →
       let e := if v = 0 then { bits := 0, tag := false } else entry s v
       ∀ ea, checkCapAt k k.offset (some 64) 16 clCapStore = .ok ea →
       (e.tag = true → k.space = 0 → permsIn pGL e.base.perms = true) →
       (∀ n, n < 4 → locate s s.acx k.space (ea + 16 * n) (rW ||| rT) = .ok (.phys (pa + 16 * n))) → isHost pa = false →
       ∃ t, exec (.tidget p a b) s = .next t ∧
         t.me = { s.me with pc := s.me.pc + 4, wait := none, issued := none } ∧
         (∀ n, n < 64 → t.mem.byte (pa + n) = field e.bits (8 * n) 8) ∧
         (∀ n, n < 4 → (pa / 16 + n ∈ t.mem.tags ↔ n = 0 ∧ e.tag = true)) ∧
         ∀ x, x < pa ∨ pa + 64 ≤ x → t.mem.byte x = s.mem.byte x))

/-- R278, R327, R328: an ENGINE instruction whose checks pass takes its tag or ring entry, takes the context's next
handle, writes it to g[d], and starts one transfer that stands for the command. R345: MTASK ATTACH adds a queue for
the descriptor and completes at once; APPEND adds its records to the queue; DETACH closes it, and completes at once
where no record is issued. A nonzero index where the completion names none, or a ring above 15, is CFG_REJECT, subcode
FORMAT; a command whose engine is not ready, or whose Drover runs 16 walks, stalls with its handle taken; a CLOSE of an
unknown handle completes at once with STATE 3 and CFG_REJECT. That threshClose and the three MTASK constructors act by the
op in g[b], whatever the constructor's name, is the model's choice (DEDUCED, log 8). -/
def Obligations.EngineInstructions : Prop :=
  (∀ (s : State) (p : Guard) (d : GReg) (a : KReg) (b : GReg), s.me.guard p = true → Still s →
     s.me.issued = none → s.me.xfers.length < 64 → mget s.cmds s.nextId = none →
     (∀ x ∈ s.cmds, x.2.eng = .threshClose → (mget s.cmds x.2.queue).isSome = true) →
     let k := s.me.kr a
     let v := (s.me.gr b).toNat
     let comp := v % 4
     let idx := v / 4 % 64
     let n := if comp = 2 then idx % 16 else idx
     ∀ ea, checkCapAt k k.offset none 1 clLoad.engine = .ok ea → ea % 64 = 0 → permsIn pST k.perms = true →
     ∀ rc, stepOne s.me comp n = .ok rc →
     let indexed : Prop := (comp = 2 → idx < 16) ∧ (comp = 0 ∨ comp = 3 → idx = 0)
     let h := (s.ctxOf s.me.ctx).engSerial
     let goes (i : Instr) (eng : Eng) (size : Nat) (chk : State → Cmd → Except Stop (State × Cmd)) : Prop :=
       ∀ bs, capBlock s s.acx k k.offset size 1 clLoad.engine = .ok bs →
       let c0 : Cmd := {
         eng := eng, hamlet := s.cur, xid := 0, ctx := s.me.ctx, vf := s.me.vf, launch := s.me.launch, handle := 0
         cap := k, block := bs.1, arg := v / 256, descs := [] }
       ∀ c, chk bs.2 c0 = .ok c →
       (¬ indexed → s.me.superv = false → TakesTrap i s { code := .cfgReject, sub := 1 }) ∧
       (indexed → engBusy c.1 c.2 = true → ∃ t, exec i s = .next t ∧
         t.me = { rc.1 with issued := some (.cmd { c.2 with handle := h } rc.2), wait := some .output } ∧
         t.cmds = s.cmds ∧ (t.ctxOf s.me.ctx).engSerial = nextSerial h ∧ t.mem.bytes = s.mem.bytes) ∧
       (indexed → engBusy c.1 c.2 = false → c.2.eng = .threshClose → c.2.queue = 0 → mget s.cmds 0 = none →
         ∃ u, mget u.cmds s.nextId = some { c.2 with handle := h, xid := s.me.nextX } ∧ u.mem.bytes = s.mem.bytes ∧
           u.me.xfers = mset s.me.xfers s.me.nextX { kind := .engine s.nextId, comp := rc.2, cls := 0 } ∧
           exec i s = .next (finishCmd u s.nextId { c.2 with handle := h, xid := s.me.nextX } { st := 3, fc := 0x12 })) ∧
       (indexed → engBusy c.1 c.2 = false → (c.2.eng = .threshClose → (mget s.cmds c.2.queue).isSome = true) →
       ∃ t, exec i s = .next t ∧ t.me.pc = s.me.pc + 4 ∧ t.me.g = (s.me.setG d (h.zeroExtend 64)).g ∧ t.me.k = s.me.k ∧
         t.me.tbits = rc.1.tbits ∧ t.me.tbusy = rc.1.tbusy ∧
         t.me.rings = (if c.2.eng = .threshOpen then rc.1.setRing (c.2.fld 0x23 1 % 16)
           { rc.1.ring (c.2.fld 0x23 1 % 16) with feed := true } else rc.1).rings ∧
         mget t.cmds s.nextId = some { c.2 with handle := h, xid := s.me.nextX } ∧
         (c.2.eng = .threshClose → ∀ o, mget s.cmds c.2.queue = some o →
           mget t.cmds c.2.queue = some { o with sess := { o.sess with closing := true } }) ∧
         t.me.xfers = mset s.me.xfers s.me.nextX { kind := .engine s.nextId, comp := rc.2, cls := 0 } ∧
         (t.ctxOf s.me.ctx).engSerial = nextSerial h ∧ t.mem.bytes = s.mem.bytes)
     goes (.drove p d a b) .drove 192 checkDrove ∧ goes (.pinbin p d a b) .pinbin 64 (checkPinfold false) ∧
     goes (.pinpair p d a b) .pinpair 64 (checkPinfold true) ∧ goes (.mpath p d a b) .mpath 64 checkMpath ∧
     goes (.threshOpen p d a b) .threshOpen 64 checkThresh ∧ goes (.threshClose p d a b) .threshOpen 64 checkThresh) ∧
  (∀ (s : State) (p : Guard) (d : GReg) (a : KReg) (b : GReg), s.me.guard p = true → Still s →
     s.me.issued = none → s.me.xfers.length < 64 →
     (∀ x ∈ s.cmds, x.2.eng ≠ .mtaskAttach ∧ x.2.eng ≠ .mtaskAppend ∧ x.2.eng ≠ .mtaskDetach) →
     let k := s.me.kr a
     let v := (s.me.gr b).toNat
     let op := v / 256 % 256
     ∀ ea, checkCapAt k k.offset none 1 clLoad.engine = .ok ea → ea % 64 = 0 → permsIn pST k.perms = true →
     v % 256 = 0 →
     ∀ bs, capBlock s s.acx k k.offset 64 1 clLoad.engine = .ok bs →
     let c0 : Cmd := {
       eng := .mtaskAttach, hamlet := s.cur, xid := 0, ctx := s.me.ctx, vf := s.me.vf, launch := s.me.launch, handle := 0
       cap := k, block := bs.1, arg := v / 256, descs := [] }
     let tid := c0.fld 0x20 1
     ∀ c, checkMtask bs.2 c0 = .ok c → engBusy c.1 c.2 = false → cmdLive s c0 = true →
     let h := (s.ctxOf s.me.ctx).engSerial
     let q0 : MQueue := {
       shire := hamShireG s.cur, ctx := s.me.ctx, vf := s.me.vf, launch := s.me.launch, tid := tid
       desc := tidEntry s s.me.ctx tid, size := (tidEntry s s.me.ctx tid).count 0, hamlet := s.cur }
     ∀ i ∈ ([.mtaskAttach p d a b, .mtaskAppend p d a b, .mtaskDetach p d a b] : List Instr),
       ∃ t, exec i s = .next t ∧ t.me.pc = s.me.pc + 4 ∧ t.me.g = (s.me.setG d (h.zeroExtend 64)).g ∧
         (op = 0 → mget t.mqueues (s.nextId + 1) = some q0 ∧ mget t.me.xfers s.me.nextX = none) ∧
         (op = 1 → ∀ q, queueOf s (hamShireG s.cur) s.me.ctx tid = some q →
           let rs := (List.range (c0.fld 0x28 4)).map fun j => (c0.fld 0x24 4 + j) % q.2.size
           (∃ q', mget t.mqueues q.1 = some q' ∧ q'.waiting = q.2.waiting ++ rs ∧ q'.issued = q.2.issued) ∧
           (rs ≠ [] → mget t.me.xfers s.me.nextX = some { kind := .engine s.nextId, comp := .none, cls := 0 }) ∧
           (rs = [] → mget t.me.xfers s.me.nextX = none)) ∧
         (op = 2 → ∀ q, queueOf s (hamShireG s.cur) s.me.ctx tid = some q →
           (q.2.issued = [] → mget t.mqueues q.1 = none ∧ mget t.me.xfers s.me.nextX = none) ∧
           (q.2.issued ≠ [] → mget t.mqueues q.1 = some { q.2 with closing := true } ∧
             mget t.me.xfers s.me.nextX = some { kind := .engine s.nextId, comp := .none, cls := 0 })))

/-! ### Actors -/

/-- R285, R297: the integer instructions work lane by lane on the lanes that are valid in both operands, at the width
of the element type, with imm16 in place of B under the flag IMM; poison of an operand goes to the result. -/
def Obligations.ActorIntegers : Prop :=
  ∀ (s : State) (n : NodeRef) (f : Firing) (o : ActorOp) (a b : Val), Running s n f o → f.has 0 a →
    let w := etyWidth o.t
    let sg := o.t = 0 ∨ o.t = 4 ∨ o.t = 5
    let int (x : Nat) : Int := if sg then sgn w x else x
    let lo : Int := if sg then -(2 ^ (w - 1)) else 0
    let hi : Int := if sg then 2 ^ (w - 1) - 1 else 2 ^ w - 1
    let wrap (x : Int) : Nat := (x % 2 ^ w).toNat
    let two (i : ActorOp → Instr) (g : Nat → Nat → Nat) : Prop :=
      (o.flags.getLsbD 0 = false → f.has 1 b) → (o.flags.getLsbD 0 = true → b = immVal o.t o.imm) →
      Yields (i o) o s n ((map2 w g a b).tainted (a.poison || b.poison))
    let one (i : ActorOp → Instr) (g : Nat → Nat) : Prop := Yields (i o) o s n ((map1 w g a).tainted a.poison)
    two .iadd (fun x y => wrap (int x + int y)) ∧ two .isub (fun x y => wrap (int x - int y)) ∧
    two .imul (fun x y => wrap (int x * int y)) ∧ two .imulh (fun x y => wrap (int x * int y / 2 ^ w)) ∧
    two .iand (fun x y => x &&& y) ∧ two .ior (fun x y => x ||| y) ∧ two .ixor (fun x y => x ^^^ y) ∧
    two .ishl (fun x y => if w ≤ y then 0 else x * 2 ^ y % 2 ^ w) ∧
    two .ishr (fun x y => if w ≤ y then 0 else x / 2 ^ y) ∧
    two .isar (fun x y => wrap (sgn w x / 2 ^ (if w ≤ y then w else y))) ∧
    two .imin (fun x y => if int x ≤ int y then wrap (int x) else wrap (int y)) ∧
    two .imax (fun x y => if int x ≤ int y then wrap (int y) else wrap (int x)) ∧
    one .iabs (fun x => wrap (int x).natAbs) ∧ one .ineg (fun x => wrap (-(x : Int))) ∧
    two .isatadd (fun x y => wrap (max lo (min hi (int x + int y)))) ∧
    two .isatsub (fun x y => wrap (max lo (min hi (int x - int y))))

/-- R61, R298: the floating-point instructions compute exactly on the lanes, and round once to FP32 or BF16. -/
def Obligations.ActorFloats : Prop :=
  ∀ (s : State) (n : NodeRef) (f : Firing) (o : ActorOp) (a b c : Val), Running s n f o → f.has 0 a →
    let w := etyWidth o.t
    let fmt : FFmt := if o.t = 3 then bf16 else fp32
    let down := o.m = 3
    let un (x : Nat) : Machine.Num := unpackF fmt x
    let one (i : ActorOp → Instr) (g : Machine.Num → Machine.Num) : Prop :=
      Yields (i o) o s n ((map1 w (fun x => packF fmt 0 (g (un x))) a).tainted a.poison)
    let two (i : ActorOp → Instr) (g : Machine.Num → Machine.Num → Machine.Num) : Prop := f.has 1 b →
      Yields (i o) o s n ((map2 w (fun x y => packF fmt o.m (g (un x) (un y))) a b).tainted (a.poison || b.poison))
    two .fadd (fun x y => Machine.Num.addM down x y) ∧ two .fsub (fun x y => Machine.Num.addM down x y.neg) ∧
    two .fmul Machine.Num.mul ∧ two .fmin numMin ∧ two .fmax numMax ∧
    (f.has 1 b → f.has 2 c → Yields (.ffma o) o s n ((map3 w (fun x y z =>
      packF fmt o.m (Machine.Num.addM down (Machine.Num.mul (un x) (un y)) (un z))) a b c).tainted
        (a.poison || b.poison || c.poison))) ∧
    one .fabs Machine.Num.abs ∧ one .fneg Machine.Num.neg ∧ one .frcp Machine.frcp ∧ one .frsq Machine.frsq ∧
    one .fexp2 Machine.fexp2 ∧ one .flog2 Machine.flog2 ∧ one .ftanh Machine.ftanh ∧
    one .fsinpi Machine.fsinpi ∧ one .fcospi Machine.fcospi ∧ one .frnd (numRnd o.flags.toNat)

/-- R299: compares, SEL, and the predicates of lanes. R82, R300, R301: conversions, packing, and the instructions that
move lanes or fold them. R69, R305: the video instructions. That PAND, POR, PNOT, ANYL, ALLL and the SEL of two
predicates work on as many lanes as operand A's width gives is the model's choice (log 54, DEDUCED). -/
def Obligations.ActorLanes : Prop :=
  (∀ (s : State) (n : NodeRef) (f : Firing) (o : ActorOp) (a b c : Val), Running s n f o → f.has 0 a →
     let w := etyWidth o.t
     let v := a.width
     let ab := a.poison || b.poison
     let imm := o.flags.getLsbD 0
     let both {α β γ : Type} (g : α → β → γ) (x : Option α) (y : Option β) : Option γ :=
       x.bind fun x => y.map fun y => g x y
     let cmp (b : Val) : Val :=
       Val.ofPreds w ((a.lanes w).zipWith (both (laneCmp o.t o.auxb.toNat)) (b.lanes w))
     let ab2 (g : Bool → Bool → Bool) : Val := (Val.ofPreds v ((a.preds v).zipWith (both g) (b.preds v))).tainted ab
     (imm = true → Yields (.icmp o) o s n ((cmp (immVal o.t o.imm)).tainted a.poison)) ∧
     (imm = false → f.has 1 b → Yields (.icmp o) o s n ((cmp b).tainted ab)) ∧
     (f.has 1 b → Yields (.fcmp o) o s n ((cmp b).tainted ab)) ∧
     (o.t ≠ 7 → f.has 1 b → f.has 2 c → Yields (.sel o) o s n
       ((Val.ofList w (((a.lanes w).zip (b.lanes w)).zipWith (fun p z => z.bind fun z => if z then p.1 else p.2)
         (c.preds w))).tainted (ab || c.poison))) ∧
     (o.t = 7 → f.has 1 b → f.has 2 c → Yields (.sel o) o s n
       ((Val.ofPreds v (((a.preds v).zip (b.preds v)).zipWith (fun p z => z.bind fun z => if z then p.1 else p.2)
         (c.preds v))).tainted (ab || c.poison))) ∧
     (f.has 1 b → Yields (.actorPand o) o s n (ab2 and)) ∧ (f.has 1 b → Yields (.actorPor o) o s n (ab2 or)) ∧
     Yields (.actorPnot o) o s n ((Val.ofPreds v ((a.preds v).map (Option.map not))).tainted a.poison) ∧
     Yields (.anyl o) o s n
       ((Val.ofPreds v (List.replicate (512 / v) (some ((a.preds v).any (· = some true))))).tainted a.poison) ∧
     Yields (.alll o) o s n
       ((Val.ofPreds v (List.replicate (512 / v) (some ((a.preds v).all (· ≠ some false))))).tainted a.poison)) ∧
  (∀ (s : State) (n : NodeRef) (f : Firing) (o : ActorOp) (a b : Val), Running s n f o → f.has 0 a →
     let w := etyWidth o.t
     let k := 512 / w
     let la := a.lanes w
     let ab := a.poison || b.poison
     let f0 := o.flags.getLsbD 0
     let f1 := o.flags.getLsbD 1
     let gives (i : ActorOp → Instr) (v : Val) (poison : Bool) : Prop := Yields (i o) o s n (v.tainted poison)
     let low (x : Val) (w k : Nat) (g : Nat → Nat) : List (Option Nat) := ((x.lanes w).take k).map (Option.map g)
     let gone (k : Nat) : List (Option Nat) := List.replicate k none
     let live := la.filterMap id
     gives .cvtfi (map1 32 (cvtfi o.m) a) a.poison ∧ gives .cvtif (map1 32 (cvtif o.m) a) a.poison ∧
     (f0 = true → gives .cvtfb (Val.ofList 16 (low a 32 16 (cvtfb o.m) ++ gone 16)) a.poison) ∧
     (f0 = false → f.has 1 b →
       gives .cvtfb (Val.ofList 16 (low a 32 16 (cvtfb o.m) ++ low b 32 16 (cvtfb o.m))) ab) ∧
     gives .cvtbf (Val.ofList 32 ((((a.lanes 16).drop (if f0 then 16 else 0)).take 16).map
       (Option.map fun v => if v / 128 % 256 = 255 ∧ v % 128 ≠ 0 then 0x7FC00000 else v * 65536))) a.poison ∧
     (f1 = true → gives .pack (Val.ofList w (low a (2 * w) (k / 2) (packLane o.t f0) ++ gone (k / 2))) a.poison) ∧
     (f1 = false → f.has 1 b → gives .pack
       (Val.ofList w (low a (2 * w) (k / 2) (packLane o.t f0) ++ low b (2 * w) (k / 2) (packLane o.t f0))) ab) ∧
     gives .unpack (Val.ofList w ((((a.lanes (w / 2)).drop (if f0 then k else 0)).take k).map
       (Option.map (unpackLane o.t f1)))) a.poison ∧
     (f.has 1 b → gives .shuf
       (Val.ofList w ((b.lanes w).map fun y => y.bind fun y => la.getD (y % k) none)) ab) ∧
     gives .bcast (Val.ofList w (List.replicate k (la.getD (o.imm.toNat % k) none))) a.poison ∧
     gives .rotl (Val.ofList w ((List.range k).map fun e => la.getD ((e + (k - o.imm.toNat % k)) % k) none)) a.poison ∧
     gives .rsum (Val.ofList w (some ((foldLanes o.t o.m 0 live).getD 0) :: gone (k - 1))) a.poison ∧
     gives .rmax (Val.ofList w (foldLanes o.t 0 1 live :: gone (k - 1))) a.poison ∧
     gives .rmin (Val.ofList w (foldLanes o.t 0 2 live :: gone (k - 1))) a.poison ∧
     gives .scan (Val.ofList w (scanGo o.t o.m o.flags.toNat none la)) a.poison ∧
     gives .compact (Val.ofList w (live.map some ++ gone (k - live.length))) a.poison ∧
     (f.has 1 b → gives .expand (Val.ofList w (expandGo (b.preds w) la)) ab)) ∧
  (∀ (s : State) (n : NodeRef) (f : Firing) (o : ActorOp) (a b c : Val), Running s n f o → f.has 0 a →
     let gives (i : ActorOp → Instr) (v : Val) (poison : Bool) : Prop := Yields (i o) o s n (v.tainted poison)
     let scan : List Nat := [0, 1, 4, 8, 5, 2, 3, 6, 9, 12, 13, 10, 7, 11, 14, 15]
     let la := a.lanes o.w
     let half (x : Nat) : Int := if o.flags.getLsbD 0 then sgn 16 (x / 65536) else sgn 16 x
     let const (i : Nat) : Machine.Num := ofFP32 ((mget f.ctab (132 * o.auxb.toNat + i)).getD 0)
     gives .mvsplit (map1 32 (fun x =>
       ((if o.flags.getLsbD 1 then half x % 4 else half x / 4) % 2 ^ 32).toNat) a) a.poison ∧
     gives .qpscale (map1 32 (fun x => packF fp32 0 (qpScale (max 0 (min 63 (sgn 32 x))).toNat)) a) a.poison ∧
     gives .zigzag (Val.ofList o.w ((List.range (512 / o.w)).map fun e =>
       la.getD (e / 16 * 16 + if o.flags.getLsbD 0 then scan.getD (e % 16) 0
         else (scan.findIdx? (· = e % 16)).getD 0) none)) a.poison ∧
     (f.has 1 b → f.has 2 c → gives .erracc (map3 32 (fun x y z =>
       let t := rn (Machine.Num.add (unpackF fp32 x) (const (min 63 (y % 256))))
       let u := rn (Machine.Num.mul (const 128)
         ((Machine.Num.ofInt ((y / 2 ^ 8 % 4 + y / 2 ^ 10 % 4 : Nat) : Int)).scale (-2)))
       let v := rn (Machine.Num.mul (const 129) (unpackF fp32 z))
       (roundFP32 (Machine.Num.add (rn (Machine.Num.add t u)) v)).toNat) a b c) (a.poison || b.poison || c.poison)))

/-- R225, R288, R289: where a value goes: an operand slot, the staged slot PEND of an output port within the port's
rate (beyond it RATE_MISMATCH), an h or a q register; an absent value fills operand slots only. R288: an instruction
is absent where its guard does not hold, or slot P or an operand slot that it reads is absent: its targets get the
absent value, and nothing else happens. R289, R296: the port and state instructions. -/
def Obligations.ActorValuesAndPorts : Prop :=
  (∀ (s : State) (n : NodeRef) (f : Firing) (tw : BitVec 11) (v : Val), (s.slotAt n).firing = some f →
     let kind := tw.toNat / 2 ^ 9
     let idx := tw.toNat / 4 % 128
     let puts (x : Option Val) (g : Firing) : Prop := deliverTo s n tw x = .ok (s.updFiring n fun _ => g)
     let at_ := 16 * idx + mgetD f.pend (4 + idx) 0
     (kind = 0 → ∀ x, deliverTo s n tw x = .ok s) ∧
     (kind = 1 → ∀ x, puts x { f with ops := mset f.ops (4 * idx + tw.toNat % 4) x }) ∧
     (2 ≤ kind → deliverTo s n tw none = .ok s) ∧
     (kind = 2 → mgetD f.pend (4 + idx) 0 < (s.slotAt n).rateOut f.close idx → ∃ t,
       puts (some v) { f with
         staged := mset f.staged at_ t
         tagOver := mdel f.tagOver at_
         pend := mset f.pend (4 + idx) (mgetD f.pend (4 + idx) 0 + 1) } ∧
       t.kind = .data ∧ t.poison = v.poison ∧
       ((s.slotAt n).outCtrl idx = false →
         t.data = (v.to (s.slotAt n).width).data ∧ t.mask = (v.to (s.slotAt n).width).mask) ∧
       ((s.slotAt n).outCtrl idx = true → 
         t.data = v.low.zeroExtend 512 ∧ t.mask = if v.lowValid 64 then 1 else 0)) ∧
     (kind = 2 → (s.slotAt n).rateOut f.close idx ≤ mgetD f.pend (4 + idx) 0 →
       deliverTo s n tw (some v) = .error (.trap { code := .rateMismatch })) ∧
     (kind = 3 → idx < 16 → puts (some v) { f with hw := mset f.hw idx ⟨v.data, v.poison⟩ }) ∧
     (kind = 3 → 16 ≤ idx →
       puts (some v) { f with qw := mset f.qw (idx - 16) ⟨v.low.zeroExtend 512, v.poison⟩ })) ∧
  (∀ (s : State) (n : NodeRef) (f : Firing) (i : Instr) (opc : Nat) (eff : Eff) (o : ActorOp),
     actorEff i = some (opc, eff, o) → s.focus = some n → s.nodeLive n = true → (s.cellAt n).kind = .actor →
     (s.slotAt n).firing = some f →
     (o.pred ≠ 0 → ∀ v, f.has 3 v → v.poison = false) →
     let gone (k : Nat) : Prop := opSlot f f.idx k = none ∨ opSlot f f.idx k = some none
     let bit (b : Bool) : Prop := ∃ v, f.has 3 v ∧ v.data.getLsbD 0 = b
     (o.pred = 1 ∧ (gone 3 ∨ bit false) ∨ o.pred = 2 ∧ (gone 3 ∨ bit true) ∨
       ∃ k, k < 3 ∧ (slotsRead opc o.flags.toNat).testBit k = true ∧ gone k) →
     ∀ t, deliverTo s n o.t0 none = .ok t → ∀ u, deliverTo t n o.t1 none = .ok u → exec i s = .next (u.goOn n false)) ∧
  (∀ (s : State) (n : NodeRef) (f : Firing) (o : ActorOp) (a b : Val), Running s n f o →
     let x := s.slotAt n
     let w := x.width
     let r := o.auxb.toNat
     let k := o.imm.toNat
     let all := fullMask w
     let gives (i : ActorOp → Instr) (v : Val) : Prop := Yields (i o) o s n v
     let does (i : ActorOp → Instr) (g : Firing) : Prop := Effects (i o) s n (s.updFiring n fun _ => g)
     let every (v : Nat) : Val := Val.ofList o.w (List.replicate (512 / o.w) (some v))
     let head (j : Nat) : Token := mgetD (x.port r).slots (((x.port r).head + j) % 16) { kind := .data }
     let room := x.rateOut f.close (r - 4)
     (f.close = false → gives .peek (tokenVal x r (head k))) ∧
     (f.close = true → gives .peek { data := 0, mask := 0, width := w }) ∧
     (f.close = false → does .adv { f with pend := mset f.pend r (mgetD f.pend r 0 + k) }) ∧
     (f.close = true → Effects (.adv o) s n s) ∧
     (f.has 0 a → k < room → Effects (.put o) s n (stage s n (r - 4) k a)) ∧
     (mgetD f.pend r 0 + k ≤ room → does .padv { f with pend := mset f.pend r (mgetD f.pend r 0 + k) }) ∧
     (let h := (mget x.h r).getD ⟨0, false⟩
      gives .hrd { data := h.val, mask := all, width := w, poison := h.poison }) ∧
     (let q := (mget x.q r).getD ⟨0, false⟩
      gives .qrd { data := q.val, mask := all, width := w, poison := q.poison }) ∧
     (f.has 0 a → does .hwr { f with hw := mset f.hw r ⟨a.data, a.poison⟩ }) ∧
     (f.has 0 a → does .qwr { f with qw := mset f.qw r ⟨a.low.zeroExtend 512, a.poison⟩ }) ∧
     (o.t = 0 → gives .const (every ((o.imm.signExtend 32).toNat))) ∧
     (o.t = 2 → gives .const (every (k * 65536))) ∧
     (o.t ≠ 0 → o.t ≠ 2 → gives .const (every (k % 2 ^ o.w))) ∧
     (f.has 0 a → gives .consth ((map1 32 (fun v => k * 65536 + v % 65536) a).tainted a.poison)) ∧
     gives .laneid (Val.ofList o.w ((List.range (512 / o.w)).map some)) ∧
     gives .tagrd { data := (if f.close then f.tag else (head k).tag).zeroExtend 512, mask := all, width := w } ∧
     gives .tagrdKind (Val.ofPreds w (List.replicate (512 / w) (some f.close))) ∧
     (f.has 0 a → gives .maskrd { data := a.mask.zeroExtend 512, mask := fullMask a.width, width := a.width
                                  pred := true, poison := a.poison }) ∧
     (f.has 0 a → f.has 1 b → ∃ v : Val, gives .maskset (v.tainted (a.poison || b.poison)) ∧
       v.mask = (b.to a.width).low &&& fullMask a.width ∧ v.width = a.width ∧ v.pred = a.pred ∧
       (a.pred = false → ∀ e, e < 512 / a.width → lane v.data a.width e =
         if v.mask.getLsbD e then lane a.data a.width e else 0) ∧
       (a.pred = true → ∀ e, e < 512 / a.width → v.data.getLsbD e = (v.mask.getLsbD e && a.data.getLsbD e))))

/-- R33, R111, R302, R303: loads and stores of a slot through its SCN capability; a load that faults gives a poisoned
value and enters the poison record; a poisoned operand of a store halts the slot; TIDLD gives a doubleword of a
descriptor. R38, R289, R304, R307: EMITCTL publishes on a control port with B as the tag's thread and index, and its
targets get any value, which the spec does not name (log 60); MARK places a marker after the tokens published so far; FAULT
halts the slot with USER; CALLREQ notes a side call of a live
graph; EVT writes a sample record. -/
def Obligations.ActorMemoryAndTokens : Prop :=
  (∀ (s : State) (n : NodeRef) (f : Firing) (o : ActorOp) (a b : Val) (k : Cap) (pa : Nat), Running s n f o →
     let w := (s.slotAt n).width
     let x := s.nodeAcx n
     let ctx := (s.instCtx n.inst).1
     let im := o.imm.toNat
     let invalid : Val := { data := 0, mask := 0, width := w }
     let scalar (v : W64) : Val := { data := v.zeroExtend 512, mask := fullMask w, width := w }
     (f.has 0 a → a.lowValid 32 = false → a.poison = false →
       Yields (.spld o) o s n invalid ∧ Yields (.spldsyn o) o s n invalid) ∧
     (f.has 0 a → f.has 1 b → a.poison = true ∨ b.poison = true →
       Halts (.spst o) s n (poisonFault s ctx) ∧ Halts (.spred o) s n (poisonFault s ctx)) ∧
     (f.has 0 a → f.has 1 b → a.poison = false → b.poison = false → b.lowValid 32 = false →
       Effects (.spst o) s n s ∧ Effects (.spred o) s n s) ∧
     Yields (.tidld o) o s n (scalar (field ((mget f.descs o.auxb.toNat).getD Desc.raw).bits (64 * im) 64)) ∧
     (slotCap s n = .ok k → windowBusy s (.node n) = false → f.has 0 a → a.lowValid 32 = true →
       let off : Nat := a.low.toNat % 2 ^ 32
       let poisoned (i : Instr) (t : Trap) : Prop := YieldsFrom i o s
         { recordPoison s ctx t with freeCtr := s.freeCtr + 1 } n
         { scalar (Config.freeValue s.freeCtr) with poison := true }
       (∀ v, capRead s x k (k.offset + (off + 64 * im : Nat)) 64 64 clLoad = .ok v → YieldsFrom (.spld o) o s v.2 n
         { data := BitVec.ofNat 512 (leNat v.1), mask := fullMask w, width := w, poison := a.poison }) ∧
       (∀ t, capRead s x k (k.offset + (off + 64 * im : Nat)) 64 64 clLoad = .error (.trap t) → poisoned (.spld o) t) ∧
       (access s x k (k.offset + (off + 8 * im : Nat)) 8 8 clSyncLoad rR = .ok (.phys pa) →
         ∀ v, syncRead s x pa (o.flags.getLsbD 0) = .ok v →
         YieldsFrom (.spldsyn o) o s v.2 n ((scalar v.1).tainted a.poison)) ∧
       (∀ t, access s x k (k.offset + (off + 8 * im : Nat)) 8 8 clSyncLoad rR = .error (.trap t) →
         poisoned (.spldsyn o) t)) ∧
     (slotCap s n = .ok k → windowBusy s (.node n) = false → f.has 0 a → f.has 1 b → a.poison = false →
       b.poison = false → b.lowValid 32 = true →
       let off : Nat := b.low.toNat % 2 ^ 32
       let op := o.auxb.toNat
       let m := redSize op
       let dirty (u : State) : State := markDirty u (s.instLaunch n.inst)
       let write (l : Loc) : Except Stop State := writeMasked s x l
         ((List.range 64).map fun j => a.mask.getLsbD (j * 8 / a.width)) (leBytes 64 a.data.toNat)
       (∀ l, access s x k (k.offset + (off + 64 * im : Nat)) 64 64 clStore rW = .ok l → ∀ u, write l = .ok u →
         Effects (.spst o) s n (if notIdempotent k.space then dirty u else u)) ∧
       (∀ u, write (.phys pa) = .ok u →
         (∀ j, j < 64 → u.mem.byte (pa + j) =
           if a.mask.getLsbD (j * 8 / a.width) then field a.data (8 * j) 8 else s.mem.byte (pa + j)) ∧
         ∀ j, j < pa ∨ pa + 64 ≤ j → u.mem.byte j = s.mem.byte j) ∧
       (∀ l, access s x k (k.offset + (off + m * im : Nat)) m m clReduce rA = .ok l →
         ∀ u, sendUpd s l { src := .node n, ctx := x.ctx, vf := x.vf, launch := s.instLaunch n.inst, op := op
                            val := if m = 4 then a.low &&& 0xFFFFFFFF else a.low } = .ok u →
         Effects (.spred o) s n (dirty u)))) ∧
  (∀ (s : State) (n : NodeRef) (f : Firing) (o : ActorOp) (a b : Val), Running s n f o →
     let p := o.auxb.toNat - 4
     let sent := mgetD f.pend (4 + p) 0
     let room := (s.slotAt n).rateOut f.close p
     let k := o.imm.toNat
     let vf := (s.instCtx n.inst).2
     let entry := (s.cellAt n).word (16 * n.sub + 4 + k % 8)
     let graph := liveGraph s (s.instLaunch n.inst) (entry.toNat % 256)
     let pending := sidePending s n (k % 8)
     (f.has 0 a → f.has 1 b →
       let u := addPend (stage s n p sent (a.tainted b.poison) (some b.low)) n (4 + p) 1
       (sent < room → o.t0 = 0 → o.t1 = 0 → Effects (.emitctl o) s n u) ∧
       (sent < room → o.t0 ≠ 0 ∨ o.t1 ≠ 0 → YieldsFrom (.emitctl o) o s (freeVal u (s.slotAt n).width).2 n
         ((freeVal u (s.slotAt n).width).1.tainted (a.poison || b.poison))) ∧
       (room ≤ sent → Halts (.emitctl o) s n { code := .rateMismatch })) ∧
     (∀ kind, (k % 8 = 2 ∧ kind = TokKind.eod (k / 8 % 4) ∨ k % 8 = 3 ∧ kind = .eor ∨ k % 8 = 4 ∧ kind = .eos) →
       Effects (.mark o) s n (s.updFiring n fun _ => { f with marks := f.marks ++ [(p, sent, { kind := kind })] })) ∧
     (f.has 0 a → Halts (.fault o) s n { code := .user, sel := BitVec.ofNat 12 k, addr := a.low }) ∧
     (pending = true → Effects (.callreq o) s n s) ∧
     (pending = false → entry.getLsbD 63 = true → graph.isSome = true →
       Effects (.callreq o) s n (s.updFiring n fun _ => { f with calls := f.calls ++ [k % 8] })) ∧
     (pending = false → entry.getLsbD 63 = false ∨ graph = none →
       Halts (.callreq o) s n { code := .cfgReject, sub := 11 }) ∧
     (f.has 0 a → Effects (.actorEvt o) s n
       (((crierAt s (s.instLaunch n.inst) 0x11 (s.nodeHam n) n.cell n.sub
         (leBytes 4 (s.slotAt n).blockId ++ [BitVec.ofNat 8 f.idx, 0] ++ leBytes 2 k ++ leBytes 8 a.low.toNat)).count vf 0x090).count
         vf 0x0A0)) ∧
     ∀ t : Trap, let h := haltSlot s n t
       (h.slotAt n).halted = true ∧ (h.slotAt n).firing = none ∧
       ∀ m, m.inst ≠ n.inst ∨ 16 * m.page + m.cell ≠ 16 * n.page + n.cell ∨ m.sub ≠ n.sub → h.slotAt m = s.slotAt m)

/-! ### The fabric

That an event whose conditions are not met changes nothing, wherever a statement of this section says so, is the model's
choice (log 2, DESIGN CHOICE). -/

/-- R26, R32, R158, R176, R177, R309: a token crosses a circuit hop by hop, by credits: off an actor's port, once every
access of its slot has been performed, or off a FANOUT's branch into the first FIFO, which spends one; from one FIFO to the next; off the last FIFO into the operator's input buffer, where
a foreign context and a token after EOS are dropped with their fault; and a credit return. -/
def Obligations.LinksAndCredits : Prop :=
  ∀ (s : State) (inst i : Nat) (x : Inst) (c : Circ), s.inst inst = some x → x.circs[i]? = some c →
    let src := c.srcRef inst
    let dst := c.dstRef inst
    let to_ (s : State) (c : Circ) : State := s.updInst inst fun y => y.setCirc i c
    let cell := s.cellAt dst
    let ctx := (s.instCtx dst.inst).1
    let vf := (s.instCtx dst.inst).2
    let takes (l : Link) (t : Token) : Link := { l with fifo := l.fifo ++ [t], credits := l.credits - 1 }
    let gives (l : Link) (rest : List Token) : Link := { l with fifo := rest, returned := l.returned + 1 }
    exec (.creditReturn inst i) s = .next (to_ s { c with links := c.links.map fun l =>
      { l with credits := l.credits + l.returned, returned := 0 } }) ∧
    ((c.link 0).credits = 0 ∨ s.nodeLive src = false → exec (.linkTokenTransfer inst i 0) s = .next s) ∧
    (0 < (c.link 0).credits → s.nodeLive src = true → (s.cellAt src).kind = .fanout →
      ∀ t rest, mgetD (s.cellAt src).outq c.sport [] = t :: rest → src.inst = inst → ∃ u,
      exec (.linkTokenTransfer inst i 0) s = .next u ∧
      mgetD (u.cellAt src).outq c.sport [] = rest ∧
      ∃ y, u.inst inst = some y ∧ y.circs[i]? = some (c.setLink 0 (takes (c.link 0) t))) ∧
    (0 < (c.link 0).credits → s.nodeLive src = true → (s.cellAt src).kind = .actor → src.inst = inst →
      let n : NodeRef := { src with sub := c.sport / 8 }
      let a := (s.slotAt n).port (c.sport % 8)
      ∀ t, a.front = some t → 4 ≤ c.sport % 8 →
      (allPerformed s (.node n) = false → exec (.linkTokenTransfer inst i 0) s = .next s) ∧
      (allPerformed s (.node n) = true → ∃ u, exec (.linkTokenTransfer inst i 0) s = .next u ∧
        ((u.slotAt n).port (c.sport % 8)).head = (a.head + 1) % 16 ∧
        ∃ y, u.inst inst = some y ∧ y.circs[i]? = some (c.setLink 0 (takes (c.link 0) t)))) ∧
    (∀ j a b t rest, c.links[j]? = some a → c.links[j + 1]? = some b → a.fifo = t :: rest →
      exec (.linkTokenTransfer inst i (j + 1)) s = .next (to_ s
        (if b.credits = 0 then c else (c.setLink j (gives a rest)).setLink (j + 1) (takes b t)))) ∧
    ∀ j l t rest, c.links.length = j + 1 → c.links[j]? = some l → l.fifo = t :: rest →
      let u := to_ s { c.setLink j (gives l rest) with eos := c.eos || t.kind == .eos }
      let enters := exec (.linkTokenTransfer inst i (j + 1)) s
      (∀ z, s.inst dst.inst = some z → z.plane = .active ∨ z.plane = .freezing → bufRoom s dst c.dport = true →
        (tagCtx t.tag ≠ ctx → enters = .next ((nodeFault u dst { code := .ctxMismatch }).count vf 0x068)) ∧
        (tagCtx t.tag = ctx → c.dport ∈ cell.closed → t.isPmk = false →
          enters = .next (nodeFault u dst { code := .rateMismatch })) ∧
        (tagCtx t.tag = ctx → c.dport ∉ cell.closed → t.kind = .control → c.ctrl = false → cell.kind ≠ .fanout →
          enters = .next u) ∧
        (tagCtx t.tag = ctx → c.dport ∉ cell.closed → t.kind = .data → cell.kind ≠ .actor → cell.kind ≠ .memory →
          enters = .next (u.setCellAt dst (cell.setBuf c.dport (cell.buf c.dport ++ [t]))))) ∧
      (bufRoom s dst c.dport = false → enters = .next s)

/-- R49, R112, R158, R287, R288, R291, R374, R380: a data firing is the instructions of the slot's block one after another,
begun with the tag of the oldest token of its lowest used input; a slot that is not ready, has an access unperformed or
comes after another of its cell does not fire; the order of the slots; a marker step passes agreeing markers; window
writes apply between firings; the weights of a cell's slots, every 256 cycles. R108, R110, R290: at its end a firing whose ports have advanced by
their rates commits: inputs advance, the staged tokens leave, held registers are written; one whose ports have not
halts the slot with RATE_MISMATCH. -/
def Obligations.FiringsAndCommits : Prop :=
  (∀ (s : State) (n : NodeRef) (f : Firing) (k : Nat), s.focus = some n → (s.cellAt n).kind = .actor →
     let x := s.slotAt n
     let goes (i : Instr) (t : State) : Prop := exec i s = .next t
     (s.nodeLive n = true → x.firing = some f →
       goes (.actorDataFiring n) (runBlock n 128 s) ∧
       ∀ i op eff o, decodeActor (x.instr f.idx) = some i → actorEff i = some (op, eff, o) → ∀ u, exec i s = .next u →
         runBlock n (k + 1) s = match (u.slotAt n).firing with
           | none => u
           | some g => if g.waiting then u else runBlock n k u) ∧
     (s.nodeLive n = true → x.firing = none → mayFire s n = true →
       let g := (beginFiring s n false (match x.usedIn with
         | p :: _ => ((x.port p).at 0).tag
         | [] => 0))
       (g.slotAt n).firing.isSome = true → goes (.actorDataFiring n) (runBlock n 128 g)) ∧
     (x.firing = none → dataReady x = false ∨ allPerformed s (.node n) = false ∨ slotFirst s n = false →
       goes (.actorDataFiring n) s) ∧
     (∀ (now : W64) (a b : Nat × Slot),
       let before := slotBefore now a b
       let since (y : Slot) : Nat := (if y.ready then y.readyAt else now).toNat
       let late (y : Slot) : Prop := 64 ≤ y.waited
       (late a.2 → ¬ late b.2 → before = true) ∧ (¬ late a.2 → late b.2 → before = false) ∧
       ((late a.2 ↔ late b.2) → since a.2 < since b.2 → before = true) ∧
       ((late a.2 ↔ late b.2) → since a.2 = since b.2 → b.2.weight < a.2.weight → before = true) ∧
       ((late a.2 ↔ late b.2) → since a.2 = since b.2 → b.2.weight = a.2.weight → a.2.hf 80 8 < b.2.hf 80 8 →
         before = true) ∧
       ((late a.2 ↔ late b.2) → since a.2 = since b.2 → b.2.weight = a.2.weight → a.2.hf 80 8 = b.2.hf 80 8 →
         before = decide (a.1 ≤ b.1))) ∧
     (s.nodeLive n = true → x.valid = true → x.done = false → x.halted = false → x.firing = none →
       ∀ m rest, headMarkers x = some (m :: rest) → (m :: rest).any Token.isPmk = false →
         (rest.all (sameMarker m) = false → goes (.markerStep n) (haltSlot s n { code := .rateMismatch })) ∧
         (rest.all (sameMarker m) = true → mayTurn s n x = true → slotFirst s n = true → closeDue x m = false →
           markerRoom x false = true → goes (.markerStep n) (checkSlot (bumpWaited (passMarkers s n m) n) n)) ∧
         (rest.all (sameMarker m) = true → mayTurn s n x = true → slotFirst s n = true → closeDue x m = true →
           markerRoom x true = true →
           let g := beginFiring s n true m.tag
           (g.slotAt n).firing.isSome = true → goes (.markerStep n) (runBlock n 128 g))) ∧
     (x.firing = none → x.writes ≠ [] →
       goes (.windowWriteApply n) (s.updSlot n fun x => { x.writes.foldl applyWrite x with writes := [] })) ∧
     (s.cycle.toNat % 256 ≠ 0 → goes (.firingWeightUpdate n) s) ∧
     (s.cycle.toNat % 256 = 0 → goes (.firingWeightUpdate n) (s.setCellAt n { s.cellAt n with slots := (s.cellAt n).slots.map fun y =>
       (y.1, { y.2 with weight := (y.2.usedIn.map fun p => (y.2.port p).fill).foldl (· + ·) 0 }) }))) ∧
  (∀ (s : State) (n : NodeRef) (f : Firing), s.nodeLive n = true → (s.cellAt n).kind = .actor →
     (s.slotAt n).firing = some f → (s.slotAt n).writes = [] → (s.slotAt n).source = false →
     let x := s.slotAt n
     let pend (p : Nat) : Nat := mgetD f.pend p 0
     let y := (commitFiring s n).slotAt n
     let last (m : SMap Held) (r : Nat) (v : Held) : Held := ((m.filter fun e => e.1 == r).getLast?.map (·.2)).getD v
     let fits := (∀ p, p < 4 → pend p = if f.close then 0 else x.inRate p) ∧
       ∀ p, p < 4 → pend (4 + p) = x.rateOut f.close p
     (¬ fits → commitFiring s n = haltSlot s n { code := .rateMismatch }) ∧
     (fits → y.firing = none ∧ y.halted = x.halted ∧
       (∀ r, heldOf y.h r = last f.hw r (heldOf x.h r)) ∧ (∀ r, heldOf y.q r = last f.qw r (heldOf x.q r)) ∧
       (∀ p, p < 4 → (y.port p).fill = (x.port p).fill - pend p ∧
         (y.port p).head = ((x.port p).head + pend p) % 16 ∧ (y.port p).tail = (x.port p).tail) ∧
       ∀ p, p < 4 → (y.port (4 + p)).head = (x.port (4 + p)).head ∧
         (f.marks = [] → (y.port (4 + p)).fill = (x.port (4 + p)).fill + pend (4 + p) ∧
           ((x.port (4 + p)).tail < 16 → pend (4 + p) ≤ 16 → ∀ j, j < pend (4 + p) → ∃ t,
             mget (y.port (4 + p)).slots (((x.port (4 + p)).tail + j) % 16) = some t ∧
             t.data = (mgetD f.staged (16 * p + j) { kind := .data }).data ∧
             t.mask = (mgetD f.staged (16 * p + j) { kind := .data }).mask))))

/-- R31, R312 to R314, R317 to R320: what the operators do with the data tokens at the heads of their inputs. -/
def Obligations.Operators : Prop :=
  ∀ (s : State) (n : NodeRef),
    let c := s.cellAt n
    let w := c.width
    let goes (i : Instr) (t : State) : Prop := exec i s = .next t
    let mismatch : State := haltNode s n { code := .rateMismatch }
    let room (p : Nat) : Prop := canSend s n p 1 = true
    let mode := c.fld 1 0 2
    (nodeOk s n .join = true → c.isCalls = false → c.isRets = false → ∀ t ts, c.heads c.ins = .data (t :: ts) →
      let agree := (t :: ts).all fun u => matches_ (c.fld 1 0 3) t.tag u.tag
      (agree = false → goes (.joinCombine n) mismatch) ∧
      (agree = true → room 4 → goes (.joinCombine n) (send (popIns s n c.ins) n 4 (joinTokens s n c (t :: ts))) ∧
        (c.fld 1 4 2 = 0 → joinTokens s n c (t :: ts) = { t with poison := (t :: ts).any (·.poison) }))) ∧
    (nodeOk s n .steer = true → room 6 →
      let to_ (ps : List Nat) (t : Token) (b : Bool) : Prop := room (if b then 4 else 5) → goes (.steerRoute n)
        (send (send (popIns s n ps) n (if b then 4 else 5) t) n 6 (scalarTok (if b then 1 else 0) t.tag))
      (∀ t d, mode = 0 → c.heads [0, 1] = .data [t, d] →
        (d.poison = true → goes (.steerRoute n) (poisonHalt s n)) ∧
        (d.poison = false → to_ [0, 1] t (d.data.getLsbD 0))) ∧
      ∀ t, c.heads [0] = .data [t] →
        (mode = 1 → t.poison = true → goes (.steerRoute n) (poisonHalt s n)) ∧
        (mode = 1 → t.poison = false →
          to_ [0] t (match (((t.val (inPlane s n 0) w).lanes w)[c.fld 1 8 6]?).join with
            | some v => laneCmp c.ety (c.fld 1 4 3) v ((c.word 2).toNat % 2 ^ w)
            | none => false)) ∧
        (mode = 2 → to_ [0] t (tagIndex t.tag % c.fld 2 0 16 == c.fld 2 16 16))) ∧
    (nodeOk s n .merge = true → mode = 0 → ∀ d, c.front 2 = some d → d.isMarker = false →
      let arm := if d.data.getLsbD 0 then 0 else 1
      (d.poison = true → goes (.mergeSequence n) (poisonHalt s n)) ∧
      (d.poison = false → ∀ t, c.front arm = some t →
        (t.isPmk = false → t.isMarker = true → goes (.mergeSequence n) mismatch) ∧
        (t.isMarker = false → room 4 → goes (.mergeSequence n) (send (popIns s n [2, arm]) n 4 t)))) ∧
    (nodeOk s n .merge = true → mode = 1 → room 4 → ∀ a b, c.front 0 = some a → c.front 1 = some b →
      (a.isMarker = true → b.isMarker = false → a.isPmk = false → goes (.mergeKey n)
        (if mergeKey c (inPlane s n 1) b = none then mismatch else send (popIns s n [1]) n 4 b)) ∧
      (a.isMarker = false → b.isMarker = true → b.isPmk = false → goes (.mergeKey n)
        (if mergeKey c (inPlane s n 0) a = none then mismatch else send (popIns s n [0]) n 4 a)) ∧
      (a.isMarker = false → b.isMarker = false →
        ∀ x y, mergeKey c (inPlane s n 0) a = some x → mergeKey c (inPlane s n 1) b = some y →
        let first := if c.fld 1 2 1 = 1 then y ≤ x else x ≤ y
        (first → goes (.mergeKey n) (send (popIns s n [0]) n 4 a)) ∧
        (¬ first → goes (.mergeKey n) (send (popIns s n [1]) n 4 b)))) ∧
    (nodeOk s n .filter = true → room 4 →
      (∀ t d, mode = 0 ∨ mode = 1 → c.heads [0, 1] = .data [t, d] →
        let v := t.val (inPlane s n 0) w
        let p : Val := { data := d.data, mask := fullMask w, width := w, pred := true }
        let kept := Val.ofList w ((v.lanes w).zipWith (fun x b => if b == some true then x else none) (p.preds w))
        (d.poison = true → goes (.filterToken n) (poisonHalt s n)) ∧
        (d.poison = false → mode = 0 → goes (.filterToken n)
          (send (popIns s n [0, 1]) n 4 ((kept.tainted t.poison).token (inPlane s n 0) t.tag))) ∧
        (d.poison = false → mode = 1 → d.data.getLsbD 0 = true →
          goes (.filterToken n) (send (popIns s n [0, 1]) n 4 t)) ∧
        (d.poison = false → mode = 1 → d.data.getLsbD 0 = false → goes (.filterToken n) (popIns s n [0, 1]))) ∧
      ∀ t, mode = 2 → c.heads [0] = .data [t] →
        ((t.val (inPlane s n 0) w).mask = 0 → goes (.filterToken n) (popIns s n [0])) ∧
        ((t.val (inPlane s n 0) w).mask ≠ 0 → goes (.filterToken n) (send (popIns s n [0]) n 4 t))) ∧
    (nodeOk s n .coalesce = true → ∀ t, c.heads [0] = .data [t] →
      let x := c.coalSt
      let got := ((t.val (inPlane s n 0) w).lanes w).filterMap id
      let all := x.lanes ++ got
      let tag := if x.lanes = [] then t.tag else x.tag
      let bad := !x.lanes.isEmpty && x.poison || !got.isEmpty && t.poison
      (all.length < 512 / w → goes (.coalesce n)
        (setCoal (popIns s n [0]) n { lanes := all, tag := tag, poison := bad, idx := x.idx })) ∧
      (512 / w ≤ all.length → room 4 → goes (.coalesce n)
        (setCoal (send (popIns s n [0]) n 4 {
          kind := .data, data := BitVec.ofNat 512 (ofLanes w (all.take (512 / w)))
          mask := lowMask (all.take (512 / w)).length, tag := withIndex tag x.idx, poison := bad }) n
          { lanes := all.drop (512 / w), tag := t.tag, poison := t.poison, idx := x.idx + 1 }))) ∧
    (nodeOk s n .fanout = true → ∀ t, c.front 0 = some t → t.isPmk = false →
      (∀ p ∈ c.outs, nth0 (branchCounts s n) (p - 4) < c.fld 1 (4 * (p - 4)) 4 + 1 ∧ (mgetD c.outq p []).length < 16) →
      let spread : Token := { t with
        data := BitVec.ofNat 512 (ofLanes w (List.replicate (512 / w) t.scalar.toNat))
        mask := if t.mask.getLsbD 0 then fullMask w else 0 }
      ∃ u, exec (.fanoutEnqueue n) s = .next u ∧ u.reeves = s.reeves ∧ u.mem = s.mem ∧
        (u.cellAt n).front 0 = (c.buf 0)[1]? ∧ ∀ p ∈ c.outs, mgetD (u.cellAt n).outq p [] = mgetD c.outq p [] ++
          [{ (if c.fld 1 16 1 = 1 ∧ t.kind = .data ∧ outPlane s n p = false then spread else t) with init := false }]) ∧
    (nodeOk s n .reduce = true →
      let x := c.redSt
      (∀ t ts, c.heads c.ins = .data (t :: ts) → goes (.reduceStep n) (setRed (popIns s n c.ins) n { x with
        accs := ((t :: ts).zip c.ins).foldl (fun a u => redFold c a (u.1.val (inPlane s n u.2) w)) x.accs
        tag := if x.any then x.tag else t.tag
        any := true
        poison := x.poison || (t :: ts).any (·.poison) })) ∧
      ∀ m, c.heads c.ins = .marker m → redCloses c m.kind = true → canSend s n 4 2 = true →
        let accs := if x.accs = [] then List.replicate (512 / w) none else x.accs
        let o := ((Val.ofList w accs).tainted x.poison).token (outPlane s n 4)
          (withIndex (if x.any then x.tag else m.tag) x.idx)
        goes (.reduceGroupClose n) (setRed (send (send (popIns s n c.ins) n 4 o) n 4 { kind := m.kind, tag := m.tag }) n
          { idx := if m.kind = .eor ∨ m.kind = .eos then 0 else x.idx + 1 }))

/-- R44 to R46, R315, R316: COUNT and the head of a loop. R31, R326, R380: markers pass operators on every used output
at once; while its launch is GATING a source at a round boundary emits PMK once, and a node with PMK on every used
input passes it and is noted. R25: a COUNT that is a source of rounds waits where it would open a round 2,048 past an
open one. R319: a FANOUT copies no marker past a branch's window. That a discarded marker token counts too (log 48), which
iteration a token's round names, and how a loop head's round ends at the EOR past the exit, with what then comes back
(log 64), are the model's readings. -/
def Obligations.CountsLoopsAndMarkers : Prop :=
  (∀ (s : State) (n : NodeRef),
     let c := s.cellAt n
     let goes (i : Instr) (t : State) : Prop := exec i s = .next t
     let room (p : Nat) : Prop := canSend s n p 1 = true
     let ctx := (s.instCtx n.inst).1
     let mode := c.fld 1 0 2
     (nodeOk s n .count = true → mode = 0 →
       let x := c.countSt
       let tag (i : Nat) : W64 := mkTag ctx (tagThread x.tag) (if c.marksEor then x.round else tagRound x.tag) i
       (x.busy = false → ∀ t, c.front 0 = some t → t.isMarker = false → t.poison = false →
         goes (.countIndex n) (setCount (popIns s n [0]) n { x with
           n := t.scalar.toNat % 2 ^ 32, next := 0, busy := true, tag := t.tag, poison := false
           marks := c.fld 1 8 1 + 2 * c.fld 1 11 1 })) ∧
       let far := c.marksEor = true ∧ x.next = 0 ∧ x.marks = c.fld 1 8 1 + 2 * c.fld 1 11 1 ∧ roundFar s n x.round = true
       (x.busy = true → far → goes (.countIndex n) s) ∧
       (x.busy = true → ¬ far → room 4 → x.next < x.n → c.fld 1 12 1 = 0 → goes (.countIndex n)
         (setCount (send s n 4 (scalarTok (BitVec.ofNat 64 x.next) (tag x.next) x.poison)) n
           { x with next := x.next + 1, busy := x.next + 1 < x.n || x.marks != 0 })) ∧
       (x.busy = true → ¬ far → room 4 → x.next < x.n → c.fld 1 12 1 = 1 →
         let k := min 16 (x.n - x.next)
         goes (.countIndex n) (setCount (send s n 4 {
             kind := .data, data := BitVec.ofNat 512 (ofLanes 32 (rangeFrom x.next k)), mask := lowMask k
             tag := tag x.next, poison := x.poison }) n
           { x with next := x.next + k, busy := x.next + k < x.n || x.marks != 0 })) ∧
       (x.busy = true → ¬ far → room 4 → x.n ≤ x.next → x.marks % 2 = 1 → goes (.countIndex n)
         (setCount (send s n 4 { kind := .eod 0, tag := tag x.next }) n
           { x with marks := x.marks - 1, busy := x.marks != 1 })) ∧
       (x.busy = true → ¬ far → room 4 → x.n ≤ x.next → x.marks = 2 → goes (.countIndex n)
         (setCount (send s n 4 { kind := .eor, tag := tag x.next }) n
           { x with marks := 0, busy := false, round := (x.round + 1) % 4096 }))) ∧
     (nodeOk s n .count = true → mode = 1 →
       let x := c.countSt
       let tok (i : Nat) (v : W64) : Token := scalarTok v (mkTag ctx 0 x.round i)
       (x.exit = none → x.got ≤ x.decided → x.ended = false →
         (∀ t, c.front 0 = some t → t.isMarker = false → t.poison = false →
           goes (.countLoop n) (setCount (popIns s n [0]) n { x with
             got := x.got + 1
             exit := if t.data.getLsbD 0 then none else some x.got })) ∧
         (c.front 0 = none → x.issued - x.got < c.fld 1 2 6 + 1 → room 4 → goes (.countLoop n)
           (setCount (send s n 4 (tok x.issued (BitVec.ofNat 64 x.issued))) n { x with issued := x.issued + 1 }))) ∧
       (x.exit = none → x.decided < x.got → room 5 → room 6 → goes (.countLoop n)
         (setCount (send (send s n 5 (tok x.decided 1)) n 6 (tok x.decided 0)) n { x with decided := x.decided + 1 })) ∧
       (x.exit = none → x.got ≤ x.decided → x.ended = true → x.gone = false → x.got = 0 ∨ x.issued ≤ x.decided →
         room 4 → room 5 → room 6 →
         let e : Token := { kind := .eos, tag := mkTag ctx 0 x.round 0 }
         goes (.countLoop n) (setCount (send (send (send s n 4 e) n 5 e) n 6 e) n { x with gone := true })) ∧
       ∀ e, x.exit = some e →
         (x.exitSent = false → room 4 → goes (.countLoop n)
           (setCount (send s n 4 (tok e (BitVec.ofNat 64 (2 ^ 63 + e)))) n { x with exitSent := true })) ∧
         (x.exitSent = true → x.decided < x.issued → room 5 → room 6 → goes (.countLoop n)
           (setCount (send (send s n 5 (tok x.decided (if x.decided ≤ e then 1 else 0))) n 6
             (tok x.decided (if x.decided = e then 1 else 0))) n { x with decided := x.decided + 1 })) ∧
         (x.exitSent = true → x.issued ≤ x.decided →
           (x.issued ≤ x.got → goes (.countLoop n) (setCount s n
             { round := (x.round + 1) % 4096, discard := x.discard, ended := x.ended })) ∧
           (x.got < x.issued → ∀ t, c.front 0 = some t → t.isMarker = false →
             goes (.countLoop n) (setCount (popIns s n [0]) n { x with got := x.got + 1 })))) ∧
     (nodeOk s n .merge = true → mode = 2 →
       let l := c.loopSt
       (l.exit = none → ∀ t, c.front 2 = some t → t.isMarker = false →
         let v := t.scalar.toNat % 2 ^ 32
         goes (.loopheadMerge n) (setLoop (popIns s n [2]) n
           (if t.scalar.getLsbD 63 then { l with exit := some v } else { l with started := true, issued := v }))) ∧
       (l.exit.isSome = true ∨ c.front 2 = none → l.gone = false → l.looping = false → l.ended = false →
         l.started = true → room 4 → ∀ t, c.front 0 = some t →
           (t.isMarker = false → goes (.loopheadMerge n)
             (setLoop (send (popIns s n [0]) n 4 t) n { l with openR := true, r0 := tagRound t.tag })) ∧
           (t.kind = .eor → goes (.loopheadMerge n)
             (setLoop (send (popIns s n [0]) n 4 { kind := .eor, tag := t.tag }) n
               { l with looping := true, openR := false, r0 := tagRound t.tag }))) ∧
       (l.exit.isSome = true ∨ c.front 2 = none → l.gone = false → l.looping = true → ∀ t, c.front 1 = some t →
         t.isPmk = false → t.kind ≠ .eos →
         let ahead := (tagRound t.tag + 4096 - (l.r0 + l.iter) % 4096) % 4096
         let i := if ahead < 2048 then l.iter + ahead else l.iter + ahead - 4096
         let past := ∃ e, l.exit = some e ∧ e ≤ i
         let dropped := bumpDiscard (popIns s n [1]) n
         (l.drain = true → goes (.loopheadMerge n) dropped) ∧
         (l.drain = false →
           (past → t.kind ≠ .eor ∨ i < l.iter → goes (.loopheadMerge n) dropped) ∧
           (past → t.kind = .eor → l.iter ≤ i → goes (.loopheadMerge n) (setLoop dropped n
             (if l.part then { l with drain := true } else { ended := l.ended, r0 := l.r0 }))) ∧
           (¬ past → l.issued ≤ i → goes (.loopheadMerge n) s) ∧
           (¬ past → i < l.issued → room 4 → goes (.loopheadMerge n)
             (setLoop (send (popIns s n [1]) n 4 { t with tag := withRound t.tag ((l.r0 + i + 1) % 4096) }) n
               (if t.kind = .eor then { l with iter := i + 1, part := false } else { l with part := true }))))) ∧
       (l.exit.isSome = true ∨ c.front 2 = none → l.gone = false → l.looping = true → l.drain = true → c.front 1 = none →
         goes (.loopheadMerge n) (if bodyHolds s n then s else setLoop s n { ended := l.ended, r0 := l.r0 })))) ∧
  (∀ (s : State) (n : NodeRef),
     let c := s.cellAt n
     let goes (i : Instr) (t : State) : Prop := exec i s = .next t
     let copies (s : State) (ps : List Nat) (t : Token) : State := ps.foldl (fun s p => send s n p t) s
     let room (ps : List Nat) : Prop := ps.all (fun p => canSend s n p 1) = true
     let ins : List Nat := match c.kind with
       | .steer => if c.fld 1 0 2 = 0 then [0, 1] else [0]
       | .filter => if c.fld 1 0 2 = 2 then [0] else [0, 1]
       | .warp => [0]
       | _ => c.ins
     (nodeOk s n c.kind = true →
       c.kind = .join ∧ c.isCalls = false ∧ c.isRets = false ∨ c.kind = .steer ∨ c.kind = .filter ∨ c.kind = .warp →
       (∀ m, c.heads ins = .marker m → room c.outs →
         goes (.nodeMarkerPass n) (copies (popIns s n ins) c.outs { kind := m.kind, tag := m.tag })) ∧
       (c.heads ins = .bad → goes (.nodeMarkerPass n) (haltNode s n { code := .rateMismatch }))) ∧
     (s.gating n.inst = true → s.nodeLive n = true → pmkSentBy s n = false → c.kind = .memory → 4 ≤ n.sub →
       declUsed (c.word (32 + 2 * (n.sub - 4))).toNat = true → declDir (c.word (32 + 2 * (n.sub - 4))).toNat = false →
       (s.sport (s.nodeHam n) (n.sub - 4)).midRound = false → canSend s n (n.sub - 4) 1 = true →
       goes (.sourcePmkEmit n)
         (notePmk (send s n (n.sub - 4) { kind := .pmk false, tag := mkTag (s.instCtx n.inst).1 0 0 0 }) n)) ∧
     (s.nodeLive n = true → c.kind = .join ∨ c.kind = .steer ∨ c.kind = .reduce ∨ c.kind = .filter →
       ∀ m, c.heads c.ins = .pmk m → room c.outs →
       goes (.pmkArrival n) (notePassed (copies (popIns s n c.ins) c.outs { kind := m.kind, tag := m.tag }) n)) ∧
     (s.nodeLive n = true → c.kind = .fanout → ∀ t, c.front 0 = some t → t.isPmk = true →
       (∃ p ∈ c.outs, c.fld 1 (4 * (p - 4)) 4 + 1 ≤ nth0 (branchCounts s n) (p - 4) ∨ 16 ≤ (mgetD c.outq p []).length) →
       goes (.pmkArrival n) s))

/-- R33, R45, R47, R142, R159, R170, R176, R322: a MEMORY node of each mode takes the tokens at its heads into its
address-compare queue where the 16 entries have room, and what it takes completes: a clear commit bit skips the writes and
raises nothing, a poisoned write of a committing iteration raises the recorded fault; an access waits only behind an older
one of the same word; a load gives its value and a store its bytes; results and ordering tokens leave in order. -/
def Obligations.MemoryNodes : Prop :=
  ∀ (s : State) (n : NodeRef),
    let c := s.cellAt n
    let k := n.sub
    let x := c.memSt k
    let goes (i : Instr) (t : State) : Prop := exec i s = .next t
    let frees (u : State) : State := if ((u.cellAt n).memSt k).queue = [] then release u (.node n) else u
    let forms (u : State) : State :=
      if ((u.cellAt n).memSt k).toks = [] then u
      else updMem u n fun y => memForm (u.cellAt n) k y y.toks
    let runs (u : State) : State := frees (forms (memPass n ((u.cellAt n).memSt k).queue [] u))
    let enters (u : State) (m : MemArgs) (accs : List MemAcc) : State :=
      updMem (memTake { u with nextId := s.nextId + 1 } n) n fun y =>
        { y with queue := y.queue ++ accs, toks := y.toks ++ [{ tok := s.nextId, addr := m.a }] }
    (∀ i mode, (i, mode) ∈ ([(.memoryLoad n, 0), (.memoryStore n, 1), (.memoryGather n, 2), (.memoryScatter n, 3),
        (.memoryUpdate n, 4)] : List (Instr × Nat)) →
      nodeOk s n .memory = true → memValid c k = true → memMode c k = mode →
      (memHeads c k = .wait → goes i (runs s)) ∧
      (memHeads c k = .bad → goes i (runs (haltNode s n { code := .rateMismatch }))) ∧
      ∀ m, memHeads c k = .ready m →
      let writes := mode = 1 ∨ mode = 3 ∨ mode = 4
      let raises := writes ∧ (m.cpoison = true ∨ m.go = true ∧ m.poison = true)
      let room (accs : List MemAcc) : Prop :=
        x.queue.length + accs.length ≤ 16 ∧ x.out.length + 2 * x.toks.length < 15 ∧ x.ord.length + x.toks.length < 16
      let accs := memAccs c k s.nextId m
      (raises → room [] → goes i (runs (enters (nodeFault s n (poisonFault s (s.instCtx n.inst).1)) m []))) ∧
      (¬ raises → m.go = false → room [] → goes i (runs (enters s m []))) ∧
      (¬ raises → m.go = true → room accs → goes i (runs (enters s m accs))) ∧
      (¬ raises → m.go = true → ¬ room accs → goes i (runs s))) ∧
    (∀ (a : MemAcc) (l older : List MemAcc) (t : MemTok), x.toks.find? (fun y => y.tok == a.tok) = some t →
      (older.any (memMeets c k a) = true → memPass n (a :: l) older s = memPass n l (older ++ [a]) s) ∧
      (older.any (memMeets c k a) = false →
        (∀ u, memPerform s n t a = .ok u → memPass n (a :: l) older s =
          memPass n l older (updMem u n fun y => { y with queue := y.queue.filter fun b => b != a })) ∧
        ∀ e rq, memPerform s n t a = .error (.wait e rq) →
          memPass n (a :: l) older s = memPass n l (older ++ [a]) (register s rq))) ∧
    (∀ (m : MemArgs) (t : MemTok) (a : MemAcc),
      let e := memEsize c k
      let z := 2 ^ e
      let o := m.a.scalar.toNat % 2 ^ 40
      let tok (v : Nat) (poison : Bool) : Token :=
        { kind := .data, data := BitVec.ofNat 512 v, tag := t.addr.tag, poison := poison
          mask := if t.addr.mask.getLsbD 0 then (if e = 6 then lowMask (512 / memLane x.desc (memTid c k)) else 1) else 0 }
      (memMode c k = 0 →
        (m.a.mask.getLsbD 0 = true → memAccs c k t.tok m = [{ tok := t.tok, lane := 0, off := o, bytes := [], on := [] }]) ∧
        (m.a.mask.getLsbD 0 = false → memAccs c k t.tok m = []) ∧
        (∀ v, t.vals = [(0, v)] → t.bad = [] → memResults c k t = [tok v t.addr.poison]) ∧
        ∀ l, memLoc s n a.off z clLoad rR = .ok l → (∀ p q r, l ≠ .peer p q r) →
          ∀ v, loadLoc s (s.nodeAcx n) l z = .ok v →
          memPerform s n t a = .ok (updMem (performedBy v.2 (.node n)) n fun y => { y with toks := y.toks.map fun g =>
            if g.tok = a.tok then { g with vals := mset g.vals a.lane (leNat v.1) } else g })) ∧
      (memMode c k = 1 →
        (m.a.mask.getLsbD 0 = true → m.d.mask.getLsbD 0 = true → e < 6 → memAccs c k t.tok m =
          [{ tok := t.tok, lane := 0, off := o, bytes := leBytes z m.d.scalar.toNat, on := List.replicate z true }]) ∧
        (m.a.mask.getLsbD 0 = false → memAccs c k t.tok m = []) ∧
        (∀ l, memLoc s n a.off z clStore rW = .ok l → (∀ p q r, l ≠ .peer p q r) →
          ∀ u, writeMasked s (s.nodeAcx n) l a.on a.bytes = .ok u →
          memPerform s n t a = .ok (memDirty (performedBy u (.node n)) n)) ∧
        ∀ f, memLoc s n a.off z clStore rW = .error (.trap f) →
          memPerform s n t a = .ok (nodeFault (recordPoison s (s.instCtx n.inst).1 f) n f))) ∧
    (nodeOk s n .memory = true → ∀ t rest, x.out = t :: rest → canSend s n (memBase k + 4) 1 = true →
      goes (.memoryReply n)
        (markActive (updMem (send s n (memBase k + 4) t) n fun y => { y with out := rest }) n.inst)) ∧
    (nodeOk s n .memory = true → ∀ t rest, x.ord = t :: rest → canSend s n (memBase k + 5) 1 = true →
      (memSettled s n = false → goes (.memoryOrderOut n) s) ∧
      (memSettled s n = true → goes (.memoryOrderOut n)
        (markActive (updMem (send s n (memBase k + 5) t) n fun y => { y with ord := rest }) n.inst)))

/-- R72, R73, R83, R116, R117, R192, R321, R323, R324, R393, R394: WARP weighs its reference units; CONVERT takes a token's
elements; a mill loads its weights up to EOD(0), takes the tokens of an activation row while out0 has room for its sums,
sums each complete row, and releases an accumulated round.  That a row of more tokens than its link holds waits until the
link is empty is log 58 (DEDUCED). -/
def Obligations.WarpConvertAndMills : Prop :=
  ∀ (s : State) (n : NodeRef),
    let c := s.cellAt n
    let goes (i : Instr) (t : State) : Prop := exec i s = .next t
    let halts (i : Instr) : Prop := goes i (haltNode s n { code := .rateMismatch })
    (nodeOk s n .warp = true → ∀ t, c.front 0 = some t → t.isMarker = false →
      c.outs.all (fun p => canSend s n p 1) = true →
      let f := c.warpSt.feat
      let r := t.scalar.toNat
      let x : Int := 16 * (r % 2 ^ 16 : Nat) + sgn 16 (r / 2 ^ 32 % 2 ^ 16)
      let y : Int := 16 * (r / 2 ^ 16 % 2 ^ 16 : Nat) + sgn 16 (r / 2 ^ 48 % 2 ^ 16)
      ∀ v, warpReads s (s.nodeAcx n) f c.warpSt.err (c.fld 1 8 8 != 0) (warpUnits x y) = .ok v →
      let w := warpResults f x y v.1
      goes (.warpRequest n) (c.outs.foldl (fun s p => send s n p
        (if p = 4 then { kind := .data, data := w.1, mask := lowMask w.2.1, tag := t.tag, poison := t.poison }
         else scalarTok (if p = 5 then w.2.2.1 else w.2.2.2) t.tag t.poison)) (popIns (release v.2 (.node n)) n [0]))) ∧
    (nodeOk s n .convert = true →
      let x := c.convSt
      (∀ t l, x.out = t :: l → canSend s n 4 1 = true →
        goes (.convertElement n) (setConv (send s n 4 t) n { x with out := l })) ∧
      (x.out = [] → x.out1 = [] → ∀ t, c.front 0 = some t → t.isMarker = false →
        let es := tokenElems c.sfmt t
        ∀ v, convScales s n c x es.length = .ok v → goes (.convertElement n)
          (setConv (popIns (release v.2 (.node n)) n [0]) n
            (convTake c t.tag t.poison x ((es.zip v.1).map fun e => (e.1, e.2.1, e.2.2)))))) ∧
    (millOk s n = true →
      let x := c.macSt
      (x.loaded = false → ∀ t, c.front 0 = some t →
        (t.isMarker = false → x.wtoks ≠ [] ∨ c.front 1 = none →
          goes (.macWeightLoad n) (setMac (popIns s n [0]) n { x with wtoks := x.wtoks ++ [t] })) ∧
        (t.kind = .eod 0 → x.wtoks.length ≠ c.ncol * packTokens c.wfmt c.millK → halts (.macWeightLoad n)) ∧
        (t.kind = .eod 0 → x.wtoks.length = c.ncol * packTokens c.wfmt c.millK → fmtBlock c.wfmt = 0 →
          goes (.macWeightLoad n) (setMac (popIns (release s (.node n)) n [0]) n
            { x with loaded := true, wscales := [], atoks := [], row := 0 }))) ∧
      (∀ t l, x.out = t :: l → canSend s n 4 1 = true →
        let sent := setMac (send s n 4 t) n { x with out := l }
        goes (.macActivationRow n) sent ∧ goes (.macRoundRelease n) sent) ∧
      (x.out = [] → x.loaded = true → ∀ t, c.front 1 = some t →
        let y := { x with atoks := x.atoks ++ [t] }
        let tokens := packTokens c.afmt c.millK
        (t.isMarker = false → rowRoom s n c = true → y.atoks.length < tokens →
          goes (.macActivationRow n) (setMac (popIns s n [1]) n y)) ∧
        (t.isMarker = false → tokens ≤ y.atoks.length → c.accBit = true → 32 ≤ x.row → halts (.macActivationRow n)) ∧
        (t.isMarker = false → rowRoom s n c = true → tokens ≤ y.atoks.length → c.accBit = false ∨ x.row < 32 →
          bankHeld s n c = false → ∀ v, rowScales s (s.nodeAcx n) c.afmt x.adesc x.asdesc x.row (if c.accBit then x.chunk * c.millK else 0)
            c.millK = .ok v →
          goes (.macActivationRow n) (millTakeRow (popIns (release v.2 (.node n)) n [1]) n c y v.1)) ∧
        (t.isMarker = false → tokens ≤ y.atoks.length → c.accBit = true → x.row < 32 → bankHeld s n c = true →
          goes (.macActivationRow n) s) ∧
        (t.isMarker = false → rowRoom s n c = false → goes (.macActivationRow n) s) ∧
        (rowRoom s n c = true ↔ c.accBit = true ∨
          (canSend s n 4 (min (cdiv c.ncol 16) 4) = true ∧ pathTakes s n 4 (cdiv c.ncol 16) = true)) ∧
        (t.kind = .eod 0 → x.atoks ≠ [] → halts (.macActivationRow n)) ∧
        (t.kind = .eod 0 → x.atoks = [] → goes (.macActivationRow n) (setMac (popIns s n [1]) n { x with
          loaded := false, wtoks := [], wscales := [], out := [{ kind := .eod 0, tag := t.tag }]
          chunk := if c.accBit then x.chunk + 1 else 0 }))) ∧
      (x.out = [] → x.loaded = false → x.wtoks = [] → ∀ m, c.heads [0, 1] = .marker m → m.kind ≠ .eod 0 →
        let passed (u : State) : State :=
          let v := popIns u n [0, 1]
          setMac v n { (v.cellAt n).macSt with
            out := (v.cellAt n).macSt.out ++ [{ kind := m.kind, tag := m.tag }]
            idx := if m.kind = .eor then 0 else (v.cellAt n).macSt.idx }
        let release := c.accBit = true ∧ (m.kind = .eor ∨ m.kind = .eos ∧ x.rows ≠ [])
        (release → goes (.macRoundRelease n) (passed (releaseRound s n m))) ∧
        (¬ release → goes (.macRoundRelease n) s))) ∧
    ∀ (fa fb : Nat) (acc : W32) (a b : Opnd),
      fmtInt fa = true → fmtInt fb = true →
        let v := sgn 32 acc.toNat + elemInt fa a.1 * elemInt fb b.1
        matSum fa fb acc [a] [b] =
          (BitVec.ofInt 32 (max (-(2 ^ 31)) (min (2 ^ 31 - 1) v)), decide (v < -(2 ^ 31) ∨ 2 ^ 31 ≤ v))

/-- R38 to R43, R312, R384, R399 to R402: stacked calls freeze the caller at its token-consistent point and load the
callee; a call at depth 64 raises CALL_DEPTH; RET gives its results, and is held while its launch is GATING or SAVING;
images of planes leave for the spill area and return; side calls are placed beside their requester and released.  The
model's choices: a spill image's bytes and its place in the allotment are free values, and a refill takes the plane back from
the context's stack, which holds it beside the bytes (log 12, DESIGN CHOICE, unsafe); a claim comes before a page loads, and
one whose cells are not yet clear waits (log 50). -/
def Obligations.CallsAndReturns : Prop :=
  ∀ (s : State) (n : NodeRef) (i req : Nat) (hams : List Nat),
    let c := s.cellAt n
    let j := c.joinSt
    let goes (i : Instr) (t : State) : Prop := exec i s = .next t
    (∀ x, s.inst n.inst = some x → ∀ l, s.launchOf x.launch = some l → nodeOk s n .join = true →
      c.isCalls = true → siteFull c = true → j.calling = false → j.results = [] → x.plane = .active → l.st = .running →
      (liveGraph s x.launch (c.fld 2 0 8) = none →
        goes (.stackedCall n) (haltNode s n { code := .cfgReject, sub := 11 })) ∧
      (∀ g, liveGraph s x.launch (c.fld 2 0 8) = some g →
        (j.words.length ≠ g.nentry → goes (.stackedCall n) (haltNode s n { code := .cfgReject, sub := 9 })) ∧
        (j.words.length = g.nentry → 64 ≤ x.depth → goes (.stackedCall n)
          (releaseLaunch (stopLaunchReeves (nodeFault s n { code := .callDepth }) x.launch l.reeves) x.launch)) ∧
        (∀ sub, j.words.length = g.nentry → x.depth < 64 →
          placeRefusal (vfHamlets s l.vf) g (calleeFixed x g) = some sub →
          goes (.stackedCall n) (haltNode s n { code := .cfgReject, sub := sub })) ∧
        (j.words.length = g.nentry → x.depth < 64 → placeRefusal (vfHamlets s l.vf) g (calleeFixed x g) = none →
          goes (.stackedCall n)
          (makeRoom ((setJoin s n { j with calling := true }).updInst n.inst fun x =>
            { x with plane := .freezing, call := some (n, j.words, j.tag) }) n.inst)))) ∧
    (∀ x, s.inst i = some x → ∀ r, x.call = some r →
      (x.plane = .shadow → goes (.freezePoint i) (loadCallee s i x r.1 r.2.1 r.2.2)) ∧
      (x.plane = .freezing → settled s i = false → goes (.freezePoint i) s) ∧
      (x.plane = .freezing → settled s i = true → shadowRoom s x.hams = false → goes (.freezePoint i) (makeRoom s i)) ∧
      (x.plane = .freezing → settled s i = true → shadowRoom s x.hams = true →
        ∀ l, s.launchOf x.launch = some l →
        let w := flushReeves s l.reeves
        (w.2 = false → goes (.freezePoint i) w.1) ∧
        (w.2 = true →
          let v := (freezePorts (abandonAll w.1 i) i).updInst i fun x => { x with plane := .shadow }
          let u := sweepAfresh (raiseHeld v x.launch) x.launch
          ∀ y, u.inst i = some y → goes (.freezePoint i) (loadCallee u i y r.1 r.2.1 r.2.2)))) ∧
    (∀ x, s.inst i = some x → x.plane = .spilling →
      let ctx := (s.instCtx i).1
      let area := (spillArea s i).foldl (fun n y => n + (spillImage y.2).length) (Config.spillBase ctx)
      let w := writeAllot s ctx area (spillImage x)
      (spillImage x).length ≤ 77824 * x.hams.length ∧
      goes (.spillComplete i)
        (sweepAfresh (markSpilled (setSpill w i ((i, { x with plane := .shadow }) :: spillArea w i)) i) x.launch)) ∧
    (∀ x, s.inst i = some x → x.plane = .refilling → ∀ y, (spillArea s i).find? (·.1 == i) = some y →
      let im := y.2
      let room (h : Nat) : Bool := (s.ham h).switch.length + (im.hops.filter (·.1 == h)).length ≤ 64
      (im.hops.all (fun e => room e.1) = false → goes (.refillComplete i) s) ∧
      (im.hops.all (fun e => room e.1) = true → goes (.refillComplete i)
        (sweepAfresh (im.hams.foldl syncHam (putHops { s with insts := mset s.insts i im } im.hops)) im.launch))) ∧
    (∀ x, s.inst n.inst = some x → nodeOk s n .join = true → c.isRets = true → siteFull c = true ∨ j.held.isSome = true →
      (saving s n.inst = true → j.held = none →
        goes (.ret n) (setJoin s n { j with held := some j.words, words := [], any := false })) ∧
      (saving s n.inst = false → x.kind = .base → goes (.ret n) (retToPorts s n x (j.held.getD j.words) j.poison)) ∧
      (∀ k site, saving s n.inst = false → x.kind = .stacked k site → x.plane = .active →
        (planeOf s k = .spilled → goes (.ret n) (startRefill s n.inst)) ∧
        (planeOf s k = .refilling → goes (.ret n) s) ∧
        (planeOf s k = .shadow → (graphInsts s.insts.length s n.inst).any (repliesOwed s) = true → goes (.ret n) s) ∧
        (planeOf s k = .shadow → (graphInsts s.insts.length s n.inst).any (repliesOwed s) = false →
          ∀ y, s.inst k = some y → thawRoom s k y (graphInsts s.insts.length s n.inst) = true →
          ∀ u, thawBlocks s k y = .ok u →
          let v := thawed (releaseInst (release u .steward).insts.length n.inst (release u .steward)) k
          let g := (v.cellAt site).joinSt
          let res := (j.held.getD j.words).zipIdx.map fun w =>
            scalarTok w.1 (withIndex g.tag ((tagIndex g.tag + w.2) % 2 ^ 24)) (j.poison || g.poison)
          goes (.ret n) (startRefill (markActive (setJoin v site
            { g with calling := false, words := [], any := false, poison := false, results := res }) k) k)))) ∧
    (∀ q, mget s.sides req = some q → s.nodeLive q.node = true → s.gating q.node.inst = false →
      ∀ g, liveGraph s (s.instLaunch q.node.inst) q.handle = some g →
      let args := ((List.range 4).filter fun p => (sideWord s q).testBit (8 + p)).length
      let part := vfHamlets s (s.instCtx q.node.inst).2
      let fails (f : Trap) : State := haltSlot (q.claim.foldl syncHam { s with sides := mdel s.sides req }) q.node f
      (args ≠ g.nentry → goes (.sideCallPlace req hams) (fails { code := .cfgReject, sub := 9 })) ∧
      (args = g.nentry →
      (∀ sub, placeRefusal part g [] = some sub →
        goes (.sideCallPlace req hams) (fails { code := .cfgReject, sub := sub })) ∧
      (placeRefusal part g [] = none → q.claim = [] → hams.any (fun h => !part.contains h) = true →
        goes (.sideCallPlace req hams) (fails { code := .placeFail })) ∧
      (placeRefusal part g [] = none → q.claim = [] → hams.any (fun h => !part.contains h) = false →
        legalHams part g [] hams = true → allFree s hams = true →
        let p := { q with claim := hams }
        let u := { takeHams s (s.instCtx q.node.inst).1 hams with sides := mset s.sides req p }
        goes (.sideCallPlace req hams) (placeSide u req p g)) ∧
      (placeRefusal part g [] = none → q.claim ≠ [] → goes (.sideCallPlace req hams) (placeSide s req q g) ∧
        ∀ v k, placeOn s (s.instLaunch q.node.inst) (s.instCtx q.node.inst).1 g (.side q.node q.entry)
            (match s.inst q.node.inst with
              | some x => x.depth
              | none => 0) q.claim (sideCircs s q g) = .ok (v, some k) →
          let w := v.updInst k fun x => { x with gated := false }
          placeSide s req q g = q.claim.foldl syncHam { w with sides := mdel w.sides req }))) ∧
    ∀ x, s.inst i = some x → ∀ m e, x.kind = .side m e → x.plane = .active → sideDone s x = true → repliesOwed s i = false →
      goes (.sideCallRelease i) (releaseInst s.insts.length i s)

/-! ### Transfers, translation and the outside

That an event whose conditions are not met changes nothing, wherever a statement of this section says so, is the model's
choice (log 2, DESIGN CHOICE). -/

/-- R140, R170, R181, R257 to R264, R267: a stream starts, reads or writes element by element with its markers, and
completes once all is performed; a copy moves piece by piece; a sparse-update unit applies an update once those before
it are, or merges a later one into an earlier; a hand-over clears a scratchpad after 1,024 cycles and a slice after 262,144.
The model's choices: a copy moves in pieces of up to 64 bytes from its lowest addresses, each cut at a 64-byte boundary of
the destination (log 38; R264 fixes no order); which updates of a window may go before which, and how long an ordered one
waits for an earlier tag (log 61); the cycle in which a throttled issue is let through (log 45). -/
def Obligations.StreamsCopiesAndClears : Prop :=
  ∀ (s : State) (h p : Nat),
    let q := s.sport h p
    let who : Who := .stream h p
    let goes (i : Instr) (t : State) : Prop := exec i s = .next t
    let port (t : State) (x : SPort) : State := t.setSport h p x
    let held (x : Nat) : Bool := (mget (s.reeve h).xfers x).any (barred s h x)
    (∀ sp rest, q.pending = sp :: rest → q.cur = none → xfersMove s h = true → goes (.streamStart h p)
      (port s { q with pending := rest, cur := some sp.begin, xfer := 0 })) ∧
    (∀ x, q.cur = some x → ∀ c, cellOfHam s h 15 = some c → held x.spec.xid = false → xfersMove s h = true →
      let ctrl := declCtrl (portDecl s h p)
      let z := 2 ^ x.spec.esize
      let room := q.buf.length < x.spec.window ∧ q.buf.length < 16
      let mark (k : TokKind) : State := port s { q.push { kind := k, tag := portTag s h q } with cur := some x.advance }
      let next : Stream := { x.advance with moved := x.moved + 1 }
      (x.spec.dir = false → s.nodeLive c.1 = true → s.sourceMay c.1 q.midRound = true →
        (q.sent = 0 → roundHeld s c.1 q.round = true → goes (.streamElement h p) s) ∧
        (q.sent ≠ 0 ∨ roundHeld s c.1 q.round = false →
          (∀ k, x.phase = .mark k → (x.spec.mark.getLsbD k = true → room → goes (.streamElement h p) (mark (.eod k))) ∧
            (x.spec.mark.getLsbD k = false → goes (.streamElement h p) (port s { q with cur := some x.advance }))) ∧
          (x.phase = .eor → x.spec.mark.getLsbD 3 = true → room → goes (.streamElement h p) (mark .eor)) ∧
          (x.phase = .eos → room → goes (.streamElement h p) (mark .eos)) ∧
          (x.phase = .elem → room ∨ x.part.isSome = true →
            ∀ l, access s (streamAcx s h p) x.spec.cap x.offset z z clLoad.engine rR = .ok l →
            ∀ w, issueTo s who (s.reeve h).vf (unitAt l).toList = .ok w →
            ∀ v, capReadNat w (streamAcx s h p) x.spec.cap x.offset z z clLoad.engine = .ok v →
            let t0 := x.part.getD { kind := .data }
            let t := { t0 with
              data := t0.data ||| BitVec.ofNat 512 (v.1 * 2 ^ (8 * z * x.at_))
              mask := t0.mask ||| (1#64 <<< x.at_) }
            let q' := { q with xfer := q.xfer + 1 }
            let u := release v.2 who
            goes (.streamElement h p) (if x.at_ + 1 = (if ctrl then 1 else 64 / z) ∨ next.phase ≠ .elem
              then port u { q'.push { t with tag := portTag u h q' } with cur := some { next with part := none, at_ := 0 } }
              else port u { q' with cur := some { next with part := some t, at_ := x.at_ + 1 } })))) ∧
      (x.spec.dir = true →
        (x.part = none → x.phase ≠ .done → ∀ t rest, q.buf = t :: rest →
          let y := x.skip 3
          let take (x : Stream) : State := port s { q with buf := rest, cur := some x }
          (t.kind = .eos → y.more = false → goes (.streamElement h p) (take { y with phase := .done, eosTaken := true })) ∧
          (t.kind = .data → y.more = false → goes (.streamElement h p) (streamRate (take y) h)) ∧
          (t.kind = .data → y.more = true → t.poison = false →
            goes (.streamElement h p) (take { y with part := some t, at_ := 0 }))) ∧
        (∀ t, x.part = some t →
          let y := if x.at_ + 1 = (if ctrl then 1 else 64 / z) ∨ next.phase ≠ .elem
            then { next with part := none, at_ := 0 } else { next with at_ := x.at_ + 1 }
          let done (u : State) : State := port (release u who)
            { (release u who).sport h p with cur := some (y.skip 3), xfer := q.xfer + 1 }
          let last := (y.skip 3).phase ≠ .elem
          (t.mask.getLsbD x.at_ = false → goes (.streamElement h p) (done s)) ∧
          (t.mask.getLsbD x.at_ = true → last → x.spec.comp = .full → allPerformed s who = false →
            goes (.streamElement h p) s) ∧
          (t.mask.getLsbD x.at_ = true → ¬ last ∨ x.spec.comp ≠ .full ∨ allPerformed s who = true →
            ∀ u, writeElement s h p x t.tag (t.data.toNat / 2 ^ (8 * z * x.at_) % 2 ^ (8 * z)) = .ok u →
            goes (.streamElement h p) (done u)))) ∧
      (x.phase = .done → allPerformed s who = true → goes (.streamComplete h p)
        (completeXfer (port s { q with cur := none }) h x.spec.xid 15 (x.moved * z))) ∧
      (x.phase ≠ .done ∨ allPerformed s who = false → goes (.streamComplete h p) s)) ∧
    (∀ x, mget (s.reeve h).xfers p = some x → x.kind = .copy → barred s h p x = false → xfersMove s h = true →
      let me : Who := .copy h p
      let k := min (x.len - x.pos) (64 - (x.dst.addr + x.pos) % 64)
      (x.pos < x.len → x.red = 0 → x.pos + k < x.len ∨ x.comp ≠ .full ∨ allPerformed s me = true →
        ∀ w, issueTo s me (s.reeve h).vf (copyUnits s h p x k) = .ok w → ∀ u, copyPart w h p x k = .ok u →
        let r := (release u me).reeve h
        goes (.copyComplete h p) ((release u me).setReeve h { r with
          xfers := mupd r.xfers p fun x => { x with pos := x.pos + k } })) ∧
      (x.pos < x.len → x.red = 0 → x.pos + k = x.len → x.comp = .full → allPerformed s me = false →
        goes (.copyComplete h p) s) ∧
      (x.len ≤ x.pos → allPerformed s me = true →
        goes (.copyComplete h p) (completeXfer (copyTiles s h p x) h p 0 x.len)) ∧
      (x.len ≤ x.pos → allPerformed s me = false → goes (.copyComplete h p) s)) ∧
    (let w := mgetD s.windows h []
     ∀ u, w[p]? = some u →
      (mayApply w p = false ∨ tagWaits s w u = true → goes (.sparseUpdateApply h p none) s) ∧
      (mayApply w p = true → tagWaits s w u = false → goes (.sparseUpdateApply h p none)
        (applyUpd { s with windows := mput s.windows h (w.eraseIdx p) [] } u.addr {
          src := u.srcs.headD .steward, ctx := u.ctx, vf := u.vf, launch := u.launch, op := u.op
          val := u.operand, n := u.n, full := u.full } u.srcs)) ∧
      ∀ j v, w[j]? = some v →
        let both := { u with srcs := u.srcs ++ v.srcs, more := u.more ++ v.val :: v.more }
        (mayMerge w p j = true → goes (.sparseUpdateApply h p (some j))
          { s with windows := mput s.windows h ((lset w p both).eraseIdx j) [] }) ∧
        (mayMerge w p j = false → goes (.sparseUpdateApply h p (some j)) s)) ∧
    (∀ c, (s.ham h).clearFor = some c →
      ((s.cycle - c.2).toNat < 1024 → goes (.hamletClearComplete h) s) ∧
      (1024 ≤ (s.cycle - c.2).toNat → ∃ t, exec (.hamletClearComplete h) s = .next t ∧
        t.ham h = { s.ham h with
          place := if (s.ham h).place ≠ .clearing then (s.ham h).place else if claimed s h then .occupied else .free
          owner := some c.1, ctx := c.1, clearFor := none } ∧
        (∀ a, scratchBase h ≤ a ∧ a < scratchBase h + 2 ^ 21 → t.mem.byte a = 0) ∧
        ∀ a, a < scratchBase h ∨ scratchBase h + 2 ^ 21 ≤ a → t.mem.byte a = s.mem.byte a)) ∧
    ∀ c, mget s.sliceClear h = some c →
      ((s.cycle - c.2).toNat < 262144 → goes (.granaryClearComplete h) s) ∧
      (262144 ≤ (s.cycle - c.2).toNat → ∃ t, exec (.granaryClearComplete h) s = .next t ∧
        mget t.sliceOwner h = some c.1 ∧
        (∀ a, slicePhys h 0 ≤ a ∧ a < slicePhys h 0 + Config.sliceBytes → t.mem.byte a = 0) ∧
        ∀ a, a < slicePhys h 0 ∨ slicePhys h 0 + Config.sliceBytes ≤ a → t.mem.byte a = s.mem.byte a)

/-- R148 to R152: a free walker goes to the next parish in rotation that asks; a walk's result reaches every waiter,
and a mapping the parish's cache; the invalidation queue holds 256 entries, and an invalidation completes, its
mappings dropped and its word 1, once every access under them is performed. R131, R132, R136, R173, R174, R407 to
R409: what the host reads and writes, MMIO registers among them; what a peer is answered; the retries of a port, its going
down at the eighth, and its training.  The model's choices: the registers of a function stand at 2^52 and above (log 63); an
answer stands in State.outside (log 21); a root that has been written waits for its invalidation in State.next1 (log 46);
over a trained link that a package FAILED or a failed firmware stage has left without its READY bit the host reaches the
registers, and a walk reads its tables in the step that completes it (log 56). -/
def Obligations.WalksAndOutside : Prop :=
  (∀ (s : State) (shire id : Nat) (e : InvEntry),
     let goes (i : Instr) (t : State) : Prop := exec i s = .next t
     let busy := (s.walks.filter fun w => w.running && parishShire w.parish == shire).length
     let next := (rotation s shire).findSome? fun p => s.walks.find? fun w => !w.running && w.parish == p
     let up := s.usable (64 + shire) = true ∨ s.steward.failed = true
     (32 ≤ busy ∨ ¬ up ∨ next = none → goes (.walkerGrant shire) s) ∧
     (busy < 32 → up → ∀ w, next = some w → goes (.walkerGrant shire) (({ s with
         walks := s.walks.map fun v => if v.id = w.id then { v with running := true } else v
         walkRot := mset s.walkRot shire (w.parish % 5) } : State).count w.vf 0x048)) ∧
     (∀ w, s.walks.find? (fun w => w.id == id && w.running) = some w → ∃ t, exec (.walkComplete id) s = .next t ∧
       t.walks = s.walks.filter (·.id ≠ id) ∧
       t.walkGifts = s.walkGifts ++ w.waiters.map (fun who =>
         { who := who, va := w.va, ctx := w.ctx, need := w.need, res := walk s w.ctx w.vf w.va w.need }) ∧
       t.tlbP = (match walk s w.ctx w.vf w.va w.need with
         | .ok m => mset s.tlbP w.parish (tlbAddP (mgetD s.tlbP w.parish []) m)
         | .fault _ => s.tlbP)) ∧
     (s.invq.length < 256 → e.kind < 4 →
       goes (.invalidationEnqueue e) (rootsFor { s with invq := s.invq ++ [e] } e)) ∧
     (∀ v, e.kind = 1 → mget s.next1 e.id = some v → rootsFor s e =
       { s with roots1 := mset s.roots1 e.id v, next1 := mdel s.next1 e.id }) ∧
     (256 ≤ s.invq.length → goes (.invalidationEnqueue e) s) ∧
     ∀ x rest, s.invq = x :: rest → (∀ r ∈ s.reeves, r.2.comb = []) →
       let pending := s.windows.any (fun w => w.2.any fun u => invOwner x u.ctx u.vf) ||
         s.peerOut.any fun p => p.mapped && invOwner x p.ctx p.vf
       (pending = true → goes .invalidationComplete s) ∧
       (pending = false → ∃ t, exec .invalidationComplete s = .next t ∧ t.invq = rest ∧
         (∀ h m, m ∈ mgetD t.tlbH h [] → invNames x m.ctx m.vf (m.vpage <<< m.lg) m.lg = false) ∧
         (∀ h m, m ∈ mgetD t.tlbP h [] → invNames x m.ctx m.vf (m.vpage <<< m.lg) m.lg = false) ∧
         (populated x.word = true → ∀ j, j < 8 → t.mem.byte (x.word + j) = if j = 0 then 1 else 0))) ∧
  (∀ (s : State) (a n port : Nat) (bs : List Byte) (b : Byte) (src vf : Nat) (op : PeerOp) (ans : PeerAns) (ok : Bool),
     let goes (i : Instr) (t : State) : Prop := exec i s = .next t
     let x := s.port port
     let answers (i : Instr) (o : PeerAns) : Prop := goes i { s with outside := o }
     let mmio := a / 2 ^ 48 = 14 ∨ 2 ^ 52 ≤ a
     let reaches := isHost a = true ∨
       (s.linkMode ≠ 0 ∧ (s.usable 10 = true ∨ (mmio ∧ (s.steward.failed = true ∨ s.boot ≠ 0))))
     let carries (p : Nat) : Prop := (s.port p).up = true ∧ (s.usable (896 + p) = true ∨ s.steward.failed = true)
     (¬ reaches → goes (.hostMemWrite a [b]) s ∧ answers (.hostMemRead a 1) .poison) ∧
     (∀ pa, reaches → a < 2 ^ 52 → physLoc a a = .ok (.phys pa) →
       goes (.hostMemWrite a [b]) { s with mem := s.mem.store pa [b] false } ∧
       (s.mem.badAt pa 1 = false →
         goes (.hostMemRead a 1) { correctSoft s 512 pa 1 with outside := .done [s.mem.byte pa] }) ∧
       (s.mem.badAt pa 1 = true → answers (.hostMemRead a 1) .poison)) ∧
     (reaches → 2 ^ 52 ≤ a → answers (.hostMemRead a 1) (.done (wordBytes (hostMmio s) a 1))) ∧
     (∀ o, reaches → a < 2 ^ 52 → physLoc a a = .error o → goes (.hostMemWrite a [b]) s ∧ answers (.hostMemRead a 1) .poison) ∧
     (reaches → 2 ^ 52 ≤ a → goes (.hostMemWrite a [b]) s) ∧
     (∀ o, reaches → a = 14 * 2 ^ 48 + o → o < 2 ^ 48 →
       (∀ p, p < 48 → o = 0x400 + 8 * p → goes (.hostMemWrite a [b])
         (if b.getLsbD 0 then s.setPort p { s.port p with training := true } else s)) ∧
       (o < 0x400 ∨ 0x580 ≤ o ∨ o % 8 ≠ 0 → goes (.hostMemWrite a [b]) s)) ∧
     let served := (s.usable 11 = true ∨ s.steward.failed = true) ∧ carries (src % 48)
     (¬ served → goes (.peerAccess src vf a op) s) ∧
     (served → mget s.domain (src * 512 + vf) = none → answers (.peerAccess src vf a op) .refused) ∧
     (served → ∀ v, mget s.domain (src * 512 + vf) = some v →
       (∀ c, stage2 s v (a % 2 ^ 41) (peerNeed op) = .error c → answers (.peerAccess src vf a op) .refused) ∧
       ∀ w, stage2 s v (a % 2 ^ 41) (peerNeed op) = .ok w → ∀ pa, physLoc w.1 a = .ok (.phys pa) →
         (op = .load 8 → s.mem.badAt pa 8 = false → ∃ t, exec (.peerAccess src vf a op) s = .next t ∧
           t.outside = .done (s.mem.read pa 8) ∧ (∀ b, t.mem.byte b = s.mem.byte b) ∧ t.mem.tags = s.mem.tags) ∧
         (op = .store bs → goes (.peerAccess src vf a op)
           { storePhys s v pa bs with outside := .done [] })) ∧
     (∀ r, s.peerOut.find? (·.id == n) = some r →
       (¬ carries r.port ∨ isOldest s r = false → goes (.peerReply n ans) s) ∧
       (carries r.port → isOldest s r = true →
         goes (.peerReply n ans) (answerPeer (s.setPort r.port { s.port r.port with retries := 0 }) r ans false))) ∧
     (port < 48 → x.up = true → x.retries < 8 → goes (.flitRetry port) (s.setPort port { x with retries := x.retries + 1 })) ∧
     (port < 48 → x.up = true → 8 ≤ x.retries → ∃ t, exec (.portDown port) s = .next t ∧
       (t.port port).up = false ∧ (t.port port).retries = 0 ∧ 896 + port ∉ t.ready ∧
       ∀ r ∈ t.peerOut, r.port ≠ port) ∧
     (x.up = true → x.retries < 8 → goes (.portDown port) s) ∧
     (port < 48 → goes (.portRetrain port) (writeMmio s (0x400 + 8 * port) 1)) ∧
     (port < 48 → x.training = true → ok = true →
       let up := s.setPort port { up := true }
       (s.steward.failed = false → firstStageDown s = false → goes (.portTrainingDone port ok) { up with
         ready := sadd s.ready (896 + port), newly := sadd s.newly (896 + port) }) ∧
       (s.steward.failed = true ∨ firstStageDown s = true → goes (.portTrainingDone port ok) up)) ∧
     (port < 48 → x.training = true → ok = false → goes (.portTrainingDone port ok)
       { s.setPort port { x with training := false, fail := true, up := false } with ready := sdel s.ready (896 + port) }))

/-! ### Placement and launches

That an event whose conditions are not met changes nothing, wherever a statement of this section says so, is the model's
choice (log 2, DESIGN CHOICE). -/

/-- R36, R37, R198, R388: the pager places a waiting graph on free hamlets of the partition, and the graph's handle
answers the request; a choice outside the partition enters PLACE_FAIL in the launch status, and the request waits for
another (log 15, DEDUCED: R378 gives a reeve no trap for it). A sweep of a launch that is due notes what it
found and starts the next interval; before 65,536 cycles nothing is swept, and a freeze, a spill or a refill suspends
sweeps. -/
def Obligations.PagerAndBeadle : Prop :=
  ∀ (s : State) (req : Nat) (hams : List Nat) (k : Nat),
    let goes (i : Instr) (t : State) : Prop := exec i s = .next t
    (∀ q, mget s.places req = some q →
      (s.launchOf q.launch = none →
        goes (.pagePlacement req hams) (q.claim.foldl syncHam { s with places := mdel s.places req })) ∧
      ∀ l, s.launchOf q.launch = some l →
        let outside := hams.any fun h => !(vfHamlets s l.vf).contains h
        let fixed := (streamPlaces q.graph (launchRect s l)).getD []
        let claims := { q with claim := hams }
        (l.st ≠ .running → goes (.pagePlacement req hams) s) ∧
        (l.st = .running → q.claim = [] → outside = true →
          goes (.pagePlacement req hams)
            (recordFault s q.launch { code := .placeFail } (siteOf s l.vf q.hamlet 0 0 false))) ∧
        (l.st = .running → q.claim = [] → outside = false →
          legalHams (vfHamlets s l.vf) q.graph fixed hams = true → allFree s hams = true →
          let u := takeHams s l.ctx hams
          goes (.pagePlacement req hams) (placeClaimed { u with places := mset u.places req claims } l req claims)) ∧
        (l.st = .running → q.claim ≠ [] → cleared s q.claim = false → goes (.pagePlacement req hams)
          (if freeHandle s q.launch = none then answerPlace s req q (.inr { code := .cfgReject, sub := 8 }) else s)) ∧
        (l.st = .running → q.claim ≠ [] → ∀ hd, freeHandle s q.launch = some hd →
          (∀ t, placeOn s q.launch l.ctx { q.graph with handle := hd } .base 0 q.claim = .error (some t) →
            goes (.pagePlacement req hams) (answerPlace s req q (.inr t))) ∧
          ∀ t k, placeOn s q.launch l.ctx { q.graph with handle := hd } .base 0 q.claim = .ok (t, some k) →
            goes (.pagePlacement req hams) (answerPlace t req q (.inl hd)))) ∧
    (∀ x, s.launchOf k = some x →
      (sweepsOff s k x = true →
        goes (.beadleSweep k) (s.updLaunch k fun x => { x with sweepAt := s.cycle, idle := false })) ∧
      (sweepsOff s k x = false → (s.cycle - x.sweepAt).toNat < 65536 → goes (.beadleSweep k) s) ∧
      (sweepsOff s k x = false → 65536 ≤ (s.cycle - x.sweepAt).toNat →
        let is := launchInsts s k
        let idle := !is.isEmpty && is.all fun y => !y.2.active && idleInst s y.1 y.2
        let noted := is.foldl (fun t y => seen (noteSweep t y.1 y.2) y.1) s
        (idle = false ∨ x.idle = false ∨ is.all (fun y => allEos s y.2) = true ∨ deadConds s k x none = false ∨
          is.all (fun y => y.2.deadlocked) = true → goes (.beadleSweep k)
          (noted.updLaunch k fun x => { x with sweepAt := s.cycle, idle := idle })) ∧
        (idle = true → x.idle = true → is.all (fun y => allEos s y.2) = false → deadConds s k x none = true →
          is.all (fun y => y.2.deadlocked) = false → goes (.beadleSweep k)
          ((raiseDeadlock noted k x.vf).updLaunch k fun x => { x with sweepAt := s.cycle, idle := idle }))))

/-- R183, R199, R369: what the writes of a VF's queue do, when a doorbell is refused, and how the Steward takes the
next entry of the lowest kicked queue that can be served. R369, R370: the dispatcher offers a VF's queued launches in
their order: the first that can be placed is selected, one that is passed over notes when, one that can never be
placed ends; a launch passed over for 1 ms takes the reservation. -/
def Obligations.HostQueuesAndDispatch : Prop :=
  (∀ (s : State) (vf : Nat) (v : W64),
     let goes (i : Instr) (t : State) : Prop := exec i s = .next t
     let q := s.vfOf vf
     let good (base size : W64) : Bool :=
       base.toNat % 64 == 0 && base.toNat < 2 ^ 51 &&
         [16, 32, 64, 128, 256, 512, 1024, 2048, 4096, 8192, 16384, 32768, 65536].contains size.toNat
     let tail : BitVec 32 := v.setWidth 32
     goes (.queueBaseWrite vf v) (s.setVf vf { q with base := v, head := 0, tail := 0, err := !good v q.size }) ∧
     goes (.queueSizeWrite vf v) (s.setVf vf { q with size := v, head := 0, tail := 0, err := !good q.base v }) ∧
     (q.size.toNat < (tail - q.head).toNat →
       goes (.doorbell vf v) (raiseMsix (s.setVf vf { q with err := true }) vf 1)) ∧
     ((tail - q.head).toNat ≤ q.size.toNat → goes (.doorbell vf v) { s.setVf vf { q with tail := tail } with
       steward := { s.steward with kicks := sadd s.steward.kicks vf } }) ∧
     (stewardUp s = true →
       ∀ w, s.steward.kicks.find? (fun v => s.usable (384 + v) && !(s.vfOf v).err) = some w →
         let k := s.vfOf w
         (k.head = k.tail → goes .stewardTakeEntry
           { s with steward := { s.steward with kicks := sdel s.steward.kicks w } }) ∧
         (k.head ≠ k.tail → ∀ t, takeEntry s w k = .ok t →
           let u := t.setVf w { t.vfOf w with head := k.head + 1 }
           goes .stewardTakeEntry { u with steward := { u.steward with journal := u.steward.journal + 1 } }) ∧
         (k.head ≠ k.tail →
           let bad := raiseMsix (s.setVf w { k with err := true }) w 1
           (∀ f, takeEntry s w k = .error (.trap f) → goes .stewardTakeEntry bad) ∧
           (∀ u f, takeEntry s w k = .error (.trapIn u f) → goes .stewardTakeEntry bad) ∧
           ∀ c rq, takeEntry s w k = .error (.wait c rq) → goes .stewardTakeEntry (register s rq)))) ∧
  (∀ (s : State) (vf : Nat),
     let goes (i : Instr) (t : State) : Prop := exec i s = .next t
     let order := queueOrder s vf
     let u := noteBehind s vf
     let placing (u : State) (k : Nat) : State :=
       let v := u.updLaunch k fun l => { l with
         st := .placing, queued := l.queued + (u.time - l.queuedAt), behindAt := none }
       { v with steward := { v.steward with journal := v.steward.journal + 1 } }
     stewardUp s = true →
       (order = [] → goes (.dispatchSelect vf) u) ∧
       (∀ x rest, order = x :: rest → heldBack u vf x.1 x.2 = false →
         (∀ hams, plan u x.2 = .go hams → goes (.dispatchSelect vf) (placing u x.1)) ∧
         (rest = [] → ∀ rq, plan u x.2 = .wait rq → goes (.dispatchSelect vf)
           ((register u rq).updLaunch x.1 fun l => { l with passedAt := some (l.passedAt.getD u.time) })) ∧
         (rest = [] → ∀ t, plan u x.2 = .refuse t → goes (.dispatchSelect vf)
           (closeLaunch ((placing u x.1).updLaunch x.1 fun l =>
             { l with fcode := t.code, fsub := t.sub, nfault := 1 }) x.1))) ∧
       (∀ x, order = [x] → heldBack u vf x.1 x.2 = true → goes (.dispatchSelect vf) u) ∧
       ((s.vfOf vf).reserved = none → ∀ x rest, order = x :: rest → ∀ c, x.2.passedAt = some c →
         1000000 ≤ (s.time - c).toNat →
           goes (.reservationTimer vf) (s.setVf vf { s.vfOf vf with reserved := some x.1 })) ∧
       ((s.vfOf vf).reserved.isSome = true → goes (.reservationTimer vf) s))

/-- R37, R52, R198, R368, R377: a launch that was selected starts on the hamlets of its rectangle; one whose hamlets
lie outside the partition fails; one whose hamlets are still to be cleared waits for the clear. A launch ends when
every work unit, stream, copy and command of it has. R52, R377: each reeve of a launch that starts runs at U level
from the first word of its code, with the launch's context, VF and code capability and the Steward's handler in TVEC.
A launch that a reservation holds back by the time it is placed is queued again (log 45, DEDUCED). -/
def Obligations.LaunchesStartAndEnd : Prop :=
  (∀ (s : State) (k : Nat) (hams : List Nat) (l : Launch),
     let goes (i : Instr) (t : State) : Prop := exec i s = .next t
     let rect := launchRect s l
     s.launchOf k = some l →
       (l.st = .placing → stewardUp s = true → heldBack s l.vf k l = true → goes (.launchPlace k hams) (requeue s k)) ∧
       (l.st = .placing → stewardUp s = true → heldBack s l.vf k l = false →
         (rectOk s l = false → goes (.launchPlace k hams) (refusePlacing s k { code := .cfgReject, sub := 8 })) ∧
         (rectOk s l = true → l.claim = [] → hams.any (fun h => !(vfHamlets s l.vf).contains h) = true →
           goes (.launchPlace k hams) (refuseLaunch s k { code := .placeFail })) ∧
         (rectOk s l = true → l.claim = [] → hams = [] → l.lpb.graph = 0 →
           let r := release s .steward
           let claim := rect.take l.lpb.count
           let u := (takeHams r l.ctx claim).updLaunch k fun x => { x with claim := claim }
           (rect.all (reeveOpen r) = false → goes (.launchPlace k hams) (requeue r k)) ∧
           (rect.all (reeveOpen r) = true → cleared u claim = false → goes (.launchPlace k hams) u) ∧
           (rect.all (reeveOpen r) = true → cleared u claim = true → goes (.launchPlace k hams)
             (claim.foldl syncHam (startLaunch u k { l with claim := claim } rect)))) ∧
         (rectOk s l = true → l.claim ≠ [] →
           (cleared s l.claim = false → goes (.launchPlace k hams) s) ∧
           (cleared s l.claim = true → l.lpb.graph = 0 → goes (.launchPlace k hams)
             (l.claim.foldl syncHam (startLaunch (release s .steward) k l rect))) ∧
           (cleared s l.claim = true → ∀ g u, launchGraph s l = .ok (some g, u) →
             ∀ v i, makeInst (release u .steward) k g .base 0 (l.claim.take g.pages.length) = .ok (v, i) →
             ∀ y, v.launchOf k = some y →
             goes (.launchPlace k hams) (l.claim.foldl syncHam (startLaunch v k y rect))))) ∧
       (l.st = .running → l.rollback = none → l.preemptAsked = false →
         let owed := (launchInsts s k).any fun y => repliesOwed s y.1
         let w := flushReeves s l.reeves
         (launchDone s k l = true → owed = false → w.2 = false ∨ accessOwed w.1 k = true →
           goes (.launchComplete k) w.1) ∧
         (launchDone s k l = true → owed = false → w.2 = true → accessOwed w.1 k = false →
           goes (.launchComplete k) (endLaunch w.1 k l)) ∧
         (launchDone s k l = false ∨ owed = true → goes (.launchComplete k) s))) ∧
  (∀ (s : State) (k : Nat) (l : Launch) (h j stride : Nat),
     let t := startReeve s k stride l h j
     (t.reeve h).run = .running ∧ (t.reeve h).launch = k ∧ (t.reeve h).ctx = l.ctx ∧ (t.reeve h).vf = l.vf ∧
       (t.reeve h).code = l.lpb.code ∧ (t.reeve h).tvec = s.steward.tvec ∧ (t.ham h).owner = some l.ctx ∧ (t.ham h).ctx = l.ctx ∧
       (t.reeve h).pc = BitVec.ofNat 64 l.lpb.code.addr ∧ (t.reeve h).stop = false ∧ (t.reeve h).superv = false ∧
       ∀ m, m ≠ h → t.reeve m = s.reeve m)

/-- R43, R118, R371, R380, R381: a request gates a running launch unless a freeze, a spill or a refill of it is under
way, when it is noted; another launch is left as it is; 80,000 cycles after the request a launch that has not drained
is saved by force; a class that has waited PWAIT has the shortest run of less urgent launches pre-empted, where those that
already leave do not free hamlets enough.  Which run that is, what holds a request, and a launch that waits for no hamlets
are the model's reading (log 41, DEDUCED). -/
def Obligations.PreemptionRequests : Prop :=
  ∀ (s : State) (k : Nat) (l : Launch) (vf : Nat),
    let goes (i : Instr) (t : State) : Prop := exec i s = .next t
    let v := s.vfOf vf
    let u := noteBehind s vf
    let late : Option (Nat × Launch) := (queueOrder u vf).find? fun x => match x.2.behindAt with
      | some c => v.pwait.toNat ≤ (u.time - c).toNat
      | none => false
    (s.launchOf k = some l →
      (l.st ≠ .running → goes (.preemptRequest k) s) ∧
      (l.st = .running → requestHeld s k l = true →
        goes (.preemptRequest k) (s.updLaunch k fun x => { x with
          preemptAsked := true, gatingAt := if x.preemptAsked then x.gatingAt else s.cycle })) ∧
      (l.st = .running → requestHeld s k l = false → ∃ t, exec (.preemptRequest k) s = .next t ∧
        (∀ m, t.launchOf k = some m → m.st = .gating ∧ m.ckptAt = none ∧ (l.ckptAt = none → m = { l with
          st := .gating, gatingAt := if l.preemptAsked then l.gatingAt else s.cycle, preemptAsked := false })) ∧
        t.steward.journal = s.steward.journal + 1 ∧
        (∀ h ∈ l.reeves, (t.reeve h).wait = none) ∧
        (∀ w ∈ t.waiters, ∀ h ∈ l.reeves, w.who ≠ .reeve h) ∧
        ∀ i y, t.inst i = some y → y.launch = k → y.pmkSent = [] ∧ y.passed = []) ∧
      (l.st = .gating → (launchInsts s k).all (fun y => instDrained s y.1 y.2) = false →
        ((s.cycle - l.gatingAt).toNat < 80000 → goes (.preemptForce k) s) ∧
        (80000 ≤ (s.cycle - l.gatingAt).toNat → goes (.preemptForce k)
          (s.enter k fun x => { x with notes := x.notes ||| 2#8, st := .saving, forced := true })))) ∧
    (∀ f, s.enter k f = { s with
      launches := mupd s.launches k f, steward := { s.steward with journal := s.steward.journal + 1 } }) ∧
    (v.pwait = 0 ∨ stewardUp u = false ∨ late = none → goes (.pwaitPreempt vf) u) ∧
    (v.pwait ≠ 0 → stewardUp u = true → ∀ x, late = some x →
      let w := afterPreempts u vf
      (plan w x.2 ≠ .wait none → goes (.pwaitPreempt vf) u) ∧
      (plan w x.2 = .wait none → ∀ a, victims w x.2 (victimOrder u vf (effClass u x.2)) = [a] →
        ∀ y, u.launchOf a = some y → goes (.pwaitPreempt vf) (askPreempt u a y)))

/-- R188, R331, R368, R380, R382, R389: a GATING launch whose every node has been passed is SAVING; once its engine
commands and firings have ended, its combining entries have been flushed and no access is owed, it is SAVED: it holds an
image with the header's magic, version, context, LAUNCHID and flags, has no reeve, and nothing of it stands on the fabric.
A SAVED launch is RESTORING, and then goes on the first place that qualifies, or the restore fails with code 0x14 and it is
SAVED as before.  The model's choices: the image is data in State beside its bytes in memory, which are free values (log 12);
the answer of a restore stands in State.outside (log 21); which places are tried, with the shape of the saved partition (log
32); what a save waits for (log 41). -/
def Obligations.SaveAndRestore : Prop :=
  ∀ (s : State) (k : Nat) (l : Launch),
    let goes (i : Instr) (t : State) : Prop := exec i s = .next t
    s.launchOf k = some l →
      let drained := (launchInsts s k).all fun y => instDrained s y.1 y.2
      let flushed := flushReeves s l.reeves
      (l.st = .gating → drained = false → goes (.saveComplete k) s) ∧
      (l.st = .gating → drained = true → goes (.saveComplete k) (s.enter k fun x => { x with st := .saving })) ∧
      (l.st = .saving → enginesRun s k = true ∨ firingRuns s k = true → goes (.saveComplete k) s) ∧
      (l.st = .saving → enginesRun s k = false → firingRuns s k = false →
        (flushed.2 = false ∨ accessOwed flushed.1 k = true → goes (.saveComplete k) flushed.1) ∧
        (flushed.2 = true → accessOwed flushed.1 k = false → ∃ t, exec (.saveComplete k) s = .next t ∧
          (∀ m, t.launchOf k = some m → m.st = .saved ∧ m.reeves = [] ∧ ∃ im, m.image = some im ∧ im.header.length = 256 ∧
            im.header.take 16 = leBytes 4 0x4456494D ++ leBytes 4 2 ++ leBytes 4 l.ctx ++ leBytes 4 l.lid.toNat ∧
            (im.header.getD 0x18 0).getLsbD 0 = l.forced ∧ (im.header.getD 0x18 0).getLsbD 1 = l.rollback.isSome) ∧
          launchInsts t k = [] ∧ (∀ h ∈ l.reeves, (t.reeve h).run = .idle))) ∧
      (l.st = .saved → l.image.isSome = true →
        goes (.restore k) (s.enter k fun x => { x with st := .restoring })) ∧
      (l.st = .restoring → ∀ im, l.image = some im → ∀ given, partition s l.vf = some given →
        ∀ u, remapAllot s l.ctx = some u →
        let fits := placeImage u k l im (candidates im given)
        (fits = none →
          goes (.restore k) { s.enter k (fun x => { x with st := .saved }) with outside := .done [0x14] }) ∧
        (∀ x, fits = some x → ∃ t, exec (.restore k) s = .next t ∧ t.outside = .done [0] ∧
          ∀ m, t.launchOf k = some m → m.image = none ∧ (m.st = .running ∨ m.st = .replaying) ∧
            (l.rollback.isSome = true → m.st = .replaying))) ∧
      (l.st ≠ .saved → l.st ≠ .restoring → goes (.restore k) s)

/-- R43, R381, R385 to R387: in a running launch with REPLAY 2 a source stops before a round that is a multiple of CKPT, and a checkpoint
begins; once every source has emitted its marker and every node has been passed, the launch takes its record anew; after
80,000 cycles it is put off, and its sources go on; a launch with a replay-triggering fault is REPLAYING once no
freeze is under way (R43), and loads the record; one that may not replay completes with REPLAY_FAIL.  The 80,000 cycles of
R381 for a checkpoint, the sweeps that start afresh after it, and a rollback at the launch's own hamlets first are the
model's reading (log 43, DEDUCED). -/
def Obligations.CheckpointAndReplay : Prop :=
  ∀ (s : State) (k : Nat) (l : Launch),
    let goes (i : Instr) (t : State) : Prop := exec i s = .next t
    s.launchOf k = some l →
      let on := l.st = .running ∧ l.lpb.replay = 2 ∧ l.racing = false ∧ l.rollback = none ∧ l.record.isSome = true ∧
        ∀ y ∈ s.insts, y.2.launch = k → y.2.plane = .active
      let held := (openInsts s k).any fun y => (heldRound s y.1 y.2).isSome
      (on → ∀ n x r, s.inst n.inst = some x → x.launch = k → r % l.lpb.ckpt = 0 → r ≠ x.ckptRound →
        roundHeld s n r = true) ∧
      (¬ on → l.ckptAt = none → goes (.checkpoint k) s) ∧
      (on → l.ckptAt = none → held = false → goes (.checkpoint k) s) ∧
      (on → l.ckptAt = none → held = true → ∃ t, exec (.checkpoint k) s = .next t ∧
        t.launchOf k = some { l with ckptAt := some s.cycle } ∧
        ∀ i y, t.inst i = some y → y.launch = k → y.pmkSent = [] ∧ y.passed = []) ∧
      (on → ∀ c, l.ckptAt = some c →
        (ckptClean s k l.lpb.ckpt = true → ∃ t m, exec (.checkpoint k) s = .next t ∧
          t.launchOf k = some { l with record := some m, ckptAt := none, dirty := false, notes := l.notes &&& 0xF7#8
                                       sweepAt := s.cycle, idle := false } ∧
          ((mkeys s.insts).Pairwise (· < ·) → ∀ i x, (i, x) ∈ openInsts s k → ∀ r, heldRound s i x = some r →
            (t.inst i).map (·.ckptRound) = some r)) ∧
        (ckptClean s k l.lpb.ckpt = false → (s.cycle - c).toNat < 80000 → goes (.checkpoint k) s) ∧
        (ckptClean s k l.lpb.ckpt = false → 80000 ≤ (s.cycle - c).toNat →
          goes (.checkpoint k) (ckptDrop (ckptPass s k) k l))) ∧
      (l.rollback = none → goes (.replayRollback k) s) ∧
      (l.rollback.isSome = true → l.st = .running →
        (freezes s k = true → goes (.replayRollback k) s) ∧
        (freezes s k = false → goes (.replayRollback k) (s.enter k fun x => { x with st := .replaying }))) ∧
      (∀ t, l.rollback = some t → l.st = .replaying →
        let d := discardLaunch s k l
        (mayReplay l = false → goes (.replayRollback k) (closeLaunch (d.updLaunch k fun x => { x with
          fcode := .replayFail, fsub := t.code.num, rollback := none }) k)) ∧
        (mayReplay l = true → ∀ im, l.record = some im → ∀ given, partition s l.vf = some given →
          (∀ h ∈ im.hams, (partHamlets given).contains h = true) →
          ∀ u, placeImage (replayed d k l im t) k l im [Spot.stay im.hams] = some u →
            goes (.replayRollback k) u.1))

/-- R390, R406, R410, R413: the events of the Steward's cores complete in every state. A trap of the active core holds
delivery where the other core is ready; with none left, as in a takeover whose core has started, and at a thermal stop, the
package enters FAILED: every READY bit but FAILED is clear and vector 3 of every VF is raised, which is sent or pends.  That
vector 3 goes to EVERY VF, and that a trap while the standby core is not ready is FAILED, are the model's reading (log 44,
DEDUCED). The standby core starts, is then the active one, and the
launches that were being placed are QUEUED again. At the end of the takeover every tenant's ring has the takeover record,
what was held is delivered in order, and the core is the last one. -/
def Obligations.StewardTakeover : Prop :=
  ∀ (s : State),
    let goes (i : Instr) (t : State) : Prop := exec i s = .next t
    let k := s.steward
    let other := 1 - k.active
    let raised (u : State) : State := (List.range 512).foldl (fun u v => raiseMsix u v 3) u
    let failedAll := raised { s with
      ready := [12], steward := { k with failed := true, trapped := false, standby := false } }
    -- STEWARD_TRAP
    (k.trapped = false → k.failed = false → k.last = false → s.usable (8 + other) = true →
      goes .stewardTrap { s with steward := { k with trapped := true, standby := false } }) ∧
    (k.trapped = false → k.failed = false → k.last = true ∨ s.usable (8 + other) = false →
      goes .stewardTrap failedAll) ∧
    (k.trapped = true → k.failed = false → k.standby = true → goes .stewardTrap failedAll) ∧
    (k.trapped = true → k.standby = false → goes .stewardTrap s) ∧
    (k.failed = true → goes .stewardTrap s) ∧
    -- STANDBY_START
    (k.trapped = true → k.standby = false →
      let placing := (s.launches.filter fun x => x.2.st == .placing).map (·.1)
      let queued := placing.foldl (fun u n => requeue u n) s
      goes .standbyStart { queued with steward := { queued.steward with active := 1 - queued.steward.active, standby := true } }) ∧
    (k.trapped = true → k.standby = false → ∃ t, exec .standbyStart s = .next t ∧ t.steward.active = other ∧
      ∀ n l, t.launchOf n = some l → l.st ≠ .placing) ∧
    (k.trapped = false ∨ k.standby = true → goes .standbyStart s) ∧
    -- TAKEOVER_END
    (k.trapped = true → k.standby = true →
      let told := (mkeys s.vfs).foldl (fun u v => crier u v 0x09 0 0 0 0 (leBytes 4 k.journal) true) s
      let given := told.steward.held.foldl deliver told
      goes .takeoverEnd (raised { given with
        steward := { given.steward with trapped := false, standby := false, last := true, held := [] } })) ∧
    (k.trapped = true → k.standby = true → ∃ t, exec .takeoverEnd s = .next t ∧
      t.steward.trapped = false ∧ t.steward.last = true ∧ t.steward.held = [] ∧
      ∀ v, v < 512 → if (t.vfOf v).vmask.contains 3 then 3 ∈ (t.vfOf v).msix else 0 < mgetD (t.vfOf v).vsent 3 0) ∧
    (k.trapped = false ∨ k.standby = false → goes .takeoverEnd s) ∧
    -- THERMAL_STOP
    (k.failed = false → goes .thermalStop failedAll) ∧
    (k.failed = true → goes .thermalStop s)

/-! ### Engines

That an event whose conditions are not met changes nothing, wherever a statement of this section says so, is the model's
choice (log 2, DESIGN CHOICE). -/

/-- R328, R330, R334, R336 to R340, R348: a Drover takes the oldest waiting DROVE of its parish while fewer than 16
run, a Pinfold the oldest command whose grid no earlier command of the shire names; a command that started goes on piece
by piece, and once all that it wrote is performed its status area and completion signal say what it did, or which fault
ended it; one that waits for an access changes nothing but the request.  What each piece reads and writes: a DROVE key's
loop and its entry, a PINBIN point, its pen and the pens that none reached, PINPAIR's pairs in their order, MPATH's split.
That a piece is a step is log 34 (DESIGN CHOICE). -/
def Obligations.EngineCommands : Prop :=
  ∀ (s : State) (unit id : Nat),
    let goes (i : Instr) (t : State) : Prop := exec i s = .next t
    let drovers := s.cmds.filter fun x => x.2.eng == .drove && hamSlice x.2.hamlet == unit
    let binners := s.cmds.filter fun x => (x.2.eng == .pinbin || x.2.eng == .pinpair) && hamShireG x.2.hamlet == unit
    let begins (i : Instr) (k : Nat) (c : Cmd) : Prop :=
      goes i { s with cmds := mset s.cmds k { c with started := true } }
    (∀ x, drovers.find? (fun x => !x.2.started) = some x →
      ((drovers.filter (·.2.started)).length < 16 → begins (.droverWalkStart unit) x.1 x.2) ∧
      (16 ≤ (drovers.filter (·.2.started)).length → goes (.droverWalkStart unit) s)) ∧
    (∀ x, binners.find? (fun x => !x.2.started && !binners.any fun y =>
        decide (y.1 < x.1) && y.2.gridBase == x.2.gridBase) = some x →
      begins (.pinfoldCommandStart unit) x.1 x.2) ∧
    (∀ c, mget s.cmds id = some c →
      let closes (t : State) (c : Cmd) : State :=
        if c.prog.fin = true ∧ allPerformed t (.cmd id) = true then finishCmd t id c c.prog.res else t
      let moves (t : State) (p : Prog) : State :=
        closes (release { t with cmds := mset t.cmds id { c with prog := p } } (.cmd id)) { c with prog := p }
      let runs (w : Work (State × Prog)) (leads : State → Prop) : Prop :=
        (c.prog.fin = true → leads (closes s c)) ∧
        (c.prog.fin = false →
          (∀ t, w = .ok t → leads (moves t.1 t.2)) ∧
          (∀ t, w = .error (.inr t) → leads (moves t.1 { c.prog with fin := true, res := t.2 })) ∧
          ∀ e q, w = .error (.inl (.wait e q)) → leads (register s q))
      (c.eng = .drove → c.started = true → runs (droveNext s (c.acx id) c) fun t => goes (.droverWalkComplete id) t) ∧
      (c.eng = .pinbin → c.started = true → runs (binNext s (c.acx id) c) fun t => goes (.pinbinComplete id) t) ∧
      (c.eng = .pinpair → c.started = true → runs (pairNext s (c.acx id) c) fun t => goes (.pinpairComplete id) t) ∧
      (c.eng = .mpath → runs (mpathNext s (c.acx id) c) fun t => goes (.mpathComplete id) t) ∧
      (c.started = false → goes (.droverWalkComplete id) s ∧ goes (.pinbinComplete id) s ∧ goes (.pinpairComplete id) s) ∧
      -- R334, R335: the loop of one key, where a key starts, and the entry of a key
      let x := c.acx id
      let p := c.prog
      (∀ (key fuel o r n last : Nat) (held : Option (List Byte)) (st u : State) (b : List Byte),
        let w := c.fld (0x40 + 8 * r) 8
        let hit := ruleCond w b key
        let act := if hit then w / 2 ^ 50 % 4 else w / 2 ^ 41 % 4
        let nxt := if hit then w / 2 ^ 46 % 16 else w / 2 ^ 37 % 16
        let ptr := if hit then w / 2 ^ 43 % 8 else w / 2 ^ 34 % 8
        let walk := droveLoop x c key
        walk fuel st 0 r n last held = .ok ({ outcome := 1, steps := n, last := last }, st) ∧
        (o ≠ 0 → walk 0 st o r n last held = .ok ({ outcome := 2, steps := n, last := last }, st)) ∧
        (o ≠ 0 → (held = some b ∧ u = st) ∨
            (held = none ∧ engRead st x (c.desc 0x22).base o (8 * c.fld 0x25 1) 1 = .ok (b, u)) →
          (act = 0 → walk (fuel + 1) st o r n last held =
            walk fuel u (leNat ((b.drop (8 * ptr)).take 5)) nxt (n + 1) o none) ∧
          (act = 1 → walk (fuel + 1) st o r n last held =
            .ok ({ outcome := 0, steps := n + 1, last := o, rec_ := b }, u)) ∧
          (act = 2 → walk (fuel + 1) st o r n last held = .ok ({ outcome := 1, steps := n + 1, last := o }, u)) ∧
          (act = 3 → walk (fuel + 1) st o r n last held = walk fuel u o nxt (n + 1) o (some b)))) ∧
      (∀ j k u, engNat s x (c.desc 0x20).base (8 * j : Nat) 8 8 = .ok (k, u) →
        (c.fld 0x26 1 % 2 = 0 → droveKey s x c j = droveLoop x c k (c.fld 0x2C 2) u (c.fld 0x30 8) 0 0 0 none) ∧
        (c.fld 0x26 1 % 2 = 1 → ∀ o v, engNat u x (c.desc 0x23).base
            (8 * (k * 0x9E3779B97F4A7C15 / 2 ^ 32 % 2 ^ 32 % c.fld 0x38 4) : Nat) 8 8 = .ok (o, v) →
          droveKey s x c j = droveLoop x c k (c.fld 0x2C 2) v o 0 0 0 none)) ∧
      (p.at_ < c.fld 0x28 4 → ∀ k u, droveKey s x c p.at_ = .ok (k, u) → k.trap = none →
        ∀ v, engWrite u x (c.desc 0x21).base (64 * p.at_ : Nat) 64
          (leBytes 8 k.last ++ [BitVec.ofNat 8 k.outcome, 0#8] ++ leBytes 2 k.steps ++ leBytes 4 0 ++
            (k.rec_ ++ List.replicate 48 0#8).take 48) = .ok v →
        ∃ q, droveNext s x c = .ok (v, q) ∧ q.at_ = p.at_ + 1 ∧ q.res.c2 = p.res.c2 + k.steps ∧
          q.res.c1 = p.res.c1 + if k.outcome = 0 then 1 else 0) ∧
      -- R338: the epoch, a point, a pen that no point reached, the end
      (p.begun = false → ∀ bs u, engRead s x (c.desc 0x20).base 0 64 16 = .ok (bs, u) →
        ∀ v, engWrite u x (c.desc 0x20).base 0x1C 4 (leBytes 4 (((gridOf bs).epoch + 1) % 2 ^ 32)) = .ok v →
        binNext s x c = .ok (v, { p with begun := true, hdr := bs })) ∧
      (∀ (a o edge : Machine.Num) (n : Nat) (wrap : Bool), penOf a o edge n wrap =
        if a.isFin && (rn (Machine.Num.sub a o)).isFin then
          let q := floorDiv (rn (Machine.Num.sub a o)) edge
          some (if wrap then q % n else if q < 0 then 0 else if (n : Int) - 1 < q then (n : Int) - 1 else q).toNat
        else none) ∧
      (p.begun = true →
        let g := gridOf p.hdr
        let entry (e : Pen) : List Byte :=
          leBytes 2 e.count ++ leBytes 2 e.ovf ++ leBytes 4 ((g.epoch + 1) % 2 ^ 32) ++ leBytes 4 e.head ++ leBytes 4 0
        let puts (u : State) (k : Nat) (e : Pen) (v : State) : Prop :=
          engWrite u x (c.desc 0x20).base (0x40 + 16 * k : Nat) 16 (entry e) = .ok v
        (p.at_ < c.fld 0x28 4 → ∀ bs u, engRead s x (c.desc 0x21).base (16 * p.at_ : Nat) 16 16 = .ok (bs, u) →
          let pen (j : Nat) (o : Machine.Num) (n : Nat) (wrap : Bool) : Option Nat :=
            penOf (unpackF fp32 (leNat ((bs.drop j).take 4))) o g.edge n wrap
          (pen 0 g.ox g.nx g.wrapx = none ∨ pen 4 g.oy g.ny g.wrapy = none →
            binNext s x c = .ok (u, { p with at_ := p.at_ + 1 })) ∧
          ∀ px py, pen 0 g.ox g.nx g.wrapx = some px → pen 4 g.oy g.ny g.wrapy = some py →
            let k := py * g.nx + px
            let e := mgetD p.pens k {}
            (e.count < g.cap →
              let f := { e with count := e.count + 1 }
              ∀ v, engWrite u x (c.desc 0x22).base (4 * (k * g.cap + e.count) : Nat) 4 (leBytes 4 p.at_) = .ok v →
              ∀ t, puts v k f t → binNext s x c =
                .ok (t, { p with at_ := p.at_ + 1, pens := mset p.pens k f, binned := p.binned + 1 })) ∧
            (g.cap ≤ e.count → c.fld 0x2C 4 ≤ p.used → binNext s x c = .ok (u, { p with
              fin := true, res := { st := 3, fc := Code.penOverflow.num, c1 := p.binned, c2 := p.used } })) ∧
            (g.cap ≤ e.count → p.used < c.fld 0x2C 4 →
              let f := { e with ovf := e.ovf + 1, head := if e.tail = 0xFFFFFFFF then p.used else e.head, tail := p.used }
              ∀ v, engWrite u x (c.desc 0x23).base (8 * p.used : Nat) 8 (leBytes 4 p.at_ ++ leBytes 4 0xFFFFFFFF) = .ok v →
              ∀ w, (if e.tail = 0xFFFFFFFF then Except.ok v
                else engWrite v x (c.desc 0x23).base (8 * e.tail + 4 : Nat) 4 (leBytes 4 p.used)) = .ok w →
              ∀ t, puts w k f t → binNext s x c = .ok (t, { p with
                at_ := p.at_ + 1, pens := mset p.pens k f, used := p.used + 1, binned := p.binned + 1 }))) ∧
        (c.fld 0x28 4 ≤ p.at_ →
          let k := p.at_ - c.fld 0x28 4
          (g.nx * g.ny ≤ k →
            binNext s x c = .ok (s, { p with fin := true, res := { c1 := p.binned, c2 := p.used } })) ∧
          (k < g.nx * g.ny → mget p.pens k = none → ∀ t, puts s k {} t →
            binNext s x c = .ok (t, { p with at_ := p.at_ + 1 })))) ∧
      -- R339: what a pair is, the pairs in their order, and how they are written
      (∀ (a b edge : Machine.Num) (n : Nat) (wrap : Bool),
        let d := rn (Machine.Num.sub b a)
        let l := Machine.Num.mul (Machine.Num.ofInt n) edge
        let half := l.scale (-1)
        pairDelta a b edge n wrap =
          if wrap && Machine.Num.lt half d then (rn (Machine.Num.sub d l), true)
          else if wrap && Machine.Num.lt d half.neg then (rn (Machine.Num.add d l), true)
          else (d, false)) ∧
      (∀ (g : Grid) (t : Machine.Num) (m : Option Int) (a b : Nat × Nat × Machine.Num × Machine.Num) (l : List (Nat × Nat × Machine.Num × Machine.Num)),
        let dx := pairDelta a.2.2.1 b.2.2.1 g.edge g.nx g.wrapx
        let dy := pairDelta a.2.2.2 b.2.2.2 g.edge g.ny g.wrapy
        let d2 := packF fp32 0 (Machine.Num.add (rn (Machine.Num.mul dx.1 dx.1)) (rn (Machine.Num.mul dy.1 dy.1)))
        pairOf g t m a b =
          (if penNear (a.2.1 % g.nx) (b.2.1 % g.nx) g.nx g.wrapx m &&
              penNear (a.2.1 / g.nx) (b.2.1 / g.nx) g.ny g.wrapy m && Machine.Num.le (unpackF fp32 d2) t then
            some ((if dx.2 then 1 else 0) + (if dy.2 then 2 else 0), d2) else none) ∧
        pairList g t m (a :: l) = (l.filterMap fun b => (pairOf g t m a b).map fun y =>
          leBytes 4 a.1 ++ leBytes 4 b.1 ++ leBytes 4 y.2 ++ leBytes 4 y.1) ++ pairList g t m l) ∧
      (p.begun = true → ∀ e l, p.rest = e :: l →
        let q := p.res.c1 - p.rest.length
        (∀ t, engWrite s x (c.desc 0x24).base (16 * q : Nat) 16 e = .ok t →
          pairNext s x c = .ok (t, { p with rest := l, fin := l.isEmpty })) ∧
        ∀ t, engWrite s x (c.desc 0x22).base (8 * q : Nat) 8 e = .ok t →
          mpathNext s x c = .ok (t, { p with rest := l, fin := l.isEmpty })) ∧
      -- R348: the split of the merge, and its entries
      (∀ (desc : Bool) (fuel na : Nat) (a b : Int) (l m : List Int),
        let split := mergeSplit desc
        (split 0 na l m).head? = some na ∧
        split (fuel + 1) na (a :: l) (b :: m) = na ::
          (if (if desc then b ≤ a else a ≤ b) then split fuel (na + 1) l (b :: m) else split fuel na (a :: l) m) ∧
        split (fuel + 1) na (a :: l) [] = na :: split fuel (na + 1) l [] ∧
        split (fuel + 1) na [] (b :: m) = na :: split fuel na [] m) ∧
      (p.begun = false →
        let a := c.desc 0x20
        let b := c.desc 0x21
        let n := a.count 0 + b.count 0
        ∀ u ka, mpathKeys x c a (a.count 0) s = .ok (u, ka) → ∀ v kb, mpathKeys x c b (b.count 0) u = .ok (v, kb) →
        let split := mergeSplit (c.fld 0x24 1 == 1) n 0 ka kb
        mpathNext s x c = .ok (v, { p with
          begun := true, res := { c1 := c.arg % 2 ^ 24 + 1 }
          rest := (List.range (c.arg % 2 ^ 24 + 1)).map fun q =>
            let d := q * n / (c.arg % 2 ^ 24)
            leBytes 4 (nth0 split d) ++ leBytes 4 (d - nth0 split d) })))

/-- R341 to R344, R366: a Thresher starts the oldest waiting session of its shire while fewer than 128 run; a session that
may run and whose ring has a free slot takes a batch sample by sample, in the order of its streams, into the slot of WP,
and writes each sample's records, pool entries and directory entry before the next; after the last, once it is performed,
the ring's slot completes and the batch counts; a fault ends the session; a CLOSE completes the batch in progress, and a
session ends when CLOSE has asked for it or every stream is over; before a batch it waits until some stream is known to hold
a picture or all to be over.  One sample or one piece of it in a step, and the event's argument of further steps, are log 36
(DESIGN CHOICE). -/
def Obligations.ThresherSessions : Prop :=
  ∀ (s : State) (shire id : Nat),
    let goes (i : Instr) (t : State) : Prop := exec i s = .next t
    let here := s.cmds.filter fun x => x.2.eng == .threshOpen && hamShireG x.2.hamlet == shire
    (∀ x, here.find? (fun x => !x.2.started) = some x →
      ((here.filter (·.2.started)).length < 128 → goes (.thresherSessionStart shire)
        { s with cmds := mset s.cmds x.1 { x.2 with started := true } }) ∧
      (128 ≤ (here.filter (·.2.started)).length → goes (.thresherSessionStart shire) s)) ∧
    ∀ c, mget s.cmds id = some c →
      let n := c.fld 0x22 1 + 1
      let g := (s.reeve c.hamlet).ring (c.fld 0x23 1 % 16)
      let room := (g.wp - g.rp).toNat < g.size
      let e := if c.sess.sample = 0 then { c.sess with slot := g.wp.toNat % g.size } else c.sess
      let st := (c.sess.batches * n + e.sample) % c.fld 0x24 2
      let work : Except Stop (State × Session) :=
        if e.closing = true then putSample s c e st (mgetD e.pics st 0) 4 ([], [])
        else takeSample s (c.acx id) c e st
      let goesOn (w : Except Stop (State × Session)) : Prop :=
        (∀ t, w = .ok t → goes (.thresherBatch id 0)
          (release { t.1 with cmds := mset t.1.cmds id { c with sess := t.2 } } (.cmd id))) ∧
        (∀ f, w = .error (.trap f) → goes (.thresherBatch id 0) (endSession (engFault s c f) id c
          { st := 3, fc := f.code.num, c1 := c.sess.batches, c2 := c.sess.corrupt.toNat })) ∧
        ∀ k rq, w = .error (.wait k rq) → goes (.thresherBatch id 0) (register s rq)
      let ends := endSession s id c { c1 := c.sess.batches, c2 := c.sess.corrupt.toNat }
      let ahead := (List.range (c.fld 0x24 2)).map (streamAhead s (c.acx id) c)
      (∀ p l, c.sess.rest = p :: l →
        (c.eng = .threshOpen → cmdLive s c = true →
          goesOn ((engWrite s (c.acx id) (p.base c) p.off p.align p.bytes).map fun t => (t, { c.sess with rest := l }))) ∧
        (c.eng ≠ .threshOpen ∨ cmdLive s c = false → goes (.thresherBatch id 0) s)) ∧
      (c.sess.rest = [] → sessionRuns s c = false ∨ sessionOver s id c = true ∨ ¬ room → goes (.thresherBatch id 0) s) ∧
      (c.sess.rest = [] → sessionRuns s c = true → sessionOver s id c = false → room → c.sess.sample = n →
        (allPerformed s (.cmd id) = false ∨ g.size ≤ (g.rsv - g.rp).toNat → goes (.thresherBatch id 0) s) ∧
        (allPerformed s (.cmd id) = true → (g.rsv - g.rp).toNat < g.size →
          goes (.thresherBatch id 0) (batchDone s id c))) ∧
      (c.sess.rest = [] → sessionRuns s c = true → sessionOver s id c = false → room → c.sess.sample ≠ n →
        (c.sess.sample ≠ 0 ∨ c.sess.batches = 0 ∨ ahead.contains .more = true → goesOn work) ∧
        (c.sess.sample = 0 → c.sess.batches ≠ 0 → ahead.contains .more = false → ∀ rq l, ahead = .unknown rq :: l →
          goes (.thresherBatch id 0) (register s rq))) ∧
      (∀ pic r, ∃ ps, putSample s c e st pic 1 r = .ok (s, { e with
          sample := e.sample + 1, recs := e.recs + r.1.length, subs := e.subs + r.2.length, rest := ps }) ∧
        ps.length = r.1.length + 2 * r.2.length + 1 ∧
        ps.getLast? = some { field := 0x2B, off := 32 * (e.slot * n + e.sample), align := 1
                             bytes := dirEntry st pic (e.slot * c.fld 0x30 4 + e.recs) r.1.length
                               (e.slot * c.fld 0x34 4 + e.subs) r.2.length 1 }) ∧
      (∀ t more, exec (.thresherBatch id 0) s = .next t →
        exec (.thresherBatch id (more + 1)) s = exec (.thresherBatch id more) t) ∧
      (sessionRuns s c = true → c.sess.sample = 0 → c.sess.rest = [] → c.sess.closing = true →
        goes (.thresherSessionEnd id) ends) ∧
      (sessionRuns s c = true → c.sess.sample = 0 → c.sess.rest = [] → c.sess.batches ≠ 0 → ahead.all (· == .over) = true →
        goes (.thresherSessionEnd id) ends) ∧
      (sessionRuns s c = false ∨ sessionOver s id c = false → goes (.thresherSessionEnd id) s)

/-- R73, R76, R185, R345 to R347: the oldest ready record among the 32 oldest of a queue goes to a free mill that is
wide enough, with the tensors that it names; a record that is not in range fails. A task forms its sums, writes its words of
C one by one, and leaves STATE 3 and its successors' DEP one lower; a fault writes no word of C and leaves STATE 4 and its
code.  That a record out of range ends FAILED with CFG_REJECT is log 35 (DEDUCED), that a word of C is a step log 34 (DESIGN
CHOICE), that a record's tensors are taken at the issue log 66 (DESIGN CHOICE). -/
def Obligations.TileTasks : Prop :=
  ∀ (s : State) (shire k i : Nat) (mill : NodeRef) (q : MQueue),
    let goes (i : Instr) (t : State) : Prop := exec i s = .next t
    mget s.mqueues k = some q →
      let issue := Instr.tileTaskIssue shire k mill
      let ready := findReady s k q (q.waiting.take 32)
      (q.shire ≠ shire ∨ q.closing = true ∨ freeMill s shire q.ctx mill = false → goes issue s ∧
        (q.shire ≠ shire → goes (.tileTaskComplete shire k i) s)) ∧
      (q.shire = shire → q.closing = false → freeMill s shire q.ctx mill = true →
        (ready = .ok none → goes issue (release s (.cmd k))) ∧
        (∀ j e rq, ready = .error (j, .wait e rq) → goes issue (register s rq)) ∧
        (∀ j e, ready = .error (j, .trap e) → goes issue (failRec (taskFault s k j q e) k q j e.code.num)) ∧
        ∀ j r u, ready = .ok (some (j, r, u)) →
          (recOk r = false → goes issue (failRec u k q j 0x12)) ∧
          (recOk r = true → ∀ ds, taskDescs u q.ctx r = .ok ds →
            (millCols (u.cellAt mill) < recFld r 0x1E 2 → goes issue u) ∧
            (recFld r 0x1E 2 ≤ millCols (u.cellAt mill) → ∃ t, exec issue s = .next t ∧
              ∀ p, mget t.mqueues k = some p → p.waiting = q.waiting.filter (· ≠ j) ∧
                p.issued = q.issued ++ [{ idx := j, mill := mill, rec_ := r, descs := ds }]))) ∧
      (q.shire = shire → ∀ t, q.issued.find? (·.idx == i) = some t →
        let free (u : State) : State := release { u with mqueues := mupd u.mqueues k fun q =>
          { q with issued := q.issued.filter (·.idx != i) } } (.cmd k)
        let closes (u : State) (leads : State → Prop) : Prop :=
          (allPerformed u (.cmd k) = false → leads u) ∧
          (allPerformed u (.cmd k) = true →
            ∀ v, [recFld t.rec_ 0x20 4, recFld t.rec_ 0x24 4].foldlM (decDep k) (setState u k q i 3 0) = .ok v →
            leads (endTasks (noteEnd (free v) k i true)))
        let task (u : State) (f : Task → Task) : State := release { u with mqueues := mupd u.mqueues k fun q =>
          { q with issued := q.issued.map fun y => if y.idx = i then f y else y } } (.cmd k)
        (t.summed = true → t.rest = [] → closes s fun v => goes (.tileTaskComplete shire k i) v) ∧
        (t.summed = true → ∀ w l, t.rest = w :: l →
          let c := (mget t.descs (recFld t.rec_ 10 1)).getD Desc.raw
          let o := (w.1.1 : Int) * c.stride 0 + (w.1.2 : Int) * c.stride 1
          ∀ u, engWrite s (q.acx k) c.base o 4 (leBytes 4 w.2.toNat) = .ok u →
          let v := if l = [] then cFlags u (q.acx k) c (taskOut t).2 else u
          goes (.tileTaskComplete shire k i) (task v fun y => { y with rest := l })) ∧
        (t.summed = false → ∀ r, taskRun s (q.acx k) t = .ok r →
          let u := (countProds (setSat r.1 t.mill (r.1.cellAt t.mill) r.2.2.1) q.vf r.2.2.2.1).count q.vf 0x020 r.2.2.2.2
          goes (.tileTaskComplete shire k i) (task u fun y => { y with summed := true, rest := r.2.1 })) ∧
        (t.summed = false → ∀ e, taskRun s (q.acx k) t = .error (.trap e) → goes (.tileTaskComplete shire k i)
          (endTasks (noteEnd (free (setState (taskFault s k i q e) k q i 4 e.code.num)) k i false))))

/-! ### Registers, retirement, reset

That an event whose conditions are not met changes nothing, wherever a statement of this section says so, is the model's
choice (log 2, DESIGN CHOICE). -/

/-- R187, R205, R372, R373: the crier's read offset, the counters' clear and freeze, the quality-of-service word, and
what a window of 16,000 cycles of the quality-of-service unit does to the throttles of its best-effort tenants. R105, R208,
R209: a reeve of a launch whose sampling is on is sampled when (INTERVAL + 1) · 16 cycles have passed: the interval starts
again, and the records that SAMPLECFG enables are written, an actor's with the instruction that fired last; before, and in
an idle reeve or one whose sampling is off, nothing happens.  A window without a verdict changes no level (log 45, DESIGN
CHOICE); its latencies and the tenants that made requests are arguments of the event (log 7). -/
def Obligations.CountersServiceAndSamples : Prop :=
  (∀ (s : State) (vf : Nat) (v : W64) (on : Bool) (unit : Nat) (lat : List (Nat × List Nat)) (best : List Nat),
     let goes (i : Instr) (t : State) : Prop := exec i s = .next t
     let r := s.vfOf vf
     let verdicts := lat.filterMap (verdict s)
     let slows := best.filter fun w => decide (w < 512) && (s.vfOf w).qos.getLsbD 5
     (r.drops = 0 → goes (.crierReadOffsetWrite vf v) (s.setVf vf { r with crd := v.setWidth 32 })) ∧
     goes (.crierReadOffsetWrite vf v) (crierFlush (s.setVf vf { r with crd := v.setWidth 32 }) vf) ∧
     goes (.counterClr vf) (s.setVf vf { r with counters := [], prods := 0 }) ∧
     goes (.counterFreeze vf on) (s.setVf vf { r with freeze := on }) ∧
     (v.getLsbD 4 = true → v.getLsbD 5 = true → goes (.qosWordWrite vf v) s) ∧
     (v.getLsbD 4 = false ∨ v.getLsbD 5 = false →
       goes (.qosWordWrite vf v) (s.setVf vf { r with qos := v &&& 0xFFFF003F#64 })) ∧
     let due := 16000 ≤ (s.cycle - mgetD s.qosAt unit 0).toNat
     let ended : State := { s with qosAt := mset s.qosAt unit (mgetD s.qosAt unit 0 + 16000) }
     (¬ due → goes (.qosWindow unit lat best) s) ∧
     (due → verdicts = [] → goes (.qosWindow unit lat best) ended) ∧
     (due → verdicts.any id = true → ∃ t, exec (.qosWindow unit lat best) s = .next t ∧
       { t with throttle := s.throttle } = ended ∧ (slows = [] → t = ended) ∧
       ∀ w, slows ≠ [] → (∀ v ∈ slows, v = w) → ∀ k, mgetD t.throttle k 0 =
         if k = 1024 * unit + w then min 7 (mgetD s.throttle k 0 + 1) else mgetD s.throttle k 0) ∧
     (due → verdicts.any id = false → verdicts ≠ [] → goes (.qosWindow unit lat best) { ended with
       throttle := (s.throttle.map fun x => (x.1, if x.1 / 1024 = unit then x.2 - 1 else x.2)).filter fun x => x.2 != 0 })) ∧
  (∀ (s : State) (h : Nat),
     let goes (i : Instr) (t : State) : Prop := exec i s = .next t
     let r := s.reeve h
     let every := (r.samplecfg.toNat / 256 % 2 ^ 24 + 1) * 16
     let takes (u : State) (cfg : W64) (leads : State → Prop) : Prop :=
       let r := u.reeve h
       let stall := reeveStall u h r
       let point := crier ((u.count r.vf 0x090).count r.vf (0x0A0 + 8 * stall)) r.vf 0x10 h 0 0 r.lid
         (leBytes 8 r.pc.toNat ++ [BitVec.ofNat 8 stall])
       (cfg.getLsbD 1 = false → cfg.getLsbD 2 = false → leads u) ∧
       (cfg.getLsbD 1 = true → cfg.getLsbD 2 = false → leads point) ∧
       (cfg.getLsbD 1 = false → cfg.getLsbD 2 = true → leads (sampleCells u h r)) ∧
       (cfg.getLsbD 1 = true → cfg.getLsbD 2 = true → leads (sampleCells point h r))
     (r.run = .idle → goes (.sampleTimer h) s) ∧
     (∀ x f, x.firing = some f →
       (f.waiting = true → sampledIdx s x = BitVec.ofNat 8 f.idx) ∧
       (f.waiting = false → ∀ i, f.last = some i → sampledIdx s x = BitVec.ofNat 8 i)) ∧
     (r.run ≠ .idle →
       (∀ cfg, r.sampleDue = some cfg →
         takes (s.setReeve h { r with sampleDue := none }) cfg fun t => goes (.sampleTimer h) t) ∧
       (r.sampleDue = none → r.samplecfg.getLsbD 0 = false ∨ r.sampleCount < every → goes (.sampleTimer h) s) ∧
       (r.sampleDue = none → r.samplecfg.getLsbD 0 = true → every ≤ r.sampleCount →
         takes (s.setReeve h { r with sampleCount := r.sampleCount - every }) r.samplecfg
           fun t => goes (.sampleTimer h) t)))

/-- R135, R198, R200, R406, R408: a fence entry is written unless its partition, or the one that it replaces, is in
use, and one that would overlap another sets the error bit; run control stops a reeve, which leaves every waiter
order, and starts it; a register write goes to the register that it names, and changes nothing elsewhere; a vector that is
unmasked while it pends is sent.  That a fence write to a partition in use is discarded, that an entry of whole dies is no
clash with its own like in another die's table, and that a root waits for its invalidation are log 46 (DEDUCED), and so is
an allotment byte of 160 to 254, which is discarded (DESIGN CHOICE); the masks are those of standard MSI-X (log 20). -/
def Obligations.ControlWrites : Prop :=
  ∀ (s : State) (die idx : Nat) (e : FenceEntry) (h n : Nat) (v : W64),
    let goes (i : Instr) (t : State) : Prop := exec i s = .next t
    let k := 16 * die + idx
    let used (f : FenceEntry) : Bool := f.valid && vfBusy s f.vf
    let clash := e.valid && s.fences.any fun x => x.1 != k && x.2.valid && !(x.2.dies && x.2 == e) &&
      (partHamlets (x.1 / 16, x.2)).any (partHamlets (die, e)).contains
    let stopped := s.setReeve h { s.reeve h with stop := true, wait := none }
    (die < 8 → idx < 16 → used e = false → (∀ o, mget s.fences k = some o → used o = false) →
      (clash = false → goes (.fenceEntryWrite die idx e) { s with fences := mset s.fences k e }) ∧
      (clash = true → goes (.fenceEntryWrite die idx e) { s with fenceErr := sadd s.fenceErr die })) ∧
    (used e = true → goes (.fenceEntryWrite die idx e) s) ∧
    (h < 640 → goes (.runControlStop h) { stopped with
      waiters := s.waiters.filter (·.who != .reeve h), bankWait := s.bankWait.filter (·.1 != .reeve h) }) ∧
    (h < 640 → goes (.runControlRun h) (s.setReeve h { s.reeve h with stop := false })) ∧
    (n < 1024 → goes (.registerWrite (.root1 n) v) { s with next1 := mset s.next1 n (v &&& 0xFFFFFFFFF0000#64) }) ∧
    (n < 512 → goes (.registerWrite (.root2 n) v) { s with next2 := mset s.next2 n (v &&& 0xFFFFFFFFF0000#64) }) ∧
    (n < 512 → goes (.registerWrite (.pwait n) v) (s.setVf n { s.vfOf n with pwait := v })) ∧
    (n < 512 → goes (.registerWrite (.bar n 0x2008) v) (s.setVf n { s.vfOf n with mask := v.setWidth 32 })) ∧
    (n < 512 → goes (.registerWrite (.bar n 0x2010) v) (s.setVf n { s.vfOf n with cbase := v })) ∧
    (n < 512 → goes (.registerWrite (.bar n 0x2018) v) (s.setVf n { s.vfOf n with csize := v })) ∧
    (n < 1024 →
      let l := mgetD s.allot n []
      let x := v.toNat % 256
      let put : State := { s with allot := mset s.allot n (lset (l ++ List.replicate (h + 1 - l.length) 0xFF) h x) }
      (160 ≤ h ∨ (160 ≤ x ∧ x ≠ 255) → goes (.registerWrite (.allot n h) v) s) ∧
      (h < 160 → x = 255 → goes (.registerWrite (.allot n h) v) put) ∧
      (h < 160 → x < 160 →
        (mget s.sliceOwner x = none →
          goes (.registerWrite (.allot n h) v) { put with sliceOwner := mset s.sliceOwner x n }) ∧
        (mget s.sliceOwner x = some n → goes (.registerWrite (.allot n h) v) put) ∧
        ∀ c, mget s.sliceOwner x = some c → c ≠ n → goes (.registerWrite (.allot n h) v)
          { put with sliceClear := mset s.sliceClear x (n, s.cycle) })) ∧
    (v.toNat < 384 → s.ready = [] → goes (.registerWrite .pkg v) { s with pkg := v.toNat }) ∧
    (384 ≤ v.toNat ∨ s.ready ≠ [] → goes (.registerWrite .pkg v) s) ∧
    (n < 512 → h < 4 →
      let f := s.vfOf n
      (v.getLsbD 0 = true → goes (.registerWrite (.msix n h) v) (s.setVf n { f with vmask := sadd f.vmask h })) ∧
      (v.getLsbD 0 = false → f.msix.contains h = false →
        goes (.registerWrite (.msix n h) v) (s.setVf n { f with vmask := sdel f.vmask h })) ∧
      (v.getLsbD 0 = false → f.msix.contains h = true → goes (.registerWrite (.msix n h) v) (s.setVf n { f with
        vmask := sdel f.vmask h, msix := sdel f.msix h, vsent := mset f.vsent h (mgetD f.vsent h 0 + 1) }))) ∧
    (h < 384 → n < 512 → v.toNat % 1024 = 0x3FF →
      goes (.registerWrite (.domain h n) v) { s with domain := mdel s.domain (512 * h + n) }) ∧
    (h < 384 → n < 512 → v.toNat % 1024 ≠ 0x3FF → goes (.registerWrite (.domain h n) v)
      { s with domain := mset s.domain (512 * h + n) (v.toNat % 1024) }) ∧
    (h < 640 → goes (.registerWrite (.reeve h n) v) (writeCtl s h n v)) ∧
    goes (.registerWrite (.pf n) v) (writeMmio s n v) ∧
    goes (.registerWrite .stewardTvec v) { s with steward := { s.steward with tvec := v &&& ~~~3#64 } }

/-- R201, R412, R413: after its third error within a day a hamlet without a page is retired at once, an occupied one when
its pages have gone; after its second a page enters the non-volatile map; the clock falls and rises by 100 MHz between 800 and 1,600. R97, R99, R188, R189, R205,
R328, R374: a context is created with an empty identifier table for its VF; teardown ends it, its launches and what
they queued; the end of a VF ends its contexts and its registers; a cycle of the fabric counts, and every 256th weighs
the actor slots; a nanosecond counts.  A hamlet that is being cleared is retired at once, and which errors count (log 55), the
fraction of a nanosecond that a change of the clock keeps (log 7) and what the end of a VF leaves (log 46) are the model's
reading. -/
def Obligations.RetirementContextsAndClocks : Prop :=
  (∀ (s : State) (h a : Nat),
     let goes (i : Instr) (t : State) : Prop := exec i s = .next t
     let stands (p : Place) : State :=
       { s.updHam h (fun x => { x with place := p }) with retiredH := sadd s.retiredH h }
     (640 ≤ h ∨ hamErrors s h < 3 → goes (.hamletRetire h) s) ∧
     (h < 640 → 3 ≤ hamErrors s h →
       ((s.ham h).place = .free ∨ (s.ham h).place = .clearing → goes (.hamletRetire h) (stands .retired)) ∧
       ((s.ham h).place = .occupied → goes (.hamletRetire h) (stands .retiring))) ∧
     (populated a = true → isHost a = false → isScratch a = false → 2 ≤ pageErrors s a →
       goes (.pageRetire a) { s with retiredP := sadd s.retiredP (a / 65536) }) ∧
     (populated a = false ∨ isHost a = true ∨ isScratch a = true ∨ pageErrors s a < 2 → goes (.pageRetire a) s) ∧
     (∀ e, e ∈ s.errs → (∀ x ∈ s.errs, x = e) → (s.time - e.2.2).toNat < 86400 * 10 ^ 9 →
       pageErrors s a = (if (e.1 = 2 ∨ e.1 = 3) ∧ e.2.1 / 65536 = a / 65536 then s.errs.length else 0)) ∧
     (900 ≤ s.clock → goes .thermalThrottle { s with clock := s.clock - 100, frac := s.frac * (s.clock - 100) / s.clock }) ∧
     (s.clock < 900 → goes .thermalThrottle s) ∧
     (s.clock ≤ 1500 → goes .clockRaise { s with clock := s.clock + 100, frac := s.frac * (s.clock + 100) / s.clock }) ∧
     (1500 < s.clock → goes .clockRaise s)) ∧
  (∀ (s : State) (c vf : Nat),
     let goes (i : Instr) (t : State) : Prop := exec i s = .next t
     (c < 1024 → vf < 512 → mget s.ctxs c = none → goes (.contextCreation c vf) (s.setCtx c { vf := vf })) ∧
     (1024 ≤ c ∨ 512 ≤ vf ∨ (mget s.ctxs c).isSome = true → goes (.contextCreation c vf) s) ∧
     (mget s.ctxs c = none → goes (.contextTeardown c) s) ∧
     ((mget s.ctxs c).isSome = true → ∃ t, exec (.contextTeardown c) s = .next t ∧ mget t.ctxs c = none ∧
       mget t.roots1 c = none ∧ (∀ k l, t.launchOf k = some l → l.ctx ≠ c) ∧ (∀ x ∈ t.walks, x.ctx ≠ c) ∧
       (∀ x ∈ t.cmds, x.2.ctx ≠ c) ∧ (∀ x ∈ t.mqueues, x.2.ctx ≠ c)) ∧
     (∃ t, exec (.vfTeardown vf) s = .next t ∧ mget t.vfs vf = none ∧ mget t.roots2 vf = none ∧
       vf ∉ t.steward.kicks ∧ ∀ x ∈ t.throttle, x.1 % 1024 ≠ vf) ∧
     (∃ t, exec .fabricCycle s = .next t ∧ t.cycle = s.cycle + 1 ∧ t.time = s.time ∧ t.newly = [] ∧
       (s.ecc.cells = [] → s.ecc.pages = [] → s.outOps = [] → t.mem = s.mem ∧ t.launches = s.launches ∧
         let noted := s.insts.map fun x => (x.1, x.2.noteReady s.cycle)
         t.insts = if (s.cycle + 1).toNat % 256 = 0 then noted.map fun x => (x.1, weighAll x.2) else noted)) ∧
     goes .timeNanosecond { s with time := s.time + 1 })

/-- R201, R405, R410, R411: a function that passes its self-test is READY, unless it has failed or the package has;
one that fails stays down until the next reset, and the hamlets of a die that fails stand RETIRED; the host link
trains in a mode that it has, once until it is reset; a reset of the package puts every register at its reset value and keeps the non-volatile
maps, but for the clears that take effect. R201, R412, R414, R415: once after a reset a stage extends its
measurement register by its digest; the first firmware stage and the Steward image do so after the stage before them and
where their signature is good, else the boot-status word names them; a signed command marks a map to be
cleared; the requests of SPDM are answered over a trained link, the measurements as they stand, and not without one.
The digest, the signature check and the bodies of the answers are free, but for the algorithms offered, whose codes are
PRESUMED (log 11).  The package number and the host's memory that a reset keeps (log 46), the answers in State.outside (log
21) and SPDM over a trained link only (log 56) are the model's reading. -/
def Obligations.ResetSelfTestsAndFirmware : Prop :=
  (∀ (s : State) (f : ReadyFn) (d mode : Nat),
     let goes (i : Instr) (t : State) : Prop := exec i s = .next t
     let passed := { s with ready := sadd s.ready (ReadyFn.bit f), newly := sadd s.newly (ReadyFn.bit f) }
     (ReadyFn.exists_ f = true → s.steward.failed = false → s.tested.contains (ReadyFn.bit f) = false → stageDown s f = false →
       (∀ p, f ≠ .port p) → goes (.selfTestPass f) passed) ∧
     (∀ p, goes (.selfTestPass (.port p)) s) ∧
     (ReadyFn.exists_ f = false ∨ s.steward.failed = true ∨ s.tested.contains (ReadyFn.bit f) = true ∨ stageDown s f = true →
       goes (.selfTestPass f) s) ∧
     (stageDown s f = true ↔ s.boot = 1 ∨ (2 ≤ s.boot.toNat ∧ ((∃ c, f = .steward c) ∨ ∃ v, f = .vfq v))) ∧
     (d < 8 → s.ready.contains d = false → ∃ t, exec (.selfTestFail (.die d)) s = .next t ∧
       t.tested = sadd s.tested d ∧ t.ready = s.ready ∧
       ∀ h, (t.ham h).place = if h / 80 = d then .retired else (s.ham h).place) ∧
     (d < 2 → s.ready.contains (8 + d) = false →
       goes (.selfTestFail (.steward d)) { s with tested := sadd s.tested (8 + d) }) ∧
     (1 ≤ mode → mode ≤ 4 → s.steward.failed = false → s.linkMode = 0 →
       (s.boot ≠ 1 → goes (.hostLinkTraining mode)
         { s with linkMode := mode, ready := sadd s.ready 10, newly := sadd s.newly 10 }) ∧
       (s.boot = 1 → goes (.hostLinkTraining mode) { s with linkMode := mode })) ∧
     (4 < mode ∨ (mode ≠ 0 ∧ (s.steward.failed = true ∨ s.linkMode ≠ 0)) → goes (.hostLinkTraining mode) s) ∧
     goes (.hostLinkTraining 0) { s with linkMode := 0 } ∧
     (∃ t, exec .packageReset s = .next t ∧ t.reeves = [] ∧ t.launches = [] ∧ t.insts = [] ∧ t.ready = [] ∧
       t.steward = State.reset.steward ∧ t.vfs = [] ∧ t.ctxs = [] ∧ t.fences = [] ∧ t.pkg = s.pkg ∧
       (∀ h, t.retiredH.contains h = (s.retiredH.contains h && !s.clearAt.contains (h / 80))) ∧
       (∀ h, t.retiredH.contains h = true → (t.ham h).place = .retired) ∧
       t.retiredP = if s.clearAt.contains 8 then [] else s.retiredP)) ∧
  (∀ (s : State) (stage cmd die : Nat) (image nonce : List Byte),
     let goes (i : Instr) (t : State) : Prop := exec i s = .next t
     let good := Config.signatureOk image
     let tells (code : Nat) (non : List Byte) (ms : List (BitVec 512)) : State :=
       { s with outside := .done (Config.spdmBody code non ms) }
     let what := if stage = 3 then Config.mapImage s.retiredH s.retiredP else if stage = 4 then Config.fuseImage s.pkg else image
     let extended (m : BitVec 512) : BitVec 512 :=
       Config.sha512 (leBytes 64 m.toNat ++ leBytes 64 (Config.sha512 what).toNat)
     let signed := stage = 1 ∨ stage = 2
     let may := stage < 5 ∧ s.booted.contains stage = false ∧ (signed → s.boot = 0 ∧ s.booted.contains (stage - 1) = true)
     (may → signed → good = false → goes (.firmwareStageCheck stage image) { s with
       boot := BitVec.ofNat 64 stage
       ready := if stage = 1 then [] else s.ready.filter (fun b => b ≠ 8 ∧ b ≠ 9 ∧ (b < 384 ∨ 896 ≤ b)) }) ∧
     (may → good = true ∨ ¬signed → ∃ t, exec (.firmwareStageCheck stage image) s = .next t ∧
       { t with mrs := s.mrs, booted := s.booted } = s ∧ t.booted = sadd s.booted stage ∧
       ∀ j : Fin 5, t.mrs[j] = if j.val = stage then extended s.mrs[j] else s.mrs[j]) ∧
     (¬may → goes (.firmwareStageCheck stage image) s) ∧
     (good = false → goes (.maintenanceCommand cmd die image) s) ∧
     (good = true → die < 8 → goes (.maintenanceCommand 0 die image) { s with clearAt := sadd s.clearAt die }) ∧
     (good = true → goes (.maintenanceCommand 1 die image) { s with clearAt := sadd s.clearAt 8 }) ∧
     (s.linkMode ≠ 0 → goes .getVersion (tells 0 [] []) ∧ goes .getCapabilities (tells 1 [] []) ∧
       goes .negotiateAlgorithms { s with
         outside := .done (leBytes 4 0x100 ++ leBytes 4 4 ++ Config.spdmBody 2 [] []) } ∧ goes .getDigests (tells 3 [] []) ∧ goes .getCertificate (tells 4 [] []) ∧
       goes (.challenge nonce) (tells 5 nonce s.mrs.toList) ∧
       goes (.getMeasurements nonce) (tells 6 nonce s.mrs.toList)) ∧
     (s.linkMode = 0 → goes .getVersion s ∧ goes .getCertificate s ∧ goes (.challenge nonce) s ∧
       goes (.getMeasurements nonce) s))

/-! ### Encodings, the step and reset -/

/-- R212 to R221: the words of an instruction decode to it, whatever follows them, and are as many as R212 says; and
bytes that decode are the words of the instruction that they decode to, which is well-formed: no word has two
meanings, and no bit of a word is dropped. For every well-formed instruction of the reeve's encodings. -/
def Obligations.ReeveWordsRoundTrip : Prop :=
  (∀ (i : Instr) (rest : List Byte), WellFormed i = true → reeveEncoded i = true →
    decode (encodeBytes i ++ rest) = some (i, rest) ∧ (encodeBytes i).length = instrBytes i) ∧
  ∀ (bs : List Byte) (i : Instr) (rest : List Byte), decode bs = some (i, rest) →
    WellFormed i = true ∧ reeveEncoded i = true ∧ encodeBytes i ++ rest = bs

/-- R225, R227: every actor instruction, with every operand at every value, is read back from its doubleword, and a
doubleword that is read is that of the instruction. -/
def Obligations.ActorWordsRoundTrip : Prop :=
  (∀ i : Instr, WellFormed i = true → reeveEncoded i = false → (encode i).length = 2 →
    decodeActor (BitVec.ofNat 64 (leNat (encodeBytes i))) = some i) ∧
  ∀ (w : W64) (i : Instr), decodeActor w = some i →
    WellFormed i = true ∧ reeveEncoded i = false ∧ BitVec.ofNat 64 (leNat (encodeBytes i)) = w

/-- R213 to R221, R225: the words that the specification works out decode to the instructions that they stand for, and
the all-zero word (R220) and a word with the reserved guard (R215) decode to none. -/
def Obligations.WorkedWordsDecode : Prop :=
  let word (w : Nat) : Option Instr := (decode (leBytes 4 w)).map (·.1)
  let long (w w1 : Nat) : Option Instr := (decode (leBytes 4 w ++ leBytes 4 w1)).map (·.1)
  word 0x04061100 = some (.add 0 3 1 2) ∧ word 0x06CA5301 = some (.sub 0xB 5 5 6) ∧
  word 0x0C0E7FFC = some (.addi 0 7 7 0xFFC) ∧ word 0x2804ABCD = some (.lui 0 2 0xABCD) ∧
  word 0x2C041102 = some (.cmp 0 0 2 1 2 2) ∧ word 0x2C141102 = some (.cmp 0 1 2 1 2 2) ∧
  word 0x600845C2 = some (.ld 0 4 2 5 3 false 2) ∧ word 0x600845A4 = some (.ld 0 4 2 5 2 true 4) ∧
  word 0x640640E1 = some (.st 0 3 2 0 3 true 1) ∧ word 0x780C6238 = some (.atom 0 6 3 2 7 0) ∧
  word 0x403FFFFD = some (.br 0x3FFFFD) ∧ word 0x4C020003 = some (.loop 0 1 3) ∧
  word 0xE8080006 = some (.srrd 0 4 6) ∧ word 0xD00A0001 = some (.bar 0 5 1 false) ∧
  long 0xF8120123 0x456789AB = some (.li 0 9 0x0123456789AB) ∧
  long 0xA00C90C8 0x14300000 = some (.sspec 0 3 2 4 6 1 false 5 12 0 0) ∧
  long 0xA4158F00 0x08000000 = some (.scopy 0 5 6 7 2 2 0 0 0) ∧
  decodeActor 0x0110E00000010002 = some (.peek
    { pred := 0, t0 := 0x21C, t1 := 0, imm := 1, ety := 0, rmode := 0, flags := 0, auxb := 2 }) ∧
  decodeActor 0x2211240400004000 = some (.fmul
    { pred := 0, t0 := 0x224, t1 := 0x404, imm := 0, ety := 2, rmode := 0, flags := 0, auxb := 0 }) ∧
  decodeActor 0x20A0000000004400 = some (.fadd
    { pred := 2, t0 := 0x400, t1 := 0, imm := 0, ety := 2, rmode := 1, flags := 0, auxb := 0 }) ∧
  word 0x0C000000 = some (.addi 0 0 0 0) ∧ word 0 = none ∧ word 0x0E000000 = none

/-- R123, R212, R215, R222: where the fetch of the word at the pc is allowed and the word decodes, a step is the
execution of the decoded instruction on the state after the fetch, and where it does not decode it is an illegal
instruction; of a word in memory without errors the fetch gives the bytes at the address that the pc translates to,
and changes only the counters of the memories and the note of a waiting instruction. Which agent acts is the model's
choice (log 1): the turns of the agenda come first, a reeve's, an actor's (log 9) or an event's. -/
def Obligations.StepRunsDecoded : Prop :=
  ∀ (s : State),
    let pc := s.me.pc.toNat
    let next : State := { s with rot := s.rot + 1 }
    (s.agenda = [] → s.rot % 4 = 0 → canRun s s.cur = true → s.me.wait = none → atHandler s = false →
      (∀ x, fetch next = .ok x →
        (∀ y, decode x.1 = some y → step s = exec y.1 (x.2.updMe fun r => { r with got := some x.1 })) ∧
        (decode x.1 = none → step s = exec .illegalInstr (x.2.updMe fun r => { r with got := some x.1 }))) ∧
      (∀ t, fetch next = .error (.trap t) →
        step s = exec (.fetchFault (BitVec.ofNat 8 t.code.num) (BitVec.ofNat 8 t.sub) t.addr) next) ∧
      (∀ ea, checkCapAt s.me.code ((pc : Int) - (s.me.code.base * 256 : Nat)) (some 4) 4 clFetch = .ok ea →
        ∀ a, locate s s.acx 0 ea rX = .ok (.phys a) → s.mem.badAt a 4 = false →
          isLong (BitVec.ofNat 32 (leNat (s.mem.read a 4))) = false → ∃ t, fetch s = .ok (s.mem.read a 4, t) ∧
            { t with mem := s.mem, vfs := s.vfs } = s ∧ ∀ b, t.mem.byte b = s.mem.byte b)) ∧
    (∀ h rest, s.agenda = .reeve h :: rest → h < 640 →
      let u : State := { s with agenda := rest, cur := h }
      (canRun u h = false → step s = .next u) ∧
      (canRun u h = true → atHandler u = false → u.me.wait = none → ∀ x, fetch u = .ok x →
        ∀ y, decode x.1 = some y → step s = exec y.1 (x.2.updMe fun r => { r with got := some x.1 })) ∧
      (canRun u h = true → atHandler u = false → ∀ w bs, u.me.wait = some w → u.me.got = some bs →
        ∀ y, decode bs = some y → step s = exec y.1 u)) ∧
    (∀ n rest, s.agenda = .actor n :: rest → (s.inst n.inst).isSome = true →
      let u : State := { s with agenda := rest, focus := some n }
      ∀ f, (u.slotAt n).firing = some f → ∀ i, decodeActor ((u.slotAt n).instr f.idx) = some i → step s = exec i u) ∧
    (∀ i rest, s.agenda = .event i :: rest → encode i = [] → step s = exec i { s with agenda := rest })

/-- R92, R99, R183, R205, R405, R410, R413: the machine right after reset: no function is READY, memory lists nothing
and is in canonical form, the clock is at 1,600 MHz, every reeve stands idle at U level with its registers 0, queues
have size 16 and are empty, counters and masks are 0, no hamlet is occupied and no launch stands. A pc, TIME and CYCLE
of 0 and registers that no rule gives a value are the model's choice (log 4). -/
def Obligations.ResetState : Prop :=
  let s := State.reset
  s.ready = [] ∧ s.mem = {} ∧ Memory.wf s.mem = true ∧ (∀ a, s.mem.byte a = 0) ∧ s.clock = 1600 ∧ s.linkMode = 0 ∧
  s.launches = [] ∧ s.insts = [] ∧ s.steward.kicks = [] ∧ s.steward.trapped = false ∧ s.steward.failed = false ∧
  (∀ h, (s.reeve h).run = .idle ∧ (s.reeve h).superv = false ∧ (s.reeve h).p = 0 ∧ (s.reeve h).pc = 0 ∧
    (∀ k, (s.reeve h).gr k = 0) ∧ (s.reeve h).tbits = 0 ∧ (s.reeve h).tbusy = 0 ∧ (s.reeve h).samplecfg = 0) ∧
  (∀ v, (s.vfOf v).head = 0 ∧ (s.vfOf v).tail = 0 ∧ (s.vfOf v).size = 16 ∧ (s.vfOf v).err = false ∧
    (s.vfOf v).counters = [] ∧ (s.vfOf v).mask = 0 ∧ (s.vfOf v).pwait = 1000000) ∧
  (∀ h, (s.ham h).place = .free) ∧ ∀ n, canRun s n = false

/-- The canonical form of memory is kept by every step (the model's own form, log 3): addresses strictly rising, no
byte listed that an unlisted address reads as. -/
def Obligations.MemoryStaysCanonical : Prop :=
  ∀ s t : State, Memory.wf s.mem = true → step s = .next t → Memory.wf t.mem = true
end

