-- ==== Sys2Proof/Laws/Maps.lean ====
section
/-! SUPPORT. The laws of the sparse tables: what an entry reads as after a change, and that changes keep the keys
rising. -/

namespace Sys2Proof.Machine

/-- The keys of a table rise strictly. -/
def Rising {α : Type} (m : SMap α) : Prop := m.Pairwise fun x y => x.1 < y.1

theorem mget_mset_self {α : Type} (m : SMap α) (i : Nat) (v : α) : mget (mset m i v) i = some v := by
  induction m with
  | nil => simp [mset, mget]
  | cons x m ih =>
    obtain ⟨k, w⟩ := x
    unfold mset
    split
    · simp [mget]
    · split
      · simp [mget]
      · simp [mget, *]

theorem mget_mset_ne {α : Type} (m : SMap α) {i j : Nat} (v : α) (h : j ≠ i) :
    mget (mset m i v) j = mget m j := by
  induction m with
  | nil => simp [mset, mget, h]
  | cons x m ih =>
    obtain ⟨k, w⟩ := x
    unfold mset
    split
    · simp [mget, h]
    · split
      · subst k; simp [mget, h]
      · simp [mget, ih]

@[simp] theorem mget_mset {α : Type} (m : SMap α) (i j : Nat) (v : α) :
    mget (mset m i v) j = if j = i then some v else mget m j := by
  split
  · subst j; exact mget_mset_self m i v
  · exact mget_mset_ne m v ‹_›

@[simp] theorem mget_mdel {α : Type} (m : SMap α) (i j : Nat) :
    mget (mdel m i) j = if j = i then none else mget m j := by
  induction m with
  | nil => simp [mdel, mget]
  | cons x m ih =>
    obtain ⟨k, w⟩ := x
    unfold mdel
    split
    · subst k
      rw [ih]
      by_cases h : j = i <;> simp [mget, h]
    · by_cases h : j = k
      · subst h; simp [mget, *]
      · simp [mget, ih, h]

theorem mgetD_mset {α : Type} (m : SMap α) (i j : Nat) (v d : α) :
    mgetD (mset m i v) j d = if j = i then v else mgetD m j d := by
  simp only [mgetD, mget_mset]; split <;> rfl

theorem mgetD_mput {α : Type} [DecidableEq α] (m : SMap α) (i j : Nat) (v d : α) :
    mgetD (mput m i v d) j d = if j = i then v else mgetD m j d := by
  unfold mput
  split
  · subst d; simp only [mgetD, mget_mdel]; split <;> rfl
  · exact mgetD_mset m i j v d

theorem mem_mset {α : Type} {m : SMap α} {i : Nat} {v : α} {x : Nat × α} (h : x ∈ mset m i v) :
    x = (i, v) ∨ x ∈ m := by
  induction m with
  | nil => simpa [mset] using h
  | cons y m ih =>
    unfold mset at h
    split at h
    · simpa using h
    · split at h
      · simp only [List.mem_cons] at h ⊢; tauto
      · simp only [List.mem_cons] at h ⊢
        rcases h with h | h
        · exact .inr (.inl h)
        · rcases ih h with h | h
          · exact .inl h
          · exact .inr (.inr h)

theorem mem_mdel {α : Type} {m : SMap α} {i : Nat} {x : Nat × α} (h : x ∈ mdel m i) : x ∈ m := by
  induction m with
  | nil => simp [mdel] at h
  | cons y m ih =>
    unfold mdel at h
    split at h
    · exact .tail _ (ih h)
    · rcases List.mem_cons.mp h with h | h
      · exact h ▸ .head _
      · exact .tail _ (ih h)

theorem rising_mset {α : Type} {m : SMap α} (h : Rising m) (i : Nat) (v : α) : Rising (mset m i v) := by
  induction m with
  | nil => simp [mset, Rising]
  | cons y m ih =>
    obtain ⟨k, w⟩ := y
    have ⟨hk, hm⟩ := List.pairwise_cons.mp h
    unfold mset
    split
    · refine List.pairwise_cons.mpr ⟨fun x hx => ?_, h⟩
      rcases List.mem_cons.mp hx with rfl | hx
      · assumption
      · exact Nat.lt_trans ‹i < k› (hk x hx)
    · split
      · subst k; exact List.pairwise_cons.mpr ⟨hk, hm⟩
      · refine List.pairwise_cons.mpr ⟨fun x hx => ?_, ih hm⟩
        rcases mem_mset hx with rfl | hx
        · show k < i; omega
        · exact hk x hx

theorem rising_mdel {α : Type} {m : SMap α} (h : Rising m) (i : Nat) : Rising (mdel m i) := by
  induction m with
  | nil => simp [mdel, Rising]
  | cons y m ih =>
    have ⟨hk, hm⟩ := List.pairwise_cons.mp h
    unfold mdel
    split
    · exact ih hm
    · exact List.pairwise_cons.mpr ⟨fun x hx => hk x (mem_mdel hx), ih hm⟩

theorem rising_filter {α : Type} {m : SMap α} (h : Rising m) (p : Nat × α → Bool) : Rising (m.filter p) :=
  List.Pairwise.filter p h

theorem mget_filter_keys {α : Type} (m : SMap α) (p : Nat → Bool) (i : Nat) :
    mget (m.filter fun x => p x.1) i = if p i then mget m i else none := by
  induction m with
  | nil => simp [mget]
  | cons y m ih =>
    obtain ⟨k, w⟩ := y
    by_cases hp : p k
    · rw [List.filter_cons_of_pos (by simpa using hp)]
      by_cases h : i = k
      · subst h; simp [mget, hp]
      · simp [mget, h, ih]
    · rw [List.filter_cons_of_neg (by simpa using hp), ih]
      by_cases h : i = k
      · subst h; simp [hp]
      · simp [mget, h]

end Sys2Proof.Machine
end

