-- ==== Sys2Proof/Laws/Registers.lean ====
section
/-! SUPPORT. The register file of a reeve: what each register reads as after a write (R92, R214). -/

namespace Sys2Proof.Machine

@[simp] theorem Reeve.gr_zero (r : Reeve) : r.gr 0 = 0 := if_pos rfl
@[simp] theorem Reeve.setG_zero (r : Reeve) (v : W64) : r.setG 0 v = r := if_pos rfl
@[simp] theorem Reeve.pr_zero (r : Reeve) : r.pr 0 = true := if_pos rfl
@[simp] theorem Reeve.setP_zero (r : Reeve) (b : Bool) : r.setP 0 b = r := if_pos rfl

theorem Reeve.gr_setG (r : Reeve) (d e : GReg) (v : W64) :
    (r.setG d v).gr e = if e = 0 then 0 else if e = d then v else r.gr e := by
  by_cases he : e = 0
  · rw [if_pos he, he]; exact Reeve.gr_zero _
  · by_cases hd : d = 0
    · rw [if_neg he, if_neg (fun h => he (h.trans hd)), hd, Reeve.setG_zero]
    · by_cases h : e = d
      · subst h
        simp only [Reeve.gr, Reeve.setG, if_neg he, if_true, Vector.getElem_set_self]
      · simp only [Reeve.gr, Reeve.setG, if_neg he, if_neg hd, if_neg h]
        exact Vector.getElem_set_ne _ _ fun h' => h (BitVec.eq_of_toNat_eq h'.symm)

theorem Reeve.kr_setK (r : Reeve) (i j : KReg) (c : Cap) : (r.setK i c).kr j = if j = i then c else r.kr j := by
  by_cases h : j = i
  · subst h
    simp only [Reeve.kr, Reeve.setK, if_true, Vector.getElem_set_self]
  · simp only [Reeve.kr, Reeve.setK, if_neg h]
    exact Vector.getElem_set_ne _ _ fun h' => h (BitVec.eq_of_toNat_eq h'.symm)

theorem pbits_set : ∀ (q w : PReg) (b : Bool) (x : BitVec 8),
    (if b then x ||| (1#8 <<< q.toNat) else x &&& ~~~(1#8 <<< q.toNat)).getLsbD w.toNat =
      if w = q then b else x.getLsbD w.toNat := by
  intro q w b x
  have hw := w.isLt
  have hq := q.isLt
  by_cases h : w = q
  · subst h
    cases b <;> simp <;> omega
  · have hn : w.toNat ≠ q.toNat := fun h' => h (BitVec.eq_of_toNat_eq h')
    cases b <;> simp [h] <;> omega

theorem Reeve.pr_setP (r : Reeve) (q w : PReg) (b : Bool) :
    (r.setP q b).pr w = if w = 0 then true else if w = q then b else r.pr w := by
  by_cases hw : w = 0
  · rw [if_pos hw, hw]; exact Reeve.pr_zero _
  · by_cases hq : q = 0
    · rw [if_neg hw, if_neg (fun h => hw (h.trans hq)), hq, Reeve.setP_zero]
    · simp only [Reeve.pr, Reeve.setP, if_neg hw, if_neg hq]
      exact pbits_set q w b r.p

/-! ### A write to one kind of register leaves the other kinds -/

@[simp] theorem Reeve.setG_k (r : Reeve) (d : GReg) (v : W64) : (r.setG d v).k = r.k := by
  unfold Reeve.setG; split <;> rfl
@[simp] theorem Reeve.setG_p (r : Reeve) (d : GReg) (v : W64) : (r.setG d v).p = r.p := by
  unfold Reeve.setG; split <;> rfl
@[simp] theorem Reeve.setG_vf (r : Reeve) (d : GReg) (v : W64) : (r.setG d v).vf = r.vf := by
  unfold Reeve.setG; split <;> rfl
@[simp] theorem Reeve.setG_launch (r : Reeve) (d : GReg) (v : W64) : (r.setG d v).launch = r.launch := by
  unfold Reeve.setG; split <;> rfl
@[simp] theorem Reeve.setK_g (r : Reeve) (d : KReg) (c : Cap) : (r.setK d c).g = r.g := rfl
@[simp] theorem Reeve.setK_p (r : Reeve) (d : KReg) (c : Cap) : (r.setK d c).p = r.p := rfl
@[simp] theorem Reeve.setK_vf (r : Reeve) (d : KReg) (c : Cap) : (r.setK d c).vf = r.vf := rfl
@[simp] theorem Reeve.setP_g (r : Reeve) (d : PReg) (b : Bool) : (r.setP d b).g = r.g := by
  unfold Reeve.setP; split <;> rfl
@[simp] theorem Reeve.setP_k (r : Reeve) (d : PReg) (b : Bool) : (r.setP d b).k = r.k := by
  unfold Reeve.setP; split <;> rfl
@[simp] theorem Reeve.setP_vf (r : Reeve) (d : PReg) (b : Bool) : (r.setP d b).vf = r.vf := by
  unfold Reeve.setP; split <;> rfl

end Sys2Proof.Machine
end

