-- ==== Sys2Proof/Laws/State.lean ====
section
/-! SUPPORT. What each update of the state leaves alone, field by field, and what it reads back as. -/

namespace Sys2Proof.Machine

@[simp] theorem State.setMe_eq (s : State) (r : Reeve) : s.setMe r = s.setReeve s.cur r := rfl
@[simp] theorem State.updMe_eq (s : State) (f : Reeve → Reeve) : s.updMe f = s.setReeve s.cur (f s.me) := rfl

/-! ### Replacing a reeve -/

@[simp] theorem State.setReeve_agenda (s : State) (h : Nat) (r : Reeve) : (s.setReeve h r).agenda = s.agenda := rfl
@[simp] theorem State.setReeve_cur (s : State) (h : Nat) (r : Reeve) : (s.setReeve h r).cur = s.cur := rfl
@[simp] theorem State.setReeve_focus (s : State) (h : Nat) (r : Reeve) : (s.setReeve h r).focus = s.focus := rfl
@[simp] theorem State.setReeve_freeCtr (s : State) (h : Nat) (r : Reeve) : (s.setReeve h r).freeCtr = s.freeCtr := rfl
@[simp] theorem State.setReeve_rot (s : State) (h : Nat) (r : Reeve) : (s.setReeve h r).rot = s.rot := rfl
@[simp] theorem State.setReeve_outside (s : State) (h : Nat) (r : Reeve) : (s.setReeve h r).outside = s.outside := rfl
@[simp] theorem State.setReeve_time (s : State) (h : Nat) (r : Reeve) : (s.setReeve h r).time = s.time := rfl
@[simp] theorem State.setReeve_cycle (s : State) (h : Nat) (r : Reeve) : (s.setReeve h r).cycle = s.cycle := rfl
@[simp] theorem State.setReeve_clock (s : State) (h : Nat) (r : Reeve) : (s.setReeve h r).clock = s.clock := rfl
@[simp] theorem State.setReeve_mem (s : State) (h : Nat) (r : Reeve) : (s.setReeve h r).mem = s.mem := rfl
@[simp] theorem State.setReeve_waiters (s : State) (h : Nat) (r : Reeve) : (s.setReeve h r).waiters = s.waiters := rfl
@[simp] theorem State.setReeve_gifts (s : State) (h : Nat) (r : Reeve) : (s.setReeve h r).gifts = s.gifts := rfl
@[simp] theorem State.setReeve_roots1 (s : State) (h : Nat) (r : Reeve) : (s.setReeve h r).roots1 = s.roots1 := rfl
@[simp] theorem State.setReeve_roots2 (s : State) (h : Nat) (r : Reeve) : (s.setReeve h r).roots2 = s.roots2 := rfl
@[simp] theorem State.setReeve_next1 (s : State) (h : Nat) (r : Reeve) : (s.setReeve h r).next1 = s.next1 := rfl
@[simp] theorem State.setReeve_next2 (s : State) (h : Nat) (r : Reeve) : (s.setReeve h r).next2 = s.next2 := rfl
@[simp] theorem State.setReeve_allot (s : State) (h : Nat) (r : Reeve) : (s.setReeve h r).allot = s.allot := rfl
@[simp] theorem State.setReeve_sliceClear (s : State) (h : Nat) (r : Reeve) :
    (s.setReeve h r).sliceClear = s.sliceClear := rfl
@[simp] theorem State.setReeve_sliceOwner (s : State) (h : Nat) (r : Reeve) :
    (s.setReeve h r).sliceOwner = s.sliceOwner := rfl
@[simp] theorem State.setReeve_invq (s : State) (h : Nat) (r : Reeve) : (s.setReeve h r).invq = s.invq := rfl
@[simp] theorem State.setReeve_tlbH (s : State) (h : Nat) (r : Reeve) : (s.setReeve h r).tlbH = s.tlbH := rfl
@[simp] theorem State.setReeve_tlbP (s : State) (h : Nat) (r : Reeve) : (s.setReeve h r).tlbP = s.tlbP := rfl
@[simp] theorem State.setReeve_walks (s : State) (h : Nat) (r : Reeve) : (s.setReeve h r).walks = s.walks := rfl
@[simp] theorem State.setReeve_walkGifts (s : State) (h : Nat) (r : Reeve) :
    (s.setReeve h r).walkGifts = s.walkGifts := rfl
@[simp] theorem State.setReeve_walkRot (s : State) (h : Nat) (r : Reeve) : (s.setReeve h r).walkRot = s.walkRot := rfl
@[simp] theorem State.setReeve_nextId (s : State) (h : Nat) (r : Reeve) : (s.setReeve h r).nextId = s.nextId := rfl
@[simp] theorem State.setReeve_domain (s : State) (h : Nat) (r : Reeve) : (s.setReeve h r).domain = s.domain := rfl
@[simp] theorem State.setReeve_domainPkgs (s : State) (h : Nat) (r : Reeve) :
    (s.setReeve h r).domainPkgs = s.domainPkgs := rfl
@[simp] theorem State.setReeve_peerOut (s : State) (h : Nat) (r : Reeve) : (s.setReeve h r).peerOut = s.peerOut := rfl
@[simp] theorem State.setReeve_peerIn (s : State) (h : Nat) (r : Reeve) : (s.setReeve h r).peerIn = s.peerIn := rfl
@[simp] theorem State.setReeve_lost (s : State) (h : Nat) (r : Reeve) : (s.setReeve h r).lost = s.lost := rfl
@[simp] theorem State.setReeve_bankWait (s : State) (h : Nat) (r : Reeve) :
    (s.setReeve h r).bankWait = s.bankWait := rfl
@[simp] theorem State.setReeve_ctxs (s : State) (h : Nat) (r : Reeve) : (s.setReeve h r).ctxs = s.ctxs := rfl
@[simp] theorem State.setReeve_vfs (s : State) (h : Nat) (r : Reeve) : (s.setReeve h r).vfs = s.vfs := rfl
@[simp] theorem State.setReeve_fences (s : State) (h : Nat) (r : Reeve) : (s.setReeve h r).fences = s.fences := rfl
@[simp] theorem State.setReeve_fenceErr (s : State) (h : Nat) (r : Reeve) :
    (s.setReeve h r).fenceErr = s.fenceErr := rfl
@[simp] theorem State.setReeve_hamlets (s : State) (h : Nat) (r : Reeve) : (s.setReeve h r).hamlets = s.hamlets := rfl
@[simp] theorem State.setReeve_retiredH (s : State) (h : Nat) (r : Reeve) :
    (s.setReeve h r).retiredH = s.retiredH := rfl
@[simp] theorem State.setReeve_retiredP (s : State) (h : Nat) (r : Reeve) :
    (s.setReeve h r).retiredP = s.retiredP := rfl
@[simp] theorem State.setReeve_clearAt (s : State) (h : Nat) (r : Reeve) : (s.setReeve h r).clearAt = s.clearAt := rfl
@[simp] theorem State.setReeve_ports (s : State) (h : Nat) (r : Reeve) : (s.setReeve h r).ports = s.ports := rfl
@[simp] theorem State.setReeve_insts (s : State) (h : Nat) (r : Reeve) : (s.setReeve h r).insts = s.insts := rfl
@[simp] theorem State.setReeve_accs (s : State) (h : Nat) (r : Reeve) : (s.setReeve h r).accs = s.accs := rfl
@[simp] theorem State.setReeve_launches (s : State) (h : Nat) (r : Reeve) :
    (s.setReeve h r).launches = s.launches := rfl
@[simp] theorem State.setReeve_places (s : State) (h : Nat) (r : Reeve) : (s.setReeve h r).places = s.places := rfl
@[simp] theorem State.setReeve_sides (s : State) (h : Nat) (r : Reeve) : (s.setReeve h r).sides = s.sides := rfl
@[simp] theorem State.setReeve_cmds (s : State) (h : Nat) (r : Reeve) : (s.setReeve h r).cmds = s.cmds := rfl
@[simp] theorem State.setReeve_mqueues (s : State) (h : Nat) (r : Reeve) : (s.setReeve h r).mqueues = s.mqueues := rfl
@[simp] theorem State.setReeve_windows (s : State) (h : Nat) (r : Reeve) : (s.setReeve h r).windows = s.windows := rfl
@[simp] theorem State.setReeve_steward (s : State) (h : Nat) (r : Reeve) : (s.setReeve h r).steward = s.steward := rfl
@[simp] theorem State.setReeve_eztons (s : State) (h : Nat) (r : Reeve) : (s.setReeve h r).eztons = s.eztons := rfl
@[simp] theorem State.setReeve_pkg (s : State) (h : Nat) (r : Reeve) : (s.setReeve h r).pkg = s.pkg := rfl
@[simp] theorem State.setReeve_ready (s : State) (h : Nat) (r : Reeve) : (s.setReeve h r).ready = s.ready := rfl
@[simp] theorem State.setReeve_newly (s : State) (h : Nat) (r : Reeve) : (s.setReeve h r).newly = s.newly := rfl
@[simp] theorem State.setReeve_tested (s : State) (h : Nat) (r : Reeve) : (s.setReeve h r).tested = s.tested := rfl
@[simp] theorem State.setReeve_boot (s : State) (h : Nat) (r : Reeve) : (s.setReeve h r).boot = s.boot := rfl
@[simp] theorem State.setReeve_booted (s : State) (h : Nat) (r : Reeve) : (s.setReeve h r).booted = s.booted := rfl
@[simp] theorem State.setReeve_mrs (s : State) (h : Nat) (r : Reeve) : (s.setReeve h r).mrs = s.mrs := rfl
@[simp] theorem State.setReeve_qosAt (s : State) (h : Nat) (r : Reeve) : (s.setReeve h r).qosAt = s.qosAt := rfl
@[simp] theorem State.setReeve_outOps (s : State) (h : Nat) (r : Reeve) : (s.setReeve h r).outOps = s.outOps := rfl
@[simp] theorem State.setReeve_ecc (s : State) (h : Nat) (r : Reeve) : (s.setReeve h r).ecc = s.ecc := rfl
@[simp] theorem State.setReeve_errs (s : State) (h : Nat) (r : Reeve) : (s.setReeve h r).errs = s.errs := rfl
@[simp] theorem State.setReeve_linkMode (s : State) (h : Nat) (r : Reeve) :
    (s.setReeve h r).linkMode = s.linkMode := rfl
@[simp] theorem State.setReeve_throttle (s : State) (h : Nat) (r : Reeve) :
    (s.setReeve h r).throttle = s.throttle := rfl
@[simp] theorem State.setReeve_issueAt (s : State) (h : Nat) (r : Reeve) : (s.setReeve h r).issueAt = s.issueAt := rfl
@[simp] theorem State.setReeve_throttled (s : State) (h : Nat) (r : Reeve) :
    (s.setReeve h r).throttled = s.throttled := rfl
@[simp] theorem State.setReeve_frac (s : State) (h : Nat) (r : Reeve) : (s.setReeve h r).frac = s.frac := rfl

/-! ### Replacing a VF record -/

@[simp] theorem State.setVf_agenda (s : State) (v : Nat) (x : Vf) : (s.setVf v x).agenda = s.agenda := rfl
@[simp] theorem State.setVf_cur (s : State) (v : Nat) (x : Vf) : (s.setVf v x).cur = s.cur := rfl
@[simp] theorem State.setVf_focus (s : State) (v : Nat) (x : Vf) : (s.setVf v x).focus = s.focus := rfl
@[simp] theorem State.setVf_freeCtr (s : State) (v : Nat) (x : Vf) : (s.setVf v x).freeCtr = s.freeCtr := rfl
@[simp] theorem State.setVf_rot (s : State) (v : Nat) (x : Vf) : (s.setVf v x).rot = s.rot := rfl
@[simp] theorem State.setVf_outside (s : State) (v : Nat) (x : Vf) : (s.setVf v x).outside = s.outside := rfl
@[simp] theorem State.setVf_time (s : State) (v : Nat) (x : Vf) : (s.setVf v x).time = s.time := rfl
@[simp] theorem State.setVf_cycle (s : State) (v : Nat) (x : Vf) : (s.setVf v x).cycle = s.cycle := rfl
@[simp] theorem State.setVf_clock (s : State) (v : Nat) (x : Vf) : (s.setVf v x).clock = s.clock := rfl
@[simp] theorem State.setVf_mem (s : State) (v : Nat) (x : Vf) : (s.setVf v x).mem = s.mem := rfl
@[simp] theorem State.setVf_waiters (s : State) (v : Nat) (x : Vf) : (s.setVf v x).waiters = s.waiters := rfl
@[simp] theorem State.setVf_gifts (s : State) (v : Nat) (x : Vf) : (s.setVf v x).gifts = s.gifts := rfl
@[simp] theorem State.setVf_roots1 (s : State) (v : Nat) (x : Vf) : (s.setVf v x).roots1 = s.roots1 := rfl
@[simp] theorem State.setVf_roots2 (s : State) (v : Nat) (x : Vf) : (s.setVf v x).roots2 = s.roots2 := rfl
@[simp] theorem State.setVf_next1 (s : State) (v : Nat) (x : Vf) : (s.setVf v x).next1 = s.next1 := rfl
@[simp] theorem State.setVf_next2 (s : State) (v : Nat) (x : Vf) : (s.setVf v x).next2 = s.next2 := rfl
@[simp] theorem State.setVf_allot (s : State) (v : Nat) (x : Vf) : (s.setVf v x).allot = s.allot := rfl
@[simp] theorem State.setVf_sliceClear (s : State) (v : Nat) (x : Vf) : (s.setVf v x).sliceClear = s.sliceClear := rfl
@[simp] theorem State.setVf_sliceOwner (s : State) (v : Nat) (x : Vf) : (s.setVf v x).sliceOwner = s.sliceOwner := rfl
@[simp] theorem State.setVf_invq (s : State) (v : Nat) (x : Vf) : (s.setVf v x).invq = s.invq := rfl
@[simp] theorem State.setVf_tlbH (s : State) (v : Nat) (x : Vf) : (s.setVf v x).tlbH = s.tlbH := rfl
@[simp] theorem State.setVf_tlbP (s : State) (v : Nat) (x : Vf) : (s.setVf v x).tlbP = s.tlbP := rfl
@[simp] theorem State.setVf_walks (s : State) (v : Nat) (x : Vf) : (s.setVf v x).walks = s.walks := rfl
@[simp] theorem State.setVf_walkGifts (s : State) (v : Nat) (x : Vf) : (s.setVf v x).walkGifts = s.walkGifts := rfl
@[simp] theorem State.setVf_walkRot (s : State) (v : Nat) (x : Vf) : (s.setVf v x).walkRot = s.walkRot := rfl
@[simp] theorem State.setVf_nextId (s : State) (v : Nat) (x : Vf) : (s.setVf v x).nextId = s.nextId := rfl
@[simp] theorem State.setVf_domain (s : State) (v : Nat) (x : Vf) : (s.setVf v x).domain = s.domain := rfl
@[simp] theorem State.setVf_domainPkgs (s : State) (v : Nat) (x : Vf) : (s.setVf v x).domainPkgs = s.domainPkgs := rfl
@[simp] theorem State.setVf_peerOut (s : State) (v : Nat) (x : Vf) : (s.setVf v x).peerOut = s.peerOut := rfl
@[simp] theorem State.setVf_peerIn (s : State) (v : Nat) (x : Vf) : (s.setVf v x).peerIn = s.peerIn := rfl
@[simp] theorem State.setVf_lost (s : State) (v : Nat) (x : Vf) : (s.setVf v x).lost = s.lost := rfl
@[simp] theorem State.setVf_bankWait (s : State) (v : Nat) (x : Vf) : (s.setVf v x).bankWait = s.bankWait := rfl
@[simp] theorem State.setVf_ctxs (s : State) (v : Nat) (x : Vf) : (s.setVf v x).ctxs = s.ctxs := rfl
@[simp] theorem State.setVf_fences (s : State) (v : Nat) (x : Vf) : (s.setVf v x).fences = s.fences := rfl
@[simp] theorem State.setVf_fenceErr (s : State) (v : Nat) (x : Vf) : (s.setVf v x).fenceErr = s.fenceErr := rfl
@[simp] theorem State.setVf_hamlets (s : State) (v : Nat) (x : Vf) : (s.setVf v x).hamlets = s.hamlets := rfl
@[simp] theorem State.setVf_retiredH (s : State) (v : Nat) (x : Vf) : (s.setVf v x).retiredH = s.retiredH := rfl
@[simp] theorem State.setVf_retiredP (s : State) (v : Nat) (x : Vf) : (s.setVf v x).retiredP = s.retiredP := rfl
@[simp] theorem State.setVf_clearAt (s : State) (v : Nat) (x : Vf) : (s.setVf v x).clearAt = s.clearAt := rfl
@[simp] theorem State.setVf_reeves (s : State) (v : Nat) (x : Vf) : (s.setVf v x).reeves = s.reeves := rfl
@[simp] theorem State.setVf_ports (s : State) (v : Nat) (x : Vf) : (s.setVf v x).ports = s.ports := rfl
@[simp] theorem State.setVf_insts (s : State) (v : Nat) (x : Vf) : (s.setVf v x).insts = s.insts := rfl
@[simp] theorem State.setVf_accs (s : State) (v : Nat) (x : Vf) : (s.setVf v x).accs = s.accs := rfl
@[simp] theorem State.setVf_launches (s : State) (v : Nat) (x : Vf) : (s.setVf v x).launches = s.launches := rfl
@[simp] theorem State.setVf_places (s : State) (v : Nat) (x : Vf) : (s.setVf v x).places = s.places := rfl
@[simp] theorem State.setVf_sides (s : State) (v : Nat) (x : Vf) : (s.setVf v x).sides = s.sides := rfl
@[simp] theorem State.setVf_cmds (s : State) (v : Nat) (x : Vf) : (s.setVf v x).cmds = s.cmds := rfl
@[simp] theorem State.setVf_mqueues (s : State) (v : Nat) (x : Vf) : (s.setVf v x).mqueues = s.mqueues := rfl
@[simp] theorem State.setVf_windows (s : State) (v : Nat) (x : Vf) : (s.setVf v x).windows = s.windows := rfl
@[simp] theorem State.setVf_steward (s : State) (v : Nat) (x : Vf) : (s.setVf v x).steward = s.steward := rfl
@[simp] theorem State.setVf_eztons (s : State) (v : Nat) (x : Vf) : (s.setVf v x).eztons = s.eztons := rfl
@[simp] theorem State.setVf_pkg (s : State) (v : Nat) (x : Vf) : (s.setVf v x).pkg = s.pkg := rfl
@[simp] theorem State.setVf_ready (s : State) (v : Nat) (x : Vf) : (s.setVf v x).ready = s.ready := rfl
@[simp] theorem State.setVf_newly (s : State) (v : Nat) (x : Vf) : (s.setVf v x).newly = s.newly := rfl
@[simp] theorem State.setVf_tested (s : State) (v : Nat) (x : Vf) : (s.setVf v x).tested = s.tested := rfl
@[simp] theorem State.setVf_boot (s : State) (v : Nat) (x : Vf) : (s.setVf v x).boot = s.boot := rfl
@[simp] theorem State.setVf_booted (s : State) (v : Nat) (x : Vf) : (s.setVf v x).booted = s.booted := rfl
@[simp] theorem State.setVf_mrs (s : State) (v : Nat) (x : Vf) : (s.setVf v x).mrs = s.mrs := rfl
@[simp] theorem State.setVf_qosAt (s : State) (v : Nat) (x : Vf) : (s.setVf v x).qosAt = s.qosAt := rfl
@[simp] theorem State.setVf_outOps (s : State) (v : Nat) (x : Vf) : (s.setVf v x).outOps = s.outOps := rfl
@[simp] theorem State.setVf_ecc (s : State) (v : Nat) (x : Vf) : (s.setVf v x).ecc = s.ecc := rfl
@[simp] theorem State.setVf_errs (s : State) (v : Nat) (x : Vf) : (s.setVf v x).errs = s.errs := rfl
@[simp] theorem State.setVf_linkMode (s : State) (v : Nat) (x : Vf) : (s.setVf v x).linkMode = s.linkMode := rfl
@[simp] theorem State.setVf_throttle (s : State) (v : Nat) (x : Vf) : (s.setVf v x).throttle = s.throttle := rfl
@[simp] theorem State.setVf_issueAt (s : State) (v : Nat) (x : Vf) : (s.setVf v x).issueAt = s.issueAt := rfl
@[simp] theorem State.setVf_throttled (s : State) (v : Nat) (x : Vf) : (s.setVf v x).throttled = s.throttled := rfl
@[simp] theorem State.setVf_frac (s : State) (v : Nat) (x : Vf) : (s.setVf v x).frac = s.frac := rfl

/-! ### Replacing a context -/

@[simp] theorem State.setCtx_agenda (s : State) (c : Nat) (x : Ctx) : (s.setCtx c x).agenda = s.agenda := rfl
@[simp] theorem State.setCtx_cur (s : State) (c : Nat) (x : Ctx) : (s.setCtx c x).cur = s.cur := rfl
@[simp] theorem State.setCtx_focus (s : State) (c : Nat) (x : Ctx) : (s.setCtx c x).focus = s.focus := rfl
@[simp] theorem State.setCtx_freeCtr (s : State) (c : Nat) (x : Ctx) : (s.setCtx c x).freeCtr = s.freeCtr := rfl
@[simp] theorem State.setCtx_rot (s : State) (c : Nat) (x : Ctx) : (s.setCtx c x).rot = s.rot := rfl
@[simp] theorem State.setCtx_outside (s : State) (c : Nat) (x : Ctx) : (s.setCtx c x).outside = s.outside := rfl
@[simp] theorem State.setCtx_time (s : State) (c : Nat) (x : Ctx) : (s.setCtx c x).time = s.time := rfl
@[simp] theorem State.setCtx_cycle (s : State) (c : Nat) (x : Ctx) : (s.setCtx c x).cycle = s.cycle := rfl
@[simp] theorem State.setCtx_clock (s : State) (c : Nat) (x : Ctx) : (s.setCtx c x).clock = s.clock := rfl
@[simp] theorem State.setCtx_mem (s : State) (c : Nat) (x : Ctx) : (s.setCtx c x).mem = s.mem := rfl
@[simp] theorem State.setCtx_waiters (s : State) (c : Nat) (x : Ctx) : (s.setCtx c x).waiters = s.waiters := rfl
@[simp] theorem State.setCtx_gifts (s : State) (c : Nat) (x : Ctx) : (s.setCtx c x).gifts = s.gifts := rfl
@[simp] theorem State.setCtx_roots1 (s : State) (c : Nat) (x : Ctx) : (s.setCtx c x).roots1 = s.roots1 := rfl
@[simp] theorem State.setCtx_roots2 (s : State) (c : Nat) (x : Ctx) : (s.setCtx c x).roots2 = s.roots2 := rfl
@[simp] theorem State.setCtx_next1 (s : State) (c : Nat) (x : Ctx) : (s.setCtx c x).next1 = s.next1 := rfl
@[simp] theorem State.setCtx_next2 (s : State) (c : Nat) (x : Ctx) : (s.setCtx c x).next2 = s.next2 := rfl
@[simp] theorem State.setCtx_allot (s : State) (c : Nat) (x : Ctx) : (s.setCtx c x).allot = s.allot := rfl
@[simp] theorem State.setCtx_sliceClear (s : State) (c : Nat) (x : Ctx) :
    (s.setCtx c x).sliceClear = s.sliceClear := rfl
@[simp] theorem State.setCtx_sliceOwner (s : State) (c : Nat) (x : Ctx) :
    (s.setCtx c x).sliceOwner = s.sliceOwner := rfl
@[simp] theorem State.setCtx_invq (s : State) (c : Nat) (x : Ctx) : (s.setCtx c x).invq = s.invq := rfl
@[simp] theorem State.setCtx_tlbH (s : State) (c : Nat) (x : Ctx) : (s.setCtx c x).tlbH = s.tlbH := rfl
@[simp] theorem State.setCtx_tlbP (s : State) (c : Nat) (x : Ctx) : (s.setCtx c x).tlbP = s.tlbP := rfl
@[simp] theorem State.setCtx_walks (s : State) (c : Nat) (x : Ctx) : (s.setCtx c x).walks = s.walks := rfl
@[simp] theorem State.setCtx_walkGifts (s : State) (c : Nat) (x : Ctx) : (s.setCtx c x).walkGifts = s.walkGifts := rfl
@[simp] theorem State.setCtx_walkRot (s : State) (c : Nat) (x : Ctx) : (s.setCtx c x).walkRot = s.walkRot := rfl
@[simp] theorem State.setCtx_nextId (s : State) (c : Nat) (x : Ctx) : (s.setCtx c x).nextId = s.nextId := rfl
@[simp] theorem State.setCtx_domain (s : State) (c : Nat) (x : Ctx) : (s.setCtx c x).domain = s.domain := rfl
@[simp] theorem State.setCtx_domainPkgs (s : State) (c : Nat) (x : Ctx) :
    (s.setCtx c x).domainPkgs = s.domainPkgs := rfl
@[simp] theorem State.setCtx_peerOut (s : State) (c : Nat) (x : Ctx) : (s.setCtx c x).peerOut = s.peerOut := rfl
@[simp] theorem State.setCtx_peerIn (s : State) (c : Nat) (x : Ctx) : (s.setCtx c x).peerIn = s.peerIn := rfl
@[simp] theorem State.setCtx_lost (s : State) (c : Nat) (x : Ctx) : (s.setCtx c x).lost = s.lost := rfl
@[simp] theorem State.setCtx_bankWait (s : State) (c : Nat) (x : Ctx) : (s.setCtx c x).bankWait = s.bankWait := rfl
@[simp] theorem State.setCtx_vfs (s : State) (c : Nat) (x : Ctx) : (s.setCtx c x).vfs = s.vfs := rfl
@[simp] theorem State.setCtx_fences (s : State) (c : Nat) (x : Ctx) : (s.setCtx c x).fences = s.fences := rfl
@[simp] theorem State.setCtx_fenceErr (s : State) (c : Nat) (x : Ctx) : (s.setCtx c x).fenceErr = s.fenceErr := rfl
@[simp] theorem State.setCtx_hamlets (s : State) (c : Nat) (x : Ctx) : (s.setCtx c x).hamlets = s.hamlets := rfl
@[simp] theorem State.setCtx_retiredH (s : State) (c : Nat) (x : Ctx) : (s.setCtx c x).retiredH = s.retiredH := rfl
@[simp] theorem State.setCtx_retiredP (s : State) (c : Nat) (x : Ctx) : (s.setCtx c x).retiredP = s.retiredP := rfl
@[simp] theorem State.setCtx_clearAt (s : State) (c : Nat) (x : Ctx) : (s.setCtx c x).clearAt = s.clearAt := rfl
@[simp] theorem State.setCtx_reeves (s : State) (c : Nat) (x : Ctx) : (s.setCtx c x).reeves = s.reeves := rfl
@[simp] theorem State.setCtx_ports (s : State) (c : Nat) (x : Ctx) : (s.setCtx c x).ports = s.ports := rfl
@[simp] theorem State.setCtx_insts (s : State) (c : Nat) (x : Ctx) : (s.setCtx c x).insts = s.insts := rfl
@[simp] theorem State.setCtx_accs (s : State) (c : Nat) (x : Ctx) : (s.setCtx c x).accs = s.accs := rfl
@[simp] theorem State.setCtx_launches (s : State) (c : Nat) (x : Ctx) : (s.setCtx c x).launches = s.launches := rfl
@[simp] theorem State.setCtx_places (s : State) (c : Nat) (x : Ctx) : (s.setCtx c x).places = s.places := rfl
@[simp] theorem State.setCtx_sides (s : State) (c : Nat) (x : Ctx) : (s.setCtx c x).sides = s.sides := rfl
@[simp] theorem State.setCtx_cmds (s : State) (c : Nat) (x : Ctx) : (s.setCtx c x).cmds = s.cmds := rfl
@[simp] theorem State.setCtx_mqueues (s : State) (c : Nat) (x : Ctx) : (s.setCtx c x).mqueues = s.mqueues := rfl
@[simp] theorem State.setCtx_windows (s : State) (c : Nat) (x : Ctx) : (s.setCtx c x).windows = s.windows := rfl
@[simp] theorem State.setCtx_steward (s : State) (c : Nat) (x : Ctx) : (s.setCtx c x).steward = s.steward := rfl
@[simp] theorem State.setCtx_eztons (s : State) (c : Nat) (x : Ctx) : (s.setCtx c x).eztons = s.eztons := rfl
@[simp] theorem State.setCtx_pkg (s : State) (c : Nat) (x : Ctx) : (s.setCtx c x).pkg = s.pkg := rfl
@[simp] theorem State.setCtx_ready (s : State) (c : Nat) (x : Ctx) : (s.setCtx c x).ready = s.ready := rfl
@[simp] theorem State.setCtx_newly (s : State) (c : Nat) (x : Ctx) : (s.setCtx c x).newly = s.newly := rfl
@[simp] theorem State.setCtx_tested (s : State) (c : Nat) (x : Ctx) : (s.setCtx c x).tested = s.tested := rfl
@[simp] theorem State.setCtx_boot (s : State) (c : Nat) (x : Ctx) : (s.setCtx c x).boot = s.boot := rfl
@[simp] theorem State.setCtx_booted (s : State) (c : Nat) (x : Ctx) : (s.setCtx c x).booted = s.booted := rfl
@[simp] theorem State.setCtx_mrs (s : State) (c : Nat) (x : Ctx) : (s.setCtx c x).mrs = s.mrs := rfl
@[simp] theorem State.setCtx_qosAt (s : State) (c : Nat) (x : Ctx) : (s.setCtx c x).qosAt = s.qosAt := rfl
@[simp] theorem State.setCtx_outOps (s : State) (c : Nat) (x : Ctx) : (s.setCtx c x).outOps = s.outOps := rfl
@[simp] theorem State.setCtx_ecc (s : State) (c : Nat) (x : Ctx) : (s.setCtx c x).ecc = s.ecc := rfl
@[simp] theorem State.setCtx_errs (s : State) (c : Nat) (x : Ctx) : (s.setCtx c x).errs = s.errs := rfl
@[simp] theorem State.setCtx_linkMode (s : State) (c : Nat) (x : Ctx) : (s.setCtx c x).linkMode = s.linkMode := rfl
@[simp] theorem State.setCtx_throttle (s : State) (c : Nat) (x : Ctx) : (s.setCtx c x).throttle = s.throttle := rfl
@[simp] theorem State.setCtx_issueAt (s : State) (c : Nat) (x : Ctx) : (s.setCtx c x).issueAt = s.issueAt := rfl
@[simp] theorem State.setCtx_throttled (s : State) (c : Nat) (x : Ctx) : (s.setCtx c x).throttled = s.throttled := rfl
@[simp] theorem State.setCtx_frac (s : State) (c : Nat) (x : Ctx) : (s.setCtx c x).frac = s.frac := rfl

/-! ### Changing a launch -/

@[simp] theorem State.updLaunch_agenda (s : State) (l : Nat) (f : Launch → Launch) :
    (s.updLaunch l f).agenda = s.agenda := rfl
@[simp] theorem State.updLaunch_cur (s : State) (l : Nat) (f : Launch → Launch) : (s.updLaunch l f).cur = s.cur := rfl
@[simp] theorem State.updLaunch_focus (s : State) (l : Nat) (f : Launch → Launch) :
    (s.updLaunch l f).focus = s.focus := rfl
@[simp] theorem State.updLaunch_freeCtr (s : State) (l : Nat) (f : Launch → Launch) :
    (s.updLaunch l f).freeCtr = s.freeCtr := rfl
@[simp] theorem State.updLaunch_rot (s : State) (l : Nat) (f : Launch → Launch) : (s.updLaunch l f).rot = s.rot := rfl
@[simp] theorem State.updLaunch_outside (s : State) (l : Nat) (f : Launch → Launch) :
    (s.updLaunch l f).outside = s.outside := rfl
@[simp] theorem State.updLaunch_time (s : State) (l : Nat) (f : Launch → Launch) :
    (s.updLaunch l f).time = s.time := rfl
@[simp] theorem State.updLaunch_cycle (s : State) (l : Nat) (f : Launch → Launch) :
    (s.updLaunch l f).cycle = s.cycle := rfl
@[simp] theorem State.updLaunch_clock (s : State) (l : Nat) (f : Launch → Launch) :
    (s.updLaunch l f).clock = s.clock := rfl
@[simp] theorem State.updLaunch_mem (s : State) (l : Nat) (f : Launch → Launch) : (s.updLaunch l f).mem = s.mem := rfl
@[simp] theorem State.updLaunch_waiters (s : State) (l : Nat) (f : Launch → Launch) :
    (s.updLaunch l f).waiters = s.waiters := rfl
@[simp] theorem State.updLaunch_gifts (s : State) (l : Nat) (f : Launch → Launch) :
    (s.updLaunch l f).gifts = s.gifts := rfl
@[simp] theorem State.updLaunch_roots1 (s : State) (l : Nat) (f : Launch → Launch) :
    (s.updLaunch l f).roots1 = s.roots1 := rfl
@[simp] theorem State.updLaunch_roots2 (s : State) (l : Nat) (f : Launch → Launch) :
    (s.updLaunch l f).roots2 = s.roots2 := rfl
@[simp] theorem State.updLaunch_next1 (s : State) (l : Nat) (f : Launch → Launch) :
    (s.updLaunch l f).next1 = s.next1 := rfl
@[simp] theorem State.updLaunch_next2 (s : State) (l : Nat) (f : Launch → Launch) :
    (s.updLaunch l f).next2 = s.next2 := rfl
@[simp] theorem State.updLaunch_allot (s : State) (l : Nat) (f : Launch → Launch) :
    (s.updLaunch l f).allot = s.allot := rfl
@[simp] theorem State.updLaunch_sliceClear (s : State) (l : Nat) (f : Launch → Launch) :
    (s.updLaunch l f).sliceClear = s.sliceClear := rfl
@[simp] theorem State.updLaunch_sliceOwner (s : State) (l : Nat) (f : Launch → Launch) :
    (s.updLaunch l f).sliceOwner = s.sliceOwner := rfl
@[simp] theorem State.updLaunch_invq (s : State) (l : Nat) (f : Launch → Launch) :
    (s.updLaunch l f).invq = s.invq := rfl
@[simp] theorem State.updLaunch_tlbH (s : State) (l : Nat) (f : Launch → Launch) :
    (s.updLaunch l f).tlbH = s.tlbH := rfl
@[simp] theorem State.updLaunch_tlbP (s : State) (l : Nat) (f : Launch → Launch) :
    (s.updLaunch l f).tlbP = s.tlbP := rfl
@[simp] theorem State.updLaunch_walks (s : State) (l : Nat) (f : Launch → Launch) :
    (s.updLaunch l f).walks = s.walks := rfl
@[simp] theorem State.updLaunch_walkGifts (s : State) (l : Nat) (f : Launch → Launch) :
    (s.updLaunch l f).walkGifts = s.walkGifts := rfl
@[simp] theorem State.updLaunch_walkRot (s : State) (l : Nat) (f : Launch → Launch) :
    (s.updLaunch l f).walkRot = s.walkRot := rfl
@[simp] theorem State.updLaunch_nextId (s : State) (l : Nat) (f : Launch → Launch) :
    (s.updLaunch l f).nextId = s.nextId := rfl
@[simp] theorem State.updLaunch_domain (s : State) (l : Nat) (f : Launch → Launch) :
    (s.updLaunch l f).domain = s.domain := rfl
@[simp] theorem State.updLaunch_domainPkgs (s : State) (l : Nat) (f : Launch → Launch) :
    (s.updLaunch l f).domainPkgs = s.domainPkgs := rfl
@[simp] theorem State.updLaunch_peerOut (s : State) (l : Nat) (f : Launch → Launch) :
    (s.updLaunch l f).peerOut = s.peerOut := rfl
@[simp] theorem State.updLaunch_peerIn (s : State) (l : Nat) (f : Launch → Launch) :
    (s.updLaunch l f).peerIn = s.peerIn := rfl
@[simp] theorem State.updLaunch_lost (s : State) (l : Nat) (f : Launch → Launch) :
    (s.updLaunch l f).lost = s.lost := rfl
@[simp] theorem State.updLaunch_bankWait (s : State) (l : Nat) (f : Launch → Launch) :
    (s.updLaunch l f).bankWait = s.bankWait := rfl
@[simp] theorem State.updLaunch_ctxs (s : State) (l : Nat) (f : Launch → Launch) :
    (s.updLaunch l f).ctxs = s.ctxs := rfl
@[simp] theorem State.updLaunch_vfs (s : State) (l : Nat) (f : Launch → Launch) : (s.updLaunch l f).vfs = s.vfs := rfl
@[simp] theorem State.updLaunch_fences (s : State) (l : Nat) (f : Launch → Launch) :
    (s.updLaunch l f).fences = s.fences := rfl
@[simp] theorem State.updLaunch_fenceErr (s : State) (l : Nat) (f : Launch → Launch) :
    (s.updLaunch l f).fenceErr = s.fenceErr := rfl
@[simp] theorem State.updLaunch_hamlets (s : State) (l : Nat) (f : Launch → Launch) :
    (s.updLaunch l f).hamlets = s.hamlets := rfl
@[simp] theorem State.updLaunch_retiredH (s : State) (l : Nat) (f : Launch → Launch) :
    (s.updLaunch l f).retiredH = s.retiredH := rfl
@[simp] theorem State.updLaunch_retiredP (s : State) (l : Nat) (f : Launch → Launch) :
    (s.updLaunch l f).retiredP = s.retiredP := rfl
@[simp] theorem State.updLaunch_clearAt (s : State) (l : Nat) (f : Launch → Launch) :
    (s.updLaunch l f).clearAt = s.clearAt := rfl
@[simp] theorem State.updLaunch_reeves (s : State) (l : Nat) (f : Launch → Launch) :
    (s.updLaunch l f).reeves = s.reeves := rfl
@[simp] theorem State.updLaunch_ports (s : State) (l : Nat) (f : Launch → Launch) :
    (s.updLaunch l f).ports = s.ports := rfl
@[simp] theorem State.updLaunch_insts (s : State) (l : Nat) (f : Launch → Launch) :
    (s.updLaunch l f).insts = s.insts := rfl
@[simp] theorem State.updLaunch_accs (s : State) (l : Nat) (f : Launch → Launch) :
    (s.updLaunch l f).accs = s.accs := rfl
@[simp] theorem State.updLaunch_places (s : State) (l : Nat) (f : Launch → Launch) :
    (s.updLaunch l f).places = s.places := rfl
@[simp] theorem State.updLaunch_sides (s : State) (l : Nat) (f : Launch → Launch) :
    (s.updLaunch l f).sides = s.sides := rfl
@[simp] theorem State.updLaunch_cmds (s : State) (l : Nat) (f : Launch → Launch) :
    (s.updLaunch l f).cmds = s.cmds := rfl
@[simp] theorem State.updLaunch_mqueues (s : State) (l : Nat) (f : Launch → Launch) :
    (s.updLaunch l f).mqueues = s.mqueues := rfl
@[simp] theorem State.updLaunch_windows (s : State) (l : Nat) (f : Launch → Launch) :
    (s.updLaunch l f).windows = s.windows := rfl
@[simp] theorem State.updLaunch_steward (s : State) (l : Nat) (f : Launch → Launch) :
    (s.updLaunch l f).steward = s.steward := rfl
@[simp] theorem State.updLaunch_eztons (s : State) (l : Nat) (f : Launch → Launch) :
    (s.updLaunch l f).eztons = s.eztons := rfl
@[simp] theorem State.updLaunch_pkg (s : State) (l : Nat) (f : Launch → Launch) : (s.updLaunch l f).pkg = s.pkg := rfl
@[simp] theorem State.updLaunch_ready (s : State) (l : Nat) (f : Launch → Launch) :
    (s.updLaunch l f).ready = s.ready := rfl
@[simp] theorem State.updLaunch_newly (s : State) (l : Nat) (f : Launch → Launch) :
    (s.updLaunch l f).newly = s.newly := rfl
@[simp] theorem State.updLaunch_tested (s : State) (l : Nat) (f : Launch → Launch) :
    (s.updLaunch l f).tested = s.tested := rfl
@[simp] theorem State.updLaunch_boot (s : State) (l : Nat) (f : Launch → Launch) :
    (s.updLaunch l f).boot = s.boot := rfl
@[simp] theorem State.updLaunch_booted (s : State) (l : Nat) (f : Launch → Launch) : (s.updLaunch l f).booted = s.booted := rfl
@[simp] theorem State.updLaunch_mrs (s : State) (l : Nat) (f : Launch → Launch) : (s.updLaunch l f).mrs = s.mrs := rfl
@[simp] theorem State.updLaunch_qosAt (s : State) (l : Nat) (f : Launch → Launch) : (s.updLaunch l f).qosAt = s.qosAt := rfl
@[simp] theorem State.updLaunch_outOps (s : State) (l : Nat) (f : Launch → Launch) : (s.updLaunch l f).outOps = s.outOps := rfl
@[simp] theorem State.updLaunch_ecc (s : State) (l : Nat) (f : Launch → Launch) : (s.updLaunch l f).ecc = s.ecc := rfl
@[simp] theorem State.updLaunch_errs (s : State) (l : Nat) (f : Launch → Launch) : (s.updLaunch l f).errs = s.errs := rfl
@[simp] theorem State.updLaunch_linkMode (s : State) (l : Nat) (f : Launch → Launch) :
    (s.updLaunch l f).linkMode = s.linkMode := rfl
@[simp] theorem State.updLaunch_throttle (s : State) (l : Nat) (f : Launch → Launch) :
    (s.updLaunch l f).throttle = s.throttle := rfl
@[simp] theorem State.updLaunch_issueAt (s : State) (l : Nat) (f : Launch → Launch) :
    (s.updLaunch l f).issueAt = s.issueAt := rfl
@[simp] theorem State.updLaunch_throttled (s : State) (l : Nat) (f : Launch → Launch) :
    (s.updLaunch l f).throttled = s.throttled := rfl
@[simp] theorem State.updLaunch_frac (s : State) (l : Nat) (f : Launch → Launch) :
    (s.updLaunch l f).frac = s.frac := rfl

/-! ### Recording a fault -/

@[simp] theorem recordFault_agenda (s : State) (l : Nat) (t : Trap) (b : BitVec 32) :
    (recordFault s l t b).agenda = s.agenda := rfl
@[simp] theorem recordFault_cur (s : State) (l : Nat) (t : Trap) (b : BitVec 32) :
    (recordFault s l t b).cur = s.cur := rfl
@[simp] theorem recordFault_focus (s : State) (l : Nat) (t : Trap) (b : BitVec 32) :
    (recordFault s l t b).focus = s.focus := rfl
@[simp] theorem recordFault_freeCtr (s : State) (l : Nat) (t : Trap) (b : BitVec 32) :
    (recordFault s l t b).freeCtr = s.freeCtr := rfl
@[simp] theorem recordFault_rot (s : State) (l : Nat) (t : Trap) (b : BitVec 32) :
    (recordFault s l t b).rot = s.rot := rfl
@[simp] theorem recordFault_outside (s : State) (l : Nat) (t : Trap) (b : BitVec 32) :
    (recordFault s l t b).outside = s.outside := rfl
@[simp] theorem recordFault_time (s : State) (l : Nat) (t : Trap) (b : BitVec 32) :
    (recordFault s l t b).time = s.time := rfl
@[simp] theorem recordFault_cycle (s : State) (l : Nat) (t : Trap) (b : BitVec 32) :
    (recordFault s l t b).cycle = s.cycle := rfl
@[simp] theorem recordFault_clock (s : State) (l : Nat) (t : Trap) (b : BitVec 32) :
    (recordFault s l t b).clock = s.clock := rfl
@[simp] theorem recordFault_mem (s : State) (l : Nat) (t : Trap) (b : BitVec 32) :
    (recordFault s l t b).mem = s.mem := rfl
@[simp] theorem recordFault_waiters (s : State) (l : Nat) (t : Trap) (b : BitVec 32) :
    (recordFault s l t b).waiters = s.waiters := rfl
@[simp] theorem recordFault_gifts (s : State) (l : Nat) (t : Trap) (b : BitVec 32) :
    (recordFault s l t b).gifts = s.gifts := rfl
@[simp] theorem recordFault_roots1 (s : State) (l : Nat) (t : Trap) (b : BitVec 32) :
    (recordFault s l t b).roots1 = s.roots1 := rfl
@[simp] theorem recordFault_roots2 (s : State) (l : Nat) (t : Trap) (b : BitVec 32) :
    (recordFault s l t b).roots2 = s.roots2 := rfl
@[simp] theorem recordFault_next1 (s : State) (l : Nat) (t : Trap) (b : BitVec 32) :
    (recordFault s l t b).next1 = s.next1 := rfl
@[simp] theorem recordFault_next2 (s : State) (l : Nat) (t : Trap) (b : BitVec 32) :
    (recordFault s l t b).next2 = s.next2 := rfl
@[simp] theorem recordFault_allot (s : State) (l : Nat) (t : Trap) (b : BitVec 32) :
    (recordFault s l t b).allot = s.allot := rfl
@[simp] theorem recordFault_sliceClear (s : State) (l : Nat) (t : Trap) (b : BitVec 32) :
    (recordFault s l t b).sliceClear = s.sliceClear := rfl
@[simp] theorem recordFault_sliceOwner (s : State) (l : Nat) (t : Trap) (b : BitVec 32) :
    (recordFault s l t b).sliceOwner = s.sliceOwner := rfl
@[simp] theorem recordFault_invq (s : State) (l : Nat) (t : Trap) (b : BitVec 32) :
    (recordFault s l t b).invq = s.invq := rfl
@[simp] theorem recordFault_tlbH (s : State) (l : Nat) (t : Trap) (b : BitVec 32) :
    (recordFault s l t b).tlbH = s.tlbH := rfl
@[simp] theorem recordFault_tlbP (s : State) (l : Nat) (t : Trap) (b : BitVec 32) :
    (recordFault s l t b).tlbP = s.tlbP := rfl
@[simp] theorem recordFault_walks (s : State) (l : Nat) (t : Trap) (b : BitVec 32) :
    (recordFault s l t b).walks = s.walks := rfl
@[simp] theorem recordFault_walkGifts (s : State) (l : Nat) (t : Trap) (b : BitVec 32) :
    (recordFault s l t b).walkGifts = s.walkGifts := rfl
@[simp] theorem recordFault_walkRot (s : State) (l : Nat) (t : Trap) (b : BitVec 32) :
    (recordFault s l t b).walkRot = s.walkRot := rfl
@[simp] theorem recordFault_nextId (s : State) (l : Nat) (t : Trap) (b : BitVec 32) :
    (recordFault s l t b).nextId = s.nextId := rfl
@[simp] theorem recordFault_domain (s : State) (l : Nat) (t : Trap) (b : BitVec 32) :
    (recordFault s l t b).domain = s.domain := rfl
@[simp] theorem recordFault_domainPkgs (s : State) (l : Nat) (t : Trap) (b : BitVec 32) :
    (recordFault s l t b).domainPkgs = s.domainPkgs := rfl
@[simp] theorem recordFault_peerOut (s : State) (l : Nat) (t : Trap) (b : BitVec 32) :
    (recordFault s l t b).peerOut = s.peerOut := rfl
@[simp] theorem recordFault_peerIn (s : State) (l : Nat) (t : Trap) (b : BitVec 32) :
    (recordFault s l t b).peerIn = s.peerIn := rfl
@[simp] theorem recordFault_lost (s : State) (l : Nat) (t : Trap) (b : BitVec 32) :
    (recordFault s l t b).lost = s.lost := rfl
@[simp] theorem recordFault_bankWait (s : State) (l : Nat) (t : Trap) (b : BitVec 32) :
    (recordFault s l t b).bankWait = s.bankWait := rfl
@[simp] theorem recordFault_ctxs (s : State) (l : Nat) (t : Trap) (b : BitVec 32) :
    (recordFault s l t b).ctxs = s.ctxs := rfl
@[simp] theorem recordFault_vfs (s : State) (l : Nat) (t : Trap) (b : BitVec 32) :
    (recordFault s l t b).vfs = s.vfs := rfl
@[simp] theorem recordFault_fences (s : State) (l : Nat) (t : Trap) (b : BitVec 32) :
    (recordFault s l t b).fences = s.fences := rfl
@[simp] theorem recordFault_fenceErr (s : State) (l : Nat) (t : Trap) (b : BitVec 32) :
    (recordFault s l t b).fenceErr = s.fenceErr := rfl
@[simp] theorem recordFault_hamlets (s : State) (l : Nat) (t : Trap) (b : BitVec 32) :
    (recordFault s l t b).hamlets = s.hamlets := rfl
@[simp] theorem recordFault_retiredH (s : State) (l : Nat) (t : Trap) (b : BitVec 32) :
    (recordFault s l t b).retiredH = s.retiredH := rfl
@[simp] theorem recordFault_retiredP (s : State) (l : Nat) (t : Trap) (b : BitVec 32) :
    (recordFault s l t b).retiredP = s.retiredP := rfl
@[simp] theorem recordFault_clearAt (s : State) (l : Nat) (t : Trap) (b : BitVec 32) :
    (recordFault s l t b).clearAt = s.clearAt := rfl
@[simp] theorem recordFault_reeves (s : State) (l : Nat) (t : Trap) (b : BitVec 32) :
    (recordFault s l t b).reeves = s.reeves := rfl
@[simp] theorem recordFault_ports (s : State) (l : Nat) (t : Trap) (b : BitVec 32) :
    (recordFault s l t b).ports = s.ports := rfl
@[simp] theorem recordFault_insts (s : State) (l : Nat) (t : Trap) (b : BitVec 32) :
    (recordFault s l t b).insts = s.insts := rfl
@[simp] theorem recordFault_accs (s : State) (l : Nat) (t : Trap) (b : BitVec 32) :
    (recordFault s l t b).accs = s.accs := rfl
@[simp] theorem recordFault_places (s : State) (l : Nat) (t : Trap) (b : BitVec 32) :
    (recordFault s l t b).places = s.places := rfl
@[simp] theorem recordFault_sides (s : State) (l : Nat) (t : Trap) (b : BitVec 32) :
    (recordFault s l t b).sides = s.sides := rfl
@[simp] theorem recordFault_cmds (s : State) (l : Nat) (t : Trap) (b : BitVec 32) :
    (recordFault s l t b).cmds = s.cmds := rfl
@[simp] theorem recordFault_mqueues (s : State) (l : Nat) (t : Trap) (b : BitVec 32) :
    (recordFault s l t b).mqueues = s.mqueues := rfl
@[simp] theorem recordFault_windows (s : State) (l : Nat) (t : Trap) (b : BitVec 32) :
    (recordFault s l t b).windows = s.windows := rfl
@[simp] theorem recordFault_steward (s : State) (l : Nat) (t : Trap) (b : BitVec 32) :
    (recordFault s l t b).steward = s.steward := rfl
@[simp] theorem recordFault_eztons (s : State) (l : Nat) (t : Trap) (b : BitVec 32) :
    (recordFault s l t b).eztons = s.eztons := rfl
@[simp] theorem recordFault_pkg (s : State) (l : Nat) (t : Trap) (b : BitVec 32) :
    (recordFault s l t b).pkg = s.pkg := rfl
@[simp] theorem recordFault_ready (s : State) (l : Nat) (t : Trap) (b : BitVec 32) :
    (recordFault s l t b).ready = s.ready := rfl
@[simp] theorem recordFault_newly (s : State) (l : Nat) (t : Trap) (b : BitVec 32) :
    (recordFault s l t b).newly = s.newly := rfl
@[simp] theorem recordFault_tested (s : State) (l : Nat) (t : Trap) (b : BitVec 32) :
    (recordFault s l t b).tested = s.tested := rfl
@[simp] theorem recordFault_boot (s : State) (l : Nat) (t : Trap) (b : BitVec 32) :
    (recordFault s l t b).boot = s.boot := rfl
@[simp] theorem recordFault_booted (s : State) (l : Nat) (t : Trap) (b : BitVec 32) :
    (recordFault s l t b).booted = s.booted := rfl
@[simp] theorem recordFault_mrs (s : State) (l : Nat) (t : Trap) (b : BitVec 32) :
    (recordFault s l t b).mrs = s.mrs := rfl
@[simp] theorem recordFault_qosAt (s : State) (l : Nat) (t : Trap) (b : BitVec 32) :
    (recordFault s l t b).qosAt = s.qosAt := rfl
@[simp] theorem recordFault_outOps (s : State) (l : Nat) (t : Trap) (b : BitVec 32) :
    (recordFault s l t b).outOps = s.outOps := rfl
@[simp] theorem recordFault_ecc (s : State) (l : Nat) (t : Trap) (b : BitVec 32) :
    (recordFault s l t b).ecc = s.ecc := rfl
@[simp] theorem recordFault_linkMode (s : State) (l : Nat) (t : Trap) (b : BitVec 32) :
    (recordFault s l t b).linkMode = s.linkMode := rfl
@[simp] theorem recordFault_throttle (s : State) (l : Nat) (t : Trap) (b : BitVec 32) :
    (recordFault s l t b).throttle = s.throttle := rfl
@[simp] theorem recordFault_issueAt (s : State) (l : Nat) (t : Trap) (b : BitVec 32) :
    (recordFault s l t b).issueAt = s.issueAt := rfl
@[simp] theorem recordFault_throttled (s : State) (l : Nat) (t : Trap) (b : BitVec 32) :
    (recordFault s l t b).throttled = s.throttled := rfl
@[simp] theorem recordFault_frac (s : State) (l : Nat) (t : Trap) (b : BitVec 32) :
    (recordFault s l t b).frac = s.frac := rfl

/-! ### Noting that a replay would differ -/

@[simp] theorem markDirty_agenda (s : State) (l : Nat) : (markDirty s l).agenda = s.agenda := rfl
@[simp] theorem markDirty_cur (s : State) (l : Nat) : (markDirty s l).cur = s.cur := rfl
@[simp] theorem markDirty_focus (s : State) (l : Nat) : (markDirty s l).focus = s.focus := rfl
@[simp] theorem markDirty_freeCtr (s : State) (l : Nat) : (markDirty s l).freeCtr = s.freeCtr := rfl
@[simp] theorem markDirty_rot (s : State) (l : Nat) : (markDirty s l).rot = s.rot := rfl
@[simp] theorem markDirty_outside (s : State) (l : Nat) : (markDirty s l).outside = s.outside := rfl
@[simp] theorem markDirty_time (s : State) (l : Nat) : (markDirty s l).time = s.time := rfl
@[simp] theorem markDirty_cycle (s : State) (l : Nat) : (markDirty s l).cycle = s.cycle := rfl
@[simp] theorem markDirty_clock (s : State) (l : Nat) : (markDirty s l).clock = s.clock := rfl
@[simp] theorem markDirty_mem (s : State) (l : Nat) : (markDirty s l).mem = s.mem := rfl
@[simp] theorem markDirty_waiters (s : State) (l : Nat) : (markDirty s l).waiters = s.waiters := rfl
@[simp] theorem markDirty_gifts (s : State) (l : Nat) : (markDirty s l).gifts = s.gifts := rfl
@[simp] theorem markDirty_roots1 (s : State) (l : Nat) : (markDirty s l).roots1 = s.roots1 := rfl
@[simp] theorem markDirty_roots2 (s : State) (l : Nat) : (markDirty s l).roots2 = s.roots2 := rfl
@[simp] theorem markDirty_next1 (s : State) (l : Nat) : (markDirty s l).next1 = s.next1 := rfl
@[simp] theorem markDirty_next2 (s : State) (l : Nat) : (markDirty s l).next2 = s.next2 := rfl
@[simp] theorem markDirty_allot (s : State) (l : Nat) : (markDirty s l).allot = s.allot := rfl
@[simp] theorem markDirty_sliceClear (s : State) (l : Nat) : (markDirty s l).sliceClear = s.sliceClear := rfl
@[simp] theorem markDirty_sliceOwner (s : State) (l : Nat) : (markDirty s l).sliceOwner = s.sliceOwner := rfl
@[simp] theorem markDirty_invq (s : State) (l : Nat) : (markDirty s l).invq = s.invq := rfl
@[simp] theorem markDirty_tlbH (s : State) (l : Nat) : (markDirty s l).tlbH = s.tlbH := rfl
@[simp] theorem markDirty_tlbP (s : State) (l : Nat) : (markDirty s l).tlbP = s.tlbP := rfl
@[simp] theorem markDirty_walks (s : State) (l : Nat) : (markDirty s l).walks = s.walks := rfl
@[simp] theorem markDirty_walkGifts (s : State) (l : Nat) : (markDirty s l).walkGifts = s.walkGifts := rfl
@[simp] theorem markDirty_walkRot (s : State) (l : Nat) : (markDirty s l).walkRot = s.walkRot := rfl
@[simp] theorem markDirty_nextId (s : State) (l : Nat) : (markDirty s l).nextId = s.nextId := rfl
@[simp] theorem markDirty_domain (s : State) (l : Nat) : (markDirty s l).domain = s.domain := rfl
@[simp] theorem markDirty_domainPkgs (s : State) (l : Nat) : (markDirty s l).domainPkgs = s.domainPkgs := rfl
@[simp] theorem markDirty_peerOut (s : State) (l : Nat) : (markDirty s l).peerOut = s.peerOut := rfl
@[simp] theorem markDirty_peerIn (s : State) (l : Nat) : (markDirty s l).peerIn = s.peerIn := rfl
@[simp] theorem markDirty_lost (s : State) (l : Nat) : (markDirty s l).lost = s.lost := rfl
@[simp] theorem markDirty_bankWait (s : State) (l : Nat) : (markDirty s l).bankWait = s.bankWait := rfl
@[simp] theorem markDirty_ctxs (s : State) (l : Nat) : (markDirty s l).ctxs = s.ctxs := rfl
@[simp] theorem markDirty_vfs (s : State) (l : Nat) : (markDirty s l).vfs = s.vfs := rfl
@[simp] theorem markDirty_fences (s : State) (l : Nat) : (markDirty s l).fences = s.fences := rfl
@[simp] theorem markDirty_fenceErr (s : State) (l : Nat) : (markDirty s l).fenceErr = s.fenceErr := rfl
@[simp] theorem markDirty_hamlets (s : State) (l : Nat) : (markDirty s l).hamlets = s.hamlets := rfl
@[simp] theorem markDirty_retiredH (s : State) (l : Nat) : (markDirty s l).retiredH = s.retiredH := rfl
@[simp] theorem markDirty_retiredP (s : State) (l : Nat) : (markDirty s l).retiredP = s.retiredP := rfl
@[simp] theorem markDirty_clearAt (s : State) (l : Nat) : (markDirty s l).clearAt = s.clearAt := rfl
@[simp] theorem markDirty_reeves (s : State) (l : Nat) : (markDirty s l).reeves = s.reeves := rfl
@[simp] theorem markDirty_ports (s : State) (l : Nat) : (markDirty s l).ports = s.ports := rfl
@[simp] theorem markDirty_insts (s : State) (l : Nat) : (markDirty s l).insts = s.insts := rfl
@[simp] theorem markDirty_accs (s : State) (l : Nat) : (markDirty s l).accs = s.accs := rfl
@[simp] theorem markDirty_places (s : State) (l : Nat) : (markDirty s l).places = s.places := rfl
@[simp] theorem markDirty_sides (s : State) (l : Nat) : (markDirty s l).sides = s.sides := rfl
@[simp] theorem markDirty_cmds (s : State) (l : Nat) : (markDirty s l).cmds = s.cmds := rfl
@[simp] theorem markDirty_mqueues (s : State) (l : Nat) : (markDirty s l).mqueues = s.mqueues := rfl
@[simp] theorem markDirty_windows (s : State) (l : Nat) : (markDirty s l).windows = s.windows := rfl
@[simp] theorem markDirty_steward (s : State) (l : Nat) : (markDirty s l).steward = s.steward := rfl
@[simp] theorem markDirty_eztons (s : State) (l : Nat) : (markDirty s l).eztons = s.eztons := rfl
@[simp] theorem markDirty_pkg (s : State) (l : Nat) : (markDirty s l).pkg = s.pkg := rfl
@[simp] theorem markDirty_ready (s : State) (l : Nat) : (markDirty s l).ready = s.ready := rfl
@[simp] theorem markDirty_newly (s : State) (l : Nat) : (markDirty s l).newly = s.newly := rfl
@[simp] theorem markDirty_tested (s : State) (l : Nat) : (markDirty s l).tested = s.tested := rfl
@[simp] theorem markDirty_boot (s : State) (l : Nat) : (markDirty s l).boot = s.boot := rfl
@[simp] theorem markDirty_booted (s : State) (l : Nat) : (markDirty s l).booted = s.booted := rfl
@[simp] theorem markDirty_mrs (s : State) (l : Nat) : (markDirty s l).mrs = s.mrs := rfl
@[simp] theorem markDirty_qosAt (s : State) (l : Nat) : (markDirty s l).qosAt = s.qosAt := rfl
@[simp] theorem markDirty_outOps (s : State) (l : Nat) : (markDirty s l).outOps = s.outOps := rfl
@[simp] theorem markDirty_ecc (s : State) (l : Nat) : (markDirty s l).ecc = s.ecc := rfl
@[simp] theorem markDirty_errs (s : State) (l : Nat) : (markDirty s l).errs = s.errs := rfl
@[simp] theorem markDirty_linkMode (s : State) (l : Nat) : (markDirty s l).linkMode = s.linkMode := rfl
@[simp] theorem markDirty_throttle (s : State) (l : Nat) : (markDirty s l).throttle = s.throttle := rfl
@[simp] theorem markDirty_issueAt (s : State) (l : Nat) : (markDirty s l).issueAt = s.issueAt := rfl
@[simp] theorem markDirty_throttled (s : State) (l : Nat) : (markDirty s l).throttled = s.throttled := rfl
@[simp] theorem markDirty_frac (s : State) (l : Nat) : (markDirty s l).frac = s.frac := rfl

/-! ### Counting -/

@[simp] theorem State.count_agenda (s : State) (v o n : Nat) :
    (s.count v o n).agenda = s.agenda := by
  unfold State.count; simp only; split <;> rfl
@[simp] theorem State.count_cur (s : State) (v o n : Nat) :
    (s.count v o n).cur = s.cur := by
  unfold State.count; simp only; split <;> rfl
@[simp] theorem State.count_focus (s : State) (v o n : Nat) :
    (s.count v o n).focus = s.focus := by
  unfold State.count; simp only; split <;> rfl
@[simp] theorem State.count_freeCtr (s : State) (v o n : Nat) :
    (s.count v o n).freeCtr = s.freeCtr := by
  unfold State.count; simp only; split <;> rfl
@[simp] theorem State.count_rot (s : State) (v o n : Nat) :
    (s.count v o n).rot = s.rot := by
  unfold State.count; simp only; split <;> rfl
@[simp] theorem State.count_outside (s : State) (v o n : Nat) :
    (s.count v o n).outside = s.outside := by
  unfold State.count; simp only; split <;> rfl
@[simp] theorem State.count_time (s : State) (v o n : Nat) :
    (s.count v o n).time = s.time := by
  unfold State.count; simp only; split <;> rfl
@[simp] theorem State.count_cycle (s : State) (v o n : Nat) :
    (s.count v o n).cycle = s.cycle := by
  unfold State.count; simp only; split <;> rfl
@[simp] theorem State.count_clock (s : State) (v o n : Nat) :
    (s.count v o n).clock = s.clock := by
  unfold State.count; simp only; split <;> rfl
@[simp] theorem State.count_mem (s : State) (v o n : Nat) :
    (s.count v o n).mem = s.mem := by
  unfold State.count; simp only; split <;> rfl
@[simp] theorem State.count_waiters (s : State) (v o n : Nat) :
    (s.count v o n).waiters = s.waiters := by
  unfold State.count; simp only; split <;> rfl
@[simp] theorem State.count_gifts (s : State) (v o n : Nat) :
    (s.count v o n).gifts = s.gifts := by
  unfold State.count; simp only; split <;> rfl
@[simp] theorem State.count_roots1 (s : State) (v o n : Nat) :
    (s.count v o n).roots1 = s.roots1 := by
  unfold State.count; simp only; split <;> rfl
@[simp] theorem State.count_roots2 (s : State) (v o n : Nat) :
    (s.count v o n).roots2 = s.roots2 := by
  unfold State.count; simp only; split <;> rfl
@[simp] theorem State.count_next1 (s : State) (v o n : Nat) :
    (s.count v o n).next1 = s.next1 := by
  unfold State.count; simp only; split <;> rfl
@[simp] theorem State.count_next2 (s : State) (v o n : Nat) :
    (s.count v o n).next2 = s.next2 := by
  unfold State.count; simp only; split <;> rfl
@[simp] theorem State.count_allot (s : State) (v o n : Nat) :
    (s.count v o n).allot = s.allot := by
  unfold State.count; simp only; split <;> rfl
@[simp] theorem State.count_sliceClear (s : State) (v o n : Nat) :
    (s.count v o n).sliceClear = s.sliceClear := by
  unfold State.count; simp only; split <;> rfl
@[simp] theorem State.count_sliceOwner (s : State) (v o n : Nat) :
    (s.count v o n).sliceOwner = s.sliceOwner := by
  unfold State.count; simp only; split <;> rfl
@[simp] theorem State.count_invq (s : State) (v o n : Nat) :
    (s.count v o n).invq = s.invq := by
  unfold State.count; simp only; split <;> rfl
@[simp] theorem State.count_tlbH (s : State) (v o n : Nat) :
    (s.count v o n).tlbH = s.tlbH := by
  unfold State.count; simp only; split <;> rfl
@[simp] theorem State.count_tlbP (s : State) (v o n : Nat) :
    (s.count v o n).tlbP = s.tlbP := by
  unfold State.count; simp only; split <;> rfl
@[simp] theorem State.count_walks (s : State) (v o n : Nat) :
    (s.count v o n).walks = s.walks := by
  unfold State.count; simp only; split <;> rfl
@[simp] theorem State.count_walkGifts (s : State) (v o n : Nat) :
    (s.count v o n).walkGifts = s.walkGifts := by
  unfold State.count; simp only; split <;> rfl
@[simp] theorem State.count_walkRot (s : State) (v o n : Nat) :
    (s.count v o n).walkRot = s.walkRot := by
  unfold State.count; simp only; split <;> rfl
@[simp] theorem State.count_nextId (s : State) (v o n : Nat) :
    (s.count v o n).nextId = s.nextId := by
  unfold State.count; simp only; split <;> rfl
@[simp] theorem State.count_domain (s : State) (v o n : Nat) :
    (s.count v o n).domain = s.domain := by
  unfold State.count; simp only; split <;> rfl
@[simp] theorem State.count_domainPkgs (s : State) (v o n : Nat) :
    (s.count v o n).domainPkgs = s.domainPkgs := by
  unfold State.count; simp only; split <;> rfl
@[simp] theorem State.count_peerOut (s : State) (v o n : Nat) :
    (s.count v o n).peerOut = s.peerOut := by
  unfold State.count; simp only; split <;> rfl
@[simp] theorem State.count_peerIn (s : State) (v o n : Nat) :
    (s.count v o n).peerIn = s.peerIn := by
  unfold State.count; simp only; split <;> rfl
@[simp] theorem State.count_lost (s : State) (v o n : Nat) :
    (s.count v o n).lost = s.lost := by
  unfold State.count; simp only; split <;> rfl
@[simp] theorem State.count_bankWait (s : State) (v o n : Nat) :
    (s.count v o n).bankWait = s.bankWait := by
  unfold State.count; simp only; split <;> rfl
@[simp] theorem State.count_ctxs (s : State) (v o n : Nat) :
    (s.count v o n).ctxs = s.ctxs := by
  unfold State.count; simp only; split <;> rfl
@[simp] theorem State.count_fences (s : State) (v o n : Nat) :
    (s.count v o n).fences = s.fences := by
  unfold State.count; simp only; split <;> rfl
@[simp] theorem State.count_fenceErr (s : State) (v o n : Nat) :
    (s.count v o n).fenceErr = s.fenceErr := by
  unfold State.count; simp only; split <;> rfl
@[simp] theorem State.count_hamlets (s : State) (v o n : Nat) :
    (s.count v o n).hamlets = s.hamlets := by
  unfold State.count; simp only; split <;> rfl
@[simp] theorem State.count_retiredH (s : State) (v o n : Nat) :
    (s.count v o n).retiredH = s.retiredH := by
  unfold State.count; simp only; split <;> rfl
@[simp] theorem State.count_retiredP (s : State) (v o n : Nat) :
    (s.count v o n).retiredP = s.retiredP := by
  unfold State.count; simp only; split <;> rfl
@[simp] theorem State.count_clearAt (s : State) (v o n : Nat) :
    (s.count v o n).clearAt = s.clearAt := by
  unfold State.count; simp only; split <;> rfl
@[simp] theorem State.count_reeves (s : State) (v o n : Nat) :
    (s.count v o n).reeves = s.reeves := by
  unfold State.count; simp only; split <;> rfl
@[simp] theorem State.count_ports (s : State) (v o n : Nat) :
    (s.count v o n).ports = s.ports := by
  unfold State.count; simp only; split <;> rfl
@[simp] theorem State.count_insts (s : State) (v o n : Nat) :
    (s.count v o n).insts = s.insts := by
  unfold State.count; simp only; split <;> rfl
@[simp] theorem State.count_accs (s : State) (v o n : Nat) :
    (s.count v o n).accs = s.accs := by
  unfold State.count; simp only; split <;> rfl
@[simp] theorem State.count_launches (s : State) (v o n : Nat) :
    (s.count v o n).launches = s.launches := by
  unfold State.count; simp only; split <;> rfl
@[simp] theorem State.count_places (s : State) (v o n : Nat) :
    (s.count v o n).places = s.places := by
  unfold State.count; simp only; split <;> rfl
@[simp] theorem State.count_sides (s : State) (v o n : Nat) :
    (s.count v o n).sides = s.sides := by
  unfold State.count; simp only; split <;> rfl
@[simp] theorem State.count_cmds (s : State) (v o n : Nat) :
    (s.count v o n).cmds = s.cmds := by
  unfold State.count; simp only; split <;> rfl
@[simp] theorem State.count_mqueues (s : State) (v o n : Nat) :
    (s.count v o n).mqueues = s.mqueues := by
  unfold State.count; simp only; split <;> rfl
@[simp] theorem State.count_windows (s : State) (v o n : Nat) :
    (s.count v o n).windows = s.windows := by
  unfold State.count; simp only; split <;> rfl
@[simp] theorem State.count_steward (s : State) (v o n : Nat) :
    (s.count v o n).steward = s.steward := by
  unfold State.count; simp only; split <;> rfl
@[simp] theorem State.count_eztons (s : State) (v o n : Nat) :
    (s.count v o n).eztons = s.eztons := by
  unfold State.count; simp only; split <;> rfl
@[simp] theorem State.count_pkg (s : State) (v o n : Nat) :
    (s.count v o n).pkg = s.pkg := by
  unfold State.count; simp only; split <;> rfl
@[simp] theorem State.count_ready (s : State) (v o n : Nat) :
    (s.count v o n).ready = s.ready := by
  unfold State.count; simp only; split <;> rfl
@[simp] theorem State.count_newly (s : State) (v o n : Nat) :
    (s.count v o n).newly = s.newly := by
  unfold State.count; simp only; split <;> rfl
@[simp] theorem State.count_tested (s : State) (v o n : Nat) :
    (s.count v o n).tested = s.tested := by
  unfold State.count; simp only; split <;> rfl
@[simp] theorem State.count_boot (s : State) (v o n : Nat) :
    (s.count v o n).boot = s.boot := by
  unfold State.count; simp only; split <;> rfl
@[simp] theorem State.count_booted (s : State) (v o n : Nat) :
    (s.count v o n).booted = s.booted := by
  unfold State.count; simp only; split <;> rfl
@[simp] theorem State.count_mrs (s : State) (v o n : Nat) :
    (s.count v o n).mrs = s.mrs := by
  unfold State.count; simp only; split <;> rfl
@[simp] theorem State.count_qosAt (s : State) (v o n : Nat) :
    (s.count v o n).qosAt = s.qosAt := by
  unfold State.count; simp only; split <;> rfl
@[simp] theorem State.count_outOps (s : State) (v o n : Nat) :
    (s.count v o n).outOps = s.outOps := by
  unfold State.count; simp only; split <;> rfl
@[simp] theorem State.count_ecc (s : State) (v o n : Nat) :
    (s.count v o n).ecc = s.ecc := by
  unfold State.count; simp only; split <;> rfl
@[simp] theorem State.count_errs (s : State) (v o n : Nat) :
    (s.count v o n).errs = s.errs := by
  unfold State.count; simp only; split <;> rfl
@[simp] theorem State.count_linkMode (s : State) (v o n : Nat) :
    (s.count v o n).linkMode = s.linkMode := by
  unfold State.count; simp only; split <;> rfl
@[simp] theorem State.count_throttle (s : State) (v o n : Nat) :
    (s.count v o n).throttle = s.throttle := by
  unfold State.count; simp only; split <;> rfl
@[simp] theorem State.count_issueAt (s : State) (v o n : Nat) :
    (s.count v o n).issueAt = s.issueAt := by
  unfold State.count; simp only; split <;> rfl
@[simp] theorem State.count_throttled (s : State) (v o n : Nat) :
    (s.count v o n).throttled = s.throttled := by
  unfold State.count; simp only; split <;> rfl
@[simp] theorem State.count_frac (s : State) (v o n : Nat) :
    (s.count v o n).frac = s.frac := by
  unfold State.count; simp only; split <;> rfl

/-! ### Dropping what is held for a requester -/

@[simp] theorem release_agenda (s : State) (w : Who) : (release s w).agenda = s.agenda := rfl
@[simp] theorem release_cur (s : State) (w : Who) : (release s w).cur = s.cur := rfl
@[simp] theorem release_focus (s : State) (w : Who) : (release s w).focus = s.focus := rfl
@[simp] theorem release_freeCtr (s : State) (w : Who) : (release s w).freeCtr = s.freeCtr := rfl
@[simp] theorem release_rot (s : State) (w : Who) : (release s w).rot = s.rot := rfl
@[simp] theorem release_outside (s : State) (w : Who) : (release s w).outside = s.outside := rfl
@[simp] theorem release_time (s : State) (w : Who) : (release s w).time = s.time := rfl
@[simp] theorem release_cycle (s : State) (w : Who) : (release s w).cycle = s.cycle := rfl
@[simp] theorem release_clock (s : State) (w : Who) : (release s w).clock = s.clock := rfl
@[simp] theorem release_mem (s : State) (w : Who) : (release s w).mem = s.mem := rfl
@[simp] theorem release_waiters (s : State) (w : Who) : (release s w).waiters = s.waiters := rfl
@[simp] theorem release_roots1 (s : State) (w : Who) : (release s w).roots1 = s.roots1 := rfl
@[simp] theorem release_roots2 (s : State) (w : Who) : (release s w).roots2 = s.roots2 := rfl
@[simp] theorem release_next1 (s : State) (w : Who) : (release s w).next1 = s.next1 := rfl
@[simp] theorem release_next2 (s : State) (w : Who) : (release s w).next2 = s.next2 := rfl
@[simp] theorem release_allot (s : State) (w : Who) : (release s w).allot = s.allot := rfl
@[simp] theorem release_sliceClear (s : State) (w : Who) : (release s w).sliceClear = s.sliceClear := rfl
@[simp] theorem release_sliceOwner (s : State) (w : Who) : (release s w).sliceOwner = s.sliceOwner := rfl
@[simp] theorem release_invq (s : State) (w : Who) : (release s w).invq = s.invq := rfl
@[simp] theorem release_tlbH (s : State) (w : Who) : (release s w).tlbH = s.tlbH := rfl
@[simp] theorem release_tlbP (s : State) (w : Who) : (release s w).tlbP = s.tlbP := rfl
@[simp] theorem release_walks (s : State) (w : Who) : (release s w).walks = s.walks := rfl
@[simp] theorem release_walkRot (s : State) (w : Who) : (release s w).walkRot = s.walkRot := rfl
@[simp] theorem release_nextId (s : State) (w : Who) : (release s w).nextId = s.nextId := rfl
@[simp] theorem release_domain (s : State) (w : Who) : (release s w).domain = s.domain := rfl
@[simp] theorem release_domainPkgs (s : State) (w : Who) : (release s w).domainPkgs = s.domainPkgs := rfl
@[simp] theorem release_peerOut (s : State) (w : Who) : (release s w).peerOut = s.peerOut := rfl
@[simp] theorem release_lost (s : State) (w : Who) : (release s w).lost = s.lost := rfl
@[simp] theorem release_ctxs (s : State) (w : Who) : (release s w).ctxs = s.ctxs := rfl
@[simp] theorem release_vfs (s : State) (w : Who) : (release s w).vfs = s.vfs := rfl
@[simp] theorem release_fences (s : State) (w : Who) : (release s w).fences = s.fences := rfl
@[simp] theorem release_fenceErr (s : State) (w : Who) : (release s w).fenceErr = s.fenceErr := rfl
@[simp] theorem release_hamlets (s : State) (w : Who) : (release s w).hamlets = s.hamlets := rfl
@[simp] theorem release_retiredH (s : State) (w : Who) : (release s w).retiredH = s.retiredH := rfl
@[simp] theorem release_retiredP (s : State) (w : Who) : (release s w).retiredP = s.retiredP := rfl
@[simp] theorem release_clearAt (s : State) (w : Who) : (release s w).clearAt = s.clearAt := rfl
@[simp] theorem release_reeves (s : State) (w : Who) : (release s w).reeves = s.reeves := rfl
@[simp] theorem release_ports (s : State) (w : Who) : (release s w).ports = s.ports := rfl
@[simp] theorem release_insts (s : State) (w : Who) : (release s w).insts = s.insts := rfl
@[simp] theorem release_accs (s : State) (w : Who) : (release s w).accs = s.accs := rfl
@[simp] theorem release_launches (s : State) (w : Who) : (release s w).launches = s.launches := rfl
@[simp] theorem release_places (s : State) (w : Who) : (release s w).places = s.places := rfl
@[simp] theorem release_sides (s : State) (w : Who) : (release s w).sides = s.sides := rfl
@[simp] theorem release_cmds (s : State) (w : Who) : (release s w).cmds = s.cmds := rfl
@[simp] theorem release_mqueues (s : State) (w : Who) : (release s w).mqueues = s.mqueues := rfl
@[simp] theorem release_windows (s : State) (w : Who) : (release s w).windows = s.windows := rfl
@[simp] theorem release_steward (s : State) (w : Who) : (release s w).steward = s.steward := rfl
@[simp] theorem release_eztons (s : State) (w : Who) : (release s w).eztons = s.eztons := rfl
@[simp] theorem release_pkg (s : State) (w : Who) : (release s w).pkg = s.pkg := rfl
@[simp] theorem release_ready (s : State) (w : Who) : (release s w).ready = s.ready := rfl
@[simp] theorem release_newly (s : State) (w : Who) : (release s w).newly = s.newly := rfl
@[simp] theorem release_tested (s : State) (w : Who) : (release s w).tested = s.tested := rfl
@[simp] theorem release_boot (s : State) (w : Who) : (release s w).boot = s.boot := rfl
@[simp] theorem release_booted (s : State) (w : Who) : (release s w).booted = s.booted := rfl
@[simp] theorem release_mrs (s : State) (w : Who) : (release s w).mrs = s.mrs := rfl
@[simp] theorem release_qosAt (s : State) (w : Who) : (release s w).qosAt = s.qosAt := rfl
@[simp] theorem release_outOps (s : State) (w : Who) : (release s w).outOps = s.outOps := rfl
@[simp] theorem release_ecc (s : State) (w : Who) : (release s w).ecc = s.ecc := rfl
@[simp] theorem release_errs (s : State) (w : Who) : (release s w).errs = s.errs := rfl
@[simp] theorem release_linkMode (s : State) (w : Who) : (release s w).linkMode = s.linkMode := rfl
@[simp] theorem release_throttle (s : State) (w : Who) : (release s w).throttle = s.throttle := rfl
@[simp] theorem release_issueAt (s : State) (w : Who) : (release s w).issueAt = s.issueAt := rfl
@[simp] theorem release_throttled (s : State) (w : Who) : (release s w).throttled = s.throttled := rfl
@[simp] theorem release_frac (s : State) (w : Who) : (release s w).frac = s.frac := rfl

/-! ### Retiring an instruction -/

@[simp] theorem retire_agenda (s : State) (pc : W64) : (retire s pc).agenda = s.agenda := by simp [retire]
@[simp] theorem retire_cur (s : State) (pc : W64) : (retire s pc).cur = s.cur := by simp [retire]
@[simp] theorem retire_focus (s : State) (pc : W64) : (retire s pc).focus = s.focus := by simp [retire]
@[simp] theorem retire_freeCtr (s : State) (pc : W64) : (retire s pc).freeCtr = s.freeCtr := by simp [retire]
@[simp] theorem retire_rot (s : State) (pc : W64) : (retire s pc).rot = s.rot := by simp [retire]
@[simp] theorem retire_outside (s : State) (pc : W64) : (retire s pc).outside = s.outside := by simp [retire]
@[simp] theorem retire_time (s : State) (pc : W64) : (retire s pc).time = s.time := by simp [retire]
@[simp] theorem retire_cycle (s : State) (pc : W64) : (retire s pc).cycle = s.cycle := by simp [retire]
@[simp] theorem retire_clock (s : State) (pc : W64) : (retire s pc).clock = s.clock := by simp [retire]
@[simp] theorem retire_mem (s : State) (pc : W64) : (retire s pc).mem = s.mem := by simp [retire]
@[simp] theorem retire_waiters (s : State) (pc : W64) : (retire s pc).waiters = s.waiters := by simp [retire]
@[simp] theorem retire_roots1 (s : State) (pc : W64) : (retire s pc).roots1 = s.roots1 := by simp [retire]
@[simp] theorem retire_roots2 (s : State) (pc : W64) : (retire s pc).roots2 = s.roots2 := by simp [retire]
@[simp] theorem retire_next1 (s : State) (pc : W64) : (retire s pc).next1 = s.next1 := by simp [retire]
@[simp] theorem retire_next2 (s : State) (pc : W64) : (retire s pc).next2 = s.next2 := by simp [retire]
@[simp] theorem retire_allot (s : State) (pc : W64) : (retire s pc).allot = s.allot := by simp [retire]
@[simp] theorem retire_sliceClear (s : State) (pc : W64) : (retire s pc).sliceClear = s.sliceClear := by simp [retire]
@[simp] theorem retire_sliceOwner (s : State) (pc : W64) : (retire s pc).sliceOwner = s.sliceOwner := by simp [retire]
@[simp] theorem retire_invq (s : State) (pc : W64) : (retire s pc).invq = s.invq := by simp [retire]
@[simp] theorem retire_tlbH (s : State) (pc : W64) : (retire s pc).tlbH = s.tlbH := by simp [retire]
@[simp] theorem retire_tlbP (s : State) (pc : W64) : (retire s pc).tlbP = s.tlbP := by simp [retire]
@[simp] theorem retire_walks (s : State) (pc : W64) : (retire s pc).walks = s.walks := by simp [retire]
@[simp] theorem retire_walkRot (s : State) (pc : W64) : (retire s pc).walkRot = s.walkRot := by simp [retire]
@[simp] theorem retire_nextId (s : State) (pc : W64) : (retire s pc).nextId = s.nextId := by simp [retire]
@[simp] theorem retire_domain (s : State) (pc : W64) : (retire s pc).domain = s.domain := by simp [retire]
@[simp] theorem retire_domainPkgs (s : State) (pc : W64) : (retire s pc).domainPkgs = s.domainPkgs := by simp [retire]
@[simp] theorem retire_peerOut (s : State) (pc : W64) : (retire s pc).peerOut = s.peerOut := by simp [retire]
@[simp] theorem retire_lost (s : State) (pc : W64) : (retire s pc).lost = s.lost := by simp [retire]
@[simp] theorem retire_ctxs (s : State) (pc : W64) : (retire s pc).ctxs = s.ctxs := by simp [retire]
@[simp] theorem retire_fences (s : State) (pc : W64) : (retire s pc).fences = s.fences := by simp [retire]
@[simp] theorem retire_fenceErr (s : State) (pc : W64) : (retire s pc).fenceErr = s.fenceErr := by simp [retire]
@[simp] theorem retire_hamlets (s : State) (pc : W64) : (retire s pc).hamlets = s.hamlets := by simp [retire]
@[simp] theorem retire_retiredH (s : State) (pc : W64) : (retire s pc).retiredH = s.retiredH := by simp [retire]
@[simp] theorem retire_retiredP (s : State) (pc : W64) : (retire s pc).retiredP = s.retiredP := by simp [retire]
@[simp] theorem retire_clearAt (s : State) (pc : W64) : (retire s pc).clearAt = s.clearAt := by simp [retire]
@[simp] theorem retire_ports (s : State) (pc : W64) : (retire s pc).ports = s.ports := by simp [retire]
@[simp] theorem retire_insts (s : State) (pc : W64) : (retire s pc).insts = s.insts := by simp [retire]
@[simp] theorem retire_accs (s : State) (pc : W64) : (retire s pc).accs = s.accs := by simp [retire]
@[simp] theorem retire_launches (s : State) (pc : W64) : (retire s pc).launches = s.launches := by simp [retire]
@[simp] theorem retire_places (s : State) (pc : W64) : (retire s pc).places = s.places := by simp [retire]
@[simp] theorem retire_sides (s : State) (pc : W64) : (retire s pc).sides = s.sides := by simp [retire]
@[simp] theorem retire_cmds (s : State) (pc : W64) : (retire s pc).cmds = s.cmds := by simp [retire]
@[simp] theorem retire_mqueues (s : State) (pc : W64) : (retire s pc).mqueues = s.mqueues := by simp [retire]
@[simp] theorem retire_windows (s : State) (pc : W64) : (retire s pc).windows = s.windows := by simp [retire]
@[simp] theorem retire_steward (s : State) (pc : W64) : (retire s pc).steward = s.steward := by simp [retire]
@[simp] theorem retire_eztons (s : State) (pc : W64) : (retire s pc).eztons = s.eztons := by simp [retire]
@[simp] theorem retire_pkg (s : State) (pc : W64) : (retire s pc).pkg = s.pkg := by simp [retire]
@[simp] theorem retire_ready (s : State) (pc : W64) : (retire s pc).ready = s.ready := by simp [retire]
@[simp] theorem retire_newly (s : State) (pc : W64) : (retire s pc).newly = s.newly := by simp [retire]
@[simp] theorem retire_tested (s : State) (pc : W64) : (retire s pc).tested = s.tested := by simp [retire]
@[simp] theorem retire_boot (s : State) (pc : W64) : (retire s pc).boot = s.boot := by simp [retire]
@[simp] theorem retire_booted (s : State) (pc : W64) : (retire s pc).booted = s.booted := by simp [retire]
@[simp] theorem retire_mrs (s : State) (pc : W64) : (retire s pc).mrs = s.mrs := by simp [retire]
@[simp] theorem retire_qosAt (s : State) (pc : W64) : (retire s pc).qosAt = s.qosAt := by simp [retire]
@[simp] theorem retire_outOps (s : State) (pc : W64) : (retire s pc).outOps = s.outOps := by simp [retire]
@[simp] theorem retire_ecc (s : State) (pc : W64) : (retire s pc).ecc = s.ecc := by simp [retire]
@[simp] theorem retire_errs (s : State) (pc : W64) : (retire s pc).errs = s.errs := by simp [retire]
@[simp] theorem retire_linkMode (s : State) (pc : W64) : (retire s pc).linkMode = s.linkMode := by simp [retire]
@[simp] theorem retire_throttle (s : State) (pc : W64) : (retire s pc).throttle = s.throttle := by simp [retire]
@[simp] theorem retire_issueAt (s : State) (pc : W64) : (retire s pc).issueAt = s.issueAt := by simp [retire]
@[simp] theorem retire_throttled (s : State) (pc : W64) : (retire s pc).throttled = s.throttled := by simp [retire]
@[simp] theorem retire_frac (s : State) (pc : W64) : (retire s pc).frac = s.frac := by simp [retire]

end Sys2Proof.Machine
end

