-- ==== Sys2Proof/Laws/Reeve.lean ====
section
/-! SUPPORT. What the shared operations of the reeve's instructions do: registers, retirement, the guard, a fault and a
wait, each said once. -/

namespace Sys2Proof.Machine

/-! ### Reading back an update -/

@[simp] theorem State.reeve_setReeve (s : State) (h j : Nat) (r : Reeve) :
    (s.setReeve h r).reeve j = if j = h then r else s.reeve j := by
  unfold State.reeve State.setReeve
  simp only [mget_mset]
  split <;> rfl

theorem State.reeve_setReeve_vf (s : State) (h : Nat) (r : Reeve) : ((s.setReeve h r).reeve h).vf = r.vf := by
  simp

@[simp] theorem State.me_setReeve (s : State) (r : Reeve) : (s.setReeve s.cur r).me = r := by
  simp [State.me]

theorem State.reeve_of_reeves {s t : State} (h : t.reeves = s.reeves) : t.reeve = s.reeve := by
  funext j; simp [State.reeve, h]

theorem State.me_of_reeves {s t : State} (h : t.reeves = s.reeves) (hc : t.cur = s.cur) : t.me = s.me := by
  simp [State.me, State.reeve_of_reeves h, hc]

@[simp] theorem State.launchOf_updLaunch (s : State) (l j : Nat) (f : Launch → Launch) :
    (s.updLaunch l f).launchOf j = if j = l then (s.launchOf j).map f else s.launchOf j := by
  unfold State.updLaunch State.launchOf mupd
  by_cases h : j = l
  · subst h
    cases hm : mget s.launches j with
    | none => simp [hm]
    | some x => simp
  · cases hm : mget s.launches l with
    | none => simp [h]
    | some x => simp [h]

@[simp] theorem State.vfOf_setVf (s : State) (v j : Nat) (x : Vf) :
    (s.setVf v x).vfOf j = if j = v then x else s.vfOf j := by
  unfold State.vfOf State.setVf
  simp only [mget_mset]
  split <;> rfl

@[simp] theorem State.ctxOf_setCtx (s : State) (c j : Nat) (x : Ctx) :
    (s.setCtx c x).ctxOf j = if j = c then x else s.ctxOf j := by
  unfold State.ctxOf State.setCtx
  simp only [mget_mset]
  split <;> rfl

@[simp] theorem State.reeve_setVf (s : State) (v : Nat) (x : Vf) (h : Nat) : (s.setVf v x).reeve h = s.reeve h := rfl
@[simp] theorem State.reeve_setCtx (s : State) (c : Nat) (x : Ctx) (h : Nat) : (s.setCtx c x).reeve h = s.reeve h := rfl
@[simp] theorem State.reeve_updLaunch (s : State) (l : Nat) (f : Launch → Launch) (h : Nat) :
    (s.updLaunch l f).reeve h = s.reeve h := rfl
@[simp] theorem State.reeve_recordFault (s : State) (l : Nat) (t : Trap) (b : BitVec 32) (h : Nat) :
    (recordFault s l t b).reeve h = s.reeve h := rfl
@[simp] theorem State.reeve_markDirty (s : State) (l h : Nat) : (markDirty s l).reeve h = s.reeve h := rfl
@[simp] theorem State.reeve_release (s : State) (w : Who) (h : Nat) : (release s w).reeve h = s.reeve h := rfl
@[simp] theorem State.reeve_count (s : State) (v o n h : Nat) : (s.count v o n).reeve h = s.reeve h := by
  simp [State.reeve]

@[simp] theorem State.me_setVf (s : State) (v : Nat) (x : Vf) : (s.setVf v x).me = s.me := rfl
@[simp] theorem State.me_setCtx (s : State) (c : Nat) (x : Ctx) : (s.setCtx c x).me = s.me := rfl
@[simp] theorem State.me_updLaunch (s : State) (l : Nat) (f : Launch → Launch) : (s.updLaunch l f).me = s.me := rfl
@[simp] theorem State.me_recordFault (s : State) (l : Nat) (t : Trap) (b : BitVec 32) :
    (recordFault s l t b).me = s.me := rfl
@[simp] theorem State.me_markDirty (s : State) (l : Nat) : (markDirty s l).me = s.me := rfl
@[simp] theorem State.me_release (s : State) (w : Who) : (release s w).me = s.me := rfl
@[simp] theorem State.me_count (s : State) (v o n : Nat) : (s.count v o n).me = s.me := by
  simp [State.me]

/-- Counting depends on the VF records alone. -/
theorem State.count_vfs_congr {s t : State} (h : t.vfs = s.vfs) (v o n : Nat) :
    (t.count v o n).vfs = (s.count v o n).vfs := by
  unfold State.count State.setVf State.vfOf
  simp only [h]
  split
  · exact h
  · rfl

/-! ### The rest of the state -/

theorem State.rest_setReeve (s : State) (h : Nat) (r : Reeve) : (s.setReeve h r).rest = s.rest := rfl
theorem State.rest_setVf (s : State) (v : Nat) (x : Vf) : (s.setVf v x).rest = s.rest := rfl
theorem State.rest_release (s : State) (w : Who) : (release s w).rest = s.rest := rfl
theorem State.rest_count (s : State) (v o n : Nat) : (s.count v o n).rest = s.rest := by
  unfold State.count; simp only; split <;> rfl
theorem State.rest_retire (s : State) (pc : W64) : (retire s pc).rest = s.rest := by
  unfold retire
  simp only [State.rest_count, State.updMe_eq, State.rest_setReeve, State.rest_release]

/-! ### Retirement -/

theorem retire_me (s : State) (pc : W64) :
    (retire s pc).me = { s.me with pc := pc, wait := none, issued := none } := by
  simp [retire, State.me, -State.me_setReeve]

theorem retire_reeve (s : State) (pc : W64) {h : Nat} (hn : h ≠ s.cur) : (retire s pc).reeve h = s.reeve h := by
  simp [retire, hn]

theorem retire_vfs (s : State) (pc : W64) : (retire s pc).vfs = (s.count s.me.vf 0x008).vfs := by
  have h := State.count_vfs_congr (s := s)
    (t := (release s (.reeve s.cur)).setReeve s.cur { s.me with pc := pc, wait := none, issued := none }) rfl
    s.me.vf 0x008 1
  rw [← h, ← State.reeve_setReeve_vf (release s (.reeve s.cur)) s.cur { s.me with pc := pc, wait := none, issued := none }]
  rfl

/-- Retirement after the acting reeve's registers have become `r`. -/
theorem retire_retires (u : State) (r : Reeve) (pc : W64) (hv : r.vf = u.me.vf) :
    Retires u (retire (u.setReeve u.cur r) pc) r pc where
  me := by rw [retire_me]; simp [State.me]
  others h hn := by rw [retire_reeve _ _ (by simpa using hn)]; simp [hn]
  counts := by
    rw [retire_vfs]
    simp only [State.me_setReeve, hv]
    exact State.count_vfs_congr (s := u) (t := u.setReeve u.cur r) rfl ..
  rest := by rw [State.rest_retire]; rfl

/-- Retirement with the registers as they stand. -/
theorem retire_retires_self (u : State) (pc : W64) : Retires u (retire u pc) u.me pc where
  me := retire_me u pc
  others _ hn := retire_reeve u pc hn
  counts := retire_vfs u pc
  rest := State.rest_retire u pc

/-! ### The guard, an operation that succeeds, a fault, a wait -/

theorem runReeve_false {len : Nat} {p : Guard} {f : State → Except Stop (State × Flow)} {s : State}
    (h : s.me.guard p = false) : runReeve len p f s = retire s (s.me.pc + BitVec.ofNat 64 len) := by
  simp [runReeve, h]

theorem runReeve_next {len : Nat} {p : Guard} {f : State → Except Stop (State × Flow)} {s t : State}
    (h : s.me.guard p = true) (hf : f s = .ok (t, .next)) :
    runReeve len p f s = retire t (s.me.pc + BitVec.ofNat 64 len) := by
  simp [runReeve, h, hf]

theorem runReeve_jump {len : Nat} {p : Guard} {f : State → Except Stop (State × Flow)} {s t : State} {a : W64}
    (h : s.me.guard p = true) (hf : f s = .ok (t, .jump a)) : runReeve len p f s = retire t a := by
  simp [runReeve, h, hf]

theorem runReeve_trap {len : Nat} {p : Guard} {f : State → Except Stop (State × Flow)} {s : State} {e : Trap}
    (h : s.me.guard p = true) (hf : f s = .error (.trap e)) :
    runReeve len p f s = trapEntry e (release s (.reeve s.cur)) := by
  simp [runReeve, h, hf]

theorem runReeve_wait {len : Nat} {p : Guard} {f : State → Except Stop (State × Flow)} {s : State} {w : Wait}
    (h : s.me.guard p = true) (hf : f s = .error (.wait w none)) :
    runReeve len p f s = s.updMe fun r => { r with wait := some w } := by
  simp [runReeve, h, hf, register]

/-- A word whose operation changes only the acting reeve's registers. -/
theorem gives_of_next {i : Instr} {p : Guard} {f : State → Except Stop (State × Flow)} {s : State} {r : Reeve} {len : Nat}
    (he : exec i s = .next (runReeve len p f s)) (h : s.me.guard p = true)
    (hf : f s = .ok (s.setReeve s.cur r, .next)) (hv : r.vf = s.me.vf) :
    Gives i s r (s.me.pc + BitVec.ofNat 64 len) :=
  ⟨_, he.trans (by rw [runReeve_next h hf]), retire_retires s r _ hv⟩

/-- A word whose operation jumps and changes only the acting reeve's registers. -/
theorem gives_of_jump {i : Instr} {p : Guard} {f : State → Except Stop (State × Flow)} {s : State} {r : Reeve} {len : Nat}
    {a : W64} (he : exec i s = .next (runReeve len p f s)) (h : s.me.guard p = true)
    (hf : f s = .ok (s.setReeve s.cur r, .jump a)) (hv : r.vf = s.me.vf) : Gives i s r a :=
  ⟨_, he.trans (by rw [runReeve_jump h hf]), retire_retires s r _ hv⟩

/-- A word whose operation changes the state to `u` and the acting reeve's registers to `r`. -/
theorem does_of_next {i : Instr} {p : Guard} {f : State → Except Stop (State × Flow)} {s u : State} {r : Reeve} {len : Nat}
    (he : exec i s = .next (runReeve len p f s)) (h : s.me.guard p = true)
    (hf : f s = .ok (u.setReeve u.cur r, .next)) (hv : r.vf = u.me.vf) :
    Does i s u r (s.me.pc + BitVec.ofNat 64 len) :=
  ⟨_, he.trans (by rw [runReeve_next h hf]), retire_retires u r _ hv⟩

/-- A word whose operation changes the state to `u` and no register of the acting reeve. -/
theorem does_of_next_self {i : Instr} {p : Guard} {f : State → Except Stop (State × Flow)} {s u : State} {len : Nat}
    (he : exec i s = .next (runReeve len p f s)) (h : s.me.guard p = true) (hf : f s = .ok (u, .next)) :
    Does i s u u.me (s.me.pc + BitVec.ofNat 64 len) :=
  ⟨_, he.trans (by rw [runReeve_next h hf]), retire_retires_self u _⟩

/-- An instruction that only writes a general register. -/
theorem writesG_of_toG {i : Instr} {s : State} {p : Guard} {d : GReg} {f : State → W64} (he : exec i s = toG p d f s)
    (h : s.me.guard p = true) : WritesG i s d (f s) :=
  gives_of_next (len := 4) he h rfl (by simp)

/-- An instruction that only writes a predicate. -/
theorem writesP_of_toP {i : Instr} {s : State} {p : Guard} {d : PReg} {f : Reeve → Bool} (he : exec i s = toP p d f s)
    (h : s.me.guard p = true) : WritesP i s d (f s.me) :=
  gives_of_next (len := 4) he h rfl (by simp)

/-- An instruction that only writes a capability register. -/
theorem writesK_of_toK {i : Instr} {s : State} {p : Guard} {d : KReg} {f : Reeve → Except Stop Cap} {c : Cap}
    (he : exec i s = toK p d f s) (h : s.me.guard p = true) (hf : f s.me = .ok c) : WritesK i s d c := by
  refine gives_of_next (len := 4) he h ?_ (by simp)
  simp only [hf]; rfl

/-! ### Taking a fault at U level -/

theorem psave_eq : ∀ p : BitVec 8,
    ((field p 1 7).zeroExtend 64 <<< 9) ||| ((0 : W64) <<< 1) ||| 1 = BitVec.ofNat 64 (p.toNat / 2 * 512 + 1) := by
  decide +revert

theorem and_one_of_bit {x : W64} (h : x.getLsbD 0 = false) : x &&& 1 = 0 := by
  ext i hi
  by_cases h0 : i = 0
  · subst h0; simpa using h
  · simp [BitVec.getElem_one, h0]

theorem causeOf_eq (t : Trap) : causeOf t =
    BitVec.ofNat 64 (t.code.num + t.sub * 256) ||| BitVec.ofNat 64 (t.sel.toNat * 65536) := by
  have h : t.sel.zeroExtend 64 <<< 16 = BitVec.ofNat 64 (t.sel.toNat * 65536) := by
    apply BitVec.eq_of_toNat_eq
    have := t.sel.isLt
    simp [Nat.shiftLeft_eq]
  simp only [causeOf, h, Nat.shiftLeft_eq]

/-- A fault that triggers no replay, taken at U level. -/
theorem traps_of (s : State) (f : Trap) (hu : s.me.superv = false) (hr : f.code.replays = false) :
    Traps s (trapEntry f (release s (.reeve s.cur))) f := by
  have he : trapEntry f (release s (.reeve s.cur)) =
      (release s (.reeve s.cur)).setReeve s.cur (s.me.enterTrap f) := by
    simp [trapEntry, hu, hr]
  have hb : s.me.estat &&& 1 = 0 := and_one_of_bit hu
  rw [he]
  refine ⟨?_, fun h hn => by simp [hn], rfl, rfl⟩
  have hm : ((release s (.reeve s.cur)).setReeve s.cur (s.me.enterTrap f)).me = s.me.enterTrap f :=
    State.me_setReeve (release s (.reeve s.cur)) _
  rw [hm, Reeve.enterTrap, hb, causeOf_eq, psave_eq]

theorem takesTrap_of {i : Instr} {p : Guard} {f : State → Except Stop (State × Flow)} {s : State} {e : Trap} {len : Nat}
    (he : exec i s = .next (runReeve len p f s)) (h : s.me.guard p = true) (hf : f s = .error (.trap e))
    (hu : s.me.superv = false) (hr : e.code.replays = false) : TakesTrap i s e :=
  ⟨_, he.trans (by rw [runReeve_trap h hf]), traps_of s e hu hr⟩

end Sys2Proof.Machine
end

