-- ==== Sys2Proof/Laws/Launch.lean ====
section
/-! SUPPORT. What a launch's change of state does and leaves alone, and where a fault of a launch goes. -/

namespace Sys2Proof.Machine

@[simp] theorem State.enter_launchOf (s : State) (key j : Nat) (f : Launch → Launch) :
    (s.enter key f).launchOf j = if j = key then (s.launchOf j).map f else s.launchOf j :=
  State.launchOf_updLaunch s key j f
@[simp] theorem State.enter_journal (s : State) (key : Nat) (f : Launch → Launch) :
    (s.enter key f).steward.journal = s.steward.journal + 1 := rfl
@[simp] theorem State.enter_me (s : State) (key : Nat) (f : Launch → Launch) : (s.enter key f).me = s.me := rfl
@[simp] theorem State.enter_reeves (s : State) (key : Nat) (f : Launch → Launch) :
    (s.enter key f).reeves = s.reeves := rfl
@[simp] theorem State.enter_insts (s : State) (key : Nat) (f : Launch → Launch) : (s.enter key f).insts = s.insts := rfl
@[simp] theorem State.enter_mem (s : State) (key : Nat) (f : Launch → Launch) : (s.enter key f).mem = s.mem := rfl
@[simp] theorem State.enter_ctxs (s : State) (key : Nat) (f : Launch → Launch) : (s.enter key f).ctxs = s.ctxs := rfl
@[simp] theorem State.enter_vfs (s : State) (key : Nat) (f : Launch → Launch) : (s.enter key f).vfs = s.vfs := rfl

@[simp] theorem State.launchOf_noteErrorOf (s : State) (t : Trap) (l : Nat) :
    (noteErrorOf s t).launchOf l = s.launchOf l := rfl

/-- A fault of a launch of which no plane freezes enters its status at once (R43, R376). -/
theorem recordFault_enters {s : State} {l : Nat} (h : freezes s l = false) (t : Trap) (b : BitVec 32) :
    (recordFault s l t b).launchOf l = (s.launchOf l).map (·.enterFault t b) := by
  rw [recordFault, State.launchOf_updLaunch, if_pos rfl, State.launchOf_noteErrorOf]
  simp [h]

/-- While a plane freezes the fault waits, and the status stays. -/
theorem recordFault_waits {s : State} {l : Nat} (h : freezes s l = true) (t : Trap) (b : BitVec 32) :
    (recordFault s l t b).launchOf l =
      (s.launchOf l).map fun x => { x with heldFaults := x.heldFaults ++ [(t, b)] } := by
  rw [recordFault, State.launchOf_updLaunch, if_pos rfl, State.launchOf_noteErrorOf]
  simp [h]

end Sys2Proof.Machine
end

