-- ==== Sys2Proof/Laws/Memory.lean ====
section
/-! SUPPORT. The laws of memory: every operation keeps its canonical form, a read after a write gives what was written,
and a write leaves every other byte alone. -/

namespace Sys2Proof.Machine

/-! ### Rising lists -/

/-- The numbers of a list rise strictly. -/
def Rises (l : List Nat) : Prop := l.Pairwise fun x y => x < y

theorem rises_iff (l : List Nat) : rises l = true ↔ Rises l := by simp [rises, Rises]

theorem mem_sadd {l : List Nat} {i x : Nat} : x ∈ sadd l i ↔ x = i ∨ x ∈ l := by
  induction l with
  | nil => simp [sadd]
  | cons k l ih =>
    unfold sadd
    split
    · simp
    · split
      · subst k; simp
      · simp only [List.mem_cons, ih]; tauto

theorem mem_sdel {l : List Nat} {i x : Nat} : x ∈ sdel l i ↔ x ≠ i ∧ x ∈ l := by
  induction l with
  | nil => simp [sdel]
  | cons k l ih =>
    unfold sdel
    split
    · subst k; simp only [ih, List.mem_cons]
      constructor
      · rintro ⟨h, m⟩; exact ⟨h, .inr m⟩
      · rintro ⟨h, m⟩; exact ⟨h, m.resolve_left h⟩
    · simp only [List.mem_cons, ih]
      constructor
      · rintro (rfl | ⟨h, m⟩)
        · exact ⟨‹_›, .inl rfl⟩
        · exact ⟨h, .inr m⟩
      · rintro ⟨h, rfl | m⟩
        · exact .inl rfl
        · exact .inr ⟨h, m⟩

theorem rises_sadd {l : List Nat} (h : Rises l) (i : Nat) : Rises (sadd l i) := by
  induction l with
  | nil => simp [sadd, Rises]
  | cons k l ih =>
    have ⟨hk, hl⟩ := List.pairwise_cons.mp h
    unfold sadd
    split
    · refine List.pairwise_cons.mpr ⟨fun x hx => ?_, h⟩
      rcases List.mem_cons.mp hx with rfl | hx
      · assumption
      · exact Nat.lt_trans ‹i < k› (hk x hx)
    · split
      · exact h
      · refine List.pairwise_cons.mpr ⟨fun x hx => ?_, ih hl⟩
        rcases mem_sadd.mp hx with rfl | hx
        · omega
        · exact hk x hx

theorem rises_sdel {l : List Nat} (h : Rises l) (i : Nat) : Rises (sdel l i) := by
  induction l with
  | nil => simp [sdel, Rises]
  | cons k l ih =>
    have ⟨hk, hl⟩ := List.pairwise_cons.mp h
    unfold sdel
    split
    · exact ih hl
    · exact List.pairwise_cons.mpr ⟨fun x hx => hk x (mem_sdel.mp hx).2, ih hl⟩

theorem rises_saddN {l : List Nat} (h : Rises l) (i n : Nat) : Rises (saddN l i n) := by
  induction n with
  | zero => exact h
  | succ n ih => exact rises_sadd ih _

theorem rises_filter {l : List Nat} (h : Rises l) (p : Nat → Bool) : Rises (l.filter p) :=
  List.Pairwise.filter p h

theorem rises_sdelN {l : List Nat} (h : Rises l) (i n : Nat) : Rises (sdelN l i n) := rises_filter h _

theorem rises_sput {l : List Nat} (h : Rises l) (i : Nat) (b : Bool) : Rises (sput l i b) := by
  unfold sput; split
  · exact rises_sadd h i
  · exact rises_sdel h i

theorem rises_foldl_sadd {l : List Nat} (h : Rises l) (xs : List Nat) : Rises (xs.foldl sadd l) := by
  induction xs generalizing l with
  | nil => exact h
  | cons x xs ih => exact ih (rises_sadd h x)

/-! ### The canonical form -/

/-- The canonical form, as a proposition. -/
structure Mem.Wf (m : Mem) : Prop where
  keys : Rising m.bytes
  bytes : ∀ x ∈ m.bytes, x.2 ≠ Mem.blank
  tags : Rises m.tags
  empties : Rises m.empties
  nonzero : Rises m.nonzero
  bad : Rises m.bad
  soft : Rises m.soft

theorem Mem.wf_iff (m : Mem) : m.wf = true ↔ m.Wf := by
  simp only [Mem.wf, Bool.and_eq_true, rises_iff, List.all_eq_true, bne_iff_ne]
  constructor
  · rintro ⟨⟨⟨⟨⟨⟨a, b⟩, c⟩, d⟩, e⟩, f⟩, g⟩
    exact ⟨List.pairwise_map.mp a, b, c, d, e, f, g⟩
  · rintro ⟨a, b, c, d, e, f, g⟩
    exact ⟨⟨⟨⟨⟨⟨List.pairwise_map.mpr a, b⟩, c⟩, d⟩, e⟩, f⟩, g⟩

theorem Mem.wf_empty : ({} : Mem).Wf := (Mem.wf_iff _).mp (by decide)

theorem Mem.Wf.setByte {m : Mem} (h : m.Wf) (a : Nat) (b : Byte) : (m.setByte a b).Wf := by
  unfold Mem.setByte
  split
  · exact { h with keys := rising_mdel h.keys a, bytes := fun x hx => h.bytes x (mem_mdel hx) }
  · refine { h with keys := rising_mset h.keys a b, bytes := fun x hx => ?_ }
    rcases mem_mset hx with rfl | hx
    · assumption
    · exact h.bytes x hx

theorem Mem.Wf.write {m : Mem} (h : m.Wf) (a : Nat) (bs : List Byte) : (m.write a bs).Wf := by
  induction bs generalizing m a with
  | nil => exact h
  | cons b bs ih => exact ih (h.setByte a b) (a + 1)

theorem Mem.setByte_tables (m : Mem) (a : Nat) (b : Byte) : m.setByte a b = { m with bytes := (m.setByte a b).bytes } := rfl

theorem Mem.write_tables (m : Mem) (a : Nat) (bs : List Byte) : m.write a bs = { m with bytes := (m.write a bs).bytes } := by
  induction bs generalizing m a with
  | nil => rfl
  | cons b bs ih => exact (ih (m.setByte a b) (a + 1)).trans rfl

theorem Mem.Wf.store {m : Mem} (h : m.Wf) (a : Nat) (bs : List Byte) (z : Bool) : (m.store a bs z).Wf := by
  have w := h.write a bs
  have e := m.write_tables a bs
  refine ⟨w.keys, w.bytes, rises_sdelN h.tags _ _, ?_, ?_, rises_sdelN h.bad _ _, rises_sdelN h.soft _ _⟩
  · exact w.empties
  · show Rises (if !isOnChip a then m.nonzero else if z then _ else _)
    split
    · exact h.nonzero
    · split
      · exact rises_sdelN h.nonzero _ _
      · exact rises_saddN h.nonzero _ _

theorem Mem.Wf.clearRange {m : Mem} (h : m.Wf) (a n : Nat) : (m.clearRange a n).Wf where
  keys := rising_filter h.keys _
  bytes x hx := h.bytes x (List.mem_filter.mp hx).1
  tags := rises_filter h.tags _
  empties := rises_filter h.empties _
  nonzero := rises_filter h.nonzero _
  bad := rises_filter h.bad _
  soft := rises_filter h.soft _

theorem Mem.Wf.setBytes {m : Mem} (h : m.Wf) (l : List Host.Cell) : (l.foldl (fun m y => m.setByte y.1 y.2) m).Wf := by
  induction l generalizing m with
  | nil => exact h
  | cons x l ih => exact ih (h.setByte x.1 x.2)

theorem Mem.Wf.merge {m : Mem} (h : m.Wf) (x : Mem) : (m.merge x).Wf where
  keys := (h.setBytes x.bytes).keys
  bytes := (h.setBytes x.bytes).bytes
  tags := rises_foldl_sadd h.tags _
  empties := rises_foldl_sadd h.empties _
  nonzero := rises_foldl_sadd h.nonzero _
  bad := rises_foldl_sadd h.bad _
  soft := rises_foldl_sadd h.soft _

theorem Mem.Wf.setEmpties {m : Mem} (h : m.Wf) {l : List Nat} (r : Rises l) : { m with empties := l }.Wf :=
  { h with empties := r }

@[simp] theorem countWrite_mem (s : State) (vf a n : Nat) : (countWrite s vf a n).mem = s.mem := by
  unfold countWrite; split
  · simp
  · split <;> simp

@[simp] theorem countRead_mem (s : State) (vf a n : Nat) : (countRead s vf a n).mem = s.mem := by
  unfold countRead; split
  · simp
  · split <;> simp

theorem correctSoft_wf {s : State} (h : s.mem.Wf) (vf a n : Nat) : (correctSoft s vf a n).mem.Wf := by
  unfold correctSoft
  dsimp only
  split
  · exact h
  · simpa using { h with soft := rises_sdelN h.soft _ _ }

@[simp] theorem correctSoft_byte (s : State) (vf a n c : Nat) : (correctSoft s vf a n).mem.byte c = s.mem.byte c := by
  unfold correctSoft
  dsimp only
  split
  · rfl
  · simp [Mem.byte]

theorem countServed_wf {s : State} (h : s.mem.Wf) (w : Nat) (l : List Waiter) : (countServed s w l).mem.Wf := by
  induction l generalizing s with
  | nil => exact h
  | cons x l ih =>
    unfold countServed
    dsimp only
    split
    · exact ih h
    · exact ih (by rw [countRead_mem]; exact correctSoft_wf h _ _ _)

@[simp] theorem countServed_byte (s : State) (w a : Nat) (l : List Waiter) :
    (countServed s w l).mem.byte a = s.mem.byte a := by
  induction l generalizing s with
  | nil => rfl
  | cons x l ih =>
    unfold countServed
    dsimp only
    rw [ih]
    split
    · rfl
    · rw [countRead_mem, correctSoft_byte]

theorem serveWaiters_wf {s : State} (h : s.mem.Wf) (w : Nat) : (serveWaiters s w).mem.Wf :=
  let g := countServed_wf h w _
  g.setEmpties (rises_sput g.empties _ _)

theorem setFull_wf {s : State} (h : s.mem.Wf) (w : Nat) : (setFull s w).mem.Wf :=
  serveWaiters_wf (s := { s with mem := { s.mem with empties := sdel s.mem.empties w } })
    (h.setEmpties (rises_sdel h.empties w)) w

theorem setFullN_wf {s : State} (h : s.mem.Wf) (w n : Nat) : (setFullN s w n).mem.Wf := by
  induction n with
  | zero => exact h
  | succ n ih => exact setFull_wf ih _

theorem setEmptyN_wf {s : State} (h : s.mem.Wf) (w n : Nat) : (setEmptyN s w n).mem.Wf :=
  h.setEmpties (rises_saddN h.empties _ _)

theorem storePhys_wf {s : State} (h : s.mem.Wf) (vf a : Nat) (bs : List Byte) (full zero : Bool) :
    (storePhys s vf a bs full zero).mem.Wf := by
  unfold storePhys
  dsimp only
  split
  · apply setFullN_wf; simpa using h.store a bs zero
  · simpa using h.store a bs zero

theorem loadPhys_wf {s : State} (h : s.mem.Wf) {vf a n : Nat} {bs : List Byte} {t : State}
    (e : loadPhys s vf a n = .ok (bs, t)) : t.mem.Wf := by
  unfold loadPhys at e
  split at e
  · cases e
  · dsimp only at e
    cases e
    rw [countRead_mem]
    exact correctSoft_wf h _ _ _

theorem storeCap_wf {s : State} (h : s.mem.Wf) (vf a : Nat) (c : Cap) : (storeCap s vf a c).mem.Wf := by
  have w := storePhys_wf h vf a (leBytes 16 c.bits.toNat) false false
  exact { w with tags := rises_sput w.tags _ _ }

/-! ### Reads after writes -/

@[simp] theorem Mem.byte_setByte (m : Mem) (a c : Nat) (b : Byte) :
    (m.setByte a b).byte c = if c = a then b else m.byte c := by
  unfold Mem.setByte Mem.byte
  split
  · simp only [mget_mdel]; split
    · subst b; rfl
    · rfl
  · simp only [mget_mset]; split <;> rfl

theorem Mem.byte_write (m : Mem) (a c : Nat) (bs : List Byte) :
    (m.write a bs).byte c = if a ≤ c then (bs[c - a]?).getD (m.byte c) else m.byte c := by
  induction bs generalizing m a with
  | nil => simp [Mem.write]
  | cons b bs ih =>
    rw [Mem.write, ih]
    by_cases h : a + 1 ≤ c
    · have e : c - a = c - (a + 1) + 1 := by omega
      have ne : c ≠ a := by omega
      simp [h, show a ≤ c by omega, e, ne]
    · by_cases e : c = a
      · subst c; simp
      · have : ¬ a ≤ c := by omega
        simp [h, this, e]

/-- A write leaves every byte outside its range. -/
theorem Mem.byte_write_other (m : Mem) (a c : Nat) (bs : List Byte) (h : c < a ∨ a + bs.length ≤ c) :
    (m.write a bs).byte c = m.byte c := by
  rw [Mem.byte_write]
  split
  · rw [List.getElem?_eq_none (by omega)]; rfl
  · rfl

/-- A write is read back. -/
theorem Mem.byte_write_at (m : Mem) (a i : Nat) (bs : List Byte) (h : i < bs.length) :
    (m.write a bs).byte (a + i) = bs[i] := by
  rw [Mem.byte_write, if_pos (Nat.le_add_right a i)]
  simp [h]

@[simp] theorem Mem.byte_store (m : Mem) (a c : Nat) (bs : List Byte) (z : Bool) :
    (m.store a bs z).byte c = (m.write a bs).byte c := rfl

theorem Mem.read_length (m : Mem) (a n : Nat) : (m.read a n).length = n := by
  induction n generalizing a with
  | zero => rfl
  | succ n ih => simp [Mem.read, ih]

theorem Mem.read_eq_map (m : Mem) (a n : Nat) : m.read a n = (List.range n).map fun i => m.byte (a + i) := by
  induction n generalizing a with
  | zero => rfl
  | succ n ih =>
    rw [Mem.read, ih, List.range_succ_eq_map]
    simp only [List.map_cons, List.map_map, Nat.add_zero]
    congr 1
    apply List.map_congr_left
    intro i _
    show m.byte (a + 1 + i) = m.byte (a + (i + 1))
    congr 1; omega

/-- What has been written is read. -/
theorem Mem.read_write (m : Mem) (a : Nat) (bs : List Byte) : (m.write a bs).read a bs.length = bs := by
  rw [Mem.read_eq_map]
  apply List.ext_getElem
  · simp
  · intro i h1 h2
    simpa using Mem.byte_write_at m a i bs h2

@[simp] theorem serveWaiters_byte (s : State) (w a : Nat) : (serveWaiters s w).mem.byte a = s.mem.byte a := by
  unfold serveWaiters
  exact countServed_byte s w a _
@[simp] theorem setFull_byte (s : State) (w a : Nat) : (setFull s w).mem.byte a = s.mem.byte a := by
  unfold setFull
  rw [serveWaiters_byte]
  rfl

@[simp] theorem setFullN_byte (s : State) (w n a : Nat) : (setFullN s w n).mem.byte a = s.mem.byte a := by
  induction n with
  | zero => rfl
  | succ n ih => rw [setFullN, setFull_byte, ih]

@[simp] theorem setEmptyN_byte (s : State) (w n a : Nat) : (setEmptyN s w n).mem.byte a = s.mem.byte a := rfl

/-- What a write to physical memory leaves in its bytes. -/
@[simp] theorem storePhys_byte (s : State) (vf a c : Nat) (bs : List Byte) (full zero : Bool) :
    (storePhys s vf a bs full zero).mem.byte c = (s.mem.write a bs).byte c := by
  unfold storePhys
  dsimp only
  split
  · rw [setFullN_byte, countWrite_mem, Mem.byte_store]
  · rw [countWrite_mem, Mem.byte_store]

/-- A load gives the bytes of its range and changes none. -/
theorem loadPhys_ok {s : State} {vf a n : Nat} {bs : List Byte} {t : State} (e : loadPhys s vf a n = .ok (bs, t)) :
    bs = s.mem.read a n ∧ ∀ c, t.mem.byte c = s.mem.byte c := by
  unfold loadPhys at e
  split at e
  · cases e
  · dsimp only at e
    cases e
    exact ⟨by simp [Mem.read_eq_map], fun c => by rw [countRead_mem, correctSoft_byte]⟩

end Sys2Proof.Machine
end

