-- ==== Sys2Proof/Laws/PerInstr.lean ====
section
/-! SUPPORT. Statements made of every instruction, by constructor: how many words the encoder gives it (R212, R225). -/

namespace Sys2Proof.Laws.Encoded

/-- The encoder gives at most two words, and a reeve instruction as many as R212 says. -/
def Statement (i : Instr) : Prop :=
  (encode i).length ≤ 2 ∧ (reeveEncoded i = true → 4 * (encode i).length = instrBytes i)

theorem add : ∀ x0 x1 x2 x3, Statement (.add x0 x1 x2 x3) := fun _ _ _ _ => ⟨(show (1 : Nat) ≤ 2 by decide), fun _ => rfl⟩
theorem sub : ∀ x0 x1 x2 x3, Statement (.sub x0 x1 x2 x3) := fun _ _ _ _ => ⟨(show (1 : Nat) ≤ 2 by decide), fun _ => rfl⟩
theorem and : ∀ x0 x1 x2 x3, Statement (.and x0 x1 x2 x3) := fun _ _ _ _ => ⟨(show (1 : Nat) ≤ 2 by decide), fun _ => rfl⟩
theorem or : ∀ x0 x1 x2 x3, Statement (.or x0 x1 x2 x3) := fun _ _ _ _ => ⟨(show (1 : Nat) ≤ 2 by decide), fun _ => rfl⟩
theorem xor : ∀ x0 x1 x2 x3, Statement (.xor x0 x1 x2 x3) := fun _ _ _ _ => ⟨(show (1 : Nat) ≤ 2 by decide), fun _ => rfl⟩
theorem andn : ∀ x0 x1 x2 x3, Statement (.andn x0 x1 x2 x3) := fun _ _ _ _ => ⟨(show (1 : Nat) ≤ 2 by decide), fun _ => rfl⟩
theorem shl : ∀ x0 x1 x2 x3, Statement (.shl x0 x1 x2 x3) := fun _ _ _ _ => ⟨(show (1 : Nat) ≤ 2 by decide), fun _ => rfl⟩
theorem shr : ∀ x0 x1 x2 x3, Statement (.shr x0 x1 x2 x3) := fun _ _ _ _ => ⟨(show (1 : Nat) ≤ 2 by decide), fun _ => rfl⟩
theorem sar : ∀ x0 x1 x2 x3, Statement (.sar x0 x1 x2 x3) := fun _ _ _ _ => ⟨(show (1 : Nat) ≤ 2 by decide), fun _ => rfl⟩
theorem rot : ∀ x0 x1 x2 x3, Statement (.rot x0 x1 x2 x3) := fun _ _ _ _ => ⟨(show (1 : Nat) ≤ 2 by decide), fun _ => rfl⟩
theorem min : ∀ x0 x1 x2 x3, Statement (.min x0 x1 x2 x3) := fun _ _ _ _ => ⟨(show (1 : Nat) ≤ 2 by decide), fun _ => rfl⟩
theorem max : ∀ x0 x1 x2 x3, Statement (.max x0 x1 x2 x3) := fun _ _ _ _ => ⟨(show (1 : Nat) ≤ 2 by decide), fun _ => rfl⟩
theorem minu : ∀ x0 x1 x2 x3, Statement (.minu x0 x1 x2 x3) := fun _ _ _ _ => ⟨(show (1 : Nat) ≤ 2 by decide), fun _ => rfl⟩
theorem maxu : ∀ x0 x1 x2 x3, Statement (.maxu x0 x1 x2 x3) := fun _ _ _ _ => ⟨(show (1 : Nat) ≤ 2 by decide), fun _ => rfl⟩
theorem clz : ∀ x0 x1 x2, Statement (.clz x0 x1 x2) := fun _ _ _ => ⟨(show (1 : Nat) ≤ 2 by decide), fun _ => rfl⟩
theorem ctz : ∀ x0 x1 x2, Statement (.ctz x0 x1 x2) := fun _ _ _ => ⟨(show (1 : Nat) ≤ 2 by decide), fun _ => rfl⟩
theorem popc : ∀ x0 x1 x2, Statement (.popc x0 x1 x2) := fun _ _ _ => ⟨(show (1 : Nat) ≤ 2 by decide), fun _ => rfl⟩
theorem brev : ∀ x0 x1 x2, Statement (.brev x0 x1 x2) := fun _ _ _ => ⟨(show (1 : Nat) ≤ 2 by decide), fun _ => rfl⟩
theorem sext : ∀ x0 x1 x2 x3, Statement (.sext x0 x1 x2 x3) := fun _ _ _ _ => ⟨(show (1 : Nat) ≤ 2 by decide), fun _ => rfl⟩
theorem mul : ∀ x0 x1 x2 x3, Statement (.mul x0 x1 x2 x3) := fun _ _ _ _ => ⟨(show (1 : Nat) ≤ 2 by decide), fun _ => rfl⟩
theorem mulh : ∀ x0 x1 x2 x3, Statement (.mulh x0 x1 x2 x3) := fun _ _ _ _ => ⟨(show (1 : Nat) ≤ 2 by decide), fun _ => rfl⟩
theorem mulhu : ∀ x0 x1 x2 x3, Statement (.mulhu x0 x1 x2 x3) := fun _ _ _ _ => ⟨(show (1 : Nat) ≤ 2 by decide), fun _ => rfl⟩
theorem div : ∀ x0 x1 x2 x3, Statement (.div x0 x1 x2 x3) := fun _ _ _ _ => ⟨(show (1 : Nat) ≤ 2 by decide), fun _ => rfl⟩
theorem divu : ∀ x0 x1 x2 x3, Statement (.divu x0 x1 x2 x3) := fun _ _ _ _ => ⟨(show (1 : Nat) ≤ 2 by decide), fun _ => rfl⟩
theorem rem : ∀ x0 x1 x2 x3, Statement (.rem x0 x1 x2 x3) := fun _ _ _ _ => ⟨(show (1 : Nat) ≤ 2 by decide), fun _ => rfl⟩
theorem remu : ∀ x0 x1 x2 x3, Statement (.remu x0 x1 x2 x3) := fun _ _ _ _ => ⟨(show (1 : Nat) ≤ 2 by decide), fun _ => rfl⟩
theorem addi : ∀ x0 x1 x2 x3, Statement (.addi x0 x1 x2 x3) := fun _ _ _ _ => ⟨(show (1 : Nat) ≤ 2 by decide), fun _ => rfl⟩
theorem andi : ∀ x0 x1 x2 x3, Statement (.andi x0 x1 x2 x3) := fun _ _ _ _ => ⟨(show (1 : Nat) ≤ 2 by decide), fun _ => rfl⟩
theorem ori : ∀ x0 x1 x2 x3, Statement (.ori x0 x1 x2 x3) := fun _ _ _ _ => ⟨(show (1 : Nat) ≤ 2 by decide), fun _ => rfl⟩
theorem xori : ∀ x0 x1 x2 x3, Statement (.xori x0 x1 x2 x3) := fun _ _ _ _ => ⟨(show (1 : Nat) ≤ 2 by decide), fun _ => rfl⟩
theorem shli : ∀ x0 x1 x2 x3, Statement (.shli x0 x1 x2 x3) := fun _ _ _ _ => ⟨(show (1 : Nat) ≤ 2 by decide), fun _ => rfl⟩
theorem shri : ∀ x0 x1 x2 x3, Statement (.shri x0 x1 x2 x3) := fun _ _ _ _ => ⟨(show (1 : Nat) ≤ 2 by decide), fun _ => rfl⟩
theorem sari : ∀ x0 x1 x2 x3, Statement (.sari x0 x1 x2 x3) := fun _ _ _ _ => ⟨(show (1 : Nat) ≤ 2 by decide), fun _ => rfl⟩
theorem lui : ∀ x0 x1 x2, Statement (.lui x0 x1 x2) := fun _ _ _ => ⟨(show (1 : Nat) ≤ 2 by decide), fun _ => rfl⟩
theorem li : ∀ x0 x1 x2, Statement (.li x0 x1 x2) := fun _ _ _ => ⟨(show (2 : Nat) ≤ 2 by decide), fun _ => rfl⟩
theorem cmp : ∀ x0 x1 x2 x3 x4 x5, Statement (.cmp x0 x1 x2 x3 x4 x5) := fun _ _ _ _ _ _ => ⟨(show (1 : Nat) ≤ 2 by decide), fun _ => rfl⟩
theorem cmpi : ∀ x0 x1 x2 x3 x4, Statement (.cmpi x0 x1 x2 x3 x4) := fun _ _ _ _ _ => ⟨(show (1 : Nat) ≤ 2 by decide), fun _ => rfl⟩
theorem pand : ∀ x0 x1 x2 x3, Statement (.pand x0 x1 x2 x3) := fun _ _ _ _ => ⟨(show (1 : Nat) ≤ 2 by decide), fun _ => rfl⟩
theorem por : ∀ x0 x1 x2 x3, Statement (.por x0 x1 x2 x3) := fun _ _ _ _ => ⟨(show (1 : Nat) ≤ 2 by decide), fun _ => rfl⟩
theorem pxor : ∀ x0 x1 x2 x3, Statement (.pxor x0 x1 x2 x3) := fun _ _ _ _ => ⟨(show (1 : Nat) ≤ 2 by decide), fun _ => rfl⟩
theorem pandn : ∀ x0 x1 x2 x3, Statement (.pandn x0 x1 x2 x3) := fun _ _ _ _ => ⟨(show (1 : Nat) ≤ 2 by decide), fun _ => rfl⟩
theorem pnot : ∀ x0 x1 x2, Statement (.pnot x0 x1 x2) := fun _ _ _ => ⟨(show (1 : Nat) ≤ 2 by decide), fun _ => rfl⟩
theorem pmov : ∀ x0 x1 x2, Statement (.pmov x0 x1 x2) := fun _ _ _ => ⟨(show (1 : Nat) ≤ 2 by decide), fun _ => rfl⟩
theorem pfromg : ∀ x0 x1 x2, Statement (.pfromg x0 x1 x2) := fun _ _ _ => ⟨(show (1 : Nat) ≤ 2 by decide), fun _ => rfl⟩
theorem ptog : ∀ x0 x1 x2, Statement (.ptog x0 x1 x2) := fun _ _ _ => ⟨(show (1 : Nat) ≤ 2 by decide), fun _ => rfl⟩
theorem br : ∀ x0, Statement (.br x0) := fun _ => ⟨(show (1 : Nat) ≤ 2 by decide), fun _ => rfl⟩
theorem jal : ∀ x0, Statement (.jal x0) := fun _ => ⟨(show (1 : Nat) ≤ 2 by decide), fun _ => rfl⟩
theorem jalr : ∀ x0 x1 x2 x3, Statement (.jalr x0 x1 x2 x3) := fun _ _ _ _ => ⟨(show (1 : Nat) ≤ 2 by decide), fun _ => rfl⟩
theorem loop : ∀ x0 x1 x2, Statement (.loop x0 x1 x2) := fun _ _ _ => ⟨(show (1 : Nat) ≤ 2 by decide), fun _ => rfl⟩
theorem trap : ∀ x0 x1, Statement (.trap x0 x1) := fun _ _ => ⟨(show (1 : Nat) ≤ 2 by decide), fun _ => rfl⟩
theorem exit : ∀ x0, Statement (.exit x0) := fun _ => ⟨(show (1 : Nat) ≤ 2 by decide), fun _ => rfl⟩
theorem ld : ∀ x0 x1 x2 x3 x4 x5 x6, Statement (.ld x0 x1 x2 x3 x4 x5 x6) := fun _ _ _ _ _ _ _ => ⟨(show (1 : Nat) ≤ 2 by decide), fun _ => rfl⟩
theorem st : ∀ x0 x1 x2 x3 x4 x5 x6, Statement (.st x0 x1 x2 x3 x4 x5 x6) := fun _ _ _ _ _ _ _ => ⟨(show (1 : Nat) ≤ 2 by decide), fun _ => rfl⟩
theorem ldc : ∀ x0 x1 x2 x3 x4, Statement (.ldc x0 x1 x2 x3 x4) := fun _ _ _ _ _ => ⟨(show (1 : Nat) ≤ 2 by decide), fun _ => rfl⟩
theorem stc : ∀ x0 x1 x2 x3 x4, Statement (.stc x0 x1 x2 x3 x4) := fun _ _ _ _ _ => ⟨(show (1 : Nat) ≤ 2 by decide), fun _ => rfl⟩
theorem ldsyn : ∀ x0 x1 x2 x3 x4 x5, Statement (.ldsyn x0 x1 x2 x3 x4 x5) := fun _ _ _ _ _ _ => ⟨(show (1 : Nat) ≤ 2 by decide), fun _ => rfl⟩
theorem fe : ∀ x0 x1 x2 x3 x4 x5, Statement (.fe x0 x1 x2 x3 x4 x5) := fun _ _ _ _ _ _ => ⟨(show (1 : Nat) ≤ 2 by decide), fun _ => rfl⟩
theorem atom : ∀ x0 x1 x2 x3 x4 x5, Statement (.atom x0 x1 x2 x3 x4 x5) := fun _ _ _ _ _ _ => ⟨(show (1 : Nat) ≤ 2 by decide), fun _ => rfl⟩
theorem red : ∀ x0 x1 x2 x3 x4, Statement (.red x0 x1 x2 x3 x4) := fun _ _ _ _ _ => ⟨(show (1 : Nat) ≤ 2 by decide), fun _ => rfl⟩
theorem swap : ∀ x0 x1 x2 x3 x4, Statement (.swap x0 x1 x2 x3 x4) := fun _ _ _ _ _ => ⟨(show (1 : Nat) ≤ 2 by decide), fun _ => rfl⟩
theorem cas : ∀ x0 x1 x2 x3 x4, Statement (.cas x0 x1 x2 x3 x4) := fun _ _ _ _ _ => ⟨(show (1 : Nat) ≤ 2 by decide), fun _ => rfl⟩
theorem fence : ∀ x0 x1 x2, Statement (.fence x0 x1 x2) := fun _ _ _ => ⟨(show (1 : Nat) ≤ 2 by decide), fun _ => rfl⟩
theorem csetb : ∀ x0 x1 x2 x3, Statement (.csetb x0 x1 x2 x3) := fun _ _ _ _ => ⟨(show (1 : Nat) ≤ 2 by decide), fun _ => rfl⟩
theorem cinc : ∀ x0 x1 x2 x3, Statement (.cinc x0 x1 x2 x3) := fun _ _ _ _ => ⟨(show (1 : Nat) ≤ 2 by decide), fun _ => rfl⟩
theorem cseto : ∀ x0 x1 x2 x3, Statement (.cseto x0 x1 x2 x3) := fun _ _ _ _ => ⟨(show (1 : Nat) ≤ 2 by decide), fun _ => rfl⟩
theorem candp : ∀ x0 x1 x2 x3, Statement (.candp x0 x1 x2 x3) := fun _ _ _ _ => ⟨(show (1 : Nat) ≤ 2 by decide), fun _ => rfl⟩
theorem cgetb : ∀ x0 x1 x2, Statement (.cgetb x0 x1 x2) := fun _ _ _ => ⟨(show (1 : Nat) ≤ 2 by decide), fun _ => rfl⟩
theorem cgetl : ∀ x0 x1 x2, Statement (.cgetl x0 x1 x2) := fun _ _ _ => ⟨(show (1 : Nat) ≤ 2 by decide), fun _ => rfl⟩
theorem cgeto : ∀ x0 x1 x2, Statement (.cgeto x0 x1 x2) := fun _ _ _ => ⟨(show (1 : Nat) ≤ 2 by decide), fun _ => rfl⟩
theorem cgetp : ∀ x0 x1 x2, Statement (.cgetp x0 x1 x2) := fun _ _ _ => ⟨(show (1 : Nat) ≤ 2 by decide), fun _ => rfl⟩
theorem cgets : ∀ x0 x1 x2, Statement (.cgets x0 x1 x2) := fun _ _ _ => ⟨(show (1 : Nat) ≤ 2 by decide), fun _ => rfl⟩
theorem ctest : ∀ x0 x1 x2, Statement (.ctest x0 x1 x2) := fun _ _ _ => ⟨(show (1 : Nat) ≤ 2 by decide), fun _ => rfl⟩
theorem cclr : ∀ x0 x1, Statement (.cclr x0 x1) := fun _ _ => ⟨(show (1 : Nat) ≤ 2 by decide), fun _ => rfl⟩
theorem cmov : ∀ x0 x1 x2, Statement (.cmov x0 x1 x2) := fun _ _ _ => ⟨(show (1 : Nat) ≤ 2 by decide), fun _ => rfl⟩
theorem cseal : ∀ x0 x1 x2 x3, Statement (.cseal x0 x1 x2 x3) := fun _ _ _ _ => ⟨(show (1 : Nat) ≤ 2 by decide), fun _ => rfl⟩
theorem cunseal : ∀ x0 x1 x2 x3, Statement (.cunseal x0 x1 x2 x3) := fun _ _ _ _ => ⟨(show (1 : Nat) ≤ 2 by decide), fun _ => rfl⟩
theorem cinci : ∀ x0 x1 x2 x3, Statement (.cinci x0 x1 x2 x3) := fun _ _ _ _ => ⟨(show (1 : Nat) ≤ 2 by decide), fun _ => rfl⟩
theorem sspec : ∀ x0 x1 x2 x3 x4 x5 x6 x7 x8 x9 x10, Statement (.sspec x0 x1 x2 x3 x4 x5 x6 x7 x8 x9 x10) := fun _ _ _ _ _ _ _ _ _ _ _ => ⟨(show (2 : Nat) ≤ 2 by decide), fun _ => rfl⟩
theorem scopy : ∀ x0 x1 x2 x3 x4 x5 x6 x7 x8, Statement (.scopy x0 x1 x2 x3 x4 x5 x6 x7 x8) := fun _ _ _ _ _ _ _ _ _ => ⟨(show (2 : Nat) ≤ 2 by decide), fun _ => rfl⟩
theorem twaitany : ∀ x0 x1 x2, Statement (.twaitany x0 x1 x2) := fun _ _ _ => ⟨(show (1 : Nat) ≤ 2 by decide), fun _ => rfl⟩
theorem twaitall : ∀ x0 x1, Statement (.twaitall x0 x1) := fun _ _ => ⟨(show (1 : Nat) ≤ 2 by decide), fun _ => rfl⟩
theorem tfirst : ∀ x0 x1 x2, Statement (.tfirst x0 x1 x2) := fun _ _ _ => ⟨(show (1 : Nat) ≤ 2 by decide), fun _ => rfl⟩
theorem tclr : ∀ x0 x1, Statement (.tclr x0 x1) := fun _ _ => ⟨(show (1 : Nat) ≤ 2 by decide), fun _ => rfl⟩
theorem tread : ∀ x0 x1, Statement (.tread x0 x1) := fun _ _ => ⟨(show (1 : Nat) ≤ 2 by decide), fun _ => rfl⟩
theorem rinit : ∀ x0 x1 x2, Statement (.rinit x0 x1 x2) := fun _ _ _ => ⟨(show (1 : Nat) ≤ 2 by decide), fun _ => rfl⟩
theorem rawait : ∀ x0 x1 x2 x3, Statement (.rawait x0 x1 x2 x3) := fun _ _ _ _ => ⟨(show (1 : Nat) ≤ 2 by decide), fun _ => rfl⟩
theorem rrel : ∀ x0 x1 x2, Statement (.rrel x0 x1 x2) := fun _ _ _ => ⟨(show (1 : Nat) ≤ 2 by decide), fun _ => rfl⟩
theorem rstat : ∀ x0 x1 x2, Statement (.rstat x0 x1 x2) := fun _ _ _ => ⟨(show (1 : Nat) ≤ 2 by decide), fun _ => rfl⟩
theorem sbarOrder : ∀ x0 x1, Statement (.sbarOrder x0 x1) := fun _ _ => ⟨(show (1 : Nat) ≤ 2 by decide), fun _ => rfl⟩
theorem sbarConfig : ∀ x0 x1, Statement (.sbarConfig x0 x1) := fun _ _ => ⟨(show (1 : Nat) ≤ 2 by decide), fun _ => rfl⟩
theorem sbarMemphase : ∀ x0 x1, Statement (.sbarMemphase x0 x1) := fun _ _ => ⟨(show (1 : Nat) ≤ 2 by decide), fun _ => rfl⟩
theorem sbarCond : ∀ x0 x1, Statement (.sbarCond x0 x1) := fun _ _ => ⟨(show (1 : Nat) ≤ 2 by decide), fun _ => rfl⟩
theorem inject : ∀ x0 x1 x2, Statement (.inject x0 x1 x2) := fun _ _ _ => ⟨(show (1 : Nat) ≤ 2 by decide), fun _ => rfl⟩
theorem markp : ∀ x0 x1 x2, Statement (.markp x0 x1 x2) := fun _ _ _ => ⟨(show (1 : Nat) ≤ 2 by decide), fun _ => rfl⟩
theorem drain : ∀ x0 x1 x2, Statement (.drain x0 x1 x2) := fun _ _ _ => ⟨(show (1 : Nat) ≤ 2 by decide), fun _ => rfl⟩
theorem pstat : ∀ x0 x1 x2, Statement (.pstat x0 x1 x2) := fun _ _ _ => ⟨(show (1 : Nat) ≤ 2 by decide), fun _ => rfl⟩
theorem cfgld : ∀ x0 x1 x2, Statement (.cfgld x0 x1 x2) := fun _ _ _ => ⟨(show (1 : Nat) ≤ 2 by decide), fun _ => rfl⟩
theorem cfgrel : ∀ x0 x1, Statement (.cfgrel x0 x1) := fun _ _ => ⟨(show (1 : Nat) ≤ 2 by decide), fun _ => rfl⟩
theorem cfgqry : ∀ x0 x1 x2 x3, Statement (.cfgqry x0 x1 x2 x3) := fun _ _ _ _ => ⟨(show (1 : Nat) ≤ 2 by decide), fun _ => rfl⟩
theorem cfgstart : ∀ x0 x1, Statement (.cfgstart x0 x1) := fun _ _ => ⟨(show (1 : Nat) ≤ 2 by decide), fun _ => rfl⟩
theorem cfggate : ∀ x0 x1 x2, Statement (.cfggate x0 x1 x2) := fun _ _ _ => ⟨(show (1 : Nat) ≤ 2 by decide), fun _ => rfl⟩
theorem qsweep : ∀ x0 x1 x2, Statement (.qsweep x0 x1 x2) := fun _ _ _ => ⟨(show (1 : Nat) ≤ 2 by decide), fun _ => rfl⟩
theorem launch : ∀ x0 x1 x2, Statement (.launch x0 x1 x2) := fun _ _ _ => ⟨(show (1 : Nat) ≤ 2 by decide), fun _ => rfl⟩
theorem lwait : ∀ x0 x1 x2, Statement (.lwait x0 x1 x2) := fun _ _ _ => ⟨(show (1 : Nat) ≤ 2 by decide), fun _ => rfl⟩
theorem bar : ∀ x0 x1 x2 x3, Statement (.bar x0 x1 x2 x3) := fun _ _ _ _ => ⟨(show (1 : Nat) ≤ 2 by decide), fun _ => rfl⟩
theorem drove : ∀ x0 x1 x2 x3, Statement (.drove x0 x1 x2 x3) := fun _ _ _ _ => ⟨(show (1 : Nat) ≤ 2 by decide), fun _ => rfl⟩
theorem pinbin : ∀ x0 x1 x2 x3, Statement (.pinbin x0 x1 x2 x3) := fun _ _ _ _ => ⟨(show (1 : Nat) ≤ 2 by decide), fun _ => rfl⟩
theorem pinpair : ∀ x0 x1 x2 x3, Statement (.pinpair x0 x1 x2 x3) := fun _ _ _ _ => ⟨(show (1 : Nat) ≤ 2 by decide), fun _ => rfl⟩
theorem threshOpen : ∀ x0 x1 x2 x3, Statement (.threshOpen x0 x1 x2 x3) := fun _ _ _ _ => ⟨(show (1 : Nat) ≤ 2 by decide), fun _ => rfl⟩
theorem threshClose : ∀ x0 x1 x2 x3, Statement (.threshClose x0 x1 x2 x3) := fun _ _ _ _ => ⟨(show (1 : Nat) ≤ 2 by decide), fun h => nomatch (show false = true from h)⟩
theorem mtaskAttach : ∀ x0 x1 x2 x3, Statement (.mtaskAttach x0 x1 x2 x3) := fun _ _ _ _ => ⟨(show (1 : Nat) ≤ 2 by decide), fun _ => rfl⟩
theorem mtaskAppend : ∀ x0 x1 x2 x3, Statement (.mtaskAppend x0 x1 x2 x3) := fun _ _ _ _ => ⟨(show (1 : Nat) ≤ 2 by decide), fun h => nomatch (show false = true from h)⟩
theorem mtaskDetach : ∀ x0 x1 x2 x3, Statement (.mtaskDetach x0 x1 x2 x3) := fun _ _ _ _ => ⟨(show (1 : Nat) ≤ 2 by decide), fun h => nomatch (show false = true from h)⟩
theorem mpath : ∀ x0 x1 x2 x3, Statement (.mpath x0 x1 x2 x3) := fun _ _ _ _ => ⟨(show (1 : Nat) ≤ 2 by decide), fun _ => rfl⟩
theorem tidset : ∀ x0 x1 x2, Statement (.tidset x0 x1 x2) := fun _ _ _ => ⟨(show (1 : Nat) ≤ 2 by decide), fun _ => rfl⟩
theorem tidget : ∀ x0 x1 x2, Statement (.tidget x0 x1 x2) := fun _ _ _ => ⟨(show (1 : Nat) ≤ 2 by decide), fun _ => rfl⟩
theorem tidinv : ∀ x0 x1, Statement (.tidinv x0 x1) := fun _ _ => ⟨(show (1 : Nat) ≤ 2 by decide), fun _ => rfl⟩
theorem srrd : ∀ x0 x1 x2, Statement (.srrd x0 x1 x2) := fun _ _ _ => ⟨(show (1 : Nat) ≤ 2 by decide), fun _ => rfl⟩
theorem srwr : ∀ x0 x1 x2, Statement (.srwr x0 x1 x2) := fun _ _ _ => ⟨(show (1 : Nat) ≤ 2 by decide), fun _ => rfl⟩
theorem eret : ∀ x0, Statement (.eret x0) := fun _ => ⟨(show (1 : Nat) ≤ 2 by decide), fun _ => rfl⟩
theorem evt : ∀ x0 x1, Statement (.evt x0 x1) := fun _ _ => ⟨(show (1 : Nat) ≤ 2 by decide), fun _ => rfl⟩
theorem rdtime : ∀ x0 x1, Statement (.rdtime x0 x1) := fun _ _ => ⟨(show (1 : Nat) ≤ 2 by decide), fun _ => rfl⟩
theorem ident : ∀ x0 x1, Statement (.ident x0 x1) := fun _ _ => ⟨(show (1 : Nat) ≤ 2 by decide), fun _ => rfl⟩
theorem peek : ∀ x0, Statement (.peek x0) := fun _ => ⟨(show (2 : Nat) ≤ 2 by decide), fun h => nomatch (show false = true from h)⟩
theorem adv : ∀ x0, Statement (.adv x0) := fun _ => ⟨(show (2 : Nat) ≤ 2 by decide), fun h => nomatch (show false = true from h)⟩
theorem put : ∀ x0, Statement (.put x0) := fun _ => ⟨(show (2 : Nat) ≤ 2 by decide), fun h => nomatch (show false = true from h)⟩
theorem padv : ∀ x0, Statement (.padv x0) := fun _ => ⟨(show (2 : Nat) ≤ 2 by decide), fun h => nomatch (show false = true from h)⟩
theorem hrd : ∀ x0, Statement (.hrd x0) := fun _ => ⟨(show (2 : Nat) ≤ 2 by decide), fun h => nomatch (show false = true from h)⟩
theorem hwr : ∀ x0, Statement (.hwr x0) := fun _ => ⟨(show (2 : Nat) ≤ 2 by decide), fun h => nomatch (show false = true from h)⟩
theorem qrd : ∀ x0, Statement (.qrd x0) := fun _ => ⟨(show (2 : Nat) ≤ 2 by decide), fun h => nomatch (show false = true from h)⟩
theorem qwr : ∀ x0, Statement (.qwr x0) := fun _ => ⟨(show (2 : Nat) ≤ 2 by decide), fun h => nomatch (show false = true from h)⟩
theorem const : ∀ x0, Statement (.const x0) := fun _ => ⟨(show (2 : Nat) ≤ 2 by decide), fun h => nomatch (show false = true from h)⟩
theorem consth : ∀ x0, Statement (.consth x0) := fun _ => ⟨(show (2 : Nat) ≤ 2 by decide), fun h => nomatch (show false = true from h)⟩
theorem laneid : ∀ x0, Statement (.laneid x0) := fun _ => ⟨(show (2 : Nat) ≤ 2 by decide), fun h => nomatch (show false = true from h)⟩
theorem tagrd : ∀ x0, Statement (.tagrd x0) := fun _ => ⟨(show (2 : Nat) ≤ 2 by decide), fun h => nomatch (show false = true from h)⟩
theorem tagrdKind : ∀ x0, Statement (.tagrdKind x0) := fun _ => ⟨(show (2 : Nat) ≤ 2 by decide), fun h => nomatch (show false = true from h)⟩
theorem maskrd : ∀ x0, Statement (.maskrd x0) := fun _ => ⟨(show (2 : Nat) ≤ 2 by decide), fun h => nomatch (show false = true from h)⟩
theorem maskset : ∀ x0, Statement (.maskset x0) := fun _ => ⟨(show (2 : Nat) ≤ 2 by decide), fun h => nomatch (show false = true from h)⟩
theorem iadd : ∀ x0, Statement (.iadd x0) := fun _ => ⟨(show (2 : Nat) ≤ 2 by decide), fun h => nomatch (show false = true from h)⟩
theorem isub : ∀ x0, Statement (.isub x0) := fun _ => ⟨(show (2 : Nat) ≤ 2 by decide), fun h => nomatch (show false = true from h)⟩
theorem imul : ∀ x0, Statement (.imul x0) := fun _ => ⟨(show (2 : Nat) ≤ 2 by decide), fun h => nomatch (show false = true from h)⟩
theorem imulh : ∀ x0, Statement (.imulh x0) := fun _ => ⟨(show (2 : Nat) ≤ 2 by decide), fun h => nomatch (show false = true from h)⟩
theorem iand : ∀ x0, Statement (.iand x0) := fun _ => ⟨(show (2 : Nat) ≤ 2 by decide), fun h => nomatch (show false = true from h)⟩
theorem ior : ∀ x0, Statement (.ior x0) := fun _ => ⟨(show (2 : Nat) ≤ 2 by decide), fun h => nomatch (show false = true from h)⟩
theorem ixor : ∀ x0, Statement (.ixor x0) := fun _ => ⟨(show (2 : Nat) ≤ 2 by decide), fun h => nomatch (show false = true from h)⟩
theorem ishl : ∀ x0, Statement (.ishl x0) := fun _ => ⟨(show (2 : Nat) ≤ 2 by decide), fun h => nomatch (show false = true from h)⟩
theorem ishr : ∀ x0, Statement (.ishr x0) := fun _ => ⟨(show (2 : Nat) ≤ 2 by decide), fun h => nomatch (show false = true from h)⟩
theorem isar : ∀ x0, Statement (.isar x0) := fun _ => ⟨(show (2 : Nat) ≤ 2 by decide), fun h => nomatch (show false = true from h)⟩
theorem imin : ∀ x0, Statement (.imin x0) := fun _ => ⟨(show (2 : Nat) ≤ 2 by decide), fun h => nomatch (show false = true from h)⟩
theorem imax : ∀ x0, Statement (.imax x0) := fun _ => ⟨(show (2 : Nat) ≤ 2 by decide), fun h => nomatch (show false = true from h)⟩
theorem iabs : ∀ x0, Statement (.iabs x0) := fun _ => ⟨(show (2 : Nat) ≤ 2 by decide), fun h => nomatch (show false = true from h)⟩
theorem ineg : ∀ x0, Statement (.ineg x0) := fun _ => ⟨(show (2 : Nat) ≤ 2 by decide), fun h => nomatch (show false = true from h)⟩
theorem isatadd : ∀ x0, Statement (.isatadd x0) := fun _ => ⟨(show (2 : Nat) ≤ 2 by decide), fun h => nomatch (show false = true from h)⟩
theorem isatsub : ∀ x0, Statement (.isatsub x0) := fun _ => ⟨(show (2 : Nat) ≤ 2 by decide), fun h => nomatch (show false = true from h)⟩
theorem fadd : ∀ x0, Statement (.fadd x0) := fun _ => ⟨(show (2 : Nat) ≤ 2 by decide), fun h => nomatch (show false = true from h)⟩
theorem fsub : ∀ x0, Statement (.fsub x0) := fun _ => ⟨(show (2 : Nat) ≤ 2 by decide), fun h => nomatch (show false = true from h)⟩
theorem fmul : ∀ x0, Statement (.fmul x0) := fun _ => ⟨(show (2 : Nat) ≤ 2 by decide), fun h => nomatch (show false = true from h)⟩
theorem ffma : ∀ x0, Statement (.ffma x0) := fun _ => ⟨(show (2 : Nat) ≤ 2 by decide), fun h => nomatch (show false = true from h)⟩
theorem fmin : ∀ x0, Statement (.fmin x0) := fun _ => ⟨(show (2 : Nat) ≤ 2 by decide), fun h => nomatch (show false = true from h)⟩
theorem fmax : ∀ x0, Statement (.fmax x0) := fun _ => ⟨(show (2 : Nat) ≤ 2 by decide), fun h => nomatch (show false = true from h)⟩
theorem fabs : ∀ x0, Statement (.fabs x0) := fun _ => ⟨(show (2 : Nat) ≤ 2 by decide), fun h => nomatch (show false = true from h)⟩
theorem fneg : ∀ x0, Statement (.fneg x0) := fun _ => ⟨(show (2 : Nat) ≤ 2 by decide), fun h => nomatch (show false = true from h)⟩
theorem frcp : ∀ x0, Statement (.frcp x0) := fun _ => ⟨(show (2 : Nat) ≤ 2 by decide), fun h => nomatch (show false = true from h)⟩
theorem frsq : ∀ x0, Statement (.frsq x0) := fun _ => ⟨(show (2 : Nat) ≤ 2 by decide), fun h => nomatch (show false = true from h)⟩
theorem fexp2 : ∀ x0, Statement (.fexp2 x0) := fun _ => ⟨(show (2 : Nat) ≤ 2 by decide), fun h => nomatch (show false = true from h)⟩
theorem flog2 : ∀ x0, Statement (.flog2 x0) := fun _ => ⟨(show (2 : Nat) ≤ 2 by decide), fun h => nomatch (show false = true from h)⟩
theorem ftanh : ∀ x0, Statement (.ftanh x0) := fun _ => ⟨(show (2 : Nat) ≤ 2 by decide), fun h => nomatch (show false = true from h)⟩
theorem fsinpi : ∀ x0, Statement (.fsinpi x0) := fun _ => ⟨(show (2 : Nat) ≤ 2 by decide), fun h => nomatch (show false = true from h)⟩
theorem fcospi : ∀ x0, Statement (.fcospi x0) := fun _ => ⟨(show (2 : Nat) ≤ 2 by decide), fun h => nomatch (show false = true from h)⟩
theorem frnd : ∀ x0, Statement (.frnd x0) := fun _ => ⟨(show (2 : Nat) ≤ 2 by decide), fun h => nomatch (show false = true from h)⟩
theorem icmp : ∀ x0, Statement (.icmp x0) := fun _ => ⟨(show (2 : Nat) ≤ 2 by decide), fun h => nomatch (show false = true from h)⟩
theorem fcmp : ∀ x0, Statement (.fcmp x0) := fun _ => ⟨(show (2 : Nat) ≤ 2 by decide), fun h => nomatch (show false = true from h)⟩
theorem sel : ∀ x0, Statement (.sel x0) := fun _ => ⟨(show (2 : Nat) ≤ 2 by decide), fun h => nomatch (show false = true from h)⟩
theorem actorPand : ∀ x0, Statement (.actorPand x0) := fun _ => ⟨(show (2 : Nat) ≤ 2 by decide), fun h => nomatch (show false = true from h)⟩
theorem actorPor : ∀ x0, Statement (.actorPor x0) := fun _ => ⟨(show (2 : Nat) ≤ 2 by decide), fun h => nomatch (show false = true from h)⟩
theorem actorPnot : ∀ x0, Statement (.actorPnot x0) := fun _ => ⟨(show (2 : Nat) ≤ 2 by decide), fun h => nomatch (show false = true from h)⟩
theorem anyl : ∀ x0, Statement (.anyl x0) := fun _ => ⟨(show (2 : Nat) ≤ 2 by decide), fun h => nomatch (show false = true from h)⟩
theorem alll : ∀ x0, Statement (.alll x0) := fun _ => ⟨(show (2 : Nat) ≤ 2 by decide), fun h => nomatch (show false = true from h)⟩
theorem cvtfi : ∀ x0, Statement (.cvtfi x0) := fun _ => ⟨(show (2 : Nat) ≤ 2 by decide), fun h => nomatch (show false = true from h)⟩
theorem cvtif : ∀ x0, Statement (.cvtif x0) := fun _ => ⟨(show (2 : Nat) ≤ 2 by decide), fun h => nomatch (show false = true from h)⟩
theorem cvtfb : ∀ x0, Statement (.cvtfb x0) := fun _ => ⟨(show (2 : Nat) ≤ 2 by decide), fun h => nomatch (show false = true from h)⟩
theorem cvtbf : ∀ x0, Statement (.cvtbf x0) := fun _ => ⟨(show (2 : Nat) ≤ 2 by decide), fun h => nomatch (show false = true from h)⟩
theorem pack : ∀ x0, Statement (.pack x0) := fun _ => ⟨(show (2 : Nat) ≤ 2 by decide), fun h => nomatch (show false = true from h)⟩
theorem unpack : ∀ x0, Statement (.unpack x0) := fun _ => ⟨(show (2 : Nat) ≤ 2 by decide), fun h => nomatch (show false = true from h)⟩
theorem shuf : ∀ x0, Statement (.shuf x0) := fun _ => ⟨(show (2 : Nat) ≤ 2 by decide), fun h => nomatch (show false = true from h)⟩
theorem bcast : ∀ x0, Statement (.bcast x0) := fun _ => ⟨(show (2 : Nat) ≤ 2 by decide), fun h => nomatch (show false = true from h)⟩
theorem rotl : ∀ x0, Statement (.rotl x0) := fun _ => ⟨(show (2 : Nat) ≤ 2 by decide), fun h => nomatch (show false = true from h)⟩
theorem rsum : ∀ x0, Statement (.rsum x0) := fun _ => ⟨(show (2 : Nat) ≤ 2 by decide), fun h => nomatch (show false = true from h)⟩
theorem rmax : ∀ x0, Statement (.rmax x0) := fun _ => ⟨(show (2 : Nat) ≤ 2 by decide), fun h => nomatch (show false = true from h)⟩
theorem rmin : ∀ x0, Statement (.rmin x0) := fun _ => ⟨(show (2 : Nat) ≤ 2 by decide), fun h => nomatch (show false = true from h)⟩
theorem scan : ∀ x0, Statement (.scan x0) := fun _ => ⟨(show (2 : Nat) ≤ 2 by decide), fun h => nomatch (show false = true from h)⟩
theorem compact : ∀ x0, Statement (.compact x0) := fun _ => ⟨(show (2 : Nat) ≤ 2 by decide), fun h => nomatch (show false = true from h)⟩
theorem expand : ∀ x0, Statement (.expand x0) := fun _ => ⟨(show (2 : Nat) ≤ 2 by decide), fun h => nomatch (show false = true from h)⟩
theorem spld : ∀ x0, Statement (.spld x0) := fun _ => ⟨(show (2 : Nat) ≤ 2 by decide), fun h => nomatch (show false = true from h)⟩
theorem spst : ∀ x0, Statement (.spst x0) := fun _ => ⟨(show (2 : Nat) ≤ 2 by decide), fun h => nomatch (show false = true from h)⟩
theorem spldsyn : ∀ x0, Statement (.spldsyn x0) := fun _ => ⟨(show (2 : Nat) ≤ 2 by decide), fun h => nomatch (show false = true from h)⟩
theorem spred : ∀ x0, Statement (.spred x0) := fun _ => ⟨(show (2 : Nat) ≤ 2 by decide), fun h => nomatch (show false = true from h)⟩
theorem tidld : ∀ x0, Statement (.tidld x0) := fun _ => ⟨(show (2 : Nat) ≤ 2 by decide), fun h => nomatch (show false = true from h)⟩
theorem emitctl : ∀ x0, Statement (.emitctl x0) := fun _ => ⟨(show (2 : Nat) ≤ 2 by decide), fun h => nomatch (show false = true from h)⟩
theorem mark : ∀ x0, Statement (.mark x0) := fun _ => ⟨(show (2 : Nat) ≤ 2 by decide), fun h => nomatch (show false = true from h)⟩
theorem fault : ∀ x0, Statement (.fault x0) := fun _ => ⟨(show (2 : Nat) ≤ 2 by decide), fun h => nomatch (show false = true from h)⟩
theorem callreq : ∀ x0, Statement (.callreq x0) := fun _ => ⟨(show (2 : Nat) ≤ 2 by decide), fun h => nomatch (show false = true from h)⟩
theorem actorEvt : ∀ x0, Statement (.actorEvt x0) := fun _ => ⟨(show (2 : Nat) ≤ 2 by decide), fun h => nomatch (show false = true from h)⟩
theorem mvsplit : ∀ x0, Statement (.mvsplit x0) := fun _ => ⟨(show (2 : Nat) ≤ 2 by decide), fun h => nomatch (show false = true from h)⟩
theorem qpscale : ∀ x0, Statement (.qpscale x0) := fun _ => ⟨(show (2 : Nat) ≤ 2 by decide), fun h => nomatch (show false = true from h)⟩
theorem zigzag : ∀ x0, Statement (.zigzag x0) := fun _ => ⟨(show (2 : Nat) ≤ 2 by decide), fun h => nomatch (show false = true from h)⟩
theorem erracc : ∀ x0, Statement (.erracc x0) := fun _ => ⟨(show (2 : Nat) ≤ 2 by decide), fun h => nomatch (show false = true from h)⟩
theorem actorDataFiring : ∀ x0, Statement (.actorDataFiring x0) := fun _ => ⟨(show (0 : Nat) ≤ 2 by decide), fun h => nomatch (show false = true from h)⟩
theorem markerStep : ∀ x0, Statement (.markerStep x0) := fun _ => ⟨(show (0 : Nat) ≤ 2 by decide), fun h => nomatch (show false = true from h)⟩
theorem windowWriteApply : ∀ x0, Statement (.windowWriteApply x0) := fun _ => ⟨(show (0 : Nat) ≤ 2 by decide), fun h => nomatch (show false = true from h)⟩
theorem linkTokenTransfer : ∀ x0 x1 x2, Statement (.linkTokenTransfer x0 x1 x2) := fun _ _ _ => ⟨(show (0 : Nat) ≤ 2 by decide), fun h => nomatch (show false = true from h)⟩
theorem creditReturn : ∀ x0 x1, Statement (.creditReturn x0 x1) := fun _ _ => ⟨(show (0 : Nat) ≤ 2 by decide), fun h => nomatch (show false = true from h)⟩
theorem nodeMarkerPass : ∀ x0, Statement (.nodeMarkerPass x0) := fun _ => ⟨(show (0 : Nat) ≤ 2 by decide), fun h => nomatch (show false = true from h)⟩
theorem joinCombine : ∀ x0, Statement (.joinCombine x0) := fun _ => ⟨(show (0 : Nat) ≤ 2 by decide), fun h => nomatch (show false = true from h)⟩
theorem stackedCall : ∀ x0, Statement (.stackedCall x0) := fun _ => ⟨(show (0 : Nat) ≤ 2 by decide), fun h => nomatch (show false = true from h)⟩
theorem freezePoint : ∀ x0, Statement (.freezePoint x0) := fun _ => ⟨(show (0 : Nat) ≤ 2 by decide), fun h => nomatch (show false = true from h)⟩
theorem spillComplete : ∀ x0, Statement (.spillComplete x0) := fun _ => ⟨(show (0 : Nat) ≤ 2 by decide), fun h => nomatch (show false = true from h)⟩
theorem ret : ∀ x0, Statement (.ret x0) := fun _ => ⟨(show (0 : Nat) ≤ 2 by decide), fun h => nomatch (show false = true from h)⟩
theorem refillComplete : ∀ x0, Statement (.refillComplete x0) := fun _ => ⟨(show (0 : Nat) ≤ 2 by decide), fun h => nomatch (show false = true from h)⟩
theorem sideCallPlace : ∀ x0 x1, Statement (.sideCallPlace x0 x1) := fun _ _ => ⟨(show (0 : Nat) ≤ 2 by decide), fun h => nomatch (show false = true from h)⟩
theorem sideCallRelease : ∀ x0, Statement (.sideCallRelease x0) := fun _ => ⟨(show (0 : Nat) ≤ 2 by decide), fun h => nomatch (show false = true from h)⟩
theorem steerRoute : ∀ x0, Statement (.steerRoute x0) := fun _ => ⟨(show (0 : Nat) ≤ 2 by decide), fun h => nomatch (show false = true from h)⟩
theorem mergeSequence : ∀ x0, Statement (.mergeSequence x0) := fun _ => ⟨(show (0 : Nat) ≤ 2 by decide), fun h => nomatch (show false = true from h)⟩
theorem mergeKey : ∀ x0, Statement (.mergeKey x0) := fun _ => ⟨(show (0 : Nat) ≤ 2 by decide), fun h => nomatch (show false = true from h)⟩
theorem loopheadMerge : ∀ x0, Statement (.loopheadMerge x0) := fun _ => ⟨(show (0 : Nat) ≤ 2 by decide), fun h => nomatch (show false = true from h)⟩
theorem countIndex : ∀ x0, Statement (.countIndex x0) := fun _ => ⟨(show (0 : Nat) ≤ 2 by decide), fun h => nomatch (show false = true from h)⟩
theorem countLoop : ∀ x0, Statement (.countLoop x0) := fun _ => ⟨(show (0 : Nat) ≤ 2 by decide), fun h => nomatch (show false = true from h)⟩
theorem filterToken : ∀ x0, Statement (.filterToken x0) := fun _ => ⟨(show (0 : Nat) ≤ 2 by decide), fun h => nomatch (show false = true from h)⟩
theorem coalesce : ∀ x0, Statement (.coalesce x0) := fun _ => ⟨(show (0 : Nat) ≤ 2 by decide), fun h => nomatch (show false = true from h)⟩
theorem fanoutEnqueue : ∀ x0, Statement (.fanoutEnqueue x0) := fun _ => ⟨(show (0 : Nat) ≤ 2 by decide), fun h => nomatch (show false = true from h)⟩
theorem reduceStep : ∀ x0, Statement (.reduceStep x0) := fun _ => ⟨(show (0 : Nat) ≤ 2 by decide), fun h => nomatch (show false = true from h)⟩
theorem reduceGroupClose : ∀ x0, Statement (.reduceGroupClose x0) := fun _ => ⟨(show (0 : Nat) ≤ 2 by decide), fun h => nomatch (show false = true from h)⟩
theorem warpRequest : ∀ x0, Statement (.warpRequest x0) := fun _ => ⟨(show (0 : Nat) ≤ 2 by decide), fun h => nomatch (show false = true from h)⟩
theorem memoryLoad : ∀ x0, Statement (.memoryLoad x0) := fun _ => ⟨(show (0 : Nat) ≤ 2 by decide), fun h => nomatch (show false = true from h)⟩
theorem memoryStore : ∀ x0, Statement (.memoryStore x0) := fun _ => ⟨(show (0 : Nat) ≤ 2 by decide), fun h => nomatch (show false = true from h)⟩
theorem memoryGather : ∀ x0, Statement (.memoryGather x0) := fun _ => ⟨(show (0 : Nat) ≤ 2 by decide), fun h => nomatch (show false = true from h)⟩
theorem memoryScatter : ∀ x0, Statement (.memoryScatter x0) := fun _ => ⟨(show (0 : Nat) ≤ 2 by decide), fun h => nomatch (show false = true from h)⟩
theorem memoryUpdate : ∀ x0, Statement (.memoryUpdate x0) := fun _ => ⟨(show (0 : Nat) ≤ 2 by decide), fun h => nomatch (show false = true from h)⟩
theorem memoryReply : ∀ x0, Statement (.memoryReply x0) := fun _ => ⟨(show (0 : Nat) ≤ 2 by decide), fun h => nomatch (show false = true from h)⟩
theorem memoryOrderOut : ∀ x0, Statement (.memoryOrderOut x0) := fun _ => ⟨(show (0 : Nat) ≤ 2 by decide), fun h => nomatch (show false = true from h)⟩
theorem convertElement : ∀ x0, Statement (.convertElement x0) := fun _ => ⟨(show (0 : Nat) ≤ 2 by decide), fun h => nomatch (show false = true from h)⟩
theorem macWeightLoad : ∀ x0, Statement (.macWeightLoad x0) := fun _ => ⟨(show (0 : Nat) ≤ 2 by decide), fun h => nomatch (show false = true from h)⟩
theorem macActivationRow : ∀ x0, Statement (.macActivationRow x0) := fun _ => ⟨(show (0 : Nat) ≤ 2 by decide), fun h => nomatch (show false = true from h)⟩
theorem macRoundRelease : ∀ x0, Statement (.macRoundRelease x0) := fun _ => ⟨(show (0 : Nat) ≤ 2 by decide), fun h => nomatch (show false = true from h)⟩
theorem firingWeightUpdate : ∀ x0, Statement (.firingWeightUpdate x0) := fun _ => ⟨(show (0 : Nat) ≤ 2 by decide), fun h => nomatch (show false = true from h)⟩
theorem beadleSweep : ∀ x0, Statement (.beadleSweep x0) := fun _ => ⟨(show (0 : Nat) ≤ 2 by decide), fun h => nomatch (show false = true from h)⟩
theorem pagePlacement : ∀ x0 x1, Statement (.pagePlacement x0 x1) := fun _ _ => ⟨(show (0 : Nat) ≤ 2 by decide), fun h => nomatch (show false = true from h)⟩
theorem hamletClearComplete : ∀ x0, Statement (.hamletClearComplete x0) := fun _ => ⟨(show (0 : Nat) ≤ 2 by decide), fun h => nomatch (show false = true from h)⟩
theorem granaryClearComplete : ∀ x0, Statement (.granaryClearComplete x0) := fun _ => ⟨(show (0 : Nat) ≤ 2 by decide), fun h => nomatch (show false = true from h)⟩
theorem streamStart : ∀ x0 x1, Statement (.streamStart x0 x1) := fun _ _ => ⟨(show (0 : Nat) ≤ 2 by decide), fun h => nomatch (show false = true from h)⟩
theorem streamElement : ∀ x0 x1, Statement (.streamElement x0 x1) := fun _ _ => ⟨(show (0 : Nat) ≤ 2 by decide), fun h => nomatch (show false = true from h)⟩
theorem streamComplete : ∀ x0 x1, Statement (.streamComplete x0 x1) := fun _ _ => ⟨(show (0 : Nat) ≤ 2 by decide), fun h => nomatch (show false = true from h)⟩
theorem copyComplete : ∀ x0 x1, Statement (.copyComplete x0 x1) := fun _ _ => ⟨(show (0 : Nat) ≤ 2 by decide), fun h => nomatch (show false = true from h)⟩
theorem sparseUpdateApply : ∀ x0 x1 x2, Statement (.sparseUpdateApply x0 x1 x2) := fun _ _ _ => ⟨(show (0 : Nat) ≤ 2 by decide), fun h => nomatch (show false = true from h)⟩
theorem walkerGrant : ∀ x0, Statement (.walkerGrant x0) := fun _ => ⟨(show (0 : Nat) ≤ 2 by decide), fun h => nomatch (show false = true from h)⟩
theorem walkComplete : ∀ x0, Statement (.walkComplete x0) := fun _ => ⟨(show (0 : Nat) ≤ 2 by decide), fun h => nomatch (show false = true from h)⟩
theorem invalidationEnqueue : ∀ x0, Statement (.invalidationEnqueue x0) := fun _ => ⟨(show (0 : Nat) ≤ 2 by decide), fun h => nomatch (show false = true from h)⟩
theorem invalidationComplete : Statement (.invalidationComplete) := ⟨(show (0 : Nat) ≤ 2 by decide), fun h => nomatch (show false = true from h)⟩
theorem hostMemWrite : ∀ x0 x1, Statement (.hostMemWrite x0 x1) := fun _ _ => ⟨(show (0 : Nat) ≤ 2 by decide), fun h => nomatch (show false = true from h)⟩
theorem hostMemRead : ∀ x0 x1, Statement (.hostMemRead x0 x1) := fun _ _ => ⟨(show (0 : Nat) ≤ 2 by decide), fun h => nomatch (show false = true from h)⟩
theorem peerAccess : ∀ x0 x1 x2 x3, Statement (.peerAccess x0 x1 x2 x3) := fun _ _ _ _ => ⟨(show (0 : Nat) ≤ 2 by decide), fun h => nomatch (show false = true from h)⟩
theorem peerReply : ∀ x0 x1, Statement (.peerReply x0 x1) := fun _ _ => ⟨(show (0 : Nat) ≤ 2 by decide), fun h => nomatch (show false = true from h)⟩
theorem flitRetry : ∀ x0, Statement (.flitRetry x0) := fun _ => ⟨(show (0 : Nat) ≤ 2 by decide), fun h => nomatch (show false = true from h)⟩
theorem portDown : ∀ x0, Statement (.portDown x0) := fun _ => ⟨(show (0 : Nat) ≤ 2 by decide), fun h => nomatch (show false = true from h)⟩
theorem portRetrain : ∀ x0, Statement (.portRetrain x0) := fun _ => ⟨(show (0 : Nat) ≤ 2 by decide), fun h => nomatch (show false = true from h)⟩
theorem portTrainingDone : ∀ x0 x1, Statement (.portTrainingDone x0 x1) := fun _ _ => ⟨(show (0 : Nat) ≤ 2 by decide), fun h => nomatch (show false = true from h)⟩
theorem queueBaseWrite : ∀ x0 x1, Statement (.queueBaseWrite x0 x1) := fun _ _ => ⟨(show (0 : Nat) ≤ 2 by decide), fun h => nomatch (show false = true from h)⟩
theorem queueSizeWrite : ∀ x0 x1, Statement (.queueSizeWrite x0 x1) := fun _ _ => ⟨(show (0 : Nat) ≤ 2 by decide), fun h => nomatch (show false = true from h)⟩
theorem doorbell : ∀ x0 x1, Statement (.doorbell x0 x1) := fun _ _ => ⟨(show (0 : Nat) ≤ 2 by decide), fun h => nomatch (show false = true from h)⟩
theorem stewardTakeEntry : Statement (.stewardTakeEntry) := ⟨(show (0 : Nat) ≤ 2 by decide), fun h => nomatch (show false = true from h)⟩
theorem dispatchSelect : ∀ x0, Statement (.dispatchSelect x0) := fun _ => ⟨(show (0 : Nat) ≤ 2 by decide), fun h => nomatch (show false = true from h)⟩
theorem launchPlace : ∀ x0 x1, Statement (.launchPlace x0 x1) := fun _ _ => ⟨(show (0 : Nat) ≤ 2 by decide), fun h => nomatch (show false = true from h)⟩
theorem reservationTimer : ∀ x0, Statement (.reservationTimer x0) := fun _ => ⟨(show (0 : Nat) ≤ 2 by decide), fun h => nomatch (show false = true from h)⟩
theorem pwaitPreempt : ∀ x0, Statement (.pwaitPreempt x0) := fun _ => ⟨(show (0 : Nat) ≤ 2 by decide), fun h => nomatch (show false = true from h)⟩
theorem launchComplete : ∀ x0, Statement (.launchComplete x0) := fun _ => ⟨(show (0 : Nat) ≤ 2 by decide), fun h => nomatch (show false = true from h)⟩
theorem preemptRequest : ∀ x0, Statement (.preemptRequest x0) := fun _ => ⟨(show (0 : Nat) ≤ 2 by decide), fun h => nomatch (show false = true from h)⟩
theorem sourcePmkEmit : ∀ x0, Statement (.sourcePmkEmit x0) := fun _ => ⟨(show (0 : Nat) ≤ 2 by decide), fun h => nomatch (show false = true from h)⟩
theorem pmkArrival : ∀ x0, Statement (.pmkArrival x0) := fun _ => ⟨(show (0 : Nat) ≤ 2 by decide), fun h => nomatch (show false = true from h)⟩
theorem preemptForce : ∀ x0, Statement (.preemptForce x0) := fun _ => ⟨(show (0 : Nat) ≤ 2 by decide), fun h => nomatch (show false = true from h)⟩
theorem saveComplete : ∀ x0, Statement (.saveComplete x0) := fun _ => ⟨(show (0 : Nat) ≤ 2 by decide), fun h => nomatch (show false = true from h)⟩
theorem restore : ∀ x0, Statement (.restore x0) := fun _ => ⟨(show (0 : Nat) ≤ 2 by decide), fun h => nomatch (show false = true from h)⟩
theorem checkpoint : ∀ x0, Statement (.checkpoint x0) := fun _ => ⟨(show (0 : Nat) ≤ 2 by decide), fun h => nomatch (show false = true from h)⟩
theorem replayRollback : ∀ x0, Statement (.replayRollback x0) := fun _ => ⟨(show (0 : Nat) ≤ 2 by decide), fun h => nomatch (show false = true from h)⟩
theorem stewardTrap : Statement (.stewardTrap) := ⟨(show (0 : Nat) ≤ 2 by decide), fun h => nomatch (show false = true from h)⟩
theorem standbyStart : Statement (.standbyStart) := ⟨(show (0 : Nat) ≤ 2 by decide), fun h => nomatch (show false = true from h)⟩
theorem takeoverEnd : Statement (.takeoverEnd) := ⟨(show (0 : Nat) ≤ 2 by decide), fun h => nomatch (show false = true from h)⟩
theorem droverWalkStart : ∀ x0, Statement (.droverWalkStart x0) := fun _ => ⟨(show (0 : Nat) ≤ 2 by decide), fun h => nomatch (show false = true from h)⟩
theorem droverWalkComplete : ∀ x0, Statement (.droverWalkComplete x0) := fun _ => ⟨(show (0 : Nat) ≤ 2 by decide), fun h => nomatch (show false = true from h)⟩
theorem pinfoldCommandStart : ∀ x0, Statement (.pinfoldCommandStart x0) := fun _ => ⟨(show (0 : Nat) ≤ 2 by decide), fun h => nomatch (show false = true from h)⟩
theorem pinbinComplete : ∀ x0, Statement (.pinbinComplete x0) := fun _ => ⟨(show (0 : Nat) ≤ 2 by decide), fun h => nomatch (show false = true from h)⟩
theorem pinpairComplete : ∀ x0, Statement (.pinpairComplete x0) := fun _ => ⟨(show (0 : Nat) ≤ 2 by decide), fun h => nomatch (show false = true from h)⟩
theorem thresherSessionStart : ∀ x0, Statement (.thresherSessionStart x0) := fun _ => ⟨(show (0 : Nat) ≤ 2 by decide), fun h => nomatch (show false = true from h)⟩
theorem thresherBatch : ∀ x0 x1, Statement (.thresherBatch x0 x1) := fun _ _ => ⟨(show (0 : Nat) ≤ 2 by decide), fun h => nomatch (show false = true from h)⟩
theorem thresherSessionEnd : ∀ x0, Statement (.thresherSessionEnd x0) := fun _ => ⟨(show (0 : Nat) ≤ 2 by decide), fun h => nomatch (show false = true from h)⟩
theorem tileTaskIssue : ∀ x0 x1 x2, Statement (.tileTaskIssue x0 x1 x2) := fun _ _ _ => ⟨(show (0 : Nat) ≤ 2 by decide), fun h => nomatch (show false = true from h)⟩
theorem tileTaskComplete : ∀ x0 x1 x2, Statement (.tileTaskComplete x0 x1 x2) := fun _ _ _ => ⟨(show (0 : Nat) ≤ 2 by decide), fun h => nomatch (show false = true from h)⟩
theorem mpathComplete : ∀ x0, Statement (.mpathComplete x0) := fun _ => ⟨(show (0 : Nat) ≤ 2 by decide), fun h => nomatch (show false = true from h)⟩
theorem sampleTimer : ∀ x0, Statement (.sampleTimer x0) := fun _ => ⟨(show (0 : Nat) ≤ 2 by decide), fun h => nomatch (show false = true from h)⟩
theorem crierReadOffsetWrite : ∀ x0 x1, Statement (.crierReadOffsetWrite x0 x1) := fun _ _ => ⟨(show (0 : Nat) ≤ 2 by decide), fun h => nomatch (show false = true from h)⟩
theorem counterClr : ∀ x0, Statement (.counterClr x0) := fun _ => ⟨(show (0 : Nat) ≤ 2 by decide), fun h => nomatch (show false = true from h)⟩
theorem counterFreeze : ∀ x0 x1, Statement (.counterFreeze x0 x1) := fun _ _ => ⟨(show (0 : Nat) ≤ 2 by decide), fun h => nomatch (show false = true from h)⟩
theorem qosWordWrite : ∀ x0 x1, Statement (.qosWordWrite x0 x1) := fun _ _ => ⟨(show (0 : Nat) ≤ 2 by decide), fun h => nomatch (show false = true from h)⟩
theorem qosWindow : ∀ x0 x1 x2, Statement (.qosWindow x0 x1 x2) := fun _ _ _ => ⟨(show (0 : Nat) ≤ 2 by decide), fun h => nomatch (show false = true from h)⟩
theorem fenceEntryWrite : ∀ x0 x1 x2, Statement (.fenceEntryWrite x0 x1 x2) := fun _ _ _ => ⟨(show (0 : Nat) ≤ 2 by decide), fun h => nomatch (show false = true from h)⟩
theorem runControlStop : ∀ x0, Statement (.runControlStop x0) := fun _ => ⟨(show (0 : Nat) ≤ 2 by decide), fun h => nomatch (show false = true from h)⟩
theorem runControlRun : ∀ x0, Statement (.runControlRun x0) := fun _ => ⟨(show (0 : Nat) ≤ 2 by decide), fun h => nomatch (show false = true from h)⟩
theorem registerWrite : ∀ x0 x1, Statement (.registerWrite x0 x1) := fun _ _ => ⟨(show (0 : Nat) ≤ 2 by decide), fun h => nomatch (show false = true from h)⟩
theorem hamletRetire : ∀ x0, Statement (.hamletRetire x0) := fun _ => ⟨(show (0 : Nat) ≤ 2 by decide), fun h => nomatch (show false = true from h)⟩
theorem pageRetire : ∀ x0, Statement (.pageRetire x0) := fun _ => ⟨(show (0 : Nat) ≤ 2 by decide), fun h => nomatch (show false = true from h)⟩
theorem thermalThrottle : Statement (.thermalThrottle) := ⟨(show (0 : Nat) ≤ 2 by decide), fun h => nomatch (show false = true from h)⟩
theorem clockRaise : Statement (.clockRaise) := ⟨(show (0 : Nat) ≤ 2 by decide), fun h => nomatch (show false = true from h)⟩
theorem thermalStop : Statement (.thermalStop) := ⟨(show (0 : Nat) ≤ 2 by decide), fun h => nomatch (show false = true from h)⟩
theorem packageReset : Statement (.packageReset) := ⟨(show (0 : Nat) ≤ 2 by decide), fun h => nomatch (show false = true from h)⟩
theorem selfTestPass : ∀ x0, Statement (.selfTestPass x0) := fun _ => ⟨(show (0 : Nat) ≤ 2 by decide), fun h => nomatch (show false = true from h)⟩
theorem hostLinkTraining : ∀ x0, Statement (.hostLinkTraining x0) := fun _ => ⟨(show (0 : Nat) ≤ 2 by decide), fun h => nomatch (show false = true from h)⟩
theorem firmwareStageCheck : ∀ x0 x1, Statement (.firmwareStageCheck x0 x1) := fun _ _ => ⟨(show (0 : Nat) ≤ 2 by decide), fun h => nomatch (show false = true from h)⟩
theorem maintenanceCommand : ∀ x0 x1 x2, Statement (.maintenanceCommand x0 x1 x2) := fun _ _ _ => ⟨(show (0 : Nat) ≤ 2 by decide), fun h => nomatch (show false = true from h)⟩
theorem getVersion : Statement (.getVersion) := ⟨(show (0 : Nat) ≤ 2 by decide), fun h => nomatch (show false = true from h)⟩
theorem getCapabilities : Statement (.getCapabilities) := ⟨(show (0 : Nat) ≤ 2 by decide), fun h => nomatch (show false = true from h)⟩
theorem negotiateAlgorithms : Statement (.negotiateAlgorithms) := ⟨(show (0 : Nat) ≤ 2 by decide), fun h => nomatch (show false = true from h)⟩
theorem getDigests : Statement (.getDigests) := ⟨(show (0 : Nat) ≤ 2 by decide), fun h => nomatch (show false = true from h)⟩
theorem getCertificate : Statement (.getCertificate) := ⟨(show (0 : Nat) ≤ 2 by decide), fun h => nomatch (show false = true from h)⟩
theorem challenge : ∀ x0, Statement (.challenge x0) := fun _ => ⟨(show (0 : Nat) ≤ 2 by decide), fun h => nomatch (show false = true from h)⟩
theorem getMeasurements : ∀ x0, Statement (.getMeasurements x0) := fun _ => ⟨(show (0 : Nat) ≤ 2 by decide), fun h => nomatch (show false = true from h)⟩
theorem illegalInstr : Statement (.illegalInstr) := ⟨(show (0 : Nat) ≤ 2 by decide), fun h => nomatch (show false = true from h)⟩
theorem fetchFault : ∀ x0 x1 x2, Statement (.fetchFault x0 x1 x2) := fun _ _ _ => ⟨(show (0 : Nat) ≤ 2 by decide), fun h => nomatch (show false = true from h)⟩
theorem contextCreation : ∀ x0 x1, Statement (.contextCreation x0 x1) := fun _ _ => ⟨(show (0 : Nat) ≤ 2 by decide), fun h => nomatch (show false = true from h)⟩
theorem contextTeardown : ∀ x0, Statement (.contextTeardown x0) := fun _ => ⟨(show (0 : Nat) ≤ 2 by decide), fun h => nomatch (show false = true from h)⟩
theorem vfTeardown : ∀ x0, Statement (.vfTeardown x0) := fun _ => ⟨(show (0 : Nat) ≤ 2 by decide), fun h => nomatch (show false = true from h)⟩
theorem fabricCycle : Statement (.fabricCycle) := ⟨(show (0 : Nat) ≤ 2 by decide), fun h => nomatch (show false = true from h)⟩
theorem timeNanosecond : Statement (.timeNanosecond) := ⟨(show (0 : Nat) ≤ 2 by decide), fun h => nomatch (show false = true from h)⟩
theorem selfTestFail : ∀ x0, Statement (.selfTestFail x0) := fun _ => ⟨(show (0 : Nat) ≤ 2 by decide), fun h => nomatch (show false = true from h)⟩

end Sys2Proof.Laws.Encoded
end

