-- ==== Sys2Proof/Tests/Slice0.lean ====
section
/-! SUPPORT. Tests: ill-formed instructions are refused, the specification's worked words and numbers come out, and every
hypothesis of a statement is met by a state. -/

namespace Sys2Proof.Tests

-- One theorem after another: threads that wait for a long evaluation would each hold a stack.
set_option Elab.async false

open Sys2Proof Sys2Proof.Machine

/-! ### Small states -/

/-- A capability over a space from a base, of a length that needs no exponent. -/
def capOf (space base len perms : Nat) (off : Nat := 0) : Cap := Cap.make true 0 perms space 0 (len - 1) base off
/-- The base in space 1 of a hamlet's scratchpad by relative die and hamlet. -/
def relA (rd rh : Nat) : Nat := (rd <<< 45 + rh <<< 38) / 256
/-- The same capability without its tag. -/
def noTag (c : Cap) : Cap := { c with tag := false }

/-- The capability registers of the test reeve. -/
def caps : List Cap :=
  [capOf 0 0x100 65536 1023 16, capOf 1 (relA 0 1) 65536 1023 16, Cap.null, noTag (capOf 1 (relA 0 1) 65536 1023 16),
    capOf 4 0 65536 1023 32, (capOf 1 (relA 0 1) 65536 1023 16).withOtype 3, capOf 7 0 65536 1023,
    capOf 1 (relA 0 1) 65536 1022 16, capOf 6 1 65536 1023 0, capOf 0 0x100 65536 (1023 - 256) 16,
    capOf 4 0 65536 (512 + 3) 3, capOf 0 0x100000 (2 ^ 18) 1023 0x123, capOf 5 (2 ^ 33) 65536 1023 16]

/-- A running reeve at U level. -/
def reeveU : Reeve :=
  { g := Vector.ofFn fun i => if i.val = 7 then 9 else if i.val = 2 then 16 else if i.val = 8 then 8
      else if i.val = 9 then 1 else if i.val = 10 then 0 else BitVec.ofNat 64 (i.val * 0xF23456789abcd)
    k := Vector.ofFn fun i => (caps[i.val]?).getD Cap.null
    p := 0xb4, pc := 0x1000, tvec := 0x8000, ctx := 3, vf := 2, launch := 5, run := .running, lid := 77, unit := 3
    nunits := 9, stride := 4, samplecfg := 0xfffff, prio := 0x12, estat := 0x5502 }

/-- Its launch. -/
def launchU : Launch := { ctx := 3, vf := 2, lid := 77, st := .running, lpb := { pclass := 1 }, reeves := [81] }

/-- Some bytes, tags and empty words of its scratchpad. -/
def memU : Mem :=
  { bytes := (List.range 100).map fun i => (scratchBase 81 + i, BitVec.ofNat 8 (i * 7 + 132))
    tags := [scratchBase 81 / 16 + 1, scratchBase 81 / 16 + 2]
    nonzero := [scratchBase 81 / 32]
    empties := [scratchBase 81 / 8 + 5] }

/-- A package whose acting reeve, in hamlet 81, is at U level. -/
def sU : State :=
  { cur := 81, pkg := 3, time := 1234, cycle := 99, reeves := [(7, {}), (81, reeveU)], launches := [(5, launchU)]
    vfs := [(2, { qos := 0x3, counters := [(0x10, 5)] })]
    fences := [(16, { valid := true, vf := 2, dies := false, c0 := 0, h0 := 0, c1 := 9, h1 := 7, dieMask := 0 })]
    allot := [(3, [9, 11])], mem := memU
    tlbH := [(81, [{ ctx := 3, vf := 2, lg := 16, vpage := 1, ppage := 5, r := true, w := true, x := true, a := true
                     t := true }])] }

/-- The same at S level. -/
def sS : State := { sU with reeves := [(7, {}), (81, { reeveU with estat := 0x5503 })] }

/-- The same with a general register set. -/
def withG (n : GReg) (v : Nat) (s : State := sU) : State := s.updMe fun r => r.setG n (BitVec.ofNat 64 v)
/-- The same with a capability register set. -/
def withK (n : KReg) (c : Cap) (s : State := sU) : State := s.updMe fun r => r.setK n c
/-- Bytes stored in the scratchpad. -/
def stored (off : Nat) (bs : List Byte) (s : State := sU) : State :=
  { s with mem := s.mem.write (scratchBase 81 + off) bs }

/-- Whether an operation of the machine succeeds. -/
def good {α : Type} : Except Stop α → Bool
  | .ok _ => true
  | .error _ => false
/-- The trap that an operation raises. -/
def trapOf {α : Type} : Except Stop α → Option Trap
  | .error (.trap t) => some t
  | _ => none

/-! ### Every hypothesis of a statement is met -/

theorem witness_FalseGuardOnlyAdvances :
    guardOf (.li 1 2 3) = some 1 ∧ sU.me.guard 1 = false ∧ guardOf (.add 10 0 0 0) = some 10 ∧ sU.me.guard 10 = false := by
  decide

theorem witness_guard : sU.me.guard 0 = true ∧ sU.me.guard 2 = true ∧ sU.me.guard 9 = true ∧ sS.me.guard 0 = true := by
  decide

/-- AluResults: a CLZ whose b field is 1. -/
theorem witness_AluResults : sU.me.guard 0 = true ∧
    (let w := 0x0404808E; w / 2 ^ 26 = 1 ∧ 14 ≤ w % 128 ∧ w % 128 ≤ 17 ∧ w / 128 % 32 ≠ 0) := by decide

theorem witness_MulDivResults : sU.me.guard 0 = true := by decide

/-- ImmediateResults: a SHLI by 64. -/
theorem witness_ImmediateResults : sU.me.guard 0 = true ∧
    (let w := 0x1C000040; w / 2 ^ 26 ∈ [7, 8, 9] ∧ w / 64 % 64 ≠ 0) := by decide

theorem witness_CompareAndPredicateResults : sU.me.guard 0 = true ∧ ([1, 2, 3, 4, 5, 6] : List Nat)[(5 : BitVec 3).toNat]? = some 6 ∧
    (let u := 0x2C300006; u / 2 ^ 26 = 0x0B ∧ u / 2 ^ 20 % 4 = 3 ∧ 5 < u % 128) ∧
    (let u := 0x34100000; u / 2 ^ 26 = 0x0D ∧ u % 128 ≠ 7 ∧ 8 ≤ u / 2 ^ 17 % 32) := by decide

theorem witness_ControlTransfers :
    let t (imm : BitVec 12) : W64 := BitVec.ofInt 64 ((sU.me.gr 2).toInt + 4 * imm.toInt)
    sU.me.guard 0 = true ∧ (t 0xFFF).toNat % 4 = 0 ∧ sU.me.superv = false ∧ sU.me.guard 1 = false ∧
    (BitVec.ofInt 64 ((sU.me.gr 7).toInt + 0) : W64).toNat % 4 ≠ 0 ∧ sU.me.gr 9 = 1 ∧ sU.me.gr 7 ≠ 1 := by decide

theorem witness_TrapEntryAndReturn :
    sU.me.superv = false ∧ Code.align.replays = false ∧ Code.eccUncorr.replays = true ∧ sS.me.superv = true ∧
    sS.me.guard 0 = true ∧ sS.launchOf sS.me.launch = some launchU ∧ launchU.fcode = .none := by decide

theorem witness_RaisingAndExit :
    let r : Reeve := { reeveU with xfers := [(0, { kind := .copy, comp := .none, cls := 0 })] }
    sU.me.superv = false ∧ (Code.ofNum (8 : BitVec 8).toNat).replays = false ∧ (Code.ofNum (0xB : BitVec 8).toNat).replays = true ∧
    launchU.rollback = none ∧ sU.me.comb = [] ∧ windowBusy sU (.reeve sU.cur) = false ∧ sU.me.xfers = [] ∧
    sU.me.unit + sU.me.stride < sU.me.nunits ∧ ({ sU with reeves := [(81, r)] } : State).me.xfers ≠ [] ∧
    ¬ { reeveU with unit := 5 }.unit + reeveU.stride < reeveU.nunits := by decide

theorem witness_SystemRegistersAndIdentity :
    sU.me.guard 0 = true ∧ sU.me.superv = false ∧ sS.me.superv = true ∧ sU.launchOf sU.me.launch = some launchU := by decide

theorem witness_PhysicalWrites :
    ([1] : List Byte) ≠ [] ∧ isOnChip (scratchBase 81 + 6) = true ∧ isOnChip 5 = false ∧ sU.waiters = [] := by decide

theorem witness_LoadsAndStores :
    let k := sU.me.kr 1
    let off := k.offset + (sU.me.gr 0).toNat + 0
    let pa := scratchBase 81 + 16
    Quiet sU ∧ sU.me.guard 0 = true ∧ (access sU sU.acx k off 8 8 clLoad rR).toOption = some (.phys pa) ∧
    good (loadLoc sU sU.acx (.phys pa) 8) = true ∧ (access sU sU.acx k off 8 8 clStore rW).toOption = some (.phys pa) ∧
    (access sU sU.acx k off 8 8 clSyncStore rW).toOption = some (.phys pa) ∧
    good (storeLoc sU sU.acx (.phys pa) [1] true) = true ∧
    (access sU sU.acx k off 16 16 clCapLoad rR).toOption = some (.phys pa) ∧ good (loadCapLoc sU sU.acx (.phys pa)) = true ∧
    good (checkCapAt k off (some 16) 16 clCapStore) = true ∧ k.space ≠ 0 ∧
    good (storeCapLoc sU sU.acx (.phys pa) k) = true ∧
    good (checkCapAt (sU.me.kr 0) 32 (some 16) 16 clCapStore) = true ∧ (sU.me.kr 0).space = 0 ∧
    (sU.me.kr 9).perms / 256 % 2 = 0 ∧ (sU.me.kr 9).tag = true ∧ sU.me.superv = false := by
  unfold Quiet; decide +kernel

theorem witness_AccessChecksInOrder :
    let k (i : KReg) : Cap := sU.me.kr i
    (k 3).tag = false ∧ ((k 5).tag = true ∧ (k 5).otype ≠ 0) ∧ ((k 6).tag = true ∧ (k 6).otype = 0 ∧ (k 6).space = 7) ∧
    ((k 7).tag = true ∧ (k 7).otype = 0 ∧ (k 7).space ≠ 7 ∧ (k 7).perms % 2 = 0) ∧
    ((k 1).tag = true ∧ (k 1).otype = 0 ∧ (k 1).space ≠ 7 ∧ (k 1).perms % 2 = 1 ∧ (k 1).length = 65536 ∧
      (k 1).length < 65535 + 2 ∧ 17 + 4 ≤ (k 1).length ∧ 17 % 4 ≠ 0) ∧
    (trapOf (locate sU sU.acx 1 (relA 7 3 * 256) rR)).any (fun t => !t.code.replays) = true := by
  decide +kernel

theorem witness_FullEmptyWords :
    let off (k : KReg) (i : Nat) : Nat := (sU.me.kr k).offset + i
    let pa := scratchBase 81 + 16
    Quiet sU ∧ (access sU sU.acx (sU.me.kr 1) (off 1 0) 8 8 clSyncLoad rR).toOption = some (.phys pa) ∧
    sU.mem.badAt pa 8 = false ∧ sU.gifts = [] ∧ pa / 8 ∉ sU.mem.empties ∧
    (access sU sU.acx (sU.me.kr 1) (off 1 24) 8 8 clSyncLoad rR).toOption = some (.phys (scratchBase 81 + 40)) ∧
    (scratchBase 81 + 40) / 8 ∈ sU.mem.empties ∧ sU.waiters = [] ∧ (sU.me.gr 10).toNat = 0 ∧ (sU.me.gr 9).toNat = 1 ∧
    good (checkCapAt (sU.me.kr 1) (off 1 0) none 1 clSyncStore) = true ∧ 2 ^ 37 ≤ (sU.me.gr 3).toNat ∧
    (access sU sU.acx (sU.me.kr 1) (off 1 0) 8 8 clSyncStore rW).toOption = some (.phys pa) := by
  unfold Quiet; decide +kernel

/-- The test package beside another, which has answered an atomic. -/
def sPeer : State := { sU with
  pkg := 0, domainPkgs := [0, 1]
  peerIn := [{ who := .reeve 81, addr := 1 <<< 41 + 16, op := .atomic 3 (sU.me.gr 6), ans := .done [1, 2, 3, 4, 5, 6, 7, 8], down := false }]
  peerOut := [{ id := 1, who := .reeve 81, port := 1, addr := 1 <<< 41 + 16, op := .cas (sU.me.gr 4) (sU.me.gr 6)
                wants := true, ctx := 3, vf := 2, ea := 2 ^ 41 + 16, mapped := false }] }

theorem witness_AtomicInstructions :
    let pa := scratchBase 81 + 16
    let far : Nat := 1 <<< 41 + 16
    let old (a : Nat) : W64 := BitVec.ofNat 64 (leNat (sU.mem.read a 8))
    Quiet sU ∧ (access sU sU.acx (sU.me.kr 1) 16 8 8 clAtomic rA).toOption = some (.phys pa) ∧ sU.mem.badAt pa 8 = false ∧
    old pa ≠ sU.me.gr 4 ∧ old (scratchBase 81 + 200) = sU.me.gr 0 ∧
    (access sPeer sPeer.acx (sPeer.me.kr 12) 16 8 8 clAtomic rA).toOption = some (.peer far far false) ∧
    (sPeer.peerIn.find? fun g => g.who == .reeve sPeer.cur && g.addr == far && g.op == .atomic 3 (sU.me.gr 6)).isSome = true ∧
    (sPeer.peerOut.any fun q => q.who == .reeve sPeer.cur && q.addr == far && q.op == .cas (sU.me.gr 4) (sU.me.gr 6)
      && q.wants) = true := by
  unfold Quiet; decide +kernel

theorem witness_ReductionsAndFences :
    let l (s : State) (k : KReg) (n : Nat) : Option Loc :=
      (access s s.acx (s.me.kr k) (s.me.kr k).offset n n clReduce rA).toOption
    Quiet sU ∧ l sU 4 8 = some (.phys (slicePhys 9 32)) ∧ (sU.me.kr 4).space ≠ 1 ∧
    l sPeer 12 8 = some (.peer (1 <<< 41 + 16) (1 <<< 41 + 16) false) ∧ (sPeer.me.kr 12).space ≠ 1 ∧
    l sU 1 4 = some (.phys (scratchBase 81 + 16)) ∧ (sU.me.kr 1).space = 1 ∧ isGranary (scratchBase 81 + 16) = false ∧
    sU.mem.badAt (scratchBase 81 + 16) 4 = false ∧ (6 ≤ (7 : BitVec 3).toNat ∧ (2 : BitVec 4).getLsbD 1 = true) ∧
    sPeer.peerOut.any (·.who == .reeve sPeer.cur) = true ∧ sU.peerOut = [] ∧
    ({ sU with lost := [.reeve 81] } : State).lost.contains (.reeve sU.cur) = true ∧ sU.me.superv = false := by
  unfold Quiet; decide +kernel

theorem witness_CapabilityReadsAndMoves :
    (sU.me.kr 1).tag = true ∧ (sU.me.kr 1).otype = 0 ∧ (sU.me.kr 3).tag = false ∧ (sU.me.kr 5).tag = true ∧
    (sU.me.kr 5).otype ≠ 0 ∧ sU.me.superv = false ∧ (0 : Int) ≤ (sU.me.kr 1).offset + (sU.me.gr 2).toInt ∧
    ((sU.me.kr 1).offset : Int) + (0x800 : BitVec 12).toInt < 0 ∧
    ((sU.me.kr 1).offset : Int) + (sU.me.gr 2).toInt < 2 ^ 40 ∧ 2 ^ 40 ≤ (sU.me.gr 3).toNat := by decide +kernel

theorem witness_BoundsAndSealing :
    let units (s : State) (k : KReg) (g : GReg) (e : Nat) : Nat :=
      (((s.me.kr k).base * 256 + (s.me.kr k).offset) % 256 + (s.me.gr g).toNat + 2 ^ e - 1) / 2 ^ e
    let k := sU.me.kr 10
    (sU.me.kr 0).tag = true ∧ (sU.me.kr 0).otype = 0 ∧ (sU.me.gr 0).toNat = 0 ∧ (sU.me.gr 2).toNat ≠ 0 ∧
    units sU 0 2 0 ≤ 262144 ∧ boundsOk 0 (0x100 * 256) (units sU 0 2 0) = true ∧ (sU.me.kr 0).base * 256 ≤ 0x100 * 256 ∧
    0x100 * 256 + units sU 0 2 0 ≤ (sU.me.kr 0).base * 256 + (sU.me.kr 0).length ∧ 262144 < units sU 0 3 31 ∧
    (let s := withG 6 70000; ¬ 0x100 * 256 + units s 0 6 0 ≤ (s.me.kr 0).base * 256 + (s.me.kr 0).length) ∧
    (let s := withG 6 70000; units s 1 6 0 ≤ 262144) ∧ boundsOk 4 0 (2 ^ 36) = false ∧
    (k.tag = true ∧ k.otype = 0 ∧ k.perms / 512 % 2 = 1 ∧ 1 ≤ k.offset ∧ k.offset ≤ 15 ∧ k.offset + 1 ≤ k.length) ∧
    (sU.me.kr 5).otype = k.offset ∧ (sU.me.kr 3).tag = false ∧ (sU.me.kr 9).perms / 512 % 2 = 1 ∧
    (sU.me.kr 0).perms / 512 % 2 = 1 ∧ 15 < (sU.me.kr 0).offset ∧ (capOf 0 0 256 3).perms / 512 % 2 = 0 ∧
    ((capOf 0 0 256 1023).withOtype 4).otype ≠ k.offset := by decide +kernel

theorem witness_DerivedCapabilitiesKeepTheirBounds :
    let s : State := sU.setMe { reeveU with k := (Vector.replicate 16 Cap.null).set 1 (capOf 0 0x100 65536 1023 16) }
    (∀ j : Fin 16, (s.me.kr (BitVec.ofFin j)).tag = true → boundsOk (s.me.kr (BitVec.ofFin j)).space
      ((s.me.kr (BitVec.ofFin j)).base * 256) (s.me.kr (BitVec.ofFin j)).length = true) ∧
    (match exec (.cinc 0 2 1 2) s with | .next _ => true | _ => false) = true := by decide +kernel

/-! ### A placed page, rings and transfers -/

/-- A stream port's declaration word. -/
def declOf (used ctrl dir : Bool) : W64 :=
  BitVec.ofNat 64 ((if used then 2 ^ 15 else 0) + (if ctrl then 2 ^ 14 else 0) + (if dir then 2 ^ 9 else 0))
/-- A port cell: port 0 control and port 1 data from memory, port 2 towards memory, port 3 unused. -/
def portCell0 : Cell := { kind := .memory, words := [(32, declOf true true false), (34, declOf true false false),
  (36, declOf true false true), (38, declOf false false true)] }
/-- A graph. -/
def graph0 : Graph := { handle := 9, gid := 5, raceok := false, racing := false, nentry := 0, nresult := 0, pages := []
                        routes := [] }
/-- An instance of it with one page in hamlet 81. -/
def instP : Inst := { launch := 5, graph := graph0, gated := false, hams := [81], cells := [(15, portCell0)] }
/-- A token. -/
def tok (k : TokKind) (d : Nat) : Token := { kind := k, data := BitVec.ofNat 512 d, mask := 1, tag := 0 }
/-- A stream port in round 4,095 with a token in its buffer. -/
def portQ : SPort := { round := 4095, idx := 7, buf := [tok .data 5] }
/-- The page placed. -/
def sP : State := { sU with
  insts := [(1, instP)], hamlets := [(81, { place := .occupied, ctx := 3, owner := some 1, page := 0 })]
  ports := [(81 * 16, portQ), (81 * 16 + 1, { portQ with round := 3 }),
    (81 * 16 + 2, { buf := [tok .data (2 ^ 64 + 99), tok .eor 0], lastk := 2, lastp := true })] }
/-- A ring of 4 entries with 2 filled. -/
def ringQ : Ring := { init := true, lsize := 2, rp := 5, wp := 7, rsv := 8, done := [] }
/-- Rings and tags in use. -/
def sR : State := sP.updMe fun r => { r with
  rings := [(2, ringQ), (3, { ringQ with rsv := 7 }), (4, { init := true, lsize := 2, rp := 4, wp := 4, rsv := 8 })]
  tbusy := 0x30, tbits := 0x81 }
/-- A pattern record of 2 by 2 doublewords. -/
def pattern0 : List Byte :=
  leBytes 4 2 ++ leBytes 4 2 ++ leBytes 4 1 ++ leBytes 4 1 ++ leBytes 5 8 ++ leBytes 5 32 ++ leBytes 10 0 ++ [3, 1, 9]
    ++ leBytes 9 0
/-- With the pattern record in the scratchpad. -/
def sT : State := withG 11 48 (stored 64 pattern0 sR)
/-- With two transfers in flight and a barrier. -/
def sX : State := sR.updMe fun r => { r with
  nextX := 9
  xfers := [(3, { kind := .stream 2, comp := .none, cls := 1 }), (5, { kind := .copy, comp := .none, cls := 1 })]
  sbars := [{ kind := 0, mask := 4, upto := 4 }] }

theorem witness_TagsAndRings :
    let r := sR.me
    let full := r.ring 4
    let x := r.ring 2
    r.tbusy.getLsbD 4 = true ∧ r.tbusy.getLsbD 63 = false ∧ (full.rsv - full.rp).toNat = 2 ^ full.lsize ∧
    (r.ring 1).init = false ∧ x.init = true ∧ (x.rsv - x.rp).toNat ≠ 2 ^ x.lsize ∧
    (r.tbits &&& (withG 6 0x90 sR).me.gr 6) ≠ 0 ∧ (r.tbits &&& (withG 6 0x10 sR).me.gr 6) = 0 ∧
    (r.tbusy &&& (withG 6 0x10 sR).me.gr 6) ≠ 0 ∧ (r.tbusy &&& (withG 6 0x80 sR).me.gr 6) = 0 ∧
    (let z := 16; 1 ≤ z ∧ z ≤ 16 ∧ (r.ring 3).rsv = (r.ring 3).wp) ∧ x.rsv ≠ x.wp ∧ 2 ≤ (x.wp - x.rp).toNat ∧
    (x.wp - x.rp).toNat < 4 ∧ 4 ≤ 2 ^ x.lsize ∧ 2 ^ x.lsize < 5 ∧ ringSession sR sR.cur 2 = none ∧ sR.me.superv = false := by
  decide +kernel

theorem witness_StreamAndCopyIssue :
    let s := sT
    let d := portDecl s s.cur 1
    let k := s.me.kr 1
    let src := s.me.kr 4
    Still s ∧ s.me.guard 0 = true ∧ s.me.issued = none ∧ s.me.xfers.length < 64 ∧ (s.sport s.cur 1).pending.length < 4 ∧
    declUsed d = true ∧ declDir d = false ∧ good (checkCapAt k k.offset none 1 (streamClass false 0)) = true ∧
    (reeveBlock s k (k.offset + (s.me.gr 11).toNat : Nat) 48 16 clLoad).toOption.map (·.1) = some pattern0 ∧
    patternOk pattern0 (patternSpec pattern0) = true ∧ declCtrl d = false ∧ good (takeDesc s s.me.ctx 0) = true ∧
    good (stepOne s.me 1 3) = true ∧ good (checkCapAt src src.offset none 1 clLoad.engine) = true ∧
    good (checkCapAt k k.offset none 1 (streamClass true 0)) = true ∧ (s.me.gr 11).toNat = 48 ∧ (s.me.gr 0).toNat = 0 ∧
    src.offset + 48 ≤ src.length ∧ k.offset + 48 ≤ k.length ∧ src.space ≠ k.space := by
  unfold Still Quiet; decide +kernel

/-- The page's port 0 feeds a circuit that holds a token of a round. -/
def sRound (round : Nat) : State := { sP with insts := [(1, { instP with circs := [{
  sp := 0, sc := 15, sport := 0, dp := 0, dc := 3, dport := 0, ctrl := true
  links := [{ fifo := [{ tok .data 1 with tag := mkTag 3 0 round 0 }] }] }] })] }

theorem witness_BarriersOfStreamsAndPorts_rounds :
    let n : NodeRef := ⟨1, 0, 15, 0⟩
    let foreign : State := { sP with launches := [(5, { launchU with ctx := 4 })] }
    Still (sRound 2047) ∧ (cellOfHam (sRound 2047) 81 15).map (·.1) = some n ∧ ((sRound 2047).sport 81 0).sent = 0 ∧
    roundHeld (sRound 2047) n 4095 = true ∧ roundHeld (sRound 2048) n 4095 = false ∧ roundHeld sP n 4095 = false ∧
    (nodeOwner sP n).2.1 = sP.me.ctx ∧ Still foreign ∧ (cellOfHam foreign 81 15).map (·.1) = some n ∧
    (nodeOwner foreign n).2.1 ≠ foreign.me.ctx := by
  unfold Still Quiet; decide +kernel

theorem witness_BarriersOfStreamsAndPorts :
    let w (n : Nat) : Nat := portDecl sP sP.cur n
    let q (n : Nat) : SPort := sP.sport sP.cur n
    let v (n : Nat) : Nat := ((withG 6 n sP).me.gr 6).toNat
    let full : SPort := { portQ with buf := List.replicate 16 (tok .data 1) }
    Still sP ∧ (cellOfHam sP sP.cur 15).isSome = true ∧ (cellOfHam sU sU.cur 15).isSome = false ∧
    (declUsed (w 0) = true ∧ declDir (w 0) = false ∧ declCtrl (w 0) = true ∧ (q 0).eosSent = false ∧
      (q 0).cur = none ∧ (q 0).pending = [] ∧ (q 0).buf.length < 16) ∧ ¬ full.buf.length < 16 ∧
    (declUsed (w 1) = true ∧ declDir (w 1) = false ∧ declCtrl (w 1) = false) ∧
    (declUsed (w 2) = true ∧ declDir (w 2) = true ∧ (q 2).cur = none ∧ (q 2).pending = [] ∧
      (q 2).buf = [tok .data (2 ^ 64 + 99), tok .eor 0] ∧ (tok .data 1).poison = false) ∧
    declUsed (w 3) = false ∧ v 0x1A % 8 = 2 ∧ v 3 % 8 = 3 ∧ v 4 % 8 = 4 ∧ v 0x18 % 8 = 0 ∧
    sX.me.xfers.any (fun x => x.2.member 4) = true ∧ sP.me.xfers.any (fun x => x.2.member 1) = false ∧
    (let b : SBar := { kind := 0, mask := 4, upto := 4 }
     let x : Xfer := { kind := .stream 2, comp := .none, cls := 1 }
     b ∈ sX.me.sbars ∧ b.upto ≤ 6 ∧ x.member b.mask = true ∧ (3, x) ∈ sX.me.xfers ∧
     sentEos sX sX.cur 3 x = false) := by
  unfold Still Quiet; decide +kernel

/-! ### Graphs, launches, descriptors, engines -/

/-- An image of one empty page, at the mapped virtual page. -/
def sImage : State :=
  let s := withK 1 (capOf 0 0x100 65536 1023) sP
  let unused (m : Mem) (i : Nat) : Mem := m.setByte (5 * 65536 + 0x1080 + 0xA0 * i) 0x20
  { s with mem := ((List.range 16).foldl unused s.mem).write (5 * 65536) (leBytes 4 0x44564749 ++ leBytes 2 1 ++ leBytes 2 1 ++ leBytes 8 0
      ++ leBytes 8 0x1000 ++ leBytes 8 0 ++ leBytes 8 0x2000 ++ leBytes 4 7) }
/-- The capability of a block in the scratchpad, at an offset. -/
def kAt (off : Nat) : Cap := capOf 1 (relA 0 1) 65536 1023 off
/-- A launch parameter block. -/
def block0 (cnt nargs : Nat) : List Byte :=
  leBytes 8 0 ++ leBytes 8 0x4000 ++ leBytes 16 0x7777 ++ leBytes 4 cnt ++ [BitVec.ofNat 8 nargs, 0, 1, 0] ++ leBytes 24 0
/-- With a launch parameter block in the granary. -/
def sLaunch (cnt nargs : Nat) : State := withK 1 (capOf 4 0 65536 1023 0x200)
  { sP with mem := sP.mem.write (slicePhys 9 0x200) (block0 cnt nargs ++ leBytes 32 0x1234) }
/-- An entry of the descriptor table. -/
def descBytes : List Byte :=
  leBytes 16 (capOf 5 0x1000 4096 1023).bits.toNat ++ [16, 0, 0, 0] ++ leBytes 4 64 ++ leBytes 4 1 ++ leBytes 4 1 ++ leBytes 4 1
    ++ leBytes 20 4 ++ leBytes 8 0
/-- With a tagged entry in the scratchpad. -/
def sDesc : State :=
  let s := withK 1 (kAt 0x300) (stored 0x300 descBytes sP)
  { s with mem := { s.mem with tags := s.mem.tags ++ [(scratchBase 81 + 0x300) / 16] } }
/-- The same entry in the table. -/
def desc0 : Desc := ⟨BitVec.ofNat 512 (leNat descBytes), true⟩
/-- With an engine command's block in the scratchpad. -/
def sEngine (blk : List Byte) : State :=
  let s := withK 1 (kAt 0x400) (stored 0x400 blk sP)
  { s with ready := List.range 256, ctxs := mset s.ctxs 3 { s.ctxOf 3 with tids := [(1, desc0), (2, desc0), (3, desc0)] } }

/-- GraphInstructions: CFGLD. -/
theorem witness_GraphInstructions_load :
    let s := sImage
    let k := s.me.kr 1
    s.me.guard 0 = true ∧ s.me.asking = false ∧ Still s ∧ sU.me.superv = false ∧ Code.placeFail.replays = false ∧
    (checkCapAt k k.offset (some 64) 256 clConfigure).toOption.isSome = true ∧
    (((checkCapAt k k.offset (some 64) 256 clConfigure).bind fun _ =>
      (parseImage (imageReader s.acx k) 0 s).map fun v =>
        (match v.2.launchOf s.me.launch with
         | some l => good (placeCheck v.2 l v.1) && (freeHandle v.2 s.me.launch).isSome
         | none => false)).toOption = some true) := by
  unfold Still Quiet; decide +kernel

/-- A circuit with a token in its first FIFO, back to the port cell's row. -/
def circ0 : Circ := { sp := 0, sc := 3, sport := 4, dp := 0, dc := 5, dport := 0, ctrl := false
                      links := [{ returned := 3, fifo := [tok .data 1, tok .eor 0] }] }

/-- GraphInstructions: the instructions on a loaded graph, by its handle 9 in g7, and 1 in g9. -/
theorem witness_GraphInstructions :
    let s := sP
    let x := instP
    let gated : State := { s with insts := [(1, { x with gated := true })] }
    Still s ∧ s.me.guard 0 = true ∧ handleInst s s.me.launch (s.me.gr 8).toNat = none ∧ s.me.superv = false ∧
    handleInst s s.me.launch (s.me.gr 7).toNat = some (1, x) ∧
    (graphInsts s.insts.length s 1).any (repliesOwed s) = false ∧ s.launchOf x.launch = some launchU ∧
    sharing s x = [(1, x)] ∧ x.gated = false ∧ x.plane = .active ∧ x.call = none ∧ s.inst 1 = some x ∧
    (s.me.gr 9).getLsbD 0 = true ∧ (s.me.gr 7).getLsbD 63 = false ∧ (s.me.gr 15).getLsbD 0 = true ∧
    ((withG 6 (2 ^ 63) s).me.gr 6).getLsbD 63 = true ∧ (s.me.gr 2).getLsbD 0 = false ∧
    settled s 1 = true ∧ settled { s with insts := [(1, { x with circs := [circ0] })] } 1 = false ∧
    instRefused { x with gated := true } = false ∧ (sharing gated { x with gated := true }).length = 1 := by
  unfold Still Quiet; decide +kernel

/-- A JOIN of two inputs that is a sink and holds a token on the first. -/
def joinWaits : Cell := { kind := .join, words := [(0, 0x30), (1, 0)], inb := [(0, [tok .data 5])] }

/-- GraphInstructions: QSWEEP. -/
theorem witness_GraphInstructions_sweep :
    let s := sP
    let later (s : State) (c : W64) : State := { s with cycle := 500 }.updMe fun r => { r with sweepAt := some c }
    let due (s : State) : Bool := s.me.sweepAt.all fun c => decide (sweepGap ≤ (s.cycle - c).toNat)
    let x : Inst := { instP with cells := [(3, joinWaits)] }
    let t : State := { s with insts := [(1, x)] }
    let dead (s : State) : Bool := deadConds s 5 launchU (some s.cur)
    let full : Inst := { x with circs := [{ circ0 with dc := 3, links := [{ fifo := [tok .data 1] }] }] }
    let u : State := { s with insts := [(1, full)] }
    let run : State := { t with launches := [(5, { launchU with reeves := [81, 7] })], reeves := t.reeves.map fun y =>
      if y.1 = 7 then (7, { y.2 with run := .running }) else y }
    s.me.guard 0 = true ∧ handleInst s s.me.launch (s.me.gr 7).toNat = some (1, instP) ∧
    s.launchOf s.me.launch = some launchU ∧ launchU.fcode = .none ∧ sweepsOff s s.me.launch launchU = false ∧ due s = true ∧
    due (later s 450) = false ∧ due (later s (BitVec.ofNat 64 (2 ^ 64 - 100000))) = true ∧
    (idleInst s 1 instP = true ∧ quietInst s 1 instP = true) ∧
    allEos { s with ports := [(81 * 16 + 2, { portQ with closed := true })] } instP = true ∧
    idleInst u 1 full = false ∧
    (idleInst t 1 x = true ∧ quietInst t 1 x = true ∧ allEos t x = false ∧ x.active = false ∧ dead t = true) ∧
    (idleInst run 1 x = true ∧ quietInst run 1 x = true ∧ allEos run x = false ∧
      deadConds run 5 { launchU with reeves := [81, 7] } (some 81) = false) := by
  decide +kernel

theorem witness_LaunchInstructions :
    let s := sLaunch 5 2
    let k := s.me.kr 1
    let b := lpbOf (block0 5 2)
    s.me.guard 0 = true ∧ Still s ∧
    (reeveBlock s k k.offset 64 256 clConfigure).toOption.map (·.1) = some (block0 5 2) ∧ lpbBad (block0 5 2) = false ∧
    b.count < 2 ^ 24 ∧ b.nargs = 2 ∧ good ((reeveBlock s k k.offset 64 256 clConfigure).bind fun v =>
      (checkCapAt k (k.offset + 0x40) (some (16 * b.nargs)) 16 clConfigureCap).bind fun ea =>
        ((settleSpan v.2 s.acx s.cur k.space 2 ea (16 * b.nargs)).bind fun u => readCaps u s.acx k.space ea b.nargs).bind fun w =>
          (checkCapAt k (k.offset + 0x10) (some 16) 16 clConfigureCap).bind fun ea => readCaps w.2 s.acx k.space ea 1) = true ∧
    s.me.superv = false ∧ (s.ctxOf s.me.ctx).devq.length < 64 ∧
    (({ s.ctxOf 3 with devq := List.replicate 64 1 } : Ctx).devq.length ≥ 64) ∧ b.count ≠ 0 ∧ (lpbOf (block0 0 2)).count = 0 ∧
    knownLaunch s s.me.ctx s.me.launch 78 = none ∧ ¬ (s.me.gr 13).toNat < 2 ^ 32 := by
  unfold Still Quiet; decide +kernel

/-- LaunchInstructions: LWAIT of a known launch. -/
theorem witness_LaunchInstructions_wait :
    let s (st : LState) : State := { sU with
      launches := sU.launches ++ [(6, { launchU with lid := 76, st := st })], ctxs := [(3, { vf := 2, launchSerial := 78 })] }
    ((knownLaunch (s .complete) 3 5 76).map fun l => l.st) = some .complete ∧
    ((knownLaunch (s .queued) 3 5 76).map fun l => l.st) = some .queued := by
  decide +kernel

theorem witness_BarAndDescriptorInstructions :
    let s := sU
    let two : Launch := { launchU with reeves := [81, 7] }
    let t : State := { s with launches := [(5, two)], reeves := [(7, { run := .running }), (81, reeveU)] }
    let key := barKey 0 s.cur
    let b := barOf launchU key
    let broken : Launch := setBar launchU { b with broken := true }
    let later : Launch := setBar launchU { b with phase := 1 }
    s.me.guard 0 = true ∧ Still s ∧ s.launchOf s.me.launch = some launchU ∧ s.me.barWait = none ∧ b.broken = false ∧
    s.cur ∉ b.arrived ∧ (participants s launchU b.key).length ≤ (sadd b.arrived s.cur).length ∧
    (let b := barOf two (barKey 4 t.cur)
     ¬ (participants t two b.key).length ≤ (sadd b.arrived t.cur).length) ∧
    (barOf broken key).broken = true ∧ (barOf (setBar launchU { b with arrived := [81] }) key).arrived = [81] ∧
    (barOf later b.key).phase ≠ 0 ∧ (barOf launchU b.key).phase = 0 := by
  unfold Still Quiet; decide +kernel

/-- BarAndDescriptorInstructions: the table, by TID 1 in g9. -/
theorem witness_BarAndDescriptorInstructions_table :
    let s := sDesc
    let k := s.me.kr 1
    let pa := scratchBase 81 + 0x300
    Quiet s ∧ s.me.guard 0 = true ∧ s.me.gr 10 = 0 ∧ 255 < (s.me.gr 13).toNat ∧ s.me.superv = false ∧ s.me.gr 9 = 1 ∧
    (((reeveBlock s k k.offset 64 16 clCapLoad).bind fun w => (locate w.2 s.acx k.space k.addr rR).bind fun l =>
      (loadCapLoc w.2 s.acx l).map fun c =>
        c.1.tag && c.1.otype == 0 && descOk 1 { bits := BitVec.ofNat 512 (leNat w.1), tag := c.1.tag })).toOption = some true ∧
    good (checkCapAt k k.offset (some 64) 16 clCapStore) = true ∧ k.space ≠ 0 ∧
    ((List.range 4).all fun n => ((checkCapAt k k.offset (some 64) 16 clCapStore).bind fun ea =>
      locate s s.acx k.space (ea + 16 * n) (rW ||| rT)).toOption == some (.phys (pa + 16 * n))) = true ∧ isHost pa = false ∧
    (sU.me.kr 3).tag = false ∧ (sU.me.kr 5).otype ≠ 0 ∧ descOk 1 { bits := BitVec.ofNat 512 (2 ^ 135), tag := true } = false := by
  unfold Quiet; decide +kernel

/-- The block of a PINFOLD or MPATH command: descriptors 1, 2, 3. -/
def blockP : List Byte := leBytes 32 0 ++ [1, 2, 3, 0] ++ leBytes 28 0

/-- EngineInstructions: MPATH, whose block stands at offset 0x400. -/
theorem witness_EngineInstructions :
    let s := withG 6 0x100 (sEngine blockP)
    let k := s.me.kr 1
    let v := (s.me.gr 6).toNat
    let c0 (bs : List Byte) : Cmd := {
      eng := .mpath, hamlet := s.cur, xid := 0, ctx := s.me.ctx, vf := s.me.vf, launch := s.me.launch, handle := 0
      cap := k, block := bs, arg := v / 256, descs := [] }
    s.me.guard 0 = true ∧ Still s ∧ s.me.issued = none ∧ s.me.xfers.length < 64 ∧ s.cmds = [] ∧
    ((checkCapAt k k.offset none 1 clLoad.engine).toOption.map (· % 64)) = some 0 ∧ permsIn pST k.perms = true ∧
    v % 4 = 0 ∧ v / 4 % 64 = 0 ∧ good (stepOne s.me 0 0) = true ∧ good (stepOne s.me 1 3) = true ∧
    (((capBlock s s.acx k k.offset 64 1 clLoad.engine).bind fun bs => (checkMpath bs.2 (c0 bs.1)).map fun c =>
      !engBusy c.1 c.2)).toOption = some true := by
  unfold Still Quiet; decide +kernel

/-- EngineInstructions: MTASK, whose block names descriptor 1. -/
theorem witness_EngineInstructions_miller :
    let op (n : Nat) (qs : List (Nat × MQueue)) : Bool :=
      let s := withG 6 (256 * n) { sEngine (leBytes 32 0 ++ [1, 0, 0, 0] ++ leBytes 28 0) with mqueues := qs }
      let k := s.me.kr 1
      let v := (s.me.gr 6).toNat
      let c0 (bs : List Byte) : Cmd := {
        eng := .mtaskAttach, hamlet := s.cur, xid := 0, ctx := s.me.ctx, vf := s.me.vf, launch := s.me.launch, handle := 0
        cap := k, block := bs, arg := v / 256, descs := [] }
      v % 256 == 0 && v / 256 % 256 == n && (((capBlock s s.acx k k.offset 64 1 clLoad.engine).bind fun bs =>
        (checkMtask bs.2 (c0 bs.1)).map fun c => !engBusy c.1 c.2 && cmdLive s (c0 bs.1)).toOption == some true) &&
        (n == 0 || (queueOf s (hamShireG s.cur) s.me.ctx 1).isSome)
    let q : MQueue := { shire := hamShireG 81, ctx := 3, vf := 2, launch := 5, tid := 1, desc := desc0, size := 8, hamlet := 81 }
    op 0 [] = true ∧ op 1 [(9, q)] = true ∧ op 2 [(9, q)] = true ∧ op 2 [(9, { q with issued := [{ idx := 0, mill := ⟨1, 0, 3, 0⟩, rec_ := [], descs := [] }] })] = true := by
  decide +kernel
/-! ### A firing -/

/-- Lane values of 32-bit lanes. -/
def vA : Val := { data := 0x7fffffff80000000000000053fc00000fffffffe40490fdb#512, mask := 0xff, width := 32 }
/-- Poisoned lane values of which lane 7 is not valid. -/
def vB : Val := { data := 0x00000001ffffffff0000002100000002c0000000bf800000#512, mask := 0x7f, width := 32, poison := true }
/-- A predicate value. -/
def vC : Val := { data := 0x15, mask := 0xffff, width := 32, pred := true }
/-- A scalar, and one whose lane 0 is not valid. -/
def vI : Val := { data := 0x40, mask := 0xffff, width := 32 }
def vN : Val := { data := 0x40, mask := 0xfffe, width := 32 }
/-- A firing at instruction 2 with its operand slots. -/
def fire (a b c : Val) (cl : Bool := false) : Firing :=
  { close := cl, idx := 2, tag := 0x77, ops := [(8, some a), (9, some b), (10, some c), (11, some vC)], pend := [(0, 1), (4, 1)]
    descs := [(3, desc0)] }
/-- A block of eight instructions with rates 2 in and 3 out on port 0. -/
def slotF (f : Firing) : Slot :=
  { hdr := BitVec.ofNat 128 (7 + 2 <<< 8 + 3 <<< 24 + 1 <<< 28 + 1 <<< 73 + 0x55 <<< 96), code := List.replicate 8 0, valid := true
    ports := [(0, { slots := [(3, tok .data 5), (4, tok .data 6)], head := 3, tail := 5, fill := 2 })], firing := some f }
/-- The slot's node. -/
def nF : NodeRef := ⟨2, 0, 3, 1⟩
/-- A package whose actor slot in focus fires; its first capability entry names word 9 of the page's port cell. -/
def sF (f : Firing) (c : Cap := capOf 1 (relA 0 1) 65536 1023) : State :=
  let cell : Cell := { kind := .actor, slots := [(1, slotF f)], words := [(19, 0x80), (20, 0x8000000000000009)] }
  let port : Cell := { kind := .memory, words := [(64, field c.bits 0 64), (65, field c.bits 64 64)], ctags := [0] }
  { sP with focus := some nF, insts := [(1, instP), (2, { instP with cells := [(3, cell), (15, port)], hams := [82] })] }
/-- An instruction's fields. -/
def opF (t : Nat) (fl : Nat := 0) (imm : Nat := 0) (auxb : Nat := 0) (pred : Nat := 0) (t0 : Nat := 1024) : ActorOp :=
  { pred := BitVec.ofNat 2 pred, t0 := BitVec.ofNat 11 t0, t1 := BitVec.ofNat 11 525, imm := BitVec.ofNat 16 imm, ety := BitVec.ofNat 3 t
    rmode := 0, flags := BitVec.ofNat 2 fl, auxb := BitVec.ofNat 8 auxb }

theorem running_of {s : State} {n : NodeRef} {f : Firing} {o : ActorOp}
    (h : s.focus = some n ∧ s.nodeLive n = true ∧ (s.cellAt n).kind = .actor ∧ (s.slotAt n).firing = some f)
    (g : o.pred = 0) : Running s n f o := ⟨h.1, h.2.1, h.2.2.1, h.2.2.2, .inl g⟩

theorem running_if {s : State} {n : NodeRef} {f : Firing} {o : ActorOp}
    (h : s.focus = some n ∧ s.nodeLive n = true ∧ (s.cellAt n).kind = .actor ∧ (s.slotAt n).firing = some f)
    (v : Val) (g : opSlot f f.idx 3 = some (some v) ∧ v.poison = false ∧ v.data.getLsbD 0 = true) (p : o.pred = 1) :
    Running s n f o :=
  ⟨h.1, h.2.1, h.2.2.1, h.2.2.2, .inr ⟨v, g.1, g.2.1, fun _ => g.2.2, fun q => absurd (p.symm.trans q) (by decide)⟩⟩

/-- The firing of the next witnesses, and one in a close firing. -/
def f1 : Firing := fire vA vB vC
def f2 : Firing := fire vA vB vC true

theorem f1_runs : (sF f1).focus = some nF ∧ (sF f1).nodeLive nF = true ∧ ((sF f1).cellAt nF).kind = .actor ∧
    ((sF f1).slotAt nF).firing = some f1 := by decide +kernel
theorem f2_runs : (sF f2).focus = some nF ∧ (sF f2).nodeLive nF = true ∧ ((sF f2).cellAt nF).kind = .actor ∧
    ((sF f2).slotAt nF).firing = some f2 := by decide +kernel
theorem f1_has : f1.has 0 vA ∧ f1.has 1 vB ∧ f1.has 2 vC ∧ f1.has 3 vC := by unfold Firing.has; decide +kernel
theorem f2_has : f2.has 0 vA ∧ f2.has 1 vB ∧ f2.has 2 vC := by unfold Firing.has; decide +kernel

/-- ActorIntegers: B from a slot, and under a guard, and imm16. -/
theorem witness_ActorIntegers :
    Running (sF f1) nF f1 (opF 4) ∧ f1.has 0 vA ∧ f1.has 1 vB ∧ (opF 4).flags.getLsbD 0 = false ∧
    Running (sF f1) nF f1 (opF 1 0 0 0 1) ∧ (opF 1 1 0xfffe).flags.getLsbD 0 = true ∧ Running (sF f1) nF f1 (opF 1 1 0xfffe) :=
  ⟨running_of f1_runs rfl, f1_has.1, f1_has.2.1, rfl, running_if f1_runs vC (by decide +kernel) rfl, rfl, running_of f1_runs rfl⟩

/-- ActorFloats: three operands, at FP32 and BF16. -/
theorem witness_ActorFloats :
    Running (sF f1) nF f1 (opF 2) ∧ Running (sF f1) nF f1 (opF 3) ∧ f1.has 0 vA ∧ f1.has 1 vB ∧ f1.has 2 vC :=
  ⟨running_of f1_runs rfl, running_of f1_runs rfl, f1_has.1, f1_has.2.1, f1_has.2.2.1⟩

/-- ActorLanes: both kinds of SEL, and a comparison with imm16. -/
theorem witness_ActorLanes_selects :
    Running (sF f1) nF f1 (opF 2) ∧ (opF 2).t ≠ 7 ∧ (opF 2).flags.getLsbD 0 = false ∧ Running (sF f1) nF f1 (opF 7 1) ∧
    (opF 7 1).t = 7 ∧ (opF 7 1).flags.getLsbD 0 = true ∧ f1.has 0 vA ∧ f1.has 1 vB ∧ f1.has 2 vC :=
  ⟨running_of f1_runs rfl, by decide, rfl, running_of f1_runs rfl, rfl, rfl, f1_has.1, f1_has.2.1, f1_has.2.2.1⟩

/-- ActorLanes: both flags clear and set. -/
theorem witness_ActorLanes_moves :
    Running (sF f1) nF f1 (opF 4 0 3) ∧ (opF 4 0 3).flags = 0 ∧ Running (sF f1) nF f1 (opF 4 3 3) ∧ (opF 4 3 3).flags = 3 ∧
    f1.has 0 vA ∧ f1.has 1 vB :=
  ⟨running_of f1_runs rfl, rfl, running_of f1_runs rfl, rfl, f1_has.1, f1_has.2.1⟩

/-- ActorLanes: the video instructions. -/
theorem witness_ActorLanes_video :
    Running (sF f1) nF f1 (opF 0 1 0 3) ∧ Running (sF f1) nF f1 (opF 0 2 0 3) ∧ f1.has 0 vA ∧ f1.has 1 vB ∧ f1.has 2 vC :=
  ⟨running_of f1_runs rfl, running_of f1_runs rfl, f1_has.1, f1_has.2.1, f1_has.2.2.1⟩

/-- ActorValuesAndPorts: an output port with room and one without, held registers of both kinds; the last index of each. -/
theorem witness_ActorValuesAndPorts_delivery :
    let x := (sF f1).slotAt nF
    x.firing = some f1 ∧ mgetD f1.pend 4 0 < x.rateOut false 0 ∧ x.rateOut false 2 ≤ mgetD f1.pend 6 0 ∧
    (1024 : BitVec 11).toNat / 2 ^ 9 = 2 ∧ (1024 : BitVec 11).toNat / 4 % 128 = 0 ∧ (1032 : BitVec 11).toNat / 4 % 128 = 2 ∧
    (1596 : BitVec 11).toNat / 2 ^ 9 = 3 ∧ (1596 : BitVec 11).toNat / 4 % 128 = 15 ∧ (1600 : BitVec 11).toNat / 4 % 128 = 16 ∧
    (525 : BitVec 11).toNat / 2 ^ 9 = 1 ∧ x.outCtrl 0 = false := by
  decide +kernel

/-- ActorValuesAndPorts: a data firing and a close firing, tokens placed and pointers moved within the rate. -/
theorem witness_ActorValuesAndPorts :
    Running (sF f1) nF f1 (opF 0 0 1 4) ∧ f1.close = false ∧ Running (sF f2) nF f2 (opF 2 0 1 4) ∧ f2.close = true ∧
    f1.has 0 vA ∧ f1.has 1 vB ∧ 1 < ((sF f1).slotAt nF).rateOut f1.close 0 ∧
    mgetD f1.pend 4 0 + 1 ≤ ((sF f1).slotAt nF).rateOut f1.close 0 ∧ Running (sF f1) nF f1 (opF 5 0 1 4) :=
  ⟨running_of f1_runs rfl, rfl, running_of f2_runs rfl, rfl, f1_has.1, f1_has.2.1, by decide +kernel, by decide +kernel,
    running_of f1_runs rfl⟩

/-- A firing whose operand slot 1 is absent. -/
def f3 : Firing := { f1 with ops := [(8, some vA), (9, none), (11, some vC)] }

/-- ActorValuesAndPorts: a guard that does not hold, and an operand that is absent. -/
theorem witness_ActorValuesAndPorts_absence :
    let s := sF f1
    let t := sF f3
    s.focus = some nF ∧ s.nodeLive nF = true ∧ (s.cellAt nF).kind = .actor ∧ (s.slotAt nF).firing = some f1 ∧
    opSlot f1 2 3 = some (some vC) ∧ vC.poison = false ∧ vC.data.getLsbD 0 = true ∧ (opF 4 0 0 0 2).pred = 2 ∧
    ((actorEff (.iadd (opF 4 0 0 0 2))).map fun e => e.1) = some 16 ∧
    good (deliverTo s nF 1024 none) ∧ ((deliverTo s nF 1024 none).toOption.all fun t => good (deliverTo t nF 525 none)) ∧
    t.focus = some nF ∧ (t.slotAt nF).firing = some f3 ∧ opSlot f3 2 1 = some none ∧ (opF 4).pred = 0 ∧
    (slotsRead 16 0).testBit 1 = true ∧ good (deliverTo t nF 1024 none) := by
  decide +kernel

/-- Firings with scalar operands. -/
def f4 : Firing := fire vI vI vA
def f5 : Firing := fire vN vN vA
def f6 : Firing := fire vI vB vA
theorem f4_runs : (sF f4).focus = some nF ∧ (sF f4).nodeLive nF = true ∧ ((sF f4).cellAt nF).kind = .actor ∧
    ((sF f4).slotAt nF).firing = some f4 := by decide +kernel
theorem f5_runs : (sF f5).focus = some nF ∧ (sF f5).nodeLive nF = true ∧ ((sF f5).cellAt nF).kind = .actor ∧
    ((sF f5).slotAt nF).firing = some f5 := by decide +kernel
theorem f6_runs : (sF f6).focus = some nF ∧ (sF f6).nodeLive nF = true ∧ ((sF f6).cellAt nF).kind = .actor ∧
    ((sF f6).slotAt nF).firing = some f6 := by decide +kernel

/-- ActorMemoryAndTokens: operands that are not valid, poisoned, and valid. -/
theorem witness_ActorMemoryAndTokens :
    Running (sF f5) nF f5 (opF 0 0 1) ∧ vN.lowValid 32 = false ∧ vN.poison = false ∧ f5.has 0 vN ∧ f5.has 1 vN ∧
    Running (sF f6) nF f6 (opF 0 0 1) ∧ f6.has 0 vI ∧ f6.has 1 vB ∧ vB.poison = true ∧
    Running (sF f4) nF f4 (opF 0 0 1) ∧ f4.has 0 vI ∧ f4.has 1 vI ∧ vI.lowValid 32 = true ∧ vI.poison = false :=
  ⟨running_of f5_runs rfl, by decide +kernel, rfl, by unfold Firing.has; decide +kernel, by unfold Firing.has; decide +kernel,
    running_of f6_runs rfl, by unfold Firing.has; decide +kernel, by unfold Firing.has; decide +kernel, rfl,
    running_of f4_runs rfl, by unfold Firing.has; decide +kernel, by unfold Firing.has; decide +kernel, by decide +kernel, rfl⟩

/-- ActorMemoryAndTokens: the accesses, and a capability that faults. -/
theorem witness_ActorMemoryAndTokens_access :
    let s := sF f4
    let k := capOf 1 (relA 0 1) 65536 1023
    let x := s.nodeAcx nF
    let z := sF f4 (noTag k)
    let m := (List.range 64).map fun j => vI.mask.getLsbD (j * 8 / vI.width)
    slotCap s nF = .ok k ∧ windowBusy s (.node nF) = false ∧ good (capRead s x k 128 64 64 clLoad) ∧
    access s x k 72 8 8 clSyncLoad rR = .ok (.phys (scratchBase 81 + 72)) ∧ good (syncRead s x (scratchBase 81 + 72) false) ∧
    access s x k 128 64 64 clStore rW = .ok (.phys (scratchBase 81 + 128)) ∧
    good (writeMasked s x (.phys (scratchBase 81 + 128)) m (leBytes 64 vI.data.toNat)) ∧
    access s x k 72 8 8 clReduce rA = .ok (.phys (scratchBase 81 + 72)) ∧
    good (sendUpd s (.phys (scratchBase 81 + 72)) { src := .node nF, ctx := x.ctx, vf := x.vf, launch := 5, op := 1, val := vI.low }) ∧
    slotCap s nF = .ok k ∧ (trapOf (capRead s x k 65536 64 64 clLoad)).isSome ∧
    (trapOf (access s x k 65536 8 8 clSyncLoad rR)).isSome ∧ z.focus = some nF := by
  decide +kernel

/-- ActorMemoryAndTokens: room on the port and none, each marker, and side-call entries. -/
theorem witness_ActorMemoryAndTokens_tokens :
    Running (sF f4) nF f4 { opF 0 0 4 4 with t0 := 0, t1 := 0 } ∧
    Running (sF f4) nF f4 (opF 0 0 4 4) ∧ (opF 0 0 4 4).t0 ≠ 0 ∧ Running (sF f4) nF f4 (opF 0 0 0xA 6) ∧ f4.has 0 vI ∧ f4.has 1 vI ∧
    mgetD f4.pend 4 0 < ((sF f4).slotAt nF).rateOut f4.close 0 ∧ ((sF f4).slotAt nF).rateOut f4.close 2 ≤ mgetD f4.pend 6 0 ∧
    (opF 0 0 0xA).imm.toNat % 8 = 2 ∧ (opF 0 0 3).imm.toNat % 8 = 3 ∧ (opF 0 0 4).imm.toNat % 8 = 4 ∧
    sidePending (sF f4) nF 0 = false ∧ (((sF f4).cellAt nF).word 20).getLsbD 63 = true ∧ (liveGraph (sF f4) 5 9).isSome = true ∧
    (((sF f4).cellAt nF).word 21).getLsbD 63 = false ∧
    sidePending { sF f4 with sides := [(1, { node := nF, entry := 0, handle := 9 })] } nF 0 = true :=
  ⟨running_of f4_runs rfl, running_of f4_runs rfl, by decide, running_of f4_runs rfl, by unfold Firing.has; decide +kernel,
    by unfold Firing.has; decide +kernel, by decide +kernel, by decide +kernel, rfl, rfl, rfl, by decide +kernel, by decide +kernel, by decide +kernel, by decide +kernel,
    by decide +kernel⟩

/-! ### Operators and circuits -/

/-- A token of context 3, with data and lane validity. -/
def tk (k : TokKind) (d : Nat := 5) (m : Nat := 0xffff) (p : Bool := false) : Token :=
  { kind := k, data := BitVec.ofNat 512 d, mask := BitVec.ofNat 64 m, tag := mkTag 3 1 0 2, poison := p }
/-- Tokens of the next witnesses: plain, even and odd decisions, poisoned, markers, an exit, an empty token. -/
def t1 : Token := tk .data 0x100000005
def t2 : Token := tk .data 4
def t3 : Token := tk .data 5 0xffff true
def tEod : Token := tk (.eod 0)
def tEor : Token := tk .eor
def tExit : Token := tk .data (2 ^ 63 + 3)
def tPmk : Token := tk (.pmk false)
def t0 : Token := tk .data 0 0
/-- Another thread's token. -/
def tOther : Token := { t1 with tag := mkTag 3 2 7 2 }
/-- A cell by its used inputs and outputs and word 1, with what stands in its inputs. -/
def opCell (k : Kind) (i o w1 : Nat) (inb : SMap (List Token)) (nd : SMap NodeSt := []) (w2 : Nat := 0) : Cell :=
  { kind := k, words := [(0, BitVec.ofNat 64 (i * 16 + o * 256)), (1, BitVec.ofNat 64 w1), (2, BitVec.ofNat 64 w2)], inb := inb, nodes := nd }
/-- The operator's node, and a package with its cell and circuits. -/
def nO : NodeRef := ⟨2, 0, 3, 0⟩
def sO (c : Cell) (circs : List Circ := []) (l : Launch := launchU) : State :=
  { sP with launches := [(5, l)], insts := [(1, instP), (2, { instP with cells := [(3, c)], hams := [82], circs := circs })] }
/-- A circuit from the operator to cell 5. -/
def circO (credits : Nat) (fifo : List Token) : Circ :=
  { sp := 0, sc := 3, sport := 4, dp := 0, dc := 5, dport := 0, ctrl := false, links := [{ credits := credits, fifo := fifo }] }
/-- A FANOUT with a token in branch 4, and a cell 5 that its circuit feeds. -/
def sL (c : Circ) (d : Cell) : State :=
  { sP with insts := [(1, instP), (2, { instP with
      cells := [(3, { kind := .fanout, outq := [(4, [t1, tEor])] }), (5, d)], hams := [82], circs := [c] })] }

/-- LinksAndCredits: credits and none; a hop with credits and one without; a full buffer; a foreign context, a token after
EOS, a control word, a data token. -/
theorem witness_LinksAndCredits :
    let d := opCell .join 3 1 0 [(0, [t1])]
    let a := sL (circO 4 []) d
    let z := sL (circO 0 []) d
    let m := sL (circO 4 [t1]) d
    let f := sL (circO 4 [t1]) (opCell .join 3 1 0 [(0, List.replicate 8 t1)])
    let h (k : Nat) : Circ := { circO 4 [t1] with links := [{ fifo := [t1], credits := 3 }, { credits := k }] }
    let ctx := (m.instCtx 2).1
    (a.inst 2).isSome ∧ ((a.inst 2).bind fun x => x.circs[0]?) = some (circO 4 []) ∧ (circO 4 []).links[0]? = some ({} : Link) ∧
    ((circO 0 []).link 0).credits = 0 ∧ ((circO 4 []).link 0).credits = 4 ∧ (circO 4 []).srcRef 2 = nO ∧
    ((z.inst 2).bind fun x => x.circs[0]?) = some (circO 0 []) ∧ a.nodeLive nO = true ∧ (a.cellAt nO).kind = .fanout ∧
    mgetD (a.cellAt nO).outq 4 [] = [t1, tEor] ∧ (h 4).links[0]?.isSome ∧ (h 4).links[1]? = some ({} : Link) ∧
    (h 0).links[1]? = some ({ credits := 0 } : Link) ∧ (circO 4 [t1]).links.length = 0 + 1 ∧ (h 4).links.length = 1 + 1 ∧
    (circO 4 [t1]).links[0]? = some ({ fifo := [t1] } : Link) ∧ ((m.inst 2).any fun x => x.plane == .active) ∧
    (circO 4 [t1]).dstRef 2 = ⟨2, 0, 5, 0⟩ ∧ bufRoom m ⟨2, 0, 5, 0⟩ 0 = true ∧
    tagCtx t1.tag = ctx ∧ tagCtx (0 : W64) ≠ ctx ∧ 0 ∉ (m.cellAt ⟨2, 0, 5, 0⟩).closed ∧ t1.isPmk = false ∧ d.kind ≠ .fanout ∧
    d.kind ≠ .actor ∧ d.kind ≠ .memory ∧ bufRoom f ⟨2, 0, 5, 0⟩ 0 = false := by
  decide +kernel

/-- A slot with one instruction, with a firing, with marker heads or with queued writes. -/
def slotG (f : Option Firing) (heads : List Token) (w : List WinWrite) : Slot :=
  { hdr := BitVec.ofNat 128 (2 <<< 8 + 2 <<< 24), code := [0x30], valid := true, firing := f, writes := w
    ports := [(0, { slots := heads.zipIdx.map fun x => (x.2, x.1), tail := heads.length, fill := heads.length }),
      (4, { fill := 3, head := 2, tail := 5 })] }
def sG (x : Slot) : State := { sF f1 with insts := [(1, instP), (2, { instP with cells := [(3, { kind := .actor, slots := [(1, x)] })], hams := [82] })] }
/-- A firing that has moved its ports by their rates. -/
def fEnd : Firing := { pend := [(0, 2), (4, 2)], hw := [(3, ⟨5, true⟩)], qw := [(1, ⟨5, true⟩)], staged := [(0, t1), (1, t3)] }

/-- FiringsAndCommits: a firing under way, one that may begin, one that is not ready, agreeing and disagreeing markers
with and without a close firing, a queued write. -/
theorem witness_FiringsAndCommits :
    let a := sF f1
    let b := sG (slotG none [t1, t2] [])
    let e := sG (slotG none [] [])
    let m := sG (slotG none [tEor] [])
    let cl (x : Slot) : Slot := { x with hdr := x.hdr ||| 0x80 }
    let k := sG (cl (slotG none [tEor] []))
    let w := sG (slotG none [t1] [⟨32, [1, 2, 3]⟩])
    a.focus = some nF ∧ (a.cellAt nF).kind = .actor ∧ a.nodeLive nF = true ∧ (a.slotAt nF).firing = some f1 ∧
    b.nodeLive nF = true ∧ (b.slotAt nF).firing = none ∧ mayFire b nF = true ∧
    ((beginFiring b nF false ((b.slotAt nF).port 0 |>.at 0).tag).slotAt nF).firing.isSome = true ∧
    e.focus = some nF ∧ (e.slotAt nF).firing = none ∧ dataReady (e.slotAt nF) = false ∧
    headMarkers (m.slotAt nF) = some [tEor] ∧ closeDue (m.slotAt nF) tEor = false ∧ markerRoom (m.slotAt nF) false = true ∧
    mayTurn m nF (m.slotAt nF) = true ∧ slotFirst m nF = true ∧ m.nodeLive nF = true ∧ m.focus = some nF ∧
    (m.slotAt nF).valid = true ∧ (m.slotAt nF).done = false ∧ (m.slotAt nF).halted = false ∧ tEor.isPmk = false ∧
    (m.slotAt nF).firing = none ∧ sameMarker tEor tEod = false ∧
    k.nodeLive nF = true ∧ headMarkers (k.slotAt nF) = some [tEor] ∧ mayTurn k nF (k.slotAt nF) = true ∧ slotFirst k nF = true ∧
    closeDue (k.slotAt nF) tEor = true ∧ markerRoom (k.slotAt nF) true = true ∧ (k.slotAt nF).done = false ∧
    (k.slotAt nF).firing = none ∧ ((beginFiring k nF true tEor.tag).slotAt nF).firing.isSome = true ∧
    (w.slotAt nF).writes ≠ [] ∧ (w.slotAt nF).firing = none ∧ w.focus = some nF := by
  decide +kernel

/-- FiringsAndCommits: slots in each place of the order. -/
theorem witness_FiringsAndCommits_order :
    let y (r : Bool) (at_ : Nat) (wt wd : Nat) : Slot := { ready := r, readyAt := BitVec.ofNat 64 at_, weight := wt, waited := wd }
    let b (now : Nat) (p q : Slot) : Bool := slotBefore (BitVec.ofNat 64 now) (1, p) (2, q)
    b 9 (y true 8 0 64) (y true 2 5 63) = true ∧ b 9 (y true 1 9 0) (y true 8 0 64) = false ∧ b 9 (y true 3 0 0) (y false 0 5 0) = true ∧
    b 9 (y true 3 6 0) (y true 3 5 0) = true ∧ b 9 (y true 3 5 0) { y true 3 5 0 with hdr := 1 <<< 80 } = true ∧
    b 9 (y true 3 5 0) (y true 3 5 0) = true := by
  decide +kernel

/-- FiringsAndCommits: a firing that fits its rates, and one that does not. -/
theorem witness_FiringsAndCommits_commit :
    let a := sG (slotG (some fEnd) [t1, t2] [])
    let b := sG (slotG (some { fEnd with pend := [(0, 2)] }) [t1, t2] [])
    a.nodeLive nF = true ∧ (a.cellAt nF).kind = .actor ∧ (a.slotAt nF).firing = some fEnd ∧ (a.slotAt nF).writes = [] ∧
    (a.slotAt nF).source = false ∧ ((List.range 4).all fun p => mgetD fEnd.pend p 0 == (a.slotAt nF).inRate p
      && mgetD fEnd.pend (4 + p) 0 == (a.slotAt nF).rateOut false p) ∧ fEnd.close = false ∧ fEnd.marks = [] ∧
    ((a.slotAt nF).port 4).tail < 16 ∧ b.nodeLive nF = true ∧
    mgetD [(0, 2)] 4 0 ≠ (b.slotAt nF).rateOut false 0 := by
  decide +kernel

/-- What stands at the heads of inputs. -/
def dataHeads (c : Cell) (ps : List Nat) (ts : List Token) : Bool :=
  match c.heads ps with
  | .data l => l == ts
  | _ => false
/-- A marker at the heads of inputs. -/
def markHeads (c : Cell) (ps : List Nat) (k : TokKind) : Bool :=
  match c.heads ps with
  | .marker m => m.kind == k
  | .pmk m => m.kind == k
  | _ => false

/-- Operators: JOIN and STEER in their modes. -/
theorem witness_Operators_join_steer :
    let j (b : Token) := opCell .join 3 1 1 [(0, [t1]), (1, [b])]
    let st (m : Nat) (a b : Token) := opCell .steer 3 7 m [(0, [a]), (1, [b])] [] 5
    nodeOk (sO (j t2)) nO .join = true ∧ (j t2).isCalls = false ∧ (j t2).isRets = false ∧
    dataHeads (j t2) (j t2).ins [t1, t2] ∧ matches_ ((j t2).fld 1 0 3) t1.tag t2.tag = true ∧
    dataHeads (j tOther) (j tOther).ins [t1, tOther] ∧ matches_ ((j tOther).fld 1 0 3) t1.tag tOther.tag = false ∧
    canSend (sO (j t2)) nO 4 1 = true ∧ nodeOk (sO (st 0 t1 t2)) nO .steer = true ∧ canSend (sO (st 0 t1 t2)) nO 6 1 = true ∧
    dataHeads (st 0 t1 t2) [0, 1] [t1, t2] ∧ dataHeads (st 0 t1 t3) [0, 1] [t1, t3] ∧ t3.poison = true ∧ t2.poison = false ∧
    (st 1 t1 t2).fld 1 0 2 = 1 ∧ dataHeads (st 1 t1 t2) [0] [t1] ∧ dataHeads (st 1 t3 t2) [0] [t3] ∧ (st 2 t1 t2).fld 1 0 2 = 2 ∧
    canSend (sO (st 2 t1 t2)) nO 5 1 = true ∧ canSend (sO (st 2 t1 t2)) nO 4 1 = true := by
  decide +kernel

/-- Operators: MERGE and FILTER in their modes. -/
theorem witness_Operators_merge_filter :
    let g (m : Nat) (a b d : Token) := opCell .merge 7 1 m [(0, [a]), (1, [b]), (2, [d])]
    let f (m : Nat) (a b : Token) := opCell .filter 3 1 m [(0, [a]), (1, [b])]
    nodeOk (sO (g 0 t1 t2 t2)) nO .merge = true ∧ (g 0 t1 t2 t2).front 2 = some t2 ∧ t2.isMarker = false ∧
    (g 0 t1 t2 t3).front 2 = some t3 ∧ t3.poison = true ∧ (g 0 t1 t2 t2).front 1 = some t2 ∧ tEod.isMarker = true ∧ tEod.isPmk = false ∧
    canSend (sO (g 0 t1 t2 t2)) nO 4 1 = true ∧ (g 1 t1 t2 t2).fld 1 0 2 = 1 ∧
    (mergeKey (g 1 t1 t2 t2) (inPlane (sO (g 1 t1 t2 t2)) nO 0) t1).isSome = true ∧
    (mergeKey (g 1 t1 t2 t2) (inPlane (sO (g 1 t1 t2 t2)) nO 1) t2).isSome = true ∧ (g 5 t1 t2 t2).fld 1 2 1 = 1 ∧ (g 1 tEor t2 t2).front 0 = some tEor ∧ tEor.isMarker = true ∧ tEor.isPmk = false ∧
    mergeKey (g 1 tEor t0 t2) (inPlane (sO (g 1 tEor t0 t2)) nO 1) t0 = none ∧
    nodeOk (sO (f 0 t1 t2)) nO .filter = true ∧ canSend (sO (f 0 t1 t2)) nO 4 1 = true ∧ dataHeads (f 0 t1 t2) [0, 1] [t1, t2] ∧
    (f 1 t1 t1).fld 1 0 2 = 1 ∧ t1.data.getLsbD 0 = true ∧ t2.data.getLsbD 0 = false ∧ (f 2 t1 t2).fld 1 0 2 = 2 ∧
    dataHeads (f 2 t0 t2) [0] [t0] ∧ (t0.val (inPlane (sO (f 2 t0 t2)) nO 0) (f 2 t0 t2).width).mask = 0 ∧
    (t1.val (inPlane (sO (f 2 t1 t2)) nO 0) (f 2 t1 t2).width).mask ≠ 0 := by
  decide +kernel

/-- Operators: COALESCE with and without a full token, FANOUT with room, REDUCE in a group and at its end. -/
theorem witness_Operators_groups :
    let c (a : Token) (x : CoalSt) := opCell .coalesce 1 1 0 [(0, [a])] [(0, .coal x)]
    let few : CoalSt := { lanes := [4], tag := 7 }
    let o := opCell .fanout 1 5 0x10000 [(0, [t1])]
    let r (a b : Token) := opCell .reduce 3 1 0 [(0, [a]), (1, [b])] [(0, .red { accs := List.replicate 16 (some 3), any := true, tag := 9 })]
    let lanes (t : Token) := (t.val (inPlane (sO (c t few)) nO 0) (c t few).width).lanes (c t few).width
    nodeOk (sO (c t0 few)) nO .coalesce = true ∧ dataHeads (c t0 few) [0] [t0] ∧
    (few.lanes ++ (lanes t0).filterMap id).length < 512 / (c t0 few).width ∧ dataHeads (c t1 few) [0] [t1] ∧
    512 / (c t1 few).width ≤ (few.lanes ++ (lanes t1).filterMap id).length ∧ canSend (sO (c t1 few)) nO 4 1 = true ∧
    nodeOk (sO o) nO .fanout = true ∧ o.front 0 = some t1 ∧ t1.isPmk = false ∧
    (o.outs.all fun p => nth0 (branchCounts (sO o) nO) (p - 4) < o.fld 1 (4 * (p - 4)) 4 + 1 && (mgetD o.outq p []).length < 16) ∧
    nodeOk (sO (r t1 t2)) nO .reduce = true ∧ dataHeads (r t1 t2) (r t1 t2).ins [t1, t2] ∧ markHeads (r tEor tEor) [0, 1] .eor ∧
    redCloses (r tEor tEor) .eor = true ∧ canSend (sO (r tEor tEor)) nO 4 2 = true := by
  decide +kernel

/-- CountsLoopsAndMarkers: INDEX at a count, within it, by sixteen, and at its markers. -/
theorem witness_CountsLoopsAndMarkers_index :
    let c (w1 : Nat) (x : CountSt) := opCell .count 1 7 w1 [(0, [t1])] [(0, .count x)]
    let x : CountSt := { busy := true, n := 7, next := 2, marks := 3 }
    nodeOk (sO (c 0x900 {})) nO .count = true ∧ (c 0x900 {}).fld 1 0 2 = 0 ∧ (c 0x900 {}).front 0 = some t1 ∧ t1.isMarker = false ∧
    t1.poison = false ∧ canSend (sO (c 0x900 x)) nO 4 1 = true ∧ (c 0x900 x).countSt = x ∧ x.next < x.n ∧
    (c 0x900 x).fld 1 12 1 = 0 ∧ (c 0x1900 x).fld 1 12 1 = 1 ∧ (c 0x900 { x with next := 7 }).countSt.marks % 2 = 1 ∧
    (c 0x900 { x with next := 7, marks := 2 }).countSt.marks = 2 := by
  decide +kernel

/-- CountsLoopsAndMarkers: LOOP before, at and after an exit; the head of a loop in both phases. -/
theorem witness_CountsLoopsAndMarkers_loop :
    let c (a : List Token) (x : CountSt) := opCell .count 1 7 0x1d [(0, a)] [(0, .count x)]
    let x : CountSt := { issued := 3, got := 2, decided := 2 }
    let l (a b d : List Token) (x : LoopSt) := opCell .merge 7 1 2 [(0, a), (1, b), (2, d)] [(0, .loop x)]
    let y : LoopSt := { started := true, looping := true, issued := 3, iter := 2 }
    nodeOk (sO (c [] x)) nO .count = true ∧ (c [] x).fld 1 0 2 = 1 ∧ (c [t2] x).front 0 = some t2 ∧ (c [] x).front 0 = none ∧
    x.issued - x.got < (c [] x).fld 1 2 6 + 1 ∧ ((List.range 3).all fun p => canSend (sO (c [] x)) nO (4 + p) 1) ∧
    (c [] { x with decided := 1 }).countSt.decided < 2 ∧ (c [] { x with exit := some 1 }).countSt.exit = some 1 ∧
    (c [] { x with exit := some 1, exitSent := true }).countSt.exitSent = true ∧ 2 < x.issued ∧
    (c [] { x with ended := true, issued := 2 }).countSt.ended = true ∧ (2 : Nat) ≤ x.decided ∧
    { y with r0 := tagRound t2.tag }.iterOf t2 < y.issued ∧ { y with r0 := tagRound tEor.tag }.iterOf tEor < y.iter ∧
    y.iter ≤ { y with r0 := tagRound tEor.tag + 4094, exit := some 1 }.iterOf tEor ∧ t2.isPmk = false ∧ t2.kind ≠ .eos ∧
    nodeOk (sO (l [t1] [t2] [t2] {})) nO .merge = true ∧ (l [t1] [t2] [t2] {}).fld 1 0 2 = 2 ∧
    (l [t1] [t2] [t2] {}).front 2 = some t2 ∧ (l [t1] [t2] [tExit] {}).front 2 = some tExit ∧ tExit.scalar.getLsbD 63 = true ∧
    (l [t1] [t2] [] { started := true }).front 2 = none ∧ (l [tEor] [t2] [] { started := true }).front 0 = some tEor ∧
    (l [t1] [t2] [] y).loopSt = y ∧ y.iter < y.issued ∧ (l [t1] [t2] [] y).front 1 = some t2 ∧ (some 2).any (fun e => decide (e ≤ y.iter)) = true ∧
    canSend (sO (l [t1] [t2] [] y)) nO 4 1 = true := by
  decide +kernel

/-- CountsLoopsAndMarkers: agreeing and disagreeing markers, a source of a launch in GATING, PMK on every input. -/
theorem witness_CountsLoopsAndMarkers_markers :
    let j (a b : Token) := opCell .join 3 1 0 [(0, [a]), (1, [b])]
    let f := opCell .filter 3 1 2 [(0, [tEor]), (1, [t3])]
    let g := sO { kind := .memory, words := [(32, 0x8000)] } [] { launchU with st := .gating }
    nodeOk (sO (j tEod tEod)) nO .join = true ∧ (j tEod tEod).isCalls = false ∧ (j tEod tEod).isRets = false ∧
    markHeads (j tEod tEod) (j tEod tEod).ins (.eod 0) ∧ ((j tEod tEod).outs.all fun p => canSend (sO (j tEod tEod)) nO p 1) = true ∧
    (match (j tEod tEor).heads (j tEod tEor).ins with
     | .bad => true
     | _ => false) = true ∧ markHeads f [0] .eor ∧ nodeOk (sO f) nO .filter = true ∧
    g.gating 2 = true ∧ g.nodeLive { nO with sub := 4 } = true ∧ pmkSentBy g { nO with sub := 4 } = false ∧
    declUsed 0x8000 = true ∧ declDir 0x8000 = false ∧ (g.sport (g.nodeHam nO) 0).midRound = false ∧ canSend g { nO with sub := 4 } 0 1 = true ∧
    markHeads (j tPmk tPmk) (j tPmk tPmk).ins (.pmk false) ∧ (sO (j tPmk tPmk)).nodeLive nO = true := by
  decide +kernel

/-! ### MEMORY nodes, mills and calls -/

/-- A port cell with one MEMORY node of a mode and element size, with capability 1. -/
def memCell (mode es : Nat) (inb : SMap (List Token)) (x : MemSt := {}) (extra : Nat := 0) (c : Cap := capOf 1 (relA 0 1) 65536 1023) :
    Cell :=
  { kind := .memory, words := [(0, 0x10), (1, BitVec.ofNat 64 (mode + es * 8 + 2 ^ 14 + extra)), (66, field c.bits 0 64), (67, field c.bits 64 64)]
    ctags := [1], inb := inb, nodes := [(0, .mem x)] }
/-- The node, and a package with it. -/
def nM : NodeRef := ⟨2, 0, 15, 0⟩
def sM (c : Cell) : State := { sP with insts := [(1, instP), (2, { instP with cells := [(15, c)], hams := [82] })] }
/-- Its arguments, where tokens stand at its heads. -/
def readyArgs (c : Cell) : Option MemArgs :=
  match memHeads c 0 with
  | .ready m => some m
  | _ => none
/-- An offset, and two offsets. -/
def tAt : Token := { t1 with data := 0x48 }
def tTwo : Token := { t1 with data := 0x4800000040, mask := 3 }

/-- MemoryNodes: each mode with its tokens, heads that wait and that disagree; a commit bit that is clear; a poisoned write
of an iteration that commits; a full queue. -/
theorem witness_MemoryNodes :
    let ok (mode : Nat) (c : Cell) (f : MemArgs → Bool) : Bool :=
      nodeOk (sM c) nM .memory && memValid c 0 && memMode c 0 == mode && (readyArgs c).any f
    let runs (c : Cell) (m : MemArgs) : Bool :=
      m.go && !m.poison && !m.cpoison && ((c.memSt 0).queue.length + (memAccs c 0 0 m).length ≤ 16 : Bool)
    let c0 := memCell 0 3 [(16, [tAt])]
    let c1 := memCell 1 3 [(16, [tAt]), (17, [t1])]
    let c2 := memCell 2 2 [(16, [tTwo])]
    let c3 := memCell 3 2 [(16, [tTwo]), (17, [t1])]
    let c4 := memCell 4 2 [(16, [tTwo]), (17, [t1])] {} 0x40
    let full := memCell 0 3 [(16, [tAt])] { queue := List.replicate 16 ⟨1, 0, 0, [], []⟩ }
    ok 0 c0 (runs c0) = true ∧ ok 1 c1 (runs c1) = true ∧ ok 2 c2 (runs c2) = true ∧ ok 3 c3 (runs c3) = true ∧
    ok 4 c4 (runs c4) = true ∧ ok 0 full (fun m => m.go && !runs full m) = true ∧
    memHeads (memCell 1 3 [(16, [tAt])]) 0 = .wait ∧ memHeads (memCell 1 3 [(16, [tAt]), (17, [tEor])]) 0 = .bad ∧
    ((readyArgs (memCell 1 3 [(16, [tAt]), (17, [t1]), (19, [t2])] {} 0x2000)).any fun m => !m.go && !m.cpoison) = true ∧
    ((readyArgs (memCell 1 3 [(16, [tAt]), (17, [t3])])).any fun m => m.go && m.poison) = true := by
  decide +kernel

/-- MemoryNodes: an access behind one of the same word, one that completes, and one that waits. -/
theorem witness_MemoryNodes_queue :
    let a : MemAcc := ⟨1, 0, 0x48, leBytes 8 5, List.replicate 8 true⟩
    let b : MemAcc := ⟨1, 0, 0x49, leBytes 8 6, List.replicate 8 true⟩
    let t : MemTok := { tok := 1, addr := tAt }
    let c := memCell 1 3 [] { queue := [a], toks := [t] }
    let far := memCell 0 3 [] { queue := [a], toks := [t] } 0 (capOf 0 0x900000 65536 1023)
    ((c.memSt 0).toks.find? fun y => y.tok == a.tok) = some t ∧ memMeets c 0 a b = true ∧ memMeets c 0 a { b with off := 0x50 } = false ∧
    good (memPerform (sM c) nM t a) ∧ (match memPerform (sM far) nM t a with
      | .error (.wait _ _) => true
      | _ => false) = true := by
  decide +kernel

/-- An update of the node in a window. -/
def updM : SUpd :=
  { srcs := [.node nM], tok := 1, ordered := true, addr := 0, n := 8, op := 1, val := 0, round := 0, idx := 0, full := true, ctx := 3, vf := 2, launch := 5 }

/-- MemoryNodes: one element of each kind, inside and outside the declared range, and results that may leave. -/
theorem witness_MemoryNodes_element :
    let c := memCell 0 3 [(16, [tAt])]
    let s := sM c
    let r : MemArgs := ⟨tAt, t1, t2, true, false, false⟩
    let w := sM (memCell 1 3 [])
    let o := sM (memCell 0 2 [] { out := [t1, t2], ord := [t3] })
    r.a.mask.getLsbD 0 = true ∧ r.d.mask.getLsbD 0 = true ∧ memEsize c 0 < 6 ∧ r.a.scalar.toNat % 2 ^ 40 = 0x48 ∧
    memLoc s nM 0x48 8 clLoad rR = .ok (.phys (scratchBase 81 + 0x48)) ∧ good (loadLoc s (s.nodeAcx nM) (.phys (scratchBase 81 + 0x48)) 8) ∧
    ({ tok := 1, addr := tAt, vals := [(0, 5)] } : MemTok).bad = [] ∧ memMode (w.cellAt nM) 0 = 1 ∧
    (trapOf (memLoc s nM 0x10000 8 clLoad rR)).isSome ∧ (trapOf (memLoc w nM 0x10000 8 clStore rW)).isSome ∧
    memLoc w nM 0x48 8 clStore rW = .ok (.phys (scratchBase 81 + 0x48)) ∧
    good (writeMasked w (w.nodeAcx nM) (.phys (scratchBase 81 + 0x48)) (List.replicate 8 true) (leBytes 8 5)) ∧
    t0.mask.getLsbD 0 = false ∧ nodeOk o nM .memory = true ∧ canSend o nM (memBase 0 + 4) 1 = true ∧ canSend o nM (memBase 0 + 5) 1 = true ∧
    memSettled o nM = true ∧ memSettled { o with windows := [(9, [updM])] } nM = false := by
  decide +kernel

/-- A row-major descriptor of 8 by 8 elements in the scratchpad. -/
def rowDesc (off fmt : Nat) : Desc :=
  ⟨BitVec.ofNat 512 (leNat (leBytes 16 (capOf 1 (relA 0 1) 65536 1023 off).bits.toNat ++ [BitVec.ofNat 8 fmt, 0, 0, 0] ++ leBytes 4 8
    ++ leBytes 4 8 ++ leBytes 4 1 ++ leBytes 4 1 ++ leBytes 5 64 ++ leBytes 5 512 ++ leBytes 18 0)), true⟩

/-- WarpConvertAndMills: a WARP that reads, a CONVERT with a token and with results, a mill's load and its end. -/
theorem witness_WarpConvertAndMills :
    let w := opCell .warp 1 7 0 [(0, [t1])] [(0, .warp { feat := rowDesc 0x1000 0, err := rowDesc 0x2000 0 })]
    let r := t1.scalar.toNat
    let x : Int := 16 * (r % 2 ^ 16 : Nat) + sgn 16 (r / 2 ^ 32 % 2 ^ 16)
    let y : Int := 16 * (r / 2 ^ 16 % 2 ^ 16 : Nat) + sgn 16 (r / 2 ^ 48 % 2 ^ 16)
    let v := opCell .convert 1 1 (1 + 2 * 256) [(0, [t1])]
    let z := opCell .convert 1 1 (1 + 2 * 256) [(0, [t1])] [(0, .conv { out := [t1, t2] })]
    nodeOk (sO w) nO .warp = true ∧ w.front 0 = some t1 ∧ t1.isMarker = false ∧ (w.outs.all fun p => canSend (sO w) nO p 1) = true ∧
    good (warpReads (sO w) ((sO w).nodeAcx nO) w.warpSt.feat w.warpSt.err (w.fld 1 8 8 != 0) (warpUnits x y)) ∧
    nodeOk (sO v) nO .convert = true ∧ v.convSt.out = [] ∧ v.convSt.out1 = [] ∧ v.front 0 = some t1 ∧
    good (convScales (sO v) nO v v.convSt (tokenElems v.sfmt t1).length) ∧ z.convSt.out = [t1, t2] ∧ canSend (sO z) nO 4 1 = true := by
  decide +kernel

/-- WarpConvertAndMills: a mill in each of its phases. -/
theorem witness_WarpConvertAndMills_mill :
    let m (w1 : Nat) (a b : List Token) (x : MacSt) := opCell .mac 3 1 w1 [(0, a), (1, b)] [(0, .mac x)] 0x20000
    let up : MacSt := { loaded := true, wtoks := [t1, t1] }
    let tokens (c : Cell) := packTokens c.afmt c.millK
    let c := m 0x0f00 [t1] [t1] up
    let d := m 0x0f0f [tEod] [tEod] {}
    let r := m 0x8f00 [tEor] [tEor] { rows := [(3, [false])] }
    let acc := m 0x8f00 [t1] [t1] { up with atoks := [t2] }
    millOk (sO (m 0x0f0f [t1] [] {})) nO = true ∧ (m 0x0f0f [t1] [] {}).macSt.loaded = false ∧ (m 0x0f0f [t1] [] {}).front 0 = some t1 ∧
    (m 0x0f0f [t1] [] {}).front 1 = none ∧ d.front 0 = some tEod ∧ tEod.kind = .eod 0 ∧ 0 ≠ d.ncol * packTokens d.wfmt d.millK ∧
    d.ncol * packTokens d.wfmt d.millK = 2 ∧ fmtBlock d.wfmt = 0 ∧
    millOk (sO (m 0x0f0f [t1] [t1] { out := [t1] })) nO = true ∧ canSend (sO (m 0x0f0f [t1] [t1] { out := [t1] })) nO 4 1 = true ∧
    millOk (sO c) nO = true ∧ c.front 1 = some t1 ∧ 1 < tokens c ∧ tokens c ≤ 2 ∧ (m 0x8f00 [t1] [t1] { up with atoks := [t2], row := 32 }).accBit = true ∧
    canSend (sO c) nO 4 (min (cdiv c.ncol 16) 4) = true ∧
    canSend (sO c [circO 0 []]) nO 4 (min (cdiv c.ncol 16) 4) = false ∧ millOk (sO c [circO 0 []]) nO = true ∧
    c.accBit = false ∧ bankHeld (sO c) nO c = false ∧ bankHeld { sO acc with bankWait := [(.reeve 81, accCell ((sO acc).nodeHam nO) 3, acc.bank)] } nO acc = true ∧
    acc.front 1 = some t1 ∧ acc.macSt.out = [] ∧ acc.accBit = true ∧ acc.macSt.row < 32 ∧ acc.macSt.loaded = true ∧ good (rowScales (sO c) ((sO c).nodeAcx nO) c.afmt c.macSt.adesc c.macSt.asdesc 0 0 c.millK) ∧
    (m 0x0f00 [t1] [tEod] { up with atoks := [t2] }).macSt.atoks ≠ [] ∧ (m 0x0f00 [t1] [tEod] up).macSt.atoks = [] ∧
    millOk (sO r) nO = true ∧ markHeads r [0, 1] .eor ∧ r.accBit = true ∧ markHeads (m 0x0f00 [tEor] [tEor] {}) [0, 1] .eor ∧
    (m 0x0f00 [tEor] [tEor] {}).accBit = false ∧ fmtInt 15 = true ∧ fmtInt 19 = true := by
  decide +kernel

/-- A call site or return site JOIN with words gathered. -/
def siteCell (w1 : Nat) (j : JoinSt) : Cell := opCell .join 1 1 w1 [] [(0, .join j)] 9
/-- An instance with it, and a package in which it calls graph 9 of two arguments. -/
def instC (w1 : Nat) (j : JoinSt) : Inst :=
  { instP with graph := { graph0 with handle := 10, nentry := 1, nresult := 1 }, cells := [(3, siteCell w1 j)], hams := [82], depth := 3 }
def sC (i : Inst) (l : Launch := launchU) : State :=
  { sP with launches := [(5, l)], insts := [(1, { instP with graph := { graph0 with nentry := 2 } }), (2, i)]
            hamlets := sP.hamlets ++ [(82, { place := .occupied, ctx := 3, owner := some 2 })] }

/-- CallsAndReturns: a call that is made, one of the wrong count, one of an absent graph, one too deep, and the freeze point. -/
theorem witness_CallsAndReturns_call :
    let i := instC 0x1100 { words := [1, 2] }
    let s := sC i
    let g : Graph := { graph0 with nentry := 2 }
    let wide : Graph := { g with pages := List.replicate 100 [] }
    let t : State := { sC i with insts := [(1, { instP with graph := wide }), (2, i)] }
    let f := sC { i with plane := .freezing, call := some (nO, [1, 2], 7) }
    let busy := sC { i with plane := .freezing, call := some (nO, [1, 2], 7), circs := [{ circO 4 [t1] with links := [{ returned := 1 }] }] }
    let z := (freezePorts (abandonAll f 2) 2).updInst 2 fun x => { x with plane := .shadow }
    s.inst 2 = some i ∧ s.launchOf 5 = some launchU ∧ nodeOk s nO .join = true ∧ (s.cellAt nO).isCalls = true ∧ siteFull (s.cellAt nO) = true ∧
    i.plane = .active ∧ launchU.st = .running ∧ liveGraph s 5 ((s.cellAt nO).fld 2 0 8) = some g ∧
    (s.cellAt nO).joinSt.words.length = g.nentry ∧ placeRefusal (vfHamlets s launchU.vf) g (calleeFixed i g) = none ∧
    liveGraph t 5 9 = some wide ∧ placeRefusal (vfHamlets t launchU.vf) wide (calleeFixed i wide) = some 8 ∧ siteFull (siteCell 0x100 { words := [1] }) = true ∧
    liveGraph { s with insts := [(2, i)] } 5 9 = none ∧ 64 ≤ ({ i with depth := 64 } : Inst).depth ∧
    settled f 2 = true ∧ shadowRoom f i.hams = true ∧
    shadowRoom { f with insts := f.insts ++ [(3, { i with plane := .shadow }), (4, { i with plane := .shadow })] } i.hams = false ∧
    ({ i with plane := .shadow, call := some (nO, [1, 2], 7) } : Inst).call.isSome ∧ (z.inst 2).isSome ∧ settled busy 2 = false := by
  decide +kernel

/-- CallsAndReturns: planes that leave and come back; returns to ports and to a caller, held while GATING. -/
theorem witness_CallsAndReturns_planes :
    let r := instC 0x1200 { words := [1, 2] }
    let s := sC r
    let w := { sC { r with kind := .stacked 1 nO } with insts := [(1, { instC 0x1100 {} with plane := .shadow }), (2, { r with kind := .stacked 1 nO })] }
    let p := (sC { r with plane := .refilling }).setCtx 3 { vf := 2, spill := [(2, r)] }
    (s.cellAt nO).isRets = true ∧ nodeOk s nO .join = true ∧ siteFull (s.cellAt nO) = true ∧ saving s 2 = false ∧ r.kind = .base ∧
    saving (sC r { launchU with st := .gating }) 2 = true ∧ nodeOk (sC r { launchU with st := .gating }) nO .join = true ∧
    (s.cellAt nO).joinSt.held = none ∧ (sC { r with kind := .stacked 1 nO }).inst 2 = some { r with kind := .stacked 1 nO } ∧
    ((spillArea p 2).find? (·.1 == 2)) = some (2, r) ∧ r.hops = [] ∧ ((p.inst 2).any fun x => x.plane == .refilling) ∧
    saving w 2 = false ∧ planeOf w 1 = .shadow ∧ (graphInsts w.insts.length w 2).any (repliesOwed w) = false ∧
    ((w.inst 1).any fun y => thawRoom w 1 y (graphInsts w.insts.length w 2) && good (thawBlocks w 1 y)) = true ∧
    ((sC { r with plane := .spilling }).inst 2).isSome := by
  decide +kernel

/-- A side call of graph 9 with two arguments from an actor slot, and its callee. -/
def sSide : State :=
  let cell : Cell := { kind := .actor, slots := [(1, slotF f4)], words := [(22, 0x8000000000000309)] }
  { sP with
    insts := [(1, { instP with graph := { graph0 with nentry := 2, pages := [[]] } }), (2, { instP with graph := { graph0 with handle := 10 }, cells := [(3, cell)], hams := [82] })]
    sides := [(7, ⟨nF, 2, 9, []⟩)], ready := List.range 256 }

/-- CallsAndReturns: a side call that is placed, one outside the partition, and a callee that has finished. -/
theorem witness_CallsAndReturns_side :
    let s := sSide
    let g : Graph := { graph0 with nentry := 2, pages := [[]] }
    let part := vfHamlets s 2
    let c : State := { takeHams s 3 [83] with sides := [(7, ⟨nF, 2, 9, [83]⟩)] }
    let d : State := { s with insts := s.insts ++ [(3, { instC 0x1200 {} with kind := .side nF 2 })], sides := [] }
    mget s.sides 7 = some ⟨nF, 2, 9, []⟩ ∧ s.nodeLive nF = true ∧ s.gating 2 = false ∧ liveGraph s (s.instLaunch 2) 9 = some g ∧
    ((List.range 4).filter fun p => (sideWord s ⟨nF, 2, 9, []⟩).testBit (8 + p)).length = 2 ∧ placeRefusal part g [] = none ∧
    placeRefusal [] g [] = some 8 ∧ mget c.sides 7 = some ⟨nF, 2, 9, [83]⟩ ∧
    ([639].any fun h => !part.contains h) = true ∧ ([83].any fun h => !part.contains h) = false ∧ legalHams part g [] [83] = true ∧
    allFree s [83] = true ∧
    ((placeOn c (c.instLaunch 2) (c.instCtx 2).1 g (.side nF 2) 0 [83] (sideCircs c ⟨nF, 2, 9, [83]⟩ g)).toOption.any fun u => u.2.isSome) ∧
    ((d.inst 3).any fun x => x.plane == .active && sideDone d x) ∧ repliesOwed d 3 = false := by
  decide +kernel

/-! ### Streams, copies, walks, the host and peers -/

/-- A stream specification of 2 by 2 doublewords in the scratchpad. -/
def spec0 (dir : Bool) : Spec :=
  { xid := 3, cap := capOf 1 (relA 0 1) 65536 1023, count := [2, 2, 1, 1], stride := [8, 32, 0, 0], esize := 3, window := 3, mark := 9
    desc := Desc.raw, red := 0, cls := 0, dir := dir, comp := .none }
/-- A port of the acting hamlet with a stream in flight. -/
def sSt (q : SPort) (p : Nat) : State :=
  { sP.updMe fun r => { r with nextX := 9, xfers := [(3, { kind := .stream p, comp := .none, cls := 1 })] } with ports := [(81 * 16 + p, q)] }
/-- A copy in flight as transfer 4. -/
def copy0 (pos : Nat) : Xfer :=
  { kind := .copy, comp := .none, cls := 1, src := capOf 1 (relA 0 1) 65536 1023, dst := capOf 1 (relA 0 1) 65536 1023 0x4000, len := 0x55, pos := pos }
def sCp (pos : Nat) : State := sP.updMe fun r => { r with xfers := [(4, copy0 pos)] }
/-- An update of the copy in a sparse-update window. -/
def updC : SUpd :=
  { srcs := [.copy 81 4], tok := 1, ordered := true, addr := scratchBase 81 + 8, n := 8, op := 1, val := 5, round := 0, idx := 0, full := false, ctx := 3, vf := 2, launch := 5 }

/-- StreamsCopiesAndClears: a stream that starts, reads, sends its markers and ends. -/
theorem witness_StreamsCopiesAndClears_out :
    let a := sSt { pending := [spec0 false] } 1
    let x : Stream := (spec0 false).begin
    let b := sSt { cur := some x } 1
    let late : State := { b with insts := (sRound 2048).insts }
    (a.sport 81 1).pending = [spec0 false] ∧ (a.sport 81 1).cur = none ∧ xfersMove a 81 = true ∧ xfersMove b 81 = true ∧
    (b.sport 81 1).cur = some x ∧ (cellOfHam b 81 15).isSome ∧ ((mget (b.reeve 81).xfers 3).any (barred b 81 3)) = false ∧
    ((cellOfHam b 81 15).any fun c => b.nodeLive c.1 && b.sourceMay c.1 false) ∧ x.phase = .elem ∧ (b.sport 81 1).buf.length < x.spec.window ∧
    roundHeld b ⟨1, 0, 15, 0⟩ 0 = false ∧ (b.sport 81 1).sent = 0 ∧
    (cellOfHam b 81 15).map (·.1) = some ⟨1, 0, 15, 0⟩ ∧ roundHeld late ⟨1, 0, 15, 0⟩ (late.sport 81 1).round = true ∧
    (match access b (streamAcx b 81 1) x.spec.cap x.offset 8 8 clLoad.engine rR with
     | .ok l => (match issueTo b (.stream 81 1) (b.reeve 81).vf (unitAt l).toList with
       | .ok w => good (capReadNat w (streamAcx b 81 1) x.spec.cap x.offset 8 8 clLoad.engine)
       | .error _ => false)
     | .error _ => false) = true ∧ x.spec.mark.getLsbD 0 = true ∧ x.spec.mark.getLsbD 1 = false ∧
    x.spec.mark.getLsbD 3 = true ∧ ((sSt { cur := some { x with phase := .mark 0 } } 1).sport 81 1).cur = some { x with phase := .mark 0 } ∧
    allPerformed b (.stream 81 1) = true ∧ allPerformed { b with windows := [(3, [{ updC with srcs := [.stream 81 1] }])] } (.stream 81 1) = false := by
  decide +kernel

/-- StreamsCopiesAndClears: a stream to memory with tokens, with a part of one, and at its end. -/
theorem witness_StreamsCopiesAndClears_in :
    let x : Stream := (spec0 true).begin
    let a := sSt { buf := [t1, t2], cur := some x } 2
    let e : Stream := { x with phase := .eor }
    let b := sSt { cur := some { x with part := some t1 } } 2
    (cellOfHam a 81 15).isSome ∧ (a.sport 81 2).cur = some x ∧ x.part = none ∧ x.phase ≠ .done ∧ (a.sport 81 2).buf = [t1, t2] ∧ t1.kind = .data ∧
    (x.skip 3).more = true ∧ t1.poison = false ∧ (e.skip 3).more = false ∧ x.spec.dir = true ∧ t1.mask.getLsbD 0 = true ∧ t0.mask.getLsbD 0 = false ∧
    x.spec.comp ≠ .full ∧ ({ x.spec with comp := .full } : Spec).comp = .full ∧ good (writeElement b 81 2 { x with part := some t1 } t1.tag 5) ∧ ((mget (a.reeve 81).xfers 3).any (barred a 81 3)) = false := by
  decide +kernel

/-- StreamsCopiesAndClears: a copy under way and done; an update that may apply and one that waits; clears before and after
their time. -/
theorem witness_StreamsCopiesAndClears_rest :
    let s := sCp 3
    let d := sCp 0x55
    let w := [{ updC with idx := 1 }, { updC with idx := 0 }]
    let m := [{ updC with ordered := false }, { updC with srcs := [.copy 81 5], ordered := false }]
    let c (cycle : Nat) : State := { sP with hamlets := [(81, { clearFor := some (4, 7), place := .clearing })], sliceClear := [(9, (4, 7))], cycle := BitVec.ofNat 64 cycle }
    mget (s.reeve 81).xfers 4 = some (copy0 3) ∧ barred s 81 4 (copy0 3) = false ∧ xfersMove s 81 = true ∧ (copy0 3).pos < (copy0 3).len ∧ (copy0 3).red = 0 ∧
    (match issueTo s (.copy 81 4) (s.reeve 81).vf (copyUnits s 81 4 (copy0 3) (min (0x55 - 3) (64 - ((copy0 3).dst.addr + 3) % 64))) with
     | .ok w => good (copyPart w 81 4 (copy0 3) (min (0x55 - 3) (64 - ((copy0 3).dst.addr + 3) % 64)))
     | .error _ => false) = true ∧ min (0x55 - 0x50) (64 - ((copy0 0x50).dst.addr + 0x50) % 64) = 0x55 - 0x50 ∧
    ({ copy0 0x50 with comp := .full } : Xfer).comp = .full ∧ (copy0 0x55).len ≤ (copy0 0x55).pos ∧
    allPerformed d (.copy 81 4) = true ∧ allPerformed { d with windows := [(3, [updC])] } (.copy 81 4) = false ∧
    mayApply w 0 = false ∧ mayApply w 1 = true ∧ mayMerge m 0 1 = true ∧ mayMerge w 0 1 = false ∧
    ((c 1030).ham 81).clearFor = some (4, 7) ∧ ((c 1030).cycle - 7).toNat < 1024 ∧ 1024 ≤ ((c 1031).cycle - 7).toNat ∧
    mget (c 1031).sliceClear 9 = some (4, 7) ∧ ((c 262150).cycle - 7).toNat < 262144 ∧ 262144 ≤ ((c 262151).cycle - 7).toNat := by
  decide +kernel

/-- An invalidation of a page, and a request for a walk. -/
def inv0 : InvEntry := { kind := 0, id := 3, start := 0x10000, len := 0x10000, word := scratchBase 81 + 0x40 }
def walk0 (run : Bool) : Walk := { id := 5, parish := 4, ctx := 3, vf := 2, va := 0x20000, need := 1, waiters := [.reeve 81], running := run }

/-- WalksAndOutside: a walker granted, none asked for or all busy; a walk completed; a queue with room and full. -/
theorem witness_WalksAndOutside_walks :
    let next (s : State) := (rotation s 0).findSome? fun p => s.walks.find? fun w => !w.running && w.parish == p
    let s : State := { sP with walks := [walk0 false] }
    let full := (List.range 32).map fun i => { walk0 true with id := i }
    let q : State := { sP with invq := [inv0, inv0] }
    next s = some (walk0 false) ∧ next sP = none ∧ 32 ≤ (full.filter fun w => w.running && parishShire w.parish == 0).length ∧
    (({ sP with walks := [walk0 true] } : State).walks.find? fun w => w.id == 5 && w.running) = some (walk0 true) ∧
    q.invq.length < 256 ∧ inv0.kind < 4 ∧ ({ inv0 with kind := 1 } : InvEntry).kind = 1 ∧ mget ({ q with next1 := [(3, 0x40000)] } : State).next1 inv0.id = some 0x40000 ∧
    (({ q with peerOut := [{ id := 7, who := .reeve 81, port := 3, addr := 0x55, op := .load 8, wants := true, ctx := 3, vf := 2, ea := 0x55, mapped := true }] } : State).peerOut.any fun p =>
      p.mapped && invOwner inv0 p.ctx p.vf) = true ∧ 256 ≤ (List.replicate 256 inv0).length ∧ (q.reeves.all fun r => r.2.comb.isEmpty) ∧
    (q.windows.any fun w => w.2.any fun u => invOwner inv0 u.ctx u.vf) = false ∧ invOwner inv0 3 2 = true ∧ populated inv0.word = true := by
  decide +kernel

/-- A package with ports, an access to a peer, and a second-stage table of one page for function 2. -/
def sH : State :=
  { sP with
    ready := [10], domain := [(3 * 512 + 4, 2)], peerOut := [{ id := 7, who := .reeve 81, port := 3, addr := 0x55, op := .load 8, wants := true, ctx := 3, vf := 2, ea := 0x55, mapped := false }]
    eztons := [(3, { up := true, retries := 8 }), (4, { up := true, retries := 7, training := true })], roots2 := [(2, 0x10000)]
    mem := (sP.mem.write 0x10000 (leBytes 8 0x20001)).write 0x20000 (leBytes 8 (5 * 2 ^ 30 + 0x7F)) }

/-- WalksAndOutside: places the host reaches and not; a peer's access refused and made; ports by their retries. -/
theorem witness_WalksAndOutside_ports :
    let s := sH
    let r : PeerReq := { id := 7, who := .reeve 81, port := 3, addr := 0x55, op := .load 8, wants := true, ctx := 3, vf := 2, ea := 0x55, mapped := false }
    let w := stage2 s 2 3 (peerNeed (.load 8))
    isHost 3 = false ∧ 10 ∉ ({ s with ready := [] } : State).ready ∧ isHost (2 ^ 46) = false ∧ 10 ∈ s.ready ∧
    physLoc 3 3 = .ok (.phys 3) ∧ s.mem.badAt 3 1 = false ∧ ({ s.mem with bad := [0] } : Mem).badAt 3 1 = true ∧
    (match physLoc (2 ^ 46 + 2 ^ 45 + 3) (2 ^ 46 + 2 ^ 45 + 3) with
     | .error _ => true
     | .ok _ => false) = true ∧
    mget s.domain (3 * 512 + 5) = none ∧ mget s.domain (3 * 512 + 4) = some 2 ∧ (stage2 sP 2 3 (peerNeed (.load 8))).toOption.isNone ∧
    (w.toOption.any fun v => (physLoc v.1 3).toOption.any fun l => match l with
      | .phys pa => !s.mem.badAt pa 8
      | _ => false) ∧
    s.peerOut.find? (·.id == 7) = some r ∧ (s.port 3).up = true ∧ isOldest s r = true ∧ (({ s with eztons := [] } : State).port 3).up = false ∧
    8 ≤ (s.port 3).retries ∧ (s.port 4).retries < 8 ∧ (s.port 4).up = true ∧ (s.port 4).training = true ∧ s.steward.failed = false ∧
    ({ s with peerOut := [{ r with port := 4 }] } : State).peerOut.any (·.port == 4) = true := by
  decide +kernel

/-! ### The pager, queues and launches -/

/-- A queued launch of two reeves on a rectangle of two hamlets. -/
def launchQ (st : LState := .queued) (c0 : Nat := 3) (w : Nat := 2) : Launch :=
  { ctx := 3, vf := 2, lid := 0, st := st, lpb := { pclass := 1, count := 2, width := w, height := 1, c0 := c0, h0 := 1, code := reeveU.code } }
/-- A package with it as launch 6. -/
def sQ (l : Launch := launchQ) : State := { sU with ready := List.range 1024, launches := sU.launches ++ [(6, l)], time := 5000000 }
/-- A graph of one page, and a placement of it that waits. -/
def graph1 : Graph := { graph0 with pages := [[]] }
def sPl : State := { sQ with places := [(3, { launch := 5, hamlet := 81, graph := graph1 })] }

/-- PagerAndBeadle: a placement that can be made and one that cannot; sweeps off, early and due. -/
theorem witness_PagerAndBeadle :
    let s := sPl
    let part := vfHamlets s 2
    let b (i : Inst) (l : Launch) : State := { s with cycle := 70000, insts := [(1, i)], launches := [(5, l)] }
    let quiet := b instP { launchU with idle := true }
    let stuck : Launch := { launchU with idle := true, reeves := [] }
    let dead := b { instP with cells := [(3, opCell .join 3 0 1 [(0, [t1])])] } stuck
    let c := takeHams s 3 [83]
    let d := takeHams { s with hamlets := [(83, { owner := some 9 })] } 3 [83]
    (mget s.places 3).isSome ∧ s.launchOf 5 = some launchU ∧ launchU.st = .running ∧ ({ s with launches := [] } : State).launchOf 5 = none ∧
    ([83].any fun h => !part.contains h) = false ∧ ([3].any fun h => !part.contains h) = true ∧
    legalHams part graph1 ((streamPlaces graph1 (launchRect s launchU)).getD []) [83] = true ∧ allFree s [83] = true ∧
    c.launchOf 5 = some launchU ∧ cleared c [83] = true ∧ cleared d [83] = false ∧ (freeHandle d 5).isSome ∧
    ((freeHandle c 5).any fun hd => (placeOn c 5 3 { graph1 with handle := hd } .base 0 [83]).toOption.any fun t => t.2.isSome) ∧
    quiet.launchOf 5 = some { launchU with idle := true } ∧ dead.launchOf 5 = some stuck ∧ sweepsOff dead 5 stuck = false ∧
    (launchInsts dead 5).length = 1 ∧ ((launchInsts dead 5).all fun y => !y.2.active && idleInst dead y.1 y.2 && !y.2.deadlocked && !allEos dead y.2) ∧
    deadConds dead 5 stuck none = true ∧
    sweepsOff (b { instP with plane := .freezing } launchU) 5 launchU = true ∧ sweepsOff quiet 5 launchU = false ∧
    ((s.cycle - launchU.sweepAt).toNat < 65536) ∧ sweepsOff s 5 launchU = false ∧ 65536 ≤ (quiet.cycle - launchU.sweepAt).toNat ∧
    launchU.idle = false := by
  decide +kernel

/-- HostQueuesAndDispatch: a doorbell within and beyond the size; a kicked queue that is empty, whose entry is taken, or refused. -/
theorem witness_HostQueuesAndDispatch_queues :
    let blk (b : List Byte) : State :=
      let m := ((((sQ.mem.write 0x10000 (leBytes 8 0x20001)).write 0x20000 (leBytes 8 0x7F)).write 0x30000 (leBytes 8 0x40001)).write 0x40000 (leBytes 8 0x7F))
      { sQ with
        ctxs := [(3, { vf := 2 })], roots1 := [(3, 0x30000)], roots2 := [(2, 0x10000)], steward := { kicks := [2] }
        vfs := [(2, { base := BitVec.ofNat 64 (scratchBase 90), tail := 1 })]
        mem := (m.write (scratchBase 90) (leBytes 8 0x50000 ++ leBytes 2 3 ++ leBytes 54 0)).write 0x50000 b }
    let s := blk (leBytes 8 0 ++ leBytes 8 0x4000 ++ leBytes 16 (capOf 0 0x100 65536 1023 16).bits.toNat ++ leBytes 4 5 ++ [0, 0, 1, 0] ++ leBytes 24 0)
    let e := { s with vfs := [(2, { base := 0x4000, head := 0xFFFFFFFE, tail := 0xFFFFFFFE })] }
    let find (s : State) := s.steward.kicks.find? fun v => s.usable (384 + v) && !(s.vfOf v).err
    let bad := { s with vfs := [(2, { base := BitVec.ofNat 64 (2 ^ 50 + 2 ^ 49 + 2 ^ 48 + 2 ^ 47), tail := 1 })] }
    (e.vfOf 2).size.toNat < ((0x20 : BitVec 32) - (e.vfOf 2).head).toNat ∧ ((0 : BitVec 32) - (e.vfOf 2).head).toNat ≤ (e.vfOf 2).size.toNat ∧
    stewardUp s = true ∧ find s = some 2 ∧ find e = some 2 ∧ (e.vfOf 2).head = (e.vfOf 2).tail ∧ (s.vfOf 2).head ≠ (s.vfOf 2).tail ∧
    good (takeEntry s 2 (s.vfOf 2)) = true ∧ find bad = some 2 ∧ good (takeEntry bad 2 (bad.vfOf 2)) = false := by
  decide +kernel

/-- What a plan says. -/
def planOf (s : State) (l : Launch) : Nat :=
  match plan s l with
  | .go _ => 1
  | .wait _ => 2
  | .refuse _ => 3

/-- HostQueuesAndDispatch: an empty queue, launches that can go, must wait or are refused, and a reservation that falls due. -/
theorem witness_HostQueuesAndDispatch_dispatch :
    let w := { launchQ with lpb := { launchQ.lpb with c0 := 1, h0 := 0 } }
    let r := launchQ .queued 3 0
    let p := { launchQ with passedAt := some 4 }
    let u (l : Launch) : State := noteBehind (sQ l) 2
    stewardUp sQ = true ∧ queueOrder sU 2 = [] ∧ stewardUp { sQ with launches := sU.launches } = true ∧
    queueOrder sQ 2 = [(6, launchQ)] ∧ heldBack (u launchQ) 2 6 launchQ = false ∧ planOf (u launchQ) launchQ = 1 ∧
    queueOrder (sQ w) 2 = [(6, w)] ∧ planOf (u w) w = 2 ∧ heldBack (u w) 2 6 w = false ∧
    queueOrder (sQ r) 2 = [(6, r)] ∧ planOf (u r) r = 3 ∧ heldBack (u r) 2 6 r = false ∧
    queueOrder (sQ p) 2 = [(6, p)] ∧ ((sQ p).vfOf 2).reserved = none ∧ 1000000 ≤ ((sQ p).time - 4).toNat ∧
    (({ sQ with vfs := [(2, { reserved := some 4 })] } : State).vfOf 2).reserved.isSome = true := by
  decide +kernel

/-- LaunchesStartAndEnd: a rectangle outside the partition, one on clean, on dirty and on taken hamlets; claims cleared
and not; launches done and not done. -/
theorem witness_LaunchesStartAndEnd :
    let l := launchQ .placing
    let o := launchQ .placing 9
    let s := sQ l
    let rect := launchRect s l
    let claim := rect.take l.lpb.count
    let dirty : State := { s with hamlets := rect.map fun h => (h, { owner := some 9 }) }
    let taken : State := { s with hamlets := rect.map fun h => (h, { place := .occupied }) }
    let c := { l with claim := claim }
    s.launchOf 6 = some l ∧ stewardUp s = true ∧ rectOk s l = true ∧ rectOk (sQ o) o = false ∧ l.claim = [] ∧
    ([1000].any fun h => !(vfHamlets s 2).contains h) = true ∧ l.lpb.graph = 0 ∧
    rect.all (reeveOpen (release s .steward)) = true ∧ rect.all (reeveOpen (release taken .steward)) = false ∧
    cleared (takeHams (release s .steward) l.ctx claim) claim = true ∧
    rect.all (reeveOpen (release dirty .steward)) = true ∧ cleared (takeHams (release dirty .steward) l.ctx claim) claim = false ∧
    (sQ c).launchOf 6 = some c ∧ c.claim ≠ [] ∧ cleared (sQ c) c.claim = true ∧ rectOk (sQ c) c = true ∧ c.st = .placing ∧
    cleared (takeHams { sQ c with hamlets := dirty.hamlets } 3 claim) c.claim = false ∧
    launchU.rollback = none ∧ launchU.preemptAsked = false ∧ launchDone sQ 5 launchU = false ∧
    launchDone sQ 5 { launchU with reeves := [] } = true ∧ ((launchInsts sQ 5).any fun y => repliesOwed sQ y.1) = false := by
  decide +kernel

/-! ### Pre-emption, save, replay, takeover -/

/-- A launch that waits for the hamlet of the running one, and a package with both. -/
def launchW : Launch := { launchQ with lpb := { launchQ.lpb with c0 := 1, h0 := 0, pclass := 0 } }
def sPre (m : Launch := launchU) (l : Launch := launchW) : State :=
  { sP with ready := List.range 1024, launches := [(5, m), (6, l)], time := 5000000, cycle := 100000, vfs := [(2, { pwait := 1000 })] }

def lGate : Launch := { launchU with st := .gating }

/-- PreemptionRequests: a launch that is gated, one whose request is held, one that does not run; a forced save that is due
and one that is not; a victim. -/
theorem witness_PreemptionRequests :
    let s := sPre
    let h := { s with insts := [(1, { instP with plane := .freezing })] }
    let g (at_ : W64) : State := sPre { launchU with st := .gating, gatingAt := at_ }
    let w := { launchW with behindAt := some 4 }
    let u := noteBehind (sPre launchU w) 2
    let instG : Inst := { instP with cells := [], hams := [] }
    let idleG : State := { sPre lGate with insts := [(1, instG)] }
    let late (u : State) := (queueOrder u 2).find? fun x => match x.2.behindAt with
      | some c => decide ((u.vfOf 2).pwait.toNat ≤ (u.time - c).toNat)
      | none => false
    s.launchOf 5 = some launchU ∧ launchU.st = .running ∧ requestHeld s 5 launchU = false ∧ requestHeld h 5 launchU = true ∧
    (launchInsts (g 50000) 5).all (fun y => instDrained (g 50000) y.1 y.2) = false ∧ ((g 50000).cycle - 50000).toNat < 80000 ∧
    80000 ≤ ((g 0).cycle - 0).toNat ∧ launchW.st ≠ .running ∧ (s.vfOf 2).pwait ≠ 0 ∧ ((sPre.setVf 2 { pwait := 0 }).vfOf 2).pwait = 0 ∧
    stewardUp u = true ∧ late u = some (6, w) ∧ planOf u w = 2 ∧ (u.launchOf 5).isSome ∧
    victims u w (victimOrder u 2 (effClass u w)) = [5] ∧ late (noteBehind s 2) = none ∧
    (launchInsts idleG 5).all (fun y => instDrained idleG y.1 y.2) = true ∧ (launchInsts idleG 5).length = 1 := by
  decide +kernel

/-- Launches in the states of a save, and an image. -/
def lSave : Launch := { launchU with st := .saving, forced := true }
def image0 : Image := { takeImage (sPre lSave) 5 launchU true with header := [] }
def lSaved : Launch := { launchU with st := .saved, image := some image0, reeves := [] }
/-- A command of the launch. -/
def cmd0 : Cmd :=
  { eng := .drove, hamlet := 81, xid := 3, ctx := 3, vf := 2, launch := 5, handle := 7, cap := capOf 1 (relA 0 1) 65536 1023, block := [], arg := 0, descs := [] }

/-- SaveAndRestore: saves that must wait and that may be made; a place that qualifies, and none. -/
theorem witness_SaveAndRestore :
    let g := sPre lGate
    let v := sPre lSave
    let back : Launch := { lSaved with st := .restoring }
    let d : State := { g with insts := [(1, { instP with cells := [], hams := [] })] }
    let owed : PeerReq := { id := 7, who := .reeve 81, port := 3, addr := 0x55, op := .load 8, wants := true, ctx := 3, vf := 2, ea := 0x55, mapped := false }
    let r : State := { sPre back with insts := [], hamlets := [], reeves := [] }
    let given := (partition r 2)
    let none_ : State := { r with hamlets := (List.range 640).map fun h => (h, { place := .occupied }) }
    g.launchOf 5 = some lGate ∧ (launchInsts g 5).all (fun y => instDrained g y.1 y.2) = false ∧ v.launchOf 5 = some lSave ∧
    enginesRun v 5 = false ∧ firingRuns v 5 = false ∧ (flushReeves v lSave.reeves).2 = true ∧
    accessOwed (flushReeves v lSave.reeves).1 5 = false ∧ enginesRun { v with cmds := [(4, cmd0)] } 5 = true ∧
    accessOwed (flushReeves { v with peerOut := [owed] } lSave.reeves).1 5 = true ∧
    (launchInsts d 5).length = 1 ∧ (launchInsts d 5).all (fun y => instDrained d y.1 y.2) = true ∧ d.launchOf 5 = some lGate ∧
    lSaved.image = some image0 ∧ (sPre lSaved).launchOf 5 = some lSaved ∧ lSaved.st = .saved ∧
    r.launchOf 5 = some back ∧ back.image = some image0 ∧ back.st = .restoring ∧ given.isSome ∧ (remapAllot r 3).isSome ∧
    (given.any fun x => (remapAllot r 3).any fun u => (placeImage u 5 back image0 (candidates image0 x)).isSome) ∧
    (given.any fun x => (remapAllot none_ 3).any fun u => (placeImage u 5 back image0 (candidates image0 x)).isNone) := by
  decide +kernel

/-- A replayable launch. -/
def lRep : Launch := { launchU with record := some image0, lpb := { pclass := 1, replay := 2, ckpt := 3 } }

/-- CheckpointAndReplay: sources at a boundary and not; a rollback that may be made and one that may not. -/
theorem witness_CheckpointAndReplay :
    let c (n : Nat) : State := { sPre lRep with ports := [(81 * 16, { round := n, pending := [spec0 false] }), (81 * 16 + 1, { round := n, pending := [spec0 false] })] }
    let b := { lRep with rollback := some { code := .link } }
    let z := { b with st := .replaying }
    let s := sPre b
    let y := sPre z
    let d := discardLaunch y 5 z
    let on (s : State) (l : Launch) : Bool := s.launchOf 5 == some l && ckptOpen s 5 l
    let held (s : State) : Bool := (openInsts s 5).any fun y => (heldRound s y.1 y.2).isSome
    let lAt : Launch := { lRep with ckptAt := some 0 }
    let at_ (n : Nat) (x : Inst) : State := { sPre lAt with
      insts := [(1, x)], ports := [(81 * 16, { round := n }), (81 * 16 + 1, { round := n, pending := [spec0 false] })] }
    let open_ : Inst := { instP with gated := false }
    let done : Inst := { open_ with pmkSent := sourcesOf open_, passed := passNodes open_ }
    let start (n : Nat) : State := { c n with insts := [(1, open_)] }
    on (start 6) lRep = true ∧ held (start 6) = true ∧ on (start 2) lRep = true ∧ held (start 2) = false ∧
    on (sPre { lRep with st := .saved }) { lRep with st := .saved } = false ∧ roundHeld (start 6) ⟨1, 0, 15, 0⟩ 6 = true ∧
    on (at_ 6 done) lAt = true ∧ ckptClean (at_ 6 done) 5 3 = true ∧ heldRound (at_ 6 done) 1 done = some 6 ∧
    (mkeys (at_ 6 done).insts).Pairwise (· < ·) ∧ on { at_ 6 open_ with cycle := 9 } lAt = true ∧
    ckptClean { at_ 6 open_ with cycle := 9 } 5 3 = false ∧ ((9#64 - 0).toNat < 80000) ∧
    on { at_ 6 open_ with cycle := 80000 } lAt = true ∧ ckptClean { at_ 6 open_ with cycle := 80000 } 5 3 = false ∧
    s.launchOf 5 = some b ∧ b.rollback.isSome = true ∧ b.st = .running ∧ freezes s 5 = false ∧
    freezes { s with insts := [(1, { instP with plane := .freezing })] } 5 = true ∧
    y.launchOf 5 = some z ∧ z.st = .replaying ∧ mayReplay z = true ∧ mayReplay { z with replays := 3 } = false ∧
    ((partition y 2).any fun given => image0.hams.all fun h => (partHamlets given).contains h) ∧
    (placeImage (replayed d 5 z image0 { code := .link }) 5 z image0 [Spot.stay image0.hams]).isSome := by
  decide +kernel

/-- StewardTakeover: with and without another core, during a takeover and after a failure. -/
theorem witness_StewardTakeover :
    let s := sPre
    let t : State := { s with steward := { trapped := true } }
    let b : State := { s with steward := { trapped := true, standby := true, held := [5] } }
    s.steward.trapped = false ∧ s.steward.failed = false ∧ s.steward.last = false ∧ s.usable (8 + (1 - s.steward.active)) = true ∧
    ({ s with ready := [8] } : State).usable (8 + (1 - s.steward.active)) = false ∧ t.steward.trapped = true ∧ t.steward.standby = false ∧
    b.steward.trapped = true ∧ b.steward.standby = true ∧ ({ failed := true } : Steward).failed = true ∧ ({ last := true } : Steward).last = true := by
  decide +kernel

/-! ### Engines -/

/-- A descriptor of a row of eight 4-byte elements in the scratchpad. -/
def descA (off : Nat) : Desc :=
  ⟨BitVec.ofNat 512 (leNat (leBytes 16 (capOf 1 (relA 0 1) 65536 1023 off).bits.toNat ++ leBytes 4 16 ++ leBytes 4 8 ++ leBytes 4 1 ++ leBytes 4 1
    ++ leBytes 4 1 ++ leBytes 5 4 ++ leBytes 5 32 ++ leBytes 18 0)), true⟩
/-- A command with its block, and a package in which it is in flight. -/
def cmdE (e : Eng) (blk : List Byte) (st : Bool := true) : Cmd :=
  { cmd0 with eng := e, cap := capOf 1 (relA 0 1) 65536 1023 0x400, block := blk, arg := 2, started := st
              descs := [(1, descA 0x800), (2, descA 0x900), (3, descA 0xA00), (4, descA 0xB00)] }
def sE (c : Cmd) : State :=
  { sP with ready := List.range 256, cmds := [(4, c)] }.updMe fun r =>
    { r with xfers := [(3, { kind := .engine 4, comp := .tag 3, cls := 1 })], rings := [(2, ringQ)] }
/-- With many running commands of its kind beside it. -/
def sMany (c : Cmd) (n : Nat) : State :=
  { sE c with cmds := [(4, { c with started := false })] ++ (List.range n).map fun i => (100 + i, { c with started := true }) }

/-- Whether a piece of a command's work was done, ended in a fault, or waits. -/
def workOk (w : Work (State × Prog)) : Bool :=
  match w with
  | .ok _ => true
  | .error _ => false
def workFault (w : Work (State × Prog)) : Bool :=
  match w with
  | .error (.inr _) => true
  | _ => false
def workWait (w : Work (State × Prog)) : Bool :=
  match w with
  | .error (.inl (.wait _ _)) => true
  | _ => false

/-- EngineCommands: commands that begin and that wait for a place; each engine's work from its start to its end. -/
theorem witness_EngineCommands :
    let d := cmdE .drove (leBytes 64 0)
    let b := cmdE .pinbin (leBytes 32 0 ++ [1, 2, 3, 4] ++ leBytes 60 0)
    let p := cmdE .pinpair (leBytes 32 0 ++ [1, 2, 3, 4] ++ leBytes 60 0)
    let m := cmdE .mpath (leBytes 32 0 ++ [1, 2, 3, 2] ++ leBytes 28 0)
    let far : SMap Desc := (List.range 5).map fun i => (i, ⟨(descA 0x800).bits &&& BitVec.ofNat 512 (2 ^ 512 - 2 ^ 128) ||| BitVec.ofNat 512 (capOf 5 (2 ^ 33) 65536 1023).bits.toNat, true⟩)
    let dr (s : State) := s.cmds.filter fun x => x.2.eng == .drove && hamSlice x.2.hamlet == hamSlice 81
    let bi (s : State) := s.cmds.filter fun x => (x.2.eng == .pinbin || x.2.eng == .pinpair) && hamShireG x.2.hamlet == hamShireG 81
    ((dr (sMany d 15)).find? fun x => !x.2.started).isSome ∧ ((dr (sMany d 15)).filter (·.2.started)).length < 16 ∧
    ((dr (sMany d 16)).find? fun x => !x.2.started).isSome ∧ 16 ≤ ((dr (sMany d 16)).filter (·.2.started)).length ∧
    ((bi (sE { b with started := false })).find? fun x => !x.2.started && !(bi (sE { b with started := false })).any fun y =>
      decide (y.1 < x.1) && y.2.gridBase == x.2.gridBase).isSome ∧
    mget (sE d).cmds 4 = some d ∧ d.prog.fin = false ∧ workOk (droveNext (sE d) (d.acx 4) d) ∧ workOk (binNext (sE b) (b.acx 4) b) ∧
    workOk (pairNext (sE p) (p.acx 4) p) ∧ workOk (mpathNext (sE m) (m.acx 4) m) ∧
    workFault (binNext (sE b) (b.acx 4) { b with descs := [] }) ∧ workFault (pairNext (sE p) (p.acx 4) { p with descs := [] }) ∧
    workFault (mpathNext (sE m) (m.acx 4) { m with descs := [], prog := { begun := true, rest := [leBytes 8 5], res := { c1 := 1 } } }) ∧ workWait (pairNext { sE p with pkg := 0, domainPkgs := [0, 1] } (p.acx 4) { p with descs := far }) ∧
    ({ d with prog := { fin := true } } : Cmd).prog.fin = true ∧ allPerformed (sE d) (.cmd 4) = true ∧
    ({ d with started := false } : Cmd).started = false := by
  decide +kernel

/-- A Thresher session of one stream with a directory and samples in the scratchpad. -/
def blockS : List Byte := leBytes 32 0 ++ [8, 0, 0, 2, 1, 0, 0, 0, 1, 2, 3, 4] ++ leBytes 60 0
def sTh (c : Cmd) : State :=
  let s := sE c
  { s with mem := s.mem.write (scratchBase 81 + 0x800) ([0, 1] ++ leBytes 6 0 ++ leBytes 8 5 ++ leBytes 8 5 ++ leBytes 8 0) }

/-- ThresherSessions: a session that starts and one that waits; one that may run with and without room, its sample and a
fault of it; the end of a batch; CLOSE and the end of every stream. -/
theorem witness_ThresherSessions :
    let c := cmdE .threshOpen blockS
    let s := sTh c
    let here (s : State) := s.cmds.filter fun x => x.2.eng == .threshOpen && hamShireG x.2.hamlet == hamShireG 81
    let full := s.updMe fun r => { r with rings := [(2, { ringQ with rp := 4, wp := 8 })] }
    let g (s : State) := (s.reeve 81).ring (c.fld 0x23 1 % 16)
    let e := { c.sess with slot := (g s).wp.toNat % (g s).size }
    let after := { c with sess := { sample := 1 } }
    let late : State := { sTh after with windows := [(9, [{ updC with srcs := [.cmd 4] }])] }
    let done := { c with sess := { batches := 1 } }
    ((here (sMany c 127)).find? fun x => !x.2.started).isSome ∧ ((here (sMany c 127)).filter (·.2.started)).length < 128 ∧
    128 ≤ ((here (sMany c 128)).filter (·.2.started)).length ∧ mget s.cmds 4 = some c ∧ sessionRuns s c = true ∧ sessionOver s 4 c = false ∧
    sessionRuns s { c with started := false } = false ∧ ((g s).wp - (g s).rp).toNat < (g s).size ∧ ¬ ((g full).wp - (g full).rp).toNat < (g full).size ∧
    c.fld 0x22 1 + 1 = 1 ∧ c.sess.closing = false ∧ c.sess.sample = 0 ∧ good (takeSample s (c.acx 4) c e 0) ∧
    (trapOf (takeSample s (c.acx 4) { c with descs := [] } e 0)).isSome = true ∧
    mget (sTh after).cmds 4 = some after ∧ sessionRuns (sTh after) after = true ∧ sessionOver (sTh after) 4 after = false ∧
    allPerformed (sTh after) (.cmd 4) = true ∧ ((g s).rsv - (g s).rp).toNat < (g s).size ∧ allPerformed late (.cmd 4) = false ∧
    sessionRuns s { c with sess := { closing := true } } = true ∧ sessionRuns (sTh done) done = true ∧ done.fld 0x24 2 = 1 ∧
    (streamsAhead (sTh done) 4 done).all (· == .over) = true := by
  decide +kernel

/-- A queue of tile tasks with the records 0 and 1 waiting. -/
def queueT (is : List Task) : MQueue :=
  { shire := hamShireG 81, ctx := 3, vf := 2, launch := 5, tid := 4, desc := descA 0x800, size := 4, hamlet := 81, waiting := [0, 1], issued := is }
/-- A record by its DEP, STATE and columns. -/
def recT (dep st cols : Nat) : List Byte :=
  leBytes 4 dep ++ [BitVec.ofNat 8 st, 0, 0, 0, 1, 2, 3, 0] ++ leBytes 12 0 ++ leBytes 4 1 ++ leBytes 2 1 ++ leBytes 2 cols ++ leBytes 4 1
    ++ leBytes 4 0xFFFFFFFF ++ leBytes 24 0
/-- A task that a mill runs. -/
def taskT (d : SMap Desc) : Task := { idx := 0, mill := ⟨1, 0, 3, 0⟩, rec_ := recT 0 2 2, descs := d }
/-- A package with a mill that FEED has given to its Miller, and the queue. -/
def sTask (q : MQueue) (r : List Byte) : State :=
  let mill : Cell := { kind := .mac, words := [(0, 0x4000), (1, 0x101010)] }
  let s := { sP with ready := List.range 256, mqueues := [(9, q)], insts := [(1, { instP with cells := [(3, mill)] })] }
  { s with
    mem := s.mem.write (scratchBase 81 + 0x800) r
    ctxs := mset s.ctxs 3 { s.ctxOf 3 with tids := [(1, descA 0x1000), (2, descA 0x1100), (3, descA 0x1200)] } }

/-- TileTasks: no record ready, one that fails, one too wide, one that issues; a task that ends and one that faults. -/
theorem witness_TileTasks :
    let q := queueT []
    let m : NodeRef := ⟨1, 0, 3, 0⟩
    let s (r : List Byte) := sTask q r
    let ds := [(1, descA 0x1000), (2, descA 0x1100), (3, descA 0x1200)]
    let ready (s : State) : Option (Option Nat) := match findReady s 9 q (q.waiting.take 32) with
      | .ok x => some (x.map (·.1))
      | .error _ => none
    let trapped (q : MQueue) : Bool := match findReady (s (recT 0 1 2)) 9 q (q.waiting.take 32) with
      | .error (_, .trap _) => true
      | _ => false
    let stored := queueT [{ taskT ds with summed := true }]
    let issued := queueT [taskT ds]
    let x := sTask issued (recT 0 2 2)
    mget (s (recT 0 1 2)).mqueues 9 = some q ∧ freeMill (s (recT 0 1 2)) (hamShireG 81) 3 m = true ∧ freeMill (s (recT 0 1 2)) (hamShireG 81) 3 ⟨1, 0, 4, 0⟩ = false ∧
    ready (s (recT 1 1 2)) = some none ∧ ready (s (recT 0 1 2)) = some (some 0) ∧ trapped { q with desc := Desc.raw } = true ∧ good (readRec (s (recT 0 1 2)) 9 q 0) ∧ recOk (recT 0 1 2) = true ∧
    recOk (recT 0 1 257) = false ∧ ready (s (recT 0 1 257)) = some (some 0) ∧ good (taskDescs (s (recT 0 1 2)) 3 (recT 0 1 2)) ∧
    recFld (recT 0 1 2) 0x1E 2 ≤ millCols ((s (recT 0 1 2)).cellAt m) ∧ millCols ((s (recT 0 1 256)).cellAt m) < recFld (recT 0 1 256) 0x1E 2 ∧
    mget x.mqueues 9 = some issued ∧ (issued.issued.find? (·.idx == 0)) = some (taskT ds) ∧ good (taskRun x (issued.acx 9) (taskT ds)) ∧ (taskT ds).summed = false ∧
    allPerformed x (.cmd 9) = true ∧ (stored.issued.find? (·.idx == 0)).isSome ∧
    good ([recFld (taskT ds).rec_ 0x20 4, recFld (taskT ds).rec_ 0x24 4].foldlM (decDep 9) (setState (sTask stored (recT 0 2 2)) 9 stored 0 3 0)) ∧
    ((trapOf (taskRun x (issued.acx 9) (taskT []))).any fun e => !e.code.replays) := by
  decide +kernel

/-! ### Service, control and bring-up -/

/-- A package with a latency-sensitive function 2 of a target, and best-effort functions. -/
def sV (target : Nat) : State :=
  { sP with vfs := [(2, { qos := BitVec.ofNat 64 (0x10 + target <<< 16), drops := 0 }), (4, { qos := 0x20 })], throttle := [(1024 * 3 + 4, 7)] }

/-- CountersServiceAndSamples: words of each kind; windows that miss a target, meet it, or judge nothing. -/
theorem witness_CountersServiceAndSamples :
    let q := (List.range 150).map fun i => i * 3
    let slows (s : State) (best : List Nat) := best.filter fun w => decide (w < 512) && (s.vfOf w).qos.getLsbD 5
    ((sV 100).vfOf 2).drops = 0 ∧ (0x30 : W64).getLsbD 4 = true ∧ (0x30 : W64).getLsbD 5 = true ∧ (0x5 : W64).getLsbD 4 = false ∧
    ([] : List (Nat × List Nat)).filterMap (verdict (sV 100)) = [] ∧ ([(2, q)].filterMap (verdict (sV 100))).any id = true ∧
    slows (sV 100) [4] = [4] ∧ slows (sV 100) [2] = [] ∧ ([(2, q)].filterMap (verdict (sV 10000))).any id = false ∧
    [(2, q)].filterMap (verdict (sV 10000)) ≠ [] := by
  decide +kernel

/-- CountersServiceAndSamples: a reeve before and at its sample, of each kind of record. -/
theorem witness_CountersServiceAndSamples_samples :
    let s (c : W64) (n : Nat) : State := sP.updMe fun r => { r with samplecfg := c, sampleCount := n }
    let every (s : State) := ((s.reeve 81).samplecfg.toNat / 256 % 2 ^ 24 + 1) * 16
    ((s 0x307 63).reeve 81).sampleCount < every (s 0x307 63) ∧ every (s 0x307 64) ≤ ((s 0x307 64).reeve 81).sampleCount ∧
    ((s 0x307 64).reeve 81).run = .running ∧ ((s 0x307 64).reeve 7).run = .idle ∧ ((s 0x307 64).reeve 81).sampleDue = none ∧
    (((s 0 0).updMe fun r => { r with sampleDue := some 0x303 }).reeve 81).sampleDue = some 0x303 ∧ ((s 0x303 64).reeve 81).samplecfg = 0x303 ∧ (0x301 : W64).getLsbD 0 = true ∧ (0x301 : W64).getLsbD 1 = false ∧
    (0x301 : W64).getLsbD 2 = false ∧ (0x303 : W64).getLsbD 1 = true ∧ (0x303 : W64).getLsbD 2 = false ∧ (0x307 : W64).getLsbD 2 = true ∧
    (0x300 : W64).getLsbD 0 = false := by
  decide +kernel

/-- A fence entry of die 1 for a function. -/
def fenceOf (vf c0 : Nat) : FenceEntry := { valid := true, vf := vf, dies := false, c0 := c0, h0 := 0, c1 := 9, h1 := 7, dieMask := 0 }

/-- ControlWrites: entries in use and not, with and without a clash, and the greatest numbers of each register. -/
theorem witness_ControlWrites :
    let s := { sP with launches := [] }
    let used (s : State) (f : FenceEntry) : Bool := f.valid && vfBusy s f.vf
    let clash (s : State) (e : FenceEntry) (k : Nat) : Bool := e.valid && s.fences.any fun x => x.1 != k && x.2.valid && !(x.2.dies && x.2 == e) &&
      (partHamlets (x.1 / 16, x.2)).any (partHamlets (k / 16, e)).contains
    used sP (fenceOf 2 0) = true ∧ used s (fenceOf 2 0) = false ∧ mget s.fences 16 = some (fenceOf 2 0) ∧ clash s (fenceOf 5 3) 16 = false ∧
    used s (fenceOf 5 3) = false ∧ mget s.fences 17 = none ∧ clash s (fenceOf 5 3) 17 = true ∧ 16 * 7 + 15 < 8 * 16 ∧ 639 < 640 ∧ 1023 < 1024 ∧
    511 < 512 ∧ 383 < 384 ∧ (0x12FF : W64).toNat % 256 = 255 ∧ (0x3FF : W64).toNat % 1024 = 0x3FF ∧ (0xFF : W64).toNat % 1024 ≠ 0x3FF := by
  decide +kernel

/-- RetirementContextsAndClocks: hamlets and pages of each kind, the ends of the clock's range, contexts new and present. -/
theorem witness_RetirementContextsAndClocks :
    (sP.ham 81).place = .occupied ∧ (sP.ham 8).place = .free ∧ (({ sP with hamlets := [(8, { place := .clearing })] } : State).ham 8).place = .clearing ∧
    populated 0x100000 = true ∧ isHost 0x100000 = false ∧ isScratch 0x100000 = false ∧ isScratch (scratchBase 3) = true ∧ populated (2 ^ 49) = false ∧
    900 ≤ sP.clock ∧ ({ sP with clock := 899 } : State).clock < 900 ∧ ({ sP with clock := 1500 } : State).clock ≤ 1500 ∧ 1500 < sP.clock ∧
    mget sP.ctxs 1023 = none ∧ (mget ({ sP with ctxs := [(3, { vf := 2 })] } : State).ctxs 3).isSome = true ∧ (sP.cycle.toNat + 1) % 256 ≠ 0 := by
  decide +kernel

/-- ResetSelfTestsAndFirmware: functions that exist and not, the greatest die, modes of the link at their ends. -/
theorem witness_ResetSelfTestsAndFirmware :
    let s := { sP with ready := [1] }
    ReadyFn.exists_ (.port 47) = true ∧ ReadyFn.exists_ (.port 48) = false ∧ ReadyFn.exists_ (.die 3) = true ∧ s.steward.failed = false ∧
    s.tested.contains (ReadyFn.bit (.port 47)) = false ∧ stageDown s (.port 47) = false ∧ stageDown s (.die 3) = false ∧
    ({ s with tested := [3] } : State).tested.contains (ReadyFn.bit (.die 3)) = true ∧ s.ready.contains 7 = false ∧ s.ready.contains (8 + 1) = false ∧
    (4 : Nat) ≤ 4 ∧ s.linkMode = 0 ∧ ({ s with linkMode := 4 } : State).linkMode ≠ 0 ∧ (4 : Nat) < 5 ∧ s.booted.contains 4 = false ∧
    s.boot = 0 ∧ ({ s with booted := [0, 1] } : State).booted.contains (2 - 1) = true ∧ ({ s with booted := [0, 1] } : State).booted.contains 2 = false := by
  decide +kernel

/-- ResetSelfTestsAndFirmware: the signature of an image is good or not. -/
theorem witness_ResetSelfTestsAndFirmware_image : Config.signatureOk [3] = false ∨ Config.signatureOk [3] = true := by
  cases Config.signatureOk [3] <;> simp

/-- ReeveWordsRoundTrip: a short word and a long one. -/
theorem witness_ReeveWordsRoundTrip :
    WellFormed (.addi 0 7 7 0xFFC) = true ∧ reeveEncoded (.addi 0 7 7 0xFFC) = true ∧ WellFormed (.li 0 9 0x0123456789AB) = true ∧
    reeveEncoded (.li 0 9 0x0123456789AB) = true ∧ decode [0xFC, 0x7F, 0x0E, 0x0C, 5] = some (.addi 0 7 7 0xFFC, [5]) := by
  decide +kernel

/-- ActorWordsRoundTrip: a peek. -/
theorem witness_ActorWordsRoundTrip :
    let peek : Instr := .peek { pred := 0, t0 := 0x21C, t1 := 0, imm := 1, ety := 0, rmode := 0, flags := 0, auxb := 2 }
    WellFormed peek = true ∧ reeveEncoded peek = false ∧ (encode peek).length = 2 ∧
    decodeActor 0x0110E00000010002 = some peek := by
  decide +kernel

/-- StepRunsDecoded: a reeve that fetches a word that decodes, one that does not, and one that its tables do not map. -/
theorem witness_StepRunsDecoded :
    let s := State.reset.withFetchWord 32 0x0C0E7FFC
    let z := State.reset.withFetchWord 32 0
    let f := { s with reeves := [(0, { s.me with code := noTag s.me.code })] }
    let first (s : State) : Option (Option Instr) := (fetch { s with rot := s.rot + 1 }).toOption.map fun x => (decode x.1).map (·.1)
    s.agenda = [] ∧ s.rot % 4 = 0 ∧ canRun s 0 = true ∧ s.me.wait = none ∧ atHandler s = false ∧ first s = some (some (.addi 0 7 7 0xFFC)) ∧
    first z = some none ∧ canRun z 0 = true ∧ (trapOf (fetch { f with rot := f.rot + 1 })).isSome ∧ canRun f 0 = true ∧ atHandler f = false ∧
    checkCapAt s.me.code ((s.me.pc.toNat : Int) - (s.me.code.base * 256 : Nat)) (some 4) 4 clFetch = .ok 0 ∧
    locate s s.acx 0 0 rX = .ok (.phys 0) ∧ s.mem.badAt 0 4 = false ∧ isLong (BitVec.ofNat 32 (leNat (s.mem.read 0 4))) = false ∧
    canRun { s with cur := 7 } 7 = false := by
  decide +kernel

/-- StepRunsDecoded: turns of a reeve, of a firing and of an event. -/
theorem witness_StepRunsDecoded_turns :
    let a := { sF f1 with agenda := [.actor nF] }
    let slot := slotF f1
    let w := sU.updMe fun r => { r with wait := some .memory, got := some [0xFC, 0x7F, 0x0E, 0x0C] }
    let b := sG { slot with code := [0, 0, 0x0110E00000010002] }
    (State.reset.withFetchWord 32 0x0C0E7FFC).cur < 640 ∧ (a.inst nF.inst).isSome = true ∧ (a.slotAt nF).firing = some f1 ∧
    (decodeActor ((b.slotAt nF).instr f1.idx)).isSome ∧ (({ b with agenda := [.actor nF] } : State).slotAt nF).firing = some f1 ∧
    canRun w 81 = true ∧ atHandler w = false ∧ w.cur = 81 ∧ w.me.wait.isSome = true ∧ (w.me.got.bind decode).isSome = true ∧ encode .timeNanosecond = [] := by
  decide +kernel

/-- MemoryStaysCanonical: a state in canonical form that steps. -/
theorem witness_MemoryStaysCanonical :
    Memory.wf sU.mem = true ∧ Memory.wf (State.reset.withFetchWord 32 0x0C0E7FFC).mem = true ∧ (match step (State.reset.withFetchWord 32 0x0C0E7FFC) with
      | .next t => Memory.wf t.mem
      | _ => false) = true := by
  decide +kernel

/-! ### Words, bit by bit -/

/-- The instruction of one word, and of two. -/
def wordOf (w : Nat) : Option Instr := (decode (leBytes 4 w)).map (·.1)
def longOf (w w1 : Nat) : Option Instr := (decode (leBytes 4 w ++ leBytes 4 w1)).map (·.1)

/-- RR words of ALU and MULDIV (R217, R218). -/
theorem test_decode_alu :
    wordOf 0b000001_0000_00011_00001_00010_0000000 = some (.add 0 3 1 2) ∧
    wordOf 0b000001_1011_00101_00101_00110_0000001 = some (.sub 11 5 5 6) ∧
    wordOf 0b000001_0000_00100_01001_00000_0001110 = some (.clz 0 4 9) ∧
    wordOf 0b000001_0000_00100_01001_00110_0010010 = some (.sext 0 4 9 6) ∧
    wordOf 0b000010_0000_00110_00001_00010_0000100 = some (.divu 0 6 1 2) ∧
    wordOf 0b000010_0000_11111_11110_11101_0000010 = some (.mulhu 0 31 30 29) := by decide

/-- RI and LUI words (R217). -/
theorem test_decode_immediates :
    wordOf 0b000011_0000_00111_00111_111111111100 = some (.addi 0 7 7 0xFFC) ∧
    wordOf 0b001001_0010_00100_00101_000000111111 = some (.sari 2 4 5 63) ∧
    wordOf 0b001010_0000_00010_01010101111001101 = some (.lui 0 2 0xABCD) := by decide

/-- Words of CMP, CMPI and PLOG (R217, R218). -/
theorem test_decode_predicates :
    wordOf 0b001011_0000_01010_00001_00010_0000010 = some (.cmp 0 1 2 1 2 2) ∧
    wordOf 0b001100_0000_11101_01001_111111111111 = some (.cmpi 0 3 5 9 0xFFF) ∧
    wordOf 0b001101_0000_00011_00001_00010_0000000 = some (.pand 0 3 1 2) ∧
    wordOf 0b001101_0000_00011_10001_00000_0000110 = some (.pfromg 0 3 17) ∧
    wordOf 0b001101_0000_10001_00011_00000_0000111 = some (.ptog 0 17 3) := by decide

/-- Words of control (R217). -/
theorem test_decode_control :
    wordOf 0b010000_0000_1111111111111111111101 = some (.br 0x3FFFFD) ∧
    wordOf 0b010001_0000_0000000000000000000101 = some (.jal 5) ∧
    wordOf 0b010010_0000_11111_00100_000000001000 = some (.jalr 0 31 4 8) ∧
    wordOf 0b010011_0000_00001_00000_000000000011 = some (.loop 0 1 3) ∧
    wordOf 0b010100_0000_00000_00000_000100100011 = some (.trap 0 0x123) ∧
    wordOf 0b010101_0100_00000_00000_000000000000 = some (.exit 4) := by decide

/-- MEM words (R217, R219). -/
theorem test_decode_memory :
    wordOf 0b011000_0000_00100_0010_00101_11_0_00010 = some (.ld 0 4 2 5 3 false 2) ∧
    wordOf 0b011001_0000_00011_0010_00000_11_1_00001 = some (.st 0 3 2 0 3 true 1) ∧
    wordOf 0b011010_0000_01001_0010_00101_11_0_00001 = some (.ldc 0 9 2 5 1) ∧
    wordOf 0b011011_0000_01001_0010_00101_11_0_11111 = some (.stc 0 9 2 5 31) ∧
    wordOf 0b011100_0000_01001_0010_00101_11_1_00001 = some (.ldsyn 0 9 2 5 true 1) ∧
    wordOf 0b011101_0000_01001_0010_00101_11_0_00001 = some (.fe 0 9 2 5 false 1) := by decide

/-- AT words and FENCE (R164, R217, R218). -/
theorem test_decode_atomics :
    wordOf 0b011110_0000_00110_0011_00010_00111_000 = some (.atom 0 6 3 2 7 0) ∧
    wordOf 0b011111_0000_00000_0011_00010_00111_110 = some (.red 0 3 2 7 6) ∧
    wordOf 0b100000_0000_00110_0011_00010_00111_000 = some (.swap 0 6 3 2 7) ∧
    wordOf 0b100001_0000_00110_0011_00010_00111_000 = some (.cas 0 6 3 2 7) ∧
    wordOf 0b100010_0000_0000000000_00000_0101_110 = some (.fence 0 5 6) := by decide

/-- Words of CAP and CINCI (R217, R218). -/
theorem test_decode_capabilities :
    wordOf 0b100100_0000_00011_00100_00101_0000000 = some (.csetb 0 3 4 5) ∧
    wordOf 0b100100_0000_00011_00100_00000_0000110 = some (.cgeto 0 3 4) ∧
    wordOf 0b100100_0000_00111_00100_00000_0001001 = some (.ctest 0 7 4) ∧
    wordOf 0b100100_0000_00011_00000_00000_0001010 = some (.cclr 0 3) ∧
    wordOf 0b100100_0000_00011_00100_00101_0001101 = some (.cunseal 0 3 4 5) ∧
    wordOf 0b100101_0000_00011_00100_100000000000 = some (.cinci 0 3 4 0x800) := by decide

/-- Words of TAGOP, RINGOP, SBAR and PORTOP (R217, R218). -/
theorem test_decode_transfers :
    wordOf 0b101010_0000_00011_00100_00000_0000000 = some (.twaitany 0 3 4) ∧
    wordOf 0b101010_0000_00011_00000_00000_0000100 = some (.tread 0 3) ∧
    wordOf 0b101011_0000_00011_00100_01111_0000001 = some (.rawait 0 3 4 15) ∧
    wordOf 0b101011_0000_00000_00100_00010_0000010 = some (.rrel 0 4 2) ∧
    wordOf 0b101100_0000_00000_00100_000000000011 = some (.sbarCond 0 4) ∧
    wordOf 0b101101_0000_00000_00100_01001_0000000 = some (.inject 0 9 4) ∧
    wordOf 0b101101_0000_00100_00000_01001_0000011 = some (.pstat 0 4 9) := by decide

/-- Words of CFG, QSWEEP, LAUNCH, LWAIT and BAR (R217, R218). -/
theorem test_decode_graphs :
    wordOf 0b110000_0000_00011_00100_00000_0000000 = some (.cfgld 0 3 4) ∧
    wordOf 0b110000_0000_00011_00100_00101_0000010 = some (.cfgqry 0 3 4 5) ∧
    wordOf 0b110000_0000_00000_00100_00101_0000100 = some (.cfggate 0 4 5) ∧
    wordOf 0b110001_0000_00011_00100_00000_0000000 = some (.qsweep 0 3 4) ∧
    wordOf 0b110010_0000_00011_01111_00000_0000000 = some (.launch 0 3 15) ∧
    wordOf 0b110011_0000_00011_11111_00000_0000000 = some (.lwait 0 3 31) ∧
    wordOf 0b110100_0000_00101_00000_000000001100 = some (.bar 0 5 4 true) := by decide

/-- Words of ENGINE, TID, SRRD, SRWR and MISC (R95, R217, R218). -/
theorem test_decode_system :
    wordOf 0b110110_0000_00011_00100_00101_0000000 = some (.drove 0 3 4 5) ∧
    wordOf 0b110110_0000_00011_00100_00101_0000011 = some (.threshOpen 0 3 4 5) ∧
    wordOf 0b110110_0000_00011_00100_00101_0000101 = some (.mpath 0 3 4 5) ∧
    wordOf 0b111000_0000_00000_00011_00100_0000000 = some (.tidset 0 3 4) ∧
    wordOf 0b111000_0000_00000_00011_00000_0000010 = some (.tidinv 0 3) ∧
    wordOf 0b111010_0000_00100_00000_000000000110 = some (.srrd 0 4 6) ∧
    wordOf 0b111011_0000_00000_00100_000000100000 = some (.srwr 0 4 0x20) ∧
    wordOf 0b111100_0000_00000_00000_00000_0000000 = some (.eret 0) ∧
    wordOf 0b111100_0000_00111_00000_00000_0000011 = some (.ident 0 7) := by decide

/-- Long forms (R221). -/
theorem test_decode_long :
    longOf 0b101000_0000_0011_0010_0100_00110_01_0_00 0b000101_00001100_0000_000_00000000000 = some (.sspec 0 3 2 4 6 1 false 5 12 0 0) ∧
    longOf 0b101001_0000_0101_0110_00111_10_0000000 0b000010_00000000_1000_111_00000000000 = some (.scopy 0 5 6 7 2 2 0 8 7) ∧
    longOf 0b111110_0000_01001_00000000100100011 0b01000101011001111000100110101011 = some (.li 0 9 0x123456789AB) := by decide

/-- Words that R213 to R221 refuse: the all-zero word, the reserved guard, a bit in 25:22 of BR, fn 19 of ALU, k16, combine 3, sz 3 with
x, scope 5, a register that R95 does not list, a tag without comp 1, a reduce op with dir 0. -/
theorem test_decode_refuses :
    [0, 0b000001_1000_00000_00000_00000_0000000, 0b010000_0001_0000000000000000000000, 0b000001_0000_00011_00001_00010_0010011, 0b100100_0000_10000_00100_00101_0000000, 0b001011_0000_11000_00001_00010_0000010,
      0b011000_0000_00100_0010_00101_11_1_00010, 0b110100_0000_00101_00000_000000000101, 0b111010_0000_00100_00000_000000001001].all (fun w => (wordOf w).isNone) ∧
    longOf 0b101000_0000_0011_0010_0100_00110_00_0_00 0b000101_00001100_0000_000_00000000000 = none ∧
    longOf 0b101000_0000_0011_0010_0100_00110_01_0_00 0b000101_00001100_0001_000_00000000000 = none := by decide

/-- The fields of an actor instruction, from bit 55 down (R225). -/
def actOp (pred t0 t1 imm ety rmode flags auxb : Nat) : ActorOp :=
  { pred := BitVec.ofNat 2 pred, t0 := BitVec.ofNat 11 t0, t1 := BitVec.ofNat 11 t1, imm := BitVec.ofNat 16 imm, ety := BitVec.ofNat 3 ety
    rmode := BitVec.ofNat 3 rmode, flags := BitVec.ofNat 2 flags, auxb := BitVec.ofNat 8 auxb }

/-- Doublewords of actor instructions of each range of R227. -/
theorem test_decode_actors :
    decodeActor 0b00000001_00_01000011100_00000000000_0000000000000001_000_000_00_00000010 =
      some (.peek (actOp 0 540 0 1 0 0 0 2)) ∧
    decodeActor 0b00000110_00_00000000000_00000000000_0000000000000000_010_000_00_00001111 =
      some (.hwr (actOp 0 0 0 0 2 0 0 15)) ∧
    decodeActor 0b00010000_01_10000001100_01111111110_0000000000000000_001_000_00_00000000 =
      some (.iadd (actOp 1 1036 1022 0 1 0 0 0)) ∧
    decodeActor 0b00011111_00_11001011100_00000000000_1111111111111111_100_000_01_00000000 =
      some (.isatsub (actOp 0 1628 0 65535 4 0 1 0)) ∧
    decodeActor 0b00100010_00_01000100100_10000000100_0000000000000000_010_011_00_00000000 =
      some (.fmul (actOp 0 548 1028 0 2 3 0 0)) ∧
    decodeActor 0b00101111_00_01000100101_00000000000_0000000000000000_010_000_10_00000000 =
      some (.frnd (actOp 0 549 0 0 2 0 2 0)) ∧
    decodeActor 0b00110000_10_01000100111_00000000000_0000000000000000_000_000_00_00000101 =
      some (.icmp (actOp 2 551 0 0 0 0 0 5)) ∧
    decodeActor 0b00110011_00_01000100111_00000000000_0000000000000000_111_000_00_00000000 =
      some (.actorPand (actOp 0 551 0 0 7 0 0 0)) ∧
    decodeActor 0b00111010_00_01000100100_00000000000_0000000000000000_010_011_01_00000000 =
      some (.cvtfb (actOp 0 548 0 0 2 3 1 0)) ∧
    decodeActor 0b01000000_00_01000100100_00000000000_0000000000000000_101_000_00_00000000 =
      some (.shuf (actOp 0 548 0 0 5 0 0 0)) ∧
    decodeActor 0b01001000_00_01000100100_00000000000_0000000000000000_110_000_00_00000000 =
      some (.expand (actOp 0 548 0 0 6 0 0 0)) ∧
    decodeActor 0b01010000_00_01000100100_00000000000_0000000000000010_000_000_00_00000011 =
      some (.spld (actOp 0 548 0 2 0 0 0 3)) ∧
    decodeActor 0b01010011_00_00000000000_00000000000_0000000000000010_000_000_00_00000111 =
      some (.spred (actOp 0 0 0 2 0 0 0 7)) ∧
    decodeActor 0b01011000_00_01000100100_00000000000_0000000000000111_000_000_00_11111111 =
      some (.tidld (actOp 0 548 0 7 0 0 0 255)) ∧
    decodeActor 0b01100000_00_00000000000_00000000000_0000000000000000_000_000_00_00000100 =
      some (.emitctl (actOp 0 0 0 0 0 0 0 4)) ∧
    decodeActor 0b01100011_00_00000000000_00000000000_0000000000000111_000_000_00_00000000 =
      some (.callreq (actOp 0 0 0 7 0 0 0 0)) ∧
    decodeActor 0b01100100_00_00000000000_00000000000_1011111011101111_000_000_00_00000000 =
      some (.actorEvt (actOp 0 0 0 48879 0 0 0 0)) ∧
    decodeActor 0b01101000_00_01000100100_00000000000_0000000000000000_000_000_11_00000000 =
      some (.mvsplit (actOp 0 548 0 0 0 0 3 0)) ∧
    decodeActor 0b01101011_00_01000100100_00000000000_0000000000000000_010_000_00_00010000 =
      some (.erracc (actOp 0 548 0 0 2 0 0 16)) := by decide

/-- Opcodes that R227 does not list. -/
theorem test_decode_actor_refuses : [0x00, 0x0F, 0x3E, 0x49, 0x54, 0x65, 0x6C, 0xFF].all (fun o =>
    (decodeActor (BitVec.ofNat 64 (o * 2 ^ 56))).isNone) := by decide


/-! ### Ill-formed instructions are refused -/

/-- A guard, a comparison's parts, a load's width, a barrier's scope and a system register out of their ranges. -/
theorem test_ill_formed_fields :
    WellFormed (.add 8 0 0 0) = false ∧ WellFormed (.cmp 0 3 0 0 0 0) = false ∧ WellFormed (.cmp 0 0 0 0 0 6) = false ∧
    WellFormed (.ld 0 0 0 0 3 true 0) = false ∧ WellFormed (.bar 0 0 5 true) = false ∧ WellFormed (.srrd 0 0 0x009) = false ∧
    WellFormed (.srwr 0 0 0x009) = false := by
  decide

/-- A completion operand, a reduce op and an actor's flags out of their ranges. -/
theorem test_ill_formed_tails :
    let o (f : BitVec 2) : ActorOp := { pred := 0, t0 := 0, t1 := 0, imm := 0, ety := 0, rmode := 0, flags := f, auxb := 0 }
    WellFormed (.sspec 0 3 2 4 6 0 false 5 12 0 0) = false ∧ WellFormed (.sspec 0 3 2 4 6 2 false 16 12 0 0) = false ∧
    WellFormed (.sspec 0 3 2 4 6 1 true 5 12 9 0) = false ∧ WellFormed (.sspec 0 3 2 4 6 1 false 5 12 1 0) = false ∧
    WellFormed (.scopy 0 2 4 6 3 1 0 0 0) = false ∧ WellFormed (.tagrd (o 1)) = false ∧ WellFormed (.tagrdKind (o 0)) = false := by
  decide

/-! ### Worked numbers of the specification -/

/-- SEXT of 0xF0 from bits 7 and 8 (10_reeve_core.md, R240). -/
theorem test_sext_worked : sextW 0xF0 7 = 0xFFFFFFFFFFFFFFF0 ∧ sextW 0xF0 8 = 0xF0 := by decide

/-- Element 17 of round 3 of work unit 2,560 in context 5 (01_machine.md, tags). -/
theorem test_tag_worked :
    tagCtx 0x0140A00003000011 = 5 ∧ tagThread 0x0140A00003000011 = 0xA00 ∧ tagRound 0x0140A00003000011 = 3 ∧
    tagIndex 0x0140A00003000011 = 0x11 := by
  decide

/-- E4M3 0x7E is 448; the codebook weight is 0.5625; level -3 at QP 22 is -24; four planes of 0x3FFF are 1.875 (02_numbers.md). -/
theorem test_elements_worked :
    Num.floor (unpackF e4m3 0x7E) = 448 ∧ packF fp32 0 (elemVal 20 13 { raw := 127, super := 0x40000000 }) = 0x3F100000 ∧
    Num.floor (elemVal 22 0xFFFD { raw := 22 }) = -24 ∧ packF fp32 0 (unpackF bf16 (cutPlanes 2 4 0x3FFF)) = 0x3FF00000 := by
  decide +kernel

/-- The products 1, 2^-24 and 2^-24 add up to 1 in ascending order only (02_numbers.md, R73). -/
theorem test_sum_order_worked :
    let a := Num.dy 1 0
    let b := Num.dy 1 (-12)
    packF fp32 0 (dotF .zero [(a, a), (b, b), (b, b)]) = 0x3F800000 ∧
    packF fp32 0 (dotF .zero [(b, b), (b, b), (a, a)]) = 0x3F800001 := by
  decide +kernel

/-- FSINPI of -0.5 is -1 (02_numbers.md, R91). -/
theorem test_sinpi_worked : packF fp32 0 (fsinpi (Num.dy 1 (-1)).neg) = 0xBF800000 := by decide +kernel

/-- The tag word of slot 5 of output port o1 in actor slot 2 (03_registers.md, R111). -/
theorem test_window_worked : slotPlace (0x92D8 - 0x1000 - 2 * 0x3000) = .port 5 5 9 := by decide

/-- The last doubleword of a capability of 65,536 bytes passes, and the next does not (04_memories.md, R124). -/
theorem test_capability_worked :
    let c := Cap.make true 0 pLD 0 8 255 0x12345600 0
    c.addr = 0x1234560000 ∧ c.length = 65536 ∧ checkCapAt c 0xFFF8 (some 8) 8 clLoad = .ok 0x123456FFF8 ∧
    (trapOf (checkCapAt c 0xFFF8 (some 16) 16 clCapLoad)).map (·.code) = some .capPerm ∧
    (trapOf (checkCapAt c 0x10000 (some 8) 8 clLoad)).map (·.code) = some .capBounds := by
  decide +kernel

/-- The four table indices of 0x12_3456_FFF8 (04_memories.md, R146). -/
theorem test_indices_worked : (List.range 4).map (lvlIndex 0x123456FFF8) = [0, 0x48, 0x1A2, 0x16] := by decide

/-- CSETB of 300,000 bytes (10_reeve_core.md, R248). -/
theorem test_csetb_worked :
    capNarrow (Cap.make true 0 1023 0 16 255 0x100000 0x30123) 300000 = .ok (Cap.make true 0 1023 0 1 150017 0x100301 0x23) := by
  decide +kernel

/-- Completions c, a, b of a ring of four entries (06_queues.md, R181). -/
theorem test_ring_worked :
    let r : Ring := { init := true, lsize := 2, rsv := 3 }
    (r.complete 2).wp = 0 ∧ ((r.complete 2).complete 0).wp = 1 ∧ (((r.complete 2).complete 0).complete 1).wp = 3 ∧
    (((r.complete 2).complete 0).complete 1).done = [] := by
  decide +kernel

/-- A and B split over two parts at outputs 0, 3 and 7 (14_engines.md, R348). -/
theorem test_mpath_worked :
    let l := mergeSplit false 7 0 [1, 3, 5, 5] [2, 5, 6]
    [0, 3, 7].map (fun d => (nth0 l d, d - nth0 l d)) = [(0, 0), (2, 1), (4, 3)] := by
  decide +kernel

/-- Two points across the wrapped edge of eight pens (14_engines.md, R339). -/
theorem test_pair_worked :
    let g : Grid := { nx := 8, ny := 1, cap := 4, edge := .dy 1 0, rc := .dy 1 0, ox := .zero, oy := .zero, wrapx := true, wrapy := false, epoch := 0 }
    let r := pairReach g .zero
    let p := (0, 0, Num.dy 1 (-2), Num.dy 1 (-1))
    let q := (1, 7, Num.dy 15 (-1), Num.dy 1 (-1))
    pairOf g r.1 r.2 p q = some (1, 0x3F100000) ∧ pairOf { g with wrapx := false } r.1 r.2 p q = none := by
  decide +kernel

/-- The error estimate of a block a little beyond the frame's corner (15_video.md, R361). -/
theorem test_estimate_worked :
    let t (o : W32) (n : Nat) : W32 := if n = 30 then 0x3E000000 else if n = 128 then 0x3E800000 else if n = 129 then o else 0
    (warpUnits (-6) (-3)).map (·.2.2) = [18, 30, 78, 130] ∧ outFrac false false 8 8 (-6) (-3) = 0x3EFC0000 ∧
    erracc (t 0x3F000000) 0x3F200000 0x61E 0x3EFC0000 = 0x3F978000 ∧ erracc (t 0) 0x3F200000 0x61E 0x3EFC0000 = 0x3F700000 := by
  decide +kernel

/-! ### Further forms of the statements -/

/-- A full window of granary slice 9. -/
def fullWin : SMap (List SUpd) := [(9, (List.range 64).map fun i =>
  { srcs := [.copy 81 4], tok := i + 100, ordered := false, addr := 0, n := 8, op := 1, val := 5, round := 0, idx := 0, full := false, ctx := 3, vf := 2, launch := 5 })]
/-- An update of the acting reeve in a window. -/
def updR : SUpd :=
  { srcs := [.reeve 81], tok := 1, ordered := false, addr := 0, n := 8, op := 1, val := 5, round := 0, idx := 0, full := false
    ctx := 3, vf := 2, launch := 5 }
/-- An entry of the combining buffer. -/
def combOf (op i : Nat) (space : Nat := 0) : Comb := { space := space, addr := slicePhys 9 (8 * i), op := op, val := 3 }
/-- The acting reeve with entries. -/
def sComb (l : List Comb) (s : State := sU) : State := s.updMe fun r => { r with comb := l }

/-- TrapEntryAndReturn, RaisingAndExit: a launch whose faults no freeze holds, and one whose are; an EXIT that must flush a
buffer, an update and an access to a peer; barriers whose phase ends, goes on, and has been broken. -/
theorem witness_RaisingAndExit_waits :
    let b : Barrier := { key := barKey 3 81, arrived := [7, 81], phase := 2 }
    let o (l : Launch) (x : Barrier) (s : State) : Bool :=
      let left := (barOf { l with bars := [x] } (barKey 3 81)).arrived.filter fun h => h != 81
      left != [] && !(x.broken && x.brokenAt != s.cycle) &&
        decide ((l.reeves.filter fun h => h != 81 && barKey 3 h == barKey 3 81 && (s.reeve h).run != .exited).length ≤ left.length)
    launchU.heldFaults = [] ∧ freezes sS sS.me.launch = false ∧
    freezes { sS with insts := [(1, { instP with plane := .freezing })] } sS.me.launch = true ∧
    fetchCode 8 0 = true ∧ fetchCode 0xB 1 = true ∧ fetchCode 0xB 4 = false ∧ freezes sU sU.me.launch = false ∧
    (match flushComb { sComb [combOf 1 4] with windows := fullWin } 81 (fun _ => true) with
     | .error (.keep _ .memory) => true
     | _ => false) = true ∧
    good (flushComb (sComb [combOf 1 4]) 81 fun _ => true) ∧
    windowBusy { sU with windows := [(9, [updR])] } (.reeve sU.cur) = true ∧
    (sPeer.peerOut.any fun q => q.who == .reeve sPeer.cur) = true ∧ Still sU ∧
    o { launchU with reeves := [81] } b sU ∧ o { launchU with reeves := [81, 80] } b sU ∧
    !o { launchU with reeves := [81, 80, 82] } b sU ∧ !o { launchU with reeves := [81] } { b with arrived := [81] } sU ∧
    !o { launchU with reeves := [81] } { b with broken := true, brokenAt := 1 } sU := by
  unfold Still Quiet; decide +kernel

/-- PhysicalWrites, FullEmptyWords: a word with waiters before and at a consumer, an uncorrectable one, and a waiter of a
launch that is to be rolled back. -/
theorem witness_FullEmptyWords_waiters :
    let w := (scratchBase 81 + 16) / 8
    let x (h : Nat) (c : Bool) : Waiter := { word := w, who := .reeve h, consume := c }
    let s : State := { sU with waiters := [x 7 false, x 8 true, x 9 false] }
    let z : State := { s with reeves := [(7, { reeveU with launch := 6 }), (81, reeveU)]
                              launches := [(5, launchU), (6, { launchU with st := .replaying })] }
    s.waiting w = s.waiters ∧ servedBy false (s.waiting w) = 2 ∧ servedBy true (s.waiting w) = 3 ∧
    (z.waiting w).length = 2 ∧ (0 < (sU.me.gr 9).toNat ∧ (sU.me.gr 9).toNat < 2 ^ 37) ∧ Still sU ∧
    isOnChip (scratchBase 81 + 16) = true := by
  unfold Still Quiet; decide +kernel

/-- ReductionsAndFences: a buffer without the word, with it under the same operation and under another, and a full one; a RED
of FADD to a scratchpad word, to a granary word whose window takes it or is full, to a peer, and one whose flush waits. -/
theorem witness_ReductionsAndFences_buffer :
    let pa := slicePhys 9 32
    let word (d : Comb) : Bool := d.space == 0 && d.addr == pa
    let mine (o : Nat) (d : Comb) : Bool := word d && d.op == o
    let l (s : State) (k : KReg) (n : Nat) : Option Loc :=
      (access s s.acx (s.me.kr k) (s.me.kr k).offset n n clReduce rA).toOption
    let one := sComb [combOf 1 4]
    let lots := sComb ((List.range 64).map fun i => combOf 1 (i + 5))
    one.me.comb.any word = true ∧ (one.me.comb.find? (mine 1)).isSome ∧ one.me.comb.any (mine 2) = false ∧
    good (flushComb one 81 word) ∧ lots.me.comb.any word = false ∧ 64 ≤ lots.me.comb.length ∧
    good (flushComb lots 81 (· == combOf 1 5)) ∧ l one 4 8 = some (.phys pa) ∧ l sU 4 4 = some (.phys pa) ∧
    isGranary pa = true ∧ windowTakes (mgetD sU.windows (pa % 2 ^ 48 / 2 ^ 27) []) sU.nextId = true ∧
    windowTakes (mgetD fullWin (pa % 2 ^ 48 / 2 ^ 27) []) sU.nextId = false ∧
    good (flushComb { sU with windows := fullWin } 81 (·.under (.phys pa) 4)) ∧
    l sPeer 12 4 = some (.peer (1 <<< 41 + 16) (1 <<< 41 + 16) false) ∧
    good (flushComb sPeer 81 (·.under (.peer (1 <<< 41 + 16) (1 <<< 41 + 16) false) 4)) ∧
    (match flushComb { one with windows := fullWin } 81 (·.under (.phys pa) 4) with
     | .error (.keep _ .memory) => true
     | _ => false) = true := by
  decide +kernel

/-- TagsAndRings: a TWAITANY that waits; an RREL of a ring that a session has filled, and of one that none has. -/
theorem witness_TagsAndRings_feed :
    let s := sR.updMe fun r => { r with rings := [(2, { ringQ with feed := true })] }
    let x := s.me.ring 2
    x.init = true ∧ 2 ≤ (x.wp - x.rp).toNat ∧ ringSession s s.cur 2 = none ∧ x.feed = true ∧ (sR.me.ring 2).feed = false ∧
    (s.launchOf s.me.launch).isSome = true := by
  decide +kernel

/-- BarriersOfStreamsAndPorts: a DRAIN of a poisoned token, whose record names a fault that replays or one that does not. -/
theorem witness_BarriersOfStreamsAndPorts_poison :
    let q : SPort := { buf := [{ tok .data 5 with poison := true }] }
    let s (f : Trap) : State := { sP with ports := [(81 * 16 + 2, q)], ctxs := [(3, { vf := 2, poison := some f })] }
    let t : Trap := { code := .capTag, addr := 8 }
    let r : Trap := { code := .eccUncorr, sub := 2, addr := 8 }
    let d := portDecl (s t) 81 2
    (s t).me.superv = false ∧ ((s t).sport 81 2).buf = q.buf ∧ declUsed d = true ∧ declDir d = true ∧ q.cur = none ∧
    q.pending = [] ∧ ((mget (s t).ctxs (s t).me.ctx).bind (·.poison)) = some t ∧ t.code.replays = false ∧
    ((mget (s r).ctxs (s r).me.ctx).bind (·.poison)) = some r ∧ r.code.replays = true := by
  decide +kernel

/-- GraphInstructions: a QSWEEP's second sweep, of a launch that rests whole and of one of which another graph has acted. -/
theorem witness_GraphInstructions_region :
    let x : Inst := { instP with cells := [(3, joinWaits)], acts := 4 }
    let y : Inst := { x with graph := { graph0 with handle := 10 }, acts := 7 }
    let s (n : Nat) : State := { sP with insts := [(1, x), (2, y)], cycle := 70000 }.updMe fun r =>
      { r with sweepAt := some 9, sweepSaw := [(1, 4), (2, n)] }
    let rests (s : State) (z : Nat × Inst) : Bool := idleInst s z.1 z.2 && z.2.acts == mgetD s.me.sweepSaw z.1 0
    let region (s : State) := launchInsts s s.me.launch
    handleInst (s 7) 5 ((s 7).me.gr 7).toNat = some (1, x) ∧ ((s 7).me.sweepAt.all fun c => decide (sweepGap ≤ ((s 7).cycle - c).toNat)) ∧
    rests (s 7) (1, x) = true ∧ quietInst (s 7) 1 x = true ∧ allEos (s 7) x = false ∧ (region (s 7)).all (rests (s 7)) = true ∧
    (region (s 7)).any (fun z => !allEos (s 7) z.2) = true ∧ deadConds (s 7) 5 launchU (some 81) = true ∧
    rests (s 6) (1, x) = true ∧ (region (s 6)).all (rests (s 6)) = false := by
  decide +kernel

/-- BarAndDescriptorInstructions: a barrier that broke in this cycle, before a last arrival and before another, and one that
broke before. -/
theorem witness_BarAndDescriptorInstructions_broken :
    let two : Launch := { launchU with reeves := [81, 7] }
    let s : State := { sU with launches := [(5, two)], reeves := [(7, { run := .running }), (81, reeveU)] }
    let last (key : Nat) : Bool := decide ((participants s two key).length ≤ (sadd (barOf two key).arrived 81).length)
    let now (k : Nat) : Barrier := { key := barKey k 81, broken := true, brokenAt := 99 }
    last (barKey 0 81) = true ∧ last (barKey 4 81) = false ∧ (now 0).brokenAt = s.cycle ∧
    ({ now 0 with brokenAt := 98 } : Barrier).brokenAt ≠ s.cycle ∧ (barOf (setBar two (now 4)) (barKey 4 81)).broken = true := by
  decide +kernel

/-- EngineInstructions: an index where none may be and a ring above 15; an engine that is not ready and a full Drover; a
CLOSE of a session and of none. -/
theorem witness_EngineInstructions_stalls :
    let s (v : Nat) : State := (withG 6 v (sEngine blockP)).updMe fun r => { r with rings := [(2, ringQ)] }
    let k := (s 0).me.kr 1
    let c0 (v : Nat) (bs : List Byte) : Cmd := {
      eng := .mpath, hamlet := 81, xid := 0, ctx := 3, vf := 2, launch := 5, handle := 0
      cap := k, block := bs, arg := v / 256, descs := [] }
    let run (s : State) (v : Nat) (chk : State → Cmd → Except Stop (State × Cmd)) (f : State → Cmd → Bool) : Bool :=
      ((capBlock s s.acx k k.offset 64 1 clLoad.engine).bind fun bs => (chk bs.2 (c0 v bs.1)).map fun c => f c.1 c.2).toOption == some true
    let close (h : Nat) : Nat := 256 * (1 + 256 * h)
    let o : State := { s (close 77) with cmds := [(4, { c0 0 [] with eng := .threshOpen, handle := 77 })] }
    let full : SMap Cmd := (List.range 16).map fun i => (i + 10, { c0 0 [] with eng := .drove, started := true })
    (0x104 % 4 = 0 ∧ 0x104 / 4 % 64 ≠ 0) ∧ (let v := 0x102 + 4 * 18; v % 4 = 2 ∧ ¬ v / 4 % 64 < 16 ∧ good (stepOne (s v).me 2 2)) ∧
    run (s 0x104) 0x104 checkMpath (fun _ _ => true) ∧ run { s (close 9) with ready := [] } (close 9) checkThresh engBusy ∧
    engBusy { s 0 with cmds := full } { c0 0 [] with eng := .drove } = true ∧
    engBusy (s 0) { c0 0 [] with eng := .drove } = false ∧ mget (s 0).cmds (s 0).nextId = none ∧ mget (s 0).cmds 0 = none ∧
    run (s (close 9)) (close 9) checkThresh (fun s c => !engBusy s c && c.eng == .threshClose && c.queue == 0) ∧
    run o (close 77) checkThresh (fun s c => !engBusy s c && c.eng == .threshClose && (mget s.cmds c.queue).isSome) := by
  decide +kernel

/-- LinksAndCredits: an actor's output port with a token, its slot's accesses performed or not. -/
theorem witness_LinksAndCredits_actor :
    let x : Slot := { slotG none [] [] with ports := [(4, { slots := [(0, t1)], fill := 1, tail := 1 })] }
    let c : Circ := { circO 4 [] with sport := 12 }
    let s : State := { sG x with insts := [(1, instP), (2, { instP with cells := [(3, { kind := .actor, slots := [(1, x)] })], hams := [82], circs := [c] })] }
    let late : State := { s with windows := [(9, [{ updC with srcs := [.node nF] }])] }
    c.srcRef 2 = { nF with sub := (c.srcRef 2).sub } ∧ c.sport / 8 = nF.sub ∧ c.sport % 8 = 4 ∧ 0 < (c.link 0).credits ∧
    s.nodeLive (c.srcRef 2) = true ∧ (s.cellAt (c.srcRef 2)).kind = .actor ∧ ((s.slotAt nF).port 4).front = some t1 ∧
    allPerformed s (.node nF) = true ∧ allPerformed late (.node nF) = false := by
  decide +kernel

/-- FiringsAndCommits: a cycle at which the weights are taken, and one at which they are not. -/
theorem witness_FiringsAndCommits_weights :
    let s := sG (slotG none [t1, t2] [])
    s.cycle.toNat % 256 ≠ 0 ∧ ({ s with cycle := 512 } : State).cycle.toNat % 256 = 0 ∧ s.focus = some nF ∧
    (s.cellAt nF).kind = .actor := by
  decide +kernel

/-- CountsLoopsAndMarkers: a COUNT that would open a round too far on, and one that would not; a FANOUT whose branch has no
room for PMK. -/
theorem witness_CountsLoopsAndMarkers_held :
    let x : CountSt := { busy := true, n := 7, next := 0, marks := 3, round := 2048 }
    let c (x : CountSt) := opCell .count 1 7 0x900 [(0, [t1])] [(0, .count x)]
    let s (x : CountSt) := sO (c x) [circO 3 [{ t1 with tag := mkTag 3 0 0 0 }]]
    let o (q : List Token) : Cell := { opCell .fanout 1 1 0 [(0, [tPmk])] with outq := [(4, q)] }
    (c x).marksEor = true ∧ x.marks = (c x).fld 1 8 1 + 2 * (c x).fld 1 11 1 ∧ roundFar (s x) nO x.round = true ∧
    roundFar (s { x with round := 2047 }) nO 2047 = false ∧ canSend (s x) nO 4 1 = true ∧ nodeOk (s x) nO .count = true ∧
    (sO (o [t1])).nodeLive nO = true ∧ (o [t1]).front 0 = some tPmk ∧ 4 ∈ (o [t1]).outs ∧
    (o [t1]).fld 1 0 4 + 1 ≤ nth0 (branchCounts (sO (o [t1])) nO) 0 ∧ nth0 (branchCounts (sO (o [])) nO) 0 = 0 := by
  decide +kernel

/-- CountsLoopsAndMarkers: a COUNT in LOOP mode after its exit, whose predicates have all come back or have not; the head of
a loop that waits for an issue, that has emitted a part of an iteration, and that drains. -/
theorem witness_CountsLoopsAndMarkers_drain :
    let c (a : List Token) (x : CountSt) := opCell .count 1 7 0x1d [(0, a)] [(0, .count x)]
    let x : CountSt := { issued := 3, got := 2, decided := 3, exit := some 1, exitSent := true }
    let l (b d : List Token) (x : LoopSt) := opCell .merge 7 1 2 [(1, b), (2, d)] [(0, .loop x)]
    let y : LoopSt := { started := true, looping := true, issued := 3, iter := 2, r0 := tagRound tEor.tag + 4096 - 2, exit := some 1 }
    let body (q : List Token) : List Circ := [circO 4 q, { circO 4 [] with sc := 5, dc := 3, dport := 1 }]
    let s (q : List Token) := sO (l [] [] { y with drain := true }) (body q)
    (c [t2] x).countSt.got < (c [t2] x).countSt.issued ∧ (c [t2] x).front 0 = some t2 ∧ t2.isMarker = false ∧
    (c [] { x with got := 3 }).countSt.issued ≤ (c [] { x with got := 3 }).countSt.got ∧ x.issued ≤ x.decided ∧
    (c [] { x with got := 0, ended := true, exit := none, issued := 1, decided := 0 }).countSt.got = 0 ∧
    (l [tEor] [] y).front 1 = some tEor ∧ (l [tEor] [] y).front 2 = none ∧ y.iterOf tEor = 2 ∧ y.iter ≤ y.iterOf tEor ∧
    ({ y with part := true } : LoopSt).part = true ∧ ({ y with exit := none, issued := 2 } : LoopSt).issued ≤ y.iterOf tEor ∧
    { y with r0 := y.r0 + 1 }.iterOf tEor < y.iter ∧ (s []).cellAt nO = l [] [] { y with drain := true } ∧
    bodyHolds (s []) nO = false ∧ bodyHolds (s [t1]) nO = true ∧ ({ y with drain := true } : LoopSt).drain = true := by
  decide +kernel

/-- WarpConvertAndMills: a mill whose out0 has room for a row's sums, that has no credit, and whose consumer's buffer is full. -/
theorem witness_WarpConvertAndMills_room :
    let m := opCell .mac 3 1 0x0f00 [(0, [t1]), (1, [t1])] [(0, .mac { loaded := true, wtoks := [t1, t1] })] 0x20000
    let s (k : Nat) (q : List Token) : State := { sO m with
      insts := [(1, instP), (2, { instP with cells := [(3, m), (5, opCell .join 1 1 0 [(0, q)])], hams := [82], circs := [circO k []] })] }
    let full := List.replicate 8 t1
    rowRoom (s 4 []) nO m = true ∧ rowRoom (s 0 []) nO m = false ∧
    rowRoom (sO m) nO { m with words := [(0, 0x130), (1, 0x8f00), (2, 0x20000)] } = true ∧
    ({ m with words := [(0, 0x130), (1, 0x8f00), (2, 0x20000)] } : Cell).accBit = true ∧ canSend (s 1 full) nO 4 1 = true ∧
    pathTakes (s 4 full) nO 4 (cdiv m.ncol 16) = true ∧ pathTakes (s 4 full) nO 4 5 = false ∧ packTokens m.afmt m.millK = 2 := by
  decide +kernel

/-- CallsAndReturns: a caller at its point with its launch's buffers flushed and not; a refill with and without room in the
switches; a side call of the wrong count. -/
theorem witness_CallsAndReturns_room :
    let i := { instC 0x1100 { words := [1, 2] } with plane := .freezing, call := some (nO, [1, 2], 7) }
    let f := sC i
    let w := flushReeves f [81]
    let v := (freezePorts (abandonAll w.1 2) 2).updInst 2 fun x => { x with plane := .shadow }
    let k : State := sComb [combOf 1 4] { f with windows := fullWin }
    let im : Inst := { i with hops := [(82, 2)] }
    let full : List W64 := List.replicate 64 2
    let room (s : State) : Bool := im.hops.all fun e => decide ((s.ham e.1).switch.length + (im.hops.filter (·.1 == e.1)).length ≤ 64)
    let g : Graph := { graph0 with nentry := 1, pages := [[]] }
    let one : State := { sSide with insts := sSide.insts.map fun x => if x.1 = 1 then (1, { x.2 with graph := g }) else x }
    f.launchOf i.launch = some launchU ∧ settled f 2 = true ∧ shadowRoom f i.hams = true ∧ w.2 = true ∧
    ((sweepAfresh (raiseHeld v 5) 5).inst 2).isSome ∧ (flushReeves k [81]).2 = false ∧ settled k 2 = true ∧
    room f = true ∧ room { f with hamlets := [(82, { switch := full })] } = false ∧
    liveGraph one (one.instLaunch 2) 9 = some g ∧
    ((List.range 4).filter fun p => (sideWord one ⟨nF, 2, 9, []⟩).testBit (8 + p)).length ≠ g.nentry := by
  decide +kernel

/-- StreamsCopiesAndClears: an ordered update whose word's earlier token is still on its way, one that waits for none, and
one in a full window. -/
theorem witness_StreamsCopiesAndClears_tags :
    let u : SUpd := { updM with addr := scratchBase 81 + 8, idx := 5 }
    let s := sM (memCell 4 2 [(16, [tTwo]), (17, [t1])] {} 0x40)
    let w := u :: (List.range 63).map fun i => { u with tok := i + 2 }
    tagWaits s [u] u = true ∧ tagWaits sP [u] u = false ∧ mayApply [u] 0 = true ∧ mayApply w 0 = true ∧ tagWaits s w u = false := by
  decide +kernel

/-- WalksAndOutside: a package whose link is trained or not, ready or FAILED; registers of the host; a peer served or not; a
port that trains while the first stage stands and after it failed; a walker of a shire that is ready or not. -/
theorem witness_WalksAndOutside_link :
    let s : State := { sH with linkMode := 1, ready := [10, 11, 64, 896 + 3, 896 + 4], steward := { failed := false } }
    let f : State := { s with ready := [12], steward := { failed := true } }
    let mmio (a : Nat) : Bool := a / 2 ^ 48 == 14 || decide (2 ^ 52 ≤ a)
    let reaches (s : State) (a : Nat) : Bool :=
      isHost a || s.linkMode != 0 && (s.usable 10 || mmio a && (s.steward.failed || s.boot != 0))
    let carries (s : State) (p : Nat) : Bool := (s.port p).up && (s.usable (896 + p) || s.steward.failed)
    let served (s : State) (p : Nat) : Bool := (s.usable 11 || s.steward.failed) && carries s (p % 48)
    let r : PeerReq := { id := 7, who := .reeve 81, port := 3, addr := 0x55, op := .load 8, wants := true, ctx := 3, vf := 2, ea := 0x55, mapped := false }
    let walks (s : State) : State := { s with walks := [walk0 false] }
    reaches s 3 = true ∧ reaches sH 3 = false ∧ reaches f 3 = false ∧ reaches f (14 * 2 ^ 48 + 0x578) = true ∧
    reaches f (2 ^ 52) = true ∧ reaches { s with ready := [], boot := 1 } (2 ^ 52 + 0x3000) = true ∧ physLoc 3 3 = .ok (.phys 3) ∧
    served s 3 = true ∧ served s 5 = false ∧ served { s with ready := [896 + 3] } 3 = false ∧ served f 4 = true ∧
    mget s.domain (3 * 512 + 5) = none ∧ mget s.domain (3 * 512 + 4) = some 2 ∧
    s.peerOut.find? (·.id == 7) = some r ∧ isOldest s r = true ∧ carries s r.port = true ∧ carries { s with ready := [] } r.port = false ∧
    (s.port 4).training = true ∧ firstStageDown s = false ∧ firstStageDown { s with boot := 1 } = true ∧
    (walks s).usable 64 = true ∧ (walks { s with ready := [] }).usable 64 = false ∧ f.steward.failed = true := by
  decide +kernel

/-- PagerAndBeadle: a choice outside the partition; the sweeps of a launch whose nodes still wait for an access. -/
theorem witness_PagerAndBeadle_outside :
    let s := sPl
    let x := { launchU with idle := true }
    let b : State := { s with cycle := 70000, insts := [(1, { instP with deadlocked := true })], launches := [(5, x)] }
    ([3].any fun h => !(vfHamlets s 2).contains h) = true ∧ (s.places.any fun q => q.1 == 3 && q.2.claim.isEmpty) = true ∧
    sweepsOff b 5 x = false ∧ (launchInsts b 5).all (fun y => y.2.deadlocked) = true ∧ 65536 ≤ (b.cycle - x.sweepAt).toNat := by
  decide +kernel

/-- HostQueuesAndDispatch: an entry whose parameter block lies in another package, and one whose read faults; a launch that a
reservation holds back. -/
theorem witness_HostQueuesAndDispatch_held :
    let m := (((((sQ.mem.write 0x10000 (leBytes 8 0x20001)).write 0x20000 (leBytes 8 0x7F)).write 0x20008 (leBytes 8 (2 ^ 51 + 2 ^ 41 + 0x7F))).write 0x30000
      (leBytes 8 0x40001)).write 0x40000 (leBytes 8 0x7F)).write 0x40008 (leBytes 8 (2 ^ 30 + 0x7F))
    let s (va : Nat) : State := { sQ with
      ctxs := [(3, { vf := 2 })], roots1 := [(3, 0x30000)], roots2 := [(2, 0x10000)], steward := { kicks := [2] }, domainPkgs := [0, 1]
      vfs := [(2, { base := BitVec.ofNat 64 (scratchBase 90), tail := 1 })]
      mem := m.write (scratchBase 90) (leBytes 8 va ++ leBytes 2 3 ++ leBytes 54 0) }
    let stop (va : Nat) : Nat := match takeEntry (s va) 2 ((s va).vfOf 2) with
      | .error (.wait _ _) => 1
      | .error (.trap _) => 2
      | .error (.trapIn _ _) => 3
      | _ => 0
    let r : State := { (sQ launchQ) with vfs := [(2, { reserved := some 7 })], launches := sU.launches ++ [(6, launchQ), (7, { launchQ with st := .placing })] }
    stop (2 ^ 30 + 0x50000) = 1 ∧ stop (2 ^ 31) = 3 ∧ queueOrder r 2 = [(6, launchQ)] ∧
    heldBack (noteBehind r 2) 2 6 launchQ = true ∧ stewardUp r = true := by
  decide +kernel

/-- LaunchesStartAndEnd: a launch held back as it is placed; one that is done but for its buffers, or for an access. -/
theorem witness_LaunchesStartAndEnd_held :
    let l := launchQ .placing
    let r : State := { (sQ l) with vfs := [(2, { reserved := some 7 })], launches := sU.launches ++ [(6, l), (7, launchQ)] }
    let done : Launch := { launchU with reeves := [] }
    let d : State := { sQ with launches := [(5, done)] }
    let q : PeerReq := { id := 7, who := .reeve 81, port := 3, addr := 0x55, op := .store [], wants := true, ctx := 3, vf := 2, ea := 0x55, mapped := false }
    let one : Launch := launchU
    let x : State := sComb [combOf 1 4] { sQ with reeves := [(81, { reeveU with run := .exited })] }
    r.launchOf 6 = some l ∧ heldBack r l.vf 6 l = true ∧ stewardUp r = true ∧ d.launchOf 5 = some done ∧ launchDone d 5 done = true ∧
    (flushReeves d done.reeves).2 = true ∧ accessOwed (flushReeves d done.reeves).1 5 = false ∧
    (flushReeves { x with windows := fullWin } one.reeves).2 = false ∧ launchDone { x with windows := fullWin } 5 one = true ∧
    accessOwed (flushReeves { x with peerOut := [q] } one.reeves).1 5 = true ∧ launchDone { x with peerOut := [q] } 5 one = true := by
  decide +kernel

/-- PreemptionRequests, SaveAndRestore: a launch whose checkpoint is under way, one that was asked before; victims while
others leave; a restore of a rolled-back launch. -/
theorem witness_PreemptionRequests_others :
    let s := sPre { launchU with ckptAt := some 7 }
    let w := { launchW with behindAt := some 4 }
    let u := noteBehind (sPre launchU w) 2
    let g := noteBehind (sPre { launchU with preemptAsked := true } w) 2
    let waits (s : State) : Bool := match plan (afterPreempts s 2) w with
      | .wait none => true
      | _ => false
    let back : Launch := { lSaved with st := .restoring, rollback := some { code := .link } }
    s.launchOf 5 = some { launchU with ckptAt := some 7 } ∧ requestHeld s 5 { launchU with ckptAt := some 7 } = false ∧
    waits u = true ∧ waits g = false ∧ victims (afterPreempts u 2) w (victimOrder u 2 (effClass u w)) = [5] ∧
    back.rollback.isSome = true ∧ back.image.isSome = true := by
  decide +kernel

/-- StewardTakeover: a second trap in a takeover, before and after the standby core has started. -/
theorem witness_StewardTakeover_second :
    let t : Steward := { trapped := true, standby := true }
    let f : Vf := { vmask := [3] }
    t.trapped = true ∧ t.failed = false ∧ t.standby = true ∧ ({ t with standby := false } : Steward).standby = false ∧
    f.vmask.contains 3 = true ∧ ({ vmask := [] } : Vf).vmask.contains 3 = false := by
  decide +kernel

/-- EngineCommands: a rule that holds, and one that does not; a key's start by its root and by its hash; points binned in a
slot, in an overflow entry and in none; a list of pairs; a merge's split. -/
theorem witness_EngineCommands_pieces :
    let hdr : List Byte := leBytes 2 2 ++ leBytes 2 1 ++ leBytes 4 1 ++ leBytes 4 0x3F800000 ++ leBytes 4 0x3F800000 ++ leBytes 48 0
    let d := cmdE .drove (leBytes 32 0 ++ [1, 2, 3, 4, 0, 1] ++ leBytes 2 0 ++ leBytes 4 2 ++ leBytes 4 3 ++ leBytes 8 0x20 ++ leBytes 72 0)
    let b (p : Prog) := { cmdE .pinbin (leBytes 32 0 ++ [1, 2, 3, 4, 4, 0, 0, 0] ++ leBytes 4 2 ++ leBytes 4 1 ++ leBytes 16 0) with prog := p }
    let at_ : Prog := { begun := true, hdr := hdr }
    let sel (w : Work (State × Prog)) (f : Prog → Bool) : Bool := match w with
      | .ok x => f x.2
      | .error _ => false
    let bin (p : Prog) (f : Prog → Bool) : Bool := sel (binNext (sE (b p)) ((b p).acx 4) (b p)) f
    let full : SMap Pen := [(0, { count := 1 })]
    let m := { cmdE .mpath (leBytes 32 0 ++ [1, 2, 3, 2] ++ leBytes 28 0) with prog := {} }
    let e : Prog := { begun := true, rest := [leBytes 8 5], res := { c1 := 1 } }
    good (engNat (sE d) (d.acx 4) (d.desc 0x20).base 0 8 8) = true ∧ d.fld 0x26 1 % 2 = 0 ∧ good (droveKey (sE d) (d.acx 4) d 0) = true ∧
    d.prog.at_ < d.fld 0x28 4 ∧ sel (droveNext (sE d) (d.acx 4) d) (fun p => p.at_ == 1) = true ∧
    bin {} (fun p => p.begun) = true ∧ bin at_ (fun p => p.binned == 1 && (mgetD p.pens 0 {}).count == 1) = true ∧
    bin { at_ with pens := full } (fun p => p.used == 1 && (mgetD p.pens 0 {}).head == 0) = true ∧
    bin { at_ with pens := full, used := 1 } (fun p => p.fin && p.res.st == 3) = true ∧
    bin { at_ with at_ := 3, pens := full } (fun p => p.at_ == 4) = true ∧ bin { at_ with at_ := 4 } (fun p => p.fin) = true ∧
    penOf (unpackF fp32 0x7F800000) .zero (.dy 1 0) 2 false = none ∧
    sel (mpathNext (sE m) (m.acx 4) m) (fun p => p.begun && p.rest.length == 3) = true ∧
    sel (mpathNext (sE m) (m.acx 4) { m with prog := e }) (fun p => p.fin) = true ∧
    sel (pairNext (sE (b e)) ((b e).acx 4) { b e with eng := .pinpair }) (fun p => p.fin) = true := by
  decide +kernel

/-- ThresherSessions: a sample with a piece still to be written; a session that cannot know yet whether a stream goes on. -/
theorem witness_ThresherSessions_pieces :
    let c := cmdE .threshOpen blockS
    let p : Piece := { field := 0x2B, off := 0, align := 1, bytes := leBytes 4 0 }
    let x := { c with sess := { sample := 1, rest := [p] } }
    let s := sTh x
    let done := { c with sess := { batches := 1 } }
    let u : State := { sTh done with mem := (sTh done).mem.write (scratchBase 81 + 0x800) ([0, 0] ++ leBytes 6 0 ++ leBytes 8 5 ++ leBytes 8 0 ++ leBytes 8 0) }
    mget s.cmds 4 = some x ∧ x.eng = .threshOpen ∧ cmdLive s x = true ∧ good (engWrite s (x.acx 4) (p.base x) p.off p.align p.bytes) ∧
    cmdLive { s with launches := [] } x = false ∧ sessionRuns u done = true ∧ sessionOver u 4 done = false ∧ done.sess.batches ≠ 0 ∧
    ((streamsAhead u 4 done).head?.any fun a => match a with
      | .unknown _ => true
      | _ => false) = true ∧ (streamsAhead u 4 done).contains .more = false := by
  decide +kernel

/-- TileTasks: a task whose sums are formed, with a word of C still to be written. -/
theorem witness_TileTasks_words :
    let t : Task := { taskT [(3, descA 0x1200)] with summed := true, rest := [((0, 1), 5)] }
    let q := queueT [t]
    let s := sTask q (recT 0 2 2)
    let c := (mget t.descs (recFld t.rec_ 10 1)).getD Desc.raw
    mget s.mqueues 9 = some q ∧ q.issued.find? (·.idx == 0) = some t ∧ recFld t.rec_ 10 1 = 3 ∧
    good (engWrite s (q.acx 9) c.base ((0 : Int) * c.stride 0 + 1 * c.stride 1) 4 (leBytes 4 5)) := by
  decide +kernel

/-- CountersServiceAndSamples: windows that are due and not, with two tenants that slow a third; the index of a sample. -/
theorem witness_CountersServiceAndSamples_due :
    let s (n : Nat) : State := { sV 100 with cycle := BitVec.ofNat 64 n, qosAt := [(1, 16000)], vfs := (sV 100).vfs ++ [(5, { qos := 0x20 })] }
    let q := (List.range 150).map fun i => i * 3
    let slows (s : State) (best : List Nat) := best.filter fun w => decide (w < 512) && (s.vfOf w).qos.getLsbD 5
    let x (f : Firing) : Slot := slotG (some f) [] []
    ¬ 16000 ≤ ((s 31999).cycle - mgetD (s 31999).qosAt 1 0).toNat ∧ 16000 ≤ ((s 32000).cycle - mgetD (s 32000).qosAt 1 0).toNat ∧
    ([(2, q)].filterMap (verdict (s 32000))).any id = true ∧ slows (s 32000) [4, 4] = [4, 4] ∧
    sampledIdx sP (x { waiting := true, idx := 3, last := some 1 }) = 3 ∧ sampledIdx sP (x { idx := 3, last := some 1 }) = 1 := by
  decide +kernel

/-- ControlWrites, RetirementContextsAndClocks: bytes of an allotment in and out of range, slices of another context; vectors
that pend; hamlets and pages at their thresholds, within a day and after it. -/
theorem witness_RetirementContextsAndClocks_errors :
    let s (l : List (Nat × Nat × W64)) : State := { sP with errs := l, time := BitVec.ofNat 64 (86400 * 10 ^ 9) }
    let a : Nat × Nat × W64 := (2, 0x100008, 1)
    let v : Vf := { msix := [3], vmask := [3] }
    hamErrors (s [(5, 81, 1), (4, 81, 1), (5, 81, 2)]) 81 = 3 ∧ hamErrors (s [(5, 81, 0), (4, 81, 1), (5, 81, 2)]) 81 = 2 ∧
    pageErrors (s [a, a]) 0x100000 = 2 ∧ pageErrors (s [a]) 0x100000 = 1 ∧ pageErrors (s [a, a]) 0x110000 = 0 ∧
    ((s [a]).time - a.2.2).toNat < 86400 * 10 ^ 9 ∧ v.msix.contains 3 = true ∧ v.vmask.contains 3 = true ∧
    (sP.ecc.cells = [] ∧ sP.ecc.pages = [] ∧ sP.outOps = []) ∧ mget ({ sP with sliceOwner := [(7, 4)] } : State).sliceOwner 7 = some 4 := by
  decide +kernel

/-- ResetSelfTestsAndFirmware: the boot word after each stage that fails, and the functions it keeps down. -/
theorem witness_ResetSelfTestsAndFirmware_down :
    let s (b : W64) : State := { sP with boot := b, ready := [8, 10, 384, 900] }
    stageDown (s 1) (.die 3) = true ∧ stageDown (s 2) (.steward 0) = true ∧ stageDown (s 2) (.vfq 5) = true ∧ stageDown (s 2) (.die 3) = false ∧
    ((s 2).ready.filter fun b => b ≠ 8 ∧ b ≠ 9 ∧ (b < 384 ∨ 896 ≤ b)) = [10, 900] ∧ (s 1).boot = 1 ∧ (s 0).boot ≠ 1 := by
  decide +kernel

end Sys2Proof.Tests
end

section
/-! SUPPORT. Faults of reeves: taking one at U and at S level, the barriers that a trap at S level breaks, and the return
from a handler (R103, R276, R277). -/

namespace Sys2Proof.Machine

/-! ### What the record of a fault can touch -/

/-- `t` is `s` but for its launches and the noted errors. -/
def LaunchesOnly (s t : State) : Prop := ∃ ls es, t = { s with launches := ls, errs := es }

theorem LaunchesOnly.refl (s : State) : LaunchesOnly s s := ⟨s.launches, s.errs, rfl⟩
theorem LaunchesOnly.trans {s t u : State} (h : LaunchesOnly s t) (k : LaunchesOnly t u) : LaunchesOnly s u := by
  obtain ⟨ls, es, rfl⟩ := h
  obtain ⟨ks, fs, rfl⟩ := k
  exact ⟨ks, fs, rfl⟩
theorem LaunchesOnly.mem {s t : State} (h : LaunchesOnly s t) : t.mem = s.mem := by obtain ⟨_, _, rfl⟩ := h; rfl
theorem LaunchesOnly.cur {s t : State} (h : LaunchesOnly s t) : t.cur = s.cur := by obtain ⟨_, _, rfl⟩ := h; rfl
theorem LaunchesOnly.reeves {s t : State} (h : LaunchesOnly s t) : t.reeves = s.reeves := by
  obtain ⟨_, _, rfl⟩ := h; rfl
theorem LaunchesOnly.insts {s t : State} (h : LaunchesOnly s t) : t.insts = s.insts := by
  obtain ⟨_, _, rfl⟩ := h; rfl
theorem LaunchesOnly.freezes {s t : State} (h : LaunchesOnly s t) (l : Nat) : freezes t l = freezes s l := by
  obtain ⟨_, _, rfl⟩ := h; rfl

theorem launchesOnly_updLaunch (s : State) (l : Nat) (f : Launch → Launch) : LaunchesOnly s (s.updLaunch l f) :=
  ⟨_, s.errs, rfl⟩
theorem launchesOnly_recordFault (s : State) (l : Nat) (t : Trap) (b : BitVec 32) :
    LaunchesOnly s (recordFault s l t b) := ⟨_, _, rfl⟩

theorem launchesOnly_breakBarriers (s : State) (l h : Nat) : LaunchesOnly s (breakBarriers s l h) := by
  unfold breakBarriers
  extract_lets t
  have ht : LaunchesOnly s t := launchesOnly_updLaunch ..
  split
  · split
    · exact ht
    · exact (ht.trans (launchesOnly_updLaunch ..)).trans (launchesOnly_recordFault ..)
  · exact ht

/-- A trap at S level changes the reeve that it stops, and launches. -/
theorem stopReeve_only (s : State) (h : Nat) (t : Trap) :
    LaunchesOnly (s.setReeve h { s.reeve h with run := .trapped, wait := none, barWait := none }) (stopReeve s h t) := by
  unfold stopReeve
  extract_lets r u isFirst v w
  have hv : LaunchesOnly u v := launchesOnly_recordFault ..
  have hw : LaunchesOnly u w := by
    unfold w
    split
    · exact hv.trans (launchesOnly_updLaunch ..)
    · exact hv
  exact hw.trans (launchesOnly_breakBarriers ..)

/-! ### Taking a fault at U level -/

/-- A fault taken at U level enters the handler, and a launch may note it. -/
theorem trapEntry_user (s : State) (f : Trap) (hu : s.me.superv = false) :
    ∃ t, LaunchesOnly s t ∧ trapEntry f s = t.setReeve s.cur (s.me.enterTrap f) := by
  unfold trapEntry
  simp only [hu, Bool.false_eq_true, if_false]
  split
  · exact ⟨_, launchesOnly_recordFault .., rfl⟩
  · exact ⟨s, .refl s, rfl⟩

theorem trapEntry_user_me {s : State} (f : Trap) (hu : s.me.superv = false) :
    (trapEntry f s).me = s.me.enterTrap f := by
  obtain ⟨t, ht, e⟩ := trapEntry_user s f hu
  rw [e, ← ht.cur, State.me_setReeve]

/-- A fault that triggers no replay, taken at U level, changes the acting reeve alone. -/
theorem trapEntry_user_eq {s : State} {f : Trap} (hu : s.me.superv = false) (hr : f.code.replays = false) :
    trapEntry f s = s.setReeve s.cur (s.me.enterTrap f) := by
  simp [trapEntry, hu, hr]

theorem traps_trapEntry {s : State} {f : Trap} (hu : s.me.superv = false) (hr : f.code.replays = false) :
    Traps s (trapEntry f s) f where
  me := by rw [trapEntry_user_me f hu, Reeve.enterTrap, and_one_of_bit hu, causeOf_eq, psave_eq]
  others h hn := by simp [trapEntry_user_eq hu hr, hn]
  counts := by rw [trapEntry_user_eq hu hr]; rfl
  rest := by rw [trapEntry_user_eq hu hr]; rfl

/-! ### The barrier instances of a reeve (R276, R277) -/

theorem barOf_setBar_self (l : Launch) (b : Barrier) : barOf (setBar l b) b.key = b := by
  simp [barOf, setBar]

theorem barOf_setBar_ne (l : Launch) (b : Barrier) {key : Nat} (h : key ≠ b.key) :
    barOf (setBar l b) key = barOf l key := by
  have hf : (l.bars.filter (·.key != b.key)).find? (·.key == key) = l.bars.find? (·.key == key) := by
    rw [List.find?_filter]
    congr 1
    funext x
    by_cases hx : x.key = key <;> simp [hx, h]
  have hb : (b.key == key) = false := by simpa using fun e : b.key = key => h e.symm
  simp [barOf, setBar, hb, hf]

/-- What a key finds among barrier instances has that key. -/
theorem barOf_key (l : Launch) (key : Nat) : (barOf l key).key = key := by
  unfold barOf
  cases hf : l.bars.find? (·.key == key) with
  | none => rfl
  | some b => simpa using List.find?_some hf

theorem barKey_mod (scope h : Nat) (hs : scope < 5) : barKey scope h % 8 = scope := by
  unfold barKey; omega

theorem barKey_inj {a b h : Nat} (ha : a < 5) (hb : b < 5) (e : barKey a h = barKey b h) : a = b := by
  rw [← barKey_mod a h ha, ← barKey_mod b h hb, e]

/-- One reeve's barrier of a scope, changed by `g`. -/
def updBar (g : Barrier → Barrier) (h : Nat) (l : Launch) (scope : Nat) : Launch :=
  setBar l (g (barOf l (barKey scope h)))

/-- Changing a reeve's instances of some scopes, each by `g`, changes those and no other. -/
theorem barOf_foldl_updBar {g : Barrier → Barrier} (hg : ∀ b, (g b).key = b.key) (h : Nat) (scopes : List Nat)
    (hs : ∀ a ∈ scopes, a < 5) (hn : scopes.Nodup) (l : Launch) {scope : Nat} (hc : scope < 5) :
    barOf (scopes.foldl (updBar g h) l) (barKey scope h) =
      if scope ∈ scopes then g (barOf l (barKey scope h)) else barOf l (barKey scope h) := by
  induction scopes generalizing l with
  | nil => rfl
  | cons a as ih =>
    obtain ⟨ha, hn⟩ := List.nodup_cons.mp hn
    rw [List.foldl_cons, ih (fun b hb => hs b (.tail _ hb)) hn]
    have hk : (g (barOf l (barKey a h))).key = barKey a h := (hg _).trans (barOf_key l _)
    by_cases e : scope = a
    · subst e
      have := barOf_setBar_self l (g (barOf l (barKey scope h)))
      rw [hk] at this
      simp [ha, updBar, this]
    · have hne : barKey scope h ≠ (g (barOf l (barKey a h))).key := by
        rw [hk]
        exact fun e' => e (barKey_inj hc (hs a (.head _)) e')
      simp [e, updBar, barOf_setBar_ne l _ hne]

/-- Changing barrier instances leaves the rest of a launch. -/
theorem foldl_updBar_eq (g : Barrier → Barrier) (h : Nat) (scopes : List Nat) (l : Launch) :
    ∃ bs, scopes.foldl (updBar g h) l = { l with bars := bs } := by
  induction scopes generalizing l with
  | nil => exact ⟨l.bars, rfl⟩
  | cons a as ih =>
    obtain ⟨bs, e⟩ := ih (updBar g h l a)
    exact ⟨bs, e⟩

/-- A barrier broken in a cycle, or as it is where it was broken before. -/
def Barrier.breakNow (now : W64) (b : Barrier) : Barrier :=
  if b.broken then b else { b with broken := true, brokenAt := now }

theorem Barrier.breakNow_key (now : W64) (b : Barrier) : (b.breakNow now).key = b.key := by
  unfold Barrier.breakNow; split <;> rfl

theorem Barrier.breakNow_broken (now : W64) (b : Barrier) : (b.breakNow now).broken = true := by
  unfold Barrier.breakNow; split
  · assumption
  · rfl

/-- A launch with every barrier that holds a reeve broken. -/
def Launch.breakAll (now : W64) (h : Nat) (x : Launch) : Launch :=
  (List.range 5).foldl (updBar (Barrier.breakNow now) h) x

theorem Launch.breakAll_broken (now : W64) (h : Nat) (x : Launch) {scope : Nat} (hs : scope < 5) :
    (barOf (x.breakAll now h) (barKey scope h)).broken = true := by
  rw [Launch.breakAll, barOf_foldl_updBar (Barrier.breakNow_key now) h _ (by decide) (by decide) x hs,
    if_pos (List.mem_range.mpr hs)]
  exact Barrier.breakNow_broken now _

theorem breakBarriers_eq (s : State) (l h : Nat) : breakBarriers s l h =
    match (s.updLaunch l (Launch.breakAll s.cycle h)).launchOf l with
    | some x =>
      if x.notes.getLsbD 0 then s.updLaunch l (Launch.breakAll s.cycle h)
      else recordFault ((s.updLaunch l (Launch.breakAll s.cycle h)).updLaunch l (·.note 0)) l { code := .barBroken }
        (siteOf (s.updLaunch l (Launch.breakAll s.cycle h)) x.vf h 0 0 true)
    | none => s.updLaunch l (Launch.breakAll s.cycle h) := rfl

/-- A further fault leaves what the first one entered, and the barriers. -/
theorem Launch.enterFault_keeps {x : Launch} (h : x.fcode ≠ .none) (t : Trap) (b : BitVec 32) :
    (x.enterFault t b).fcode = x.fcode ∧ (x.enterFault t b).fpc = x.fpc ∧ (x.enterFault t b).bars = x.bars := by
  unfold Launch.enterFault
  simp only [h, if_false]
  split <;> exact ⟨rfl, rfl, rfl⟩

/-- A launch that holds a fault keeps it when barriers of a reeve break, and those are broken. -/
theorem breakBarriers_launch {s : State} {l h : Nat} {x : Launch} (hx : s.launchOf l = some x) (hf : x.fcode ≠ .none)
    (hz : freezes s l = false) : ∃ y, (breakBarriers s l h).launchOf l = some y ∧ y.fcode = x.fcode ∧ y.fpc = x.fpc ∧
      ∀ scope, scope < 5 → (barOf y (barKey scope h)).broken = true := by
  obtain ⟨bs, e⟩ := foldl_updBar_eq (Barrier.breakNow s.cycle) h (List.range 5) x
  rw [breakBarriers_eq]
  generalize ht : s.updLaunch l (Launch.breakAll s.cycle h) = t
  have hu : t.launchOf l = some (x.breakAll s.cycle h) := by simp [← ht, hx]
  have hz : freezes (t.updLaunch l (·.note 0)) l = false := ht ▸ hz
  generalize hb : x.breakAll s.cycle h = b at hu
  have hc : b.fcode = x.fcode := by rw [← hb, Launch.breakAll, e]
  have hp : b.fpc = x.fpc := by rw [← hb, Launch.breakAll, e]
  have hk (scope : Nat) (hs : scope < 5) := x.breakAll_broken s.cycle h hs
  rw [hb] at hk
  rw [hu]
  dsimp only
  split
  · exact ⟨_, hu, hc, hp, hk⟩
  · obtain ⟨e1, e2, e3⟩ := (b.note 0).enterFault_keeps (hc ▸ hf) { code := .barBroken } (siteOf t b.vf h 0 0 true)
    refine ⟨_, ?_, e1.trans hc, e2.trans hp, fun scope hs => ?_⟩
    · rw [recordFault_enters hz, State.launchOf_updLaunch, if_pos rfl, hu]
      rfl
    · unfold barOf
      rw [e3]
      exact hk scope hs

/-! ### A trap at S level -/

/-- A launch's first fault enters its code. -/
theorem Launch.enterFault_first {x : Launch} (h : x.fcode = .none) (t : Trap) (b : BitVec 32) :
    (x.enterFault t b).fcode = t.code := by
  unfold Launch.enterFault
  simp only [h, if_true]
  split <;> rfl

/-- The first fault of a launch, by a trap at S level, enters its code and the reeve's pc, and breaks the reeve's
barriers (R103, R277). -/
theorem stopReeve_launch {s : State} {h : Nat} {t : Trap} {l : Launch} (hl : s.launchOf (s.reeve h).launch = some l)
    (hc : l.fcode = .none) (hh : l.heldFaults = []) (ht : t.code ≠ .none) (hz : freezes s (s.reeve h).launch = false) :
    ∃ y, (stopReeve s h t).launchOf (s.reeve h).launch = some y ∧ y.fcode = t.code ∧ y.fpc = (s.reeve h).pc ∧
      ∀ scope, scope < 5 → (barOf y (barKey scope h)).broken = true := by
  unfold stopReeve
  extract_lets r u isFirst v w
  have hu : u.launchOf r.launch = some l := hl
  have hz : freezes u r.launch = false := hz
  have hi : isFirst = true := by simp [isFirst, hu, hc, hh]
  have hv : v.launchOf r.launch = some (l.enterFault t (siteOf u r.vf h 0 0 true)) := by
    rw [recordFault_enters hz, hu]; rfl
  have hvz : freezes v r.launch = false := hz
  have hw : w = v.updLaunch r.launch fun x => { x with fpc := r.pc } := if_pos hi
  clear_value w v u
  have hwl : w.launchOf r.launch = some { l.enterFault t (siteOf u r.vf h 0 0 true) with fpc := r.pc } := by
    rw [hw, State.launchOf_updLaunch, if_pos rfl, hv]; rfl
  have hwz : freezes w r.launch = false := by rw [hw]; exact hvz
  have hf := l.enterFault_first hc t (siteOf u r.vf h 0 0 true)
  obtain ⟨y, hy, e1, e2, hb⟩ := breakBarriers_launch (h := h) hwl (by simpa [hf] using ht) hwz
  exact ⟨y, hy, e1.trans hf, e2, hb⟩

theorem trapEntry_superv {s : State} (f : Trap) (hu : s.me.superv = true) : trapEntry f s = stopReeve s s.cur f := by
  simp [trapEntry, hu]

/-! ### ERET (R103) -/

theorem leaveTrap_p (e : W64) (p : BitVec 8) : ((field e 9 7 : BitVec 7) ++ (field p 0 1 : BitVec 1) : BitVec 8) =
    BitVec.ofFnLE fun i : Fin 8 => if i = 0 then p.getLsbD 0 else e.getLsbD (8 + i) := by
  refine BitVec.eq_of_getLsbD_eq fun i hi => ?_
  rw [BitVec.getLsbD_append, BitVec.getLsbD_ofFnLE, dif_pos hi]
  cases i with
  | zero => simp [field]
  | succ i =>
    have : i < 7 := by omega
    simp [field, Fin.ext_iff, this, show 8 + (i + 1) = 9 + i by omega]

theorem leaveTrap_estat (e : W64) : (e &&& ~~~1#64) ||| ((e >>> 1) &&& 1) =
    BitVec.ofFnLE fun i : Fin 64 => if i = 0 then e.getLsbD 1 else e.getLsbD i := by
  refine BitVec.eq_of_getLsbD_eq fun i hi => ?_
  rw [BitVec.getLsbD_ofFnLE, dif_pos hi, BitVec.getLsbD_or, BitVec.getLsbD_and, BitVec.getLsbD_not, BitVec.getLsbD_and,
    BitVec.getLsbD_one]
  cases i <;> simp [Fin.ext_iff, hi]

/-- Settles O8: `trapEntry_user` and `stopReeve_launch` say what a fault does at either level, `Reeve.leaveTrap` what ERET
restores. -/
theorem trapEntryAndReturn : Obligations.TrapEntryAndReturn := by
  intro s f p
  refine ⟨traps_trapEntry, fun hu => ?_, fun hs => ?_, fun hs hg => ?_, fun hu hg => ?_⟩
  · obtain ⟨t, ht, e⟩ := trapEntry_user s f hu
    rw [trapEntry_user_me f hu]
    refine ⟨rfl, rfl, ?_, rfl, rfl, ?_⟩
    · simp [Reeve.superv, Reeve.enterTrap]
    · rw [e]; exact ht.mem
  · have hr := stopReeve_only s s.cur f
    rw [trapEntry_superv f hs]
    refine ⟨?_, hr.mem, fun l hl hc hh ht hz => stopReeve_launch hl hc hh ht hz⟩
    rw [State.me_of_reeves hr.reeves hr.cur]
    exact State.me_setReeve s _
  · have hx : execEret p s = .next (retire (s.setReeve s.cur s.me.leaveTrap) s.me.epc) :=
      congrArg _ (runReeve_jump hg (by simp [hs, check]; rfl))
    have hv := retire_retires s s.me.leaveTrap s.me.epc rfl
    refine ⟨_, hx, { hv with me := ?_ }⟩
    rw [hv.me, Reeve.leaveTrap, leaveTrap_p, leaveTrap_estat]
  · exact takesTrap_of (len := 4) rfl hg (by simp [hu, check]; rfl) hu rfl

end Sys2Proof.Machine
end

section
/-! SUPPORT. What the physical memories and the combining buffers can touch of the state (R142 to R144, R168, R170), and
what raises a fault and ends a work unit (R94, R215, R276, R281). -/

namespace Sys2Proof.Machine

/-! ### Reads and writes of physical memory -/

/-- `t` is `s` but for memory, the waiters of full/empty words with what they were given, and the VF records. -/
def MemWrites (s t : State) : Prop := ∃ m w g v, t = { s with mem := m, waiters := w, gifts := g, vfs := v }

theorem MemWrites.refl (s : State) : MemWrites s s := ⟨s.mem, s.waiters, s.gifts, s.vfs, rfl⟩
theorem MemWrites.trans {s t u : State} (h : MemWrites s t) (k : MemWrites t u) : MemWrites s u := by
  obtain ⟨_, _, _, _, rfl⟩ := h
  obtain ⟨m, w, g, v, rfl⟩ := k
  exact ⟨m, w, g, v, rfl⟩
theorem MemWrites.cur {s t : State} (h : MemWrites s t) : t.cur = s.cur := by obtain ⟨_, _, _, _, rfl⟩ := h; rfl
theorem MemWrites.reeves {s t : State} (h : MemWrites s t) : t.reeves = s.reeves := by
  obtain ⟨_, _, _, _, rfl⟩ := h; rfl
theorem MemWrites.insts {s t : State} (h : MemWrites s t) : t.insts = s.insts := by
  obtain ⟨_, _, _, _, rfl⟩ := h; rfl
theorem MemWrites.launches {s t : State} (h : MemWrites s t) : t.launches = s.launches := by
  obtain ⟨_, _, _, _, rfl⟩ := h; rfl

theorem memWrites_count (s : State) (v o n : Nat) : MemWrites s (s.count v o n) := by
  unfold State.count
  extract_lets x
  split
  · exact .refl s
  · exact ⟨s.mem, s.waiters, s.gifts, _, rfl⟩

theorem memWrites_countRead (s : State) (vf a n : Nat) : MemWrites s (countRead s vf a n) := by
  unfold countRead
  split
  · exact memWrites_count ..
  · split
    · exact memWrites_count ..
    · exact .refl s

theorem memWrites_countWrite (s : State) (vf a n : Nat) : MemWrites s (countWrite s vf a n) := by
  unfold countWrite
  split
  · exact memWrites_count ..
  · split
    · exact memWrites_count ..
    · exact .refl s

theorem memWrites_mem (s : State) (m : Mem) : MemWrites s { s with mem := m } := ⟨m, s.waiters, s.gifts, s.vfs, rfl⟩

theorem memWrites_correctSoft (s : State) (vf a n : Nat) : MemWrites s (correctSoft s vf a n) := by
  unfold correctSoft
  obtain ⟨w, c⟩ := granules 3 a n
  dsimp only
  split
  · exact .refl s
  · exact (memWrites_mem s _).trans (memWrites_count ..)

theorem memWrites_countServed (s : State) (w : Nat) (l : List Waiter) : MemWrites s (countServed s w l) := by
  induction l generalizing s with
  | nil => exact .refl s
  | cons x l ih =>
    unfold countServed
    extract_lets vf
    refine .trans ?_ (ih _)
    split
    · exact .refl s
    · exact (memWrites_correctSoft ..).trans (memWrites_countRead ..)

theorem memWrites_serveWaiters (s : State) (w : Nat) : MemWrites s (serveWaiters s w) := by
  unfold serveWaiters
  extract_lets mine take served consumed rest gift t
  exact (memWrites_countServed s w served).trans ⟨_, _, _, t.vfs, rfl⟩

theorem memWrites_setFullN (s : State) (w n : Nat) : MemWrites s (setFullN s w n) := by
  induction n with
  | zero => exact .refl s
  | succ n ih => exact (ih.trans (memWrites_mem _ _)).trans (memWrites_serveWaiters ..)

theorem memWrites_storePhys (s : State) (vf a : Nat) (bs : List Byte) (full zero : Bool) :
    MemWrites s (storePhys s vf a bs full zero) := by
  unfold storePhys
  extract_lets t
  have ht : MemWrites s t := (memWrites_mem s _).trans (memWrites_countWrite ..)
  split
  · exact ht.trans (memWrites_setFullN ..)
  · exact ht

theorem memWrites_loadPhys {s t : State} {vf a n : Nat} {bs : List Byte} (h : loadPhys s vf a n = .ok (bs, t)) :
    MemWrites s t := by
  unfold loadPhys at h
  split at h
  · cases h
  · cases h
    exact (memWrites_correctSoft ..).trans (memWrites_countRead ..)

/-! ### A reeve's reductions on their way to memory -/

/-- `t` is `s` but for memory, the waiters of full/empty words, the VF records, launches and noted errors, the
sparse-update windows and the accesses to peers. -/
def Sends (s t : State) : Prop := ∃ m w g v ls es k ws ps, t = { s with
  mem := m, waiters := w, gifts := g, vfs := v, launches := ls, errs := es, nextId := k, windows := ws, peerOut := ps }

theorem Sends.refl (s : State) : Sends s s :=
  ⟨s.mem, s.waiters, s.gifts, s.vfs, s.launches, s.errs, s.nextId, s.windows, s.peerOut, rfl⟩
theorem Sends.trans {s t u : State} (h : Sends s t) (k : Sends t u) : Sends s u := by
  obtain ⟨_, _, _, _, _, _, _, _, _, rfl⟩ := h
  obtain ⟨m, w, g, v, ls, es, k, ws, ps, rfl⟩ := k
  exact ⟨m, w, g, v, ls, es, k, ws, ps, rfl⟩
theorem Sends.cur {s t : State} (h : Sends s t) : t.cur = s.cur := by
  obtain ⟨_, _, _, _, _, _, _, _, _, rfl⟩ := h; rfl
theorem MemWrites.sends {s t : State} (h : MemWrites s t) : Sends s t := by
  obtain ⟨m, w, g, v, rfl⟩ := h
  exact ⟨m, w, g, v, s.launches, s.errs, s.nextId, s.windows, s.peerOut, rfl⟩
theorem LaunchesOnly.sends {s t : State} (h : LaunchesOnly s t) : Sends s t := by
  obtain ⟨ls, es, rfl⟩ := h
  exact ⟨s.mem, s.waiters, s.gifts, s.vfs, ls, es, s.nextId, s.windows, s.peerOut, rfl⟩

theorem sends_applyUpd_reeve (s : State) (a h : Nat) (u : Upd) (hu : u.src = .reeve h) :
    Sends s (applyUpd s a u [u.src]) := by
  unfold applyUpd
  rw [hu]
  split
  next bs t e => exact ((memWrites_loadPhys e).trans (memWrites_storePhys ..)).sends
  next t e => exact (launchesOnly_recordFault ..).sends
  next => exact .refl s

/-- The places of a reeve's combining entries lie in memory or in another package. -/
theorem Comb.updates_place {c : Comb} {x : Loc × W64} (h : x ∈ c.updates) :
    (∃ a, x.1 = .phys a) ∨ ∃ a ea m, x.1 = .peer a ea m := by
  have at_ (k : Nat) : (∃ a, (if c.space = 5 then Loc.peer (c.addr + k) (c.ea + k) c.mapped else .phys (c.addr + k)) = .phys a) ∨
      ∃ a ea m, (if c.space = 5 then Loc.peer (c.addr + k) (c.ea + k) c.mapped else .phys (c.addr + k)) = .peer a ea m := by
    split
    · exact .inr ⟨_, _, _, rfl⟩
    · exact .inl ⟨_, rfl⟩
  unfold Comb.updates at h
  extract_lets f at h
  split at h
  · rw [List.mem_singleton.mp h]; exact at_ 0
  · rcases List.mem_append.mp h with h | h
    · split at h
      · rw [List.mem_singleton.mp h]; exact at_ 0
      · cases h
    · split at h
      · rw [List.mem_singleton.mp h]; exact at_ 4
      · cases h

theorem sends_sendUpd_reeve {s t : State} {l : Loc} {u : Upd} {h : Nat} (hu : u.src = .reeve h)
    (hl : (∃ a, l = .phys a) ∨ ∃ a ea m, l = .peer a ea m) (e : sendUpd s l u = .ok t) : Sends s t := by
  rcases hl with ⟨a, rfl⟩ | ⟨a, ea, m, rfl⟩
  · unfold sendUpd at e
    split at e
    next b hb =>
      cases hb
      split at e
      · extract_lets sl w tok at e
        split at e
        · cases e
        · cases e
          exact ⟨s.mem, s.waiters, s.gifts, s.vfs, s.launches, s.errs, _, _, s.peerOut, rfl⟩
      · cases e
        exact sends_applyUpd_reeve s a h u hu
    next hb => cases hb
    next hp _ => exact absurd rfl (hp _)
  · cases e
    exact ⟨s.mem, s.waiters, s.gifts, s.vfs, s.launches, s.errs, _, s.windows, _, rfl⟩

theorem sends_sendComb {s t : State} {h : Nat} {c : Comb} (e : sendComb s h c = .ok t) : Sends s t := by
  unfold sendComb at e
  generalize hl : c.updates = l at e
  have hp : ∀ x ∈ l, (∃ a, x.1 = .phys a) ∨ ∃ a ea m, x.1 = .peer a ea m := fun x hx => Comb.updates_place (hl ▸ hx)
  clear hl
  induction l generalizing s with
  | nil => cases e; exact .refl t
  | cons x l ih =>
    obtain ⟨p, v⟩ := x
    rw [List.foldlM_cons] at e
    dsimp only at e
    cases hs : sendUpd s p (reeveUpd s h c.op v) with
    | error _ => rw [hs] at e; cases e
    | ok u =>
      rw [hs] at e
      exact (sends_sendUpd_reeve (h := h) rfl (hp _ (.head _)) hs).trans (ih e fun y hy => hp y (.tail _ hy))

theorem sends_flushList (s : State) (h : Nat) (f : Comb → Bool) (l : List Comb) : Sends s (flushList s h f l).1 := by
  induction l generalizing s with
  | nil => exact .refl s
  | cons c l ih =>
    unfold flushList
    split
    · split
      next t e => exact (sends_sendComb e).trans (ih t)
      next => exact .refl s
    · exact ih s

/-- A flush keeps the acting reeve's place, whether it ends or waits. -/
theorem flushComb_cur {s u : State} {h : Nat} {f : Comb → Bool}
    (e : flushComb s h f = .ok u ∨ flushComb s h f = .error (.keep u .memory)) : u.cur = s.cur := by
  unfold flushComb at e
  extract_lets r at e
  split at e
  · rcases e with e | e <;> cases e
    rfl
  · have hk := (sends_flushList s h f r.comb).cur
    obtain ⟨t, m⟩ := flushList s h f r.comb
    dsimp only at e hk
    split at e <;> rcases e with e | e <;> cases e <;> exact hk

/-! ### Releases -/

/-- A reeve whose accesses have been performed needs no release (R160). -/
theorem releaseAll_still {s : State} (h : Still s) : releaseAll s s.cur = .ok s := by
  obtain ⟨⟨hc, hw⟩, hp⟩ := h
  have hc : (s.reeve s.cur).comb = [] := hc
  simp only [releaseAll, releaseComb, flushComb, hc, List.any_nil, Bool.not_false, if_true]
  simp only [bind, Except.bind, hw, Bool.false_eq_true, if_false, hp]

/-- What is still on its way after a flush, and the wait of a release for it. -/
theorem releaseAll_keep {s u : State}
    (h : flushComb s s.cur (fun _ => true) = .error (.keep u .memory) ∨
      (flushComb s s.cur (fun _ => true) = .ok u ∧ (windowBusy u (.reeve s.cur) = true ∨
        (u.peerOut.any fun q => q.who == .reeve s.cur) = true))) :
    ∃ ws, releaseAll s s.cur = .error (.keep { u with windows := ws } .memory) := by
  unfold releaseAll releaseComb
  rcases h with h | ⟨h, hb⟩
  · exact ⟨u.windows, by rw [h]; rfl⟩
  · rw [h]
    cases hw : windowBusy u (.reeve s.cur) with
    | true => exact ⟨_, by simp only [bind, Except.bind, hw, if_true]; rfl⟩
    | false =>
      have hp := hb.resolve_left (by simp [hw])
      exact ⟨u.windows, by simp only [bind, Except.bind, hw, Bool.false_eq_true, if_false, hp, if_true]⟩

/-! ### Barriers that a reeve leaves (R276, R277) -/

theorem sdel_eq_filter (l : List Nat) (i : Nat) : sdel l i = l.filter fun h => h != i := by
  induction l with
  | nil => rfl
  | cons k l ih =>
    unfold sdel
    by_cases h : k = i <;> simp [h, ih]

/-- A reeve's barrier of a launch after the reeve has left. -/
def leftBar (s : State) (l : Launch) (h : Nat) (b : Barrier) : Barrier :=
  closePhase s l { b with arrived := sdel b.arrived h }

theorem closePhase_key (s : State) (l : Launch) (b : Barrier) : (closePhase s l b).key = b.key := by
  unfold closePhase; split <;> rfl

/-- The phase of a barrier depends on a launch by its reeves alone. -/
theorem leftBar_congr (s : State) {l m : Launch} (e : m.reeves = l.reeves) (h : Nat) : leftBar s m h = leftBar s l h := by
  funext b
  have hp : participants s m = participants s l := by unfold participants; rw [e]
  unfold leftBar closePhase
  rw [hp]

theorem foldl_leaveBarriers (s : State) (h : Nat) (l : Launch) (scopes : List Nat) {m : Launch} (e : m.reeves = l.reeves) :
    scopes.foldl (fun m sc => setBar m (leftBar s m h (barOf m (barKey sc h)))) m =
      scopes.foldl (updBar (leftBar s l h) h) m := by
  induction scopes generalizing m with
  | nil => rfl
  | cons a as ih =>
    rw [List.foldl_cons, List.foldl_cons, leftBar_congr s e]
    exact ih e

theorem leaveBarriers_eq (s : State) (h : Nat) : leaveBarriers s h = s.updLaunch (s.reeve h).launch fun l =>
    (List.range 5).foldl (updBar (leftBar s l h) h) l := by
  have : (fun l : Launch => (List.range 5).foldl (fun m sc => setBar m (leftBar s m h (barOf m (barKey sc h)))) l) =
      fun l => (List.range 5).foldl (updBar (leftBar s l h) h) l :=
    funext fun l => foldl_leaveBarriers s h l _ rfl
  exact congrArg (s.updLaunch (s.reeve h).launch) this

theorem leftBar_key (s : State) (l : Launch) (h : Nat) (b : Barrier) : (leftBar s l h b).key = b.key :=
  closePhase_key ..

/-- A reeve that has exited since `s` participates no longer; its arrival is withdrawn, and the phase ends where the
others have all arrived, but for a barrier that has been broken in an earlier cycle (R276, R277). -/
theorem leftBar_exited {s u : State} {h scope : Nat} {l : Launch} {b : Barrier} (hb : b.key = barKey scope h)
    (hs : scope < 5) (hx : (u.reeve h).run = .exited) (hr : ∀ j, j ≠ h → u.reeve j = s.reeve j) (hc : u.cycle = s.cycle) :
    leftBar u l h b =
      let left := b.arrived.filter fun j => j != h
      let others := l.reeves.filter fun j => j != h && barKey scope j == barKey scope h && (s.reeve j).run != .exited
      if left ≠ [] ∧ ¬ (b.broken = true ∧ b.brokenAt ≠ s.cycle) ∧ others.length ≤ left.length
        then { b with arrived := [], phase := b.phase + 1 } else { b with arrived := left } := by
  have hp : participants u l b.key =
      l.reeves.filter fun j => j != h && barKey scope j == barKey scope h && (s.reeve j).run != .exited := by
    unfold participants
    rw [hb, barKey_mod scope h hs]
    refine List.filter_congr fun j _ => ?_
    by_cases e : j = h
    · subst e; simp [hx]
    · rw [bne_iff_ne.mpr e, Bool.true_and, hr j e]
  unfold leftBar closePhase
  extract_lets left others
  rw [show participants u l ({ b with arrived := sdel b.arrived h } : Barrier).key = others from hp,
    show sdel b.arrived h = left from sdel_eq_filter .., hc]
  refine if_congr ?_ rfl rfl
  cases hb : b.broken <;> simp [and_assoc]

/-! ### Work units (R94) -/

/-- Opening the ports for the next work unit changes ports alone. -/
theorem openPorts_eq (s : State) (h n : Nat) : ∃ ps, openPorts s h n = { s with ports := ps } := by
  induction n with
  | zero => exact ⟨s.ports, rfl⟩
  | succ n ih =>
    obtain ⟨ps, e⟩ := ih
    unfold openPorts
    rw [e]
    extract_lets t q
    split
    · exact ⟨_, rfl⟩
    · exact ⟨ps, rfl⟩

theorem guard_always (r : Reeve) : r.guard always = true := by
  simp [Reeve.guard, always, field, Reeve.pr]

/-- The codes and subcodes of a failing fetch, on the two bytes. -/
theorem fetchCode_eq (code sub : BitVec 8) : fetchCode code.toNat sub.toNat =
    (decide (3 ≤ code.toNat ∧ code.toNat ≤ 10 ∧ sub = 0) || decide (code = 11 ∧ 1 ≤ sub.toNat ∧ sub.toNat ≤ 3) ||
      decide (code = 29 ∧ (sub = 1 ∨ sub = 2 ∨ sub = 4))) := by
  have hn (x : BitVec 8) (n : Nat) (h : n < 256) : (x = BitVec.ofNat 8 n) = (x.toNat = n) := by
    rw [BitVec.toNat_eq, BitVec.toNat_ofNat, Nat.mod_eq_of_lt h]
  unfold fetchCode
  rw [Bool.eq_iff_iff]
  simp only [Bool.or_eq_true, Bool.and_eq_true, decide_eq_true_eq, beq_iff_eq, and_assoc]
  rw [show (code = 11) = _ from hn code 11 (by decide), show (code = 29) = _ from hn code 29 (by decide),
    show (sub = 0) = _ from hn sub 0 (by decide), show (sub = 1) = _ from hn sub 1 (by decide),
    show (sub = 2) = _ from hn sub 2 (by decide), show (sub = 4) = _ from hn sub 4 (by decide)]
  simp only [or_assoc]

/-- A replay-triggering fault taken at U level enters its handler, and asks for the rollback of the launch. -/
theorem trapEntry_rollback {s : State} {f : Trap} {l : Launch} (hu : s.me.superv = false) (hr : f.code.replays = true)
    (hl : s.launchOf s.me.launch = some l) (hn : l.rollback = none) (hz : freezes s s.me.launch = false) :
    ∃ l', (trapEntry f s).launchOf s.me.launch = some l' ∧ l'.rollback = some f := by
  have he : trapEntry f s =
      (recordFault s s.me.launch f (siteOf s s.me.vf s.cur 0 0 true)).setReeve s.cur (s.me.enterTrap f) := by
    simp [trapEntry, hu, hr]
  refine ⟨l.enterFault f (siteOf s s.me.vf s.cur 0 0 true), ?_, ?_⟩
  · rw [he]
    exact (recordFault_enters hz f _).trans (by rw [hl]; rfl)
  · unfold Launch.enterFault
    dsimp only
    split <;> simp [hr, hn]

theorem runReeve_keep {len : Nat} {p : Guard} {f : State → Except Stop (State × Flow)} {s t : State} {w : Wait}
    (h : s.me.guard p = true) (hf : f s = .error (.keep t w)) :
    runReeve len p f s = t.updMe fun r => { r with wait := some w } := by
  simp [runReeve, h, hf]

/-- The EXIT of a reeve that has another work unit. -/
theorem execExit_restarts {s : State} {p : Guard} (hg : s.me.guard p = true) (h : Still s) (hx : s.me.xfers = [])
    (hn : s.me.unit + s.me.stride < s.me.nunits) : ∃ ps, exec (.exit p) s = .next (retire
      (({ s with ports := ps } : State).setReeve s.cur (s.me.startUnit (s.me.unit + s.me.stride)))
      (BitVec.ofNat 64 s.me.code.addr)) := by
  obtain ⟨ps, e⟩ := openPorts_eq s s.cur 16
  refine ⟨ps, congrArg _ (runReeve_jump hg ?_)⟩
  simp only [bind, Except.bind, releaseAll_still h, hx, e, List.isEmpty_nil, Bool.not_true, Bool.false_eq_true, if_false,
    hn, if_true, State.setMe_eq, State.me_setReeve]
  rfl

/-- The EXIT of a reeve's last work unit. -/
theorem execExit_stops {s : State} {p : Guard} (hg : s.me.guard p = true) (h : Still s) (hx : s.me.xfers = [])
    (hn : ¬ s.me.unit + s.me.stride < s.me.nunits) : ∃ ps, exec (.exit p) s = .next (retire
      (leaveBarriers (({ s with ports := ps } : State).setReeve s.cur { s.me with run := .exited }) s.cur) s.me.pc) := by
  obtain ⟨ps, e⟩ := openPorts_eq s s.cur 16
  refine ⟨ps, congrArg _ (runReeve_jump hg ?_)⟩
  simp only [bind, Except.bind, releaseAll_still h, hx, e, List.isEmpty_nil, Bool.not_true, Bool.false_eq_true, if_false,
    hn, State.setMe_eq]

/-- An EXIT with accesses on their way flushes and waits (R160, R168). -/
theorem execExit_waits {s u : State} {p : Guard} (hg : s.me.guard p = true)
    (h : flushComb s s.cur (fun _ => true) = .error (.keep u .memory) ∨
      (flushComb s s.cur (fun _ => true) = .ok u ∧ (windowBusy u (.reeve s.cur) = true ∨
        (u.peerOut.any fun q => q.who == .reeve s.cur) = true))) :
    ∃ ws, exec (.exit p) s = .next (({ u with windows := ws } : State).updMe fun r => { r with wait := some .memory }) := by
  obtain ⟨ws, e⟩ := releaseAll_keep h
  exact ⟨ws, congrArg Host.Outcome.next (runReeve_keep hg (by simp only [bind, Except.bind, e]))⟩

theorem retire_launchOf (s : State) (pc : W64) (l : Nat) : (retire s pc).launchOf l = s.launchOf l := by
  unfold State.launchOf; rw [retire_launches]

theorem Reeve.startUnit_gr (r : Reeve) (unit : Nat) (i : GReg) : (r.startUnit unit).gr i = 0 := by
  unfold Reeve.gr Reeve.startUnit
  split
  · rfl
  · exact Vector.getElem_replicate _

theorem Reeve.startUnit_pr (r : Reeve) (unit : Nat) (i : PReg) : (r.startUnit unit).pr i = decide (i = 0) := by
  unfold Reeve.pr Reeve.startUnit
  by_cases h : i = 0 <;> simp [h]

theorem Reeve.startUnit_kr (r : Reeve) (unit : Nat) (i : KReg) :
    (r.startUnit unit).kr i = (r.args[i.toNat]?).getD Cap.null := by
  simp [Reeve.kr, Reeve.startUnit, argRegs]

/-- Settles O9: a fault of a fetch is taken as `trapEntry` says, and `execExit_waits`, `execExit_restarts` and
`execExit_stops` are the ways in which EXIT goes on; `leftBar_exited` says what its barriers are left with. -/
theorem raisingAndExit : Obligations.RaisingAndExit := by
  refine ⟨fun s p sel code sub a hu => ⟨fun hg => ?_, ?_, fetchCode_eq code sub, fun hc => ?_, fun hc hr => ?_, ?_⟩,
    fun s u p hg h => ?_, fun s p hg hs => ⟨fun hx => ?_, fun hx => ?_⟩⟩
  · exact takesTrap_of (len := 4) rfl hg rfl hu rfl
  · exact takesTrap_of (len := 4) rfl (guard_always _) rfl hu rfl
  · exact if_neg (by simp [hc])
  · exact takesTrap_of (len := 4) (if_pos hc) (guard_always _) rfl hu hr
  · intro l hc hr hl hn hz
    generalize hf : ({ code := Code.ofNum code.toNat, sub := sub.toNat, addr := a } : Trap) = f
    have hr : f.code.replays = true := hf ▸ hr
    have hx : exec (.fetchFault code sub a) s = .next (trapEntry f (release s (.reeve s.cur))) := by
      rw [← hf]
      exact (if_pos hc).trans (congrArg Host.Outcome.next (runReeve_trap (guard_always _) rfl))
    have hm := trapEntry_user_me (s := release s (.reeve s.cur)) f hu
    obtain ⟨l', hl', hb⟩ := trapEntry_rollback (s := release s (.reeve s.cur)) hu hr hl hn hz
    have hne : f.code ≠ .user := fun e => by rw [e] at hr; cases hr
    exact ⟨_, l', hx, by rw [hm]; exact if_neg hne, by rw [hm]; rfl, hl', hb⟩
  · obtain ⟨ws, e⟩ := execExit_waits hg h
    have hc := flushComb_cur (h.symm.imp_left And.left)
    exact ⟨_, e, State.me_setReeve .., rfl, rfl, rfl, fun h hn => by simp [hc, hn]; rfl⟩
  · have hx : (!s.me.xfers.isEmpty) = true := by simpa using hx
    exact congrArg Host.Outcome.next (runReeve_keep hg (by simp only [bind, Except.bind, releaseAll_still hs, hx, if_true]))
  · by_cases hn : s.me.unit + s.me.stride < s.me.nunits
    · obtain ⟨ps, e⟩ := execExit_restarts hg hs hx hn
      refine ⟨_, e, by simp, by simp, fun h hh => ?_, fun _ => ?_, fun h => absurd hn h⟩
      · rw [retire_reeve _ _ (by exact hh), State.reeve_setReeve, if_neg hh]; rfl
      · rw [retire_me, show (({ s with ports := ps } : State).setReeve s.cur _).me = _ from State.me_setReeve _ _]
        exact ⟨rfl, rfl, rfl, s.me.startUnit_gr (s.me.unit + s.me.stride), s.me.startUnit_pr (s.me.unit + s.me.stride),
          s.me.startUnit_kr (s.me.unit + s.me.stride), rfl, by simp⟩
    · obtain ⟨ps, e⟩ := execExit_stops hg hs hx hn
      rw [leaveBarriers_eq] at e
      generalize hu : ({ s with ports := ps } : State).setReeve s.cur { s.me with run := .exited } = u at e
      have hur (h : Nat) : u.reeve h = if h = s.cur then { s.me with run := .exited } else s.reeve h := by
        rw [← hu, State.reeve_setReeve]; rfl
      have hme : u.reeve s.cur = { s.me with run := .exited } := by rw [hur, if_pos rfl]
      have huc : u.cur = s.cur := by rw [← hu]; rfl
      have hul : u.launchOf s.me.launch = s.launchOf s.me.launch := by rw [← hu]; rfl
      refine ⟨_, e, by simp [← hu], by simp [← hu], fun h hh => ?_, fun h => absurd h hn, fun _ => ⟨?_, fun l hl => ?_⟩⟩
      · rw [retire_reeve _ _ (by rw [← hu]; exact hh), State.reeve_updLaunch, hur, if_neg hh]
      · rw [retire_me, State.me_updLaunch, State.me, huc, hme]
      · refine ⟨(List.range 5).foldl (updBar (leftBar u l s.cur) s.cur) l, ?_, ?_, fun scope hs => ?_⟩
        · rw [retire_launchOf, hme, State.launchOf_updLaunch, if_pos rfl, hul, hl]
          rfl
        · obtain ⟨bs, e⟩ := foldl_updBar_eq (leftBar u l s.cur) s.cur (List.range 5) l
          rw [e]
        · dsimp only
          rw [barOf_foldl_updBar (leftBar_key u l s.cur) s.cur _ (by decide) (by decide) l hs,
            if_pos (List.mem_range.mpr hs)]
          exact leftBar_exited (barOf_key l _) hs (by rw [hme]) (fun j hj => by rw [hur, if_neg hj]) (by rw [← hu]; rfl)

end Sys2Proof.Machine
end

section
/-! SUPPORT. The instances of graphs: what a change of one does and leaves, and what taking markers out and beginning a
sweep interval anew can touch (R380, R381, R388). -/

namespace Sys2Proof.Machine

theorem mget_mupd {α : Type} (m : SMap α) (i j : Nat) (f : α → α) :
    mget (mupd m i f) j = if j = i then (mget m j).map f else mget m j := by
  unfold mupd
  by_cases h : j = i
  · subst h
    cases hm : mget m j with
    | none => simp [hm]
    | some x => simp
  · cases hm : mget m i with
    | none => simp [h]
    | some x => simp [h]

theorem mget_mem {α : Type} {m : SMap α} {i : Nat} {x : α} (h : mget m i = some x) : (i, x) ∈ m := by
  induction m with
  | nil => cases h
  | cons y m ih =>
    obtain ⟨k, w⟩ := y
    unfold mget at h
    split at h
    next e => cases h; exact e ▸ .head _
    next => exact .tail _ (ih h)

/-- In a table whose keys rise, every entry is the one that its key finds. -/
theorem mget_of_mem {α : Type} {m : SMap α} (hm : Rising m) {i : Nat} {x : α} (h : (i, x) ∈ m) : mget m i = some x := by
  induction m with
  | nil => cases h
  | cons y m ih =>
    obtain ⟨k, w⟩ := y
    obtain ⟨hk, hm⟩ := List.pairwise_cons.mp hm
    unfold mget
    rcases List.mem_cons.mp h with e | h
    · cases e; simp
    · rw [if_neg (Nat.ne_of_gt (hk _ h)), ih hm h]

theorem State.inst_updInst (s : State) (i j : Nat) (f : Inst → Inst) :
    (s.updInst i f).inst j = if j = i then (s.inst j).map f else s.inst j := mget_mupd s.insts i j f

@[simp] theorem State.inst_updInst_self (s : State) (i : Nat) (f : Inst → Inst) :
    (s.updInst i f).inst i = (s.inst i).map f := by rw [State.inst_updInst, if_pos rfl]

@[simp] theorem State.inst_updLaunch (s : State) (l : Nat) (f : Launch → Launch) (i : Nat) :
    (s.updLaunch l f).inst i = s.inst i := rfl

@[simp] theorem State.launchOf_updInst (s : State) (i : Nat) (f : Inst → Inst) (l : Nat) :
    (s.updInst i f).launchOf l = s.launchOf l := rfl

/-- `t` is `s` but for its instances and its stream ports. -/
def FabricOnly (s t : State) : Prop := ∃ is ps, t = { s with insts := is, ports := ps }

theorem FabricOnly.refl (s : State) : FabricOnly s s := ⟨s.insts, s.ports, rfl⟩
theorem FabricOnly.trans {s t u : State} (h : FabricOnly s t) (k : FabricOnly t u) : FabricOnly s u := by
  obtain ⟨_, _, rfl⟩ := h
  obtain ⟨is, ps, rfl⟩ := k
  exact ⟨is, ps, rfl⟩
theorem FabricOnly.launchOf {s t : State} (h : FabricOnly s t) (l : Nat) : t.launchOf l = s.launchOf l := by
  obtain ⟨_, _, rfl⟩ := h; rfl
theorem FabricOnly.steward {s t : State} (h : FabricOnly s t) : t.steward = s.steward := by
  obtain ⟨_, _, rfl⟩ := h; rfl
theorem FabricOnly.cycle {s t : State} (h : FabricOnly s t) : t.cycle = s.cycle := by
  obtain ⟨_, _, rfl⟩ := h; rfl
theorem FabricOnly.reeve {s t : State} (h : FabricOnly s t) (j : Nat) : t.reeve j = s.reeve j := by
  obtain ⟨_, _, rfl⟩ := h; rfl
theorem FabricOnly.waiters {s t : State} (h : FabricOnly s t) : t.waiters = s.waiters := by
  obtain ⟨_, _, rfl⟩ := h; rfl

theorem fabricOnly_updInst (s : State) (i : Nat) (f : Inst → Inst) : FabricOnly s (s.updInst i f) :=
  ⟨_, s.ports, rfl⟩

/-- A fold of changes that each keep to the fabric keeps to it. -/
theorem FabricOnly.foldl {α : Type} {g : State → α → State} (hg : ∀ s a, FabricOnly s (g s a)) (s : State) (l : List α) :
    FabricOnly s (l.foldl g s) := by
  induction l generalizing s with
  | nil => exact .refl s
  | cons a l ih => exact (hg s a).trans (ih _)

/-- Changing instances by a change that is idempotent changes each of them once. -/
theorem inst_foldl_updInst {f : Inst → Inst} (hf : ∀ x, f (f x) = f x) (s : State) (is : List Nat) (j : Nat) :
    (is.foldl (fun s i => s.updInst i f) s).inst j = if j ∈ is then (s.inst j).map f else s.inst j := by
  induction is generalizing s with
  | nil => rfl
  | cons i is ih =>
    rw [List.foldl_cons, ih, State.inst_updInst]
    by_cases h : j = i
    · subst h
      simp [Option.map_map, Function.comp_def, hf]
    · simp [h]

/-- A placed graph with no marker noted. -/
def Inst.unmark (x : Inst) : Inst := { x with pmkSent := [], passed := [] }

/-- The instances of a launch with no marker noted. -/
def unmarkAll (s : State) (key : Nat) : State :=
  (mkeys (launchInsts s key)).foldl (fun s i => s.updInst i Inst.unmark) s

theorem fabricOnly_unmarkAll (s : State) (key : Nat) : FabricOnly s (unmarkAll s key) :=
  .foldl (fun s i => fabricOnly_updInst s i _) s _

theorem mem_launchInsts {s : State} {key i : Nat} {x : Inst} :
    (i, x) ∈ launchInsts s key ↔ (i, x) ∈ s.insts ∧ x.launch = key := by
  simp [launchInsts]

/-- No source of the launch has emitted PMK, and no node of it has been passed. -/
theorem unmarkAll_marks {s : State} {key i : Nat} {y : Inst} (h : (unmarkAll s key).inst i = some y)
    (hl : y.launch = key) : y.pmkSent = [] ∧ y.passed = [] := by
  unfold unmarkAll at h
  rw [inst_foldl_updInst (f := Inst.unmark) (fun _ => rfl)] at h
  split at h
  · obtain ⟨x, -, rfl⟩ := Option.map_eq_some_iff.mp h
    exact ⟨rfl, rfl⟩
  next hn =>
    exact absurd (List.mem_map.mpr ⟨(i, y), mem_launchInsts.mpr ⟨mget_mem h, hl⟩, rfl⟩) hn

/-! ### A sweep interval that begins anew (R388) -/

/-- The launch and the reeves that a new sweep interval touches: what each reeve waits for stays. -/
theorem sweepAfresh_eq {s : State} {l : Nat} {x : Launch} (hx : s.launchOf l = some x) :
    ∃ rs, sweepAfresh s l =
      { s.updLaunch l fun x => { x with sweepAt := s.cycle, idle := false } with reeves := rs } := by
  unfold sweepAfresh
  rw [hx]
  dsimp only
  generalize s.updLaunch l (fun x => { x with sweepAt := s.cycle, idle := false }) = t
  induction x.reeves generalizing t with
  | nil => exact ⟨t.reeves, rfl⟩
  | cons h hs ih =>
    rw [List.foldl_cons]
    split
    · exact ih t
    · obtain ⟨rs, e⟩ := ih (t.setReeve h { t.reeve h with sweepAt := some t.cycle })
      exact ⟨rs, e⟩

/-! ### Markers taken out (R381) -/

theorem fabricOnly_stripPmk (s : State) (key : Nat) : FabricOnly s (stripPmk s key) := by
  unfold stripPmk
  exact (FabricOnly.foldl (fun s i => fabricOnly_updInst s i _) s _).trans ⟨_, _, rfl⟩

/-- A checkpoint that is given up: its launch has none, its fabric no marker, and the rest of the state stays but for its
reeves' sweeps. -/
theorem ckptDrop_eq {s : State} {key : Nat} {l : Launch} (hl : s.launchOf key = some l) :
    (l.ckptAt = none → ckptDrop s key l = s) ∧ ∃ m, (ckptDrop s key l).launchOf key = some m ∧ m.ckptAt = none ∧
      m.preemptAsked = l.preemptAsked ∧ (ckptDrop s key l).cycle = s.cycle ∧ (ckptDrop s key l).steward = s.steward := by
  unfold ckptDrop
  cases hc : l.ckptAt with
  | none => exact ⟨fun _ => rfl, l, hl, hc, rfl, rfl, rfl⟩
  | some c =>
    refine ⟨fun h => (Option.some_ne_none c h).elim, ?_⟩
    rw [Option.isNone_some, if_neg Bool.false_ne_true]
    generalize ht : s.updLaunch key (fun x => { x with ckptAt := none }) = t
    have htl : t.launchOf key = some { l with ckptAt := none } := by
      rw [← ht, State.launchOf_updLaunch, if_pos rfl, hl]; rfl
    obtain ⟨rs, e⟩ := sweepAfresh_eq htl
    have hf := fabricOnly_stripPmk (sweepAfresh t key) key
    refine ⟨{ l with ckptAt := none, sweepAt := t.cycle, idle := false }, ?_, rfl, rfl, ?_, ?_⟩
    · rw [hf.launchOf, e]
      exact (State.launchOf_updLaunch t key key _).trans (by rw [if_pos rfl, htl]; rfl)
    · rw [hf.cycle, e, ← ht]; rfl
    · rw [hf.steward, e, ← ht]; rfl

end Sys2Proof.Machine
end

section
/-! SUPPORT. O44: what a request for a pre-emption does, and when one is forced (R43, R371, R380, R381). -/

namespace Sys2Proof.Machine

theorem parkReeves_cons (s : State) (h : Nat) (hs : List Nat) : parkReeves s (h :: hs) =
    parkReeves { s.setReeve h { s.reeve h with wait := none } with
      waiters := s.waiters.filter fun w => w.who != Who.reeve h } hs := rfl

/-- Parking changes reeves and waiter orders alone. -/
theorem parkReeves_eq (s : State) (hs : List Nat) : ∃ rs ws, parkReeves s hs = { s with reeves := rs, waiters := ws } := by
  induction hs generalizing s with
  | nil => exact ⟨s.reeves, s.waiters, rfl⟩
  | cons h hs ih =>
    obtain ⟨rs, ws, e⟩ := ih { s.setReeve h { s.reeve h with wait := none } with
      waiters := s.waiters.filter fun w => w.who != Who.reeve h }
    exact ⟨rs, ws, e⟩

/-- A parked reeve waits for nothing, and one that waits for nothing goes on so. -/
theorem parkReeves_wait (s : State) (hs : List Nat) (j : Nat) (hj : j ∈ hs ∨ (s.reeve j).wait = none) :
    ((parkReeves s hs).reeve j).wait = none := by
  induction hs generalizing s with
  | nil => exact hj.resolve_left (List.not_mem_nil)
  | cons h hs ih =>
    rw [parkReeves_cons]
    refine ih _ ?_
    by_cases e : j = h
    · subst e
      exact .inr (congrArg Reeve.wait (State.reeve_setReeve s j j _ |>.trans (if_pos rfl)))
    · refine hj.imp (fun hm => (List.mem_cons.mp hm).resolve_left e) fun hw => ?_
      exact (congrArg Reeve.wait (State.reeve_setReeve s h j _ |>.trans (if_neg e))).trans hw

/-- A parked reeve stands in no waiter order. -/
theorem parkReeves_waiters (s : State) (hs : List Nat) {w : Waiter} (hw : w ∈ (parkReeves s hs).waiters) :
    w ∈ s.waiters ∧ ∀ h ∈ hs, w.who ≠ .reeve h := by
  induction hs generalizing s with
  | nil => exact ⟨hw, fun _ h => nomatch h⟩
  | cons h hs ih =>
    obtain ⟨hm, hn⟩ := ih _ (parkReeves_cons s h hs ▸ hw)
    obtain ⟨hm, hh⟩ := List.mem_filter.mp hm
    exact ⟨hm, List.forall_mem_cons.mpr ⟨by simpa using hh, hn⟩⟩

/-- The launch as its gating begins. -/
def Launch.gate (now : W64) (x : Launch) : Launch :=
  { x with st := .gating, gatingAt := if x.preemptAsked then x.gatingAt else now, preemptAsked := false }

theorem askPreempt_idle {s : State} {key : Nat} {l : Launch} (h : l.st ≠ .running) : askPreempt s key l = s := by
  unfold askPreempt
  exact if_pos (by simpa using h)

theorem askPreempt_held {s : State} {key : Nat} {l : Launch} (h : l.st = .running) (hh : requestHeld s key l = true) :
    askPreempt s key l = s.updLaunch key fun x => { x with
      preemptAsked := true, gatingAt := if x.preemptAsked then x.gatingAt else s.cycle } := by
  unfold askPreempt
  rw [if_neg (by simp [h]), if_pos hh]

theorem askPreempt_gates {s : State} {key : Nat} {l : Launch} (h : l.st = .running) (hh : requestHeld s key l = false) :
    askPreempt s key l = unmarkAll ((parkReeves (ckptDrop s key l) l.reeves).enter key
      (Launch.gate (parkReeves (ckptDrop s key l) l.reeves).cycle)) key := by
  unfold askPreempt
  rw [if_neg (by simp [h]), if_neg (by simp [hh])] <;> rfl

theorem execPreemptRequest_eq {s : State} {k : Nat} {l : Launch} (hl : s.launchOf k = some l) :
    exec (.preemptRequest k) s = .next (askPreempt s k l) := by
  show execPreemptRequest k s = _
  unfold execPreemptRequest
  rw [hl]

/-- A request of a launch that nothing holds: it gates, its reeves are parked, and no marker is noted. -/
theorem preemptRequest_gates {s : State} {k : Nat} {l : Launch} (hl : s.launchOf k = some l) (h : l.st = .running)
    (hh : requestHeld s k l = false) : ∃ t, exec (.preemptRequest k) s = .next t ∧
      (∀ m, t.launchOf k = some m → m.st = .gating ∧ m.ckptAt = none ∧ (l.ckptAt = none → m = { l with
        st := .gating, gatingAt := if l.preemptAsked then l.gatingAt else s.cycle, preemptAsked := false })) ∧
      t.steward.journal = s.steward.journal + 1 ∧ (∀ h ∈ l.reeves, (t.reeve h).wait = none) ∧
      (∀ w ∈ t.waiters, ∀ h ∈ l.reeves, w.who ≠ .reeve h) ∧
      ∀ i y, t.inst i = some y → y.launch = k → y.pmkSent = [] ∧ y.passed = [] := by
  refine ⟨_, execPreemptRequest_eq hl, ?_⟩
  rw [askPreempt_gates h hh]
  obtain ⟨hd, m, hm, hc, ha, hcy, hst⟩ := ckptDrop_eq hl
  generalize hu : ckptDrop s k l = u at hd hm hcy hst ⊢
  obtain ⟨rs, ws, hp⟩ := parkReeves_eq u l.reeves
  have hpc : (parkReeves u l.reeves).cycle = s.cycle := by rw [hp]; exact hcy
  have hpl : (parkReeves u l.reeves).launchOf k = some m := by rw [hp]; exact hm
  have hps : (parkReeves u l.reeves).steward = s.steward := by rw [hp]; exact hst
  have hw := parkReeves_wait u l.reeves
  have hq (w : Waiter) (hw : w ∈ (parkReeves u l.reeves).waiters) := (parkReeves_waiters u l.reeves hw).2
  generalize parkReeves u l.reeves = v at hpc hpl hps hw hq ⊢
  have hf := fabricOnly_unmarkAll (v.enter k (Launch.gate v.cycle)) k
  refine ⟨fun m' hm' => ?_, ?_, fun h hh => ?_, fun w hw' => ?_, fun i y hy hl => unmarkAll_marks hy hl⟩
  · rw [hf.launchOf, State.enter_launchOf, if_pos rfl, hpl] at hm'
    obtain rfl := Option.some.inj hm'
    refine ⟨rfl, hc, fun hn => ?_⟩
    have hml : m = l := Option.some.inj (hm.symm.trans ((congrArg (State.launchOf · k) (hd hn)).trans hl))
    rw [hml, hpc]
    rfl
  · rw [hf.steward, State.enter_journal, hps]
  · rw [hf.reeve]; exact hw h (.inl hh)
  · exact hq w (by rw [hf.waiters] at hw'; exact hw')

theorem execPreemptForce_eq {s : State} {k : Nat} {l : Launch} (hl : s.launchOf k = some l) (h : l.st = .gating)
    (hd : (launchInsts s k).all (fun y => instDrained s y.1 y.2) = false) : exec (.preemptForce k) s = .next
      (if (s.cycle - l.gatingAt).toNat < 80000 then s
        else s.enter k fun x => { x.note 1 with st := .saving, forced := true }) := by
  show execPreemptForce k s = _
  unfold execPreemptForce
  rw [hl]
  simp [h, hd]

/-- The launch of a VF that has waited PWAIT behind less urgent ones. -/
def lateLaunch (u : State) (pwait : Nat) (vf : Nat) : Option (Nat × Launch) :=
  (queueOrder u vf).find? fun x => match x.2.behindAt with
    | some c => pwait ≤ (u.time - c).toNat
    | none => false

theorem execPwaitPreempt_eq (vf : Nat) (s : State) : exec (.pwaitPreempt vf) s = .next
    (if (s.vfOf vf).pwait = 0 || !stewardUp (noteBehind s vf) then noteBehind s vf
      else match lateLaunch (noteBehind s vf) (s.vfOf vf).pwait.toNat vf with
        | none => noteBehind s vf
        | some (_, l) =>
          match plan (afterPreempts (noteBehind s vf) vf) l with
          | .wait none => (victims (afterPreempts (noteBehind s vf) vf) l
              (victimOrder (noteBehind s vf) vf (effClass (noteBehind s vf) l))).foldl (fun s k =>
              match s.launchOf k with
              | some x => askPreempt s k x
              | none => s) (noteBehind s vf)
          | _ => noteBehind s vf) := rfl

/-- Settles O44: `askPreempt_idle`, `askPreempt_held` and `preemptRequest_gates` are the three answers to a request. -/
theorem preemptionRequests : Obligations.PreemptionRequests := by
  intro s k l vf goes v u late
  refine ⟨fun hl => ⟨fun h => ?_, fun h hh => ?_, fun h hh => preemptRequest_gates hl h hh, fun h hd => ⟨fun hc => ?_, fun hc => ?_⟩⟩,
    fun f => rfl, fun h => ?_, fun hp hu x hx => ⟨fun hw => ?_, fun hw a ha y hy => ?_⟩⟩
  · exact (execPreemptRequest_eq hl).trans (congrArg _ (askPreempt_idle h))
  · exact (execPreemptRequest_eq hl).trans (congrArg _ (askPreempt_held h hh))
  · exact (execPreemptForce_eq hl h hd).trans (congrArg _ (if_pos hc))
  · exact (execPreemptForce_eq hl h hd).trans (congrArg _ (if_neg (Nat.not_lt.mpr hc)))
  · refine (execPwaitPreempt_eq vf s).trans (congrArg Host.Outcome.next ?_)
    split
    · rfl
    next hn =>
      rw [show lateLaunch (noteBehind s vf) (s.vfOf vf).pwait.toNat vf = none from
        (h.resolve_left fun e => hn (by simp [v, e])).resolve_left fun e => hn (by simp [u, e])]
  all_goals
    have hx : lateLaunch (noteBehind s vf) (s.vfOf vf).pwait.toNat vf = some x := hx
    refine (execPwaitPreempt_eq vf s).trans (congrArg Host.Outcome.next ?_)
    have hp : (s.vfOf vf).pwait ≠ 0 := hp
    have hu : stewardUp (noteBehind s vf) = true := hu
    rw [if_neg (by simpa [hu] using hp), hx]
    dsimp only
  · split
    next e => exact absurd e hw
    · rfl
  · rw [show plan (afterPreempts (noteBehind s vf) vf) x.2 = .wait none from hw]
    dsimp only
    rw [show victims _ x.2 _ = [a] from ha, List.foldl_cons, List.foldl_nil,
      show (noteBehind s vf).launchOf a = some y from hy]

end Sys2Proof.Machine
end

section
/-! SUPPORT. O46: checkpoints of a launch and the rollback to its record (R43, R381, R385 to R387). -/

namespace Sys2Proof.Machine

/-- The conditions under which a launch takes checkpoints, as propositions. -/
theorem ckptOpen_iff (s : State) (k : Nat) (l : Launch) : ckptOpen s k l = true ↔
    l.st = .running ∧ l.lpb.replay = 2 ∧ l.racing = false ∧ l.rollback = none ∧ l.record.isSome = true ∧
      ∀ y ∈ s.insts, y.2.launch = k → y.2.plane = .active := by
  unfold ckptOpen
  simp only [Bool.and_eq_true, beq_iff_eq, Bool.not_eq_true', Option.isNone_iff_eq_none, List.all_eq_true, Bool.or_eq_true,
    bne_iff_ne, and_assoc]
  refine and_congr_right fun _ => and_congr_right fun _ => and_congr_right fun _ => and_congr_right fun _ =>
    and_congr_right fun _ => forall_congr' fun y => forall_congr' fun _ => ?_
  exact imp_iff_not_or.symm

/-- While a launch takes checkpoints, a source stands before each multiple of CKPT but the last. -/
theorem roundHeld_of_open {s : State} {k r : Nat} {l : Launch} {n : NodeRef} {x : Inst} (hl : s.launchOf k = some l)
    (ho : ckptOpen s k l = true) (hx : s.inst n.inst = some x) (hk : x.launch = k) (hr : r % l.lpb.ckpt = 0)
    (hn : r ≠ x.ckptRound) : roundHeld s n r = true := by
  have : ckptHolds s n.inst r = true := by
    unfold ckptHolds
    rw [hx]
    dsimp only
    rw [hk, hl]
    simp [ho, hr, hn]
  simp [roundHeld, this]

/-- What an event of a launch's checkpoint does. -/
theorem execCheckpoint_eq {s : State} {k : Nat} {l : Launch} (hl : s.launchOf k = some l) : exec (.checkpoint k) s = .next
    (if !ckptOpen s k l then ckptDrop s k l
      else match l.ckptAt with
        | none => if (openInsts s k).any fun y => (heldRound s y.1 y.2).isSome then ckptBegin s k else s
        | some c =>
          if ckptClean s k l.lpb.ckpt then ckptTake s k
          else if (s.cycle - c).toNat < 80000 then s
          else ckptDrop (ckptPass s k) k l) := by
  show execCheckpoint k s = _
  unfold execCheckpoint
  rw [hl] <;> rfl

/-! ### A checkpoint begins -/

theorem ckptBegin_eq (s : State) (k : Nat) :
    ckptBegin s k = unmarkAll (s.updLaunch k fun x => { x with ckptAt := some s.cycle }) k := rfl

/-! ### A checkpoint is taken -/

/-- Every held source of a launch's graphs noted as having passed its round. -/
theorem fabricOnly_ckptPass (s : State) (k : Nat) : FabricOnly s (ckptPass s k) := by
  refine .foldl (fun t ⟨_, _⟩ => ?_) s _
  dsimp only
  split
  · exact fabricOnly_updInst ..
  · exact .refl t

/-- One step of noting the rounds that sources have passed. -/
def passRound (s t : State) (y : Nat × Inst) : State :=
  match heldRound s y.1 y.2 with
  | some r => t.updInst y.1 fun x => { x with ckptRound := r }
  | none => t

theorem ckptPass_eq (s : State) (k : Nat) : ckptPass s k = (openInsts s k).foldl (passRound s) s := rfl

theorem inst_passRound_ne (s t : State) {y : Nat × Inst} {j : Nat} (h : j ≠ y.1) : (passRound s t y).inst j = t.inst j := by
  unfold passRound
  split
  · rw [State.inst_updInst, if_neg h]
  · rfl

theorem inst_foldl_passRound_ne (s t : State) (l : List (Nat × Inst)) {j : Nat} (h : ∀ y ∈ l, j ≠ y.1) :
    (l.foldl (passRound s) t).inst j = t.inst j := by
  induction l generalizing t with
  | nil => rfl
  | cons y l ih =>
    rw [List.foldl_cons, ih _ fun z hz => h z (.tail _ hz), inst_passRound_ne s t (h y (.head _))]

/-- Where the keys of the graphs rise, each held graph is noted with its own round. -/
theorem ckptRound_foldl {s t : State} {l : List (Nat × Inst)} (hp : Rising l) {i r : Nat} {x : Inst} (hm : (i, x) ∈ l)
    (hr : heldRound s i x = some r) (ht : (t.inst i).isSome = true) :
    ((l.foldl (passRound s) t).inst i).map (·.ckptRound) = some r := by
  induction l generalizing t with
  | nil => cases hm
  | cons y l ih =>
    obtain ⟨hy, hp⟩ := List.pairwise_cons.mp hp
    rw [List.foldl_cons]
    rcases List.mem_cons.mp hm with rfl | hm
    · rw [inst_foldl_passRound_ne _ _ _ fun z hz => Nat.ne_of_lt (hy z hz)]
      unfold passRound
      rw [hr]
      obtain ⟨z, hz⟩ := Option.isSome_iff_exists.mp ht
      simp [hz]
    · refine ih hp hm ?_
      rw [inst_passRound_ne s t (Nat.ne_of_gt (hy _ hm))]
      exact ht

theorem ckptPass_round {s : State} {k i r : Nat} {x : Inst} (hs : Rising s.insts) (hm : (i, x) ∈ openInsts s k)
    (hr : heldRound s i x = some r) : ((ckptPass s k).inst i).map (·.ckptRound) = some r := by
  have hi : (i, x) ∈ s.insts := List.mem_of_mem_filter (List.mem_of_mem_filter hm)
  rw [ckptPass_eq]
  refine ckptRound_foldl ((hs.filter _).filter _) hm hr ?_
  rw [show s.inst i = some x from mget_of_mem hs hi]
  rfl

/-! ### The bytes of an image -/

/-- A fold of writes to memory writes to memory. -/
theorem MemWrites.foldl {α : Type} {g : State → α → State} (hg : ∀ s a, MemWrites s (g s a)) (s : State) (l : List α) :
    MemWrites s (l.foldl g s) := by
  induction l generalizing s with
  | nil => exact .refl s
  | cons a l ih => exact (hg s a).trans (ih _)

theorem memWrites_writeAllot (s : State) (ctx o : Nat) (bs : List Byte) : MemWrites s (writeAllot s ctx o bs) := by
  refine .foldl (fun t ⟨_, _⟩ => ?_) s _
  dsimp only
  split
  · exact memWrites_storePhys ..
  · exact .refl t

theorem memWrites_writeDram (s : State) (ctx o : Nat) (bs : List Byte) : MemWrites s (writeDram s ctx o bs) := by
  refine .foldl (fun t ⟨_, _⟩ => ?_) s _
  dsimp only
  split
  · exact memWrites_storePhys ..
  · exact .refl t

theorem memWrites_writeImage (s : State) (l : Launch) (im : Image) : MemWrites s (writeImage s l im) := by
  unfold writeImage
  extract_lets a
  split
  · exact memWrites_writeAllot ..
  · exact memWrites_writeDram ..

/-- A checkpoint that is taken: the launch has its record anew, and its graphs have passed their rounds. -/
theorem ckptTake_eq {s : State} {k : Nat} {l : Launch} (hl : s.launchOf k = some l) : ∃ m,
    (ckptTake s k).launchOf k = some { l with
      record := some m, ckptAt := none, dirty := false, notes := l.notes &&& 0xF7#8, sweepAt := s.cycle, idle := false } ∧
    (ckptTake s k).insts = (ckptPass s k).insts := by
  have hf := fabricOnly_ckptPass s k
  unfold ckptTake
  extract_lets t
  have htl : t.launchOf k = some l := (hf.launchOf k).trans hl
  rw [htl]
  dsimp only
  generalize takeImage t k { l with ckptAt := none } true = m
  have hw := memWrites_writeImage { t with freeCtr := t.freeCtr + 24 } l m
  generalize writeImage { t with freeCtr := t.freeCtr + 24 } l m = u at hw ⊢
  generalize hv : (u.updLaunch k fun x => { x with
    record := some m, ckptAt := none, dirty := false, notes := x.notes &&& ~~~0x08#8 }) = v
  have hvl : v.launchOf k = some { l with
      record := some m, ckptAt := none, dirty := false, notes := l.notes &&& 0xF7#8 } := by
    rw [← hv, State.launchOf_updLaunch, if_pos rfl,
      show u.launchOf k = some l from (congrArg (mget · k) hw.launches).trans htl]
    rfl
  have hvc : v.cycle = s.cycle := by
    obtain ⟨_, _, _, _, e⟩ := hw
    rw [← hv, e]
    exact hf.cycle
  have hvi : v.insts = t.insts := by rw [← hv]; exact hw.insts
  obtain ⟨rs, e⟩ := sweepAfresh_eq hvl
  refine ⟨m, ?_, by rw [e]; exact hvi⟩
  rw [e]
  refine (State.launchOf_updLaunch v k k _).trans ?_
  rw [if_pos rfl, hvl, hvc]
  rfl

/-! ### The rollback -/

theorem execReplayRollback_none {s : State} {k : Nat} {l : Launch} (hl : s.launchOf k = some l) (hr : l.rollback = none) :
    exec (.replayRollback k) s = .next s := by
  show execReplayRollback k s = _
  unfold execReplayRollback
  rw [hl]
  dsimp only
  rw [hr]

theorem execReplayRollback_running {s : State} {k : Nat} {l : Launch} {t : Trap} (hl : s.launchOf k = some l)
    (hr : l.rollback = some t) (hs : l.st = .running) : exec (.replayRollback k) s = .next
      (if freezes s k then s else s.enter k fun x => { x with st := .replaying }) := by
  show execReplayRollback k s = _
  unfold execReplayRollback
  rw [hl]
  dsimp only
  rw [hr]
  dsimp only
  rw [if_pos (by simp [hs])]

theorem execReplayRollback_fails {s : State} {k : Nat} {l : Launch} {t : Trap} (hl : s.launchOf k = some l)
    (hr : l.rollback = some t) (hs : l.st = .replaying) (hm : mayReplay l = false) :
    exec (.replayRollback k) s = .next (failReplay s k l t) := by
  show execReplayRollback k s = _
  unfold execReplayRollback
  rw [hl]
  dsimp only
  rw [hr]
  dsimp only
  rw [if_neg (by simp [hs]), if_neg (by simp [hs]), hm]

/-- A rollback that finds its launch's own hamlets in the partition tries them first (log 43). -/
theorem execReplayRollback_stays {s : State} {k : Nat} {l : Launch} {t : Trap} {im : Image} {given : Nat × FenceEntry}
    {u : State × Bool} (hl : s.launchOf k = some l) (hr : l.rollback = some t) (hs : l.st = .replaying)
    (hm : mayReplay l = true) (hi : l.record = some im) (hg : partition s l.vf = some given)
    (hh : ∀ h ∈ im.hams, (partHamlets given).contains h = true)
    (hu : placeImage (replayed (discardLaunch s k l) k l im t) k l im [Spot.stay im.hams] = some u) :
    exec (.replayRollback k) s = .next u.1 := by
  show execReplayRollback k s = _
  unfold execReplayRollback
  rw [hl]
  dsimp only
  rw [hr]
  dsimp only
  rw [if_neg (by simp [hs]), if_neg (by simp [hs]), hm, hi, hg]
  dsimp only
  rw [List.filter_cons_of_pos (by simpa [Spot.stay] using hh), List.filter_nil, hu]

/-- Settles O46: `execCheckpoint_eq` and the lemmas of the rollback say which event does what, `ckptTake_eq` what a taken
checkpoint leaves. -/
theorem checkpointAndReplay : Obligations.CheckpointAndReplay := by
  intro s k l goes hl on held
  have hon : ckptOpen s k l = true ↔ on := ckptOpen_iff s k l
  have he := execCheckpoint_eq hl
  refine ⟨fun ho n x r hx hk hr hn => roundHeld_of_open hl (hon.mpr ho) hx hk hr hn, fun ho hc => ?_, fun ho hc hh => ?_,
    fun ho hc hh => ?_, fun ho c hc => ⟨fun hq => ?_, fun hq ht => ?_, fun hq ht => ?_⟩, execReplayRollback_none hl,
    fun hr hs => ?_, fun t hr hs => ⟨fun hm => execReplayRollback_fails hl hr hs hm,
      fun hm im hi given hg hh u hu => execReplayRollback_stays hl hr hs hm hi hg hh hu⟩⟩
  · rw [if_pos (by simpa using fun h => ho (hon.mp h)), (ckptDrop_eq hl).1 hc] at he
    exact he
  · rw [if_neg (by simp [hon.mpr ho]), hc] at he
    exact he.trans (congrArg _ (if_neg (ne_true_of_eq_false hh)))
  · rw [if_neg (by simp [hon.mpr ho]), hc] at he
    refine ⟨_, he.trans (congrArg _ (if_pos hh)), ?_, fun i y hy hk => unmarkAll_marks (by rw [← ckptBegin_eq]; exact hy) hk⟩
    rw [ckptBegin_eq, (fabricOnly_unmarkAll _ k).launchOf, State.launchOf_updLaunch, if_pos rfl, hl]
    rfl
  · rw [if_neg (by simp [hon.mpr ho]), hc] at he
    obtain ⟨m, hm, hi⟩ := ckptTake_eq hl
    refine ⟨_, m, he.trans (congrArg _ (if_pos hq)), hm, fun hs i x hx r hr => ?_⟩
    rw [State.inst, hi]
    exact ckptPass_round (List.pairwise_map.mp hs) hx hr
  · rw [if_neg (by simp [hon.mpr ho]), hc] at he
    exact he.trans (congrArg _ ((if_neg (by simp [hq])).trans (if_pos ht)))
  · rw [if_neg (by simp [hon.mpr ho]), hc] at he
    exact he.trans (congrArg _ ((if_neg (by simp [hq])).trans (if_neg (Nat.not_lt.mpr ht))))
  · obtain ⟨t, hr⟩ := Option.isSome_iff_exists.mp hr
    have he := execReplayRollback_running hl hr hs
    exact ⟨fun hz => he.trans (congrArg _ (if_pos hz)), fun hz => he.trans (congrArg _ (if_neg (by simp [hz])))⟩

end Sys2Proof.Machine
end

section
/-! SUPPORT. O41: the placement of a waiting graph, and the Beadle's sweep of a launch (R36, R37, R198, R388). -/

namespace Sys2Proof.Machine

/-! ### PAGE_PLACEMENT -/

section Placement
variable {s : State} {req : Nat} {hams : List Nat} {q : PReq}

theorem execPagePlacement_gone (hq : mget s.places req = some q) (hl : s.launchOf q.launch = none) :
    exec (.pagePlacement req hams) s = .next (q.claim.foldl syncHam { s with places := mdel s.places req }) := by
  show execPagePlacement req hams s = _
  unfold execPagePlacement
  rw [hq]
  dsimp only
  rw [hl]

variable {l : Launch}

theorem execPagePlacement_eq (hq : mget s.places req = some q) (hl : s.launchOf q.launch = some l) :
    exec (.pagePlacement req hams) s = .next
      (if l.st != .running then s
        else if !q.claim.isEmpty then placeClaimed s l req q
        else if hams.any fun h => !(vfHamlets s l.vf).contains h then
          recordFault s q.launch { code := .placeFail } (siteOf s l.vf q.hamlet 0 0 false)
        else if !legalHams (vfHamlets s l.vf) q.graph ((streamPlaces q.graph (launchRect s l)).getD []) hams ||
            !allFree s hams then s
        else placeClaimed (setClaim (takeHams s l.ctx hams) req q hams) l req { q with claim := hams }) := by
  show execPagePlacement req hams s = _
  unfold execPagePlacement
  rw [hq]
  dsimp only
  rw [hl]

/-- A request that has claimed hamlets goes on with its placement. -/
theorem execPagePlacement_claimed (hq : mget s.places req = some q) (hl : s.launchOf q.launch = some l)
    (hr : l.st = .running) (hc : q.claim ≠ []) : exec (.pagePlacement req hams) s = .next (placeClaimed s l req q) := by
  rw [execPagePlacement_eq hq hl, if_neg (by simp [hr]), if_pos (by simpa using hc)]

theorem placeClaimed_handle {hd : Nat} (hh : freeHandle s q.launch = some hd) : placeClaimed s l req q =
    match placeOn s q.launch l.ctx { q.graph with handle := hd } .base 0 q.claim with
    | .error none => if cleared s q.claim then q.claim.foldl syncHam (setClaim s req q []) else s
    | .error (some t) => answerPlace s req q (.inr t)
    | .ok (s, none) => s
    | .ok (s, some _) => answerPlace s req q (.inl hd) := by
  unfold placeClaimed
  rw [hh] <;> rfl

/-- While a claimed hamlet is being cleared, only a launch without a handle left is answered. -/
theorem placeClaimed_clearing (hc : cleared s q.claim = false) : placeClaimed s l req q =
    if freeHandle s q.launch = none then answerPlace s req q (.inr { code := .cfgReject, sub := 8 }) else s := by
  cases hh : freeHandle s q.launch with
  | none => rw [if_pos rfl, placeClaimed, hh]; rfl
  | some hd =>
    have hp : placeOn s q.launch l.ctx { q.graph with handle := hd } .base 0 q.claim = .error none := by
      simp [placeOn, hc]
    rw [if_neg (Option.some_ne_none hd), placeClaimed_handle hh, hp]
    simp [hc]

end Placement

/-! ### BEADLE_SWEEP -/

/-- Whether a sweep finds every graph of a launch idle, none having acted since the one before. -/
def sweepIdle (s : State) (k : Nat) : Bool :=
  !(launchInsts s k).isEmpty && (launchInsts s k).all fun y => !y.2.active && idleInst s y.1 y.2

/-- Whether a sweep finds a deadlock of a launch that it has not reported yet (R57). -/
def sweepDead (s : State) (k : Nat) (x : Launch) : Bool :=
  sweepIdle s k && x.idle && !(launchInsts s k).all (fun y => allEos s y.2) && deadConds s k x none &&
    !(launchInsts s k).all fun y => y.2.deadlocked

/-- What a sweep notes of a launch's graphs. -/
def sweepNotes (s : State) (k : Nat) : State :=
  (launchInsts s k).foldl (fun t y => seen (noteSweep t y.1 y.2) y.1) s

theorem execBeadleSweep_eq {s : State} {k : Nat} {x : Launch} (hx : s.launchOf k = some x) : exec (.beadleSweep k) s = .next
    (if sweepsOff s k x then s.updLaunch k fun x => { x with sweepAt := s.cycle, idle := false }
      else if (s.cycle - x.sweepAt).toNat < 65536 then s
      else (if sweepDead s k x then raiseDeadlock (sweepNotes s k) k x.vf else sweepNotes s k).updLaunch k
        fun x => { x with sweepAt := s.cycle, idle := sweepIdle s k }) := by
  show execBeadleSweep k s = _
  unfold execBeadleSweep
  rw [hx] <;> rfl

/-- Settles O41, from the cases of `execPagePlacement_eq`, `placeClaimed_handle` and `execBeadleSweep_eq`. -/
theorem pagerAndBeadle : Obligations.PagerAndBeadle := by
  intro s req hams k goes
  refine ⟨fun q hq => ⟨execPagePlacement_gone hq, fun l hl => ?_⟩, fun x hx => ?_⟩
  · have he := execPagePlacement_eq (hams := hams) hq hl
    refine ⟨fun hr => ?_, fun hr hc ho => ?_, fun hr hc ho hg hf => ?_, fun hr hc hn => ?_, fun hr hc hd hh => ?_⟩
    · exact he.trans (congrArg _ (if_pos (by simpa using hr)))
    · rw [if_neg (by simp [hr]), if_neg (by simp [hc])] at he
      exact he.trans (congrArg _ (if_pos ho))
    · rw [if_neg (by simp [hr]), if_neg (by simp [hc])] at he
      exact he.trans (congrArg _ ((if_neg (ne_true_of_eq_false ho)).trans (if_neg (by simp [hg, hf]))))
    · exact (execPagePlacement_claimed hq hl hr hc).trans (congrArg _ (placeClaimed_clearing hn))
    · have he := (execPagePlacement_claimed (hams := hams) hq hl hr hc).trans (congrArg _ (placeClaimed_handle hh))
      exact ⟨fun t ht => by rw [ht] at he; exact he, fun t k ht => by rw [ht] at he; exact he⟩
  · have he := execBeadleSweep_eq hx
    refine ⟨fun ho => he.trans (congrArg _ (if_pos ho)), fun ho ht => ?_, fun ho ht => ?_⟩
    all_goals rw [if_neg (ne_true_of_eq_false ho)] at he
    · exact he.trans (congrArg _ (if_pos ht))
    · rw [if_neg (Nat.not_lt.mpr ht)] at he
      intro is idle noted
      have hdead : sweepDead s k x = (idle && x.idle && !is.all (fun y => allEos s y.2) && deadConds s k x none &&
        !is.all fun y => y.2.deadlocked) := rfl
      refine ⟨fun h => ?_, fun hi hx heos hc hn => ?_⟩
      · rw [if_neg (ne_true_of_eq_false (hdead.trans (by rcases h with h | h | h | h | h <;> simp [h])))] at he
        exact he
      · rw [if_pos (hdead.trans (by simp only [hi, hx, heos, hc, hn]; rfl)), show sweepIdle s k = true from hi] at he
        rw [hi]
        exact he

end Sys2Proof.Machine
end

section
/-! SUPPORT. O43: how a selected launch starts, and how a launch ends (R37, R52, R140, R198, R368, R377). -/

namespace Sys2Proof.Machine

/-! ### LAUNCH_PLACE -/

section Place
variable {s : State} {k : Nat} {hams : List Nat} {l : Launch}

theorem execLaunchPlace_eq (hl : s.launchOf k = some l) (hp : l.st = .placing) (hu : stewardUp s = true) :
    exec (.launchPlace k hams) s = .next
      (if heldBack s l.vf k l then requeue s k
        else if !rectOk s l then refusePlacing s k (rejectTrap sPlace)
        else if !l.claim.isEmpty then
          if cleared s l.claim then withGraph s k l fun s' g => placeLaunch s' k l g (launchRect s l) else s
        else if hams.any fun h => !(vfHamlets s l.vf).contains h then refuseLaunch s k { code := .placeFail }
        else withGraph s k l fun s' g =>
          let legal : Bool := match g with
            | none => hams.isEmpty
            | some g => legalHams (vfHamlets s l.vf) g ((streamPlaces g (launchRect s l)).getD []) hams
          if !legal then s'
          else if !hams.all (hamOpen s') || !(launchRect s l).all (reeveOpen s') then requeue s' k
          else
            let claim := claimOf l hams (launchRect s l)
            let u := (takeHams s' l.ctx claim).updLaunch k fun x => { x with claim := claim }
            if cleared u claim then placeLaunch u k { l with claim := claim } g (launchRect s l) else u) := by
  show execLaunchPlace k hams s = _
  unfold execLaunchPlace
  rw [hl]
  dsimp only
  rw [if_neg (by simp [hp, hu])] <;> rfl

/-- A launch without a graph has nothing to read. -/
theorem withGraph_none (hg : l.lpb.graph = 0) (f : State → Option Graph → State) :
    withGraph s k l f = f (release s .steward) none := by
  have : launchGraph s l = .ok (none, s) := by simp [launchGraph, hg]
  simp [withGraph, this]

theorem withGraph_some {g : Graph} {u : State} (hg : launchGraph s l = .ok (some g, u)) (f : State → Option Graph → State) :
    withGraph s k l f = f (release u .steward) (some g) := by
  simp [withGraph, hg]

theorem placeLaunch_none {x : Launch} {rect : List Nat} (hx : s.launchOf k = some x) :
    placeLaunch s k l none rect = l.claim.foldl syncHam (startLaunch s k x rect) := by
  unfold placeLaunch
  simp only [hx]

theorem placeLaunch_some {g : Graph} {v : State} {i : Nat} {y : Launch} {rect : List Nat}
    (hm : makeInst s k g .base 0 (l.claim.take g.pages.length) = .ok (v, i)) (hy : v.launchOf k = some y) :
    placeLaunch s k l (some g) rect = l.claim.foldl syncHam (startLaunch v k y rect) := by
  unfold placeLaunch
  simp only [hm, hy]

/-- A launch without a graph claims the hamlets of its reeves. -/
theorem claimOf_nil (l : Launch) (rect : List Nat) : claimOf l [] rect = rect.take l.lpb.count := by
  simp [claimOf]

theorem takeHams_launchOf (s : State) (ctx : Nat) (hams : List Nat) (k : Nat) :
    (takeHams s ctx hams).launchOf k = s.launchOf k := by
  unfold takeHams
  induction hams generalizing s with
  | nil => rfl
  | cons h hs ih =>
    rw [List.foldl_cons, ih]
    split <;> rfl

/-- A selected launch without a graph claims its rectangle, and starts where it is clear. -/
theorem execLaunchPlace_reeves (hl : s.launchOf k = some l) (hp : l.st = .placing) (hu : stewardUp s = true)
    (hb : heldBack s l.vf k l = false) (hr : rectOk s l = true) (hc : l.claim = []) (hg : l.lpb.graph = 0) :
    let rect := launchRect s l
    let r := release s .steward
    let claim := rect.take l.lpb.count
    let u := (takeHams r l.ctx claim).updLaunch k fun x => { x with claim := claim }
    exec (.launchPlace k []) s = .next (if !rect.all (reeveOpen r) then requeue r k
      else if cleared u claim then claim.foldl syncHam (startLaunch u k { l with claim := claim } rect) else u) := by
  intro rect r claim u
  rw [execLaunchPlace_eq hl hp hu, if_neg (ne_true_of_eq_false hb), if_neg (by simp [hr]), if_neg (by simp [hc]),
    if_neg (by simp), withGraph_none hg]
  refine congrArg _ ?_
  rw [if_neg (by simp), claimOf_nil]
  have hx : u.launchOf k = some { l with claim := claim } := by
    rw [State.launchOf_updLaunch, if_pos rfl, takeHams_launchOf, show r.launchOf k = some l from hl]
    rfl
  rw [← placeLaunch_none (l := { l with claim := claim }) hx]
  simp only [List.all_nil, Bool.not_true, Bool.false_or]
  rfl

/-- A launch that has claimed hamlets waits for them to be clear. -/
theorem execLaunchPlace_claimed (hl : s.launchOf k = some l) (hp : l.st = .placing) (hu : stewardUp s = true)
    (hb : heldBack s l.vf k l = false) (hr : rectOk s l = true) (hc : l.claim ≠ []) : exec (.launchPlace k hams) s = .next
      (if cleared s l.claim then withGraph s k l fun s' g => placeLaunch s' k l g (launchRect s l) else s) := by
  rw [execLaunchPlace_eq hl hp hu, if_neg (ne_true_of_eq_false hb), if_neg (by simp [hr]), if_pos (by simpa using hc)]

end Place

/-! ### LAUNCH_COMPLETE -/

theorem execLaunchComplete_eq {s : State} {k : Nat} {l : Launch} (hl : s.launchOf k = some l) (hr : l.st = .running)
    (hb : l.rollback = none) (ha : l.preemptAsked = false) : exec (.launchComplete k) s = .next
      (if !launchDone s k l || (launchInsts s k).any (fun y => repliesOwed s y.1) then s
        else if !(flushReeves s l.reeves).2 || accessOwed (flushReeves s l.reeves).1 k then (flushReeves s l.reeves).1
        else endLaunch (flushReeves s l.reeves).1 k l) := by
  show execLaunchComplete k s = _
  unfold execLaunchComplete
  rw [hl]
  have hc : (l.st != .running || l.rollback.isSome || l.preemptAsked) = false := by rw [hr, hb, ha]; rfl
  dsimp only
  rw [hc, Bool.false_or]

/-! ### The start of a reeve (R52) -/

theorem ham_updHam_self (s : State) (h : Nat) (f : Hamlet → Hamlet) : (s.updHam h f).ham h = f (s.ham h) := by
  simp [State.ham, State.updHam]

theorem startReeve_reeve (s : State) (k stride : Nat) (l : Launch) (h j m : Nat) :
    (startReeve s k stride l h j).reeve m = if m = h then
      ({ ctx := l.ctx, vf := l.vf, lid := l.lid, launch := k, nunits := l.lpb.count, stride := stride
         code := l.lpb.code, args := l.args, tvec := s.steward.tvec
         prio := BitVec.ofNat 64 (l.lpb.qos * 16 + l.lpb.pclass), run := .running } : Reeve).startUnit j
      else s.reeve m :=
  State.reeve_setReeve s h m _

/-- Settles O43: the cases of `execLaunchPlace_eq` and `execLaunchComplete_eq`, and the reeve that `startReeve` sets. -/
theorem launchesStartAndEnd : Obligations.LaunchesStartAndEnd := by
  constructor
  · intro s k hams l goes rect hl
    refine ⟨fun hp hu hb => ?_, fun hp hu hb => ?_, fun hr hb ha => ?_⟩
    · exact (execLaunchPlace_eq hl hp hu).trans (congrArg _ (if_pos hb))
    · have he := execLaunchPlace_eq (hams := hams) hl hp hu
      rw [if_neg (ne_true_of_eq_false hb)] at he
      refine ⟨fun hr => ?_, fun hr hc ho => ?_, fun hr hc hh hg => ?_, fun hr hc => ?_⟩
      · exact he.trans (congrArg _ (if_pos (by simp [hr])))
      · rw [if_neg (by simp [hr]), if_neg (by simp [hc])] at he
        exact he.trans (congrArg _ (if_pos ho))
      · intro r claim u
        have he := execLaunchPlace_reeves hl hp hu hb hr hc hg
        rw [hh]
        refine ⟨fun ho => he.trans (congrArg _ (if_pos (by simp [r, rect, ho]))), fun ho hn => ?_, fun ho hn => ?_⟩
        all_goals have ho : ¬ (!rect.all (reeveOpen r)) = true := by simp [ho]
        · exact he.trans (congrArg _ ((if_neg ho).trans (if_neg (ne_true_of_eq_false hn))))
        · exact he.trans (congrArg _ ((if_neg ho).trans (if_pos hn)))
      · have he := execLaunchPlace_claimed (hams := hams) hl hp hu hb hr hc
        refine ⟨fun hn => he.trans (congrArg _ (if_neg (ne_true_of_eq_false hn))), fun hn hg => ?_,
          fun hn g u hg v i hm y hy => ?_⟩
        · rw [if_pos hn, withGraph_none hg, placeLaunch_none (s := release s .steward) hl] at he
          exact he
        · rw [if_pos hn, withGraph_some hg, placeLaunch_some hm hy] at he
          exact he
    · have he := execLaunchComplete_eq hl hr hb ha
      refine ⟨fun hd ho hw => ?_, fun hd ho hw hq => ?_, fun h => he.trans (congrArg _ (if_pos ?_))⟩
      · rw [if_neg (by simp only [hd, ho]; decide), if_pos (by rcases hw with hw | hw <;> simp [hw])] at he
        exact he
      · rw [if_neg (by simp only [hd, ho]; decide), if_neg (by simp [hw, hq])] at he
        exact he
      · rcases h with h | h <;> simp [h]
  · intro s k l h j stride
    have hr := startReeve_reeve s k stride l h j
    have hh := hr h
    rw [if_pos rfl] at hh
    have hm : (startReeve s k stride l h j).ham h = _ := ham_updHam_self _ h _
    have hs : ((startReeve s k stride l h j).reeve h).superv = false := by
      rw [hh]
      simp [Reeve.superv, Reeve.startUnit]
    exact ⟨congrArg Reeve.run hh, congrArg Reeve.launch hh, congrArg Reeve.ctx hh, congrArg Reeve.vf hh,
      congrArg Reeve.code hh, congrArg Reeve.tvec hh, congrArg Hamlet.owner hm, congrArg Hamlet.ctx hm,
      congrArg Reeve.pc hh, congrArg Reeve.stop hh, hs, fun m hm => (hr m).trans (if_neg hm)⟩

end Sys2Proof.Machine
end

section
/-! SUPPORT. O38: stacked and side calls, freezes, spills, refills and returns, event by event (R38 to R43, R312, R384,
R398 to R402). -/

namespace Sys2Proof.Machine

theorem instLaunch_of_inst {s : State} {i : Nat} {x : Inst} (hx : s.inst i = some x) : s.instLaunch i = x.launch := by
  unfold State.instLaunch
  rw [hx]

/-! ### STACKED_CALL -/

/-- What a call site that is full asks for, by the first check that fails. -/
theorem execStackedCall_eq {s : State} {n : NodeRef} {x : Inst} {l : Launch} (hx : s.inst n.inst = some x)
    (hl : s.launchOf x.launch = some l) (hk : nodeOk s n .join = true) (hc : (s.cellAt n).isCalls = true)
    (hf : siteFull (s.cellAt n) = true) (hg : (s.cellAt n).joinSt.calling = false)
    (hr : (s.cellAt n).joinSt.results = []) (hp : x.plane = .active) (hs : l.st = .running) :
    exec (.stackedCall n) s = .next
      (match liveGraph s x.launch ((s.cellAt n).fld 2 0 8) with
        | none => haltNode s n { code := .cfgReject, sub := sHandle }
        | some g =>
          if (s.cellAt n).joinSt.words.length != g.nentry then haltNode s n { code := .cfgReject, sub := sCall }
          else if 64 ≤ x.depth then callTooDeep s n
          else match placeRefusal (vfHamlets s l.vf) g (calleeFixed x g) with
            | some sub => haltNode s n { code := .cfgReject, sub := sub }
            | none =>
              makeRoom ((setJoin s n { (s.cellAt n).joinSt with calling := true }).updInst n.inst fun x =>
                { x with plane := .freezing, call := some (n, (s.cellAt n).joinSt.words, (s.cellAt n).joinSt.tag) }) n.inst) := by
  show execStackedCall n s = _
  unfold execStackedCall
  rw [instLaunch_of_inst hx, hx, hl]
  dsimp only
  rw [if_neg (by simp [hk, hc, hf, hg, hr, hp, hs])] <;> rfl

/-- CALL_DEPTH enters the launch status, the launch's reeves stop, and its graphs are released (R41). -/
theorem callTooDeep_eq {s : State} {n : NodeRef} {x : Inst} {l : Launch} (hx : s.inst n.inst = some x)
    (hl : s.launchOf x.launch = some l) : callTooDeep s n =
      releaseLaunch (stopLaunchReeves (nodeFault s n { code := .callDepth }) x.launch l.reeves) x.launch := by
  unfold callTooDeep
  rw [instLaunch_of_inst hx]
  dsimp only
  rw [hl]

/-! ### FREEZE_POINT -/

section Freeze
variable {s : State} {i : Nat} {x : Inst} {r : NodeRef × List W64 × W64}

theorem execFreezePoint_shadow (hx : s.inst i = some x) (hc : x.call = some r) (hp : x.plane = .shadow) :
    exec (.freezePoint i) s = .next (loadCallee s i x r.1 r.2.1 r.2.2) := by
  obtain ⟨site, words, tag⟩ := r
  show execFreezePoint i s = _
  unfold execFreezePoint
  rw [hx]
  dsimp only
  rw [hc]
  dsimp only
  rw [if_pos hp]

/-- The caller's plane becomes a shadow plane, and the callee loads (R39). -/
def enterShadow (s : State) (i : Nat) (x : Inst) (r : NodeRef × List W64 × W64) : State :=
  let v := (freezePorts (abandonAll s i) i).updInst i fun x => { x with plane := .shadow }
  let u := sweepAfresh (raiseHeld v x.launch) x.launch
  match u.inst i with
  | some y => loadCallee u i y r.1 r.2.1 r.2.2
  | none => u

/-- The reeves whose combining entries a freeze flushes (R188). -/
def freezeReeves (s : State) (x : Inst) : List Nat :=
  match s.launchOf x.launch with
  | some l => l.reeves
  | none => []

/-- A caller on its way to its token-consistent point, where nothing of it is in flight any more (R39). -/
theorem execFreezePoint_freezing (hx : s.inst i = some x) (hc : x.call = some r) (hp : x.plane = .freezing) :
    exec (.freezePoint i) s = .next
      (if settled s i = false then s
        else if shadowRoom s x.hams = false then makeRoom s i
        else if (flushReeves s (freezeReeves s x)).2 = false then (flushReeves s (freezeReeves s x)).1
        else enterShadow (flushReeves s (freezeReeves s x)).1 i x r) := by
  obtain ⟨site, words, tag⟩ := r
  show execFreezePoint i s = _
  unfold execFreezePoint
  rw [hx]
  dsimp only
  rw [hc]
  dsimp only
  rw [if_neg (by simp [hp])]
  simp only [hp, bne_self_eq_false, Bool.false_or, Bool.not_eq_true'] <;> rfl

end Freeze

/-! ### SPILL_COMPLETE and REFILL_COMPLETE -/

theorem execSpillComplete_spilling {s : State} {i : Nat} {x : Inst} (hx : s.inst i = some x) (hp : x.plane = .spilling) :
    let w := writeAllot s (s.instCtx i).1 (spillEnd s i) (spillImage x)
    exec (.spillComplete i) s = .next
      (sweepAfresh (markSpilled (setSpill w i ((i, { x with plane := .shadow }) :: spillArea w i)) i) x.launch) := by
  intro w
  show execSpillComplete i s = _
  unfold execSpillComplete
  rw [hx]
  dsimp only
  rw [if_neg (by simp [hp])]

theorem execRefillComplete_refilling {s : State} {i : Nat} {x : Inst} {y : Nat × Inst} (hx : s.inst i = some x)
    (hp : x.plane = .refilling) (hy : (spillArea s i).find? (·.1 == i) = some y) : exec (.refillComplete i) s = .next
      (if !y.2.hops.all (fun e => (s.ham e.1).switch.length + (y.2.hops.filter (·.1 == e.1)).length ≤ 64) then s
        else sweepAfresh (y.2.hams.foldl syncHam (putHops { s with insts := mset s.insts i y.2 } y.2.hops)) y.2.launch) := by
  obtain ⟨j, im⟩ := y
  show execRefillComplete i s = _
  unfold execRefillComplete
  rw [hx, hy]
  dsimp only
  simp only [hp, bne_self_eq_false, Bool.false_or]

/-! ### RET -/

section Ret
variable {s : State} {n : NodeRef} {x : Inst}

theorem execRet_eq (hx : s.inst n.inst = some x) (hk : nodeOk s n .join = true) (hr : (s.cellAt n).isRets = true)
    (hf : siteFull (s.cellAt n) = true ∨ (s.cellAt n).joinSt.held.isSome = true) : exec (.ret n) s = .next
      (if saving s n.inst then
        if (s.cellAt n).joinSt.held.isSome then s
        else setJoin s n { (s.cellAt n).joinSt with held := some (s.cellAt n).joinSt.words, words := [], any := false }
      else match x.kind with
        | .stacked caller site =>
          if x.plane != .active then s
          else retToCaller s n caller site ((s.cellAt n).joinSt.held.getD (s.cellAt n).joinSt.words) (s.cellAt n).joinSt.poison
        | _ => retToPorts s n x ((s.cellAt n).joinSt.held.getD (s.cellAt n).joinSt.words) (s.cellAt n).joinSt.poison) := by
  show execRet n s = _
  unfold execRet
  rw [hx]
  dsimp only
  rw [if_neg (by rcases hf with hf | hf <;> simp [hk, hr, hf])] <;> rfl

/-- A plane that has room thaws, once its callee has been released. -/
theorem thaw_ok {i j : Nat} {y : Inst} {u : State} (hy : s.inst i = some y)
    (hr : thawRoom s i y (graphInsts s.insts.length s j) = true) (hb : thawBlocks s i y = .ok u) (k : State → State) :
    thaw s i (some j) k = k (thawed (releaseInst (release u .steward).insts.length j (release u .steward)) i) := by
  unfold thaw
  rw [hy]
  dsimp only
  rw [if_neg (by simp [hr]), hb]

theorem retToCaller_spilled {k : Nat} {site : NodeRef} {ws : List W64} {p : Bool} (hp : planeOf s k = .spilled) :
    retToCaller s n k site ws p = startRefill s n.inst := by
  unfold retToCaller
  rw [hp]

theorem retToCaller_refilling {k : Nat} {site : NodeRef} {ws : List W64} {p : Bool} (hp : planeOf s k = .refilling) :
    retToCaller s n k site ws p = s := by
  unfold retToCaller
  rw [hp]

/-- A caller in a shadow plane: the callee waits for its memory replies, and then the caller thaws (R270, R39). -/
theorem retToCaller_shadow {k : Nat} {site : NodeRef} {ws : List W64} {p : Bool} (hp : planeOf s k = .shadow) :
    retToCaller s n k site ws p =
      if (graphInsts s.insts.length s n.inst).any (repliesOwed s) then s
      else thaw s k (some n.inst) fun s =>
        let g := (s.cellAt site).joinSt
        let res := ws.zipIdx.map fun w =>
          scalarTok w.1 (withIndex g.tag ((tagIndex g.tag + w.2) % 2 ^ 24)) (p || g.poison)
        startRefill (markActive (setJoin s site
          { g with calling := false, words := [], any := false, poison := false, results := res }) k) k := by
  unfold retToCaller
  rw [hp]

end Ret

/-! ### Side calls -/

theorem execSideCallPlace_eq {s : State} {req : Nat} {hams : List Nat} {q : SideReq} {g : Graph}
    (hq : mget s.sides req = some q) (hn : s.nodeLive q.node = true) (hg : s.gating q.node.inst = false)
    (hl : liveGraph s (s.instLaunch q.node.inst) q.handle = some g) : exec (.sideCallPlace req hams) s = .next
      (if ((List.range 4).filter fun p => (sideWord s q).testBit (8 + p)).length != g.nentry then
        failSide s req q { code := .cfgReject, sub := sCall }
      else match placeRefusal (vfHamlets s (s.instCtx q.node.inst).2) g [] with
        | some sub => failSide s req q { code := .cfgReject, sub := sub }
        | none =>
          if !q.claim.isEmpty then placeSide s req q g
          else if hams.any fun h => !(vfHamlets s (s.instCtx q.node.inst).2).contains h then
            failSide s req q { code := .placeFail }
          else if !legalHams (vfHamlets s (s.instCtx q.node.inst).2) g [] hams || !allFree s hams then s
          else placeSide { takeHams s (s.instCtx q.node.inst).1 hams with sides := mset s.sides req { q with claim := hams } }
            req { q with claim := hams } g) := by
  show execSideCallPlace req hams s = _
  unfold execSideCallPlace
  rw [hq]
  dsimp only
  rw [if_neg (by simp [hn, hg]), hl] <;> rfl

theorem execSideCallRelease_done {s : State} {i : Nat} {x : Inst} {m : NodeRef} {e : Nat} (hx : s.inst i = some x)
    (hk : x.kind = .side m e) (hp : x.plane = .active) (hd : sideDone s x = true) (ho : repliesOwed s i = false) :
    exec (.sideCallRelease i) s = .next (releaseInst s.insts.length i s) := by
  show execSideCallRelease i s = _
  unfold execSideCallRelease
  rw [hx]
  dsimp only
  rw [hk]
  dsimp only
  rw [if_pos (by simp [hp, hd, ho])]

theorem placeSide_placed {s v : State} {req k : Nat} {q : SideReq} {g : Graph}
    (h : placeOn s (s.instLaunch q.node.inst) (s.instCtx q.node.inst).1 g (.side q.node q.entry)
      (match s.inst q.node.inst with
        | some x => x.depth
        | none => 0) q.claim (sideCircs s q g) = .ok (v, some k)) :
    placeSide s req q g = endSide (v.updInst k fun x => { x with gated := false }) req q := by
  unfold placeSide
  dsimp only
  split
  · next h' => exact absurd (h.symm.trans h') (by simp)
  · next h' => exact absurd (h.symm.trans h') (by simp)
  · next h' => exact absurd (h.symm.trans h') (by simp)
  · next h' =>
    have e := h.symm.trans h'
    simp only [Except.ok.injEq, Prod.mk.injEq, Option.some.injEq] at e
    obtain ⟨rfl, rfl⟩ := e
    rfl

/-- Settles O38: each event is its equation above, taken at the branch that its conditions choose. -/
theorem callsAndReturns : Obligations.CallsAndReturns := by
  intro s n i req hams c j goes
  refine ⟨?_, ?_, ?_, ?_, ?_, ?_, ?_⟩
  · intro x hx l hl hk hc hf hg hr hp hs
    have he := execStackedCall_eq hx hl hk hc hf hg hr hp hs
    refine ⟨fun hn => ?_, fun g hgr => ⟨fun hw => ?_, fun hw hd => ?_, fun sub hw hd hpl => ?_, fun hw hd hpl => ?_⟩⟩
    · rw [hn] at he
      exact he
    all_goals rw [hgr] at he; dsimp only at he
    · rw [if_pos (by simpa using hw)] at he
      exact he
    all_goals rw [if_neg (by simpa using hw)] at he
    · rw [if_pos hd, callTooDeep_eq hx hl] at he
      exact he
    all_goals rw [if_neg (by omega), hpl] at he; exact he
  · intro x hx r hr
    refine ⟨execFreezePoint_shadow hx hr, fun hp hs => ?_, fun hp hs hm => ?_, fun hp hs hm l hl => ?_⟩
    all_goals have he := execFreezePoint_freezing hx hr hp
    · exact he.trans (congrArg _ (if_pos hs))
    · exact he.trans (congrArg _ ((if_neg (by simp [hs])).trans (if_pos hm)))
    · rw [if_neg (by simp [hs]), if_neg (by simp [hm]), show freezeReeves s x = l.reeves by simp [freezeReeves, hl]] at he
      refine ⟨fun hw => he.trans (congrArg _ (if_pos hw)), fun hw => ?_⟩
      intro v u y hy
      refine he.trans (congrArg Host.Outcome.next ((if_neg (by simp [hw])).trans ?_))
      show (match u.inst i with
        | some y => loadCallee u i y r.1 r.2.1 r.2.2
        | none => u) = _
      rw [hy]
  · intro x hx hp ctx area w
    exact ⟨by simp only [spillImage, List.length_take]; omega, execSpillComplete_spilling hx hp⟩
  · intro x hx hp y hy im room
    have he := execRefillComplete_refilling hx hp hy
    exact ⟨fun h => he.trans (congrArg _ (if_pos (congrArg Bool.not h))),
      fun h => he.trans (congrArg _ (if_neg (ne_true_of_eq_false (congrArg Bool.not h))))⟩
  · intro x hx hk hr hf
    have he := execRet_eq hx hk hr hf
    refine ⟨fun hs hj => ?_, fun hs hb => ?_, fun k site hs hb hp => ?_⟩
    · rw [hs, if_pos rfl, if_neg (by rw [show (s.cellAt n).joinSt.held = none from hj]; simp)] at he
      exact he
    all_goals rw [hs, if_neg Bool.false_ne_true, hb] at he; dsimp only at he
    · exact he
    rw [if_neg (by simp [hp])] at he
    refine ⟨fun h => he.trans (congrArg _ (retToCaller_spilled h)), fun h => he.trans (congrArg _ (retToCaller_refilling h)),
      fun h hb => he.trans (congrArg _ ((retToCaller_shadow h).trans (if_pos hb))), fun h hb y hy hroom u hu => ?_⟩
    refine he.trans (congrArg _ ((retToCaller_shadow h).trans ((if_neg (ne_true_of_eq_false hb)).trans ?_)))
    exact thaw_ok hy hroom hu _
  · intro q hq hn hg g hl args part fails
    have he := execSideCallPlace_eq (hams := hams) hq hn hg hl
    refine ⟨fun h => he.trans (congrArg _ (if_pos (by simpa using h))), fun h => ?_⟩
    replace he := he.trans (congrArg _ (if_neg (by simpa using h)))
    refine ⟨fun sub hp => ?_, fun hp hc ho => ?_, fun hp hc ho hh hf => ?_, fun hp hc => ⟨?_, ?_⟩⟩
    all_goals rw [hp] at he; dsimp only at he
    · exact he
    · exact he.trans (congrArg _ ((if_neg (by simp [hc])).trans (if_pos ho)))
    · exact he.trans (congrArg _ ((if_neg (by simp [hc])).trans ((if_neg (ne_true_of_eq_false ho)).trans
        (if_neg (by simp [part] at hh; simp [hh, hf])))))
    · exact he.trans (congrArg _ (if_pos (by simpa using hc)))
    · exact fun v k h => placeSide_placed h
  · intro x hx m e hk hp hd ho
    exact execSideCallRelease_done hx hk hp hd ho

end Sys2Proof.Machine
end

section
/-! SUPPORT. O22: the stream barriers and the port instructions of a reeve (R24, R25, R178, R267 to R269). -/

namespace Sys2Proof.Machine

/-! ### Stream barriers (R267) -/

theorem any_member_iff {r : Reeve} {m : BitVec 16} :
    (r.xfers.any fun (_, y) => y.member m) = true ↔ ∃ x ∈ r.xfers, x.2.member m = true := by
  simp

/-- The barriers in force once one is put: those with an earlier member in flight. -/
def Reeve.putBar (r : Reeve) (b : SBar) : List SBar :=
  (b :: r.sbars).filter fun b => r.xfers.any fun (j, y) => j < b.upto && y.member b.mask

theorem Reeve.mem_putBar {r : Reeve} {b c : SBar} : c ∈ r.putBar b ↔
    (c = b ∨ c ∈ r.sbars) ∧ ∃ x ∈ r.xfers, x.1 < c.upto ∧ x.2.member c.mask = true := by
  simp [Reeve.putBar]

/-- A barrier that is put stays while an earlier member is in flight, and those before it stay likewise. -/
theorem sbarPut_puts {i : Instr} {s : State} {p : Guard} {a : GReg} {kind : Nat} (hg : s.me.guard p = true)
    (he : exec i s = sbarPut p kind a s) :
    let mask : BitVec 16 := (s.me.gr a).truncate 16
    ∃ bars, Gives i s { s.me with sbars := bars } (s.me.pc + 4) ∧
      ((∃ x ∈ s.me.xfers, x.1 < s.me.nextX ∧ x.2.member mask = true) →
        ({ kind := kind, mask := mask, upto := s.me.nextX } : SBar) ∈ bars) ∧
      ∀ b ∈ bars, b ∈ s.me.sbars ∨ b = { kind := kind, mask := mask, upto := s.me.nextX } := by
  intro mask
  have hm : (field (s.me.gr a) 0 16 : BitVec 16) = mask := (BitVec.setWidth_eq_extractLsb' (by decide)).symm
  refine ⟨s.me.putBar { kind := kind, mask := mask, upto := s.me.nextX }, gives_of_next (len := 4) he hg ?_ rfl,
    fun hx => Reeve.mem_putBar.mpr ⟨.inl rfl, hx⟩, fun b hb => (Reeve.mem_putBar.mp hb).1.symm⟩
  simp only [State.setMe_eq, hm]
  rfl

/-! ### The checks of a port operation (R268) -/

section Ports
variable {s : State} {n : Nat}

theorem portCheck_ok {dir : Bool} (hp : (cellOfHam s s.cur 15).isSome = true) (hu : declUsed (portDecl s s.cur n) = true)
    (hd : declDir (portDecl s s.cur n) = dir) : portCheck s n dir = .ok (portDecl s s.cur n) := by
  have hn : (cellOfHam s s.cur portCell).isNone = false := by rw [← Option.not_isSome, portCell, hp]; rfl
  unfold portCheck
  dsimp only
  rw [if_neg (by simp [hn, hu, hd])]

theorem portCheck_bad {dir : Bool} (h : (cellOfHam s s.cur 15).isSome = false ∨ declUsed (portDecl s s.cur n) = false ∨
    declDir (portDecl s s.cur n) ≠ dir) : portCheck s n dir = cfgReject 10 := by
  unfold portCheck
  dsimp only
  rw [← Option.not_isSome, portCell, if_pos]
  rcases h with h | h | h <;> simp [h]

/-- Whether a port has no stream and a free slot. -/
theorem portFree_iff {q : SPort} : (q.cur.isSome || !q.pending.isEmpty || decide (q.buf.length ≥ 16)) = false ↔
    (q.cur = none ∧ q.pending = []) ∧ q.buf.length < 16 := by
  simp [and_assoc]

/-! ### Sending a token (R25, R178, R268) -/

variable {t : W64 → Token} {last : Bool}

theorem portSend_eos (h : (s.sport s.cur n).eosSent = true) : portSend s n t last = raise .rateMismatch := by
  unfold portSend
  dsimp only
  rw [if_pos h]

theorem portSend_full (h : (s.sport s.cur n).eosSent = false)
    (hf : ¬ (((s.sport s.cur n).cur = none ∧ (s.sport s.cur n).pending = []) ∧ (s.sport s.cur n).buf.length < 16)) :
    portSend s n t last = await .output := by
  unfold portSend
  dsimp only
  rw [if_neg (ne_true_of_eq_false h), if_pos (eq_true_of_ne_false (mt portFree_iff.mp hf))]

/-- A port that has not sent EOS, has no stream and a free slot. -/
theorem portSend_free {m : NodeRef} {c : Cell} (hs : Still s) (h : (s.sport s.cur n).eosSent = false)
    (hf : ((s.sport s.cur n).cur = none ∧ (s.sport s.cur n).pending = []) ∧ (s.sport s.cur n).buf.length < 16)
    (hc : cellOfHam s s.cur 15 = some (m, c)) : portSend s n t last =
      if (s.sport s.cur n).sent = 0 ∧ roundHeld s m (s.sport s.cur n).round = true then await .output
      else if (nodeOwner s m).2.1 ≠ s.me.ctx then .ok (dropForeign s m, .next)
      else .ok (s.setSport s.cur n
        { (s.sport s.cur n).push (t (handTag s.me (s.sport s.cur n))) with eosSent := last }, .next) := by
  unfold portSend
  dsimp only
  rw [if_neg (ne_true_of_eq_false h), if_neg (ne_true_of_eq_false (portFree_iff.mpr hf)), releaseAll_still hs]
  simp only [bind, Except.bind, portCell, hc]
  simp only [Bool.and_eq_true, decide_eq_true_eq, bne_iff_ne]

theorem push_data {q : SPort} {t : Token} (h : t.kind = .data) (he : q.eosSent = false) :
    { q.push t with eosSent := false } =
      { q with buf := q.buf ++ [t], sent := (q.sent + 1) % 2 ^ 24, idx := (q.idx + 1) % 2 ^ 24 } := by
  simp [SPort.push, h, he]

theorem push_eor {q : SPort} {t : Token} (h : t.kind = .eor) (he : q.eosSent = false) :
    { q.push t with eosSent := false } =
      { q with buf := q.buf ++ [t], round := (q.round + 1) % 4096, idx := 0, sent := 0 } := by
  simp [SPort.push, h, he]

theorem push_eod {q : SPort} {t : Token} {k : Nat} (h : t.kind = .eod k) (he : q.eosSent = false) :
    { q.push t with eosSent := false } = { q with buf := q.buf ++ [t], sent := (q.sent + 1) % 2 ^ 24 } := by
  simp [SPort.push, h, he]

theorem push_eos {q : SPort} {t : Token} (h : t.kind = .eos) :
    { q.push t with eosSent := true } = { q with buf := q.buf ++ [t], sent := (q.sent + 1) % 2 ^ 24, eosSent := true } := by
  simp [SPort.push, h]

theorem dropForeign_me (s : State) (n : NodeRef) : (dropForeign s n).me = s.me := by
  simp [dropForeign]

/-! ### INJECT and MARKP (R268) -/

variable {p : Guard} {m : BitVec 4} {a d : GReg}

/-- The token of an INJECT. -/
def injectTok (v tag : W64) : Token := { kind := .data, data := v.zeroExtend 512, mask := 1, tag := tag }

theorem injectTok_eq (v tag : W64) :
    injectTok v tag = { kind := .data, data := BitVec.ofNat 512 v.toNat, mask := 1, tag := tag } := by
  simp [injectTok, BitVec.ofNat_toNat]

/-- The operation of an INJECT. -/
def injectOp (m : BitVec 4) (a : GReg) (s : State) : Except Stop (State × Flow) := do
  let d ← portCheck s m.toNat false
  if !declCtrl d then cfgReject 3 else portSend s m.toNat (injectTok (s.me.gr a)) false

theorem exec_inject : exec (.inject p m a) s = .next (runReeve 4 p (injectOp m a) s) := rfl

theorem injectOp_bad {e : Stop} (h : portCheck s m.toNat false = .error e) : injectOp m a s = .error e := by
  simp only [injectOp, h, bind, Except.bind]

theorem injectOp_eq {w : Nat} (h : portCheck s m.toNat false = .ok w) : injectOp m a s =
    if declCtrl w = true then portSend s m.toNat (injectTok (s.me.gr a)) false else cfgReject 3 := by
  simp only [injectOp, h, bind, Except.bind]
  cases declCtrl w <;> rfl

/-- The operation of a MARKP. -/
def markpOp (m : BitVec 4) (a : GReg) (s : State) : Except Stop (State × Flow) := do
  let _ ← portCheck s m.toNat false
  let v := (s.me.gr a).toNat
  let send (k : TokKind) (last : Bool) := portSend s m.toNat (fun tag => { kind := k, tag := tag }) last
  match natField v 0 3 with
  | 2 => send (.eod (natField v 3 2)) false
  | 3 => send .eor false
  | 4 => send .eos true
  | _ => cfgReject 1

theorem exec_markp : exec (.markp p m a) s = .next (runReeve 4 p (markpOp m a) s) := rfl

theorem markpOp_bad {e : Stop} (h : portCheck s m.toNat false = .error e) : markpOp m a s = .error e := by
  simp only [markpOp, h, bind, Except.bind]

section Kinds
variable {w : Nat} (h : portCheck s m.toNat false = .ok w)
include h

theorem markpOp_none (hv : (s.me.gr a).toNat % 8 = 0) : markpOp m a s = cfgReject 1 := by
  simp [markpOp, h, bind, Except.bind, natField, hv]

theorem markpOp_eod (hv : (s.me.gr a).toNat % 8 = 2) : markpOp m a s =
    portSend s m.toNat (fun tag => { kind := .eod ((s.me.gr a).toNat / 8 % 4), tag := tag }) false := by
  simp [markpOp, h, bind, Except.bind, natField, hv, Nat.shiftRight_eq_div_pow]

theorem markpOp_eor (hv : (s.me.gr a).toNat % 8 = 3) : markpOp m a s =
    portSend s m.toNat (fun tag => { kind := .eor, tag := tag }) false := by
  simp [markpOp, h, bind, Except.bind, natField, hv]

theorem markpOp_eos (hv : (s.me.gr a).toNat % 8 = 4) : markpOp m a s =
    portSend s m.toNat (fun tag => { kind := .eos, tag := tag }) true := by
  simp [markpOp, h, bind, Except.bind, natField, hv]

end Kinds

/-! ### DRAIN and PSTAT (R268, R269) -/

/-- The operation of a DRAIN. -/
def drainOp (d : GReg) (m : BitVec 4) (s : State) : Except Stop (State × Flow) := do
  let _ ← portCheck s m.toNat true
  let q := s.sport s.cur m.toNat
  if q.cur.isSome || !q.pending.isEmpty then await .input
  else
    match q.buf with
    | [] => await .input
    | t :: rest =>
      if t.poison then .error (.trap (poisonFault s s.me.ctx))
      else
        let v : W64 := match t.kind with
          | .data => field t.data 0 64
          | .control => field t.data 0 64
          | _ => 0
        let s := s.setSport s.cur m.toNat { q with buf := rest, lastp := t.poison, lastk := t.kind.code }
        .ok (s.updMe (·.setG d v), .next)

theorem exec_drain : exec (.drain p d m) s = .next (runReeve 4 p (drainOp d m) s) := rfl

theorem drainOp_bad {e : Stop} (h : portCheck s m.toNat true = .error e) : drainOp d m s = .error e := by
  simp only [drainOp, h, bind, Except.bind]

theorem drainOp_empty {w : Nat} (h : portCheck s m.toNat true = .ok w) (hb : (s.sport s.cur m.toNat).buf = []) :
    drainOp d m s = await .input := by
  simp [drainOp, h, bind, Except.bind, hb]

section Head
variable {w : Nat} {t : Token} {rest : List Token} (h : portCheck s m.toNat true = .ok w)
  (hi : (s.sport s.cur m.toNat).cur = none ∧ (s.sport s.cur m.toNat).pending = [])
  (hb : (s.sport s.cur m.toNat).buf = t :: rest)
include h hi hb

theorem drainOp_poison (ht : t.poison = true) : drainOp d m s = .error (.trap (poisonFault s s.me.ctx)) := by
  simp [drainOp, h, bind, Except.bind, hb, hi, ht]

theorem drainOp_takes (ht : t.poison = false) :
    let u := s.setSport s.cur m.toNat
      { s.sport s.cur m.toNat with buf := rest, lastp := false, lastk := t.kind.code }
    drainOp d m s = .ok (u.setReeve u.cur
      (s.me.setG d (if t.kind = .data ∨ t.kind = .control then t.data.truncate 64 else 0)), .next) := by
  have hv : (match t.kind with
      | .data => (field t.data 0 64 : W64)
      | .control => field t.data 0 64
      | _ => 0) = if t.kind = .data ∨ t.kind = .control then t.data.truncate 64 else 0 := by
    have hf : (field t.data 0 64 : W64) = t.data.truncate 64 := (BitVec.setWidth_eq_extractLsb' (by decide)).symm
    cases hk : t.kind <;> simp [hf]
  simp only [drainOp, h, bind, Except.bind, hb, hi, ht, ← hv] <;> rfl

end Head

theorem Code.num_lt (c : Code) : c.num < 256 := by
  cases c <;> decide

/-- ECAUSE holds the code in its lowest byte (R101). -/
theorem causeOf_code (f : Trap) : (causeOf f).toNat % 256 = f.code.num := by
  have hsel := f.sel.isLt
  have hnum := f.code.num_lt
  rw [causeOf_eq, BitVec.toNat_or, show (256 : Nat) = 2 ^ 8 from rfl, Nat.or_mod_two_pow, BitVec.toNat_ofNat,
    BitVec.toNat_ofNat]
  have hlow : (f.code.num + f.sub * 2 ^ 8) % 2 ^ 64 % 2 ^ 8 = f.code.num := by omega
  have hhigh : f.sel.toNat * 65536 % 2 ^ 64 % 2 ^ 8 = 0 := by omega
  rw [hlow, hhigh, Nat.or_zero]

theorem LaunchesOnly.ports {s t : State} (h : LaunchesOnly s t) : t.ports = s.ports := by
  obtain ⟨_, _, rfl⟩ := h
  rfl

theorem poisonFault_of {x : Ctx} {f : Trap} {c : Nat} (hx : mget s.ctxs c = some x) (hf : x.poison = some f) :
    poisonFault s c = f := by
  simp [poisonFault, State.ctxOf, hx, hf]

/-- PSTAT's word, its fields set out (R269). -/
theorem pstatWord_eq (w : Nat) (q : SPort) : pstatWord w q = BitVec.ofNat 64 (q.xfer.toNat * 2 ^ 32 +
    q.round % 4096 * 2 ^ 16 + (if declUsed w then 2 ^ 15 else 0) + (if declCtrl w then 2 ^ 14 else 0) +
    (if q.lastp then 2 ^ 13 else 0) + q.lastk * 2 ^ 10 + (if declDir w then 2 ^ 9 else 0) +
    (if q.cur.isSome then 2 ^ 8 else 0) + q.pending.length * 2 ^ 5 + q.buf.length) := by
  have hbit (i : Nat) : natField w i 1 <<< i = if w.testBit i then 2 ^ i else 0 := by
    rw [natField, Nat.testBit_eq_decide_div_mod_eq, Nat.shiftRight_eq_div_pow, Nat.shiftLeft_eq]
    rcases Nat.mod_two_eq_zero_or_one (w / 2 ^ i) with h | h <;> simp [h]
  simp only [pstatWord, hbit, declUsed, declCtrl, declDir, Nat.shiftLeft_eq, Nat.one_mul]
  rfl

end Ports

/-- Settles O22: the barriers are `sbarPut_puts`; every port instruction is the equation of its operation, at the checks
that its port passes. -/
theorem barriersOfStreamsAndPorts : Obligations.BarriersOfStreamsAndPorts := by
  constructor
  · intro s p a hg mask puts
    refine ⟨sbarPut_puts hg rfl, sbarPut_puts hg rfl, sbarPut_puts hg rfl, fun hn => ?_, fun hm => ?_,
      fun xid x b y hb hle hxm hy hlt hcls hym hs => ?_⟩
    all_goals have hf : (field (s.me.gr a) 0 16 : BitVec 16) = mask := (BitVec.setWidth_eq_extractLsb' (by decide)).symm
    · refine does_of_next_self (len := 4) rfl hg ?_
      dsimp only
      rw [hf, if_neg (by rw [any_member_iff]; rintro ⟨x, hx, hm⟩; simp [hn x hx] at hm)]
    · refine congrArg _ (runReeve_wait hg ?_)
      dsimp only
      rw [hf, if_pos (any_member_iff.mpr hm)]
      rfl
    · exact List.any_eq_true.mpr ⟨b, hb, by
        simp only [Bool.and_eq_true, decide_eq_true_eq, List.any_eq_true]
        exact ⟨⟨hle, hxm⟩, y, hy, by simp [hlt, hcls, hym, hs]⟩⟩
  · intro s p n d a hg hs q w placed v tag sent idle free sends rejects
    have reject {i : Instr} {f : State → Except Stop (State × Flow)} {sub : Nat} (he : exec i s = .next (runReeve 4 p f s))
        (h : f s = cfgReject sub) : rejects i sub := fun hu => takesTrap_of he hg h hu rfl
    have wait {i : Instr} {f : State → Except Stop (State × Flow)} {x : Wait} (he : exec i s = .next (runReeve 4 p f s))
        (h : f s = await x) : Waits i s x := he.trans (congrArg _ (runReeve_wait hg h))
    have htag : tag = handTag s.me q := by
      simp only [tag, handTag, mkTag, Nat.shiftLeft_eq]
    have hchk (dir : Bool) (hp : placed) (hu : declUsed w = true) (hd : declDir w = dir) :
        portCheck s n.toNat dir = .ok w := portCheck_ok hp hu hd
    have hbad (dir : Bool) (h : ¬ placed ∨ declUsed w = false ∨ declDir w ≠ dir) : portCheck s n.toNat dir = cfgReject 10 :=
      portCheck_bad (h.imp_left eq_false_of_ne_true)
    have hsends {i : Instr} {f : State → Except Stop (State × Flow)} {q' q'' : SPort}
        (hi : exec i s = .next (runReeve 4 p f s)) (h : f s = .ok (s.setSport s.cur n.toNat q', .next)) (e : q' = q'') :
        sends i q'' := does_of_next_self hi hg (e ▸ h)
    refine ⟨?_, fun hp hu hd he hf => ?_, fun hp hu hd he hc hv => ?_, fun hp hu hd hc => ?_, fun hp hu hd hv => ?_,
      fun hp hu hd hi t rest hb => ⟨fun ht => ?_, fun ht hv x f hx hpo => ?_⟩, fun hp hu hd hb => ?_, fun h => ?_,
      fun hp hu hd => ?_, fun hp hu hd => ?_, fun hp => ?_, fun hp => ?_⟩
    · intro x hx hu hd he hf held own
      have hk := hchk false (by simp [placed, hx]) hu hd
      have hfree (t : W64 → Token) (last : Bool) := portSend_free (t := t) (last := last) hs he hf hx
      refine ⟨fun hh ho => ?_, fun hh => ?_, fun hh ho => ?_⟩
      · have hsend (t : W64 → Token) (last : Bool) := (hfree t last).trans
          ((if_neg hh).trans ((if_neg (not_not.mpr ho)).trans (by rw [← htag])))
        exact ⟨fun hc => hsends exec_inject ((injectOp_eq hk).trans ((if_pos hc).trans (hsend ..))) 
            ((push_data rfl he).trans (by rw [injectTok_eq])),
          fun hv => hsends exec_markp ((markpOp_eod hk hv).trans (hsend ..)) (push_eod rfl he),
          fun hv => hsends exec_markp ((markpOp_eor hk hv).trans (hsend ..)) (push_eor rfl he),
          fun hv => hsends exec_markp ((markpOp_eos hk hv).trans (hsend ..)) (push_eos rfl)⟩
      · have hsend (t : W64 → Token) (last : Bool) := (hfree t last).trans (if_pos hh)
        exact ⟨fun hc => wait exec_inject ((injectOp_eq hk).trans ((if_pos hc).trans (hsend ..))),
          fun hv => wait exec_markp ((markpOp_eor hk hv).trans (hsend ..))⟩
      · have hsend (t : W64 → Token) (last : Bool) := (hfree t last).trans ((if_neg hh).trans (if_pos ho))
        have hdrop {i : Instr} {f : State → Except Stop (State × Flow)} (hi : exec i s = .next (runReeve 4 p f s))
            (h : f s = .ok (dropForeign s x.1, .next)) : Does i s (dropForeign s x.1) s.me (s.me.pc + 4) :=
          dropForeign_me s x.1 ▸ does_of_next_self hi hg h
        exact ⟨fun hc => hdrop exec_inject ((injectOp_eq hk).trans ((if_pos hc).trans (hsend ..))),
          fun hv => hdrop exec_markp ((markpOp_eor hk hv).trans (hsend ..))⟩
    · have hk := hchk false hp hu hd
      exact ⟨fun hc => wait exec_inject ((injectOp_eq hk).trans ((if_pos hc).trans (portSend_full he hf))),
        fun hv => wait exec_markp ((markpOp_eor hk hv).trans (portSend_full he hf))⟩
    · exact takesTrap_of exec_inject hg
        ((injectOp_eq (hchk false hp hu hd)).trans ((if_pos hc).trans (portSend_eos he))) hv rfl
    · exact reject exec_inject ((injectOp_eq (hchk false hp hu hd)).trans (if_neg (ne_true_of_eq_false hc)))
    · exact reject exec_markp (markpOp_none (hchk false hp hu hd) hv)
    · exact does_of_next exec_drain hg (drainOp_takes (hchk true hp hu hd) hi hb ht) (by rw [Reeve.setG_vf]; rfl)
    · have hop := drainOp_poison (d := d) (hchk true hp hu hd) hi hb ht
      rw [poisonFault_of hx hpo] at hop
      refine ⟨fun hr => takesTrap_of exec_drain hg hop hv hr, _, exec_drain.trans (congrArg _ (runReeve_trap hg hop)), ?_⟩
      have hme := trapEntry_user_me (s := release s (.reeve s.cur)) f hv
      obtain ⟨t, ht, e⟩ := trapEntry_user (release s (.reeve s.cur)) f hv
      refine ⟨by rw [hme]; exact causeOf_code f, by rw [hme]; simp only [Reeve.enterTrap, State.me_release]; split <;> simp,
        by rw [hme]; rfl, by rw [hme]; rfl, by rw [e, State.setReeve_ports, ht.ports]; rfl⟩
    · exact wait exec_drain (drainOp_empty (hchk true hp hu hd) hb)
    · exact ⟨reject exec_inject (injectOp_bad (hbad false (h.imp_right .inl))),
        reject exec_markp (markpOp_bad (hbad false (h.imp_right .inl))),
        reject exec_drain (drainOp_bad (hbad true (h.imp_right .inl)))⟩
    · have hb := hbad false (.inr (.inr (by simp [hd])))
      exact ⟨reject exec_inject (injectOp_bad hb), reject exec_markp (markpOp_bad hb)⟩
    · exact reject exec_drain (drainOp_bad (hbad true (.inr (.inr (by simp [hd])))))
    · have h := writesG_of_toG (i := .pstat p d n) (s := s) (d := d) rfl hg
      rwa [if_pos (by rw [← Option.not_isSome, portCell, eq_false_of_ne_true hp]; rfl)] at h
    · have h := writesG_of_toG (i := .pstat p d n) (s := s) (d := d) rfl hg
      rwa [if_neg (by rw [← Option.not_isSome, portCell, show (cellOfHam s s.cur 15).isSome = true from hp]; simp),
        pstatWord_eq] at h

end Sys2Proof.Machine
end

section
/-! SUPPORT. O23: the graph instructions on a state that keeps two instances under one number (R270). -/

namespace Sys2Proof.Machine

/-- A graph without pages, of handle 0. -/
def emptyGraph : Graph :=
  { handle := 0, gid := 0, raceok := false, racing := false, nentry := 0, nresult := 0, pages := [], routes := [] }

/-- An ungated graph of launch 0, with handle 0. -/
def ungatedGraph : Inst := { launch := 0, graph := emptyGraph, gated := false }

/-- A gated graph of launch 1. -/
def gatedGraph : Inst := { launch := 1, graph := emptyGraph }

/-- A state whose table of instances holds two graphs under the number 0: the first is gated and belongs to launch 1, the
second is ungated and belongs to launch 0, which is the launch of the acting reeve. -/
def twoUnderOneNumber : State := { insts := [(0, gatedGraph), (0, ungatedGraph)] }

theorem twoUnderOneNumber_still : Still twoUnderOneNumber := ⟨⟨rfl, rfl⟩, rfl⟩

theorem twoUnderOneNumber_handle :
    handleInst twoUnderOneNumber twoUnderOneNumber.me.launch (twoUnderOneNumber.me.gr 0).toNat = some (0, ungatedGraph) := by
  rfl

theorem twoUnderOneNumber_sharing : sharing twoUnderOneNumber ungatedGraph = [(0, ungatedGraph)] := by
  rfl

/-- Nothing of the reeve's graph is gated, so a CFGSTART leaves the state as it is. -/
theorem twoUnderOneNumber_start : startGraph twoUnderOneNumber 0 = .ok (twoUnderOneNumber, .next) := by
  have hu : ungate twoUnderOneNumber ungatedGraph = .ok twoUnderOneNumber := by
    unfold ungate
    rw [twoUnderOneNumber_sharing]
    rfl
  simp only [startGraph, graphArg, twoUnderOneNumber_handle, hu, bind, Except.bind, beq_self_eq_true, if_true]

theorem execCfgstart_next {s t : State} {p : Guard} {a : GReg} (hg : s.me.guard p = true)
    (h : startGraph s a = .ok (t, .next)) :
    exec (.cfgstart p a) s = .next (retire t (s.me.pc + BitVec.ofNat 64 4)) :=
  congrArg Host.Outcome.next (runReeve_next (len := 4) (f := fun s => startGraph s a) hg h)

/-- Refutes O23: the statement allows states that hold two instances under one number.  In `twoUnderOneNumber` a CFGSTART of
an ungated graph changes nothing, and the number of that graph still names the other one, which is gated. -/
theorem not_graphInstructions : ¬ Obligations.GraphInstructions := by
  intro ⟨_, h, _⟩
  obtain ⟨-, -, -, -, ⟨-, -, hstart⟩, -⟩ := (h twoUnderOneNumber always 0 0 0 (guard_always _)).2 _ twoUnderOneNumber_handle
  obtain ⟨t, ht, -, -, hall⟩ := hstart rfl twoUnderOneNumber_still
  obtain ⟨z, hz, hg⟩ := hall (0, ungatedGraph) (by rw [twoUnderOneNumber_sharing]; exact List.mem_singleton_self _)
  have he := execCfgstart_next (guard_always _) twoUnderOneNumber_start
  have hi : t.inst 0 = some gatedGraph := by
    rw [← Host.Outcome.next.inj (he.symm.trans ht)]
    exact congrArg (mget · 0) (retire_insts ..)
  rw [hi] at hz
  obtain rfl := Option.some.inj hz
  exact absurd hg (by decide)

end Sys2Proof.Machine
end

section
/-! SUPPORT. O32: a token off an actor's port, where the port's tail stands at its head (R110, R309). -/

namespace Sys2Proof.Machine

/-- The oldest token of the port. -/
def oldestToken : Token := { kind := .data, mask := 1 }

/-- A port buffer that holds one token, and whose tail stands at the slot of that token. -/
def tailAtHead : APort := { fill := 1, slots := [(0, oldestToken)] }

/-- A source slot that is done and has not sent EOS on its output port 0. -/
def doneSource : Slot := { hdr := 0x1000000, done := true, ports := [(4, tailAtHead)] }

/-- The circuit of that port. -/
def sourceCirc : Circ := { sp := 0, sc := 0, sport := 4, dp := 0, dc := 1, dport := 0, ctrl := false }

/-- The cell of the slot. -/
def sourceCell : Cell := { kind := .actor, slots := [(0, doneSource)] }

/-- A running graph of one actor cell. -/
def sourceGraph : Inst :=
  { launch := 0, graph := emptyGraph, gated := false, cells := [(0, sourceCell)], circs := [sourceCirc] }

/-- Its state. -/
def sourceState : State :=
  { insts := [(0, sourceGraph)], launches := [(0, { ctx := 0, vf := 0, lid := 0, st := .running })] }

/-- The kinds of the tokens in the first FIFO of a graph's first circuit. -/
def firstFifo (s : State) : List TokKind :=
  match s.inst 0 with
  | some y => (y.circs[0]?.map fun c => (c.link 0).fifo.map (·.kind)).getD []
  | none => []

theorem sourceState_out : firstFifo (linkOut sourceState 0 0) = [.eos] := by
  decide

/-- Refutes O32: the statement allows port buffers whose tail stands at a filled slot.  The EOS that a source owes enters
the buffer of `doneSource` before a token leaves it, and replaces the token that the statement has cross the hop. -/
theorem not_linksAndCredits : ¬ Obligations.LinksAndCredits := by
  intro h
  obtain ⟨-, -, -, hactor, -⟩ := h sourceState 0 0 sourceGraph sourceCirc rfl rfl
  obtain ⟨-, hout⟩ := hactor (by decide) (by decide) rfl rfl oldestToken rfl (by decide)
  obtain ⟨u, hu, -, y, hy, hc⟩ := hout (by decide)
  have he : exec (.linkTokenTransfer 0 0 0) sourceState = .next (linkOut sourceState 0 0) := rfl
  have hk : firstFifo u = [.data] := by
    unfold firstFifo
    rw [hy]
    dsimp only
    rw [hc]
    rfl
  rw [← Host.Outcome.next.inj (he.symm.trans hu), sourceState_out] at hk
  exact absurd hk (by decide)

end Sys2Proof.Machine
end

section
/-! SUPPORT. O36: MEMORY nodes, what they take, perform and give (R142, R159, R170, R176, R322). -/

namespace Sys2Proof.Machine

/-! ### A step of a node -/

section Steps
variable {s : State} {n : NodeRef}

/-- The rest of a step, once what stands at the heads has been taken: the accesses of the queue, then the results. -/
def memRuns (n : NodeRef) (s : State) : State :=
  let s := memPass n ((s.cellAt n).memSt n.sub).queue [] s
  let c := s.cellAt n
  let s := if (c.memSt n.sub).toks.isEmpty then s else updMem s n fun x => memForm c n.sub x x.toks
  if ((s.cellAt n).memSt n.sub).queue.isEmpty then release s (.node n) else s

theorem memStep_eq {mode : Nat} (ho : nodeOk s n .memory = true) (hv : memValid (s.cellAt n) n.sub = true)
    (hm : memMode (s.cellAt n) n.sub = mode) : memStep mode n s = memRuns n (memEnter n s) := by
  unfold memStep
  dsimp only
  rw [if_neg (by simp [ho, hv, hm])]
  rfl

/-- The instruction of each mode is a step of that mode. -/
theorem exec_memStep {i : Instr} {mode : Nat} (h : (i, mode) ∈ ([(.memoryLoad n, 0), (.memoryStore n, 1),
    (.memoryGather n, 2), (.memoryScatter n, 3), (.memoryUpdate n, 4)] : List (Instr × Nat))) :
    exec i s = .next (memStep mode n s) := by
  simp only [List.mem_cons, Prod.mk.injEq, List.not_mem_nil, or_false] at h
  rcases h with ⟨rfl, rfl⟩ | ⟨rfl, rfl⟩ | ⟨rfl, rfl⟩ | ⟨rfl, rfl⟩ | ⟨rfl, rfl⟩ <;> rfl

/-- The fault that a node raises for what it takes: a poisoned commit token, or a poisoned write of an iteration that
commits (R45, R47). -/
def memRaises (c : Cell) (k : Nat) (m : MemArgs) : Bool :=
  memWrites (memMode c k) && (m.cpoison || (m.go && m.poison))

/-- Whether a node has room for a token and its accesses (R176). -/
def memRoom (x : MemSt) (accs : List MemAcc) : Prop :=
  x.queue.length + accs.length ≤ 16 ∧ x.out.length + 2 * x.toks.length < 15 ∧ x.ord.length + x.toks.length < 16

theorem memRoom_iff {x : MemSt} {accs : List MemAcc} : memRoom x accs ↔
    ¬ (decide (16 < x.queue.length + accs.length) || decide (15 ≤ x.out.length + 2 * x.toks.length) ||
      decide (16 ≤ x.ord.length + x.toks.length)) = true := by
  simp only [memRoom, Bool.or_eq_true, decide_eq_true_eq]
  omega

/-- The accesses that a token brings: none where it raises, or where its iteration does not commit. -/
def memBrings (c : Cell) (k id : Nat) (m : MemArgs) : List MemAcc :=
  if memRaises c k m || !m.go then [] else memAccs c k id m

/-- A token and its accesses enter the node. -/
def memEntered (n : NodeRef) (id : Nat) (s : State) (m : MemArgs) (accs : List MemAcc) : State :=
  updMem (memTake { s with nextId := id + 1 } n) n fun y =>
    { y with queue := y.queue ++ accs, toks := y.toks ++ [{ tok := id, addr := m.a }] }

theorem memEnter_wait (h : memHeads (s.cellAt n) n.sub = .wait) : memEnter n s = s := by
  unfold memEnter
  dsimp only
  rw [h]

theorem memEnter_bad (h : memHeads (s.cellAt n) n.sub = .bad) : memEnter n s = haltNode s n rateFault := by
  unfold memEnter
  dsimp only
  rw [h]

variable {m : MemArgs} (h : memHeads (s.cellAt n) n.sub = .ready m)
include h

theorem memEnter_full (hr : ¬ memRoom ((s.cellAt n).memSt n.sub) (memBrings (s.cellAt n) n.sub s.nextId m)) :
    memEnter n s = s := by
  unfold memEnter
  dsimp only
  rw [h]
  exact if_pos (not_not.mp (mt memRoom_iff.mpr hr))

theorem memEnter_room (hr : memRoom ((s.cellAt n).memSt n.sub) (memBrings (s.cellAt n) n.sub s.nextId m)) :
    memEnter n s = memEntered n s.nextId
      (if memRaises (s.cellAt n) n.sub m then nodeFault s n (poisonFault s (s.instCtx n.inst).1) else s) m
      (memBrings (s.cellAt n) n.sub s.nextId m) := by
  unfold memEnter
  dsimp only
  rw [h]
  refine (if_neg (memRoom_iff.mp hr)).trans ?_
  unfold memEntered memRaises
  split <;> rfl

end Steps

/-! ### The address-compare queue (R159, R176) -/

section Queue
variable {s : State} {n : NodeRef} {a : MemAcc} {l older : List MemAcc} {t : MemTok}
  (ht : ((s.cellAt n).memSt n.sub).toks.find? (fun y => y.tok == a.tok) = some t)
include ht

theorem memPass_behind (h : older.any (memMeets (s.cellAt n) n.sub a) = true) :
    memPass n (a :: l) older s = memPass n l (older ++ [a]) s := by
  rw [memPass, ht]
  exact if_pos h

theorem memPass_first (h : older.any (memMeets (s.cellAt n) n.sub a) = false) :
    memPass n (a :: l) older s = match memPerform s n t a with
      | .ok s => memPass n l older (updMem s n fun x => { x with queue := x.queue.filter (· != a) })
      | .error (.wait _ rq) => memPass n l (older ++ [a]) (register s rq)
      | .error _ => memPass n l (older ++ [a]) s := by
  rw [memPass, ht]
  exact if_neg (ne_true_of_eq_false h)

end Queue

/-! ### One element (R142, R322) -/

section Element
variable {s : State} {n : NodeRef} {t : MemTok} {a : MemAcc} {l : Loc}

theorem memLoadEl_ok {o z : Nat} {v : List Byte × State} (hl : memLoc s n o z clLoad rR = .ok l)
    (hp : ∀ p q r, l ≠ .peer p q r) (hv : loadLoc s (s.nodeAcx n) l z = .ok v) :
    memLoadEl s n o z = .ok ((leNat v.1, false), performedBy v.2 (.node n)) := by
  obtain ⟨bs, u⟩ := v
  unfold memLoadEl
  cases l with
  | peer p q r => exact absurd rfl (hp p q r)
  | _ => simp only [bind, Except.bind, hl, hv]

theorem memStoreEl_ok {o z : Nat} {on : List Bool} {bs : List Byte} {u : State}
    (hl : memLoc s n o z clStore rW = .ok l) (hp : ∀ p q r, l ≠ .peer p q r)
    (hw : writeMasked s (s.nodeAcx n) l on bs = .ok u) :
    memStoreEl s n o z on bs = .ok (memDirty (performedBy u (.node n)) n) := by
  unfold memStoreEl
  simp only [bind, Except.bind, hl, hw]
  cases l with
  | peer p q r => exact absurd rfl (hp p q r)
  | _ => rfl

theorem memStoreEl_faults {o z : Nat} {on : List Bool} {bs : List Byte} {f : Trap}
    (hl : memLoc s n o z clStore rW = .error (.trap f)) :
    memStoreEl s n o z on bs = .ok (nodeFault (recordPoison s (s.instCtx n.inst).1 f) n f) := by
  unfold memStoreEl
  simp only [bind, Except.bind, hl]
  rfl

theorem memPerform_load (hm : memMode (s.cellAt n) n.sub = 0) {v : List Byte × State}
    (hl : memLoc s n a.off (2 ^ memEsize (s.cellAt n) n.sub) clLoad rR = .ok l) (hp : ∀ p q r, l ≠ .peer p q r)
    (hv : loadLoc s (s.nodeAcx n) l (2 ^ memEsize (s.cellAt n) n.sub) = .ok v) :
    memPerform s n t a = .ok (updMem (performedBy v.2 (.node n)) n fun y => { y with toks := y.toks.map fun g =>
      if g.tok = a.tok then { g with vals := mset g.vals a.lane (leNat v.1) } else g }) := by
  unfold memPerform
  dsimp only
  rw [hm]
  simp only [bind, Except.bind, memLoadEl_ok hl hp hv]
  rfl

theorem memPerform_store (hm : memMode (s.cellAt n) n.sub = 1) :
    memPerform s n t a = memStoreEl s n a.off (2 ^ memEsize (s.cellAt n) n.sub) a.on a.bytes := by
  unfold memPerform
  dsimp only
  rw [hm] <;> rfl

end Element

/-! ### The accesses and the results of a token -/

section Token
variable {c : Cell} {k tok : Nat} {m : MemArgs}

theorem memAccs_load (hm : memMode c k = 0) : memAccs c k tok m = if m.a.mask.getLsbD 0 then
    [{ tok := tok, lane := 0, off := m.a.scalar.toNat % 2 ^ 40, bytes := [], on := [] }] else [] := by
  unfold memAccs
  dsimp only
  rw [hm]
  rfl

theorem memAccs_store_masked (hm : memMode c k = 1) (ha : m.a.mask.getLsbD 0 = false) : memAccs c k tok m = [] := by
  unfold memAccs
  dsimp only
  rw [hm]
  exact if_pos (by rw [ha]; rfl)

theorem memAccs_store (hm : memMode c k = 1) (ha : m.a.mask.getLsbD 0 = true) (hd : m.d.mask.getLsbD 0 = true)
    (he : memEsize c k < 6) : memAccs c k tok m =
      [{ tok := tok, lane := 0, off := m.a.scalar.toNat % 2 ^ 40, bytes := leBytes (2 ^ memEsize c k) m.d.scalar.toNat
         on := List.replicate (2 ^ memEsize c k) true }] := by
  unfold memAccs
  dsimp only
  rw [hm]
  exact (if_neg (by rw [ha]; decide)).trans ((if_neg (by omega)).trans (if_pos hd))

theorem memResults_load {t : MemTok} {v : Nat} (hm : memMode c k = 0) (hv : t.vals = [(0, v)]) (hb : t.bad = []) :
    memResults c k t = [{
      kind := .data, data := BitVec.ofNat 512 v, tag := t.addr.tag, poison := t.addr.poison
      mask := if t.addr.mask.getLsbD 0 then
        (if memEsize c k = 6 then lowMask (512 / memLane (c.memSt k).desc (memTid c k)) else 1) else 0 }] := by
  unfold memResults
  dsimp only
  rw [hm]
  simp [hv, hb, mgetD, mget]

end Token

/-! ### Results and ordering tokens leave (R159) -/

section Leave
variable {s : State} {n : NodeRef} {t : Token} {rest : List Token} (ho : nodeOk s n .memory = true)
include ho

theorem execMemoryReply_sends (hx : ((s.cellAt n).memSt n.sub).out = t :: rest)
    (hc : canSend s n (memBase n.sub + 4) 1 = true) : exec (.memoryReply n) s = .next
      (markActive (updMem (send s n (memBase n.sub + 4) t) n fun y => { y with out := rest }) n.inst) := by
  show execMemoryReply n s = _
  unfold execMemoryReply
  rw [if_neg (by simp [ho]), hx]
  exact congrArg Host.Outcome.next (if_pos hc)

omit ho in
theorem execMemoryOrderOut_unsettled (h : memSettled s n = false) : exec (.memoryOrderOut n) s = .next s := by
  show execMemoryOrderOut n s = _
  unfold execMemoryOrderOut
  rw [if_pos (by simp [h])]

theorem execMemoryOrderOut_sends (h : memSettled s n = true) (hx : ((s.cellAt n).memSt n.sub).ord = t :: rest)
    (hc : canSend s n (memBase n.sub + 5) 1 = true) : exec (.memoryOrderOut n) s = .next
      (markActive (updMem (send s n (memBase n.sub + 5) t) n fun y => { y with ord := rest }) n.inst) := by
  show execMemoryOrderOut n s = _
  unfold execMemoryOrderOut
  rw [if_neg (by simp [ho, h]), hx]
  exact congrArg Host.Outcome.next (if_pos hc)

end Leave

theorem memWrites_iff {mode : Nat} : memWrites mode = true ↔ mode = 1 ∨ mode = 3 ∨ mode = 4 := by
  simp [memWrites, or_assoc]

/-- Settles O36: a step is `memEnter` and `memRuns`; each clause is one of the equations above. -/
theorem memoryNodes : Obligations.MemoryNodes := by
  intro s n c k x goes frees forms runs enters
  have hruns (u : State) : memRuns n u = runs u := by
    simp only [memRuns, List.isEmpty_iff]
    rfl
  refine ⟨fun i mode hi ho hv hm => ?_, fun a l older t ht => ⟨memPass_behind ht, fun ho => ⟨fun u hu => ?_, fun e rq he => ?_⟩⟩,
    ?_, fun ho t rest hx hc => execMemoryReply_sends ho hx hc,
    fun ho t rest hx hc => ⟨execMemoryOrderOut_unsettled, fun h => execMemoryOrderOut_sends ho h hx hc⟩⟩
  · have hstep : exec i s = .next (runs (memEnter n s)) := by
      rw [exec_memStep hi, memStep_eq ho hv hm, hruns]
    refine ⟨fun h => hstep.trans (by rw [memEnter_wait h]), fun h => hstep.trans (by rw [memEnter_bad h]; rfl), ?_⟩
    intro m h writes raises room accs
    have hr : memRaises c k m = true ↔ raises := by
      simp only [memRaises, Bool.and_eq_true, Bool.or_eq_true, memWrites_iff, raises, writes, ← hm]
    refine ⟨fun hra hro => ?_, fun hra hg hro => ?_, fun hra hg hro => ?_, fun hra hg hro => ?_⟩
    · have hb : memBrings c k s.nextId m = [] := if_pos (by rw [hr.mpr hra]; rfl)
      exact hstep.trans (by rw [memEnter_room h (hb ▸ hro), if_pos (hr.mpr hra), hb]; rfl)
    · have hb : memBrings c k s.nextId m = [] := if_pos (by rw [hg]; simp)
      exact hstep.trans (by rw [memEnter_room h (hb ▸ hro), if_neg (mt hr.mp hra), hb]; rfl)
    all_goals have hb : memBrings c k s.nextId m = accs := if_neg (by simp [mt hr.mp hra, hg])
    · exact hstep.trans (by rw [memEnter_room h (hb ▸ hro), if_neg (mt hr.mp hra), hb]; rfl)
    · exact hstep.trans (by rw [memEnter_full h (hb ▸ hro)])
  · rw [memPass_first ht ho, hu]
  · rw [memPass_first ht ho, he]
  · intro m t a e z o tok
    refine ⟨fun hm => ⟨fun ha => ?_, fun ha => ?_, fun v hv hb => memResults_load hm hv hb,
        fun l hl hp v hv => memPerform_load hm hl hp hv⟩,
      fun hm => ⟨memAccs_store hm, memAccs_store_masked hm, fun l hl hp u hu => ?_, fun f hf => ?_⟩⟩
    · rw [memAccs_load hm, if_pos ha]
    · rw [memAccs_load hm, if_neg (ne_true_of_eq_false ha)]
    · rw [memPerform_store hm, memStoreEl_ok hl hp hu]
    · rw [memPerform_store hm, memStoreEl_faults hf]

end Sys2Proof.Machine
end

section
/-! SUPPORT. O35: COUNT, the head of a loop, and the passing of markers (R44 to R46, R315, R316, R326, R380). -/

namespace Sys2Proof.Machine

/-! ### Kinds of tokens -/

theorem Token.isPmk_of_data {t : Token} (h : t.isMarker = false) : t.isPmk = false := by
  unfold Token.isMarker at h
  unfold Token.isPmk
  cases hk : t.kind <;> simp [hk] at h ⊢

theorem Token.kind_ne_of_data {t : Token} (h : t.isMarker = false) : t.kind ≠ .eos ∧ t.kind ≠ .eor := by
  unfold Token.isMarker at h
  constructor <;> intro hk <;> simp [hk] at h

/-! ### COUNT in INDEX mode (R25, R315) -/

section Index
variable {s : State} {n : NodeRef} (ho : nodeOk s n .count = true) (hm : (s.cellAt n).fld 1 0 2 = 0)
include ho hm

theorem execCountIndex_takes {t : Token} (hb : (s.cellAt n).countSt.busy = false) (hf : (s.cellAt n).front 0 = some t)
    (ht : t.isMarker = false) (hp : t.poison = false) : exec (.countIndex n) s = .next
      (setCount (popIns s n [0]) n { (s.cellAt n).countSt with
        n := t.scalar.toNat % 2 ^ 32, next := 0, busy := true, tag := t.tag, poison := false
        marks := (s.cellAt n).fld 1 8 1 + 2 * (s.cellAt n).fld 1 11 1 }) := by
  show execCountIndex n s = _
  unfold execCountIndex
  dsimp only
  rw [if_neg (by simp [ho, hm]), if_pos (by simp [hb]), hf]
  dsimp only
  rw [if_neg (by simp [ht]), if_neg (by simp [hp])]
  rfl

/-- Whether a COUNT would open a round that lies too far past an open one (R25). -/
def countFar (s : State) (n : NodeRef) : Prop :=
  (s.cellAt n).marksEor = true ∧ (s.cellAt n).countSt.next = 0 ∧
    (s.cellAt n).countSt.marks = (s.cellAt n).fld 1 8 1 + 2 * (s.cellAt n).fld 1 11 1 ∧
    roundFar s n (s.cellAt n).countSt.round = true

omit ho hm in
theorem countFar_iff : countFar s n ↔ ((s.cellAt n).marksEor && (s.cellAt n).countSt.opening (s.cellAt n) &&
    roundFar s n (s.cellAt n).countSt.round) = true := by
  simp [countFar, CountSt.opening, and_assoc]

variable (hb : (s.cellAt n).countSt.busy = true)
include hb

theorem execCountIndex_far (hr : countFar s n) : exec (.countIndex n) s = .next s := by
  show execCountIndex n s = _
  unfold execCountIndex
  dsimp only
  rw [if_neg (by simp [ho, hm]), if_neg (by simp [hb]), if_pos (by rw [countFar_iff.mp hr, Bool.or_true])]

/-- A COUNT that emits: the next indices, then EOD, then EOR. -/
theorem execCountIndex_emits (hr : ¬ countFar s n) (hc : canSend s n 4 1 = true) : exec (.countIndex n) s = .next
    (let x := (s.cellAt n).countSt
    let tag := countTag s n (s.cellAt n) x x.next
    if x.next < x.n then
      setCount (send s n 4 (countToken s n (s.cellAt n) x).1) n { x with
        next := x.next + (countToken s n (s.cellAt n) x).2
        busy := x.next + (countToken s n (s.cellAt n) x).2 < x.n || x.marks != 0 }
    else if x.marks % 2 = 1 then
      setCount (send s n 4 { kind := .eod 0, tag := tag }) n { x with marks := x.marks - 1, busy := x.marks != 1 }
    else if x.marks = 2 then
      setCount (send s n 4 { kind := .eor, tag := tag }) n
        { x with marks := 0, busy := false, round := (x.round + 1) % 4096 }
    else setCount s n { x with busy := false }) := by
  show execCountIndex n s = _
  unfold execCountIndex
  dsimp only
  rw [if_neg (by simp [ho, hm]), if_neg (by simp [hb]),
    if_neg (by rw [hc, Bool.not_true, Bool.false_or]; exact mt countFar_iff.mpr hr)]

end Index

theorem countToken_scalar {s : State} {n : NodeRef} {c : Cell} {x : CountSt} (h : c.fld 1 12 1 = 0) :
    countToken s n c x = (scalarTok (BitVec.ofNat 64 x.next) (countTag s n c x x.next) x.poison, 1) :=
  if_neg (by rw [h]; decide)

theorem countToken_lanes {s : State} {n : NodeRef} {c : Cell} {x : CountSt} (h : c.fld 1 12 1 = 1) :
    countToken s n c x = ({
      kind := .data, data := BitVec.ofNat 512 (ofLanes 32 (rangeFrom x.next (min 16 (x.n - x.next))))
      mask := lowMask (min 16 (x.n - x.next)), tag := countTag s n c x x.next, poison := x.poison },
      min 16 (x.n - x.next)) :=
  if_pos h

/-! ### COUNT in LOOP mode (R44 to R46, R316) -/

theorem instLaunch_updInst (s : State) (i j : Nat) {f : Inst → Inst} (hf : ∀ x, (f x).launch = x.launch) :
    (s.updInst i f).instLaunch j = s.instLaunch j := by
  unfold State.instLaunch
  rw [State.inst_updInst]
  by_cases h : j = i
  · rw [if_pos h]
    cases s.inst j <;> simp [hf]
  · rw [if_neg h]

theorem instCtx_updInst (s : State) (i j : Nat) {f : Inst → Inst} (hf : ∀ x, (f x).launch = x.launch) :
    (s.updInst i f).instCtx j = s.instCtx j := by
  unfold State.instCtx
  rw [instLaunch_updInst s i j hf]
  rfl

theorem send_instCtx (s : State) (n : NodeRef) (p : Nat) (t : Token) (i : Nat) :
    (send s n p t).instCtx i = s.instCtx i := by
  refine instCtx_updInst s n.inst i fun x => ?_
  split
  · split <;> rfl
  · rfl

section Loop
variable {s : State} {n : NodeRef} (ho : nodeOk s n .count = true) (hm : (s.cellAt n).fld 1 0 2 = 1)
include ho hm

section Open
variable (he : (s.cellAt n).countSt.exit = none)
include he

theorem execCountLoop_decides (hd : (s.cellAt n).countSt.decided < (s.cellAt n).countSt.got)
    (h5 : canSend s n 5 1 = true) (h6 : canSend s n 6 1 = true) : exec (.countLoop n) s = .next
      (let x := (s.cellAt n).countSt
      setCount (send (send s n 5 (loopTok s n x x.decided 1)) n 6 (loopTok s n x x.decided 0)) n
        { x with decided := x.decided + 1 }) := by
  have hdec : decidable_ (s.cellAt n).countSt = true := by
    unfold decidable_
    rw [he]
    exact decide_eq_true hd
  show execCountLoop n s = _
  unfold execCountLoop
  dsimp only
  rw [if_neg (by simp [ho, hm]), he]
  dsimp only
  rw [if_pos hdec, if_pos (by simp [h5, h6])]
  simp only [loopTok, send_instCtx]

variable (hd : (s.cellAt n).countSt.got ≤ (s.cellAt n).countSt.decided)
include hd

omit ho hm in
theorem decidable_open : ¬ decidable_ (s.cellAt n).countSt = true := by
  unfold decidable_
  rw [he]
  simpa using hd

theorem execCountLoop_eos (hn : (s.cellAt n).countSt.ended = true) (hg : (s.cellAt n).countSt.gone = false)
    (hi : (s.cellAt n).countSt.got = 0 ∨ (s.cellAt n).countSt.issued ≤ (s.cellAt n).countSt.decided)
    (hc : allCan s n [4, 5, 6] 1 = true) : exec (.countLoop n) s = .next
      (let x := (s.cellAt n).countSt
      setCount (sendAll s n [4, 5, 6] { kind := .eos, tag := mkTag (s.instCtx n.inst).1 0 x.round 0 }) n
        { x with gone := true }) := by
  show execCountLoop n s = _
  unfold execCountLoop
  dsimp only
  rw [if_neg (by simp [ho, hm]), he]
  dsimp only
  rw [if_neg (decidable_open he hd), if_pos hn, if_neg]
  rw [hg, hc]
  rcases hi with hi | hi <;> simp [hi]

variable (hn : (s.cellAt n).countSt.ended = false)
include hn

theorem execCountLoop_predicate {t : Token} (hf : (s.cellAt n).front 0 = some t) (ht : t.isMarker = false)
    (hp : t.poison = false) : exec (.countLoop n) s = .next
      (let x := (s.cellAt n).countSt
      setCount (popIns s n [0]) n { x with
        got := x.got + 1
        exit := if t.data.getLsbD 0 then none else some x.got }) := by
  show execCountLoop n s = _
  unfold execCountLoop
  dsimp only
  rw [if_neg (by simp [ho, hm]), he]
  dsimp only
  rw [if_neg (decidable_open he hd), if_neg (by simp [hn]), hf]
  dsimp only
  rw [if_neg (by simp [Token.isPmk_of_data ht]), if_neg (by simp [(Token.kind_ne_of_data ht).1]), if_neg (by simp [ht]),
    if_neg (by simp [hp])]

theorem execCountLoop_issues (hf : (s.cellAt n).front 0 = none)
    (hw : (s.cellAt n).countSt.issued - (s.cellAt n).countSt.got < (s.cellAt n).fld 1 2 6 + 1)
    (hc : canSend s n 4 1 = true) : exec (.countLoop n) s = .next
      (let x := (s.cellAt n).countSt
      setCount (send s n 4 (loopTok s n x x.issued (BitVec.ofNat 64 x.issued))) n { x with issued := x.issued + 1 }) := by
  show execCountLoop n s = _
  unfold execCountLoop
  dsimp only
  rw [if_neg (by simp [ho, hm]), he]
  dsimp only
  rw [if_neg (decidable_open he hd), if_neg (by simp [hn]), hf]
  dsimp only
  rw [if_pos (by simp [hw, hc])]

end Open

section Exit
variable {e : Nat} (he : (s.cellAt n).countSt.exit = some e)
include he

theorem execCountLoop_exit (hx : (s.cellAt n).countSt.exitSent = false) (hc : canSend s n 4 1 = true) :
    exec (.countLoop n) s = .next
      (let x := (s.cellAt n).countSt
      setCount (send s n 4 (loopTok s n x e (BitVec.ofNat 64 (2 ^ 63 + e)))) n { x with exitSent := true }) := by
  show execCountLoop n s = _
  unfold execCountLoop
  dsimp only
  rw [if_neg (by simp [ho, hm]), he]
  dsimp only
  rw [if_pos (by simp [hx]), if_pos hc]

variable (hx : (s.cellAt n).countSt.exitSent = true)
include hx

theorem execCountLoop_exit_decides (hd : (s.cellAt n).countSt.decided < (s.cellAt n).countSt.issued)
    (h5 : canSend s n 5 1 = true) (h6 : canSend s n 6 1 = true) : exec (.countLoop n) s = .next
      (let x := (s.cellAt n).countSt
      setCount (send (send s n 5 (loopTok s n x x.decided (if x.decided ≤ e then 1 else 0))) n 6
        (loopTok s n x x.decided (if x.decided = e then 1 else 0))) n { x with decided := x.decided + 1 }) := by
  have hdec : decidable_ (s.cellAt n).countSt = true := by
    unfold decidable_
    rw [he]
    exact decide_eq_true hd
  show execCountLoop n s = _
  unfold execCountLoop
  dsimp only
  rw [if_neg (by simp [ho, hm]), he]
  dsimp only
  rw [if_neg (by simp [hx]), if_pos hdec, if_pos (by simp [h5, h6])]
  simp only [loopTok, send_instCtx]

variable (hd : (s.cellAt n).countSt.issued ≤ (s.cellAt n).countSt.decided)
include hd

theorem execCountLoop_next (hg : (s.cellAt n).countSt.issued ≤ (s.cellAt n).countSt.got) : exec (.countLoop n) s = .next
    (let x := (s.cellAt n).countSt
    setCount s n { round := (x.round + 1) % 4096, discard := x.discard, ended := x.ended }) := by
  have hdec : ¬ decidable_ (s.cellAt n).countSt = true := by
    unfold decidable_
    rw [he]
    simpa using hd
  show execCountLoop n s = _
  unfold execCountLoop
  dsimp only
  rw [if_neg (by simp [ho, hm]), he]
  dsimp only
  rw [if_neg (by simp [hx]), if_neg hdec, if_pos hg]

theorem execCountLoop_drains {t : Token} (hg : (s.cellAt n).countSt.got < (s.cellAt n).countSt.issued)
    (hf : (s.cellAt n).front 0 = some t) (ht : t.isMarker = false) : exec (.countLoop n) s = .next
      (setCount (popIns s n [0]) n { (s.cellAt n).countSt with got := (s.cellAt n).countSt.got + 1 }) := by
  have hdec : ¬ decidable_ (s.cellAt n).countSt = true := by
    unfold decidable_
    rw [he]
    simpa using hd
  show execCountLoop n s = _
  unfold execCountLoop
  dsimp only
  rw [if_neg (by simp [ho, hm]), he]
  dsimp only
  rw [if_neg (by simp [hx]), if_neg hdec, if_neg (by omega), hf]
  dsimp only
  rw [if_neg (by simp [Token.isPmk_of_data ht]), if_neg (by simp [(Token.kind_ne_of_data ht).1]), if_neg (by simp [ht])]

end Exit

end Loop

/-! ### The head of a loop (R46, R316) -/

section Head
variable {s : State} {n : NodeRef} (ho : nodeOk s n .merge = true) (hm : (s.cellAt n).fld 1 0 2 = 2)

/-- What a loop head does with an entry or a back-edge token, where no issue or exit comes before it. -/
def loopStep (s : State) (n : NodeRef) : State :=
  let c := s.cellAt n
  let l := c.loopSt
  if l.gone then
    match c.front 1 with
    | some t => if t.isPmk then s else popIns s n [1]
    | none => s
  else if l.ended && !l.looping then
    (if canSend s n 4 1 then
      setLoop (send s n 4 { kind := .eos, tag := mkTag (s.instCtx n.inst).1 0 l.r0 0 }) n { l with gone := true }
     else s)
  else if !l.looping then
    match c.front 0 with
    | some t =>
      if t.isPmk then s
      else if t.kind == .eos && !l.openR then setLoop (popIns s n [0]) n { l with ended := true }
      else if l.started then loopEntry s n l t else s
    | none => s
  else
    match c.front 1 with
    | some t =>
      if t.isPmk then s
      else if l.drain && t.kind != .eos then bumpDiscard (popIns s n [1]) n
      else loopBack s n l t
    | none => if l.drain && !bodyHolds s n then loopNext s n l else s

section Step
include ho hm

theorem execLoopheadMerge_issue {t : Token} (he : (s.cellAt n).loopSt.exit = none) (hf : (s.cellAt n).front 2 = some t)
    (ht : t.isMarker = false) :
    exec (.loopheadMerge n) s = .next (loopIssue s n (s.cellAt n).loopSt t) := by
  show execLoopheadMerge n s = _
  unfold execLoopheadMerge
  dsimp only
  rw [if_neg (by simp [ho, hm]), he, hf]
  exact congrArg Host.Outcome.next (if_neg (by simp [Token.isPmk_of_data ht]))

theorem execLoopheadMerge_step (h : (s.cellAt n).loopSt.exit.isSome = true ∨ (s.cellAt n).front 2 = none) :
    exec (.loopheadMerge n) s = .next (loopStep s n) := by
  show execLoopheadMerge n s = _
  unfold execLoopheadMerge
  dsimp only
  rw [if_neg (by simp [ho, hm])]
  split
  · next hf he => exact absurd h (by simp [hf, he])
  · rfl

end Step

theorem loopIssue_data {l : LoopSt} {t : Token} (ht : t.isMarker = false) : loopIssue s n l t =
    setLoop (popIns s n [2]) n (if t.scalar.getLsbD 63 then { l with exit := some (t.scalar.toNat % 2 ^ 32) }
      else { l with started := true, issued := t.scalar.toNat % 2 ^ 32 }) := by
  unfold loopIssue
  dsimp only
  rw [if_neg (by simp [ht])]
  rfl

section Entry
variable (hg : (s.cellAt n).loopSt.gone = false) (hl : (s.cellAt n).loopSt.looping = false)
  (he : (s.cellAt n).loopSt.ended = false) (hs : (s.cellAt n).loopSt.started = true) {t : Token}
  (hf : (s.cellAt n).front 0 = some t)
include hg hl he hs hf

theorem loopStep_entry (hp : t.isPmk = false) (ht : t.kind ≠ .eos) :
    loopStep s n = loopEntry s n (s.cellAt n).loopSt t := by
  unfold loopStep
  dsimp only
  rw [if_neg (by simp [hg]), if_neg (by simp [he]), if_pos (by simp [hl]), hf]
  dsimp only
  rw [if_neg (by simp [hp]), if_neg (by simp [ht]), if_pos hs]

end Entry

section Back
variable (hg : (s.cellAt n).loopSt.gone = false) (hl : (s.cellAt n).loopSt.looping = true)
include hg hl

theorem loopStep_drain_empty (hd : (s.cellAt n).loopSt.drain = true) (hf : (s.cellAt n).front 1 = none) :
    loopStep s n = if bodyHolds s n then s else loopNext s n (s.cellAt n).loopSt := by
  unfold loopStep
  dsimp only
  rw [if_neg (by simp [hg]), if_neg (by simp [hl]), if_neg (by simp [hl]), hf]
  dsimp only
  cases bodyHolds s n <;> simp [hd]

variable {t : Token} (hf : (s.cellAt n).front 1 = some t) (hp : t.isPmk = false) (ht : t.kind ≠ .eos)
include hf hp ht

theorem loopStep_drain (hd : (s.cellAt n).loopSt.drain = true) : loopStep s n = bumpDiscard (popIns s n [1]) n := by
  unfold loopStep
  dsimp only
  rw [if_neg (by simp [hg]), if_neg (by simp [hl]), if_neg (by simp [hl]), hf]
  dsimp only
  rw [if_neg (by simp [hp]), if_pos (by simp [hd, ht])]

omit ht in
theorem loopStep_back (hd : (s.cellAt n).loopSt.drain = false) :
    loopStep s n = loopBack s n (s.cellAt n).loopSt t := by
  unfold loopStep
  dsimp only
  rw [if_neg (by simp [hg]), if_neg (by simp [hl]), if_neg (by simp [hl]), hf]
  dsimp only
  rw [if_neg (by simp [hp]), if_neg (by simp [hd])]

end Back

theorem loopEntry_data {l : LoopSt} {t : Token} (hc : canSend s n 4 1 = true) (ht : t.isMarker = false) :
    loopEntry s n l t = setLoop (send (popIns s n [0]) n 4 t) n { l with openR := true, r0 := tagRound t.tag } := by
  unfold loopEntry
  rw [if_neg (by simp [hc])]
  split
  · next hk => exact absurd hk (Token.kind_ne_of_data ht).1
  · next hk => exact absurd hk (Token.kind_ne_of_data ht).2
  · rfl

theorem loopEntry_eor {l : LoopSt} {t : Token} (hc : canSend s n 4 1 = true) (ht : t.kind = .eor) :
    loopEntry s n l t = setLoop (send (popIns s n [0]) n 4 { kind := .eor, tag := t.tag }) n
      { l with looping := true, openR := false, r0 := tagRound t.tag } := by
  unfold loopEntry Token.copy
  rw [if_neg (by simp [hc]), ht]

theorem Token.isPmk_of_eor {t : Token} (h : t.kind = .eor) : t.isPmk = false := by
  unfold Token.isPmk
  rw [h]

/-! ### A back-edge token -/

section BackEdge
variable {l : LoopSt} {t : Token} (ht : t.kind ≠ .eos)
include ht

/-- A token of an iteration at or past the exit is dropped; the EOR of the last one ends the round (log 64). -/
theorem loopBack_past (hp : ∃ e, l.exit = some e ∧ e ≤ l.iterOf t) : loopBack s n l t =
    if t.kind = .eor ∧ l.iter ≤ l.iterOf t then
      setLoop (bumpDiscard (popIns s n [1]) n) n
        (if l.part then { l with drain := true } else { ended := l.ended, r0 := l.r0 })
    else bumpDiscard (popIns s n [1]) n := by
  obtain ⟨e, he, hi⟩ := hp
  unfold loopBack
  dsimp only
  rw [he]
  dsimp only
  rw [if_neg (by simp [ht]), if_pos (by simp [hi])]
  simp only [Bool.and_eq_true, beq_iff_eq, decide_eq_true_eq]
  cases l.part <;> rfl

/-- A token of an earlier iteration is restamped once the next issue has arrived (R46). -/
theorem loopBack_before (hp : ¬ ∃ e, l.exit = some e ∧ e ≤ l.iterOf t) : loopBack s n l t =
    if l.issued ≤ l.iterOf t ∨ canSend s n 4 1 = false then s
    else setLoop (send (popIns s n [1]) n 4 { t with tag := withRound t.tag ((l.r0 + l.iterOf t + 1) % 4096) }) n
      (if t.kind = .eor then { l with iter := l.iterOf t + 1, part := false } else { l with part := true }) := by
  have hpast : (match l.exit with
      | some e => decide (e ≤ l.iterOf t)
      | none => false) = false := by
    cases he : l.exit with
    | none => rfl
    | some e => exact decide_eq_false fun hi => hp ⟨e, he, hi⟩
  unfold loopBack
  dsimp only
  rw [if_neg (by simp [ht]), if_neg (by exact ne_true_of_eq_false hpast)]
  simp only [Bool.or_eq_true, decide_eq_true_eq, Bool.not_eq_true', beq_iff_eq]

end BackEdge

end Head

/-! ### Markers and PMK (R31, R326, R380) -/

section Markers
variable {s : State} {n : NodeRef}

theorem passPlain_marker {ps outs : List Nat} {m : Token} (h : (s.cellAt n).heads ps = .marker m)
    (hc : allCan s n outs 1 = true) : passPlain s n ps outs = sendAll (popIns s n ps) n outs m.copy := by
  unfold passPlain
  rw [h]
  exact if_pos (by simp [hc])

theorem passPlain_bad {ps outs : List Nat} (h : (s.cellAt n).heads ps = .bad) :
    passPlain s n ps outs = haltNode s n rateFault := by
  unfold passPlain
  rw [h]

/-- The inputs by which an operator that only passes markers takes them. -/
def plainIns (c : Cell) : List Nat :=
  match c.kind with
  | .steer => if c.fld 1 0 2 = 0 then [0, 1] else [0]
  | .filter => if c.fld 1 0 2 = 2 then [0] else [0, 1]
  | .warp => [0]
  | _ => c.ins

theorem execNodeMarkerPass_plain (ho : nodeOk s n (s.cellAt n).kind = true)
    (hk : (s.cellAt n).kind = .join ∧ (s.cellAt n).isCalls = false ∧ (s.cellAt n).isRets = false ∨
      (s.cellAt n).kind = .steer ∨ (s.cellAt n).kind = .filter ∨ (s.cellAt n).kind = .warp) :
    exec (.nodeMarkerPass n) s = .next (passPlain s n (plainIns (s.cellAt n)) (s.cellAt n).outs) := by
  show execNodeMarkerPass n s = _
  unfold execNodeMarkerPass plainIns
  dsimp only
  rw [if_neg (by simp [ho])]
  rcases hk with ⟨hk, hc, hr⟩ | hk | hk | hk
  · rw [hk]
    exact congrArg Host.Outcome.next (if_neg (by simp [hc, hr]))
  all_goals rw [hk]

/-- A stream port towards the fabric emits PMK between rounds while its launch is GATING. -/
theorem execSourcePmkEmit_port (hg : s.gating n.inst = true) (hl : s.nodeLive n = true) (hs : pmkSentBy s n = false)
    (hk : (s.cellAt n).kind = .memory) (hn : 4 ≤ n.sub)
    (hu : declUsed ((s.cellAt n).word (32 + 2 * (n.sub - 4))).toNat = true)
    (hd : declDir ((s.cellAt n).word (32 + 2 * (n.sub - 4))).toNat = false)
    (hr : (s.sport (s.nodeHam n) (n.sub - 4)).midRound = false) (hc : canSend s n (n.sub - 4) 1 = true) :
    exec (.sourcePmkEmit n) s = .next
      (notePmk (send s n (n.sub - 4) { kind := .pmk false, tag := mkTag (s.instCtx n.inst).1 0 0 0 }) n) := by
  show execSourcePmkEmit n s = _
  unfold execSourcePmkEmit
  dsimp only
  rw [if_neg (by simp [hg, hl, hs]), hk]
  dsimp only
  rw [if_neg (by simp [hn, hd, hu, hr, hc, hg]), hg]
  rfl

theorem execPmkArrival_operator (hl : s.nodeLive n = true) (hk : (s.cellAt n).kind = .join ∨ (s.cellAt n).kind = .steer ∨
      (s.cellAt n).kind = .reduce ∨ (s.cellAt n).kind = .filter) {m : Token}
    (hm : (s.cellAt n).heads (s.cellAt n).ins = .pmk m) (hc : allCan s n (s.cellAt n).outs 1 = true) :
    exec (.pmkArrival n) s = .next
      (notePassed (sendAll (popIns s n (s.cellAt n).ins) n (s.cellAt n).outs m.copy) n) := by
  have hports : pmkPorts (s.cellAt n) n = some ((s.cellAt n).ins, (s.cellAt n).outs) := by
    unfold pmkPorts
    rcases hk with hk | hk | hk | hk <;> rw [hk]
  show execPmkArrival n s = _
  unfold execPmkArrival
  dsimp only
  rw [if_neg (by simp [hl])]
  have hmem : (s.cellAt n).kind ≠ .memory := by rcases hk with hk | hk | hk | hk <;> simp [hk]
  have hpass : (match pmkPorts (s.cellAt n) n with
      | none => s
      | some (ps, outs) => match (s.cellAt n).heads ps with
        | .pmk m => if allCan s n outs 1 then notePassed (sendAll (popIns s n ps) n outs m.copy) n else s
        | _ => s) = notePassed (sendAll (popIns s n (s.cellAt n).ins) n (s.cellAt n).outs m.copy) n := by
    rw [hports]
    dsimp only
    rw [hm]
    exact if_pos hc
  split
  · next h => simp [h] at hk
  · next h => simp [h] at hk
  · exact congrArg Host.Outcome.next ((if_neg (by simp [hmem])).trans hpass)

/-- A FANOUT copies no PMK past a branch's window (R319). -/
theorem execPmkArrival_fanout_full (hl : s.nodeLive n = true) (hk : (s.cellAt n).kind = .fanout) {t : Token}
    (hf : (s.cellAt n).front 0 = some t) (hr : branchRoom s n = false) : exec (.pmkArrival n) s = .next s := by
  show execPmkArrival n s = _
  unfold execPmkArrival
  dsimp only
  rw [if_neg (by simp [hl]), hk]
  dsimp only
  rw [hf]
  exact congrArg Host.Outcome.next (if_neg (by simp [hr]))

end Markers

/-- Settles O35: each clause is the equation of its instruction above, at the branch that its conditions choose. -/
theorem countsLoopsAndMarkers : Obligations.CountsLoopsAndMarkers := by
  constructor
  · intro s n c goes room ctx mode
    refine ⟨fun ho hm => ?_, fun ho hm => ?_, fun ho hm => ?_⟩
    · intro x tag
      refine ⟨fun hb t hf ht hp => execCountIndex_takes ho hm hb hf ht hp, ?_⟩
      intro far
      refine ⟨fun hb hr => execCountIndex_far ho hm hb hr, fun hb hr hc hn h => ?_, fun hb hr hc hn h => ?_,
        fun hb hr hc hn h => ?_, fun hb hr hc hn h => ?_⟩
      all_goals have he := execCountIndex_emits ho hm hb hr hc
      · have ht := countToken_scalar (s := s) (n := n) (x := (s.cellAt n).countSt) h
        dsimp only at he
        rw [ht] at he
        exact he.trans (congrArg Host.Outcome.next (if_pos hn))
      · have ht := countToken_lanes (s := s) (n := n) (x := (s.cellAt n).countSt) h
        dsimp only at he
        rw [ht] at he
        exact he.trans (congrArg Host.Outcome.next (if_pos hn))
      · exact he.trans (congrArg Host.Outcome.next ((if_neg (Nat.not_lt.mpr hn)).trans (if_pos h)))
      · exact he.trans (congrArg Host.Outcome.next ((if_neg (Nat.not_lt.mpr hn)).trans
          ((if_neg (by rw [show (s.cellAt n).countSt.marks = 2 from h]; decide)).trans (if_pos h))))
    · intro x tok
      refine ⟨fun he hd hn => ⟨fun t hf ht hp => execCountLoop_predicate ho hm he hd hn hf ht hp,
          fun hf hw hc => execCountLoop_issues ho hm he hd hn hf hw hc⟩,
        fun he hd h5 h6 => execCountLoop_decides ho hm he hd h5 h6, fun he hd hn hg hi h4 h5 h6 => ?_,
        fun e he => ⟨fun hx hc => execCountLoop_exit ho hm he hx hc,
          fun hx hd h5 h6 => execCountLoop_exit_decides ho hm he hx hd h5 h6, fun hx hd =>
          ⟨fun hg => execCountLoop_next ho hm he hx hd hg, fun hg t hf ht => execCountLoop_drains ho hm he hx hd hg hf ht⟩⟩⟩
      exact execCountLoop_eos ho hm he hd hn hg hi (by simp [allCan, show canSend s n 4 1 = true from h4,
        show canSend s n 5 1 = true from h5, show canSend s n 6 1 = true from h6])
    · intro l
      refine ⟨fun he t hf ht => ?_, fun h hg hl hn hs hc t hf => ⟨fun ht => ?_, fun ht => ?_⟩, fun h hg hl t hf hp ht => ?_,
        fun h hg hl hd hf => (execLoopheadMerge_step ho hm h).trans (congrArg _ (loopStep_drain_empty hg hl hd hf))⟩
      · exact (execLoopheadMerge_issue ho hm he hf ht).trans (congrArg _ (loopIssue_data ht))
      · exact (execLoopheadMerge_step ho hm h).trans (congrArg _ ((loopStep_entry hg hl hn hs hf
          (Token.isPmk_of_data ht) (Token.kind_ne_of_data ht).1).trans (loopEntry_data hc ht)))
      · exact (execLoopheadMerge_step ho hm h).trans (congrArg _ ((loopStep_entry hg hl hn hs hf
          (Token.isPmk_of_eor ht) (by rw [ht]; simp)).trans (loopEntry_eor hc ht)))
      · intro ahead i past dropped
        have hstep := execLoopheadMerge_step ho hm h
        refine ⟨fun hd => hstep.trans (congrArg _ (loopStep_drain hg hl hf hp ht hd)), fun hd => ?_⟩
        have hback := hstep.trans (congrArg _ (loopStep_back hg hl hf hp hd))
        refine ⟨fun hpast hk => ?_, fun hpast hk hi => ?_, fun hpast hi => ?_, fun hpast hi hc => ?_⟩
        · exact hback.trans (congrArg _ ((loopBack_past ht hpast).trans (if_neg fun ⟨h1, h2⟩ => by
            rcases hk with hk | hk
            · exact hk h1
            · exact Nat.not_le.mpr hk h2)))
        · exact hback.trans (congrArg _ ((loopBack_past ht hpast).trans (if_pos ⟨hk, hi⟩)))
        · exact hback.trans (congrArg _ ((loopBack_before ht hpast).trans (if_pos (.inl hi))))
        · exact hback.trans (congrArg _ ((loopBack_before ht hpast).trans (if_neg fun h => by
            rcases h with h | h
            · exact Nat.not_le.mpr hi h
            · exact Bool.false_ne_true (h.symm.trans hc))))
  · intro s n c goes copies room ins
    refine ⟨fun ho hk => ?_, fun hg hl hs hk hn hu hd hr hc => execSourcePmkEmit_port hg hl hs hk hn hu hd hr hc,
      fun hl hk m hm hc => execPmkArrival_operator hl hk hm hc, fun hl hk t hf hp hr => ?_⟩
    · have he := execNodeMarkerPass_plain ho hk
      exact ⟨fun m hm hc => he.trans (congrArg _ (passPlain_marker hm hc)),
        fun hb => he.trans (congrArg _ (passPlain_bad hb))⟩
    · refine execPmkArrival_fanout_full hl hk hf ?_
      obtain ⟨q, hq, h⟩ := hr
      refine List.all_eq_false.mpr ⟨q, hq, ?_⟩
      simp only [Bool.and_eq_true, decide_eq_true_eq, not_and, Nat.not_lt]
      intro hw
      exact h.resolve_left (Nat.not_le.mpr hw)

end Sys2Proof.Machine
end

section
/-! SUPPORT. O34: what the operators do with data tokens (R31, R312 to R314, R317 to R320). -/

namespace Sys2Proof.Machine

/-! ### JOIN (R312) -/

section Join
variable {s : State} {n : NodeRef} {t : Token} {ts : List Token} (ho : nodeOk s n .join = true)
  (hc : (s.cellAt n).isCalls = false) (hr : (s.cellAt n).isRets = false)
  (hh : (s.cellAt n).heads (s.cellAt n).ins = .data (t :: ts))
include ho hc hr hh

theorem execJoinCombine_disagree
    (ha : ((t :: ts).all fun u => matches_ ((s.cellAt n).fld 1 0 3) t.tag u.tag) = false) :
    exec (.joinCombine n) s = .next (haltNode s n rateFault) := by
  show execJoinCombine n s = _
  unfold execJoinCombine
  dsimp only
  rw [if_neg (by simp [ho]), if_neg (by simp [hc, hr]), hh]
  exact congrArg Host.Outcome.next (if_pos (by rw [← Bool.not_false, ← ha]; rfl))

theorem execJoinCombine_agree
    (ha : ((t :: ts).all fun u => matches_ ((s.cellAt n).fld 1 0 3) t.tag u.tag) = true) (hs : canSend s n 4 1 = true) :
    exec (.joinCombine n) s =
      .next (send (popIns s n (s.cellAt n).ins) n 4 (joinTokens s n (s.cellAt n) (t :: ts))) := by
  show execJoinCombine n s = _
  unfold execJoinCombine
  dsimp only
  rw [if_neg (by simp [ho]), if_neg (by simp [hc, hr]), hh]
  exact congrArg Host.Outcome.next ((if_neg (by rw [List.headD_cons, ha]; decide)).trans (if_neg (by simp [hs])))

end Join

theorem joinTokens_first {s : State} {n : NodeRef} {c : Cell} {t : Token} {ts : List Token} (h : c.fld 1 4 2 = 0) :
    joinTokens s n c (t :: ts) = { t with poison := (t :: ts).any (·.poison) } := by
  unfold joinTokens
  dsimp only
  rw [h]
  rfl

/-! ### STEER (R313) -/

/-- The inputs that a STEER takes. -/
def steerIns (c : Cell) : List Nat := if c.fld 1 0 2 = 0 then [0, 1] else [0]

section Steer
variable {s : State} {n : NodeRef} (ho : nodeOk s n .steer = true) {t : Token} {ts : List Token}
  (hh : (s.cellAt n).heads (steerIns (s.cellAt n)) = .data (t :: ts))
include ho hh

/-- A poisoned decision, or a poisoned token that is itself the decision (R33). -/
theorem execSteerRoute_poison
    (hp : (∃ d, ts[0]? = some d ∧ d.poison = true) ∨ ts[0]? = none ∧ (s.cellAt n).fld 1 0 2 = 1 ∧ t.poison = true) :
    exec (.steerRoute n) s = .next (poisonHalt s n) := by
  show execSteerRoute n s = _
  unfold execSteerRoute
  rw [steerIns] at hh
  dsimp only
  rw [if_neg (by simp [ho]), hh]
  dsimp only
  rw [List.getElem?_cons_succ]
  rcases hp with ⟨d, hd, hp⟩ | ⟨hd, hm, hp⟩ <;> rw [hd]
  · exact congrArg Host.Outcome.next (if_pos hp)
  · exact congrArg Host.Outcome.next ((if_neg (by simp)).trans (if_pos (by simp [hm, hp])))

theorem execSteerRoute_routes (hd : ∀ d, ts[0]? = some d → d.poison = false)
    (hp : (s.cellAt n).fld 1 0 2 = 1 → t.poison = false) {b : Bool}
    (hb : steerPred (s.cellAt n) (inPlane s n 0) t ts[0]? = b) (hc : canSend s n (if b then 4 else 5) 1 = true)
    (h6 : canSend s n 6 1 = true) : exec (.steerRoute n) s = .next
      (send (send (popIns s n (steerIns (s.cellAt n))) n (if b then 4 else 5) t) n 6
        (scalarTok (if b then 1 else 0) t.tag)) := by
  have hdp : (match ts[0]? with
      | some d => d.poison
      | none => false) = false := by
    cases hts : ts[0]? with
    | none => rfl
    | some d => exact hd d hts
  have hmp : ((decide ((s.cellAt n).fld 1 0 2 = 1)) && t.poison) = false := by
    by_cases h : (s.cellAt n).fld 1 0 2 = 1 <;> simp [h, hp]
  show execSteerRoute n s = _
  unfold execSteerRoute steerIns
  rw [steerIns] at hh
  dsimp only
  rw [if_neg (by simp [ho]), hh]
  dsimp only
  rw [List.getElem?_cons_succ, List.headD_cons, hb]
  exact congrArg Host.Outcome.next ((if_neg (by exact ne_true_of_eq_false hdp)).trans
    ((if_neg (ne_true_of_eq_false hmp)).trans (if_neg (by simp [hc, h6]))))

end Steer

theorem steerPred_decision {c : Cell} {ctrl : Bool} {t d : Token} (hm : c.fld 1 0 2 = 0) :
    steerPred c ctrl t (some d) = d.data.getLsbD 0 := by
  unfold steerPred
  rw [hm]
  rfl

theorem steerPred_index {c : Cell} {ctrl : Bool} {t : Token} {d : Option Token} (hm : c.fld 1 0 2 = 2) :
    steerPred c ctrl t d = (tagIndex t.tag % c.fld 2 0 16 == c.fld 2 16 16) := by
  unfold steerPred
  rw [hm]
  rfl

theorem steerPred_lane {c : Cell} {ctrl : Bool} {t : Token} {d : Option Token} (hm : c.fld 1 0 2 = 1) :
    steerPred c ctrl t d = match (((t.val ctrl c.width).lanes c.width)[c.fld 1 8 6]?).join with
      | some v => laneCmp c.ety (c.fld 1 4 3) v ((c.word 2).toNat % 2 ^ c.width)
      | none => false := by
  unfold steerPred
  dsimp only
  rw [hm, List.getD_eq_getElem?_getD]
  cases ((t.val ctrl c.width).lanes c.width)[c.fld 1 8 6]? with
  | none => rfl
  | some x => cases x <;> rfl

/-! ### MERGE (R314) -/

section Sequence
variable {s : State} {n : NodeRef} {d : Token} (ho : nodeOk s n .merge = true) (hm : (s.cellAt n).fld 1 0 2 = 0)
  (hf : (s.cellAt n).front 2 = some d) (hd : d.isMarker = false)
include ho hm hf hd

theorem execMergeSequence_poison (hp : d.poison = true) : exec (.mergeSequence n) s = .next (poisonHalt s n) := by
  show execMergeSequence n s = _
  unfold execMergeSequence
  dsimp only
  rw [if_neg (by simp [ho, hm]), hf]
  dsimp only
  rw [if_neg (by simp [hd]), if_pos hp]

variable (hp : d.poison = false) {t : Token} (ht : (s.cellAt n).front (if d.data.getLsbD 0 then 0 else 1) = some t)
include hp ht

theorem execMergeSequence_marker (hk : t.isPmk = false) (hr : t.isMarker = true) :
    exec (.mergeSequence n) s = .next (haltNode s n rateFault) := by
  show execMergeSequence n s = _
  unfold execMergeSequence
  dsimp only
  rw [if_neg (by simp [ho, hm]), hf]
  dsimp only
  rw [if_neg (by simp [hd]), if_neg (by simp [hp]), ht]
  dsimp only
  rw [if_neg (by simp [hk]), if_pos hr]

theorem execMergeSequence_data (hr : t.isMarker = false) (hc : canSend s n 4 1 = true) :
    exec (.mergeSequence n) s = .next (send (popIns s n [2, if d.data.getLsbD 0 then 0 else 1]) n 4 t) := by
  show execMergeSequence n s = _
  unfold execMergeSequence
  dsimp only
  rw [if_neg (by simp [ho, hm]), hf]
  dsimp only
  rw [if_neg (by simp [hd]), if_neg (by simp [hp]), ht]
  dsimp only
  rw [if_neg (by simp [Token.isPmk_of_data hr]), if_neg (by simp [hr]), if_neg (by simp [hc])]

end Sequence

section Key
variable {s : State} {n : NodeRef} {a b : Token} (ho : nodeOk s n .merge = true) (hm : (s.cellAt n).fld 1 0 2 = 1)
  (hc : canSend s n 4 1 = true) (ha : (s.cellAt n).front 0 = some a) (hb : (s.cellAt n).front 1 = some b)
include ho hm hc ha hb

/-- Where in0 stands at a marker, in1 runs on. -/
theorem execMergeKey_second (hma : a.isMarker = true) (hmb : b.isMarker = false) (hp : a.isPmk = false) :
    exec (.mergeKey n) s = .next (if mergeKey (s.cellAt n) (inPlane s n 1) b = none then haltNode s n rateFault
      else send (popIns s n [1]) n 4 b) := by
  show execMergeKey n s = _
  unfold execMergeKey
  dsimp only
  rw [if_neg (by simp [ho, hm]), ha, hb]
  dsimp only
  rw [if_neg (by simp [hc]), if_neg (by simp [hmb]), if_pos hma, if_neg (by simp [hp])]
  simp only [Option.isNone_iff_eq_none]

/-- Where in1 stands at a marker, in0 runs on. -/
theorem execMergeKey_first (hma : a.isMarker = false) (hmb : b.isMarker = true) (hp : b.isPmk = false) :
    exec (.mergeKey n) s = .next (if mergeKey (s.cellAt n) (inPlane s n 0) a = none then haltNode s n rateFault
      else send (popIns s n [0]) n 4 a) := by
  show execMergeKey n s = _
  unfold execMergeKey
  dsimp only
  rw [if_neg (by simp [ho, hm]), ha, hb]
  dsimp only
  rw [if_neg (by simp [hc]), if_neg (by simp [hma]), if_neg (by simp [hma]), if_pos hmb, if_neg (by simp [hp])]
  simp only [Option.isNone_iff_eq_none]

theorem execMergeKey_lesser (hma : a.isMarker = false) (hmb : b.isMarker = false) {x y : Int}
    (hx : mergeKey (s.cellAt n) (inPlane s n 0) a = some x) (hy : mergeKey (s.cellAt n) (inPlane s n 1) b = some y) :
    exec (.mergeKey n) s = .next (if (if (s.cellAt n).fld 1 2 1 = 1 then y ≤ x else x ≤ y) then
      send (popIns s n [0]) n 4 a else send (popIns s n [1]) n 4 b) := by
  show execMergeKey n s = _
  unfold execMergeKey
  dsimp only
  rw [if_neg (by simp [ho, hm]), ha, hb]
  dsimp only
  rw [if_neg (by simp [hc]), if_neg (by simp [hma]), if_neg (by simp [hma]), if_neg (by simp [hmb]), hx, hy]

end Key

/-! ### FILTER (R317) -/

section Filter
variable {s : State} {n : NodeRef} (ho : nodeOk s n .filter = true)

/-- The token of a FILTER of lanes: the lanes whose predicate is set. -/
def filterLanes (s : State) (n : NodeRef) (t d : Token) : Token :=
  let w := (s.cellAt n).width
  let v := t.val (inPlane s n 0) w
  let p : Val := { data := d.data, mask := fullMask w, width := w, pred := true }
  ((Val.ofList w ((v.lanes w).zipWith (fun x b => if b == some true then x else none) (p.preds w))).tainted t.poison).token
    (inPlane s n 0) t.tag

section Decided
variable {t d : Token} (hm : (s.cellAt n).fld 1 0 2 = 0 ∨ (s.cellAt n).fld 1 0 2 = 1)
  (hh : (s.cellAt n).heads [0, 1] = .data [t, d])
include ho hm hh

theorem execFilterToken_poison (hp : d.poison = true) : exec (.filterToken n) s = .next (poisonHalt s n) := by
  show execFilterToken n s = _
  unfold execFilterToken
  dsimp only
  rw [if_neg (by simp [ho]), if_neg (by omega), hh]
  exact congrArg Host.Outcome.next (if_pos hp)

variable (hp : d.poison = false) (hc : canSend s n 4 1 = true)
include hp hc

theorem execFilterToken_decided : exec (.filterToken n) s = .next
    (if (s.cellAt n).fld 1 0 2 = 0 then send (popIns s n [0, 1]) n 4 (filterLanes s n t d)
      else if d.data.getLsbD 0 then send (popIns s n [0, 1]) n 4 t else popIns s n [0, 1]) := by
  show execFilterToken n s = _
  unfold execFilterToken
  dsimp only
  rw [if_neg (by simp [ho]), if_neg (by omega), hh]
  refine congrArg Host.Outcome.next ((if_neg (ne_true_of_eq_false hp)).trans ((if_neg (by simp [hc])).trans ?_))
  rcases hm with hm | hm <;> rw [hm] <;> rfl

end Decided

include ho in
/-- A FILTER of empty tokens. -/
theorem execFilterToken_empty {t : Token} (hm : (s.cellAt n).fld 1 0 2 = 2) (hh : (s.cellAt n).heads [0] = .data [t])
    (hc : canSend s n 4 1 = true) : exec (.filterToken n) s = .next
      (if (t.val (inPlane s n 0) (s.cellAt n).width).mask = 0 then popIns s n [0] else send (popIns s n [0]) n 4 t) := by
  show execFilterToken n s = _
  unfold execFilterToken
  dsimp only
  rw [if_neg (by simp [ho]), if_pos hm, hh]
  refine congrArg Host.Outcome.next ((if_neg (by simp)).trans ((if_neg (by simp [hc])).trans ?_))
  rw [hm]
  rfl

end Filter

/-! ### COALESCE (R318) -/

/-- What a COALESCE holds once the valid lanes of a token have joined those before. -/
def CoalSt.joined (x : CoalSt) (t : Token) (got : List Nat) : CoalSt :=
  { lanes := x.lanes ++ got, tag := if x.lanes = [] then t.tag else x.tag
    poison := !x.lanes.isEmpty && x.poison || !got.isEmpty && t.poison, idx := x.idx }

theorem CoalSt.joined_eq (x : CoalSt) (t : Token) (got : List Nat) : x.joined t got =
    let y := if x.lanes.isEmpty then { x with tag := t.tag, poison := false } else x
    let z := if got.isEmpty then y else { y with poison := y.poison || t.poison }
    { z with lanes := y.lanes ++ got } := by
  obtain ⟨lanes, tag, poison, idx⟩ := x
  cases lanes <;> cases got <;> simp [CoalSt.joined]

section Coalesce
variable {s : State} {n : NodeRef} {t : Token} (ho : nodeOk s n .coalesce = true)
  (hh : (s.cellAt n).heads [0] = .data [t])

/-- The valid lanes of a token at a COALESCE's input. -/
def coalGot (s : State) (n : NodeRef) (t : Token) : List Nat :=
  ((t.val (inPlane s n 0) (s.cellAt n).width).lanes (s.cellAt n).width).filterMap id

include ho hh in
theorem execCoalesce_data : exec (.coalesce n) s = .next
    (let w := (s.cellAt n).width
    let y := (s.cellAt n).coalSt.joined t (coalGot s n t)
    if y.lanes.length < 512 / w then setCoal (popIns s n [0]) n y
    else if !canSend s n 4 1 then s
    else setCoal (send (popIns s n [0]) n 4 (coalToken w y (y.lanes.take (512 / w)))) n
      { lanes := y.lanes.drop (512 / w), tag := t.tag, poison := t.poison, idx := y.idx + 1 }) := by
  show execCoalesce n s = _
  unfold execCoalesce
  dsimp only
  rw [if_neg (by simp [ho]), hh, CoalSt.joined_eq]
  rfl

end Coalesce

/-! ### FANOUT (R319) -/

section Fanout

theorem mgetD_foldl_append {f : Nat → Token} (ps : List Nat) (hn : ps.Nodup) (m : SMap (List Token)) (q : Nat) :
    mgetD (ps.foldl (fun m p => mset m p (mgetD m p [] ++ [f p])) m) q [] =
      mgetD m q [] ++ if q ∈ ps then [f q] else [] := by
  induction ps generalizing m with
  | nil => simp
  | cons p ps ih =>
    obtain ⟨hp, hn⟩ := List.nodup_cons.mp hn
    rw [List.foldl_cons, ih hn, mgetD_mset]
    by_cases h : q = p
    · subst h
      simp [hp]
    · simp [h]

theorem Cell.outs_nodup (c : Cell) : c.outs.Nodup :=
  (List.nodup_range.filter _).map fun _ _ h => Nat.add_right_cancel h

/-- The cell of a node whose graph is placed, after it has been replaced. -/
theorem cellAt_setCellAt {s : State} {n : NodeRef} {x : Inst} (hx : s.inst n.inst = some x) (c : Cell) :
    (s.setCellAt n c).cellAt n = c := by
  unfold State.cellAt State.setCellAt
  rw [State.inst_updInst_self, hx]
  simp [Inst.cell, Inst.setCell]

theorem inst_of_kind {s : State} {n : NodeRef} (h : (s.cellAt n).kind ≠ .unused) : ∃ x, s.inst n.inst = some x := by
  unfold State.cellAt at h
  cases hx : s.inst n.inst with
  | none => rw [hx] at h; exact absurd rfl h
  | some x => exact ⟨x, rfl⟩

theorem cellAt_markActive (s : State) (i : Nat) (n : NodeRef) : (markActive s i).cellAt n = s.cellAt n := by
  unfold State.cellAt markActive
  rw [State.inst_updInst]
  by_cases h : n.inst = i
  · rw [if_pos h]
    cases s.inst n.inst <;> rfl
  · rw [if_neg h]

theorem cellAt_popIns {s : State} {n : NodeRef} {x : Inst} (hx : s.inst n.inst = some x) (ps : List Nat) :
    (popIns s n ps).cellAt n = (s.cellAt n).pop ps := by
  rw [popIns, cellAt_markActive, cellAt_setCellAt hx]

theorem inst_popIns {s : State} {n : NodeRef} {x : Inst} (hx : s.inst n.inst = some x) (ps : List Nat) :
    ∃ y, (popIns s n ps).inst n.inst = some y := by
  unfold popIns markActive State.setCellAt
  rw [State.inst_updInst_self, State.inst_updInst_self, hx]
  exact ⟨_, rfl⟩

theorem buf_pop_zero (c : Cell) : (c.pop [0]).buf 0 = (c.buf 0).drop 1 := by
  show mgetD (mput c.inb 0 ((c.buf 0).drop 1) []) 0 [] = _
  rw [mgetD_mput, if_pos rfl]

variable {s : State} {n : NodeRef} {t : Token} (ho : nodeOk s n .fanout = true) (hf : (s.cellAt n).front 0 = some t)

/-- The copy of a token that a FANOUT puts into a branch (R319). -/
def fanoutCopy (s : State) (n : NodeRef) (t : Token) (p : Nat) : Token :=
  let c := s.cellAt n
  let spread : Token := { t with
    data := BitVec.ofNat 512 (ofLanes c.width (List.replicate (512 / c.width) t.scalar.toNat))
    mask := if t.mask.getLsbD 0 then fullMask c.width else 0 }
  { (if c.fld 1 16 1 = 1 ∧ t.kind = .data ∧ outPlane s n p = false then spread else t) with init := false }

/-- A FANOUT without its oldest token, a copy of which stands in every used branch. -/
def fanoutSpread (s : State) (n : NodeRef) (t : Token) : State :=
  let u := popIns s n [0]
  u.setCellAt n { (u.cellAt n) with
    outq := (u.cellAt n).outs.foldl (fun m p => mset m p (mgetD m p [] ++ [fanoutCopy s n t p])) (u.cellAt n).outq }

include ho hf in
theorem execFanoutEnqueue_room (hp : t.isPmk = false) (hr : branchRoom s n = true) :
    exec (.fanoutEnqueue n) s = .next (fanoutSpread s n t) := by
  show execFanoutEnqueue n s = _
  unfold execFanoutEnqueue
  rw [if_neg (by simp [ho])]
  dsimp only
  rw [hf]
  dsimp only
  rw [if_neg (by simp [hp, hr])]
  unfold fanoutSpread fanoutCopy
  simp only [Bool.and_eq_true, decide_eq_true_eq, beq_iff_eq, Bool.not_eq_true', and_assoc]

theorem fanoutSpread_cell {x : Inst} (hx : s.inst n.inst = some x) : (fanoutSpread s n t).cellAt n =
    let c := (s.cellAt n).pop [0]
    { c with outq := c.outs.foldl (fun m p => mset m p (mgetD m p [] ++ [fanoutCopy s n t p])) c.outq } := by
  obtain ⟨y, hy⟩ := inst_popIns hx [0]
  unfold fanoutSpread
  dsimp only
  rw [cellAt_setCellAt hy, cellAt_popIns hx]

end Fanout

/-! ### REDUCE (R320) -/

section Reduce
variable {s : State} {n : NodeRef} (ho : nodeOk s n .reduce = true)
include ho

theorem execReduceStep_data {t : Token} {ts : List Token} (hh : (s.cellAt n).heads (s.cellAt n).ins = .data (t :: ts)) :
    exec (.reduceStep n) s = .next
      (let x := (s.cellAt n).redSt
      setRed (popIns s n (s.cellAt n).ins) n { x with
        accs := ((t :: ts).zip (s.cellAt n).ins).foldl
          (fun a u => redFold (s.cellAt n) a (u.1.val (inPlane s n u.2) (s.cellAt n).width)) x.accs
        tag := if x.any then x.tag else t.tag
        any := true
        poison := x.poison || (t :: ts).any (·.poison) }) := by
  show execReduceStep n s = _
  unfold execReduceStep
  rw [if_neg (by simp [ho])]
  dsimp only
  rw [hh]
  rfl

theorem execReduceGroupClose_closes {m : Token} (hh : (s.cellAt n).heads (s.cellAt n).ins = .marker m)
    (hr : redCloses (s.cellAt n) m.kind = true) (hc : canSend s n 4 2 = true) : exec (.reduceGroupClose n) s = .next
      (let c := s.cellAt n
      let x := c.redSt
      let accs := if x.accs = [] then List.replicate (512 / c.width) none else x.accs
      let o := ((Val.ofList c.width accs).tainted x.poison).token (outPlane s n 4)
        (withIndex (if x.any then x.tag else m.tag) x.idx)
      setRed (send (send (popIns s n c.ins) n 4 o) n 4 { kind := m.kind, tag := m.tag }) n
        { idx := if m.kind = .eor ∨ m.kind = .eos then 0 else x.idx + 1 }) := by
  show execReduceGroupClose n s = _
  unfold execReduceGroupClose
  rw [if_neg (by simp [ho])]
  dsimp only
  rw [hh]
  dsimp only
  rw [if_neg (by simp [hr, hc])]
  simp only [List.isEmpty_iff, Bool.or_eq_true, beq_iff_eq]
  rfl

end Reduce

/-- Settles O34: each operator is its equation above, at the heads and the mode of the clause. -/
theorem operators : Obligations.Operators := by
  intro s n c w goes mismatch room mode
  refine ⟨fun ho hc hr t ts hh => ?_, fun ho h6 => ?_, fun ho hm d hf hd => ?_, fun ho hm hc a b ha hb => ?_,
    fun ho hc => ⟨?_, ?_⟩, fun ho t hh => ?_, fun ho t hf hp hr => ?_, fun ho => ?_⟩
  · intro agree
    exact ⟨fun ha => execJoinCombine_disagree ho hc hr hh ha,
      fun ha hs => ⟨execJoinCombine_agree ho hc hr hh ha hs, fun h => joinTokens_first h⟩⟩
  · intro to_
    refine ⟨fun t d hm hh => ?_, fun t hh => ⟨fun hm hp => ?_, fun hm hp => ?_, fun hm => ?_⟩⟩
    · have hi : steerIns (s.cellAt n) = [0, 1] := if_pos hm
      refine ⟨fun hp => execSteerRoute_poison ho (hi ▸ hh) (.inl ⟨d, rfl, hp⟩), fun hp hc => ?_⟩
      have hd : ∀ e, [d][0]? = some e → e.poison = false := by
        rintro e ⟨rfl⟩
        exact hp
      have he := execSteerRoute_routes ho (hi ▸ hh) hd (fun h => absurd (hm.symm.trans h) (by decide))
        (steerPred_decision hm) hc h6
      rwa [hi] at he
    all_goals have hi : steerIns (s.cellAt n) = [0] := if_neg (by rw [show (s.cellAt n).fld 1 0 2 = _ from hm]; decide)
    · exact execSteerRoute_poison ho (hi ▸ hh) (.inr ⟨rfl, hm, hp⟩)
    · intro hc
      have he := execSteerRoute_routes ho (hi ▸ hh) (fun _ h => absurd h (by simp)) (fun _ => hp) (steerPred_lane hm) hc h6
      rwa [hi] at he
    · intro hc
      have he := execSteerRoute_routes ho (hi ▸ hh) (fun _ h => absurd h (by simp))
        (fun h => absurd (hm.symm.trans h) (by decide)) (steerPred_index hm) hc h6
      rwa [hi] at he
  · intro arm
    exact ⟨fun hp => execMergeSequence_poison ho hm hf hd hp, fun hp t ht =>
      ⟨fun hk hr => execMergeSequence_marker ho hm hf hd hp ht hk hr,
        fun hr hc => execMergeSequence_data ho hm hf hd hp ht hr hc⟩⟩
  · refine ⟨fun hma hmb hp => execMergeKey_second ho hm hc ha hb hma hmb hp,
      fun hma hmb hp => execMergeKey_first ho hm hc ha hb hma hmb hp, fun hma hmb x y hx hy => ?_⟩
    have he := execMergeKey_lesser ho hm hc ha hb hma hmb hx hy
    exact ⟨fun h => he.trans (congrArg _ (if_pos h)), fun h => he.trans (congrArg _ (if_neg h))⟩
  · intro t d hm hh v p kept
    refine ⟨fun hp => execFilterToken_poison ho hm hh hp, fun hp h0 => ?_, fun hp h1 hd => ?_, fun hp h1 hd => ?_⟩
    all_goals have he := execFilterToken_decided ho hm hh hp hc
    · exact he.trans (congrArg _ (if_pos h0))
    all_goals have hn : ¬ (s.cellAt n).fld 1 0 2 = 0 := by rw [show (s.cellAt n).fld 1 0 2 = 1 from h1]; decide
    · exact he.trans (congrArg _ ((if_neg hn).trans (if_pos hd)))
    · exact he.trans (congrArg _ ((if_neg hn).trans (if_neg (ne_true_of_eq_false hd))))
  · intro t hm hh
    have he := execFilterToken_empty ho hm hh hc
    exact ⟨fun h => he.trans (congrArg _ (if_pos h)), fun h => he.trans (congrArg _ (if_neg h))⟩
  · intro x got all tag bad
    have he := execCoalesce_data ho hh
    exact ⟨fun h => he.trans (congrArg Host.Outcome.next (if_pos h)), fun h hc => he.trans (congrArg Host.Outcome.next
      ((if_neg (Nat.not_lt.mpr h)).trans (if_neg (by simp [show canSend s n 4 1 = true from hc]))))⟩
  · intro spread
    have hk : (s.cellAt n).kind = .fanout := by
      simp only [nodeOk, Bool.and_eq_true, beq_iff_eq] at ho
      exact ho.1.2
    obtain ⟨x, hx⟩ := inst_of_kind (s := s) (n := n) (by rw [hk]; decide)
    have hroom : branchRoom s n = true := by
      simpa [branchRoom] using hr
    refine ⟨_, execFanoutEnqueue_room ho hf hp hroom, rfl, rfl, ?_, fun q hq => ?_⟩
    all_goals rw [fanoutSpread_cell hx]
    · show ((c.pop [0]).buf 0).head? = _
      rw [buf_pop_zero, List.head?_drop]
    · exact (mgetD_foldl_append _ (Cell.outs_nodup _) _ q).trans (congrArg _ (if_pos hq))
  · intro x
    exact ⟨fun t ts hh => execReduceStep_data ho hh, fun m hh hr hc => execReduceGroupClose_closes ho hh hr hc⟩

end Sys2Proof.Machine
end

section
/-! SUPPORT. The slots of actor cells: what a change of a slot leaves, and which state operations keep every slot
(R224, R290). -/

namespace Sys2Proof.Machine

variable {s : State} {n m : NodeRef}

theorem slotAt_setCellAt {x : Inst} (hx : s.inst n.inst = some x) (c : Cell) : (s.setCellAt n c).slotAt n = c.slot n.sub := by
  rw [State.slotAt, cellAt_setCellAt hx]

/-- The slot that was changed, where its graph is placed. -/
theorem slotAt_updSlot {x : Inst} (hx : s.inst n.inst = some x) (g : Slot → Slot) :
    (s.updSlot n g).slotAt n = g (s.slotAt n) := by
  unfold State.updSlot
  rw [slotAt_setCellAt hx]
  simp [Cell.slot, State.slotAt]

/-- Two nodes that are not the same slot of the same cell. -/
def SlotApart (m n : NodeRef) : Prop :=
  m.inst ≠ n.inst ∨ 16 * m.page + m.cell ≠ 16 * n.page + n.cell ∨ m.sub ≠ n.sub

theorem cellAt_setCellAt_apart (h : m.inst ≠ n.inst ∨ 16 * m.page + m.cell ≠ 16 * n.page + n.cell) (c : Cell) :
    (s.setCellAt n c).cellAt m = s.cellAt m := by
  unfold State.cellAt State.setCellAt
  rw [State.inst_updInst]
  by_cases hi : m.inst = n.inst
  · have hc := h.resolve_left (not_not.mpr hi)
    rw [if_pos hi]
    cases s.inst m.inst with
    | none => rfl
    | some x => simp [Inst.cell, Inst.setCell, hc]
  · rw [if_neg hi]

theorem slotAt_updSlot_apart (h : SlotApart m n) (g : Slot → Slot) : (s.updSlot n g).slotAt m = s.slotAt m := by
  by_cases hc : m.inst ≠ n.inst ∨ 16 * m.page + m.cell ≠ 16 * n.page + n.cell
  · rw [State.slotAt, State.updSlot, cellAt_setCellAt_apart hc]
    rfl
  · obtain ⟨hi, hp⟩ : m.inst = n.inst ∧ 16 * m.page + m.cell = 16 * n.page + n.cell := by simpa using hc
    have hs : m.sub ≠ n.sub := by
      rcases h with h | h | h
      · exact absurd hi h
      · exact absurd hp h
      · exact h
    have hcell (u : State) : u.cellAt m = u.cellAt n := by
      unfold State.cellAt Inst.cell
      rw [hi, hp]
    cases hx : s.inst n.inst with
    | none =>
      unfold State.slotAt State.updSlot State.setCellAt State.cellAt
      rw [State.inst_updInst, hi, hx, if_pos rfl]
      rfl
    | some x =>
      rw [State.slotAt, State.slotAt, State.updSlot, hcell, hcell, cellAt_setCellAt hx]
      simp [Cell.slot, hs]

/-- The instances are the same, and so is every cell. -/
theorem cellAt_of_insts {t : State} (h : t.insts = s.insts) (n : NodeRef) : t.cellAt n = s.cellAt n := by
  unfold State.cellAt State.inst
  rw [h]

theorem slotAt_of_insts {t : State} (h : t.insts = s.insts) (n : NodeRef) : t.slotAt n = s.slotAt n := by
  rw [State.slotAt, State.slotAt, cellAt_of_insts h]

theorem slotAt_markActive (s : State) (i : Nat) (n : NodeRef) : (markActive s i).slotAt n = s.slotAt n := by
  rw [State.slotAt, State.slotAt, cellAt_markActive]

theorem slotAt_count (s : State) (v o k : Nat) (n : NodeRef) : (s.count v o k).slotAt n = s.slotAt n :=
  slotAt_of_insts (memWrites_count s v o k).insts n

theorem inst_updSlot {x : Inst} (hx : s.inst n.inst = some x) (g : Slot → Slot) :
    ∃ y, (s.updSlot n g).inst n.inst = some y := by
  unfold State.updSlot State.setCellAt
  rw [State.inst_updInst_self, hx]
  exact ⟨_, rfl⟩

/-! ### A slot's ports -/

theorem Slot.port_setPort (x : Slot) (p q : Nat) (a : APort) : (x.setPort p a).port q = if q = p then a else x.port q := by
  unfold Slot.port Slot.setPort
  rw [mget_mset]
  by_cases h : q = p <;> simp [h]

/-! ### Window writes leave the firing of a slot (R112) -/

theorem slotPut_firing (x : Slot) (o : Nat) (v : W64) : (slotPut x o v).firing = x.firing := by
  unfold slotPut
  cases slotPlace o <;> rfl

theorem applyWrites_firing (x : Slot) : (applyWrites x).firing = x.firing :=
  List.foldlRecOn (motive := fun y => y.firing = x.firing) x.writes applyWrite rfl
    fun y h _ _ => (slotPut_firing y _ _).trans h

end Sys2Proof.Machine
end

section
/-! SUPPORT. O33: firings, marker steps and commits (R49, R112, R158, R287 to R291, R374). -/

namespace Sys2Proof.Machine

/-! ### A firing runs the words of its block -/

/-- Each actor instruction means `actorWord` of its own opcode, effect and fields. -/
theorem exec_of_actorEff {i : Instr} {op : Nat} {eff : Eff} {o : ActorOp} (h : actorEff i = some (op, eff, o)) (s : State) :
    exec i s = actorWord op eff o s := by
  cases i <;> cases h <;> rfl

theorem firingLive_of_nodeLive {s : State} {n : NodeRef} (h : s.nodeLive n = true) : s.firingLive n.inst = true := by
  unfold State.firingLive
  rw [show s.instLive n.inst = true from h]
  rfl

section Fire
variable {s : State} {n : NodeRef} {f : Firing} (hk : (s.cellAt n).kind = .actor)

include hk in
theorem actorWord_running (hfo : s.focus = some n) (hl : s.nodeLive n = true) (hf : (s.slotAt n).firing = some f) (op : Nat)
    (eff : Eff) (o : ActorOp) : actorWord op eff o s = .next (stepFiring n op eff o s) := by
  unfold actorWord
  rw [hfo]
  dsimp only
  rw [if_neg (by simp [firingLive_of_nodeLive hl, hk]), hf]
  rfl

theorem runBlock_word (hf : (s.slotAt n).firing = some f) {i : Instr} {op : Nat} {eff : Eff} {o : ActorOp}
    (hi : decodeActor ((s.slotAt n).instr f.idx) = some i) (he : actorEff i = some (op, eff, o)) (k : Nat) :
    runBlock n (k + 1) s = match ((stepFiring n op eff o s).slotAt n).firing with
      | none => stepFiring n op eff o s
      | some g => if g.waiting then stepFiring n op eff o s else runBlock n k (stepFiring n op eff o s) := by
  rw [runBlock]
  rw [show s.firingAt n = f by rw [State.firingAt, hf]; rfl, hi, Option.bind_some, he] <;> rfl

include hk in
theorem execActorDataFiring_goes_on (hl : s.nodeLive n = true) (hf : (s.slotAt n).firing = some f) :
    exec (.actorDataFiring n) s = .next (runBlock n 128 s) := by
  show execActorDataFiring n s = _
  unfold execActorDataFiring
  rw [if_neg (by simp [firingLive_of_nodeLive hl, hk]), if_pos (by rw [hf]; rfl)]

include hk in
theorem execActorDataFiring_begins (hl : s.nodeLive n = true) (hf : (s.slotAt n).firing = none) (hm : mayFire s n = true)
    (hg : ((beginFiring s n false (firingTag (s.slotAt n))).slotAt n).firing.isSome = true) :
    exec (.actorDataFiring n) s = .next (runBlock n 128 (beginFiring s n false (firingTag (s.slotAt n)))) := by
  show execActorDataFiring n s = _
  unfold execActorDataFiring
  rw [if_neg (by simp [firingLive_of_nodeLive hl, hk]), if_neg (by rw [hf]; decide), if_pos hm]
  exact congrArg Host.Outcome.next (if_pos hg)

theorem mayFire_of_not (h : dataReady (s.slotAt n) = false ∨ allPerformed s (.node n) = false ∨ slotFirst s n = false) :
    mayFire s n = false := by
  unfold mayFire mayTurn
  rcases h with h | h | h <;> simp [h]

theorem execActorDataFiring_still (hf : (s.slotAt n).firing = none) (hm : mayFire s n = false) :
    exec (.actorDataFiring n) s = .next s := by
  show execActorDataFiring n s = _
  unfold execActorDataFiring
  rw [if_neg (c := (s.slotAt n).firing.isSome = true) (by rw [hf]; decide)]
  simp only [hm, Bool.false_eq_true, if_false, ite_self]

theorem execWindowWriteApply_applies (hf : (s.slotAt n).firing = none) (hw : (s.slotAt n).writes ≠ []) :
    exec (.windowWriteApply n) s = .next (s.updSlot n applyWrites) := by
  show execWindowWriteApply n s = _
  unfold execWindowWriteApply
  rw [if_neg (by simp [hf, hw])]

include hk in
theorem execFiringWeightUpdate_eq : exec (.firingWeightUpdate n) s =
    .next (if s.cycle.toNat % 256 = 0 then s.setCellAt n (weighSlots (s.cellAt n)) else s) := by
  show execFiringWeightUpdate n s = _
  unfold execFiringWeightUpdate
  simp only [hk, true_and]

end Fire

/-! ### Marker steps (R291) -/

section MarkerStep
variable {s : State} {n : NodeRef} {m : Token} {rest : List Token} (hk : (s.cellAt n).kind = .actor)
  (hl : s.nodeLive n = true) (hv : (s.slotAt n).valid = true) (hd : (s.slotAt n).done = false)
  (hh : (s.slotAt n).halted = false) (hf : (s.slotAt n).firing = none) (hm : headMarkers (s.slotAt n) = some (m :: rest))
  (hp : (m :: rest).any Token.isPmk = false)
include hk hl hv hd hh hf hm hp

theorem execMarkerStep_eq : exec (.markerStep n) s = .next
    (if rest.all (sameMarker m) = false then haltSlot s n rateFault
    else if !markerRoom (s.slotAt n) (closeDue (s.slotAt n) m) || !mayTurn s n (s.slotAt n) || !slotFirst s n then s
    else if closeDue (s.slotAt n) m then
      if ((beginFiring s n true m.tag).slotAt n).firing.isSome then runBlock n 128 (beginFiring s n true m.tag)
      else beginFiring s n true m.tag
    else checkSlot (bumpWaited (passMarkers s n m) n) n) := by
  show execMarkerStep n s = _
  unfold execMarkerStep
  dsimp only
  rw [if_neg (by simp [hl, hk, hv, hd, hh]), hf]
  dsimp only
  rw [hm]
  dsimp only
  rw [if_neg (by rw [hp]; decide)]
  simp only [Bool.not_eq_true']

theorem execMarkerStep_disagree (ha : rest.all (sameMarker m) = false) :
    exec (.markerStep n) s = .next (haltSlot s n rateFault) := by
  rw [execMarkerStep_eq hk hl hv hd hh hf hm hp, if_pos ha]

variable (ha : rest.all (sameMarker m) = true) (ht : mayTurn s n (s.slotAt n) = true) (h1 : slotFirst s n = true)
include ha ht h1

theorem execMarkerStep_passes (hc : closeDue (s.slotAt n) m = false) (hr : markerRoom (s.slotAt n) false = true) :
    exec (.markerStep n) s = .next (checkSlot (bumpWaited (passMarkers s n m) n) n) := by
  rw [execMarkerStep_eq hk hl hv hd hh hf hm hp, if_neg (by rw [ha]; decide), if_neg (by simp [ht, h1, hc, hr]),
    if_neg (by rw [hc]; decide)]

theorem execMarkerStep_closes (hc : closeDue (s.slotAt n) m = true) (hr : markerRoom (s.slotAt n) true = true)
    (hg : ((beginFiring s n true m.tag).slotAt n).firing.isSome = true) :
    exec (.markerStep n) s = .next (runBlock n 128 (beginFiring s n true m.tag)) := by
  rw [execMarkerStep_eq hk hl hv hd hh hf hm hp, if_neg (by rw [ha]; decide), if_neg (by simp [ht, h1, hc, hr]),
    if_pos hc, if_pos hg]

end MarkerStep

/-! ### The order of a cell's slots (R374) -/

section Order
variable {now : W64} {a b : Nat × Slot}

/-- The cycle since which a slot has been ready. -/
def readySince (now : W64) (x : Slot) : Nat := (if x.ready then x.readyAt else now).toNat

theorem slotBefore_late (h : 64 ≤ a.2.waited) (k : ¬ 64 ≤ b.2.waited) : slotBefore now a b = true := by
  simp [slotBefore, h, k]

theorem slotBefore_early (h : ¬ 64 ≤ a.2.waited) (k : 64 ≤ b.2.waited) : slotBefore now a b = false := by
  simp [slotBefore, h, k]

variable (hw : 64 ≤ a.2.waited ↔ 64 ≤ b.2.waited)
include hw

theorem slotBefore_alike : slotBefore now a b =
    if readySince now a.2 ≠ readySince now b.2 then decide (readySince now a.2 < readySince now b.2)
    else if a.2.weight ≠ b.2.weight then decide (b.2.weight < a.2.weight)
    else if a.2.hf 80 8 ≠ b.2.hf 80 8 then decide (a.2.hf 80 8 < b.2.hf 80 8)
    else decide (a.1 ≤ b.1) := by
  unfold slotBefore readySince
  simp [hw]

end Order

/-! ### Ports and held registers at the end of a firing (R290) -/

/-- The last value written to a register among `l`, or `v`. -/
def lastHeld (l : SMap Held) (r : Nat) (v : Held) : Held := ((l.filter fun e => e.1 == r).getLast?.map (·.2)).getD v

theorem heldOf_foldl (l : SMap Held) (m : SMap Held) (r : Nat) :
    heldOf (l.foldl (fun m e => mset m e.1 e.2) m) r = lastHeld l r (heldOf m r) := by
  induction l using List.reverseRecOn with
  | nil => rfl
  | append_singleton l e ih =>
    rw [List.foldl_append, List.foldl_cons, List.foldl_nil]
    by_cases h : e.1 = r
    · subst h
      simp [heldOf, lastHeld]
    · have hl : lastHeld (l ++ [e]) r (heldOf m r) = lastHeld l r (heldOf m r) := by
        simp [lastHeld, h]
      rw [hl, ← ih]
      simp [heldOf, Ne.symm h]

/-- A token that a firing publishes on a port, and the port's count of what it sent. -/
def emitOn (x : Slot) (a : APort) (t : Token) : APort := (a.put t).sent x.source t.kind

theorem APort.sent_buffer (a : APort) (src : Bool) (k : TokKind) : (a.sent src k).head = a.head ∧
    (a.sent src k).tail = a.tail ∧ (a.sent src k).fill = a.fill ∧ (a.sent src k).slots = a.slots := by
  unfold APort.sent
  cases k <;> exact ⟨rfl, rfl, rfl, rfl⟩

theorem emitOn_head (x : Slot) (a : APort) (t : Token) : (emitOn x a t).head = a.head := (APort.sent_buffer _ _ _).1
theorem emitOn_tail (x : Slot) (a : APort) (t : Token) : (emitOn x a t).tail = (a.tail + 1) % 16 :=
  (APort.sent_buffer _ _ _).2.1
theorem emitOn_fill (x : Slot) (a : APort) (t : Token) : (emitOn x a t).fill = a.fill + 1 :=
  (APort.sent_buffer _ _ _).2.2.1
theorem emitOn_slots (x : Slot) (a : APort) (t : Token) : (emitOn x a t).slots = mset a.slots a.tail t :=
  (APort.sent_buffer _ _ _).2.2.2

section Publish
variable (s : State) (n : NodeRef) (x : Slot) (f : Firing) (p : Nat)

/-- The markers of a firing that stand on a port before its `j`-th token, put out. -/
def putMarksOn (a : APort) (j : Nat) : APort :=
  ((f.marks.filter (·.1 == p)).filter (·.2.1 == j)).foldl
    (fun a m => emitOn x a { m.2.2 with tag := outTag s n x f a none }) a

/-- The `j`-th token of a port, as it stands staged, put out. -/
def putStaged (a : APort) (j : Nat) : APort :=
  emitOn x a { mgetD f.staged (16 * p + j) { kind := .data } with
    tag := outTag s n x f a (mget f.tagOver (16 * p + j)) }

theorem publishPort_eq (count : Nat) : publishPort s n x f p count = putMarksOn s n x f p
    ((List.range count).foldl (fun a j => putStaged s n x f p (putMarksOn s n x f p a j) j) (x.port (4 + p))) count := rfl

theorem putMarksOn_head (a : APort) (j : Nat) : (putMarksOn s n x f p a j).head = a.head :=
  List.foldlRecOn (motive := fun b : APort => b.head = a.head) _ _ rfl fun b h _ _ => (emitOn_head x b _).trans h

theorem publishPort_head (count : Nat) : (publishPort s n x f p count).head = (x.port (4 + p)).head := by
  rw [publishPort_eq, putMarksOn_head]
  refine List.foldlRecOn (motive := fun b : APort => b.head = (x.port (4 + p)).head) _ _ rfl fun b h j _ => ?_
  rw [putStaged, emitOn_head, putMarksOn_head, h]

variable {f} in
theorem putMarksOn_none (h : f.marks = []) (a : APort) (j : Nat) : putMarksOn s n x f p a j = a := by
  unfold putMarksOn
  rw [h]
  rfl

variable {f} in
/-- A firing without markers puts its staged tokens one after another. -/
theorem publishPort_unmarked (h : f.marks = []) (count : Nat) : publishPort s n x f p count =
    (List.range count).foldl (putStaged s n x f p) (x.port (4 + p)) := by
  rw [publishPort_eq, putMarksOn_none s n x p h]
  simp only [putMarksOn_none s n x p h]

theorem foldl_putStaged_fill (a : APort) (count : Nat) :
    ((List.range count).foldl (putStaged s n x f p) a).fill = a.fill + count := by
  induction count with
  | zero => rfl
  | succ k ih => rw [List.range_succ, List.foldl_append, List.foldl_cons, List.foldl_nil, putStaged, emitOn_fill, ih,
      Nat.add_assoc]

theorem foldl_putStaged_tail {a : APort} (ha : a.tail < 16) (count : Nat) :
    ((List.range count).foldl (putStaged s n x f p) a).tail = (a.tail + count) % 16 := by
  induction count with
  | zero => exact (Nat.mod_eq_of_lt ha).symm
  | succ k ih =>
    rw [List.range_succ, List.foldl_append, List.foldl_cons, List.foldl_nil, putStaged, emitOn_tail, ih]
    omega

/-- Each staged token stands in its own place of the ring. -/
theorem foldl_putStaged_slots {a : APort} (ha : a.tail < 16) {count : Nat} (hc : count ≤ 16) {j : Nat} (hj : j < count) :
    ∃ t, mget ((List.range count).foldl (putStaged s n x f p) a).slots ((a.tail + j) % 16) = some t ∧
      t.data = (mgetD f.staged (16 * p + j) { kind := .data }).data ∧
      t.mask = (mgetD f.staged (16 * p + j) { kind := .data }).mask := by
  induction count with
  | zero => exact absurd hj (Nat.not_lt_zero j)
  | succ k ih =>
    rw [List.range_succ, List.foldl_append, List.foldl_cons, List.foldl_nil, putStaged, emitOn_slots,
      foldl_putStaged_tail s n x f p ha, mget_mset]
    rcases Nat.lt_succ_iff_lt_or_eq.mp hj with h | rfl
    · rw [if_neg (by omega)]
      exact ih (by omega) h
    · rw [if_pos rfl]
      exact ⟨_, rfl, rfl, rfl⟩

end Publish

/-! ### Commits (R290) -/

section Commit
variable {s : State} {n : NodeRef} {f : Firing}

/-- Every port of a slot has advanced by its rate in a firing. -/
def commitFits (x : Slot) (f : Firing) : Prop :=
  (∀ p, p < 4 → mgetD f.pend p 0 = if f.close then 0 else x.inRate p) ∧
    ∀ p, p < 4 → mgetD f.pend (4 + p) 0 = x.rateOut f.close p

theorem commitFits_iff (x : Slot) (f : Firing) : commitFits x f ↔
    ((List.range 4).all fun p => mgetD f.pend p 0 == if f.close then 0 else x.inRate p) = true ∧
      ((List.range 4).all fun p => mgetD f.pend (4 + p) 0 == x.rateOut f.close p) = true := by
  simp only [commitFits, List.all_eq_true, List.mem_range, beq_iff_eq]

/-- A slot with its inputs advanced and its tokens published. -/
def movePorts (s : State) (n : NodeRef) (x : Slot) (f : Firing) : Slot :=
  (List.range 4).foldl (fun y p =>
    (y.setPort p ((y.port p).adv (mgetD f.pend p 0))).setPort (4 + p)
      (publishPort s n x f p (mgetD f.pend (4 + p) 0))) x

/-- A slot with its ports moved and its held registers written, its firing ended. -/
def commitSlot (s : State) (n : NodeRef) (x : Slot) (f : Firing) : Slot :=
  let x1 := movePorts s n x f
  { x1 with
    h := f.hw.foldl (fun m e => mset m e.1 e.2) x1.h
    q := f.qw.foldl (fun m e => mset m e.1 e.2) x1.q
    roundOpen := x1.roundOpen || (!f.close && !x.usedIn.isEmpty)
    done := x1.done || f.marks.any fun m => m.2.2.kind == .eos
    firing := none
    ready := false
    waited := 0 }

theorem commitFiring_misses (hf : (s.slotAt n).firing = some f) (h : ¬ commitFits (s.slotAt n) f) :
    commitFiring s n = haltSlot s n rateFault := by
  unfold commitFiring
  dsimp only
  rw [hf]
  exact if_pos (by rwa [commitFits_iff, ← Bool.and_eq_true, ← Bool.not_eq_false', Bool.not_and, Bool.not_eq_false] at h)

theorem commitFiring_commits (hf : (s.slotAt n).firing = some f) (h : commitFits (s.slotAt n) f) :
    commitFiring s n =
      let u := s.updSlot n fun _ => (applyWrites (oweEos s n (commitSlot s n (s.slotAt n) f))).noteReady s.cycle
      markActive (u.count (u.instCtx n.inst).2 0x010) n.inst := by
  unfold commitFiring
  dsimp only
  rw [hf]
  obtain ⟨hi, ho⟩ := (commitFits_iff _ _).mp h
  exact if_neg (by rw [hi, ho]; decide)

/-- Whatever is kept of a slot whose readiness is noted. -/
theorem noteReady_fields (x : Slot) (c : W64) : (x.noteReady c).firing = x.firing ∧ (x.noteReady c).halted = x.halted ∧
    (x.noteReady c).h = x.h ∧ (x.noteReady c).q = x.q ∧ (x.noteReady c).ports = x.ports := by
  unfold Slot.noteReady
  split
  · exact ⟨rfl, rfl, rfl, rfl, rfl⟩
  · split <;> exact ⟨rfl, rfl, rfl, rfl, rfl⟩

theorem applyWrites_none {x : Slot} (h : x.writes = []) : applyWrites x = x := by
  unfold applyWrites
  rw [h]
  obtain ⟨⟩ := x
  cases h
  rfl

theorem oweEos_other {x : Slot} (h : x.source = false) : oweEos s n x = x := if_pos (by simp [h])

/-- Moving the ports changes nothing but them. -/
theorem movePorts_eq (x : Slot) : ∃ m, movePorts s n x f = { x with ports := m } := by
  refine List.foldlRecOn (motive := fun y : Slot => ∃ m, y = { x with ports := m }) _ _ ⟨x.ports, rfl⟩ fun y h p _ => ?_
  obtain ⟨m, rfl⟩ := h
  exact ⟨_, rfl⟩

/-- What a commit leaves and writes. -/
theorem commitSlot_fields (x : Slot) : (commitSlot s n x f).writes = x.writes ∧ (commitSlot s n x f).source = x.source ∧
    (commitSlot s n x f).halted = x.halted ∧
    (commitSlot s n x f).h = f.hw.foldl (fun m e => mset m e.1 e.2) x.h ∧
    (commitSlot s n x f).q = f.qw.foldl (fun m e => mset m e.1 e.2) x.q := by
  obtain ⟨m, hm⟩ := movePorts_eq (s := s) (n := n) (f := f) x
  unfold commitSlot
  rw [hm]
  exact ⟨rfl, rfl, rfl, rfl, rfl⟩

theorem commitSlot_ports (x : Slot) : (commitSlot s n x f).ports = (movePorts s n x f).ports := by
  rw [commitSlot]

theorem movePorts_in (x : Slot) {p : Nat} (hp : p < 4) :
    (movePorts s n x f).port p = (x.port p).adv (mgetD f.pend p 0) := by
  have hr : List.range 4 = [0, 1, 2, 3] := rfl
  unfold movePorts
  rw [hr]
  simp only [List.foldl_cons, List.foldl_nil, Slot.port_setPort]
  interval_cases p <;> simp

theorem movePorts_out (x : Slot) {p : Nat} (hp : p < 4) :
    (movePorts s n x f).port (4 + p) = publishPort s n x f p (mgetD f.pend (4 + p) 0) := by
  have hr : List.range 4 = [0, 1, 2, 3] := rfl
  unfold movePorts
  rw [hr]
  simp only [List.foldl_cons, List.foldl_nil, Slot.port_setPort]
  interval_cases p <;> simp

/-- The slot after the commit of a firing that fits, but for the note of its readiness. -/
theorem slotAt_commitFiring (hk : (s.cellAt n).kind = .actor) (hf : (s.slotAt n).firing = some f)
    (hw : (s.slotAt n).writes = []) (hs : (s.slotAt n).source = false) (h : commitFits (s.slotAt n) f) :
    (commitFiring s n).slotAt n = (commitSlot s n (s.slotAt n) f).noteReady s.cycle := by
  obtain ⟨x, hx⟩ := inst_of_kind (s := s) (n := n) (by rw [hk]; decide)
  obtain ⟨cw, cs, -⟩ := commitSlot_fields (s := s) (n := n) (f := f) (s.slotAt n)
  rw [commitFiring_commits hf h]
  dsimp only
  rw [slotAt_markActive, slotAt_count, slotAt_updSlot hx, oweEos_other (cs.trans hs),
    applyWrites_none (cw.trans hw)]

end Commit

/-- Settles O33: the firings, the marker step and the order of slots clause by clause, then the commit. -/
theorem firingsAndCommits : Obligations.FiringsAndCommits := by
  refine ⟨fun s n f k hfo hk => ?_, fun s n f hl hk hf hw hs => ?_⟩
  · intro x goes
    refine ⟨fun hl hf => ⟨execActorDataFiring_goes_on hk hl hf, fun i op eff o hi he u hu => ?_⟩, fun hl hf hm => ?_,
      fun hf h => execActorDataFiring_still hf (mayFire_of_not h), fun now a b => ?_, fun hl hv hd hh hf m rest hm hp => ?_,
      execWindowWriteApply_applies, fun h => ?_, fun h => ?_⟩
    · rw [exec_of_actorEff he, actorWord_running hk hfo hl hf] at hu
      injection hu with hu
      rw [runBlock_word hf hi he, hu] <;> rfl
    · intro g hg
      exact execActorDataFiring_begins hk hl hf hm hg
    · intro before since late
      refine ⟨slotBefore_late, slotBefore_early, fun hw h => ?_, fun hw h1 h2 => ?_, fun hw h1 h2 h3 => ?_,
        fun hw h1 h2 h3 => ?_⟩
      all_goals refine (slotBefore_alike hw).trans ?_
      · exact (if_pos (Nat.ne_of_lt h)).trans (decide_eq_true h)
      all_goals refine (if_neg (not_not.mpr h1)).trans ?_
      · exact (if_pos (Nat.ne_of_gt h2)).trans (decide_eq_true h2)
      all_goals refine (if_neg (not_not.mpr h2.symm)).trans ?_
      · exact (if_pos (Nat.ne_of_lt h3)).trans (decide_eq_true h3)
      · exact if_neg (not_not.mpr h3)
    · exact ⟨execMarkerStep_disagree hk hl hv hd hh hf hm hp,
        fun ha ht h1 hc hr => execMarkerStep_passes hk hl hv hd hh hf hm hp ha ht h1 hc hr,
        fun ha ht h1 hc hr => execMarkerStep_closes hk hl hv hd hh hf hm hp ha ht h1 hc hr⟩
    · exact (execFiringWeightUpdate_eq hk).trans (congrArg _ (if_neg h))
    · exact (execFiringWeightUpdate_eq hk).trans (congrArg _ (if_pos h))
  · intro x pend y last fits
    refine ⟨commitFiring_misses hf, fun h => ?_⟩
    have hy : y = (commitSlot s n x f).noteReady s.cycle := slotAt_commitFiring hk hf hw hs h
    obtain ⟨h1, h2, h3, h4, h5⟩ := noteReady_fields (commitSlot s n x f) s.cycle
    obtain ⟨-, -, c3, c4, c5⟩ := commitSlot_fields (s := s) (n := n) (f := f) x
    have hp (p : Nat) : y.port p = (movePorts s n x f).port p := by
      rw [hy, Slot.port, h5, commitSlot_ports, ← Slot.port]
    refine ⟨(congrArg Slot.firing hy).trans h1, (congrArg Slot.halted hy).trans (h2.trans c3), fun r => ?_, fun r => ?_, fun p hp4 => ?_, fun p hp4 => ?_⟩
    · rw [hy, h3, c4]
      exact heldOf_foldl _ _ _
    · rw [hy, h4, c5]
      exact heldOf_foldl _ _ _
    · rw [hp, movePorts_in x hp4]
      exact ⟨rfl, rfl, rfl⟩
    · rw [hp, movePorts_out x hp4, publishPort_head]
      refine ⟨rfl, fun hm => ?_⟩
      rw [publishPort_unmarked s n x p hm]
      exact ⟨foldl_putStaged_fill _ _ _ _ _ _ _, fun ht hc j hj => foldl_putStaged_slots _ _ _ _ _ ht hc hj⟩

end Sys2Proof.Machine
end

section
/-! SUPPORT. One instruction of a firing that runs: its operands, its absence, and what becomes of its effect
(R286, R288, R307). -/

namespace Sys2Proof.Machine

/-! ### The place in the block that a firing has come to -/

/-- The firing of a slot, where there is one, has come to instruction `i`. -/
def AtIdx (s : State) (n : NodeRef) (i : Nat) : Prop := ∀ g, (s.slotAt n).firing = some g → g.idx = i

theorem updFiring_none {s : State} {n : NodeRef} (hx : s.inst n.inst = none) (h : Firing → Firing) :
    (s.updFiring n h).slotAt n = s.slotAt n := by
  unfold State.updFiring State.updSlot State.setCellAt State.slotAt State.cellAt
  rw [State.inst_updInst_self, hx]
  rfl

theorem firing_updFiring {s : State} {n : NodeRef} {h : Firing → Firing} {g : Firing}
    (hg : ((s.updFiring n h).slotAt n).firing = some g) : ∃ f, (s.slotAt n).firing = some f ∧ (g = h f ∨ g = f) := by
  cases hx : s.inst n.inst with
  | none =>
    rw [updFiring_none hx] at hg
    exact ⟨g, hg, .inr rfl⟩
  | some x =>
    rw [State.updFiring, slotAt_updSlot hx] at hg
    obtain ⟨f, hf, rfl⟩ := Option.map_eq_some_iff.mp hg
    exact ⟨f, hf, .inl rfl⟩

theorem AtIdx.updFiring {s : State} {n : NodeRef} {i : Nat} (hs : AtIdx s n i) {h : Firing → Firing}
    (hh : ∀ f, (h f).idx = f.idx) : AtIdx (s.updFiring n h) n i := by
  intro g hg
  obtain ⟨f, hf, rfl | rfl⟩ := firing_updFiring hg
  · exact (hh f).trans (hs f hf)
  · exact hs g hf

theorem updFiring_congr {s : State} {n : NodeRef} {h k : Firing → Firing}
    (hk : ∀ f, (s.slotAt n).firing = some f → h f = k f) : s.updFiring n h = s.updFiring n k := by
  unfold State.updFiring State.updSlot
  dsimp only
  have : (s.slotAt n).firing.map h = (s.slotAt n).firing.map k := by
    cases hf : (s.slotAt n).firing with
    | none => rfl
    | some f => exact congrArg some (hk f hf)
  rw [State.slotAt] at this
  rw [this]

theorem AtIdx.stage {s : State} {n : NodeRef} {i : Nat} (hs : AtIdx s n i) (p j : Nat) (v : Val) (tag : Option W64) :
    AtIdx (stage s n p j v tag) n i := by
  unfold Machine.stage
  exact hs.updFiring fun _ => rfl

theorem AtIdx.addPend {s : State} {n : NodeRef} {i : Nat} (hs : AtIdx s n i) (p k : Nat) : AtIdx (addPend s n p k) n i := by
  unfold Machine.addPend
  exact hs.updFiring fun _ => rfl

theorem AtIdx.publish {s t : State} {n : NodeRef} {i : Nat} (hs : AtIdx s n i) {p : Nat} {v : Val} {tag : Option W64}
    (h : publish s n p v tag = .ok t) : AtIdx t n i := by
  unfold Machine.publish at h
  dsimp only at h
  split at h
  · cases h
    exact (hs.stage _ _ _ _).addPend _ _
  · cases h

theorem AtIdx.deliverTo {s t : State} {n : NodeRef} {i : Nat} (hs : AtIdx s n i) {tw : BitVec 11} {v : Val}
    (h : deliverTo s n tw (some v) = .ok t) : AtIdx t n i := by
  unfold Machine.deliverTo at h
  dsimp only at h
  split at h
  · cases h
    exact hs
  · cases h
    exact hs.updFiring fun _ => rfl
  · cases h
    exact hs
  · exact hs.publish h
  · cases h
    refine hs.updFiring fun f => ?_
    split <;> rfl

/-! ### An instruction's operands -/

/-- Operand `k` of the instruction that a firing has come to, at a lane width where it is absent. -/
def Firing.operand (f : Firing) (w k : Nat) : Val := ((opSlot f f.idx k).getD none).getD (Val.none_ w)

theorem Firing.has.operand {f : Firing} {k : Nat} {v : Val} (h : f.has k v) (w : Nat) : f.operand w k = v := by
  unfold Firing.operand
  rw [h]
  rfl

/-- The operands of the instruction that a firing has come to. -/
def Firing.fx (f : Firing) (n : NodeRef) (w : Nat) : Fx :=
  { n := n, i := f.idx, a := f.operand w 0, b := f.operand w 1, c := f.operand w 2 }

/-- Whether an operand that is read is poisoned. -/
def Firing.taint (f : Firing) (w reads : Nat) : Bool :=
  (List.range 3).any fun k => reads.testBit k && (f.operand w k).poison

/-- The operands that an instruction reads are there. -/
def Firing.reads (f : Firing) (r : Nat) : Prop := ∀ k, k < 3 → r.testBit k = true → ∃ v, f.has k v

theorem Firing.reads_none (f : Firing) : f.reads 0 := fun k _ h => absurd h (by simp)
theorem Firing.has.reads {f : Firing} {a : Val} (h : f.has 0 a) : f.reads 1 := by
  intro k hk hr
  interval_cases k
  · exact ⟨a, h⟩
  · exact absurd hr (by decide)
  · exact absurd hr (by decide)
theorem Firing.has.reads_both {f : Firing} {a b : Val} (h : f.has 0 a) (h' : f.has 1 b) : f.reads 3 := by
  intro k hk hr
  interval_cases k
  · exact ⟨a, h⟩
  · exact ⟨b, h'⟩
  · exact absurd hr (by decide)

theorem Firing.has.taint {f : Firing} {a : Val} (h : f.has 0 a) (w : Nat) : f.taint w 1 = a.poison := by
  have hr : List.range 3 = [0, 1, 2] := rfl
  simp [Firing.taint, hr, h.operand w, Nat.testBit]

theorem Firing.has.taint_both {f : Firing} {a b : Val} (h : f.has 0 a) (h' : f.has 1 b) (w : Nat) :
    f.taint w 3 = (a.poison || b.poison) := by
  have hr : List.range 3 = [0, 1, 2] := rfl
  simp [Firing.taint, hr, h.operand w, h'.operand w, Nat.testBit]

theorem Firing.taint_none (f : Firing) (w : Nat) : f.taint w 0 = false := by
  simp [Firing.taint]

/-! ### The instruction of a firing that runs -/

section Runs
variable {s : State} {n : NodeRef} {f : Firing} {o : ActorOp} (h : Running s n f o)
include h

theorem Running.guard_clean : (o.pred != 0 && (match opSlot f f.idx 3 with
    | some (some v) => v.poison
    | _ => false)) = false := by
  rcases h.guard with hp | ⟨v, hv, hp, -⟩
  · rw [hp]
    rfl
  · rw [hv]
    simp [hp]

theorem Running.not_absent {reads : Nat} (hr : f.reads reads) : isAbsent f f.idx reads o.pred = false := by
  have ho : ((List.range 3).any fun k => reads.testBit k && (opSlot f f.idx k == some none || opSlot f f.idx k == none)) =
      false := by
    rw [List.any_eq_false]
    intro k hk hc
    rw [Bool.and_eq_true] at hc
    obtain ⟨v, hv⟩ := hr k (List.mem_range.mp hk) hc.1
    rw [show opSlot f f.idx k = some (some v) from hv] at hc
    exact absurd hc.2 (by simp)
  unfold isAbsent
  dsimp only
  rw [ho, Bool.or_false]
  rcases h.guard with hp | ⟨v, hv, -, h1, h2⟩
  · rw [hp]
    rfl
  · rw [hv]
    have hn : (some (some v) == some none || some (some v) == (none : Option (Option Val))) = false := by simp
    rw [hn]
    dsimp only
    by_cases hp1 : o.pred = 1
    · rw [h1 hp1, hp1]
      rfl
    · by_cases hp2 : o.pred = 2
      · rw [h2 hp2, hp2]
        rfl
      · rw [beq_false_of_ne hp1, beq_false_of_ne hp2]
        rfl

theorem Running.firingAt : s.firingAt n = f := by
  rw [State.firingAt, h.firing]
  rfl

theorem Running.exec_eq {i : Instr} {op : Nat} {eff : Eff} (he : actorEff i = some (op, eff, o)) :
    exec i s = .next (stepFiring n op eff o s) :=
  (exec_of_actorEff he s).trans (actorWord_running h.actor h.focus h.live h.firing op eff o)

variable {op : Nat} {eff : Eff} (hr : f.reads (slotsRead op o.flags.toNat))
include hr

/-- What an instruction's effect makes of the state, its value to be delivered. -/
theorem Running.runInstr_eq : runInstr n op eff o s = (do
    let (r, t) ← eff (f.fx n (s.slotAt n).width) o s
    let next (t : State) : State := t.updFiring n fun g =>
      { g with idx := f.idx + 1, waiting := false, last := some f.idx }
    match r with
    | none => .ok (next t)
    | some v => afterAccess t do
      let t ← deliverTo t n o.t0 (some (v.tainted (f.taint (s.slotAt n).width (slotsRead op o.flags.toNat))))
      let t ← deliverTo t n o.t1 (some (v.tainted (f.taint (s.slotAt n).width (slotsRead op o.flags.toNat))))
      .ok (next t)) := by
  unfold runInstr
  dsimp only
  rw [h.firingAt]
  rw [if_neg (by exact ne_true_of_eq_false h.guard_clean), if_neg (by rw [h.not_absent hr]; decide)]
  rfl

end Runs

/-- The firing of a node has fired its instruction and goes on. -/
theorem stepFiring_of_ok {s t : State} {n : NodeRef} {op : Nat} {eff : Eff} {o : ActorOp} {i : Nat} (ht : AtIdx t n i)
    (h : runInstr n op eff o s = .ok (t.updFiring n fun g => { g with idx := i + 1, waiting := false, last := some i })) :
    stepFiring n op eff o s = t.goOn n := by
  unfold stepFiring State.goOn
  rw [h]
  dsimp only
  rw [updFiring_congr (h := fun g => { g with idx := i + 1, waiting := false, last := some i })
    (k := fun g => { g with idx := g.idx + 1, waiting := false, last := if true then some g.idx else g.last })
    fun g hg => by rw [ht g hg]; rfl]

section Runs
variable {s : State} {n : NodeRef} {f : Firing} {o : ActorOp} (h : Running s n f o) {i : Instr} {op : Nat} {eff : Eff}
  (he : actorEff i = some (op, eff, o)) (hr : f.reads (slotsRead op o.flags.toNat))
include h he hr

theorem Running.effects {t : State} (hE : eff (f.fx n (s.slotAt n).width) o s = .ok (none, t)) (ht : AtIdx t n f.idx) :
    Effects i s n t := by
  refine (h.exec_eq he).trans (congrArg _ (stepFiring_of_ok ht ?_))
  rw [h.runInstr_eq hr, hE]
  rfl

theorem Running.yieldsFrom {u : State} {v w : Val} (hE : eff (f.fx n (s.slotAt n).width) o s = .ok (some v, u))
    (hu : AtIdx u n f.idx) (hw : v.tainted (f.taint (s.slotAt n).width (slotsRead op o.flags.toNat)) = w) :
    YieldsFrom i o s u n w := by
  intro t ht t' ht'
  refine (h.exec_eq he).trans (congrArg _ (stepFiring_of_ok ((hu.deliverTo ht).deliverTo ht') ?_))
  rw [h.runInstr_eq hr, hE]
  simp only [bind, Except.bind, hw, ht, ht', afterAccess]

theorem Running.halts {t : Trap} (hE : eff (f.fx n (s.slotAt n).width) o s = .error (.trap t)) : Halts i s n t := by
  refine (h.exec_eq he).trans (congrArg _ ?_)
  unfold stepFiring
  rw [h.runInstr_eq hr, hE]
  rfl

omit he hr in
theorem Running.atIdx : AtIdx s n f.idx := by
  intro g hg
  rw [Option.some.inj (hg.symm.trans h.firing)]

end Runs

end Sys2Proof.Machine
end

section
/-! SUPPORT. O31: what an access of a slot leaves of the firings of slots, wherever it lands (R111 to R116, R302), and the
memory and token instructions of actors (R302 to R304). -/

namespace Sys2Proof.Machine

/-! ### Operations that leave every firing, and the launch of every placed graph, as they are -/

/-- Every slot has the firing, and every placed graph the launch, that it had. -/
structure KeepsFirings (s t : State) : Prop where
  firing : ∀ m, (t.slotAt m).firing = (s.slotAt m).firing
  launch : ∀ i, t.instLaunch i = s.instLaunch i

namespace KeepsFirings
variable {s t u : State}

theorem refl (s : State) : KeepsFirings s s := ⟨fun _ => rfl, fun _ => rfl⟩
theorem trans (h : KeepsFirings s t) (k : KeepsFirings t u) : KeepsFirings s u :=
  ⟨fun m => (k.firing m).trans (h.firing m), fun i => (k.launch i).trans (h.launch i)⟩

theorem of_insts (h : t.insts = s.insts) : KeepsFirings s t :=
  ⟨fun m => congrArg Slot.firing (slotAt_of_insts h m), fun i => by unfold State.instLaunch State.inst; rw [h]⟩

theorem atIdx (h : KeepsFirings s t) {n : NodeRef} {i : Nat} (hs : AtIdx s n i) : AtIdx t n i :=
  fun g hg => hs g ((h.firing n).symm.trans hg)

theorem foldl {α : Type} {f : State → α → State} (hf : ∀ s a, KeepsFirings s (f s a)) (l : List α) (s : State) :
    KeepsFirings s (l.foldl f s) :=
  List.foldlRecOn (motive := KeepsFirings s) l f (.refl s) fun t h a _ => h.trans (hf t a)

theorem foldlM {α : Type} {f : State → α → Except Stop State} (hf : ∀ s a t, f s a = .ok t → KeepsFirings s t)
    (l : List α) {s t : State} (h : l.foldlM f s = .ok t) : KeepsFirings s t := by
  induction l generalizing s with
  | nil =>
    cases h
    exact .refl _
  | cons a l ih =>
    rw [List.foldlM_cons] at h
    cases hs : f s a with
    | error e => rw [hs] at h; cases h
    | ok u =>
      rw [hs] at h
      exact (hf s a u hs).trans (ih h)

theorem setCellAt {n : NodeRef} {c : Cell} (hc : ∀ a, (c.slot a).firing = ((s.cellAt n).slot a).firing) :
    KeepsFirings s (s.setCellAt n c) := by
  refine ⟨fun m => ?_, fun i => instLaunch_updInst _ _ _ fun _ => rfl⟩
  by_cases hm : m.inst ≠ n.inst ∨ 16 * m.page + m.cell ≠ 16 * n.page + n.cell
  · rw [State.slotAt, cellAt_setCellAt_apart hm]
    rfl
  · obtain ⟨hi, hp⟩ : m.inst = n.inst ∧ 16 * m.page + m.cell = 16 * n.page + n.cell := by simpa using hm
    have hcell (u : State) : u.cellAt m = u.cellAt n := by
      unfold State.cellAt Inst.cell
      rw [hi, hp]
    rw [State.slotAt, State.slotAt, hcell, hcell, ← hc]
    cases hx : s.inst n.inst with
    | some x => rw [cellAt_setCellAt hx]
    | none =>
      rw [hc]
      unfold State.setCellAt State.cellAt
      rw [State.inst_updInst_self, hx]
      rfl

/-- A cell whose slots stay as they are. -/
theorem setCellAt_slots {n : NodeRef} {c : Cell} (hc : c.slots = (s.cellAt n).slots) : KeepsFirings s (s.setCellAt n c) :=
  .setCellAt fun a => by rw [Cell.slot, hc]; rfl

theorem of_memWrites (h : MemWrites s t) : KeepsFirings s t := .of_insts h.insts
theorem of_launchesOnly (h : LaunchesOnly s t) : KeepsFirings s t := .of_insts h.insts

end KeepsFirings

theorem cellOfHam_cell {s : State} {h cell : Nat} {n : NodeRef} {c : Cell} (hc : cellOfHam s h cell = some (n, c)) :
    c = s.cellAt n := by
  unfold cellOfHam at hc
  split at hc
  · cases hc
    rfl
  · cases hc

/-! ### Register windows: a write to a slot whose firing is under way is queued (R112) -/

/-- A slot after a doubleword of its window has been written, or has been queued where its firing is under way. -/
def queueWrite (x : Slot) (so : Nat) (v : W64) (w : WinWrite) : Slot :=
  if x.firing.isNone then slotPut x so v else { x with writes := x.writes ++ [w] }

theorem queueWrite_firing (x : Slot) (so : Nat) (v : W64) (w : WinWrite) : (queueWrite x so v w).firing = x.firing := by
  unfold queueWrite
  split
  · exact slotPut_firing ..
  · rfl

theorem keepsFirings_setSlot {s : State} (n : NodeRef) (a : Nat) {x : Slot} (hx : x.firing = ((s.cellAt n).slot a).firing) :
    KeepsFirings s (s.setCellAt n { s.cellAt n with slots := mset (s.cellAt n).slots a x }) := by
  refine .setCellAt fun b => ?_
  unfold Cell.slot
  rw [mget_mset]
  by_cases hb : b = a
  · rw [if_pos hb, hb]
    exact hx
  · rw [if_neg hb]

theorem keepsFirings_writeWinWord (s : State) (h cell o : Nat) (bs : List Byte) (skip : List (Nat × Nat × Nat)) :
    KeepsFirings s (writeWinWord s h cell o bs skip) := by
  unfold writeWinWord
  cases hc : cellOfHam s h cell with
  | none => exact .refl s
  | some e =>
    obtain ⟨n, c⟩ := e
    obtain rfl := cellOfHam_cell hc
    have hput (a so : Nat) (v : W64) (w : WinWrite) := keepsFirings_setSlot (s := s) n a (queueWrite_firing _ so v w)
    dsimp only
    split
    · split
      · exact .setCellAt_slots rfl
      · exact .setCellAt_slots (by split <;> rfl)
    · split
      · exact .setCellAt_slots rfl
      · split
        · split
          · exact .refl s
          · exact .refl s
          · split
            · exact .refl s
            · exact hput ..
          · exact hput ..
        · exact .refl s

theorem keepsFirings_writeWin (s : State) (h cell o : Nat) (bs : List Byte) : KeepsFirings s (writeWin s h cell o bs) := by
  have hp : KeepsFirings s (writeWinParts s h cell o bs (foreignSlots s h cell o bs)) :=
    (keepsFirings_writeWinWord ..).trans (.foldl (fun t _ => keepsFirings_writeWinWord t ..) _ _)
  unfold writeWin
  extract_lets bad t
  split
  · refine hp.trans (.foldl (fun u k => ?_) _ _)
    exact (KeepsFirings.of_launchesOnly (launchesOnly_recordFault ..)).trans (.of_memWrites (memWrites_count ..))
  · exact hp

/-! ### The other places of an access -/

theorem keepsFirings_writeAcc (s : State) (h cell o : Nat) (bs : List Byte) : KeepsFirings s (writeAcc s h cell o bs) := by
  induction bs generalizing s o with
  | nil => exact .refl s
  | cons b bs ih => exact KeepsFirings.trans (t := s.setAcc _ _) (.of_insts rfl) (ih _ _)

theorem keepsFirings_writeCtl (s : State) (h o : Nat) (v : W64) : KeepsFirings s (writeCtl s h o v) := by
  refine .of_insts ?_
  unfold writeCtl
  dsimp only
  split_ifs <;> rfl

theorem keepsFirings_writeMmio (s : State) (o : Nat) (v : W64) : KeepsFirings s (writeMmio s o v) := by
  refine .of_insts ?_
  unfold writeMmio
  dsimp only
  split <;> rfl

theorem keepsFirings_byWords {f : State → Nat → Nat → List Byte → State} (hf : ∀ s o k bs, KeepsFirings s (f s o k bs))
    (o : Nat) (bs : List Byte) (s : State) : KeepsFirings s (byWords f o bs s) :=
  (hf s _ _ _).trans (.foldl (fun t _ => hf t _ _ _) _ _)

theorem keepsFirings_storeLoc {s t : State} {x : Acx} {l : Loc} {bs : List Byte} {full zero : Bool}
    (h : storeLoc s x l bs full zero = .ok t) : KeepsFirings s t := by
  cases l with
  | phys a =>
    cases h
    exact .of_memWrites (memWrites_storePhys ..)
  | win h c o =>
    cases h
    exact keepsFirings_writeWin ..
  | acc k c o =>
    unfold storeLoc at h
    dsimp only at h
    split at h
    · cases h
    · cases h
      exact keepsFirings_writeAcc ..
  | ctl k o =>
    cases h
    exact keepsFirings_byWords (fun s o k bs => keepsFirings_writeCtl ..) _ _ _
  | mmio o =>
    cases h
    exact keepsFirings_byWords (fun s o k bs => keepsFirings_writeMmio ..) _ _ _
  | peer a ea m =>
    cases h
    exact .of_insts rfl

theorem keepsFirings_loadLoc {s : State} {x : Acx} {l : Loc} {n : Nat} {v : List Byte × State}
    (h : loadLoc s x l n = .ok v) : KeepsFirings s v.2 := by
  cases l with
  | phys a => exact .of_memWrites (memWrites_loadPhys h)
  | acc k c o =>
    unfold loadLoc at h
    dsimp only at h
    split at h
    · cases h
    · cases h
      exact .refl s
  | peer a ea m =>
    unfold loadLoc at h
    dsimp only at h
    cases hp : peerAnswer s x a ea m (.load n) with
    | error e => rw [hp] at h; cases h
    | ok bs => rw [hp] at h; cases h; exact .refl s
  | win | ctl | mmio =>
    cases h
    exact .refl s

theorem keepsFirings_writeMasked {s t : State} {x : Acx} {l : Loc} {on : List Bool} {bs : List Byte} {full : Bool}
    (h : writeMasked s x l on bs full = .ok t) : KeepsFirings s t := by
  cases l with
  | phys a =>
    cases h
    exact .foldl (fun s _ => .of_memWrites (memWrites_storePhys ..)) _ _
  | win k c o =>
    cases h
    exact .foldl (fun s _ => keepsFirings_writeWin ..) _ _
  | peer a ea m =>
    cases h
    refine .foldl (fun s r => ?_) _ _
    exact .of_insts rfl
  | acc | ctl | mmio => exact .foldlM (fun _ _ _ h => keepsFirings_storeLoc h) _ h

/-- A computation that completes has its first part complete. -/
theorem exists_of_bind_ok {α β : Type} {x : Except Stop α} {g : α → Except Stop β} {b : β} (h : (x >>= g) = .ok b) :
    ∃ a, x = .ok a ∧ g a = .ok b := by
  cases x with
  | error e => cases h
  | ok a => exact ⟨a, rfl, h⟩

/-! ### Updates, records and synchronising reads -/

theorem keepsFirings_recordPoison (s : State) (c : Nat) (t : Trap) : KeepsFirings s (recordPoison s c t) := by
  refine .of_insts ?_
  unfold recordPoison
  dsimp only
  split <;> rfl

theorem keepsFirings_leftFault (s : State) (who : Who) (ctx vf l : Nat) (t : Trap) :
    KeepsFirings s (leftFault s who ctx vf l t) := by
  unfold leftFault
  extract_lets u
  have hu : KeepsFirings s u := by
    unfold u
    split
    · exact .refl s
    · exact keepsFirings_recordPoison ..
  exact hu.trans (.of_launchesOnly (launchesOnly_recordFault ..))

theorem performedBy_actor {s : State} {n : NodeRef} (hk : (s.cellAt n).kind = .actor) : performedBy s (.node n) = s :=
  if_neg (by rw [hk]; decide)

/-- An update of an actor slot at its word. -/
theorem keepsFirings_applyUpd {s : State} {n : NodeRef} (hk : (s.cellAt n).kind = .actor) (a : Nat) (u : Upd) :
    KeepsFirings s (applyUpd s a u [.node n]) := by
  unfold applyUpd
  cases hl : loadPhys s u.vf a u.n with
  | ok v =>
    obtain ⟨bs, t⟩ := v
    dsimp only
    rw [List.foldl_cons, List.foldl_nil]
    have hw := (memWrites_loadPhys hl).trans
      (memWrites_storePhys t u.vf a (leBytes u.n (reduceOpN u.n u.op (leNat bs) u.val.toNat)) u.full false)
    rw [performedBy_actor (by rw [cellAt_of_insts hw.insts]; exact hk)]
    exact .of_memWrites hw
  | error e =>
    cases e with
    | trap t => exact keepsFirings_leftFault ..
    | _ => exact .refl s

theorem keepsFirings_sendUpd {s t : State} {n : NodeRef} (hk : (s.cellAt n).kind = .actor) {l : Loc} {u : Upd}
    (hu : u.src = .node n) (h : sendUpd s l u = .ok t) : KeepsFirings s t := by
  cases l with
  | phys a =>
    unfold sendUpd at h
    dsimp only at h
    rw [hu] at h
    split at h
    · split at h
      · cases h
      · cases h
        exact .of_insts rfl
    · cases h
      exact keepsFirings_applyUpd hk ..
  | peer a ea m =>
    cases h
    exact .of_insts rfl
  | win | acc | ctl | mmio =>
    unfold sendUpd at h
    dsimp only at h
    obtain ⟨v, hv, hs⟩ := exists_of_bind_ok h
    exact (keepsFirings_loadLoc hv).trans (keepsFirings_storeLoc hs)

theorem keepsFirings_syncRead {s : State} {x : Acx} {a : Nat} {consume : Bool} {v : W64 × State}
    (h : syncRead s x a consume = .ok v) : KeepsFirings s v.2 := by
  unfold syncRead at h
  dsimp only at h
  split at h
  · split at h
    · cases h
    · cases h
      exact .refl s
  · split at h
    · cases h
    · obtain ⟨w, hw, hv⟩ := exists_of_bind_ok h
      cases hv
      refine (KeepsFirings.of_memWrites (memWrites_loadPhys hw)).trans (.of_insts ?_)
      dsimp only
      split <;> rfl

/-! ### Sample records (R187, R205) -/

theorem memWrites_setVf (s : State) (v : Nat) (x : Vf) : MemWrites s (s.setVf v x) := ⟨s.mem, s.waiters, s.gifts, _, rfl⟩

theorem memWrites_crierPut (s : State) (vf : Nat) (bytes : List Byte) : MemWrites s (crierPut s vf bytes) := by
  unfold crierPut
  extract_lets v a t
  refine .trans ?_ (memWrites_setVf t vf _)
  unfold t
  split
  · exact (memWrites_mem s _).trans (memWrites_countWrite ..)
  · exact .refl s

theorem memWrites_crierFlush (s : State) (vf : Nat) : MemWrites s (crierFlush s vf) := by
  unfold crierFlush
  extract_lets v
  split
  · exact .refl s
  · exact (memWrites_crierPut ..).trans (memWrites_setVf ..)

theorem memWrites_crier (s : State) (vf code h cell slot : Nat) (lid : BitVec 32) (pay : List Byte) (forced : Bool) :
    MemWrites s (crier s vf code h cell slot lid pay forced) := by
  unfold crier
  extract_lets v t w u
  split
  · exact .refl s
  · refine (memWrites_crierFlush s vf).trans ?_
    split
    · exact memWrites_crierPut ..
    · have hu : MemWrites t u := by
        unfold u
        split
        · exact memWrites_setVf ..
        · exact .refl t
      exact (hu.trans (memWrites_setVf ..)).trans (memWrites_count ..)

theorem memWrites_crierAt (s : State) (l code h cell slot : Nat) (pay : List Byte) :
    MemWrites s (crierAt s l code h cell slot pay) := by
  unfold crierAt
  split
  · exact memWrites_crier ..
  · exact .refl s

/-! ### Loads and stores of a slot (R302) -/

theorem slotPlaceOf_eq {s : State} {n : NodeRef} (hb : windowBusy s (.node n) = false) (k : Cap) (off : Int) (z : Nat)
    (cl : AClass) (need : Nat) :
    slotPlaceOf s n k off z cl need = access s (s.nodeAcx n) k off z z cl need := by
  have hw (a z : Nat) : windowHolds s (.node n) a z = false := by
    unfold windowBusy at hb
    unfold windowHolds
    rw [List.any_eq_false] at hb ⊢
    intro x hx hu
    obtain ⟨u, hm, hc⟩ := List.any_eq_true.mp hu
    rw [Bool.and_eq_true, Bool.and_eq_true] at hc
    exact hb x hx (List.any_eq_true.mpr ⟨u, hm, hc.1.1⟩)
  unfold slotPlaceOf
  cases access s (s.nodeAcx n) k off z z cl need with
  | error e => rfl
  | ok l =>
    cases l with
    | phys a => exact if_neg (by rw [hw]; decide)
    | _ => rfl

section Loads
variable {s : State} {x : Fx} {o : ActorOp}

theorem effSpld_invalid (ha : x.a.lowValid 32 = false) : effSpld x o s = .ok (some (Val.none_ (s.slotAt x.n).width), s) :=
  if_pos (by rw [ha]; rfl)

theorem effSpldsyn_invalid (ha : x.a.lowValid 32 = false) :
    effSpldsyn x o s = .ok (some (Val.none_ (s.slotAt x.n).width), s) :=
  if_pos (by rw [ha]; rfl)

/-- A poisoned operand of a store. -/
theorem effSpst_poison (h : (x.a.poison || x.b.poison) = true) :
    effSpst x o s = .error (.trap (poisonFault s (s.instCtx x.n.inst).1)) := by
  unfold effSpst storePoison
  rw [if_pos h]
  rfl

theorem effSpred_poison (h : (x.a.poison || x.b.poison) = true) :
    effSpred x o s = .error (.trap (poisonFault s (s.instCtx x.n.inst).1)) := by
  unfold effSpred storePoison
  rw [if_pos h]
  rfl

section
variable (hp : x.a.poison = false) (hq : x.b.poison = false) (hv : x.b.lowValid 32 = false)
include hp hq hv

theorem effSpst_invalid : effSpst x o s = .ok (none, s) := by
  unfold effSpst storePoison
  rw [if_neg (by rw [hp, hq]; decide)]
  exact if_pos (by rw [hv]; rfl)

theorem effSpred_invalid : effSpred x o s = .ok (none, s) := by
  unfold effSpred storePoison
  rw [if_neg (by rw [hp, hq]; decide)]
  exact if_pos (by rw [hv]; rfl)

end

variable {k : Cap} (hk : slotCap s x.n = .ok k) (hb : windowBusy s (.node x.n) = false)
include hk hb

theorem effSpld_eq (ha : x.a.lowValid 32 = true) : effSpld x o s = orPoison s x
    (capRead s (s.nodeAcx x.n) k (k.offset + (natField x.a.low.toNat 0 32 + 64 * o.im : Nat)) 64 64 clLoad >>= fun v =>
      .ok (some { data := BitVec.ofNat 512 (leNat v.1), mask := fullMask (s.slotAt x.n).width
                  width := (s.slotAt x.n).width }, v.2)) := by
  unfold effSpld capRead
  dsimp only
  rw [if_neg (by rw [ha]; decide), hk]
  refine congrArg (orPoison s x) ?_
  show (slotPlaceOf _ _ _ _ _ _ _ >>= _) = _
  rw [slotPlaceOf_eq hb]
  cases access s (s.nodeAcx x.n) k (k.offset + (natField x.a.low.toNat 0 32 + 64 * o.im : Nat)) 64 64 clLoad rR <;> rfl

theorem effSpldsyn_place (ha : x.a.lowValid 32 = true) {pa : Nat} (hl : access s (s.nodeAcx x.n) k
      (k.offset + (natField x.a.low.toNat 0 32 + 8 * o.im : Nat)) 8 8 clSyncLoad rR = .ok (.phys pa))
    {v : W64 × State} (hv : syncRead s (s.nodeAcx x.n) pa o.f0 = .ok v) :
    effSpldsyn x o s = .ok (some (Val.scalar (s.slotAt x.n).width v.1), v.2) := by
  unfold effSpldsyn
  dsimp only
  rw [if_neg (by rw [ha]; decide), hk]
  show orPoison s x (slotPlaceOf _ _ _ _ _ _ _ >>= _) = _
  rw [slotPlaceOf_eq hb, hl]
  show orPoison s x (syncRead _ _ _ _ >>= _) = _
  rw [hv]
  rfl

theorem effSpldsyn_fault (ha : x.a.lowValid 32 = true) {t : Trap} (hl : access s (s.nodeAcx x.n) k
      (k.offset + (natField x.a.low.toNat 0 32 + 8 * o.im : Nat)) 8 8 clSyncLoad rR = .error (.trap t)) :
    effSpldsyn x o s = .ok (poisonLoad s x.n (s.slotAt x.n).width t) := by
  unfold effSpldsyn
  dsimp only
  rw [if_neg (by rw [ha]; decide), hk]
  show orPoison s x (slotPlaceOf _ _ _ _ _ _ _ >>= _) = _
  rw [slotPlaceOf_eq hb, hl]
  rfl

variable (hp : x.a.poison = false) (hq : x.b.poison = false) (hv : x.b.lowValid 32 = true)
include hp hq hv

theorem effSpst_stores {l : Loc} (hl : access s (s.nodeAcx x.n) k
      (k.offset + (natField x.b.low.toNat 0 32 + 64 * o.im : Nat)) 64 64 clStore rW = .ok l)
    {u : State} (hu : writeMasked s (s.nodeAcx x.n) l (byteMask x.a.mask x.a.width) (leBytes 64 x.a.data.toNat) = .ok u) :
    effSpst x o s = .ok (none, if notIdempotent k.space then markDirty u (u.instLaunch x.n.inst) else u) := by
  unfold effSpst storePoison
  rw [if_neg (by rw [hp, hq]; decide)]
  show (if !x.b.lowValid 32 then _ else _) = _
  rw [if_neg (by rw [hv]; decide), hk]
  show orRecord s x (slotPlaceOf _ _ _ _ _ _ _ >>= _) = _
  rw [slotPlaceOf_eq hb, hl]
  show orRecord s x (writeMasked _ _ _ _ _ _ >>= _) = _
  rw [hu]
  rfl

omit hb in
theorem effSpred_sends {l : Loc} (hl : access s (s.nodeAcx x.n) k
      (k.offset + (natField x.b.low.toNat 0 32 + redSize o.ab * o.im : Nat)) (redSize o.ab) (redSize o.ab) clReduce rA =
        .ok l)
    {u : State} (hu : sendUpd s l { src := (s.nodeAcx x.n).who, ctx := (s.nodeAcx x.n).ctx, vf := (s.nodeAcx x.n).vf
                                    launch := s.instLaunch x.n.inst, op := o.ab
                                    val := if redSize o.ab = 4 then x.a.low &&& 0xFFFFFFFF else x.a.low } = .ok u) :
    effSpred x o s = .ok (none, markDirty u (s.instLaunch x.n.inst)) := by
  unfold effSpred storePoison
  rw [if_neg (by rw [hp, hq]; decide)]
  show (if !x.b.lowValid 32 then _ else _) = _
  rw [if_neg (by rw [hv]; decide), hk]
  show orRecord s x (access _ _ _ _ _ _ _ _ >>= _) = _
  rw [hl]
  show orRecord s x (sendUpd _ _ _ >>= _) = _
  rw [hu]
  rfl

end Loads

/-! ### The bytes that a masked store leaves -/

/-- The byte at `c` after the selected ones of a list of bytes, from address `a` on, have been written over `d`. -/
def maskedByte (c : Nat) : Nat → List (Bool × Byte) → Byte → Byte
  | _, [], d => d
  | a, (on, b) :: l, d => maskedByte c (a + 1) l (if on = true ∧ c = a then b else d)

theorem maskedByte_append (c a : Nat) (l m : List (Bool × Byte)) (d : Byte) :
    maskedByte c a (l ++ m) d = maskedByte c (a + l.length) m (maskedByte c a l d) := by
  induction l generalizing a d with
  | nil => rfl
  | cons e l ih =>
    rw [List.cons_append, maskedByte, ih, maskedByte, List.length_cons]
    congr 1
    omega

theorem byte_write_masked (m : Mem) (a c : Nat) (bs : List Byte) :
    (m.write a bs).byte c = maskedByte c a (bs.map (true, ·)) (m.byte c) := by
  induction bs generalizing m a with
  | nil => rfl
  | cons b bs ih =>
    rw [Mem.write, ih, Mem.byte_setByte, List.map_cons, maskedByte]
    simp only [true_and]

theorem maskedByte_below (c a : Nat) (l : List (Bool × Byte)) (d : Byte) (h : c < a) : maskedByte c a l d = d := by
  induction l generalizing a d with
  | nil => rfl
  | cons e l ih => rw [maskedByte, ih _ _ (by omega), if_neg (by omega)]

theorem maskedByte_above (c a : Nat) (l : List (Bool × Byte)) (d : Byte) (h : a + l.length ≤ c) : maskedByte c a l d = d := by
  induction l generalizing a d with
  | nil => rfl
  | cons e l ih =>
    rw [List.length_cons] at h
    rw [maskedByte, ih _ _ (by omega), if_neg (by omega)]

theorem maskedByte_at (a j : Nat) (l : List (Bool × Byte)) (d : Byte) (h : j < l.length) :
    maskedByte (a + j) a l d = if l[j].1 = true then l[j].2 else d := by
  induction l generalizing a j d with
  | nil => exact absurd h (Nat.not_lt_zero j)
  | cons e l ih =>
    rw [maskedByte]
    cases j with
    | zero =>
      rw [maskedByte_below _ _ _ _ (by omega)]
      simp
    | succ j =>
      rw [show a + (j + 1) = a + 1 + j by omega, ih (a + 1) j _ (by simpa using h),
        if_neg (show ¬(e.1 = true ∧ a + 1 + j = a) by omega)]
      rfl

/-- The runs of a masked store write the selected bytes: those of the open run, which is `cur`, and those to come. -/
theorem foldl_runs_byte (vf pa c : Nat) (full : Bool) (i : Nat) (l : List (Bool × Byte)) (cur : List Byte) (s : State)
    (hi : cur.length ≤ i) :
    ((writeMasked.runs i l cur).foldl (fun s r => storePhys s vf (pa + r.1) r.2 full) s).mem.byte c =
      maskedByte c (pa + (i - cur.length)) (cur.map (true, ·) ++ l) (s.mem.byte c) := by
  induction i, l, cur using writeMasked.runs.induct generalizing s with
  | case1 i => rfl
  | case2 i cur hc =>
    rw [writeMasked.runs]
    · rw [List.foldl_cons, List.foldl_nil, storePhys_byte, byte_write_masked, List.append_nil]
    · exact hc
  | case3 i b l cur ih =>
    rw [writeMasked.runs, ih _ (by simpa using hi)]
    simp
  | case4 i b l ih =>
    rw [writeMasked.runs, ih _ (Nat.zero_le _)]
    simp [maskedByte, Nat.add_assoc]
  | case5 i b l cur hc ih =>
    rw [writeMasked.runs]
    · have ha : pa + (i - cur.length) + (cur.map (true, ·)).length + 1 = pa + (i + 1) := by
        rw [List.length_map]
        omega
      rw [List.foldl_cons, ih _ (Nat.zero_le _), storePhys_byte, byte_write_masked]
      show maskedByte c (pa + (i + 1)) l (maskedByte c (pa + (i - cur.length)) (cur.map (true, ·)) _) = _
      rw [maskedByte_append, maskedByte.eq_2, ha, if_neg (by simp)]
    · exact hc

theorem getElem_leBytes (n x j : Nat) (h : j < (leBytes n x).length) : (leBytes n x)[j] = BitVec.ofNat 8 (x / 256 ^ j) := by
  induction n generalizing x j with
  | zero => exact absurd h (Nat.not_lt_zero j)
  | succ n ih =>
    cases j with
    | zero => simp [leBytes]
    | succ j => simp [leBytes, ih, Nat.div_div_eq_div_mul, Nat.pow_succ, Nat.mul_comm]

theorem length_leBytes (n x : Nat) : (leBytes n x).length = n := by
  induction n generalizing x with
  | zero => rfl
  | succ n ih => rw [leBytes, List.length_cons, ih]

theorem getElem_leBytes_field {w : Nat} (x : BitVec w) (n j : Nat) (h : j < (leBytes n x.toNat).length) :
    (leBytes n x.toNat)[j] = field x (8 * j) 8 := by
  rw [getElem_leBytes]
  apply BitVec.eq_of_toNat_eq
  simp [field, Nat.shiftRight_eq_div_pow, Nat.pow_mul]

/-- The bytes after a masked store of 64 bytes in memory. -/
theorem byte_writeMasked {s u : State} {x : Acx} {pa : Nat} {g : Nat → Bool} {v : W512}
    (h : writeMasked s x (.phys pa) ((List.range 64).map g) (leBytes 64 v.toNat) = .ok u) (c : Nat) :
    u.mem.byte c = maskedByte c pa (((List.range 64).map g).zip (leBytes 64 v.toNat)) (s.mem.byte c) := by
  cases h
  exact foldl_runs_byte x.vf pa c false 0 _ [] s (Nat.le_refl 0)

section Bytes
variable {s u : State} {x : Acx} {pa : Nat} {g : Nat → Bool} {v : W512}
  (h : writeMasked s x (.phys pa) ((List.range 64).map g) (leBytes 64 v.toNat) = .ok u)
include h

theorem byte_writeMasked_at {j : Nat} (hj : j < 64) :
    u.mem.byte (pa + j) = if g j then field v (8 * j) 8 else s.mem.byte (pa + j) := by
  rw [byte_writeMasked h, maskedByte_at _ _ _ _ (by simpa [length_leBytes] using hj)]
  simp only [List.getElem_zip, List.getElem_map, List.getElem_range, getElem_leBytes_field]

theorem byte_writeMasked_other {j : Nat} (hj : j < pa ∨ pa + 64 ≤ j) : u.mem.byte j = s.mem.byte j := by
  rw [byte_writeMasked h]
  rcases hj with hj | hj
  · exact maskedByte_below _ _ _ _ hj
  · exact maskedByte_above _ _ _ _ (by simpa [length_leBytes] using hj)

end Bytes

/-! ### Descriptors, tokens, markers and calls (R303, R304) -/

section Tokens
variable {s : State} {x : Fx} {o : ActorOp}

theorem effTidld_eq {f : Firing} (hf : s.firingAt x.n = f) : effTidld x o s = .ok (some (Val.scalar (s.slotAt x.n).width
    (field ((mget f.descs o.ab).getD Desc.raw).bits (64 * o.im) 64)), s) := by
  have hb (d : Desc) (j : Nat) : BitVec.ofNat 64 (d.fld (8 * j) 8) = field d.bits (64 * j) 64 := by
    apply BitVec.eq_of_toNat_eq
    simp [Desc.fld, natField, field, ← Nat.mul_assoc]
  unfold effTidld
  rw [hf]
  dsimp only
  rw [hb]

/-- What EMITCTL makes of the state (R289). -/
def emitted (s : State) (x : Fx) (o : ActorOp) : State :=
  addPend (stage s x.n (o.ab - 4) (pendAt s x.n (4 + (o.ab - 4))) (x.a.tainted x.b.poison) (some x.b.low)) x.n
    (4 + (o.ab - 4)) 1

theorem publish_room {n : NodeRef} {p : Nat} {v : Val} {tag : Option W64}
    (h : pendAt s n (4 + p) < (s.slotAt n).rateOut (s.firingAt n).close p) :
    publish s n p v tag = .ok (addPend (stage s n p (pendAt s n (4 + p)) v tag) n (4 + p) 1) := if_pos h

theorem publish_full {n : NodeRef} {p : Nat} {v : Val} {tag : Option W64}
    (h : (s.slotAt n).rateOut (s.firingAt n).close p ≤ pendAt s n (4 + p)) :
    publish s n p v tag = .error (.trap rateFault) := if_neg (Nat.not_lt.mpr h)

theorem effEmitctl_full (h : (s.slotAt x.n).rateOut (s.firingAt x.n).close (o.ab - 4) ≤ pendAt s x.n (4 + (o.ab - 4))) :
    effEmitctl x o s = .error (.trap rateFault) := by
  unfold effEmitctl
  rw [publish_full h]
  rfl

theorem effEmitctl_room (h : pendAt s x.n (4 + (o.ab - 4)) < (s.slotAt x.n).rateOut (s.firingAt x.n).close (o.ab - 4)) :
    effEmitctl x o s = if o.t0 = 0 ∧ o.t1 = 0 then .ok (none, emitted s x o)
      else .ok (some (freeVal (emitted s x o) ((emitted s x o).slotAt x.n).width).1,
        (freeVal (emitted s x o) ((emitted s x o).slotAt x.n).width).2) := by
  unfold effEmitctl
  rw [publish_room h]
  show (if o.t0 = 0 && o.t1 = 0 then _ else _) = _
  simp only [Bool.and_eq_true, decide_eq_true_eq]
  rfl

theorem effCallreq_pending (h : sidePending s x.n (o.im % 8) = true) : effCallreq x o s = .ok (none, s) := if_pos h

theorem effCallreq_dead (h : sidePending s x.n (o.im % 8) = false)
    (hg : ((s.cellAt x.n).word (16 * x.n.sub + 4 + o.im % 8)).getLsbD 63 = false ∨ liveGraph s (s.instLaunch x.n.inst)
      (((s.cellAt x.n).word (16 * x.n.sub + 4 + o.im % 8)).toNat % 256) = none) : effCallreq x o s = cfgReject 11 := by
  unfold effCallreq
  dsimp only
  rw [if_neg (by rw [h]; decide)]
  refine if_pos ?_
  rw [Bool.or_eq_true, Bool.not_eq_true', Option.isNone_iff_eq_none]
  exact hg

theorem effCallreq_live (h : sidePending s x.n (o.im % 8) = false)
    (he : ((s.cellAt x.n).word (16 * x.n.sub + 4 + o.im % 8)).getLsbD 63 = true) (hg : (liveGraph s (s.instLaunch x.n.inst)
      (((s.cellAt x.n).word (16 * x.n.sub + 4 + o.im % 8)).toNat % 256)).isSome = true) :
    effCallreq x o s = .ok (none, s.updFiring x.n fun f => { f with calls := f.calls ++ [o.im % 8] }) := by
  unfold effCallreq
  dsimp only
  rw [if_neg (by rw [h]; decide)]
  refine if_neg ?_
  rw [Bool.or_eq_true, Bool.not_eq_true', Option.isNone_iff_eq_none]
  rintro (hn | hn)
  · exact absurd (he.symm.trans hn) (by decide)
  · exact absurd (hg.symm.trans (congrArg Option.isSome hn)) (by decide)

end Tokens

/-! ### The width of a slot, and a slot that halts (R307) -/

theorem width_updFiring (s : State) (n : NodeRef) (h : Firing → Firing) :
    ((s.updFiring n h).slotAt n).width = (s.slotAt n).width := by
  cases hx : s.inst n.inst with
  | none => rw [updFiring_none hx]
  | some x =>
    rw [State.updFiring, slotAt_updSlot hx]
    rfl

theorem width_emitted (s : State) (x : Fx) (o : ActorOp) : ((emitted s x o).slotAt x.n).width = (s.slotAt x.n).width := by
  unfold emitted addPend stage
  rw [width_updFiring, width_updFiring]

theorem insts_nodeFault (s : State) (n : NodeRef) (t : Trap) : (nodeFault s n t).insts = s.insts :=
  (launchesOnly_recordFault ..).insts

theorem slotAt_haltSlot {s : State} {n : NodeRef} {x : Inst} (hx : s.inst n.inst = some x) (t : Trap) :
    (haltSlot s n t).slotAt n = { applyWrites { s.slotAt n with firing := none } with halted := true } := by
  unfold haltSlot
  rw [slotAt_of_insts (insts_nodeFault ..), slotAt_updSlot hx]

theorem slotAt_haltSlot_apart {s : State} {m n : NodeRef} (h : SlotApart m n) (t : Trap) :
    (haltSlot s n t).slotAt m = s.slotAt m := by
  unfold haltSlot
  rw [slotAt_of_insts (insts_nodeFault ..), slotAt_updSlot_apart h]

/-! ### The instructions in a firing -/

section Memory
variable {s : State} {n : NodeRef} {f : Firing} {o : ActorOp} {a b : Val} (hr : Running s n f o)
include hr

theorem yields_invalid (ha : f.has 0 a) (hl : a.lowValid 32 = false) (hp : a.poison = false) :
    Yields (.spld o) o s n (Val.none_ (s.slotAt n).width) ∧ Yields (.spldsyn o) o s n (Val.none_ (s.slotAt n).width) := by
  have hA : (f.fx n (s.slotAt n).width).a = a := ha.operand _
  have ht : (Val.none_ (s.slotAt n).width).tainted (f.taint (s.slotAt n).width 1) = Val.none_ (s.slotAt n).width := by
    rw [ha.taint, hp]
    rfl
  exact ⟨hr.yieldsFrom (op := 0x50) rfl ha.reads (effSpld_invalid (hA ▸ hl)) hr.atIdx ht,
    hr.yieldsFrom (op := 0x52) rfl ha.reads (effSpldsyn_invalid (hA ▸ hl)) hr.atIdx ht⟩

theorem halts_storePoison (ha : f.has 0 a) (hb : f.has 1 b) (hp : a.poison = true ∨ b.poison = true) :
    Halts (.spst o) s n (poisonFault s (s.instCtx n.inst).1) ∧ Halts (.spred o) s n (poisonFault s (s.instCtx n.inst).1) := by
  have hP : ((f.fx n (s.slotAt n).width).a.poison || (f.fx n (s.slotAt n).width).b.poison) = true := by
    rw [show (f.fx n (s.slotAt n).width).a = a from ha.operand _, show (f.fx n (s.slotAt n).width).b = b from hb.operand _,
      Bool.or_eq_true]
    exact hp
  exact ⟨hr.halts (op := 0x51) rfl (ha.reads_both hb) (effSpst_poison hP),
    hr.halts (op := 0x53) rfl (ha.reads_both hb) (effSpred_poison hP)⟩

theorem effects_invalid (ha : f.has 0 a) (hb : f.has 1 b) (hp : a.poison = false) (hq : b.poison = false)
    (hl : b.lowValid 32 = false) : Effects (.spst o) s n s ∧ Effects (.spred o) s n s := by
  have hA : (f.fx n (s.slotAt n).width).a = a := ha.operand _
  have hB : (f.fx n (s.slotAt n).width).b = b := hb.operand _
  exact ⟨hr.effects (op := 0x51) rfl (ha.reads_both hb) (effSpst_invalid (hA ▸ hp) (hB ▸ hq) (hB ▸ hl)) hr.atIdx,
    hr.effects (op := 0x53) rfl (ha.reads_both hb) (effSpred_invalid (hA ▸ hp) (hB ▸ hq) (hB ▸ hl)) hr.atIdx⟩

theorem yields_tidld : Yields (.tidld o) o s n
    (Val.scalar (s.slotAt n).width (field ((mget f.descs o.ab).getD Desc.raw).bits (64 * o.im) 64)) := by
  refine hr.yieldsFrom (op := 0x58) rfl f.reads_none (effTidld_eq hr.firingAt) hr.atIdx ?_
  rw [show slotsRead 0x58 o.flags.toNat = 0 from rfl, f.taint_none]
  rfl

/-- A value and a state from an instruction that reads A, whose firing stays at its place. -/
theorem yieldsFrom_load {i : Instr} {op : Nat} {eff : Eff} (he : actorEff i = some (op, eff, o))
    (h1 : slotsRead op o.flags.toNat = 1) (ha : f.has 0 a) {v : Val} {u : State}
    (hE : eff (f.fx n (s.slotAt n).width) o s = .ok (some v, u)) (hu : KeepsFirings s u) :
    YieldsFrom i o s u n (v.tainted a.poison) :=
  hr.yieldsFrom he (h1 ▸ ha.reads) hE (hu.atIdx hr.atIdx) (by rw [h1, ha.taint])

/-- A poisoned value: the fault has entered the poison record. -/
theorem yieldsFrom_fault {i : Instr} {op : Nat} {eff : Eff} (he : actorEff i = some (op, eff, o))
    (h1 : slotsRead op o.flags.toNat = 1) (ha : f.has 0 a) {t : Trap}
    (hE : eff (f.fx n (s.slotAt n).width) o s = .ok (poisonLoad s n (s.slotAt n).width t)) :
    YieldsFrom i o s { recordPoison s (s.instCtx n.inst).1 t with freeCtr := s.freeCtr + 1 } n
      { (Val.scalar (s.slotAt n).width (Config.freeValue s.freeCtr)) with poison := true } := by
  have hc : (recordPoison s (s.instCtx n.inst).1 t).freeCtr = s.freeCtr := by
    unfold recordPoison
    dsimp only
    split <;> rfl
  unfold poisonLoad at hE
  dsimp only at hE
  rw [hc] at hE
  exact yieldsFrom_load hr he h1 ha hE ((keepsFirings_recordPoison ..).trans (.of_insts rfl))

section Place
variable {k : Cap} (hk : slotCap s n = .ok k) (hw : windowBusy s (.node n) = false) (ha : f.has 0 a)
  (hl : a.lowValid 32 = true)
include hk hw ha hl

omit hr in
theorem spld_eq : effSpld (f.fx n (s.slotAt n).width) o s = orPoison s (f.fx n (s.slotAt n).width)
    (capRead s (s.nodeAcx n) k (k.offset + (natField a.low.toNat 0 32 + 64 * o.im : Nat)) 64 64 clLoad >>= fun v =>
      .ok (some { data := BitVec.ofNat 512 (leNat v.1), mask := fullMask (s.slotAt n).width
                  width := (s.slotAt n).width }, v.2)) := by
  have hA : (f.fx n (s.slotAt n).width).a = a := ha.operand _
  rw [effSpld_eq (x := f.fx n (s.slotAt n).width) (o := o) hk hw (hA ▸ hl), hA]
  rfl

theorem yieldsFrom_spld {v : List Byte × State}
    (hv : capRead s (s.nodeAcx n) k (k.offset + (natField a.low.toNat 0 32 + 64 * o.im : Nat)) 64 64 clLoad = .ok v) :
    YieldsFrom (.spld o) o s v.2 n { data := BitVec.ofNat 512 (leNat v.1), mask := fullMask (s.slotAt n).width
                                     width := (s.slotAt n).width, poison := a.poison } := by
  have hE := spld_eq (o := o) hk hw ha hl
  rw [hv] at hE
  obtain ⟨l, -, hl⟩ := exists_of_bind_ok hv
  have h := yieldsFrom_load (i := .spld o) (op := 0x50) hr rfl rfl ha hE (keepsFirings_loadLoc hl)
  rwa [Val.tainted, Bool.false_or] at h

theorem yieldsFrom_spld_fault {t : Trap} (hv : capRead s (s.nodeAcx n) k
      (k.offset + (natField a.low.toNat 0 32 + 64 * o.im : Nat)) 64 64 clLoad = .error (.trap t)) :
    YieldsFrom (.spld o) o s { recordPoison s (s.instCtx n.inst).1 t with freeCtr := s.freeCtr + 1 } n
      { (Val.scalar (s.slotAt n).width (Config.freeValue s.freeCtr)) with poison := true } := by
  have hE := spld_eq (o := o) hk hw ha hl
  rw [hv] at hE
  exact yieldsFrom_fault (op := 0x50) hr rfl rfl ha hE

theorem yieldsFrom_spldsyn {pa : Nat} (hp : access s (s.nodeAcx n) k
      (k.offset + (natField a.low.toNat 0 32 + 8 * o.im : Nat)) 8 8 clSyncLoad rR = .ok (.phys pa))
    {v : W64 × State} (hv : syncRead s (s.nodeAcx n) pa o.f0 = .ok v) :
    YieldsFrom (.spldsyn o) o s v.2 n ((Val.scalar (s.slotAt n).width v.1).tainted a.poison) := by
  have hA : (f.fx n (s.slotAt n).width).a = a := ha.operand _
  have hE := effSpldsyn_place (x := f.fx n (s.slotAt n).width) (o := o) hk hw (hA ▸ hl) (hA ▸ hp) hv
  exact yieldsFrom_load (op := 0x52) hr rfl rfl ha hE (keepsFirings_syncRead hv)

theorem yieldsFrom_spldsyn_fault {t : Trap} (hp : access s (s.nodeAcx n) k
      (k.offset + (natField a.low.toNat 0 32 + 8 * o.im : Nat)) 8 8 clSyncLoad rR = .error (.trap t)) :
    YieldsFrom (.spldsyn o) o s { recordPoison s (s.instCtx n.inst).1 t with freeCtr := s.freeCtr + 1 } n
      { (Val.scalar (s.slotAt n).width (Config.freeValue s.freeCtr)) with poison := true } := by
  have hA : (f.fx n (s.slotAt n).width).a = a := ha.operand _
  have hE := effSpldsyn_fault (x := f.fx n (s.slotAt n).width) (o := o) hk hw (hA ▸ hl) (hA ▸ hp)
  exact yieldsFrom_fault (op := 0x52) hr rfl rfl ha hE

end Place

section Store
variable {k : Cap} (hk : slotCap s n = .ok k) (ha : f.has 0 a) (hb : f.has 1 b) (hp : a.poison = false)
  (hq : b.poison = false) (hl : b.lowValid 32 = true)
include hk ha hb hp hq hl

theorem effects_spst (hw : windowBusy s (.node n) = false) {l : Loc} (hx : access s (s.nodeAcx n) k
      (k.offset + (natField b.low.toNat 0 32 + 64 * o.im : Nat)) 64 64 clStore rW = .ok l)
    {u : State} (hu : writeMasked s (s.nodeAcx n) l (byteMask a.mask a.width) (leBytes 64 a.data.toNat) = .ok u) :
    Effects (.spst o) s n (if notIdempotent k.space then markDirty u (s.instLaunch n.inst) else u) := by
  have hA : (f.fx n (s.slotAt n).width).a = a := ha.operand _
  have hB : (f.fx n (s.slotAt n).width).b = b := hb.operand _
  have hE := effSpst_stores (x := f.fx n (s.slotAt n).width) (o := o) hk hw (hA ▸ hp) (hB ▸ hq) (hB ▸ hl) (hB ▸ hx)
    (hA ▸ hu)
  have hK := keepsFirings_writeMasked hu
  rw [show u.instLaunch (f.fx n (s.slotAt n).width).n.inst = s.instLaunch n.inst from hK.launch _] at hE
  refine hr.effects (op := 0x51) rfl (ha.reads_both hb) hE (hK.trans ?_ |>.atIdx hr.atIdx)
  split
  · exact .of_launchesOnly (launchesOnly_updLaunch ..)
  · exact .refl u

theorem effects_spred {l : Loc} (hx : access s (s.nodeAcx n) k
      (k.offset + (natField b.low.toNat 0 32 + redSize o.ab * o.im : Nat)) (redSize o.ab) (redSize o.ab) clReduce rA =
        .ok l)
    {u : State} (hu : sendUpd s l { src := .node n, ctx := (s.nodeAcx n).ctx, vf := (s.nodeAcx n).vf
                                    launch := s.instLaunch n.inst, op := o.ab
                                    val := if redSize o.ab = 4 then a.low &&& 0xFFFFFFFF else a.low } = .ok u) :
    Effects (.spred o) s n (markDirty u (s.instLaunch n.inst)) := by
  have hA : (f.fx n (s.slotAt n).width).a = a := ha.operand _
  have hB : (f.fx n (s.slotAt n).width).b = b := hb.operand _
  have hE := effSpred_sends (x := f.fx n (s.slotAt n).width) (o := o) hk (hA ▸ hp) (hB ▸ hq) (hB ▸ hl) (hB ▸ hx)
    (hA ▸ hu)
  exact hr.effects (op := 0x53) rfl (ha.reads_both hb) hE
    ((keepsFirings_sendUpd hr.actor rfl hu).trans (.of_launchesOnly (launchesOnly_updLaunch ..)) |>.atIdx hr.atIdx)

end Store

end Memory

theorem keepsFirings_freeVal (s : State) (w : Nat) : KeepsFirings s (freeVal s w).2 := by
  unfold freeVal State.freeBits
  exact .of_insts rfl

section Tokens
variable {s : State} {n : NodeRef} {f : Firing} {o : ActorOp} {a b : Val} (hr : Running s n f o)
include hr

section Emit
variable (ha : f.has 0 a) (hb : f.has 1 b)
include ha hb

theorem emitted_eq : emitted s (f.fx n (s.slotAt n).width) o =
    addPend (stage s n (o.ab - 4) (mgetD f.pend (4 + (o.ab - 4)) 0) (a.tainted b.poison) (some b.low)) n
      (4 + (o.ab - 4)) 1 := by
  have hA : (f.fx n (s.slotAt n).width).a = a := ha.operand _
  have hB : (f.fx n (s.slotAt n).width).b = b := hb.operand _
  unfold emitted pendAt
  rw [hA, hB, show s.firingAt (f.fx n (s.slotAt n).width).n = f from hr.firingAt]
  rfl

omit ha hb in
theorem atIdx_emitted : AtIdx (emitted s (f.fx n (s.slotAt n).width) o) n f.idx :=
  (hr.atIdx.stage _ _ _ _).addPend _ _

omit ha hb in
theorem emit_room_iff : pendAt s (f.fx n (s.slotAt n).width).n (4 + (o.ab - 4)) <
      (s.slotAt (f.fx n (s.slotAt n).width).n).rateOut (s.firingAt (f.fx n (s.slotAt n).width).n).close (o.ab - 4) ↔
    mgetD f.pend (4 + (o.ab - 4)) 0 < (s.slotAt n).rateOut f.close (o.ab - 4) := by
  unfold pendAt
  rw [show s.firingAt (f.fx n (s.slotAt n).width).n = f from hr.firingAt]
  rfl

theorem effects_emitctl (h : mgetD f.pend (4 + (o.ab - 4)) 0 < (s.slotAt n).rateOut f.close (o.ab - 4)) (h0 : o.t0 = 0)
    (h1 : o.t1 = 0) : Effects (.emitctl o) s n (emitted s (f.fx n (s.slotAt n).width) o) :=
  hr.effects (op := 0x60) rfl (ha.reads_both hb) ((effEmitctl_room ((emit_room_iff hr).mpr h)).trans (if_pos ⟨h0, h1⟩))
    (atIdx_emitted hr)

theorem yieldsFrom_emitctl (h : mgetD f.pend (4 + (o.ab - 4)) 0 < (s.slotAt n).rateOut f.close (o.ab - 4))
    (ht : o.t0 ≠ 0 ∨ o.t1 ≠ 0) :
    YieldsFrom (.emitctl o) o s (freeVal (emitted s (f.fx n (s.slotAt n).width) o) (s.slotAt n).width).2 n
      ((freeVal (emitted s (f.fx n (s.slotAt n).width) o) (s.slotAt n).width).1.tainted (a.poison || b.poison)) := by
  have hw : ((emitted s (f.fx n (s.slotAt n).width) o).slotAt (f.fx n (s.slotAt n).width).n).width = (s.slotAt n).width :=
    width_emitted s (f.fx n (s.slotAt n).width) o
  have hE := (effEmitctl_room ((emit_room_iff (o := o) hr).mpr h)).trans (if_neg (by tauto))
  rw [hw] at hE
  refine hr.yieldsFrom (op := 0x60) rfl (ha.reads_both hb) hE ?_ ?_
  · exact (keepsFirings_freeVal ..).atIdx (atIdx_emitted hr)
  · rw [show slotsRead 0x60 o.flags.toNat = 3 from rfl, ha.taint_both hb]

theorem halts_emitctl (h : (s.slotAt n).rateOut f.close (o.ab - 4) ≤ mgetD f.pend (4 + (o.ab - 4)) 0) :
    Halts (.emitctl o) s n rateFault :=
  hr.halts (op := 0x60) rfl (ha.reads_both hb)
    (effEmitctl_full (Nat.not_lt.mp fun hn => absurd ((emit_room_iff hr).mp hn) (Nat.not_lt.mpr h)))

end Emit

theorem effects_mark {kind : TokKind} (hk : markKind (o.im % 8) (natField o.im 3 2) = kind) : Effects (.mark o) s n
    (s.updFiring n fun _ => { f with marks := f.marks ++ [(o.ab - 4, mgetD f.pend (4 + (o.ab - 4)) 0, { kind := kind })] }) := by
  have hu := updFiring_congr (s := s) (n := n)
    (h := fun f => { f with marks := f.marks ++ [(o.ab - 4, mgetD f.pend (4 + (o.ab - 4)) 0, { kind := kind })] })
    (k := fun _ => { f with marks := f.marks ++ [(o.ab - 4, mgetD f.pend (4 + (o.ab - 4)) 0, { kind := kind })] })
    fun g hg => by
      obtain rfl := Option.some.inj (hg.symm.trans hr.firing)
      rfl
  rw [← hu, ← hk]
  exact hr.effects (op := 0x61) rfl f.reads_none rfl (hr.atIdx.updFiring fun _ => rfl)

theorem effects_callreq (hp : sidePending s n (o.im % 8) = false)
    (he : ((s.cellAt n).word (16 * n.sub + 4 + o.im % 8)).getLsbD 63 = true) (hg : (liveGraph s (s.instLaunch n.inst)
      (((s.cellAt n).word (16 * n.sub + 4 + o.im % 8)).toNat % 256)).isSome = true) :
    Effects (.callreq o) s n (s.updFiring n fun _ => { f with calls := f.calls ++ [o.im % 8] }) := by
  have hu := updFiring_congr (s := s) (n := n) (h := fun f => { f with calls := f.calls ++ [o.im % 8] })
    (k := fun _ => { f with calls := f.calls ++ [o.im % 8] }) fun g hg => by
      obtain rfl := Option.some.inj (hg.symm.trans hr.firing)
      rfl
  rw [← hu]
  exact hr.effects (op := 0x63) rfl f.reads_none (effCallreq_live (x := f.fx n (s.slotAt n).width) hp he hg)
    (hr.atIdx.updFiring fun _ => rfl)

theorem effects_actorEvt (ha : f.has 0 a) : Effects (.actorEvt o) s n
    (((crierAt s (s.instLaunch n.inst) 0x11 (s.nodeHam n) n.cell n.sub
      (leBytes 4 (s.slotAt n).blockId ++ [BitVec.ofNat 8 f.idx, 0] ++ leBytes 2 o.im ++ leBytes 8 a.low.toNat)).count
        (s.instCtx n.inst).2 0x090).count (s.instCtx n.inst).2 0x0A0) := by
  have hA : (f.fx n (s.slotAt n).width).a = a := ha.operand _
  refine hr.effects (op := 0x64) (eff := effActorEvt) rfl ha.reads ?_ ((KeepsFirings.of_memWrites
    (((memWrites_crierAt ..).trans (memWrites_count ..)).trans (memWrites_count ..))).atIdx hr.atIdx)
  unfold effActorEvt
  rw [hA]
  rfl

end Tokens

/-- Settles O31: each instruction's effect, then the firing goes on. -/
theorem actorMemoryAndTokens : Obligations.ActorMemoryAndTokens := by
  refine ⟨fun s n f o a b k pa hr => ?_, fun s n f o a b hr => ?_⟩
  · intro w x ctx im invalid scalar
    refine ⟨fun ha hl hp => yields_invalid hr ha hl hp, fun ha hb hp => halts_storePoison hr ha hb hp,
      fun ha hb hp hq hl => effects_invalid hr ha hb hp hq hl, yields_tidld hr, fun hk hw ha hl => ?_,
      fun hk hw ha hb hp hq hl => ?_⟩
    · intro off poisoned
      exact ⟨fun v hv => yieldsFrom_spld hr hk hw ha hl hv, fun t ht => yieldsFrom_spld_fault hr hk hw ha hl ht,
        fun hx v hv => yieldsFrom_spldsyn hr hk hw ha hl hx hv, fun t ht => yieldsFrom_spldsyn_fault hr hk hw ha hl ht⟩
    · intro off op m dirty write
      refine ⟨fun l hx u hu => effects_spst hr hk ha hb hp hq hl hw hx hu, fun u hu => ?_,
        fun l hx u hu => effects_spred hr hk ha hb hp hq hl hx hu⟩
      exact ⟨fun j hj => byte_writeMasked_at hu hj, fun j hj => byte_writeMasked_other hu hj⟩
  · intro p sent room k vf entry graph pending
    refine ⟨fun ha hb => ?_, fun kind hk => effects_mark hr ?_, fun ha => ?_, fun hp => ?_, fun hp he hg => ?_,
      fun hp hg => ?_, fun ha => effects_actorEvt hr ha, fun t => ?_⟩
    · intro u
      have hu : emitted s (f.fx n (s.slotAt n).width) o = u := emitted_eq hr ha hb
      exact ⟨fun h h0 h1 => hu ▸ effects_emitctl hr ha hb h h0 h1, fun h ht => hu ▸ yieldsFrom_emitctl hr ha hb h ht,
        fun h => halts_emitctl hr ha hb h⟩
    · rcases hk with ⟨h, rfl⟩ | ⟨h, rfl⟩ | ⟨h, rfl⟩
      all_goals rw [show o.im % 8 = _ from h]
      · rw [show natField o.im 3 2 = o.im / 8 % 4 by simp [natField, Nat.shiftRight_eq_div_pow]]
        rfl
      · rfl
      · rfl
    · have hA : (f.fx n (s.slotAt n).width).a = a := ha.operand _
      refine hr.halts (op := 0x62) (eff := effFault) rfl ha.reads ?_
      rw [effFault, hA]
      rfl
    · exact hr.effects (op := 0x63) rfl f.reads_none (effCallreq_pending hp) hr.atIdx
    · exact effects_callreq hr hp he hg
    · exact hr.halts (op := 0x63) rfl f.reads_none (effCallreq_dead (x := f.fx n (s.slotAt n).width) hp hg)
    · intro h
      obtain ⟨x, hx⟩ := inst_of_kind (s := s) (n := n) (by rw [hr.actor]; decide)
      have hs : h.slotAt n = _ := slotAt_haltSlot hx t
      refine ⟨by rw [hs], ?_, fun m hm => slotAt_haltSlot_apart hm t⟩
      rw [hs]
      exact applyWrites_firing _

end Sys2Proof.Machine
end

section
/-! SUPPORT. Instructions that compute a value from their operands alone, and O28: the floating-point instructions of
actors (R297, R298). -/

namespace Sys2Proof.Machine

/-! ### Three operands -/

theorem Firing.has.reads_all {f : Firing} {a b c : Val} (ha : f.has 0 a) (hb : f.has 1 b) (hc : f.has 2 c) : f.reads 7 := by
  intro k hk _
  interval_cases k
  · exact ⟨a, ha⟩
  · exact ⟨b, hb⟩
  · exact ⟨c, hc⟩

theorem Firing.has.taint_all {f : Firing} {a b c : Val} (ha : f.has 0 a) (hb : f.has 1 b) (hc : f.has 2 c) (w : Nat) :
    f.taint w 7 = (a.poison || b.poison || c.poison) := by
  have hr : List.range 3 = [0, 1, 2] := rfl
  simp [Firing.taint, hr, ha.operand w, hb.operand w, hc.operand w, Nat.testBit, Bool.or_assoc]

/-! ### An instruction whose value its operands give

The effect is asked of every operand that the instruction does not read. -/

section Computed
variable {s : State} {n : NodeRef} {f : Firing} {o : ActorOp} (hr : Running s n f o) {i : Instr} {op : Nat} {eff : Eff}
  (he : actorEff i = some (op, eff, o)) {a b c v : Val} (ha : f.has 0 a)
include hr he ha

/-- The value of an instruction that reads A. -/
theorem Running.yields_of_a (h1 : slotsRead op o.flags.toNat = 1)
    (hE : ∀ b c, eff ⟨n, f.idx, a, b, c⟩ o s = .ok (some v, s)) : Yields i o s n (v.tainted a.poison) := by
  have hA : (f.fx n (s.slotAt n).width).a = a := ha.operand _
  refine hr.yieldsFrom he (h1 ▸ ha.reads) (hA ▸ hE _ _) hr.atIdx ?_
  rw [h1, ha.taint]

/-- The value of an instruction that reads A and B. -/
theorem Running.yields_of_ab (h3 : slotsRead op o.flags.toNat = 3) (hb : f.has 1 b)
    (hE : ∀ c, eff ⟨n, f.idx, a, b, c⟩ o s = .ok (some v, s)) : Yields i o s n (v.tainted (a.poison || b.poison)) := by
  have hA : (f.fx n (s.slotAt n).width).a = a := ha.operand _
  have hB : (f.fx n (s.slotAt n).width).b = b := hb.operand _
  refine hr.yieldsFrom he (h3 ▸ ha.reads_both hb) (hA ▸ hB ▸ hE _) hr.atIdx ?_
  rw [h3, ha.taint_both hb]

/-- The value of an instruction that reads A, B and C. -/
theorem Running.yields_of_abc (h7 : slotsRead op o.flags.toNat = 7) (hb : f.has 1 b) (hc : f.has 2 c)
    (hE : eff ⟨n, f.idx, a, b, c⟩ o s = .ok (some v, s)) :
    Yields i o s n (v.tainted (a.poison || b.poison || c.poison)) := by
  have hA : (f.fx n (s.slotAt n).width).a = a := ha.operand _
  have hB : (f.fx n (s.slotAt n).width).b = b := hb.operand _
  have hC : (f.fx n (s.slotAt n).width).c = c := hc.operand _
  refine hr.yieldsFrom he (h7 ▸ ha.reads_all hb hc) (hA ▸ hB ▸ hC ▸ hE) hr.atIdx ?_
  rw [h7, ha.taint_all hb hc]

/-! ### Floating point (R298): exact on the lanes, then one rounding -/

/-- A unary instruction is rounded by nearest even. -/
theorem Running.yields_float1 {g : Num → Num} (hg : eff = effF1 g) (h1 : slotsRead op o.flags.toNat = 1) :
    Yields i o s n ((map1 (etyWidth o.t) (fun x => packF (etyFmt o.t) 0 (g (unpackF (etyFmt o.t) x))) a).tainted
      a.poison) :=
  hr.yields_of_a he ha h1 fun _ _ => by rw [hg]; rfl

/-- A binary instruction is rounded by its mode. -/
theorem Running.yields_float2 {g : Nat → Num → Num → Num} (hg : eff = effF2 g) (h3 : slotsRead op o.flags.toNat = 3)
    (hb : f.has 1 b) :
    Yields i o s n ((map2 (etyWidth o.t)
      (fun x y => packF (etyFmt o.t) o.m (g o.m (unpackF (etyFmt o.t) x) (unpackF (etyFmt o.t) y))) a b).tainted
        (a.poison || b.poison)) :=
  hr.yields_of_ab he ha h3 hb fun _ => by rw [hg]; rfl

end Computed

/-- Settles O28: each instruction is `effF1` or `effF2` of its function, but for FFMA and FRND, which take a third operand
and the flags. -/
theorem actorFloats : Obligations.ActorFloats := by
  intro s n f o a b c hr ha w fmt down un one two
  exact ⟨fun hb => hr.yields_float2 rfl ha (g := fun m => Num.addM (m == 3)) rfl rfl hb,
    fun hb => hr.yields_float2 rfl ha (g := fun m x y => Num.addM (m == 3) x y.neg) rfl rfl hb,
    fun hb => hr.yields_float2 rfl ha (g := fun _ => Num.mul) rfl rfl hb,
    fun hb => hr.yields_float2 rfl ha (g := fun _ => numMin) rfl rfl hb,
    fun hb => hr.yields_float2 rfl ha (g := fun _ => numMax) rfl rfl hb,
    fun hb hc => hr.yields_of_abc (op := 0x23) rfl ha rfl hb hc rfl,
    hr.yields_float1 rfl ha rfl rfl, hr.yields_float1 rfl ha rfl rfl, hr.yields_float1 rfl ha rfl rfl,
    hr.yields_float1 rfl ha rfl rfl, hr.yields_float1 rfl ha rfl rfl, hr.yields_float1 rfl ha rfl rfl,
    hr.yields_float1 rfl ha rfl rfl, hr.yields_float1 rfl ha rfl rfl, hr.yields_float1 rfl ha rfl rfl,
    hr.yields_of_a (op := 0x2F) rfl ha rfl fun _ _ => rfl⟩

end Sys2Proof.Machine
end

section
/-! SUPPORT. O29: selection, conversion, lane moves and the video instructions of actors (R69, R82, R299 to R301, R305). -/

namespace Sys2Proof.Machine

/-! ### The operands that an instruction reads by its flags -/

theorem flags_odd_iff (x : BitVec 2) : x.toNat % 2 = 1 ↔ x.getLsbD 0 = true := by revert x; decide
theorem flags_two_le_iff (x : BitVec 2) : 2 ≤ x.toNat ↔ x.getLsbD 1 = true := by revert x; decide

theorem slotsRead_icmp (x : BitVec 2) : slotsRead 0x30 x.toNat = if x.getLsbD 0 then 1 else 3 :=
  if_congr (flags_odd_iff x) rfl rfl
theorem slotsRead_cvtfb (x : BitVec 2) : slotsRead 0x3A x.toNat = if x.getLsbD 0 then 1 else 3 :=
  if_congr (flags_odd_iff x) rfl rfl
theorem slotsRead_pack (x : BitVec 2) : slotsRead 0x3C x.toNat = if x.getLsbD 1 then 1 else 3 :=
  if_congr (flags_two_le_iff x) rfl rfl

/-! ### Comparisons and predicates (R299) -/

/-- Two lanes give a lane where both are valid. -/
theorem bind_bind_some {α β γ : Type} (g : α → β → γ) (x : Option α) (y : Option β) :
    (do let x ← x; let y ← y; some (g x y)) = x.bind fun x => y.map fun y => g x y := by
  cases x <;> cases y <;> rfl

theorem cmpVal_eq (t cc : Nat) (a b : Val) : cmpVal t cc a b = Val.ofPreds (etyWidth t)
    ((a.lanes (etyWidth t)).zipWith (fun x y => x.bind fun x => y.map fun y => laneCmp t cc x y)
      (b.lanes (etyWidth t))) := by
  simp only [cmpVal, bind_bind_some]

theorem pred2_eq (g : Bool → Bool → Bool) (a b : Val) : pred2 g a b = Val.ofPreds a.width
    ((a.preds a.width).zipWith (fun x y => x.bind fun x => y.map fun y => g x y) (b.preds a.width)) := by
  simp only [pred2, bind_bind_some]

theorem anyVal_eq (a : Val) : anyVal a = Val.ofPreds a.width
    (List.replicate (512 / a.width) (some ((a.preds a.width).any (· = some true)))) := by
  simp only [anyVal, Val.scalarPred, beq_eq_decide]

theorem allVal_eq (a : Val) : allVal a = Val.ofPreds a.width
    (List.replicate (512 / a.width) (some ((a.preds a.width).all (· ≠ some false)))) := by
  simp only [allVal, Val.scalarPred, bne, beq_eq_decide, decide_not]

theorem effSel_preds {o : ActorOp} (h : o.t = 7) (x : Fx) (s : State) :
    effSel x o s = .ok (some (Val.ofPreds x.a.width (((x.a.preds x.a.width).zip (x.b.preds x.a.width)).zipWith
      (fun p z => z.bind fun z => if z then p.1 else p.2) (x.c.preds x.a.width))), s) := by
  rw [effSel, pure_, if_pos h]
  rfl

theorem effSel_lanes {o : ActorOp} (h : o.t ≠ 7) (x : Fx) (s : State) :
    effSel x o s = .ok (some (selVal o.w x.a x.b x.c), s) := by
  rw [effSel, pure_, if_neg h]

theorem bOrImm_imm {o : ActorOp} (h : o.flags.getLsbD 0 = true) (x : Fx) : bOrImm x o = immVal o.t o.imm := if_pos h
theorem bOrImm_b {o : ActorOp} (h : o.flags.getLsbD 0 = false) (x : Fx) : bOrImm x o = x.b :=
  if_neg (by rw [ActorOp.f0, h]; decide)

/-! ### Conversions and packing (R82, R300) -/

theorem isNan_unpack_bf16 (x : Nat) : (unpackF bf16 x).isNan = true ↔ x / 128 % 256 = 255 ∧ x % 128 ≠ 0 := by
  have he : natField x 7 8 = x / 128 % 256 := by simp [natField, Nat.shiftRight_eq_div_pow]
  have hm : natField x 0 7 = x % 128 := by simp [natField]
  simp only [unpackF, bf16, he, hm]
  split_ifs <;> simp_all [Num.isNan]

/-- A lane of CVTBF keeps its bits as the upper half; a NaN is canonical. -/
theorem cvtbf_eq : cvtbf = fun x => if x / 128 % 256 = 255 ∧ x % 128 ≠ 0 then 0x7FC00000 else x * 65536 :=
  funext fun x => if_congr (isNan_unpack_bf16 x) rfl rfl

/-- With flag ONE the upper half is gone. -/
theorem halves_one {w : Nat} {b : Bool} (h : b = true) (g : Nat → Nat) (x y : Val) :
    halves w b g x y = Val.ofList w (((x.lanes (2 * w)).take (512 / w / 2)).map (Option.map g) ++
      List.replicate (512 / w / 2) none) := by
  rw [halves, if_pos h]

/-- Without it each operand gives a half. -/
theorem halves_two {w : Nat} {b : Bool} (h : b = false) (g : Nat → Nat) (x y : Val) :
    halves w b g x y = Val.ofList w (((x.lanes (2 * w)).take (512 / w / 2)).map (Option.map g) ++
      ((y.lanes (2 * w)).take (512 / w / 2)).map (Option.map g)) := by
  rw [halves, if_neg (by rw [h]; decide)]

/-! ### Video (R69, R305) -/

theorem clampI_eq {lo hi : Int} (h : lo ≤ hi) (x : Int) : clampI lo hi x = max lo (min hi x) := by
  unfold clampI
  split_ifs <;> omega

/-- The half of a motion vector that MVSPLIT takes, in whole or in quarter samples. -/
theorem mvsplit_eq (y frac : Bool) : mvsplit y frac = fun x =>
    ((if frac then (if y then sgn 16 (x / 65536) else sgn 16 x) % 4
      else (if y then sgn 16 (x / 65536) else sgn 16 x) / 4) % 2 ^ 32).toNat := by
  funext x
  cases frac <;> rfl

theorem qpscaleLane_eq :
    qpscaleLane = fun x => packF fp32 0 (qpScale (max 0 (min 63 (sgn 32 x))).toNat) := by
  funext x
  rw [qpscaleLane, clampI_eq (by decide)]

theorem erracc_eq (t : Nat → W32) : erracc t = fun x y z =>
    (roundFP32 (Num.add (rn (Num.add (rn (Num.add (unpackF fp32 x) (ofFP32 (t (min 63 (y % 256))))))
      (rn (Num.mul (ofFP32 (t 128)) ((Num.ofInt ((y / 2 ^ 8 % 4 + y / 2 ^ 10 % 4 : Nat) : Int)).scale (-2))))))
      (rn (Num.mul (ofFP32 (t 129)) (unpackF fp32 z))))).toNat := by
  funext x y z
  have hq : (if y % 256 > 63 then 63 else y % 256) = min 63 (y % 256) := by split_ifs <;> omega
  simp only [erracc, hq, natField, Nat.shiftRight_eq_div_pow]
  rfl

/-! ### The instructions in a firing -/

/-- An effect whose value is the one stated. -/
theorem gives_of_eq {v w : Val} (s : State) (h : v = w) :
    (Except.ok (some v, s) : Except Stop (Option Val × State)) = .ok (some w, s) := by rw [h]

section Instructions
variable {s : State} {n : NodeRef} {f : Firing} {o : ActorOp} (hr : Running s n f o) {a b c : Val} (ha : f.has 0 a)
include hr ha

theorem yields_icmp_imm (h : o.flags.getLsbD 0 = true) :
    Yields (.icmp o) o s n ((cmpVal o.t o.ab a (immVal o.t o.imm)).tainted a.poison) :=
  hr.yields_of_a (op := 0x30) rfl ha (by rw [slotsRead_icmp, if_pos h]) fun _ _ =>
    gives_of_eq s (congrArg (cmpVal o.t o.ab a) (bOrImm_imm h _))

theorem yields_icmp (h : o.flags.getLsbD 0 = false) (hb : f.has 1 b) :
    Yields (.icmp o) o s n ((cmpVal o.t o.ab a b).tainted (a.poison || b.poison)) :=
  hr.yields_of_ab (op := 0x30) rfl ha (by rw [slotsRead_icmp, h]; rfl) hb fun _ =>
    gives_of_eq s (congrArg (cmpVal o.t o.ab a) (bOrImm_b h _))

theorem yields_cvtfb_one (h : o.flags.getLsbD 0 = true) :
    Yields (.cvtfb o) o s n ((Val.ofList 16 (((a.lanes 32).take 16).map (Option.map (cvtfb o.m)) ++
      List.replicate 16 none)).tainted a.poison) :=
  hr.yields_of_a (op := 0x3A) rfl ha (by rw [slotsRead_cvtfb, if_pos h]) fun b _ =>
    gives_of_eq s (halves_one h (cvtfb o.m) a b)

theorem yields_cvtfb_two (h : o.flags.getLsbD 0 = false) (hb : f.has 1 b) :
    Yields (.cvtfb o) o s n ((Val.ofList 16 (((a.lanes 32).take 16).map (Option.map (cvtfb o.m)) ++
      ((b.lanes 32).take 16).map (Option.map (cvtfb o.m)))).tainted (a.poison || b.poison)) :=
  hr.yields_of_ab (op := 0x3A) rfl ha (by rw [slotsRead_cvtfb, h]; rfl) hb fun _ =>
    gives_of_eq s (halves_two h (cvtfb o.m) a b)

theorem yields_pack_one (h : o.flags.getLsbD 1 = true) :
    Yields (.pack o) o s n ((Val.ofList o.w (((a.lanes (2 * o.w)).take (512 / o.w / 2)).map
      (Option.map (packLane o.t o.f0)) ++ List.replicate (512 / o.w / 2) none)).tainted a.poison) :=
  hr.yields_of_a (op := 0x3C) rfl ha (by rw [slotsRead_pack, if_pos h]) fun b _ =>
    gives_of_eq s (halves_one h (packLane o.t o.f0) a b)

theorem yields_pack_two (h : o.flags.getLsbD 1 = false) (hb : f.has 1 b) :
    Yields (.pack o) o s n ((Val.ofList o.w (((a.lanes (2 * o.w)).take (512 / o.w / 2)).map
      (Option.map (packLane o.t o.f0)) ++ ((b.lanes (2 * o.w)).take (512 / o.w / 2)).map
        (Option.map (packLane o.t o.f0)))).tainted (a.poison || b.poison)) :=
  hr.yields_of_ab (op := 0x3C) rfl ha (by rw [slotsRead_pack, h]; rfl) hb fun _ =>
    gives_of_eq s (halves_two h (packLane o.t o.f0) a b)

/-- ERRACC takes its constants from the c-table that the firing took as it began. -/
theorem yields_erracc (hb : f.has 1 b) (hc : f.has 2 c) :
    Yields (.erracc o) o s n ((map3 32 (erracc fun i => (mget f.ctab (132 * o.ab + i)).getD 0) a b c).tainted
      (a.poison || b.poison || c.poison)) := by
  refine hr.yields_of_abc (op := 0x6B) rfl ha rfl hb hc ?_
  rw [effErracc, hr.firingAt]

end Instructions

/-- Settles O29: each instruction gives the value of its effect; where the statement writes the lanes out, a lemma above
says that they are the model's. -/
theorem actorLanes : Obligations.ActorLanes := by
  refine ⟨fun s n f o a b c hr ha => ?_, fun s n f o a b hr ha => ?_, fun s n f o a b c hr ha => ?_⟩
  · intro w v ab imm both cmp ab2
    have hcmp (b : Val) : cmp b = cmpVal o.t o.ab a b := (cmpVal_eq ..).symm
    refine ⟨fun h => ?_, fun h hb => ?_, fun hb => ?_, fun h hb hc => ?_, fun h hb hc => ?_, fun hb => ?_, fun hb => ?_,
      hr.yields_of_a (op := 0x35) rfl ha rfl fun _ _ => rfl,
      hr.yields_of_a (op := 0x36) rfl ha rfl fun _ _ => gives_of_eq s (anyVal_eq a),
      hr.yields_of_a (op := 0x37) rfl ha rfl fun _ _ => gives_of_eq s (allVal_eq a)⟩
    · rw [hcmp]
      exact yields_icmp_imm hr ha h
    · rw [hcmp]
      exact yields_icmp hr ha h hb
    · rw [hcmp]
      exact hr.yields_of_ab (op := 0x31) rfl ha rfl hb fun _ => rfl
    · exact hr.yields_of_abc (op := 0x32) rfl ha rfl hb hc (effSel_lanes h _ s)
    · exact hr.yields_of_abc (op := 0x32) rfl ha rfl hb hc (effSel_preds h _ s)
    · exact hr.yields_of_ab (op := 0x33) rfl ha rfl hb fun _ => gives_of_eq s (pred2_eq and a b)
    · exact hr.yields_of_ab (op := 0x34) rfl ha rfl hb fun _ => gives_of_eq s (pred2_eq or a b)
  · intro w k la ab f0 f1 gives low gone live
    exact ⟨hr.yields_of_a (op := 0x38) rfl ha rfl fun _ _ => rfl, hr.yields_of_a (op := 0x39) rfl ha rfl fun _ _ => rfl,
      fun h => yields_cvtfb_one hr ha h, fun h hb => yields_cvtfb_two hr ha h hb,
      hr.yields_of_a (op := 0x3B) rfl ha rfl fun _ _ => gives_of_eq s (by rw [cvtbf_eq]; rfl),
      fun h => yields_pack_one hr ha h, fun h hb => yields_pack_two hr ha h hb,
      hr.yields_of_a (op := 0x3D) rfl ha rfl fun _ _ => rfl,
      fun hb => hr.yields_of_ab (op := 0x40) rfl ha rfl hb fun _ => rfl,
      hr.yields_of_a (op := 0x41) rfl ha rfl fun _ _ => rfl, hr.yields_of_a (op := 0x42) rfl ha rfl fun _ _ => rfl,
      hr.yields_of_a (op := 0x43) rfl ha rfl fun _ _ => rfl, hr.yields_of_a (op := 0x44) rfl ha rfl fun _ _ => rfl,
      hr.yields_of_a (op := 0x45) rfl ha rfl fun _ _ => rfl, hr.yields_of_a (op := 0x46) rfl ha rfl fun _ _ => rfl,
      hr.yields_of_a (op := 0x47) rfl ha rfl fun _ _ => rfl,
      fun hb => hr.yields_of_ab (op := 0x48) rfl ha rfl hb fun _ => rfl⟩
  · intro gives scan la half const
    refine ⟨hr.yields_of_a (op := 0x68) rfl ha rfl fun _ _ => gives_of_eq s (congrArg (map1 32 · a) (mvsplit_eq ..)),
      hr.yields_of_a (op := 0x69) rfl ha rfl fun _ _ => gives_of_eq s (congrArg (map1 32 · a) qpscaleLane_eq),
      hr.yields_of_a (op := 0x6A) rfl ha rfl fun _ _ => rfl, fun hb hc => ?_⟩
    have h := yields_erracc hr ha hb hc
    rw [erracc_eq] at h
    exact h

end Sys2Proof.Machine
end

section
/-! SUPPORT. O37: WARP, CONVERT and the mills (R72, R73, R83, R116, R117, R321, R323, R324, R394). -/

namespace Sys2Proof.Machine

/-! ### WARP (R321) -/

/-- What a WARP sends on an output port: its feature, its out-of-frame fraction, or its greatest reference error. -/
def warpToken (w : W512 × Nat × W64 × W64) (t : Token) (p : Nat) : Token :=
  if p = 4 then { kind := .data, data := w.1, mask := lowMask w.2.1, tag := t.tag, poison := t.poison }
  else scalarTok (if p = 5 then w.2.2.1 else w.2.2.2) t.tag t.poison

/-- A coordinate of a request in sixteenths of a unit: the unit in 16 bits from `lo`, the rest in 16 bits from `hi`. -/
theorem sixteenths_eq {r lo q : Nat} (hi : Nat) (hq : r / 2 ^ lo = q) :
    16 * ((natField r lo 16 : Nat) : Int) + sgn 16 (natField r hi 16) =
      16 * ((q % 2 ^ 16 : Nat) : Int) + sgn 16 (r / 2 ^ hi % 2 ^ 16) := by
  simp only [natField, Nat.shiftRight_eq_div_pow, hq]

section Warp
variable {s : State} {n : NodeRef} {t : Token} (ho : nodeOk s n .warp = true) (hf : (s.cellAt n).front 0 = some t)
  (ht : t.isMarker = false) (hc : allCan s n (s.cellAt n).outs 1 = true)
include ho hf ht hc

/-- A request whose reference units have been read. -/
theorem execWarpRequest_reads {x y : Int}
    (hx : 16 * ((natField t.scalar.toNat 0 16 : Nat) : Int) + sgn 16 (natField t.scalar.toNat 32 16) = x)
    (hy : 16 * ((natField t.scalar.toNat 16 16 : Nat) : Int) + sgn 16 (natField t.scalar.toNat 48 16) = y)
    {us : List (Nat × Nat × Nat)} {u : State} (hv : warpReads s (s.nodeAcx n) (s.cellAt n).warpSt.feat
      (s.cellAt n).warpSt.err ((s.cellAt n).fld 1 8 8 != 0) (warpUnits x y) = .ok (us, u)) :
    exec (.warpRequest n) s = .next ((s.cellAt n).outs.foldl
      (fun u p => send u n p (warpToken (warpResults (s.cellAt n).warpSt.feat x y us) t p))
      (popIns (release u (.node n)) n [0])) := by
  show execWarpRequest n s = _
  unfold execWarpRequest
  dsimp only
  rw [if_neg (by simp [ho]), hf]
  dsimp only
  rw [if_neg (by simp [ht, hc]), hx, hy, hv]
  dsimp only
  congr 2
  funext u p
  unfold warpToken
  split <;> simp_all

end Warp

/-! ### CONVERT (R83, R323) -/

section Convert
variable {s : State} {n : NodeRef} (ho : nodeOk s n .convert = true)
include ho

/-- A token that has been formed leaves. -/
theorem execConvertElement_sends {t : Token} {l : List Token} (hx : (s.cellAt n).convSt.out = t :: l)
    (hc : canSend s n 4 1 = true) :
    exec (.convertElement n) s = .next (setConv (send s n 4 t) n { (s.cellAt n).convSt with out := l }) := by
  have hflush : convFlush s n = setConv (send s n 4 t) n { (s.cellAt n).convSt with out := l } := by
    unfold convFlush
    dsimp only
    rw [hx]
    exact if_pos hc
  show execConvertElement n s = _
  unfold execConvertElement
  dsimp only
  rw [if_neg (by simp [ho]), if_pos (by simp [convIdle, hx]), hflush]

/-- With nothing to send, a source token's elements are taken with their scales. -/
theorem execConvertElement_takes (hx : (s.cellAt n).convSt.out = []) (hy : (s.cellAt n).convSt.out1 = []) {t : Token}
    (hf : (s.cellAt n).front 0 = some t) (ht : t.isMarker = false) {v : List (Nat × W32) × State}
    (hv : convScales s n (s.cellAt n) (s.cellAt n).convSt (tokenElems (s.cellAt n).sfmt t).length = .ok v) :
    exec (.convertElement n) s = .next (setConv (popIns (release v.2 (.node n)) n [0]) n
      (convTake (s.cellAt n) t.tag t.poison (s.cellAt n).convSt
        (((tokenElems (s.cellAt n).sfmt t).zip v.1).map fun e => (e.1, e.2.1, e.2.2)))) := by
  show execConvertElement n s = _
  unfold execConvertElement
  dsimp only
  rw [if_neg (by simp [ho]), if_neg (by simp [convIdle, hx, hy]), hf]
  dsimp only
  rw [if_neg (by simp [ht]), hv]

end Convert

/-! ### Mills (R72, R116, R117, R324, R394) -/

theorem Token.isMarker_of_eod {t : Token} {k : Nat} (h : t.kind = .eod k) : t.isMarker = true := by
  simp [Token.isMarker, h]
theorem Token.isPmk_of_eod {t : Token} {k : Nat} (h : t.kind = .eod k) : t.isPmk = false := by
  simp [Token.isPmk, h]
theorem Token.copy_of_kind {t : Token} {k : TokKind} (h : t.kind = k) : t.copy = { kind := k, tag := t.tag } := by
  rw [Token.copy, h]

section Mill
variable {s : State} {n : NodeRef} {t : Token} (ho : millOk s n = true)
include ho

/-! The weights -/

section Weights
variable (hl : (s.cellAt n).macSt.loaded = false) (hf : (s.cellAt n).front 0 = some t)
include hl hf

theorem execMacWeightLoad_takes (ht : t.isMarker = false)
    (h : (s.cellAt n).macSt.wtoks ≠ [] ∨ (s.cellAt n).front 1 = none) :
    exec (.macWeightLoad n) s = .next (setMac (popIns s n [0]) n
      { (s.cellAt n).macSt with wtoks := (s.cellAt n).macSt.wtoks ++ [t] }) := by
  show execMacWeightLoad n s = _
  unfold execMacWeightLoad
  dsimp only
  rw [if_neg (by simp [ho, hl]), hf]
  dsimp only
  rw [if_pos (by simp [ht])]
  refine congrArg Host.Outcome.next (if_neg ?_)
  rcases h with hw | h1
  · cases (s.cellAt n).front 1 <;> simp [hw]
  · simp [h1]

variable (ht : t.kind = .eod 0)
include ht

/-- The end of a load that is not NCOL columns. -/
theorem execMacWeightLoad_mismatch
    (h : (s.cellAt n).macSt.wtoks.length ≠ (s.cellAt n).ncol * packTokens (s.cellAt n).wfmt (s.cellAt n).millK) :
    exec (.macWeightLoad n) s = .next (haltNode s n rateFault) := by
  show execMacWeightLoad n s = _
  unfold execMacWeightLoad
  dsimp only
  rw [if_neg (by simp [ho, hl]), hf]
  dsimp only
  rw [if_neg (by simp [Token.isMarker_of_eod ht]), if_pos (by simp [ht]), if_pos (by simpa using h)]

/-- The end of a complete load of a format without scales. -/
theorem execMacWeightLoad_ends
    (h : (s.cellAt n).macSt.wtoks.length = (s.cellAt n).ncol * packTokens (s.cellAt n).wfmt (s.cellAt n).millK)
    (hb : fmtBlock (s.cellAt n).wfmt = 0) :
    exec (.macWeightLoad n) s = .next (setMac (popIns (release s (.node n)) n [0]) n
      { (s.cellAt n).macSt with loaded := true, wscales := [], atoks := [], row := 0 }) := by
  show execMacWeightLoad n s = _
  unfold execMacWeightLoad
  dsimp only
  rw [if_neg (by simp [ho, hl]), hf]
  dsimp only
  rw [if_neg (by simp [Token.isMarker_of_eod ht]), if_pos (by simp [ht]), if_neg (by simpa using h), if_pos hb]
  rfl

end Weights

/-! Formed tokens leave first -/

omit ho in
theorem millFlush_sends {l : List Token} (hx : (s.cellAt n).macSt.out = t :: l) (hc : canSend s n 4 1 = true) :
    millFlush s n = setMac (send s n 4 t) n { (s.cellAt n).macSt with out := l } := by
  unfold millFlush
  dsimp only
  rw [hx]
  exact if_pos hc

theorem execMacActivationRow_sends {l : List Token} (hx : (s.cellAt n).macSt.out = t :: l) :
    exec (.macActivationRow n) s = .next (millFlush s n) := by
  show execMacActivationRow n s = _
  unfold execMacActivationRow
  dsimp only
  rw [if_neg (by simp [ho]), if_pos (by simp [hx])]

theorem execMacRoundRelease_sends {l : List Token} (hx : (s.cellAt n).macSt.out = t :: l) :
    exec (.macRoundRelease n) s = .next (millFlush s n) := by
  show execMacRoundRelease n s = _
  unfold execMacRoundRelease
  rw [if_neg (by simp [ho]), if_pos (by simp [hx])]

variable (hx : (s.cellAt n).macSt.out = [])
include hx

/-! The tokens of an activation row, and the end of a batch -/

/-- What a loaded mill makes of an activation token. -/
def millToken (s : State) (n : NodeRef) (t : Token) : State :=
  let c := s.cellAt n
  let x := { c.macSt with atoks := c.macSt.atoks ++ [t] }
  if !rowRoom s n c then s
  else if x.atoks.length < packTokens c.afmt c.millK then setMac (popIns s n [1]) n x
  else if c.accBit && x.row ≥ 32 then haltNode s n rateFault
  else if bankHeld s n c then s
  else
    match rowScales s (s.nodeAcx n) c.afmt x.adesc x.asdesc x.row (if c.accBit then x.chunk * c.millK else 0) c.millK with
    | .ok (asc, s) => millTakeRow (popIns (release s (.node n)) n [1]) n c x asc
    | .error (.trap e) => haltNode s n e
    | .error (.trapIn s e) => haltNode s n e
    | .error (.wait _ rq) => register s rq
    | .error (.keep s _) => s

section Activations
variable (hl : (s.cellAt n).macSt.loaded = true) (hf : (s.cellAt n).front 1 = some t)
include hl hf

theorem execMacActivationRow_data (ht : t.isMarker = false) :
    exec (.macActivationRow n) s = .next (millToken s n t) := by
  show execMacActivationRow n s = _
  unfold execMacActivationRow
  dsimp only
  rw [if_neg (by simp [ho]), if_neg (by simp [hx]), if_neg (by simp [hl]), hf]
  dsimp only
  rw [if_neg (by simp [Token.isPmk_of_data ht]), if_neg (by simp [ht])]
  rfl

/-- The end of a batch: within a row it is a mismatch; after one its marker is passed on, and the next weights may come. -/
theorem execMacActivationRow_eod (ht : t.kind = .eod 0) : exec (.macActivationRow n) s = .next (
    if (s.cellAt n).macSt.atoks ≠ [] then haltNode s n rateFault
    else setMac (popIns s n [1]) n { (s.cellAt n).macSt with
      loaded := false, wtoks := [], wscales := [], out := [{ kind := .eod 0, tag := t.tag }]
      chunk := if (s.cellAt n).accBit then (s.cellAt n).macSt.chunk + 1 else 0 }) := by
  show execMacActivationRow n s = _
  unfold execMacActivationRow
  dsimp only
  rw [if_neg (by simp [ho]), if_neg (by simp [hx]), if_neg (by simp [hl]), hf]
  dsimp only
  rw [if_neg (by simp [Token.isPmk_of_eod ht]), if_pos (Token.isMarker_of_eod ht), Token.copy_of_kind ht]
  exact congrArg Host.Outcome.next (if_congr (by simp [ht]) rfl rfl)

end Activations

/-! The release of a round -/

theorem execMacRoundRelease_marker {m : Token} (hm : millMarker s n = some m) : exec (.macRoundRelease n) s =
    .next (if releases (s.cellAt n) m then millPass (releaseRound s n m) n m else s) := by
  show execMacRoundRelease n s = _
  unfold execMacRoundRelease
  rw [if_neg (by simp [ho]), if_neg (by simp [hx]), hm]

omit ho in
theorem millMarker_heads {m : Token} (hl : (s.cellAt n).macSt.loaded = false) (hw : (s.cellAt n).macSt.wtoks = [])
    (hm : (s.cellAt n).heads [0, 1] = .marker m) (hk : m.kind ≠ .eod 0) : millMarker s n = some m := by
  unfold millMarker
  dsimp only
  rw [if_neg (by simp [hl, hw, hx]), hm]
  exact if_neg (by simpa using hk)

end Mill

section Token
variable {s : State} {n : NodeRef} {t : Token}

theorem rowRoom_iff : rowRoom s n (s.cellAt n) = true ↔ (s.cellAt n).accBit = true ∨
    (canSend s n 4 (min (cdiv (s.cellAt n).ncol 16) 4) = true ∧ pathTakes s n 4 (cdiv (s.cellAt n).ncol 16) = true) := by
  simp [rowRoom, Nat.min_def]

theorem millToken_noRoom (hr : rowRoom s n (s.cellAt n) = false) : millToken s n t = s := if_pos (by simp [hr])

theorem not_beyond {acc : Bool} {row : Nat} (h : acc = false ∨ row < 32) : ¬ (acc && decide (row ≥ 32)) = true := by
  simpa [imp_iff_not_or] using h

section Room
variable (hr : rowRoom s n (s.cellAt n) = true)
include hr

/-- A token that does not complete its row. -/
theorem millToken_within
    (h : ((s.cellAt n).macSt.atoks ++ [t]).length < packTokens (s.cellAt n).afmt (s.cellAt n).millK) :
    millToken s n t = setMac (popIns s n [1]) n
      { (s.cellAt n).macSt with atoks := (s.cellAt n).macSt.atoks ++ [t] } :=
  (if_neg (by simp [hr])).trans (if_pos h)

variable (h : packTokens (s.cellAt n).afmt (s.cellAt n).millK ≤ ((s.cellAt n).macSt.atoks ++ [t]).length)
include h

/-- A row beyond the 32 that a bank holds. -/
theorem millToken_beyond (ha : (s.cellAt n).accBit = true) (h32 : 32 ≤ (s.cellAt n).macSt.row) :
    millToken s n t = haltNode s n rateFault :=
  (if_neg (by simp [hr])).trans ((if_neg (Nat.not_lt.mpr h)).trans (if_pos (by simp [ha, h32])))

variable (h32 : (s.cellAt n).accBit = false ∨ (s.cellAt n).macSt.row < 32)
include h32

/-- A row that waits for the accesses to its bank (R117). -/
theorem millToken_held (hb : bankHeld s n (s.cellAt n) = true) : millToken s n t = s :=
  (if_neg (by simp [hr])).trans ((if_neg (Nat.not_lt.mpr h)).trans ((if_neg (not_beyond h32)).trans (if_pos hb)))

/-- The token that completes a row. -/
theorem millToken_completes (hb : bankHeld s n (s.cellAt n) = false) {v : List (Nat × W32) × State}
    (hv : rowScales s (s.nodeAcx n) (s.cellAt n).afmt (s.cellAt n).macSt.adesc (s.cellAt n).macSt.asdesc
      (s.cellAt n).macSt.row (if (s.cellAt n).accBit then (s.cellAt n).macSt.chunk * (s.cellAt n).millK else 0)
      (s.cellAt n).millK = .ok v) :
    millToken s n t = millTakeRow (popIns (release v.2 (.node n)) n [1]) n (s.cellAt n)
      { (s.cellAt n).macSt with atoks := (s.cellAt n).macSt.atoks ++ [t] } v.1 := by
  refine (if_neg (by simp [hr])).trans ((if_neg (Nat.not_lt.mpr h)).trans ((if_neg (not_beyond h32)).trans
    ((if_neg (by simp [hb])).trans ?_)))
  dsimp only
  rw [hv]

end Room
end Token

theorem releases_iff (c : Cell) (m : Token) :
    releases c m = true ↔ c.accBit = true ∧ (m.kind = .eor ∨ m.kind = .eos ∧ c.macSt.rows ≠ []) := by
  simp [releases]

theorem millPass_eq (s : State) (n : NodeRef) (m : Token) : millPass s n m = setMac (popIns s n [0, 1]) n
    { ((popIns s n [0, 1]).cellAt n).macSt with
      out := ((popIns s n [0, 1]).cellAt n).macSt.out ++ [{ kind := m.kind, tag := m.tag }]
      idx := if m.kind = .eor then 0 else ((popIns s n [0, 1]).cellAt n).macSt.idx } := by
  simp only [millPass, Token.copy, beq_iff_eq]

/-! ### One integer product (R72, R73) -/

/-- An integer sum of one product saturates, and says so. -/
theorem matSum_one_int {fa fb : Nat} (ha : fmtInt fa = true) (hb : fmtInt fb = true) (acc : W32) (a b : Opnd) {v : Int}
    (hv : sgn 32 acc.toNat + elemInt fa a.1 * elemInt fb b.1 = v) : matSum fa fb acc [a] [b] =
      (BitVec.ofInt 32 (max (-(2 ^ 31)) (min (2 ^ 31 - 1) v)), decide (v < -(2 ^ 31) ∨ 2 ^ 31 ≤ v)) := by
  unfold matSum
  rw [if_pos (by simp [ha, hb])]
  simp only [List.map_cons, List.map_nil, List.zip_cons_cons, List.zip_nil_right, dotI, satAdd32, hv, Bool.false_or,
    clampI_eq (lo := -(2 ^ 31)) (hi := 2 ^ 31 - 1) (by decide), Int.sub_one_lt_iff]

/-- Settles O37: each clause is one of the equations above. -/
theorem warpConvertAndMills : Obligations.WarpConvertAndMills := by
  intro s n c goes halts
  refine ⟨fun ho t hf ht hc v hv => ?_, fun ho => ?_, fun ho => ?_,
    fun fa fb acc a b ha hb => matSum_one_int ha hb acc a b rfl⟩
  · exact execWarpRequest_reads ho hf ht hc (sixteenths_eq 32 (Nat.div_one _)) (sixteenths_eq 48 rfl) hv
  · exact ⟨fun t l hx hc => execConvertElement_sends ho hx hc,
      fun hx hy t hf ht v hv => execConvertElement_takes ho hx hy hf ht hv⟩
  · intro x
    refine ⟨fun hl t hf => ⟨fun ht h => execMacWeightLoad_takes ho hl hf ht h,
        fun ht h => execMacWeightLoad_mismatch ho hl hf ht h, fun ht h hb => execMacWeightLoad_ends ho hl hf ht h hb⟩,
      fun t l hx hc => ?_, fun hx hl t hf => ?_, fun hx hl hw m hm hk => ?_⟩
    · rw [← millFlush_sends hx hc]
      exact ⟨execMacActivationRow_sends ho hx, execMacRoundRelease_sends ho hx⟩
    · have hd (ht : t.isMarker = false) := execMacActivationRow_data ho hx hl hf ht
      exact ⟨fun ht hr h => (hd ht).trans (congrArg _ (millToken_within hr h)),
        fun ht h ha h32 => (hd ht).trans (congrArg _ (millToken_beyond (rowRoom_iff.mpr (.inl ha)) h ha h32)),
        fun ht hr h h32 hb v hv => (hd ht).trans (congrArg _ (millToken_completes hr h h32 hb hv)),
        fun ht h ha h32 hb => (hd ht).trans (congrArg _ (millToken_held (rowRoom_iff.mpr (.inl ha)) h (.inr h32) hb)),
        fun ht hr => (hd ht).trans (congrArg _ (millToken_noRoom hr)), rowRoom_iff,
        fun ht h => (execMacActivationRow_eod ho hx hl hf ht).trans (congrArg _ (if_pos h)),
        fun ht h => (execMacActivationRow_eod ho hx hl hf ht).trans (congrArg _ (if_neg (not_not.mpr h)))⟩
    · have he := execMacRoundRelease_marker ho hx (millMarker_heads hx hl hw hm hk)
      intro passed release
      exact ⟨fun h => he.trans (congrArg _ ((if_pos ((releases_iff c m).mpr h)).trans (millPass_eq ..))),
        fun h => he.trans (congrArg _ (if_neg (mt (releases_iff c m).mp h)))⟩

end Sys2Proof.Machine
end

section
/-! SUPPORT. O50: the issue and the pieces of a tile task (R185, R345 to R347). -/

namespace Sys2Proof.Machine

/-! ### The issue (R185, R346) -/

/-- What a Miller with a free mill makes of the search for a ready record. -/
def issueFound (s : State) (k : Nat) (q : MQueue) (mill : NodeRef) :
    Except (Nat × Stop) (Option (Nat × List Byte × State)) → State
  | .ok none => release s (.cmd k)
  | .ok (some (j, r, u)) => issueRec u k q mill j r
  | .error (_, .wait _ rq) => register s rq
  | .error (j, .trap t) => failRec (taskFault s k j q t) k q j t.code.num
  | .error (j, .trapIn u t) => failRec (taskFault u k j q t) k q j t.code.num
  | .error (_, .keep u _) => u

section Issue
variable {s : State} {shire k : Nat} {mill : NodeRef} {q : MQueue} (hq : mget s.mqueues k = some q)
include hq

theorem execTileTaskIssue_idle (h : q.shire ≠ shire ∨ q.closing = true ∨ freeMill s shire q.ctx mill = false) :
    exec (.tileTaskIssue shire k mill) s = .next s := by
  show execTileTaskIssue shire k mill s = _
  unfold execTileTaskIssue
  rw [hq]
  exact congrArg Host.Outcome.next (if_pos (by simpa [or_assoc] using h))

theorem execTileTaskIssue_free (hs : q.shire = shire) (hc : q.closing = false) (hm : freeMill s shire q.ctx mill = true) :
    exec (.tileTaskIssue shire k mill) s = .next (issueFound s k q mill (findReady s k q (q.waiting.take 32))) := by
  show execTileTaskIssue shire k mill s = _
  unfold execTileTaskIssue
  rw [hq]
  dsimp only
  rw [if_neg (by simp [hs, hc, hm])]
  rfl

end Issue

theorem MemWrites.mqueues {s t : State} (h : MemWrites s t) : t.mqueues = s.mqueues := by
  obtain ⟨_, _, _, _, rfl⟩ := h; rfl

section Record
variable {s : State} {k j : Nat} {mill : NodeRef} {q : MQueue} {r : List Byte}

theorem issueRec_outOfRange (h : recOk r = false) : issueRec s k q mill j r = failRec s k q j 0x12 :=
  if_pos (by rw [h]; rfl)

variable (h : recOk r = true) {ds : SMap Desc} (hd : taskDescs s q.ctx r = .ok ds)
include h hd

/-- A record whose tile is wider than the mill stays where it is. -/
theorem issueRec_tooWide (hw : millCols (s.cellAt mill) < recFld r 0x1E 2) : issueRec s k q mill j r = s := by
  unfold issueRec
  rw [if_neg (by simp [h]), hd]
  exact if_pos hw

/-- A record that goes to the mill leaves those that wait and joins those that are issued. -/
theorem issueRec_queue (hw : recFld r 0x1E 2 ≤ millCols (s.cellAt mill)) :
    mget (issueRec s k q mill j r).mqueues k = some { q with
      waiting := q.waiting.filter (· ≠ j)
      issued := q.issued ++ [{ idx := j, mill := mill, rec_ := r, descs := ds }] } := by
  have hf : q.waiting.filter (· != j) = q.waiting.filter (· ≠ j) := by simp only [bne, beq_eq_decide, decide_not]
  unfold issueRec
  rw [if_neg (by simp [h]), hd]
  dsimp only
  rw [if_neg (Nat.not_lt.mpr hw), hf]
  exact (congrArg (mget · k) (memWrites_crierAt ..).mqueues).trans (mget_mset_self ..)

end Record

/-! ### The pieces of a task (R346, R347) -/

/-- The next piece of a task: its sums, a word of C, or its end. -/
def taskPiece (s : State) (k i : Nat) (q : MQueue) (t : Task) : Except Stop State :=
  if t.summed then (match t.rest with
    | [] => .ok (closeTask s k i q t)
    | w :: l => taskWord s k i q t w l)
  else do
    let (s, words, sat, prods, skipped) ← taskRun s (q.acx k) t
    .ok (storeTask s k i q t words sat prods skipped)

/-- What a task's turn makes of its next piece: one that faults ends FAILED and leaves its successors as they are. -/
def taskTurn (s : State) (k i : Nat) (q : MQueue) : Except Stop State → State
  | .ok u => u
  | .error (.wait _ rq) => register s rq
  | .error (.trap e) =>
    endTasks (noteEnd (freeTask (setState (taskFault s k i q e) k q i 4 e.code.num) k i) k i false)
  | .error (.trapIn u e) =>
    endTasks (noteEnd (freeTask (setState (taskFault u k i q e) k q i 4 e.code.num) k i) k i false)
  | .error _ => s

section Complete
variable {s : State} {shire k i : Nat} {q : MQueue} (hq : mget s.mqueues k = some q)
include hq

theorem execTileTaskComplete_apart (hs : q.shire ≠ shire) : exec (.tileTaskComplete shire k i) s = .next s := by
  show execTileTaskComplete shire k i s = _
  unfold execTileTaskComplete
  rw [hq]
  dsimp only
  rw [if_neg hs]

variable (hs : q.shire = shire) {t : Task} (ht : q.issued.find? (·.idx == i) = some t)
include hs ht

theorem execTileTaskComplete_turn :
    exec (.tileTaskComplete shire k i) s = .next (taskTurn s k i q (taskPiece s k i q t)) := by
  show execTileTaskComplete shire k i s = _
  unfold execTileTaskComplete taskPiece
  simp only [hq, if_pos hs, ht]
  rfl

end Complete

section Piece
variable {s : State} {k i : Nat} {q : MQueue} {t : Task}

theorem taskPiece_sums (h : t.summed = false) {r : State × List ((Nat × Nat) × W32) × List Nat × Nat × Nat}
    (hr : taskRun s (q.acx k) t = .ok r) :
    taskPiece s k i q t = .ok (storeTask r.1 k i q t r.2.1 r.2.2.1 r.2.2.2.1 r.2.2.2.2) := by
  unfold taskPiece
  rw [h, hr]
  rfl

theorem taskPiece_faults (h : t.summed = false) {e : Trap} (hr : taskRun s (q.acx k) t = .error (.trap e)) :
    taskPiece s k i q t = .error (.trap e) := by
  unfold taskPiece
  rw [h, hr]
  rfl

variable (h : t.summed = true)
include h

theorem taskPiece_word {w : (Nat × Nat) × W32} {l : List ((Nat × Nat) × W32)} (hr : t.rest = w :: l) :
    taskPiece s k i q t = taskWord s k i q t w l := by
  unfold taskPiece
  rw [if_pos h, hr]

theorem taskPiece_end (hr : t.rest = []) : taskPiece s k i q t = .ok (closeTask s k i q t) := by
  unfold taskPiece
  rw [if_pos h, hr]

end Piece

/-- A word of C, written at its place; after the last one the zero flags of whole granules. -/
theorem taskWord_ok {s u : State} {k i : Nat} {q : MQueue} {t : Task} {w : (Nat × Nat) × W32}
    {l : List ((Nat × Nat) × W32)}
    (hu : engWrite s (q.acx k) (taskOut t).1.base (cOff (taskOut t).1 w.1.1 w.1.2) 4 (leBytes 4 w.2.toNat) = .ok u) :
    taskWord s k i q t w l = .ok (release (updTask (if l = [] then cFlags u (q.acx k) (taskOut t).1 (taskOut t).2 else u) k i
      fun y => { y with rest := l }) (.cmd k)) := by
  have hw : cWrite (q.acx k) (taskOut t).1 [w] s = .ok u := by
    obtain ⟨⟨a, b⟩, v⟩ := w
    rw [cWrite, hu]
    rfl
  unfold taskWord
  dsimp only
  rw [hw]
  simp only [bind, Except.bind, List.isEmpty_iff]

section Close
variable {s : State} {k i : Nat} {q : MQueue} {t : Task}

theorem closeTask_waits (h : allPerformed s (.cmd k) = false) : closeTask s k i q t = s := if_pos (by rw [h]; rfl)

theorem closeTask_closes (h : allPerformed s (.cmd k) = true) {v : State}
    (hv : [recFld t.rec_ 0x20 4, recFld t.rec_ 0x24 4].foldlM (decDep k) (setState s k q i 3 0) = .ok v) :
    closeTask s k i q t = endTasks (noteEnd (freeTask v k i) k i true) := by
  unfold closeTask
  rw [if_neg (by rw [h]; decide), hv]

end Close

/-- Settles O50: the issue is `issueFound` of the search, and a task's turn is `taskPiece`. -/
theorem tileTasks : Obligations.TileTasks := by
  intro s shire k i mill q goes hq issue ready
  refine ⟨fun h => ⟨execTileTaskIssue_idle hq h, fun hs => execTileTaskComplete_apart hq hs⟩, fun hs hc hm => ?_,
    fun hs t ht => ?_⟩
  · have he {r} (hr : ready = r) : exec issue s = .next (issueFound s k q mill r) :=
      hr ▸ execTileTaskIssue_free hq hs hc hm
    refine ⟨fun hr => he hr, fun j e rq hr => he hr, fun j e hr => he hr,
      fun j r u hr => ⟨fun h => ?_, fun h ds hd => ?_⟩⟩
    · exact (he hr).trans (congrArg _ (issueRec_outOfRange h))
    · refine ⟨fun hw => (he hr).trans (congrArg _ (issueRec_tooWide h hd hw)), fun hw => ⟨_, he hr, fun p hp => ?_⟩⟩
      obtain rfl := Option.some.inj ((issueRec_queue h hd hw).symm.trans hp)
      exact ⟨rfl, rfl⟩
  · intro free closes task
    have he {r} (hr : taskPiece s k i q t = r) : exec (.tileTaskComplete shire k i) s = .next (taskTurn s k i q r) :=
      hr ▸ execTileTaskComplete_turn hq hs ht
    refine ⟨fun h hr => ⟨fun ha => ?_, fun ha v hv => ?_⟩, fun h w l hr u hu => ?_, fun h r hr => ?_,
      fun h e hr => ?_⟩
    · exact he ((taskPiece_end h hr).trans (congrArg _ (closeTask_waits ha)))
    · exact he ((taskPiece_end h hr).trans (congrArg _ (closeTask_closes ha hv)))
    · exact he ((taskPiece_word h hr).trans (taskWord_ok hu))
    · exact he (taskPiece_sums h hr)
    · exact he (taskPiece_faults h hr)

end Sys2Proof.Machine
end

section
/-! SUPPORT. O1, O59 and O10: the register file, the machine right after reset, and the write to ECAUSE (R92, R101, R148,
R214, R280). -/

namespace Sys2Proof.Machine

/-- Settles O1 from the laws of the register file. -/
theorem registerFile : Obligations.RegisterFile := fun r d e v i j c q w b =>
  ⟨r.gr_zero, r.setG_zero v, r.pr_zero, r.setP_zero b, r.gr_setG d e v, r.kr_setK i j c, r.pr_setP q w b,
    r.setG_k d v, r.setG_p d v, r.setK_g i c, r.setK_p i c, r.setP_g q b, r.setP_k q b⟩

/-! ### Reset -/

theorem Reeve.superv_reset : ({} : Reeve).superv = false := by decide

theorem Reeve.gr_reset (i : GReg) : ({} : Reeve).gr i = 0 := by
  unfold Reeve.gr
  split
  · rfl
  · exact Vector.getElem_replicate _

/-- Settles O59: nothing is listed in a table at reset, so that every entry reads as its default. -/
theorem resetState : Obligations.ResetState :=
  ⟨rfl, rfl, by decide, fun _ => rfl, rfl, rfl, rfl, rfl, rfl, rfl, rfl,
    fun _ => ⟨rfl, Reeve.superv_reset, rfl, rfl, Reeve.gr_reset, rfl, rfl, rfl⟩,
    fun _ => ⟨rfl, rfl, rfl, rfl, rfl, rfl, rfl⟩, fun _ => rfl, fun _ => rfl⟩

/-! ### SRWR to ECAUSE -/

/-- A write of ECAUSE at S level drops what ECAUSE told of a failed walk (R101, R148). -/
theorem srwr_ecause_ewalk {s t : State} {p : Guard} {a : GReg} (hg : s.me.guard p = true) (hu : s.me.superv = true)
    (h : exec (.srwr p a 0x022) s = .next t) : t.me.ewalk = none := by
  have hx : exec (.srwr p a 0x022) s =
      .next (retire (s.setReeve s.cur (sysWrite s s.me 0x022 (s.me.gr a))) (s.me.pc + BitVec.ofNat 64 4)) := by
    refine congrArg Host.Outcome.next (runReeve_next hg ?_)
    rw [hu]
    rfl
  cases hx.symm.trans h
  rw [retire_me, State.me_setReeve]
  rfl

/-- A reeve at S level whose handler was entered for a failed walk of stage 1 at level 0. -/
def afterFailedWalk : State := { reeves := [(0, { estat := 1, ewalk := some (1, 0) })] }

/-- Refutes O10: the statement keeps, beside ECAUSE, every register as it was; a write of ECAUSE after a failed walk, as in
`afterFailedWalk`, also drops the stage and the level of that walk. -/
theorem not_systemRegistersAndIdentity : ¬ Obligations.SystemRegistersAndIdentity := by
  rintro ⟨h, -⟩
  obtain ⟨-, -, hpriv, -⟩ := h afterFailedWalk always 0 0 rfl
  obtain ⟨-, -, ⟨t, ht, hr⟩, -⟩ := hpriv rfl
  have hnone := srwr_ecause_ewalk rfl rfl ht
  have hsome : t.me.ewalk = some (1, 0) := congrArg Reeve.ewalk hr.me
  exact absurd (hnone.symm.trans hsome) nofun

end Sys2Proof.Machine
end

section
/-! SUPPORT. O20: what an issue takes, copy tags and rings (R100, R179, R180, R182, R265, R266, R386). -/

namespace Sys2Proof.Machine

/-! ### Words as sets of tags -/

theorem setBit_eq (x : W64) {n : Nat} (hn : n < 64) (b : Bool) :
    setBit x n b = BitVec.ofFnLE fun i : Fin 64 => if i.val = n then b else x.getLsbD i := by
  ext i hi
  by_cases h : i = n
  · subst h
    cases b <;> simp [setBit]
  · cases b <;> simp [setBit, h] <;> omega

theorem and_eq_ofFnLE (x m : W64) : x &&& m = BitVec.ofFnLE fun i : Fin 64 => x.getLsbD i && m.getLsbD i := by
  ext i hi
  simp

theorem andNot_eq_ofFnLE (x m : W64) : x &&& ~~~m = BitVec.ofFnLE fun i : Fin 64 => x.getLsbD i && !m.getLsbD i := by
  ext i hi
  simp

/-- Whether two sets of tags have one in common. -/
theorem and_bne_zero (x m : W64) : (x &&& m != 0) = (List.range 64).any fun i => x.getLsbD i && m.getLsbD i := by
  rw [Bool.eq_iff_iff, bne_iff_ne, List.any_eq_true, Ne, BitVec.eq_of_getLsbD_eq_iff]
  simp [List.mem_range]

theorem and_beq_zero (x m : W64) : (x &&& m == 0) = !(List.range 64).any fun i => x.getLsbD i && m.getLsbD i := by
  rw [← and_bne_zero, bne, Bool.not_not]

/-- Counting from bit `i` finds the lowest set bit. -/
theorem ctzFrom_add (x : W64) (i n : Nat) : ctzFrom x i n + i = ((List.range' i n).find? (x.getLsbD ·)).getD (i + n) := by
  induction n generalizing i with
  | zero => simp [ctzFrom]
  | succ n ih =>
    rw [List.range'_succ, List.find?_cons, ctzFrom]
    cases x.getLsbD i with
    | true => simp
    | false =>
      have h := ih (i + 1)
      simp only [Bool.false_eq_true, if_false]
      rw [show i + (n + 1) = i + 1 + n by omega, ← h]
      omega

theorem ctzFrom_word (x : W64) : ctzFrom x 0 64 = ((List.range 64).find? (x.getLsbD ·)).getD 64 := by
  rw [List.range_eq_range', ← ctzFrom_add x 0 64]
  rfl

/-! ### Step 1 of an issue (R100, R182) -/

section Issue
variable {r : Reeve} {n : Nat}

theorem stepOne_busyTag (hb : r.tbusy.getLsbD n = true) : stepOne r 1 n = .error (.trap { code := .tagBusy }) :=
  if_pos hb

theorem stepOne_freeTag (hn : n < 64) (hb : r.tbusy.getLsbD n = false) : stepOne r 1 n = .ok ({ r with
    tbits := BitVec.ofFnLE fun i : Fin 64 => if i.val = n then false else r.tbits.getLsbD i
    tbusy := BitVec.ofFnLE fun i : Fin 64 => if i.val = n then true else r.tbusy.getLsbD i }, .tag n) := by
  rw [← setBit_eq r.tbits hn, ← setBit_eq r.tbusy hn]
  exact if_neg (by rw [hb]; decide)

/-- A ring that is not initialised, or has every entry reserved, refuses a reservation. -/
theorem stepOne_fullRing (h : (r.ring n).init = false ∨ ((r.ring n).rsv - (r.ring n).rp).toNat = 2 ^ (r.ring n).lsize) :
    stepOne r 2 n = .error (.trap { code := .ringFault }) := by
  refine if_pos ?_
  rcases h with h | h <;> simp [h, Ring.size]

theorem stepOne_ring (hi : (r.ring n).init = true)
    (hr : ((r.ring n).rsv - (r.ring n).rp).toNat ≠ 2 ^ (r.ring n).lsize) :
    stepOne r 2 n = .ok (r.setRing n { r.ring n with rsv := (r.ring n).rsv + 1 }, .ring n (r.ring n).rsv) :=
  if_neg (by rw [hi, Ring.size, Bool.not_true, Bool.false_or, decide_eq_true_iff]; exact hr)

end Issue

/-! ### Copy tags (R265) -/

section Tags
variable {s : State} {p : Guard} (hg : s.me.guard p = true) (d a : GReg)
include hg

theorem exec_twaitany_found (h : (s.me.tbits &&& s.me.gr a != 0 || s.me.tbusy &&& s.me.gr a == 0) = true) :
    WritesG (.twaitany p d a) s d (s.me.tbits &&& s.me.gr a) :=
  gives_of_next (len := 4) rfl hg (if_pos h) (Reeve.setG_vf ..)

theorem exec_twaitany_waits (h : (s.me.tbits &&& s.me.gr a != 0 || s.me.tbusy &&& s.me.gr a == 0) = false) :
    Waits (.twaitany p d a) s (.anyTag (s.me.gr a)) :=
  congrArg Host.Outcome.next (runReeve_wait hg (if_neg (by rw [h]; decide)))

theorem exec_twaitall_done (h : (s.me.tbusy &&& s.me.gr a == 0) = true) :
    Gives (.twaitall p a) s s.me (s.me.pc + 4) :=
  does_of_next_self (len := 4) rfl hg (if_pos h)

theorem exec_twaitall_waits (h : (s.me.tbusy &&& s.me.gr a == 0) = false) :
    Waits (.twaitall p a) s (.tags (s.me.gr a)) :=
  congrArg Host.Outcome.next (runReeve_wait hg (if_neg (by rw [h]; decide)))

end Tags

/-! ### Rings (R180, R266, R386) -/

@[simp] theorem Reeve.setRing_vf (r : Reeve) (n : Nat) (x : Ring) : (r.setRing n x).vf = r.vf := rfl
@[simp] theorem Reeve.setRing_launch (r : Reeve) (n : Nat) (x : Ring) : (r.setRing n x).launch = r.launch := rfl

/-- Which session fills a ring depends on the reeve's launch and the commands alone. -/
theorem ringSession_congr {s t : State} {h : Nat} (hc : t.cmds = s.cmds) (hl : (t.reeve h).launch = (s.reeve h).launch)
    (n : Nat) : ringSession t h n = ringSession s h n := by
  unfold ringSession
  rw [hc, hl]

/-- The low-water alarm is a session's. -/
theorem lowWater_noSession {s : State} {h n : Nat} (hs : ringSession s h n = none) : lowWater s h n = s := by
  unfold lowWater
  rw [hs]

/-- Entries of a ring that stand between its read and write pointers. -/
def Ring.held (x : Ring) : Nat := (x.wp - x.rp).toNat

theorem check_bind_true {α : Type} {b : Bool} (h : b = true) (f : Unit → Except Stop α) {c : Code} {addr sub : Nat} :
    (check b c addr sub >>= f) = f () := by
  rw [check, if_pos h]
  rfl

theorem check_bind_false {α : Type} {b : Bool} (h : b = false) (f : Unit → Except Stop α) {c : Code} {addr sub : Nat} :
    (check b c addr sub >>= f) = raise c addr sub := by
  rw [check, if_neg (by rw [h]; decide)]
  rfl

/-- The check of RINIT. -/
theorem rinit_check (x : Ring) (z : Nat) : (decide (1 ≤ z) && decide (z ≤ 16) && x.rsv == x.wp) =
    decide (1 ≤ z ∧ z ≤ 16 ∧ x.rsv = x.wp) := by
  rw [Bool.eq_iff_iff]
  simp [and_assoc]

/-- The check of a ring that must be initialised, and bound a count. -/
theorem init_and_le {b : Bool} {v k : Nat} (hb : b = true) (h : v ≤ k) : (b && decide (v ≤ k)) = true := by
  rw [hb, Bool.true_and, decide_eq_true_iff]
  exact h

theorem init_and_le_false {b : Bool} {v k : Nat} (h : b = false ∨ k < v) : (b && decide (v ≤ k)) = false := by
  rw [Bool.and_eq_false_iff, decide_eq_false_iff_not]
  exact h.imp_right Nat.not_le.mpr

section Rings
variable {s : State} {p : Guard} (hg : s.me.guard p = true) (d a : GReg) (n : BitVec 4)
include hg

theorem exec_rinit_fits (h : 1 ≤ (s.me.gr a).toNat % 32 ∧ (s.me.gr a).toNat % 32 ≤ 16 ∧
    (s.me.ring n.toNat).rsv = (s.me.ring n.toNat).wp) :
    Gives (.rinit p n a) s (s.me.setRing n.toNat { init := true, lsize := (s.me.gr a).toNat % 32 }) (s.me.pc + 4) :=
  gives_of_next (len := 4) rfl hg (check_bind_true ((rinit_check _ _).trans (decide_eq_true h)) _) rfl

theorem exec_rinit_faults (hu : s.me.superv = false) (h : ¬ (1 ≤ (s.me.gr a).toNat % 32 ∧
    (s.me.gr a).toNat % 32 ≤ 16 ∧ (s.me.ring n.toNat).rsv = (s.me.ring n.toNat).wp)) :
    TakesTrap (.rinit p n a) s { code := .ringFault } :=
  takesTrap_of (len := 4) rfl hg (check_bind_false ((rinit_check _ _).trans (decide_eq_false h)) _) hu rfl

theorem exec_rawait_has (hi : (s.me.ring n.toNat).init = true) (hv : (s.me.gr a).toNat ≤ (s.me.ring n.toNat).held)
    (hz : (s.me.gr a).toNat ≤ 2 ^ (s.me.ring n.toNat).lsize) :
    WritesG (.rawait p d a n) s d (BitVec.ofNat 64 (s.me.ring n.toNat).held) := by
  have hw : ((s.me.ring n.toNat).wp - (s.me.ring n.toNat).rp).zeroExtend 64 =
      BitVec.ofNat 64 (s.me.ring n.toNat).held := (BitVec.ofNat_toNat 64 _).symm
  rw [← hw]
  exact gives_of_next (len := 4) rfl hg
    ((check_bind_true (init_and_le hi hz) _).trans (if_pos hv)) (Reeve.setG_vf ..)

theorem exec_rawait_waits (hi : (s.me.ring n.toNat).init = true) (hv : (s.me.ring n.toNat).held < (s.me.gr a).toNat)
    (hz : (s.me.gr a).toNat ≤ 2 ^ (s.me.ring n.toNat).lsize) :
    Waits (.rawait p d a n) s (.ring n.toNat (s.me.gr a).toNat) :=
  congrArg Host.Outcome.next (runReeve_wait hg
    ((check_bind_true (init_and_le hi hz) _).trans (if_neg (Nat.not_le.mpr hv))))

theorem exec_rawait_faults (hu : s.me.superv = false)
    (h : (s.me.ring n.toNat).init = false ∨ 2 ^ (s.me.ring n.toNat).lsize < (s.me.gr a).toNat) :
    TakesTrap (.rawait p d a n) s { code := .ringFault } :=
  takesTrap_of (len := 4) rfl hg (check_bind_false (init_and_le_false h) _) hu rfl

/-- A release moves the read pointer; of a ring that a session has filled it is not repeated by a replay. -/
theorem exec_rrel_frees (hi : (s.me.ring n.toNat).init = true) (hv : (s.me.gr a).toNat ≤ (s.me.ring n.toNat).held)
    (hs : ringSession s s.cur n.toNat = none) :
    Does (.rrel p a n) s (if (s.me.ring n.toNat).feed then markDirty s s.me.launch else s)
      (s.me.setRing n.toNat { s.me.ring n.toNat with
        rp := (s.me.ring n.toNat).rp + BitVec.ofNat 32 (s.me.gr a).toNat }) (s.me.pc + 4) := by
  refine does_of_next (len := 4) rfl hg ((check_bind_true (init_and_le hi hv) _).trans ?_) (by split <;> rfl)
  rw [State.setMe_eq]
  generalize hr : s.me.setRing n.toNat _ = r
  have hl : ((s.setReeve s.cur r).reeve s.cur).launch = (s.reeve s.cur).launch := by
    rw [State.reeve_setReeve, if_pos rfl, ← hr]
    rfl
  have hn : ringSession (s.setReeve s.cur r) s.cur n.toNat = none :=
    (ringSession_congr (s := s) (t := s.setReeve s.cur r) rfl hl _).trans hs
  simp only [State.setReeve_cur, hn, Option.isSome_none, Bool.or_false]
  split
  · exact congrArg (fun t => Except.ok (t, Flow.next))
      (lowWater_noSession ((ringSession_congr (s := s.setReeve s.cur r) rfl rfl _).trans hn))
  · exact congrArg (fun t => Except.ok (t, Flow.next)) (lowWater_noSession hn)

theorem exec_rrel_faults (hu : s.me.superv = false)
    (h : (s.me.ring n.toNat).init = false ∨ (s.me.ring n.toNat).held < (s.me.gr a).toNat) :
    TakesTrap (.rrel p a n) s { code := .ringFault } :=
  takesTrap_of (len := 4) rfl hg (check_bind_false (init_and_le_false h) _) hu rfl

end Rings

/-- RSTAT's word: the write pointer over the read pointer. -/
theorem rstat_word (w r : BitVec 32) :
    w.zeroExtend 64 <<< 32 ||| r.zeroExtend 64 = BitVec.ofNat 64 (w.toNat * 2 ^ 32 + r.toNat) := by
  have hr := r.isLt
  have hw := w.isLt
  apply BitVec.eq_of_toNat_eq
  rw [BitVec.toNat_or, BitVec.toNat_shiftLeft, BitVec.toNat_setWidth, BitVec.toNat_setWidth, BitVec.toNat_ofNat,
    Nat.mod_eq_of_lt (a := w.toNat) (by omega), Nat.mod_eq_of_lt (a := r.toNat) (by omega), Nat.shiftLeft_eq,
    Nat.mod_eq_of_lt (by omega), Nat.mod_eq_of_lt (by omega), Nat.mul_comm, Nat.two_pow_add_eq_or_of_lt hr]

/-- Settles O20: step 1 of an issue, the copy tags, and the rings, each by the equation of its case. -/
theorem tagsAndRings : Obligations.TagsAndRings := by
  refine ⟨fun r n => ⟨rfl, rfl, fun _ => stepOne_busyTag, stepOne_freeTag, stepOne_fullRing, stepOne_ring⟩,
    fun s p d a hg => ?_, fun s p d a n hg => ?_⟩
  · intro m set busy found done
    have hany : done = (s.me.tbits &&& m != 0 || s.me.tbusy &&& m == 0) := by rw [and_bne_zero, and_beq_zero]
    have hset : s.me.tbits &&& m = found := and_eq_ofFnLE ..
    refine ⟨fun h => ?_, fun h => ?_, fun h => ?_, fun h => ?_, ?_, ?_, writesG_of_toG (f := fun s => s.me.tbits) rfl hg⟩
    · exact hset ▸ exec_twaitany_found hg d a (hany ▸ h)
    · exact exec_twaitany_waits hg d a (hany ▸ h)
    · exact exec_twaitall_done hg a (by rw [and_beq_zero]; exact congrArg not h)
    · exact exec_twaitall_waits hg a (by rw [and_beq_zero]; exact congrArg not h)
    · have hf : ctzFrom (s.me.tbits &&& m) 0 64 = ((List.range 64).find? set).getD 64 := by
        rw [ctzFrom_word]
        simp only [BitVec.getLsbD_and]
        rfl
      rw [← hf]
      exact writesG_of_toG (f := fun s => BitVec.ofNat 64 (ctzFrom (s.me.tbits &&& s.me.gr a) 0 64)) rfl hg
    · exact andNot_eq_ofFnLE s.me.tbits m ▸ gives_of_next (len := 4) rfl hg rfl rfl
  · intro x v z held fits fault
    refine ⟨exec_rinit_fits hg a n, fun h hu => exec_rinit_faults hg a n hu h, exec_rawait_has hg d a n,
      exec_rawait_waits hg d a n, fun h hu => exec_rawait_faults hg d a n hu h, exec_rrel_frees hg a n,
      fun h hu => exec_rrel_faults hg a n hu h, ?_⟩
    rw [← rstat_word]
    exact writesG_of_toG (f := fun s => if (s.me.ring n.toNat).init then
      (s.me.ring n.toNat).wp.zeroExtend 64 <<< 32 ||| (s.me.ring n.toNat).rp.zeroExtend 64 else 0) rfl hg

end Sys2Proof.Machine
end

section
/-! SUPPORT. O24: what LAUNCH reads and queues, the end of a launch that has no reeves to start, and LWAIT (R51, R97, R184,
R199, R274, R275, R368). -/

namespace Sys2Proof.Machine

/-! ### What a reeve reads for an instruction leaves all but memory and the VF records (R144, R168) -/

theorem windowHolds_of_idle {s : State} {who : Who} (h : windowBusy s who = false) (a n : Nat) :
    windowHolds s who a n = false := by
  unfold windowBusy at h
  unfold windowHolds
  rw [List.any_eq_false] at h ⊢
  intro x hx hu
  obtain ⟨u, hm, hc⟩ := List.any_eq_true.mp hu
  rw [Bool.and_eq_true, Bool.and_eq_true] at hc
  obtain ⟨⟨hc, -⟩, -⟩ := hc
  exact h x hx (List.any_eq_true.mpr ⟨u, hm, hc⟩)

/-- A quiet reeve has nothing to settle before an access. -/
theorem settle_quiet {s t : State} {l : Loc} {n : Nat} (hq : Quiet s) (h : settle s s.cur l n = .ok t) : t = s := by
  obtain ⟨hc, hw⟩ := hq
  have hc : (s.reeve s.cur).comb = [] := hc
  simp only [settle, flushComb, hc, List.any_nil, Bool.not_false, if_true] at h
  cases l with
  | phys a =>
    simp only [bind, Except.bind, windowHolds_of_idle hw, Bool.false_eq_true, if_false] at h
    exact (Except.ok.inj h).symm
  | _ => exact (Except.ok.inj h).symm

theorem settleSpan_quiet {s t : State} {x : Acx} {space fuel ea n : Nat} (hq : Quiet s)
    (h : settleSpan s x s.cur space fuel ea n = .ok t) : t = s := by
  induction fuel generalizing ea n with
  | zero => exact (Except.ok.inj h).symm
  | succ fuel ih =>
    unfold settleSpan at h
    split at h
    · exact (Except.ok.inj h).symm
    · dsimp only at h
      split at h
      · obtain ⟨u, hu, h⟩ := exists_of_bind_ok h
        obtain rfl := settle_quiet hq hu
        exact ih h
      · exact (Except.ok.inj h).symm

theorem memWrites_loadLoc {s : State} {x : Acx} {l : Loc} {n : Nat} {v : List Byte × State}
    (h : loadLoc s x l n = .ok v) : MemWrites s v.2 := by
  cases l with
  | phys a => exact memWrites_loadPhys h
  | acc k c o =>
    unfold loadLoc at h
    dsimp only at h
    split at h
    · cases h
    · cases h
      exact .refl s
  | peer a ea m =>
    obtain ⟨bs, -, h⟩ := exists_of_bind_ok h
    cases h
    exact .refl s
  | win | ctl | mmio =>
    cases h
    exact .refl s

theorem memWrites_loadCapLoc {s : State} {x : Acx} {l : Loc} {v : Cap × State} (h : loadCapLoc s x l = .ok v) :
    MemWrites s v.2 := by
  cases l with
  | phys a =>
    obtain ⟨w, hw, h⟩ := exists_of_bind_ok h
    cases h
    exact memWrites_loadPhys hw
  | win | ctl =>
    unfold loadCapLoc at h
    rw [← Except.ok.inj h]
    exact .refl s
  | acc | mmio | peer =>
    obtain ⟨w, hw, h⟩ := exists_of_bind_ok h
    cases h
    exact memWrites_loadLoc hw

theorem memWrites_noteWalk (s : State) (x : Acx) (space ea need : Nat) : MemWrites s (noteWalk s x space ea need) := by
  unfold noteWalk
  split
  · refine .trans (.foldl (fun t a => ?_) s _) (memWrites_count ..)
    exact (memWrites_correctSoft ..).trans (memWrites_countRead ..)
  · exact .refl s

theorem memWrites_locateIn {s : State} {x : Acx} {space ea need : Nat} {v : Loc × State}
    (h : locateIn s x space ea need = .ok v) : MemWrites s v.2 := by
  unfold locateIn at h
  split at h
  · cases h
    exact memWrites_noteWalk ..
  · cases h
  · cases h

theorem memWrites_readSpan {s : State} {x : Acx} {space fuel ea n : Nat} {v : List Byte × State}
    (h : readSpan s x space fuel ea n = .ok v) : MemWrites s v.2 := by
  induction fuel generalizing s ea n v with
  | zero =>
    cases h
    exact .refl s
  | succ fuel ih =>
    unfold readSpan at h
    split at h
    · cases h
      exact .refl s
    · obtain ⟨l, hl, h⟩ := exists_of_bind_ok h
      obtain ⟨b, hb, h⟩ := exists_of_bind_ok h
      obtain ⟨c, hc, h⟩ := exists_of_bind_ok h
      have hr := ih hc
      cases h
      exact ((memWrites_locateIn hl).trans (memWrites_loadLoc hb)).trans hr

theorem memWrites_readCaps {s : State} {x : Acx} {space ea n : Nat} {v : List Cap × State}
    (h : readCaps s x space ea n = .ok v) : MemWrites s v.2 := by
  induction n generalizing v with
  | zero =>
    cases h
    exact .refl s
  | succ n ih =>
    obtain ⟨c, hc, h⟩ := exists_of_bind_ok h
    obtain ⟨l, -, h⟩ := exists_of_bind_ok h
    obtain ⟨d, hd, h⟩ := exists_of_bind_ok h
    have hr := ih hc
    cases h
    exact hr.trans (memWrites_loadCapLoc hd)

theorem memWrites_reeveBlock {s : State} {k : Cap} {off : Int} {n align : Nat} {cl : AClass} {v : List Byte × State}
    (hq : Quiet s) (h : reeveBlock s k off n align cl = .ok v) : MemWrites s v.2 := by
  obtain ⟨ea, -, h⟩ := exists_of_bind_ok h
  obtain ⟨u, hu, h⟩ := exists_of_bind_ok h
  rw [settleSpan_quiet hq hu] at h
  exact memWrites_readSpan h

/-! ### What such reads leave -/

section Kept
variable {s t : State} (h : MemWrites s t)
include h

theorem MemWrites.me : t.me = s.me := State.me_of_reeves h.reeves h.cur
theorem MemWrites.reeve (j : Nat) : t.reeve j = s.reeve j := by rw [State.reeve_of_reeves h.reeves]
theorem MemWrites.nextId : t.nextId = s.nextId := by obtain ⟨_, _, _, _, rfl⟩ := h; rfl
theorem MemWrites.ctxOf (c : Nat) : t.ctxOf c = s.ctxOf c := by obtain ⟨_, _, _, _, rfl⟩ := h; rfl
theorem MemWrites.launchOf (l : Nat) : t.launchOf l = s.launchOf l := by obtain ⟨_, _, _, _, rfl⟩ := h; rfl

theorem MemWrites.quiet (hq : Quiet s) : Quiet t := by
  obtain ⟨_, _, _, _, rfl⟩ := h
  exact hq

theorem MemWrites.still (hs : Still s) : Still t := by
  obtain ⟨_, _, _, _, rfl⟩ := h
  exact hs

end Kept

/-! ### The end of a launch (R184, R199, R368) -/

theorem memWrites_stewardWrite (s : State) (ctx vf va : Nat) (bs : List Byte) :
    MemWrites s (stewardWrite s ctx vf va bs) := by
  unfold stewardWrite
  extract_lets x k part
  have hok (u v : State) (va : Nat) (bs : List Byte) (h : part u va bs = .ok v) : MemWrites u v := by
    unfold part at h
    dsimp only at h
    split at h <;> cases h
    exact (memWrites_noteWalk ..).trans (memWrites_storePhys ..)
  have herr (u v : State) (va : Nat) (bs : List Byte) (h : part u va bs = .error v) : MemWrites u v := by
    unfold part at h
    dsimp only at h
    split at h <;> cases h
    exact memWrites_noteWalk ..
  split
  next u hu =>
    refine (hok _ _ _ _ hu).trans ?_
    split
    · exact .refl u
    · split
      next v hv => exact hok _ _ _ _ hv
      next v hv => exact herr _ _ _ _ hv
  next u hu => exact herr _ _ _ _ hu

theorem memWrites_deliver (s : State) (key : Nat) : MemWrites s (deliver s key) := by
  unfold deliver
  split
  · exact (memWrites_stewardWrite ..).trans (memWrites_setVf ..)
  · exact .refl s

theorem memWrites_unreserve (s : State) (vf key : Nat) : MemWrites s (unreserve s vf key) := by
  unfold unreserve
  dsimp only
  split
  · exact memWrites_setVf ..
  · exact .refl s

/-- `t` is `s` but for memory, the waiters of full/empty words with what they were given, the VF records and the
Steward's registers: what the end of a launch reports. -/
def Reports (s t : State) : Prop := ∃ st, MemWrites { s with steward := st } t

theorem Reports.writes {s t u : State} (h : Reports s t) (k : MemWrites t u) : Reports s u := by
  obtain ⟨st, h⟩ := h
  exact ⟨st, h.trans k⟩

section
variable {s t : State} (h : Reports s t)
include h

theorem Reports.ctxOf (c : Nat) : t.ctxOf c = s.ctxOf c := by
  obtain ⟨st, h⟩ := h
  exact h.ctxOf c

theorem Reports.launchOf (l : Nat) : t.launchOf l = s.launchOf l := by
  obtain ⟨st, h⟩ := h
  exact h.launchOf l

theorem Reports.me : t.me = s.me := by
  obtain ⟨st, h⟩ := h
  exact h.me

end

/-- A launch that is COMPLETE. -/
def Launch.close (now : W64) (l : Launch) : Launch := { l with st := .complete, endTime := now, reeves := [] }

/-- The machine after a launch has left its queue and is COMPLETE, its faults that waited having entered its status. -/
def closedState (s : State) (key : Nat) : State :=
  let t := (leaveDevq s key).updLaunch key Launch.enterHeld
  t.updLaunch key (Launch.close t.time)

/-- The end of a launch, and what it reports: the completion record, at once or after a takeover, and a crier record. -/
theorem closeLaunch_reports (s : State) (key : Nat) : Reports (closedState s key) (closeLaunch s key) := by
  have hd (u : State) (hu : Reports (closedState s key) u) : Reports (closedState s key)
      (if u.steward.trapped || u.steward.failed then
        { u with steward := { u.steward with held := u.steward.held ++ [key] } } else deliver u key) := by
    split
    · obtain ⟨st, m, w, g, v, rfl⟩ := hu
      exact ⟨_, m, w, g, v, rfl⟩
    · exact hu.writes (memWrites_deliver u key)
  have h := hd _ ⟨_, .refl (((leaveDevq s key).updLaunch key Launch.enterHeld).enter key
    (Launch.close ((leaveDevq s key).updLaunch key Launch.enterHeld).time))⟩
  unfold closeLaunch
  dsimp only
  split
  · exact (h.writes (memWrites_unreserve ..)).writes (memWrites_crier ..)
  · exact h

theorem leaveDevq_device {s : State} {key : Nat} {l : Launch} (hl : s.launchOf key = some l) (hd : l.device = true) :
    leaveDevq s key = s.setCtx l.ctx { s.ctxOf l.ctx with devq := (s.ctxOf l.ctx).devq.filter (· != key) } := by
  unfold leaveDevq
  rw [hl]
  exact if_pos hd

theorem leaveDevq_only (s : State) (key : Nat) : ∃ cs, leaveDevq s key = { s with ctxs := cs } := by
  unfold leaveDevq
  split
  · dsimp only
    split
    · exact ⟨_, rfl⟩
    · exact ⟨s.ctxs, rfl⟩
  · exact ⟨s.ctxs, rfl⟩

theorem leaveDevq_launchOf (s : State) (key j : Nat) : (leaveDevq s key).launchOf j = s.launchOf j := by
  obtain ⟨cs, e⟩ := leaveDevq_only s key
  rw [e]
  rfl

theorem closedState_launchOf {s : State} {key : Nat} {l : Launch} (hl : s.launchOf key = some l) (hf : l.heldFaults = []) :
    ∃ now, (closedState s key).launchOf key = some (l.close now) := by
  refine ⟨((leaveDevq s key).updLaunch key Launch.enterHeld).time, ?_⟩
  have he : l.enterHeld = l := by
    unfold Launch.enterHeld
    rw [hf, List.foldl_nil, ← hf]
  rw [closedState, State.launchOf_updLaunch, if_pos rfl, State.launchOf_updLaunch, if_pos rfl, leaveDevq_launchOf, hl]
  exact congrArg (fun x => some (Launch.close _ x)) he

theorem closedState_ctxOf {s : State} {key : Nat} {l : Launch} (hl : s.launchOf key = some l) (hd : l.device = true) :
    (closedState s key).ctxOf l.ctx =
      { s.ctxOf l.ctx with devq := (s.ctxOf l.ctx).devq.filter (· != key) } := by
  refine Eq.trans (b := (leaveDevq s key).ctxOf l.ctx) rfl ?_
  rw [leaveDevq_device hl hd, State.ctxOf_setCtx, if_pos rfl]

theorem closedState_me (s : State) (key : Nat) : (closedState s key).me = s.me := by
  obtain ⟨cs, e⟩ := leaveDevq_only s key
  unfold closedState
  rw [e]
  rfl

/-! ### LAUNCH (R97, R274) -/

/-- The machine after a launch of a reeve has been given its LAUNCHID and its journal number. -/
def enqueued (s : State) (l : Launch) : State :=
  let c := s.ctxOf l.ctx
  { s.setCtx l.ctx { c with
      launchSerial := nextSerial c.launchSerial
      devq := if l.device && l.lpb.count != 0 then c.devq ++ [s.nextId] else c.devq } with
    nextId := s.nextId + 1
    steward := { s.steward with journal := s.steward.journal + 1 }
    launches := mset s.launches s.nextId
      { l with lid := c.launchSerial, age := s.steward.journal, queuedAt := s.time } }

theorem newLaunch_queues {s : State} {l : Launch} (hc : l.lpb.count ≠ 0) (hf : l.fcode = .none) :
    (newLaunch s l).1 = enqueued s l :=
  if_neg (by simp [hc, hf])

theorem newLaunch_closes {s : State} {l : Launch} (hc : l.lpb.count = 0) :
    (newLaunch s l).1 = closeLaunch (enqueued s l) s.nextId :=
  if_pos (by simp [hc])

/-- What LAUNCH makes of a launch without a fault in its context. -/
structure Launched (s t : State) (l : Launch) : Prop where
  me : t.me = s.me
  serial : (t.ctxOf l.ctx).launchSerial = nextSerial (s.ctxOf l.ctx).launchSerial
  entry : ∃ x, t.launchOf s.nextId = some x ∧ x.ctx = l.ctx ∧ x.vf = l.vf ∧
    x.lid = (s.ctxOf l.ctx).launchSerial ∧ x.args = l.args ∧ x.lpb = l.lpb ∧
    (l.lpb.count ≠ 0 → x.st = l.st ∧ (t.ctxOf l.ctx).devq = (s.ctxOf l.ctx).devq ++ [s.nextId]) ∧
    (l.lpb.count = 0 → x.st = .complete ∧ (t.ctxOf l.ctx).devq = (s.ctxOf l.ctx).devq.filter (· ≠ s.nextId))

theorem enqueued_launchOf (s : State) (l : Launch) : (enqueued s l).launchOf s.nextId =
    some { l with lid := (s.ctxOf l.ctx).launchSerial, age := s.steward.journal, queuedAt := s.time } :=
  mget_mset_self ..

theorem enqueued_ctxOf (s : State) (l : Launch) : (enqueued s l).ctxOf l.ctx = { s.ctxOf l.ctx with
    launchSerial := nextSerial (s.ctxOf l.ctx).launchSerial
    devq := if l.device && l.lpb.count != 0 then (s.ctxOf l.ctx).devq ++ [s.nextId] else (s.ctxOf l.ctx).devq } :=
  (State.ctxOf_setCtx ..).trans (if_pos rfl)

theorem newLaunch_launched (s : State) {l : Launch} (hd : l.device = true) (hf : l.fcode = .none)
    (hh : l.heldFaults = []) : Launched s (newLaunch s l).1 l := by
  by_cases hc : l.lpb.count = 0
  · rw [newLaunch_closes hc]
    have h := closeLaunch_reports (enqueued s l) s.nextId
    obtain ⟨now, hn⟩ := closedState_launchOf (enqueued_launchOf s l) hh
    have hx := closedState_ctxOf (enqueued_launchOf s l) hd
    dsimp only at hx
    rw [enqueued_ctxOf] at hx
    refine ⟨h.me.trans (closedState_me ..), ?_, _, (h.launchOf _).trans hn,
      rfl, rfl, rfl, rfl, rfl, fun h => absurd hc h, fun _ => ⟨rfl, ?_⟩⟩
    · rw [h.ctxOf, hx]
    · rw [h.ctxOf, hx]
      simp only [hc, bne_self_eq_false, Bool.and_false, Bool.false_eq_true, if_false]
      exact List.filter_congr fun x _ => by rw [bne, decide_not, beq_eq_decide]
  · rw [newLaunch_queues hc hf]
    refine ⟨rfl, ?_, _, enqueued_launchOf s l, rfl, rfl, rfl, rfl, rfl, fun _ => ⟨rfl, ?_⟩, fun h => absurd h hc⟩
    · rw [enqueued_ctxOf]
    · rw [enqueued_ctxOf]
      simp [hd, hc]

/-- What is left of LAUNCH once its block, its arguments and its code capability have been read (R97, R274). -/
def launchWith (r : Reeve) (d : GReg) (b : Lpb) (args : List Cap) (code : Cap) (s : State) :
    Except Stop (State × Flow) := do
  check ((s.ctxOf r.ctx).devq.length < 64) .launchBlock
  let s ← releaseAll s s.cur
  let lpb := { b with code := code, pclass := natField r.prio.toNat 0 2, qos := natField r.prio.toNat 4 4 }
  let id := (s.ctxOf r.ctx).launchSerial
  let (s, _) := newLaunch (markDirty s r.launch)
    { ctx := r.ctx, vf := r.vf, lid := 0, lpb := lpb, args := args, device := true }
  .ok (s.updMe (·.setG d (id.zeroExtend 64)), .next)

section Launch
variable {s : State} {p : Guard} {d : GReg} {a : KReg} (hq : Quiet s)
  {v : List Byte × State} (hv : reeveBlock s (s.me.kr a) (s.me.kr a).offset 64 256 clConfigure = .ok v)
  (hb : lpbBad v.1 = false) (hn : (lpbOf v.1).count < 2 ^ 24) {w : List Cap × State}
  (hw : (if (lpbOf v.1).nargs = 0 then .ok ([], v.2) else
    (checkCapAt (s.me.kr a) ((s.me.kr a).offset + 0x40) (some (16 * (lpbOf v.1).nargs)) 16 clConfigureCap).bind fun ea =>
      (settleSpan v.2 s.acx s.cur (s.me.kr a).space 2 ea (16 * (lpbOf v.1).nargs)).bind fun u =>
        readCaps u s.acx (s.me.kr a).space ea (lpbOf v.1).nargs) = .ok w)
  {ea : Nat} (he : checkCapAt (s.me.kr a) ((s.me.kr a).offset + 0x10) (some 16) 16 clConfigureCap = .ok ea)
  {u : List Cap × State} (hu : readCaps w.2 s.acx (s.me.kr a).space ea 1 = .ok u)
include hq hv hw hu

/-- The reads of LAUNCH leave all but memory and the VF records. -/
theorem memWrites_launch : MemWrites s u.2 := by
  have h := memWrites_reeveBlock hq hv
  refine .trans ?_ (memWrites_readCaps hu)
  split at hw
  · cases hw
    exact h
  · obtain ⟨ea, -, hw⟩ := exists_of_bind_ok hw
    obtain ⟨t, ht, hw⟩ := exists_of_bind_ok hw
    rw [← h.cur] at ht
    rw [settleSpan_quiet (h.quiet hq) ht] at hw
    exact h.trans (memWrites_readCaps hw)

include hb hn he

theorem execLaunch_reads : ∃ f, exec (.launch p d a) s = .next (runReeve 4 p f s) ∧
    f s = launchWith s.me d (lpbOf v.1) w.1 (u.1.getD 0 Cap.null) u.2 := by
  refine ⟨_, rfl, ?_⟩
  have h := memWrites_reeveBlock hq hv
  unfold launchWith
  by_cases h0 : (lpbOf v.1).nargs = 0
  · rw [if_pos h0] at hw
    cases hw
    simp only [hv, bind, Except.bind, hb, check, hn, h0, he, hu, Bool.not_false, decide_true, if_true]
  · rw [if_neg h0] at hw
    obtain ⟨ea', he', hw⟩ := exists_of_bind_ok hw
    obtain ⟨t, ht, hw⟩ := exists_of_bind_ok hw
    rw [← h.cur] at ht
    simp only [hv, bind, Except.bind, hb, check, hn, h0, he', ht, hw, he, hu, Bool.not_false, decide_true, if_true, if_false]

/-- A full device queue. -/
theorem execLaunch_full (hg : s.me.guard p = true) (hd : 64 ≤ (s.ctxOf s.me.ctx).devq.length) (hs : s.me.superv = false) :
    TakesTrap (.launch p d a) s { code := .launchBlock } := by
  obtain ⟨f, hx, hf⟩ := execLaunch_reads (p := p) (d := d) hq hv hb hn hw he hu
  refine takesTrap_of (len := 4) hx hg (hf.trans (check_bind_false ?_ _)) hs rfl
  rw [(memWrites_launch hq hv hw hu).ctxOf]
  exact decide_eq_false (Nat.not_lt.mpr hd)

/-- The launch that LAUNCH queues. -/
def launchBy (r : Reeve) (b : Lpb) (args : List Cap) (code : Cap) : Launch :=
  { ctx := r.ctx, vf := r.vf, lid := 0, args := args, device := true
    lpb := { b with code := code, pclass := r.prio.toNat % 4, qos := r.prio.toNat / 16 % 16 } }

theorem execLaunch_room (hg : s.me.guard p = true) (hd : (s.ctxOf s.me.ctx).devq.length < 64) (hs : Still s) :
    exec (.launch p d a) s = .next (retire ((newLaunch (markDirty u.2 s.me.launch)
      (launchBy s.me (lpbOf v.1) w.1 (u.1.getD 0 Cap.null))).1.updMe
        (·.setG d ((s.ctxOf s.me.ctx).launchSerial.zeroExtend 64))) (s.me.pc + BitVec.ofNat 64 4)) := by
  obtain ⟨f, hx, hf⟩ := execLaunch_reads (p := p) (d := d) hq hv hb hn hw he hu
  have hm := memWrites_launch hq hv hw hu
  rw [hx, runReeve_next hg (hf.trans ?_)]
  unfold launchWith
  rw [check_bind_true (by rw [hm.ctxOf]; exact decide_eq_true hd), releaseAll_still (hm.still hs)]
  simp only [bind, Except.bind, hm.ctxOf, natField, Nat.shiftRight_eq_div_pow, pow_zero, Nat.div_one]
  rfl

end Launch

theorem retire_updMe_me (s : State) (f : Reeve → Reeve) (pc : W64) :
    (retire (s.updMe f) pc).me = { f s.me with pc := pc, wait := none, issued := none } := by
  rw [retire_me, State.updMe_eq, State.me_setReeve]

theorem retire_ctxOf (s : State) (pc : W64) (c : Nat) : (retire s pc).ctxOf c = s.ctxOf c := by
  unfold State.ctxOf
  rw [retire_ctxs]

/-! ### LWAIT (R275) -/

section Lwait
variable {s : State} {p : Guard} {d a : GReg} (hg : s.me.guard p = true)
include hg

/-- The launch that LWAIT names. -/
def lwaitNames (s : State) (a : GReg) : Option Launch :=
  if (s.me.gr a).toNat < 2 ^ 32 then knownLaunch s s.me.ctx s.me.launch (field (s.me.gr a) 0 32) else none

theorem execLwait_unknown (h : lwaitNames s a = none) : WritesG (.lwait p d a) s d 0xFFFFFFFFFFFFFFFF := by
  unfold lwaitNames at h
  exact gives_of_next (len := 4) rfl hg (by simp only [h]; rfl) (Reeve.setG_vf ..)

theorem execLwait_complete {l : Launch} (h : lwaitNames s a = some l) (hs : l.st = .complete) :
    WritesG (.lwait p d a) s d (lwaitWord l) := by
  unfold lwaitNames at h
  exact gives_of_next (len := 4) rfl hg (by simp only [h, hs, if_true]; rfl) (Reeve.setG_vf ..)

theorem execLwait_waits {l : Launch} (h : lwaitNames s a = some l) (hs : l.st ≠ .complete) :
    Waits (.lwait p d a) s .lwait := by
  unfold lwaitNames at h
  exact congrArg Host.Outcome.next (runReeve_wait hg (by simp only [h, hs, if_false]; rfl))

end Lwait

theorem lwaitWord_eq (l : Launch) : lwaitWord l =
    BitVec.ofNat 64 (l.replays.toNat * 2 ^ 16 + l.fsub % 256 * 2 ^ 8 + l.fcode.num) := by
  simp only [lwaitWord, Nat.shiftLeft_eq]

/-- Settles O24: LAUNCH is `execLaunch_full` or `execLaunch_room`, whose launch `newLaunch_launched` describes. -/
theorem launchInstructions : Obligations.LaunchInstructions := by
  refine ⟨?_, fun s p d a hg => ⟨execLwait_unknown hg, fun l hl => ⟨fun hs => ?_, execLwait_waits hg hl⟩⟩⟩
  · intro s p d a hg hq k c v hv hb b hn w hw ea he u hu
    refine ⟨fun hd hs => ?_, fun hd hs => ?_⟩
    · obtain ⟨t, hx, ht⟩ := execLaunch_full (d := d) hq hv hb hn hw he hu hg hd hs
      exact ⟨t, hx, congrArg Reeve.ecause ht.me, congrArg Reeve.pc ht.me⟩
    · have hm := memWrites_launch hq hv hw hu
      obtain ⟨hme, hserial, x, hx, hctx, hvf, hlid, hargs, hlpb, hqueued, hclosed⟩ :=
        newLaunch_launched (markDirty u.2 s.me.launch) (l := launchBy s.me b w.1 (u.1.getD 0 Cap.null)) rfl rfl rfl
      have hc : (markDirty u.2 s.me.launch).ctxOf (launchBy s.me b w.1 (u.1.getD 0 Cap.null)).ctx = c := hm.ctxOf _
      have hi : (markDirty u.2 s.me.launch).nextId = s.nextId := hm.nextId
      refine ⟨_, execLaunch_room hq hv hb hn hw he hu hg hd hs, ?_⟩
      generalize (newLaunch (markDirty u.2 s.me.launch) _).1 = y at *
      rw [hc] at hserial hlid hqueued hclosed
      rw [hi] at hx hqueued hclosed
      rw [retire_updMe_me, hme, State.me_markDirty, hm.me, retire_ctxOf]
      exact ⟨rfl, rfl, Reeve.setG_k .., hserial, x, (retire_launchOf ..).trans hx, hctx, hvf, hlid, hargs, hlpb,
        hqueued, hclosed⟩
  · rw [← lwaitWord_eq]
    exact execLwait_complete hg hl hs

end Sys2Proof.Machine
end

section
/-! SUPPORT. O51: the registers of a VF, the windows of the quality-of-service units and the samples of hamlets (R105, R187,
R205, R208, R209, R372, R373). -/

namespace Sys2Proof.Machine

/-! ### The crier's read offset -/

/-- No record is owed. -/
theorem crierFlush_noDrops {s : State} {vf : Nat} (h : (s.vfOf vf).drops = 0) : crierFlush s vf = s :=
  if_pos (by simp [h])

/-! ### Windows of the quality-of-service units (R373) -/

/-- A window of a unit has ended. -/
def windowEnded (s : State) (unit : Nat) : State :=
  { s with qosAt := mset s.qosAt unit (mgetD s.qosAt unit 0 + 16000) }

/-- One more step of a tenant's throttle, of at most 7. -/
def throttleStep (unit : Nat) (m : SMap Nat) (vf : Nat) : SMap Nat :=
  mset m (1024 * unit + vf) (min 7 (mgetD m (1024 * unit + vf) 0 + 1))

/-- The best-effort tenants among some, each once. -/
def bestEffort (s : State) (best : List Nat) : List Nat :=
  (best.filter fun v => v < 512 && (s.vfOf v).qos.getLsbD 5).foldl sadd []

section Window
variable {s : State} {unit : Nat} {lat : List (Nat × List Nat)} {best : List Nat}

theorem execQosWindow_early (h : windowEnds s unit = false) : exec (.qosWindow unit lat best) s = .next s := by
  refine congrArg Host.Outcome.next ?_
  dsimp only
  rw [h]
  rfl

variable (h : windowEnds s unit = true)
include h

theorem execQosWindow_misses (hv : (lat.filterMap (verdict s)).any id = true) : exec (.qosWindow unit lat best) s =
    .next { windowEnded s unit with throttle := (bestEffort s best).foldl (throttleStep unit) s.throttle } := by
  refine congrArg Host.Outcome.next ?_
  dsimp only
  rw [h, if_neg (by decide), if_pos hv]
  rfl

theorem execQosWindow_noVerdict (hv : lat.filterMap (verdict s) = []) : exec (.qosWindow unit lat best) s =
    .next (windowEnded s unit) := by
  refine congrArg Host.Outcome.next ?_
  dsimp only
  rw [h, hv]
  rfl

theorem execQosWindow_meets (hv : (lat.filterMap (verdict s)).any id = false) (hn : lat.filterMap (verdict s) ≠ []) :
    exec (.qosWindow unit lat best) s = .next { windowEnded s unit with
      throttle := (s.throttle.map fun x => (x.1, if x.1 / 1024 = unit then x.2 - 1 else x.2)).filter fun x => x.2 != 0 } := by
  refine congrArg Host.Outcome.next ?_
  dsimp only
  rw [h, if_neg (by decide), if_neg (by rw [hv]; decide), if_neg (by simpa using hn)]
  rfl

end Window

/-- A list that names one tenant alone names it once. -/
theorem foldl_sadd_single {l : List Nat} {w : Nat} (hn : l ≠ []) (h : ∀ v ∈ l, v = w) : l.foldl sadd [] = [w] := by
  obtain ⟨x, l, rfl⟩ := List.exists_cons_of_ne_nil hn
  obtain rfl : x = w := h x (.head _)
  refine List.foldlRecOn (motive := (· = [x])) l sadd rfl fun m hm v hv => ?_
  rw [hm, h v (.tail _ hv)]
  simp [sadd]

/-- What a missed target does to the throttles where one tenant alone made requests. -/
theorem throttle_single {s : State} {best : List Nat} {w : Nat} (unit : Nat)
    (hn : (best.filter fun v => decide (v < 512) && (s.vfOf v).qos.getLsbD 5) ≠ [])
    (h : ∀ v ∈ best.filter fun v => decide (v < 512) && (s.vfOf v).qos.getLsbD 5, v = w) (m : SMap Nat) (k : Nat) :
    mgetD ((bestEffort s best).foldl (throttleStep unit) m) k 0 =
      if k = 1024 * unit + w then min 7 (mgetD m k 0 + 1) else mgetD m k 0 := by
  rw [bestEffort, foldl_sadd_single hn h, List.foldl_cons, List.foldl_nil, throttleStep, mgetD_mset]
  split
  next e => rw [e]
  next => rfl

/-! ### Samples (R105, R208, R209) -/

/-- The sample record of a hamlet's reeve has been written. -/
def samplePoint (u : State) (h : Nat) : State :=
  let r := u.reeve h
  let stall := reeveStall u h r
  crier ((u.count r.vf 0x090).count r.vf (0x0A0 + 8 * stall)) r.vf 0x10 h 0 0 r.lid
    (leBytes 8 r.pc.toNat ++ [BitVec.ofNat 8 stall])

theorem takeSampleOf_eq (u : State) (h : Nat) (cfg : W64) : takeSampleOf u h cfg =
    if cfg.getLsbD 2 then sampleCells (if cfg.getLsbD 1 then samplePoint u h else u) h (u.reeve h)
    else if cfg.getLsbD 1 then samplePoint u h else u := rfl

/-- Which records a sample writes. -/
theorem sample_records {i : Instr} {s u : State} {h : Nat} {cfg : W64} (hx : exec i s = .next (takeSampleOf u h cfg)) :
    (cfg.getLsbD 1 = false → cfg.getLsbD 2 = false → exec i s = .next u) ∧
    (cfg.getLsbD 1 = true → cfg.getLsbD 2 = false → exec i s = .next (samplePoint u h)) ∧
    (cfg.getLsbD 1 = false → cfg.getLsbD 2 = true → exec i s = .next (sampleCells u h (u.reeve h))) ∧
    (cfg.getLsbD 1 = true → cfg.getLsbD 2 = true →
      exec i s = .next (sampleCells (samplePoint u h) h (u.reeve h))) := by
  rw [takeSampleOf_eq] at hx
  refine ⟨fun h1 h2 => ?_, fun h1 h2 => ?_, fun h1 h2 => ?_, fun h1 h2 => ?_⟩ <;>
    simpa only [h1, h2, Bool.false_eq_true, if_true, if_false] using hx

section Timer
variable {s : State} {h : Nat}

theorem execSampleTimer_idle (hr : (s.reeve h).run = .idle) : exec (.sampleTimer h) s = .next s :=
  congrArg Host.Outcome.next (if_pos (by rw [hr]; rfl))

variable (hr : (s.reeve h).run ≠ .idle)
include hr

theorem execSampleTimer_old {cfg : W64} (hd : (s.reeve h).sampleDue = some cfg) : exec (.sampleTimer h) s =
    .next (takeSampleOf (s.setReeve h { s.reeve h with sampleDue := none }) h cfg) := by
  refine congrArg Host.Outcome.next ((if_neg (by simpa using hr)).trans ?_)
  rw [hd]

theorem execSampleTimer_early (hd : (s.reeve h).sampleDue = none)
    (he : (s.reeve h).samplecfg.getLsbD 0 = false ∨ (s.reeve h).sampleCount < sampleEvery (s.reeve h).samplecfg) :
    exec (.sampleTimer h) s = .next s := by
  refine congrArg Host.Outcome.next ((if_neg (by simpa using hr)).trans ?_)
  rw [hd]
  refine if_pos ?_
  rw [Bool.or_eq_true, Bool.not_eq_true', decide_eq_true_iff]
  exact he

theorem execSampleTimer_due (hd : (s.reeve h).sampleDue = none) (hc : (s.reeve h).samplecfg.getLsbD 0 = true)
    (he : sampleEvery (s.reeve h).samplecfg ≤ (s.reeve h).sampleCount) : exec (.sampleTimer h) s =
    .next (takeSampleOf (s.setReeve h { s.reeve h with
      sampleCount := (s.reeve h).sampleCount - sampleEvery (s.reeve h).samplecfg }) h (s.reeve h).samplecfg) := by
  refine congrArg Host.Outcome.next ((if_neg (by simpa using hr)).trans ?_)
  dsimp only
  rw [hd]
  refine if_neg ?_
  rw [hc, Bool.not_true, Bool.false_or, decide_eq_true_iff]
  exact Nat.not_lt.mpr he

end Timer

theorem sampleEvery_eq (cfg : W64) : sampleEvery cfg = (cfg.toNat / 256 % 2 ^ 24 + 1) * 16 := by
  rw [sampleEvery, natField, Nat.shiftRight_eq_div_pow]

theorem sampledIdx_waits (s : State) {x : Slot} {f : Firing} (hf : x.firing = some f) (hw : f.waiting = true) :
    sampledIdx s x = BitVec.ofNat 8 f.idx := by
  unfold sampledIdx
  rw [hf]
  exact if_pos hw

theorem sampledIdx_fired (s : State) {x : Slot} {f : Firing} (hf : x.firing = some f) (hw : f.waiting = false) {i : Nat}
    (hi : f.last = some i) : sampledIdx s x = BitVec.ofNat 8 i := by
  unfold sampledIdx
  rw [hf]
  dsimp only
  rw [hw, hi]
  rfl

/-- Settles O51: the registers by their events' definitions, a window by `execQosWindow`'s equations, a sample by those of
`execSampleTimer` and by `sample_records`. -/
theorem countersServiceAndSamples : Obligations.CountersServiceAndSamples := by
  constructor
  · intro s vf v on unit lat best goes r verdicts slows
    refine ⟨fun hd => ?_, rfl, rfl, rfl, fun h4 h5 => ?_, fun h => ?_, ?_⟩
    · exact congrArg Host.Outcome.next (crierFlush_noDrops (by rw [State.vfOf_setVf, if_pos rfl]; exact hd))
    · exact congrArg Host.Outcome.next (if_pos (by rw [h4, h5]; rfl))
    · exact congrArg Host.Outcome.next (if_neg (by
        simpa only [Bool.and_eq_true, not_and_or, Bool.not_eq_true] using h))
    · intro due ended
      refine ⟨fun hd => ?_, fun hd hv => ?_, fun hd hv => ?_, fun hd hv hn => ?_⟩
      · exact execQosWindow_early (decide_eq_false hd)
      · exact execQosWindow_noVerdict (decide_eq_true hd) hv
      · refine ⟨_, execQosWindow_misses (decide_eq_true hd) hv, rfl, fun hs => ?_, fun w hn hw k => ?_⟩
        · have he : bestEffort s best = [] := congrArg (List.foldl sadd []) hs
          rw [he]
          rfl
        · exact throttle_single unit hn hw s.throttle k
      · exact execQosWindow_meets (decide_eq_true hd) hv hn
  · intro s h goes r every takes
    refine ⟨execSampleTimer_idle, fun x f hf => ⟨sampledIdx_waits s hf, fun hw i => sampledIdx_fired s hf hw⟩,
      fun hr => ⟨fun cfg hd => ?_, fun hd he => ?_, fun hd hc he => ?_⟩⟩
    · exact sample_records (execSampleTimer_old hr hd)
    · exact execSampleTimer_early hr hd (by rw [sampleEvery_eq]; exact he)
    · have hx := execSampleTimer_due hr hd hc (by rw [sampleEvery_eq]; exact he)
      rw [sampleEvery_eq] at hx
      exact sample_records hx

end Sys2Proof.Machine
end

section
/-! RETIREMENT, CONTEXTS AND CLOCKS. What retires a hamlet or a page and what moves the clock (R201, R412, R413), what
a teardown of a context leaves (R97, R188), and what a cycle of the fabric keeps while it meets the errors that are due
and serves the host's and the other packages' accesses (R205, R328, R374). -/

namespace Sys2Proof.Machine

/-- A fold keeps what each of its steps keeps. -/
theorem foldl_keeps {α β : Type} {g : State → β} {f : State → α → State} (hf : ∀ s a, g (f s a) = g s) (s : State)
    (l : List α) : g (l.foldl f s) = g s := by
  induction l generalizing s with
  | nil => rfl
  | cons a l ih => rw [List.foldl_cons, ih, hf]

/-! ### Retirement (R201, R412) -/

/-- A change of a hamlet is told by what it makes of the hamlet that stands. -/
theorem State.updHam_congr {s : State} {h : Nat} {f g : Hamlet → Hamlet} (e : f (s.ham h) = g (s.ham h)) :
    s.updHam h f = s.updHam h g := by
  unfold State.updHam
  rw [e]

theorem exec_hamletRetire_none {s : State} {h : Nat} (hn : 640 ≤ h ∨ hamErrors s h < 3) :
    exec (.hamletRetire h) s = .next s :=
  congrArg Host.Outcome.next (if_pos (by simpa using hn))

/-- Where a hamlet stands after it has retired. -/
def retiredPlace : Place → Place
  | .free => .retired
  | .clearing => .retired
  | .occupied => .retiring
  | p => p

theorem exec_hamletRetire {s : State} {h : Nat} (hh : h < 640) (hn : 3 ≤ hamErrors s h) {q : Place}
    (hq : retiredPlace (s.ham h).place = q) :
    exec (.hamletRetire h) s =
      .next { s.updHam h (fun x => { x with place := q }) with retiredH := sadd s.retiredH h } := by
  subst hq
  refine (congrArg Host.Outcome.next (if_neg (by simp [hh, hn]))).trans ?_
  rw [State.updHam_congr (g := fun x => { x with place := retiredPlace (s.ham h).place })]
  rfl

theorem copies_iff {a : Nat} : copies a = true ↔ populated a = true ∧ isHost a = false ∧ isScratch a = false := by
  simp [copies, and_assoc]

theorem exec_pageRetire {s : State} {a : Nat} (hc : copies a = true) (hn : 2 ≤ pageErrors s a) :
    exec (.pageRetire a) s = .next { s with retiredP := sadd s.retiredP (a / 65536) } := by
  refine (congrArg Host.Outcome.next (if_pos (by simp [hc, hn]))).trans ?_
  rw [Nat.shiftRight_eq_div_pow]

theorem exec_pageRetire_none {s : State} {a : Nat} (hn : ¬(copies a = true ∧ 2 ≤ pageErrors s a)) :
    exec (.pageRetire a) s = .next s :=
  congrArg Host.Outcome.next (if_neg (by simpa using hn))

/-- The errors of a list with one error only, within its day, all count or none does. -/
theorem errorsOf_uniform {s : State} {e : Nat × Nat × W64} (h : ∀ x ∈ s.errs, x = e)
    (hw : (s.time - e.2.2).toNat < errWindow) (f : Nat → Nat → Bool) :
    errorsOf s f = if f e.1 e.2.1 = true then s.errs.length else 0 := by
  unfold errorsOf
  split
  · rw [List.filter_eq_self.mpr fun x hx => by simp only [h x hx, decide_true, Bool.true_and, *]]
  · rw [List.filter_eq_nil_iff.mpr fun x hx => by simp only [h x hx, Bool.and_eq_true, not_and]; exact fun _ => ‹_›]
    rfl

theorem pageErrors_uniform {s : State} {a : Nat} {e : Nat × Nat × W64} (h : ∀ x ∈ s.errs, x = e)
    (hw : (s.time - e.2.2).toNat < errWindow) :
    pageErrors s a = if (e.1 = 2 ∨ e.1 = 3) ∧ e.2.1 / 65536 = a / 65536 then s.errs.length else 0 := by
  unfold pageErrors
  rw [errorsOf_uniform h hw]
  simp [Nat.shiftRight_eq_div_pow]

/-! ### Teardown (R97, R188) -/

theorem launches_foldl_syncHam (s : State) (hs : List Nat) : (hs.foldl syncHam s).launches = s.launches :=
  foldl_keeps (g := State.launches) (f := syncHam) (fun _ _ => rfl) s hs

theorem launches_dropHops (s : State) (es : List (Nat × W64)) : (dropHops s es).launches = s.launches :=
  foldl_keeps (g := State.launches) (f := fun s (e : Nat × W64) => s.updHam e.1 fun x => { x with switch := x.switch.erase e.2 })
    (fun _ _ => rfl) s es

theorem launches_forgetNodes (s : State) (i : Nat) : (forgetNodes s i).launches = s.launches :=
  launches_foldl_syncHam ..

theorem launches_liftInst (s : State) (i : Nat) : (liftInst s i).launches = s.launches := by
  unfold liftInst
  split
  · rfl
  · exact (launches_foldl_syncHam ..).trans ((launches_dropHops ..).trans (launches_forgetNodes ..))

theorem launches_liftLaunch (s : State) (key : Nat) (l : Launch) : (liftLaunch s key l).launches = s.launches :=
  (foldl_keeps (g := State.launches) (f := fun s h => { s.setReeve h _ with ports := _ }) (fun _ _ => rfl) _ _).trans
    (foldl_keeps (g := State.launches) launches_liftInst _ _)

theorem launches_discardLaunch (s : State) (key : Nat) (l : Launch) : (discardLaunch s key l).launches = s.launches :=
  (launches_foldl_syncHam ..).trans (launches_liftLaunch ..)

/-- A launch that is dropped is no more; every other stays. -/
theorem launchOf_dropLaunch (s : State) (key j : Nat) :
    (dropLaunch s key).launchOf j = if j = key then none else s.launchOf j := by
  unfold dropLaunch
  split
  next hk =>
    by_cases hj : j = key
    · rw [if_pos hj, hj]
      exact hk
    · rw [if_neg hj]
  next l _ =>
    have hl : (discardLaunch s key l).launches = s.launches := launches_discardLaunch ..
    extract_lets t v u
    have hu : u.launches = s.launches := by
      unfold u
      split <;> exact hl
    exact (mget_mdel ..).trans (by rw [hu]; rfl)

theorem launchOf_foldl_dropLaunch (s : State) (keys : List Nat) (j : Nat) :
    (keys.foldl dropLaunch s).launchOf j = if j ∈ keys then none else s.launchOf j := by
  induction keys generalizing s with
  | nil => simp
  | cons k keys ih =>
    rw [List.foldl_cons, ih, launchOf_dropLaunch]
    by_cases hj : j = k <;> simp [hj]

/-- No launch of a context outlives it. -/
theorem launchOf_dropContext {s : State} {c k : Nat} {l : Launch} (h : (dropContext s c).launchOf k = some l) :
    l.ctx ≠ c := by
  have hd : (dropContext s c).launchOf k =
      if k ∈ (s.launches.filter fun x => x.2.ctx == c).map (·.1) then none else s.launchOf k :=
    launchOf_foldl_dropLaunch ..
  rw [hd] at h
  intro hc
  split at h
  · cases h
  · refine ‹k ∉ _› (List.mem_map_of_mem (f := (·.1)) (a := (k, l)) (List.mem_filter.mpr ⟨mget_mem h, ?_⟩))
    simpa using hc

/-- R97, R188: what a teardown of a context leaves of it. -/
theorem exec_contextTeardown {s : State} {c : Nat} (h : (mget s.ctxs c).isSome = true) :
    ∃ t, exec (.contextTeardown c) s = .next t ∧ mget t.ctxs c = none ∧
      mget t.roots1 c = none ∧ (∀ k l, t.launchOf k = some l → l.ctx ≠ c) ∧ (∀ x ∈ t.walks, x.ctx ≠ c) ∧
      (∀ x ∈ t.cmds, x.2.ctx ≠ c) ∧ (∀ x ∈ t.mqueues, x.2.ctx ≠ c) := by
  refine ⟨dropContext s c, congrArg Host.Outcome.next (if_neg (by simp [Option.isSome_iff_ne_none.mp h])), ?_, ?_,
    fun _ _ => launchOf_dropContext, fun x hx => ?_, fun x hx => ?_, fun x hx => ?_⟩
  · exact (mget_mdel ..).trans (if_pos rfl)
  · exact (mget_mdel ..).trans (if_pos rfl)
  · simpa using (List.mem_filter.mp hx).2
  · simpa using (List.mem_filter.mp hx).2
  · simpa using (List.mem_filter.mp hx).2

/-- R99, R189: what the end of a VF leaves of it. -/
theorem exec_vfTeardown (s : State) (vf : Nat) :
    ∃ t, exec (.vfTeardown vf) s = .next t ∧ mget t.vfs vf = none ∧ mget t.roots2 vf = none ∧
      vf ∉ t.steward.kicks ∧ ∀ x ∈ t.throttle, x.1 % 1024 ≠ vf := by
  refine ⟨_, rfl, ?_, ?_, ?_, fun x hx => ?_⟩
  · exact (mget_mdel ..).trans (if_pos rfl)
  · exact (mget_mdel ..).trans (if_pos rfl)
  · exact fun hx => (mem_sdel.mp hx).1 rfl
  · simpa using (List.mem_filter.mp hx).2

/-! ### What keeps the clocks: an access, wherever it leads -/

/-- CYCLE, TIME and the functions that came up in this cycle. -/
def State.clocks (s : State) : W64 × W64 × List Nat := (s.cycle, s.time, s.newly)

theorem MemWrites.clocks {s t : State} (h : MemWrites s t) : t.clocks = s.clocks := by
  obtain ⟨_, _, _, _, rfl⟩ := h
  rfl
theorem LaunchesOnly.clocks {s t : State} (h : LaunchesOnly s t) : t.clocks = s.clocks := by
  obtain ⟨_, _, rfl⟩ := h
  rfl

theorem clocks_setCellAt (s : State) (n : NodeRef) (c : Cell) : (s.setCellAt n c).clocks = s.clocks := rfl

/-- A write inside a doubleword of a register window changes at most one cell. -/
theorem writeWinWord_cases (s : State) (h cell o : Nat) (bs : List Byte) (skip : List (Nat × Nat × Nat)) :
    writeWinWord s h cell o bs skip = s ∨ ∃ n c, writeWinWord s h cell o bs skip = s.setCellAt n c := by
  unfold writeWinWord
  cases cellOfHam s h cell with
  | none => exact .inl rfl
  | some e =>
    obtain ⟨n, c⟩ := e
    dsimp only
    split
    · split
      · exact .inr ⟨_, _, rfl⟩
      · exact .inr ⟨_, _, rfl⟩
    · split
      · exact .inr ⟨_, _, rfl⟩
      · split
        · split
          · exact .inl rfl
          · exact .inl rfl
          · split
            · exact .inl rfl
            · exact .inr ⟨_, _, rfl⟩
          · exact .inr ⟨_, _, rfl⟩
        · exact .inl rfl

theorem clocks_writeWinWord (s : State) (h cell o : Nat) (bs : List Byte) (skip : List (Nat × Nat × Nat)) :
    (writeWinWord s h cell o bs skip).clocks = s.clocks := by
  obtain e | ⟨n, c, e⟩ := writeWinWord_cases s h cell o bs skip
  · rw [e]
  · rw [e, clocks_setCellAt]

theorem clocks_writeWin (s : State) (h cell o : Nat) (bs : List Byte) : (writeWin s h cell o bs).clocks = s.clocks := by
  have hp : (writeWinParts s h cell o bs (foreignSlots s h cell o bs)).clocks = s.clocks :=
    (foldl_keeps (fun _ _ => clocks_writeWinWord ..) _ _).trans (clocks_writeWinWord ..)
  unfold writeWin
  extract_lets bad t
  split
  · refine (foldl_keeps (fun u k => ?_) _ _).trans hp
    exact (memWrites_count ..).clocks.trans (launchesOnly_recordFault ..).clocks
  · exact hp

theorem clocks_writeAcc (s : State) (h cell o : Nat) (bs : List Byte) : (writeAcc s h cell o bs).clocks = s.clocks := by
  induction bs generalizing s o with
  | nil => rfl
  | cons b bs ih => exact (ih ..).trans rfl

theorem clocks_writeCtl (s : State) (h o : Nat) (v : W64) : (writeCtl s h o v).clocks = s.clocks := by
  unfold writeCtl
  dsimp only
  split_ifs <;> rfl

theorem clocks_writeMmio (s : State) (o : Nat) (v : W64) : (writeMmio s o v).clocks = s.clocks := by
  unfold writeMmio
  dsimp only
  split <;> rfl

theorem clocks_byWords {f : State → Nat → Nat → List Byte → State} (hf : ∀ s o k bs, (f s o k bs).clocks = s.clocks)
    (o : Nat) (bs : List Byte) (s : State) : (byWords f o bs s).clocks = s.clocks :=
  (foldl_keeps (fun t _ => hf t _ _ _) _ _).trans (hf s _ _ _)

theorem clocks_storeLoc {s t : State} {x : Acx} {l : Loc} {bs : List Byte} {full zero : Bool}
    (h : storeLoc s x l bs full zero = .ok t) : t.clocks = s.clocks := by
  cases l with
  | phys a =>
    cases h
    exact (memWrites_storePhys ..).clocks
  | win h c o =>
    cases h
    exact clocks_writeWin ..
  | acc k c o =>
    unfold storeLoc at h
    dsimp only at h
    split at h
    · cases h
    · cases h
      exact clocks_writeAcc ..
  | ctl k o =>
    cases h
    exact clocks_byWords (fun _ _ _ _ => clocks_writeCtl ..) _ _ _
  | mmio o =>
    cases h
    exact clocks_byWords (fun _ _ _ _ => clocks_writeMmio ..) _ _ _
  | peer a ea m =>
    cases h
    rfl

/-- An update is a load and, where it gives a new value, a store. -/
theorem clocks_updateLoc {s : State} {x : Acx} {l : Loc} {n : Nat} {op : PeerOp} {f : Nat → Option Nat} {full : Bool}
    {v : Nat × State} (h : updateLoc s x l n op f full = .ok v) : v.2.clocks = s.clocks := by
  unfold updateLoc at h
  split at h
  · split at h
    · cases h
      rfl
    · obtain ⟨bs, -, h⟩ := exists_of_bind_ok h
      cases h
      rfl
  · obtain ⟨⟨bs, t⟩, ht, h⟩ := exists_of_bind_ok h
    have hs : t.clocks = s.clocks := (memWrites_loadLoc ht).clocks
    dsimp only at h
    split at h
    · obtain ⟨u, hu, h⟩ := exists_of_bind_ok h
      cases h
      exact (clocks_storeLoc hu).trans hs
    · cases h
      exact hs

theorem clocks_peerDo {s : State} {x : Acx} {l : Loc} {op : PeerOp} {v : List Byte × State}
    (h : peerDo s x l op = .ok v) : v.2.clocks = s.clocks := by
  cases op with
  | load n => exact (memWrites_loadLoc h).clocks
  | store bs =>
    obtain ⟨t, ht, h⟩ := exists_of_bind_ok h
    cases h
    exact clocks_storeLoc ht
  | atomic | cas | reduce =>
    obtain ⟨⟨_, t⟩, ht, h⟩ := exists_of_bind_ok h
    cases h
    exact clocks_updateLoc ht

theorem clocks_peerServe {src vf a : Nat} {op : PeerOp} {s t : State} (h : peerServe src vf a op s = .ok t) :
    t.clocks = s.clocks := by
  unfold peerServe at h
  split at h
  · cases h
    rfl
  · split at h
    · cases h
      rfl
    · split at h
      · cases h
        rfl
      · split at h
        next hp =>
          cases h
          exact clocks_peerDo hp
        · cases h
          rfl
        · cases h
      · cases h
        rfl

theorem clocks_hostPut {s t : State} {a : Nat} {bs : List Byte} (h : hostPut s a bs = .ok t) : t.clocks = s.clocks := by
  unfold hostPut at h
  split at h
  · cases h
    rfl
  · split at h
    · cases h
      rfl
    · cases h
      rfl
    · exact clocks_storeLoc h
    · cases h
      rfl

theorem clocks_hostPuts {n a : Nat} {bs : List Byte} {s t : State} (h : hostPuts n a bs s = .ok t) :
    t.clocks = s.clocks := by
  induction n generalizing a bs s with
  | zero =>
    cases h
    rfl
  | succ n ih =>
    unfold hostPuts at h
    split at h
    · cases h
      rfl
    · obtain ⟨u, hu, h⟩ := exists_of_bind_ok h
      exact (ih h).trans (clocks_hostPut hu)

theorem memWrites_hostGet {s : State} {a n : Nat} {v : Option (List Byte) × State} (h : hostGet s a n = .ok v) :
    MemWrites s v.2 := by
  unfold hostGet at h
  split at h
  · cases h
    exact .refl s
  · split at h
    · cases h
      exact .refl s
    · split at h
      · cases h
        split
        · exact .refl s
        · exact memWrites_correctSoft ..
      · cases h
        exact .refl s
      · obtain ⟨w, hw, h⟩ := exists_of_bind_ok h
        cases h
        exact memWrites_loadLoc hw
      · cases h
        exact .refl s

theorem memWrites_hostGets {m a n : Nat} {s : State} {v : Option (List Byte) × State} (h : hostGets m a n s = .ok v) :
    MemWrites s v.2 := by
  induction m generalizing a n s v with
  | zero =>
    cases h
    exact .refl s
  | succ m ih =>
    unfold hostGets at h
    split at h
    · cases h
      exact .refl s
    · obtain ⟨x, hx, h⟩ := exists_of_bind_ok h
      obtain ⟨y, hy, h⟩ := exists_of_bind_ok h
      obtain rfl := Except.ok.inj h
      exact (memWrites_hostGet hx).trans (ih (v := y) hy)

theorem clocks_outDo {s t : State} {op : OutOp} (h : outDo s op = .ok t) : t.clocks = s.clocks := by
  cases op with
  | put a bs => exact clocks_hostPuts h
  | get a n =>
    unfold outDo at h
    dsimp only at h
    split at h
    · cases h
      exact (memWrites_hostGets ‹_›).clocks
    · cases h
      exact (memWrites_hostGets ‹_›).clocks
    · cases h
  | peer src vf a op => exact clocks_peerServe h

/-- Serving the accesses from outside keeps the clocks. -/
theorem clocks_outServe (s : State) : (outServe s).clocks = s.clocks := by
  refine foldl_keeps (fun t ⟨i, op⟩ => ?_) s _
  dsimp only
  split
  next u hu =>
    have hc : u.clocks = t.clocks := clocks_outDo hu
    exact hc
  · rfl

/-! ### A cycle of the fabric (R205, R328, R374) -/

theorem clocks_nodeFault (s : State) (n : NodeRef) (t : Trap) : (nodeFault s n t).clocks = s.clocks :=
  (launchesOnly_recordFault ..).clocks

theorem clocks_meetErrors (s : State) (sub : Nat) (l : List Nat) (ham cell : Nat → Nat) :
    (meetErrors s sub l ham cell).clocks = s.clocks := by
  refine foldl_keeps (fun t e => ?_) s l
  split
  · exact clocks_nodeFault ..
  · rfl

theorem clocks_execErrors (s : State) : (execErrors s).clocks = s.clocks :=
  (clocks_meetErrors ..).trans <| (clocks_meetErrors ..).trans <|
    foldl_keeps (g := State.clocks) (f := fun s e => noteError s 4 (e / 16)) (fun _ _ => rfl) s _

/-- The state after the fabric's own part of a cycle, before the counters. -/
def cycled (s : State) : State :=
  { s with
    insts := s.insts.map fun x => (x.1, x.2.noteReady s.cycle)
    cycle := s.cycle + 1
    newly := []
    reeves := s.reeves.map fun x => (x.1, tickReeve x.2) }

/-- The counters of a cycle: the pages of each VF, and the transfers that stand throttled. -/
def counted (s : State) : State :=
  let t := (mkeys s.vfs).foldl (fun s v => s.count v 0x000 (vfPages s v)) s
  t.throttled.foldl (fun s w => s.count (dispatcherVf s w) 0x058) t

/-- The state after a cycle, before the actor slots are weighed. -/
def served (s : State) : State := outServe (execErrors (counted (cycled s)))

/-- What a counter keeps, the counters of a cycle keep. -/
theorem counted_keeps {β : Type} {g : State → β} (hg : ∀ s v o n, g (s.count v o n) = g s) (s : State) :
    g (counted s) = g s :=
  (foldl_keeps (fun _ _ => hg ..) _ _).trans (foldl_keeps (fun _ _ => hg ..) _ _)

/-- A cycle of the fabric; every 256th weighs the slots. -/
theorem exec_fabricCycle (s : State) :
    exec .fabricCycle s = .next (if (served s).cycle.toNat % 256 = 0 then
      { served s with insts := (served s).insts.map fun x => (x.1, weighAll x.2) } else served s) := rfl

theorem clocks_served (s : State) : (served s).clocks = (s.cycle + 1, s.time, []) :=
  (clocks_outServe _).trans <| (clocks_execErrors _).trans <|
    (counted_keeps (fun _ _ _ _ => (memWrites_count ..).clocks) _).trans rfl

/-- Where no error is due, the errors change nothing. -/
theorem execErrors_of_none {s : State} (hc : s.ecc.cells = []) (hp : s.ecc.pages = []) : execErrors s = s := by
  have he : { s.ecc with cells := [], pages := [] } = s.ecc := by
    rw [show ({ s.ecc with cells := [], pages := [] } : EccSt) = { s.ecc with cells := s.ecc.cells, pages := s.ecc.pages } by
      rw [hc, hp]]
  unfold execErrors meetErrors
  simp only [hc, hp, List.foldl_nil]
  exact congrArg (fun e => { s with ecc := e }) he

theorem outServe_of_none {s : State} (h : s.outOps = []) : outServe s = s := by
  unfold outServe
  rw [h]
  rfl

/-- With no error due and no access from outside, a cycle is the fabric's own part and the counters. -/
theorem served_of_none {s : State} (hc : s.ecc.cells = []) (hp : s.ecc.pages = []) (ho : s.outOps = []) :
    served s = counted (cycled s) := by
  have hecc : (counted (cycled s)).ecc = s.ecc := counted_keeps (g := State.ecc) State.count_ecc _
  have hout : (counted (cycled s)).outOps = s.outOps := counted_keeps (g := State.outOps) State.count_outOps _
  unfold served
  rw [execErrors_of_none (by rw [hecc, hc]) (by rw [hecc, hp]), outServe_of_none (by rw [hout, ho])]

/-- R205, R328, R374: what a cycle of the fabric leaves. -/
theorem fabricCycle_leaves (s : State) :
    ∃ t, exec .fabricCycle s = .next t ∧ t.cycle = s.cycle + 1 ∧ t.time = s.time ∧ t.newly = [] ∧
      (s.ecc.cells = [] → s.ecc.pages = [] → s.outOps = [] → t.mem = s.mem ∧ t.launches = s.launches ∧
        let noted := s.insts.map fun x => (x.1, x.2.noteReady s.cycle)
        t.insts = if (s.cycle + 1).toNat % 256 = 0 then noted.map fun x => (x.1, weighAll x.2) else noted) := by
  obtain ⟨hcycle, htime, hnewly⟩ : (served s).cycle = s.cycle + 1 ∧ (served s).time = s.time ∧ (served s).newly = [] := by
    simpa [State.clocks] using clocks_served s
  refine ⟨_, exec_fabricCycle s, ?_, ?_, ?_, fun hc hp ho => ?_⟩
  · rw [← hcycle]
    split <;> rfl
  · rw [← htime]
    split <;> rfl
  · rw [← hnewly]
    split <;> rfl
  · have hs : served s = counted (cycled s) := served_of_none hc hp ho
    have hmem : (served s).mem = s.mem := hs ▸ counted_keeps (g := State.mem) State.count_mem _
    have hlaunches : (served s).launches = s.launches := hs ▸ counted_keeps (g := State.launches) State.count_launches _
    have hinsts : (served s).insts = s.insts.map fun x => (x.1, x.2.noteReady s.cycle) :=
      hs ▸ counted_keeps (g := State.insts) State.count_insts _
    rw [hcycle]
    split
    · exact ⟨hmem, hlaunches, congrArg (List.map fun x => (x.1, weighAll x.2)) hinsts⟩
    · exact ⟨hmem, hlaunches, hinsts⟩

/-- Settles O53: retirement and the clock by their conditions; a teardown drops every launch of its context, because
dropping a launch leaves the others; a cycle of the fabric keeps its clock while it meets the errors that are due and
serves the accesses from outside, because neither changes it. -/
theorem retirementContextsAndClocks : Obligations.RetirementContextsAndClocks := by
  refine ⟨fun s h a => ⟨exec_hamletRetire_none, fun hh hn => ⟨?_, fun hp => exec_hamletRetire hh hn (congrArg retiredPlace hp)⟩,
    fun hp hh hs => exec_pageRetire (copies_iff.mpr ⟨hp, hh, hs⟩), fun hn => exec_pageRetire_none ?_,
    fun e _ he hw => pageErrors_uniform he hw,
    fun hc => congrArg Host.Outcome.next (if_pos hc), fun hc => congrArg Host.Outcome.next (if_neg (Nat.not_le.mpr hc)),
    fun hc => congrArg Host.Outcome.next (if_pos hc), fun hc => congrArg Host.Outcome.next (if_neg (Nat.not_le.mpr hc))⟩,
    fun s c vf => ⟨fun hc hv hn => ?_, fun h => ?_, fun hn => ?_, exec_contextTeardown,
    exec_vfTeardown s vf, fabricCycle_leaves s, rfl⟩⟩
  · rintro (hp | hp) <;> exact exec_hamletRetire hh hn (congrArg retiredPlace hp)
  · rw [copies_iff]
    rintro ⟨⟨hp, hh, hs⟩, h2⟩
    simp [hp, hh, hs] at hn
    omega
  · exact congrArg Host.Outcome.next (if_neg (by simp [hc, hv, hn]))
  · exact congrArg Host.Outcome.next (if_pos (by simpa [or_assoc] using h))
  · exact congrArg Host.Outcome.next (if_pos (by rw [hn]; rfl))

end Sys2Proof.Machine
end

section
/-! SUPPORT. The checks of an access in their order (R124, R237, R238), and O13: LD at U level meets them. -/

namespace Sys2Proof.Machine

/-! ### The check of a capability -/

/-- The address that a check of a capability at an offset reports (R124). -/
def capEa (k : Cap) (off : Int) : Nat := ((((k.base * 256 : Nat) : Int) + off) % (2 ^ 64 : Int)).toNat

theorem capEa_nat (k : Cap) (off : Nat) : capEa k off = (k.base * 256 + off) % 2 ^ 64 := by
  unfold capEa
  omega

section Checks
variable {k : Cap} {off : Int} {n : Option Nat} {align : Nat} {cl : AClass}

theorem checkCapAt_untagged (h : k.tag = false) : checkCapAt k off n align cl = raise .capTag (capEa k off) := by
  unfold checkCapAt check
  rw [h]
  rfl

theorem checkCapAt_sealed (ht : k.tag = true) (h : k.otype ≠ 0) :
    checkCapAt k off n align cl = raise .capSeal (capEa k off) := by
  unfold checkCapAt check
  rw [ht, beq_false_of_ne h]
  rfl

theorem checkCapAt_noSpace (ht : k.tag = true) (ho : k.otype = 0) (h : k.space = 7) :
    checkCapAt k off n align cl = raise .capSpace (capEa k off) := by
  unfold checkCapAt check
  rw [ht, ho, h]
  rfl

/-- The bounds test of an offset that is a number (R238). -/
theorem inBounds_nat (off n l : Nat) :
    (decide ((0 : Int) ≤ off) && decide ((off : Int) < 2 ^ 40) && decide ((off : Int).toNat + n ≤ l)) =
      decide (off < 2 ^ 40 ∧ off + n ≤ l) := by
  rw [Bool.eq_iff_iff]
  simp only [Bool.and_eq_true, decide_eq_true_eq, Int.toNat_natCast]
  omega

/-- The checks of a tagged, unsealed capability of a space that the class accepts: permissions, bounds, alignment. -/
theorem checkCapAt_inSpace (ht : k.tag = true) (ho : k.otype = 0) (h7 : k.space ≠ 7) (hs : cl.spaces.contains k.space = true)
    (off n : Nat) : checkCapAt k off (some n) align cl = (do
      check (permsIn cl.perms k.perms) .capPerm (capEa k off)
      check (decide (off < 2 ^ 40 ∧ off + n ≤ k.length)) .capBounds (capEa k off)
      check (capEa k off % align == 0) .align (capEa k off)
      .ok (capEa k off)) := by
  have h7 : (k.space != 7) = true := bne_iff_ne.mpr h7
  unfold checkCapAt
  dsimp only
  rw [inBounds_nat, ht, ho, h7, hs]
  simp only [check, beq_self_eq_true, Bool.not_true, Bool.false_eq_true, if_true, if_false]
  rfl

end Checks

/-! ### The access -/

/-- The class of an access without the right A is that of its instruction. -/
theorem classAt_of_noAtomic (s : State) (k : Cap) (cl : AClass) {need : Nat} (h : need.testBit 3 = false) :
    classAt s k cl need = cl := by
  unfold classAt
  rw [h]
  simp

theorem memPlace_error {s : State} {kc : KReg} {a : GReg} {imm n align need : Nat} {cl : AClass} {e : Stop}
    (h : access s s.acx (s.me.kr kc) (effOff (s.me.kr kc) (s.me.gr a) imm) n align cl need = .error e) :
    memPlace s kc a imm n align cl need = .error e := by
  unfold memPlace
  dsimp only
  rw [h]
  rfl

section Ld
variable {s : State} {p : Guard} {d : GReg} {kc : KReg} {a : GReg} {sz : BitVec 2} {x : Bool} {imm : BitVec 5}

/-- A fault of the place of LD at U level. -/
theorem takesTrap_ld (hg : s.me.guard p = true) (hu : s.me.superv = false) {t : Trap} (hr : t.code.replays = false)
    (h : access s s.acx (s.me.kr kc) ((s.me.kr kc).offset + (s.me.gr a).toNat + imm.toNat * 2 ^ sz.toNat : Nat)
      (2 ^ sz.toNat) (2 ^ sz.toNat) clLoad rR = .error (.trap t)) :
    TakesTrap (.ld p d kc a sz x imm) s t := by
  refine takesTrap_of (len := 4) rfl hg ?_ hu hr
  dsimp only
  rw [memPlace_error h]
  rfl

/-- A fault of the check of LD's capability at U level, with the address of the access. -/
theorem takesTrap_ld_check (hg : s.me.guard p = true) (hu : s.me.superv = false) {c : Code} (hr : c.replays = false)
    (h : let off := (s.me.kr kc).offset + (s.me.gr a).toNat + imm.toNat * 2 ^ sz.toNat
      checkCapAt (s.me.kr kc) off (some (2 ^ sz.toNat)) (2 ^ sz.toNat) clLoad = raise c (capEa (s.me.kr kc) off)) :
    TakesTrap (.ld p d kc a sz x imm) s { code := c, addr := BitVec.ofNat 64 ((s.me.kr kc).base * 256 +
      ((s.me.kr kc).offset + (s.me.gr a).toNat + imm.toNat * 2 ^ sz.toNat)) } := by
  refine takesTrap_ld hg hu hr ?_
  unfold access
  rw [classAt_of_noAtomic _ _ _ (by decide), h, capEa_nat]
  refine congrArg (fun v : W64 => Except.error (Stop.trap { code := c, addr := v })) ?_
  apply BitVec.eq_of_toNat_eq
  simp

end Ld

/-- The spaces of a load are all but space 7 (R123). -/
theorem clLoad_spaces {k : Cap} (h : k.space ≠ 7) : clLoad.spaces.contains k.space = true := by
  have hs : ∀ n < 8, n ≠ 7 → clLoad.spaces.contains n = true := by decide
  exact hs k.space (field k.bits 111 3).isLt h

/-- The permission LD (R120). -/
theorem permsIn_clLoad (n : Nat) : permsIn clLoad.perms n = decide (n % 2 = 1) := by
  unfold permsIn clLoad pLD
  rw [Nat.one_and_eq_mod_two, Bool.beq_eq_decide_eq]

/-- Settles O13: `checkCapAt` meets its checks in R124's order, and a fault of the place comes after them. -/
theorem accessChecksInOrder : Obligations.AccessChecksInOrder := by
  intro s p d kc a sz x imm hg hu n k off ea i unsealed
  have hn : n ∣ 256 := Nat.pow_dvd_pow 2 (show sz.toNat ≤ 8 by omega)
  have hmod : capEa k off % n = off % n := by
    rw [capEa_nat, Nat.mod_mod_of_dvd _ (hn.trans (by decide)), Nat.add_mod, Nat.mod_eq_zero_of_dvd (hn.mul_left _)]
    simp
  have fault {c : Code} (hr : c.replays = false)
      (h : checkCapAt k off (some n) n clLoad = raise c (capEa k off)) : TakesTrap i s { code := c, addr := ea } :=
    takesTrap_ld_check hg hu hr h
  have hopen (hk : unsealed) (h7 : k.space ≠ 7) :=
    checkCapAt_inSpace (cl := clLoad) (align := n) hk.1 hk.2 h7 (clLoad_spaces h7) off n
  rw [permsIn_clLoad] at hopen
  refine ⟨fun ht => fault rfl (checkCapAt_untagged ht), fun ht ho => fault rfl (checkCapAt_sealed ht ho),
    fun hk h7 => fault rfl (checkCapAt_noSpace hk.1 hk.2 h7), fun hk h7 hp => fault rfl ?_,
    fun hk h7 hp hb => fault rfl ?_, fun hk h7 hp hlo hhi ha => fault rfl ?_, fun hk h7 hp hlo hhi ha t hr hl => ?_⟩
  · rw [hopen hk h7, decide_eq_false (by omega)]
    rfl
  · rw [hopen hk h7, decide_eq_true hp, decide_eq_false (by omega)]
    rfl
  · rw [hopen hk h7, decide_eq_true hp, decide_eq_true ⟨hlo, hhi⟩, hmod, beq_false_of_ne ha]
    rfl
  · refine takesTrap_ld hg hu hr ?_
    unfold access
    rw [classAt_of_noAtomic _ _ _ (by decide), hopen hk h7, decide_eq_true hp, decide_eq_true ⟨hlo, hhi⟩, hmod, ha, capEa_nat]
    exact hl

end Sys2Proof.Machine
end

section
/-! SUPPORT. O11: writes to the physical memories: bytes, tags, full/empty bits with their waiters, and zero flags (R126,
R139, R142 to R144). -/

namespace Sys2Proof.Machine

/-! ### Sets of granules and words -/

theorem mem_saddN {l : List Nat} {i n x : Nat} : x ∈ saddN l i n ↔ x ∈ l ∨ i ≤ x ∧ x < i + n := by
  induction n with
  | zero => simp [saddN, show ¬ (i ≤ x ∧ x < i) by omega]
  | succ n ih =>
    rw [saddN, mem_sadd, ih, or_left_comm]
    exact or_congr_right (by omega)

theorem mem_sdelN {l : List Nat} {i n x : Nat} : x ∈ sdelN l i n ↔ x ∈ l ∧ ¬ (i ≤ x ∧ x < i + n) := by
  unfold sdelN
  rw [List.mem_filter]
  exact and_congr_right fun _ => by simp [Decidable.imp_iff_not_or]

theorem mem_sput {l : List Nat} {i x : Nat} {b : Bool} : x ∈ sput l i b ↔ if x = i then b = true else x ∈ l := by
  unfold sput
  cases b <;> by_cases h : x = i <;> simp [mem_sadd, mem_sdel, h]

/-- The granules that a range which is not empty overlaps. -/
theorem granules_range {lg a n : Nat} (hn : n ≠ 0) (g : Nat) :
    (granules lg a n).1 ≤ g ∧ g < (granules lg a n).1 + (granules lg a n).2 ↔ a / 2 ^ lg ≤ g ∧ g ≤ (a + n - 1) / 2 ^ lg := by
  have : a / 2 ^ lg ≤ (a + n - 1) / 2 ^ lg := Nat.div_le_div_right (by omega)
  simp only [granules, hn, if_false, Nat.shiftRight_eq_div_pow]
  omega

/-! ### A word that becomes full satisfies its waiters (R143, R252) -/

/-- `t` is `s` but for the VF records and the soft errors of memory. -/
def Corrects (s t : State) : Prop := ∃ e v, t = { s with mem := { s.mem with soft := e }, vfs := v }

theorem Corrects.refl (s : State) : Corrects s s := ⟨s.mem.soft, s.vfs, rfl⟩
theorem Corrects.trans {s t u : State} (h : Corrects s t) (k : Corrects t u) : Corrects s u := by
  obtain ⟨_, _, rfl⟩ := h
  obtain ⟨e, v, rfl⟩ := k
  exact ⟨e, v, rfl⟩

/-- Counting changes the VF records alone. -/
theorem count_eq (s : State) (v o n : Nat) : ∃ fs, s.count v o n = { s with vfs := fs } := by
  unfold State.count
  dsimp only
  split
  · exact ⟨s.vfs, rfl⟩
  · exact ⟨_, rfl⟩

theorem countWrite_eq (s : State) (vf a n : Nat) : ∃ fs, countWrite s vf a n = { s with vfs := fs } := by
  unfold countWrite
  split
  · exact count_eq ..
  · split
    · exact count_eq ..
    · exact ⟨s.vfs, rfl⟩

theorem corrects_count (s : State) (v o n : Nat) : Corrects s (s.count v o n) := by
  obtain ⟨fs, h⟩ := count_eq s v o n
  exact ⟨s.mem.soft, fs, h⟩

theorem corrects_countRead (s : State) (vf a n : Nat) : Corrects s (countRead s vf a n) := by
  unfold countRead
  split
  · exact corrects_count ..
  · split
    · exact corrects_count ..
    · exact .refl s

theorem corrects_correctSoft (s : State) (vf a n : Nat) : Corrects s (correctSoft s vf a n) := by
  unfold correctSoft
  dsimp only
  split
  · exact .refl s
  · exact Corrects.trans ⟨_, s.vfs, rfl⟩ (corrects_count ..)

theorem corrects_loadPhys {s : State} {vf a n : Nat} {v : List Byte × State} (h : loadPhys s vf a n = .ok v) :
    Corrects s v.2 := by
  unfold loadPhys at h
  split at h
  · cases h
  · cases h
    exact (corrects_correctSoft ..).trans (corrects_countRead ..)

theorem corrects_countServed (s : State) (w : Nat) (l : List Waiter) : Corrects s (countServed s w l) := by
  induction l generalizing s with
  | nil => exact .refl s
  | cons x l ih =>
    unfold countServed
    dsimp only
    refine .trans ?_ (ih _)
    split
    · exact .refl s
    · exact (corrects_correctSoft ..).trans (corrects_countRead ..)

/-- What a setting to full gives a waiter of a word. -/
def giftOf (s : State) (w : Nat) (x : Waiter) : SyncGift :=
  { who := x.who, word := w, val := BitVec.ofNat 64 (leNat (s.mem.read (8 * w) 8)), bad := decide (w ∈ s.mem.bad) }

/-- How many waiters of a word the next setting to full satisfies. -/
def servedAt (s : State) (w : Nat) : Nat := servedBy (decide (w ∈ s.mem.bad)) (s.waiting w)

/-- Up to its first consumer a waiter order holds a consumer just where it holds one at all. -/
theorem any_take_first (l : List Waiter) :
    (l.take ((l.takeWhile fun x => !x.consume).length + 1)).any (·.consume) = l.any (·.consume) := by
  induction l with
  | nil => rfl
  | cons x l ih =>
    cases hx : x.consume with
    | true => simp [hx]
    | false => simp [hx, ih]

/-- How far the satisfied waiters of a word reach in its order. -/
theorem served_reach (bad : Bool) (l : List Waiter) :
    l.take ((l.takeWhile fun x => !x.consume || bad).length + 1) = l.take (servedBy bad l) ∧
      l.drop ((l.takeWhile fun x => !x.consume || bad).length + 1) = l.drop (servedBy bad l) := by
  cases bad with
  | true =>
    have hl : (l.takeWhile fun x => !x.consume || true) = l := List.takeWhile_eq_self_iff.mpr (by simp)
    rw [hl]
    simp [servedBy]
  | false => simp [servedBy]

/-- Whether a setting to full leaves a word empty: the word is good and one of its waiters consumes it. -/
def consumedAt (s : State) (w : Nat) : Bool := (s.waiting w).any (·.consume) && !decide (w ∈ s.mem.bad)

/-- What the satisfaction of a word's waiters does. -/
theorem serveWaiters_eq (s : State) (w : Nat) : ∃ e v, serveWaiters s w = { s with
    waiters := (s.waiters.filter fun x => x.word != w) ++ (s.waiting w).drop (servedAt s w)
    gifts := s.gifts ++ ((s.waiting w).take (servedAt s w)).map (giftOf s w)
    mem := { s.mem with soft := e, empties := sput s.mem.empties w (consumedAt s w) }
    vfs := v } := by
  obtain ⟨ht, hd⟩ := served_reach (decide (w ∈ s.mem.bad)) (s.waiting w)
  unfold serveWaiters
  extract_lets mine take served consumed rest gift u m
  have hb : s.mem.bad.contains w = decide (w ∈ s.mem.bad) := List.contains_eq_mem ..
  obtain ⟨e, v, hu⟩ : Corrects s u := corrects_countServed s w served
  have hserved : served = (s.waiting w).take (servedAt s w) := by
    rw [servedAt, ← ht, ← hb]
    rfl
  have hrest : rest = (s.waiting w).drop (servedAt s w) := by
    rw [servedAt, ← hd, ← hb]
    rfl
  have hgift : gift = giftOf s w := by
    funext x
    show ({ who := x.who, word := w, val := s.mem.word (w * 8), bad := s.mem.bad.contains w } : SyncGift) = giftOf s w x
    rw [hb, Nat.mul_comm]
    rfl
  have hcons : consumed = consumedAt s w := by
    show (served.any (·.consume) && !s.mem.bad.contains w) = _
    rw [hb, consumedAt]
    cases hbad : decide (w ∈ s.mem.bad) with
    | true => simp
    | false =>
      rw [hserved, servedAt, hbad, servedBy, if_neg (by decide), any_take_first]
  refine ⟨e, v, ?_⟩
  unfold m
  rw [hu, hserved, hrest, hgift, hcons]

/-- What a setting to full does. -/
theorem setFull_eq (s : State) (w : Nat) : ∃ e v, setFull s w = { s with
    waiters := (s.waiters.filter fun x => x.word != w) ++ (s.waiting w).drop (servedAt s w)
    gifts := s.gifts ++ ((s.waiting w).take (servedAt s w)).map (giftOf s w)
    mem := { s.mem with soft := e, empties := sput (sdel s.mem.empties w) w (consumedAt s w) }
    vfs := v } :=
  serveWaiters_eq { s with mem := { s.mem with empties := sdel s.mem.empties w } } w

theorem Mem.read_of_bytes {m n : Mem} (h : m.bytes = n.bytes) : m.read = n.read := by
  have hb (a : Nat) : m.byte a = n.byte a := by rw [Mem.byte, Mem.byte, h]
  funext a k
  rw [Mem.read_eq_map, Mem.read_eq_map]
  exact List.map_congr_left fun i _ => hb _

/-- The waiters of a word depend on the waiters, the launches and the reeves alone. -/
theorem waiting_congr {s t : State} (hw : t.waiters = s.waiters) (hl : t.launches = s.launches) (hr : t.reeves = s.reeves)
    (w : Nat) : t.waiting w = s.waiting w := by
  unfold State.waiting rolledBack State.launchOf State.reeve
  rw [hw, hl, hr]

theorem setFull_bad (s : State) (w : Nat) : (setFull s w).mem.bad = s.mem.bad := by
  obtain ⟨e, v, h⟩ := setFull_eq s w
  rw [h]

theorem setFull_read (s : State) (w : Nat) : (setFull s w).mem.read = s.mem.read := by
  obtain ⟨e, v, h⟩ := setFull_eq s w
  rw [h]
  exact Mem.read_of_bytes rfl

theorem gift_setFull {s : State} {g : SyncGift} (w : Nat) (h : g ∈ s.gifts) : g ∈ (setFull s w).gifts := by
  obtain ⟨e, v, he⟩ := setFull_eq s w
  rw [he]
  exact List.mem_append_left _ h

/-- The waiters of a word after the setting of a word to full. -/
theorem waiting_setFull (s : State) (w x : Nat) :
    (setFull s w).waiting x = if x = w then (s.waiting w).drop (servedAt s w) else s.waiting x := by
  obtain ⟨e, v, h⟩ := setFull_eq s w
  rw [h, State.waiting, List.filter_append]
  have hd : ∀ y ∈ (s.waiting w).drop (servedAt s w), y.word = w ∧ rolledBack s y.who = false := fun y hy => by
    simpa [State.waiting] using (List.mem_filter.mp (List.mem_of_mem_drop hy)).2
  by_cases hx : x = w
  · subst hx
    rw [if_pos rfl, List.filter_eq_nil_iff.mpr, List.nil_append, List.filter_eq_self.mpr]
    · intro y hy
      obtain ⟨hyw, hyr⟩ := hd y hy
      exact Bool.and_eq_true_iff.mpr ⟨beq_iff_eq.mpr hyw, congrArg not hyr⟩
    · intro y hy hc
      exact (bne_iff_ne.mp (List.mem_filter.mp hy).2) (beq_iff_eq.mp (Bool.and_eq_true_iff.mp hc).1)
  · rw [if_neg hx, List.filter_filter, (List.filter_eq_nil_iff (l := List.drop _ _)).mpr, List.append_nil]
    · refine List.filter_congr fun y _ => ?_
      by_cases hy : y.word = x
      · have hyw : (y.word != w) = true := bne_iff_ne.mpr (hy ▸ hx)
        rw [hyw, Bool.and_true]
        rfl
      · have hyx : (y.word == x) = false := beq_false_of_ne hy
        rw [hyx]
        rfl
    · intro y hy hc
      exact hx ((beq_iff_eq.mp (Bool.and_eq_true_iff.mp hc).1).symm.trans (hd y hy).1)

/-- A word set full. -/
theorem setsFull_setFull (s : State) (w : Nat) : SetsFull s (setFull s w) (· = w) := by
  obtain ⟨e, v, h⟩ := setFull_eq s w
  refine ⟨?_, ?_, ?_, fun x hx => ⟨?_, ?_⟩, ?_⟩
  · rintro _ rfl
    rw [h]
    show _ ∈ sput _ _ _ ↔ _
    rw [mem_sput, if_pos rfl, consumedAt, Bool.and_eq_true, List.any_eq_true, Bool.not_eq_true', decide_eq_false_iff_not, and_comm]
  · intro x hxw y hy
    rw [setFull_bad] at hy ⊢
    rw [setFull_read, h, hxw]
    exact List.mem_append_right _ (List.mem_map_of_mem (f := giftOf s w) (hxw ▸ hy))
  · rintro _ rfl
    rw [setFull_bad, waiting_setFull, if_pos rfl]
    rfl
  · rw [h]
    show _ ∈ sput _ _ _ ↔ _
    rw [mem_sput, if_neg hx, mem_sdel, and_iff_right hx]
  · rw [waiting_setFull, if_neg hx]
  · rw [h]

/-- A further word set full. -/
theorem SetsFull.snoc {s t : State} {P : Nat → Prop} (h : SetsFull s t P) {w : Nat} (hw : ¬ P w) :
    SetsFull s (setFull t w) fun x => P x ∨ x = w := by
  have k := setsFull_setFull t w
  have hwait := (h.others w hw).2
  have hbad := setFull_bad t w
  have hread := setFull_read t w
  refine ⟨fun x hx => ?_, fun x hx y hy => ?_, fun x hx => ?_, fun x hx => ?_, ?_⟩
  · by_cases hxw : x = w
    · rw [k.empties x hxw, hxw, hwait]
    · rw [(k.others x hxw).1, h.empties x (hx.resolve_right hxw), hbad]
  · rw [hbad] at hy ⊢
    rw [hread]
    by_cases hxw : x = w
    · subst hxw
      rw [← hwait] at hy
      have := k.gifts x rfl y (by rw [hbad]; exact hy)
      rwa [hbad, hread] at this
    · exact gift_setFull w (h.gifts x (hx.resolve_right hxw) y hy)
  · rw [hbad]
    by_cases hxw : x = w
    · rw [k.waiters x hxw, hxw, hwait, hbad]
    · rw [(k.others x hxw).2, h.waiters x (hx.resolve_right hxw)]
  · obtain ⟨hxP, hxw⟩ := not_or.mp hx
    exact ⟨(k.others x hxw).1.trans (h.others x hxP).1, (k.others x hxw).2.trans (h.others x hxP).2⟩
  · obtain ⟨e, v, he⟩ := setFull_eq t w
    rw [he]
    exact h.rest

theorem setFullN_bad (s : State) (w n : Nat) : (setFullN s w n).mem.bad = s.mem.bad := by
  induction n with
  | zero => rfl
  | succ n ih => rw [setFullN, setFull_bad, ih]

/-- The tables of memory that the setting of words to full leaves. -/
theorem setFull_tables (s : State) (w : Nat) :
    (setFull s w).mem.tags = s.mem.tags ∧ (setFull s w).mem.nonzero = s.mem.nonzero := by
  obtain ⟨e, v, h⟩ := setFull_eq s w
  rw [h]
  exact ⟨rfl, rfl⟩

theorem setFullN_tables (s : State) (w n : Nat) :
    (setFullN s w n).mem.tags = s.mem.tags ∧ (setFullN s w n).mem.nonzero = s.mem.nonzero := by
  induction n with
  | zero => exact ⟨rfl, rfl⟩
  | succ n ih =>
    obtain ⟨ht, hz⟩ := setFull_tables (setFullN s w n) (w + n)
    exact ⟨ht.trans ih.1, hz.trans ih.2⟩

/-- Words set full. -/
theorem setsFull_setFullN (s : State) (w n : Nat) : SetsFull s (setFullN s w n) fun x => w ≤ x ∧ x < w + n := by
  induction n with
  | zero => exact ⟨fun x hx => by omega, fun x hx => by omega, fun x hx => by omega, fun _ _ => ⟨.rfl, rfl⟩, rfl⟩
  | succ n ih =>
    have h := ih.snoc (w := w + n) (by omega)
    have hP : (fun x => (w ≤ x ∧ x < w + n) ∨ x = w + n) = fun x => w ≤ x ∧ x < w + (n + 1) := by
      funext x
      exact propext (by omega)
    exact hP ▸ h

/-- Words set full after a write that leaves the full/empty bits, where the write changes memory and the VF records
alone. -/
theorem SetsFull.of_write {s t : State} {P : Nat → Prop} {m : Mem} {v : SMap Vf} (hm : m.empties = s.mem.empties)
    (h : SetsFull { s with mem := m, vfs := v } t P) : SetsFull s t P where
  empties := h.empties
  gifts := h.gifts
  waiters := h.waiters
  others w hw := ⟨(h.others w hw).1.trans (by rw [← hm]), (h.others w hw).2⟩
  rest := by
    have := congrArg (fun u : State => { u with mem := s.mem, vfs := s.vfs }) h.rest
    exact this

/-! ### What a write to the physical memories does -/

theorem Mem.store_empties (m : Mem) (a : Nat) (bs : List Byte) (z : Bool) : (m.store a bs z).empties = m.empties := by
  unfold Mem.store
  rw [m.write_tables a bs]

/-- The zero flags after a write (R139). -/
theorem Mem.store_nonzero (m : Mem) (a : Nat) (bs : List Byte) (z : Bool) : (m.store a bs z).nonzero =
    if !isOnChip a then m.nonzero
    else if z then sdelN m.nonzero (granules 5 a bs.length).1 (granules 5 a bs.length).2
    else saddN m.nonzero (granules 5 a bs.length).1 (granules 5 a bs.length).2 := rfl

theorem Mem.store_tags (m : Mem) (a : Nat) (bs : List Byte) (z : Bool) :
    (m.store a bs z).tags = sdelN m.tags (granules 4 a bs.length).1 (granules 4 a bs.length).2 := rfl

/-- Settles O11: a write stores its bytes with their tags and zero flags and counts; one that sets full bits then sets the
words that it overlaps full (`setsFull_setFullN`). -/
theorem physicalWrites : Obligations.PhysicalWrites := by
  intro s vf pa bs full zero hbs u inGranule
  have hn : bs.length ≠ 0 := fun h => hbs (List.length_eq_zero_iff.mp h)
  obtain ⟨fs, hc⟩ := countWrite_eq { s with mem := s.mem.store pa bs zero } vf pa bs.length
  have hu : u = if full && isOnChip pa then
      setFullN { s with mem := s.mem.store pa bs zero, vfs := fs } (granules 3 pa bs.length).1 (granules 3 pa bs.length).2
    else { s with mem := s.mem.store pa bs zero, vfs := fs } := by
    rw [← hc]
    rfl
  have htables : u.mem.tags = (s.mem.store pa bs zero).tags ∧ u.mem.nonzero = (s.mem.store pa bs zero).nonzero := by
    rw [hu]
    split
    · exact setFullN_tables ..
    · exact ⟨rfl, rfl⟩
  have hw : MemWrites s u := memWrites_storePhys ..
  have hbyte (a : Nat) : u.mem.byte a = (s.mem.write pa bs).byte a := storePhys_byte ..
  refine ⟨fun i hi => ?_, fun a ha => ?_, fun g => ?_, fun h => ?_, fun hf hon => ?_, fun hon g => ?_, fun hoff => ?_,
    hw.reeves, hw.launches, hw.insts⟩
  · rw [hbyte, Mem.byte_write_at _ _ _ _ hi, List.getD_eq_getElem _ _ hi]
  · rw [hbyte, Mem.byte_write_other _ _ _ _ ha]
  · rw [htables.1, Mem.store_tags, mem_sdelN, granules_range hn]
  · rw [hu, if_neg (by rcases h with h | h <;> simp [h])]
    exact Mem.store_empties ..
  · have h := setsFull_setFullN { s with mem := s.mem.store pa bs zero, vfs := fs } (granules 3 pa bs.length).1
      (granules 3 pa bs.length).2
    have hP : (fun x => (granules 3 pa bs.length).1 ≤ x ∧ x < (granules 3 pa bs.length).1 + (granules 3 pa bs.length).2) =
        inGranule 3 := funext fun x => propext (granules_range hn x)
    rw [hu, if_pos (by simp [hf, hon])]
    exact .of_write (Mem.store_empties ..) (hP ▸ h)
  · rw [htables.2, Mem.store_nonzero, hon]
    cases zero with
    | true => exact mem_sdelN.trans (by rw [granules_range hn]; rfl)
    | false => exact mem_saddN.trans (by rw [granules_range hn]; rfl)
  · rw [htables.2, Mem.store_nonzero, hoff]
    rfl

end Sys2Proof.Machine
end

section
/-! SUPPORT. O14: LDSYN and FE (R142, R143, R252, R253). -/

namespace Sys2Proof.Machine

/-! ### A quiet reeve's accesses -/

/-- A quiet reeve settles nothing before an access. -/
theorem settle_of_quiet {s : State} (hq : Quiet s) (l : Loc) (n : Nat) : settle s s.cur l n = .ok s := by
  obtain ⟨hc, hw⟩ := hq
  have hc : (s.reeve s.cur).comb = [] := hc
  simp only [settle, flushComb, hc, List.any_nil, Bool.not_false, if_true, bind, Except.bind]
  cases l with
  | phys a => exact if_neg (by rw [windowHolds_of_idle hw]; decide)
  | _ => rfl

theorem memPlace_quiet {s : State} {kc : KReg} {a : GReg} {imm n align need : Nat} {cl : AClass} {l : Loc} (hq : Quiet s)
    (h : access s s.acx (s.me.kr kc) (effOff (s.me.kr kc) (s.me.gr a) imm) n align cl need = .ok l) :
    memPlace s kc a imm n align cl need = .ok (l, s) := by
  unfold memPlace
  dsimp only
  rw [h]
  show (settle s s.cur l n >>= fun s => Except.ok (l, s)) = _
  rw [settle_of_quiet hq]
  rfl

/-- A load of words without an uncorrectable error gives their bytes, and corrects (R144). -/
theorem loadPhys_good {s : State} {a n : Nat} (vf : Nat) (h : s.mem.badAt a n = false) :
    ∃ u, Corrects s u ∧ loadPhys s vf a n = .ok (s.mem.read a n, u) := by
  have hread : (correctSoft s vf a n).mem.read = s.mem.read := by
    obtain ⟨e, v, hc⟩ := corrects_correctSoft s vf a n
    rw [hc]
    exact Mem.read_of_bytes rfl
  have hl : loadPhys s vf a n = .ok (s.mem.read a n, countRead (correctSoft s vf a n) vf a n) := by
    unfold loadPhys
    rw [if_neg (by rw [h]; decide)]
    dsimp only
    rw [hread]
  exact ⟨_, corrects_loadPhys hl, hl⟩

/-- A retirement after changes of memory, launches and VF records. -/
theorem Retires.retiresMem {s u t : State} {r : Reeve} {pc : W64} (h : Retires u t r pc) (hc : u.cur = s.cur)
    (hr : u.reeves = s.reeves) (hrest : { u.rest with mem := s.mem, launches := s.launches } = s.rest) :
    RetiresMem s t r pc where
  me := h.me
  others j hj := (h.others j (hc ▸ hj)).trans (by rw [State.reeve_of_reeves hr])
  rest := by rw [h.rest]; exact hrest

theorem Retires.mem {u t : State} {r : Reeve} {pc : W64} (h : Retires u t r pc) : t.mem = u.mem := by
  have := congrArg State.mem h.rest
  exact this

theorem Retires.launches {u t : State} {r : Reeve} {pc : W64} (h : Retires u t r pc) : t.launches = u.launches := by
  have := congrArg State.launches h.rest
  exact this

theorem runReeve_asks {len : Nat} {p : Guard} {f : State → Except Stop (State × Flow)} {s : State} {w : Wait} {rq : Option Req}
    (h : s.me.guard p = true) (hf : f s = .error (.wait w rq)) :
    runReeve len p f s = (register s rq).updMe fun r => { r with wait := some w } := by
  simp [runReeve, h, hf]

/-! ### LDSYN (R252) -/

theorem syncRead_full {s : State} {pa : Nat} (x : Bool) (hg : ∀ g ∈ s.gifts, g.who ≠ .reeve s.cur)
    (hb : s.mem.badAt pa 8 = false) (he : pa / 8 ∉ s.mem.empties) : ∃ u, Corrects s u ∧ syncRead s s.acx pa x =
      .ok (BitVec.ofNat 64 (leNat (s.mem.read pa 8)), if x then setEmptyN u (pa / 8) 1 else u) := by
  obtain ⟨u, hu, hl⟩ := loadPhys_good s.acx.vf hb
  have hf : (s.gifts.find? fun g => g.who == s.acx.who && g.word == pa / 8) = none := by
    refine List.find?_eq_none.mpr fun g hm hc => hg g hm ?_
    exact beq_iff_eq.mp (Bool.and_eq_true_iff.mp hc).1
  refine ⟨u, hu, ?_⟩
  unfold syncRead
  dsimp only
  rw [hf]
  have he : s.emptyAt (pa / 8) = false := by simpa [State.emptyAt] using he
  dsimp only
  rw [he, hl]
  rfl

theorem syncRead_empty {s : State} {pa : Nat} (x : Bool) (hg : ∀ g ∈ s.gifts, g.who ≠ .reeve s.cur)
    (he : pa / 8 ∈ s.mem.empties) : syncRead s s.acx pa x =
      await (.ldsyn (pa / 8)) (some (.sync (.reeve s.cur) (pa / 8) x)) := by
  have hf : (s.gifts.find? fun g => g.who == s.acx.who && g.word == pa / 8) = none := by
    refine List.find?_eq_none.mpr fun g hm hc => hg g hm ?_
    exact beq_iff_eq.mp (Bool.and_eq_true_iff.mp hc).1
  unfold syncRead
  dsimp only
  rw [hf]
  have he : s.emptyAt (pa / 8) = true := by simpa [State.emptyAt] using he
  dsimp only
  rw [he]
  rfl

section Ldsyn
variable {s : State} {p : Guard} {d : GReg} {kc : KReg} {a : GReg} {x : Bool} {imm : BitVec 5} {pa : Nat}
  (hg : s.me.guard p = true) (hq : Quiet s)
  (ha : access s s.acx (s.me.kr kc) ((s.me.kr kc).offset + (s.me.gr a).toNat + imm.toNat * 8 : Nat) 8 8 clSyncLoad rR =
    .ok (.phys pa))
  (hn : ∀ g ∈ s.gifts, g.who ≠ .reeve s.cur)
include hg hq ha hn

theorem execLdsyn_full (hb : s.mem.badAt pa 8 = false) (he : pa / 8 ∉ s.mem.empties) :
    ∃ u, Corrects s u ∧ Does (.ldsyn p d kc a x imm) s (if x then setEmptyN u (pa / 8) 1 else u)
      (s.me.setG d (BitVec.ofNat 64 (leNat (s.mem.read pa 8)))) (s.me.pc + 4) := by
  obtain ⟨u, hu, hr⟩ := syncRead_full x hn hb he
  refine ⟨u, hu, does_of_next (len := 4) rfl hg ?_ ?_⟩
  · dsimp only
    rw [memPlace_quiet hq ha]
    show (syncRead s s.acx pa x >>= _) = _
    rw [hr]
    obtain ⟨e, v, rfl⟩ := hu
    cases x <;> rfl
  · obtain ⟨e, v, rfl⟩ := hu
    cases x <;> simp [State.me, State.reeve, setEmptyN]

theorem execLdsyn_waits (he : pa / 8 ∈ s.mem.empties) (hw : ∀ w ∈ s.waiters, w.who ≠ .reeve s.cur) :
    exec (.ldsyn p d kc a x imm) s = .next (({ s with
      waiters := s.waiters ++ [{ word := pa / 8, who := .reeve s.cur, consume := x }] } : State).setReeve s.cur
        { s.me with wait := some (.ldsyn (pa / 8)) }) := by
  have hreg : register s (some (.sync (.reeve s.cur) (pa / 8) x)) =
      { s with waiters := s.waiters ++ [{ word := pa / 8, who := .reeve s.cur, consume := x }] } := by
    refine if_neg fun hc => ?_
    obtain ⟨w, hm, hc⟩ := List.any_eq_true.mp hc
    exact hw w hm (beq_iff_eq.mp (Bool.and_eq_true_iff.mp hc).1)
  refine congrArg Host.Outcome.next ((runReeve_asks hg (w := .ldsyn (pa / 8)) ?_).trans (by rw [hreg]; rfl))
  dsimp only
  rw [memPlace_quiet hq ha]
  show (syncRead s s.acx pa x >>= _) = _
  rw [syncRead_empty x hn he]
  rfl

end Ldsyn

/-! ### FE (R253) -/

section Fe
variable {s : State} {p : Guard} {d : GReg} {kc : KReg} {a : GReg} {x : Bool} {imm : BitVec 5}

/-- What FE does to the state. -/
def feDone (s : State) (x : Bool) (w c : Nat) : State := if x then setFullN s w c else setEmptyN s w c

theorem memWrites_feDone (s : State) (x : Bool) (w c : Nat) : MemWrites s (feDone s x w c) := by
  cases x with
  | true => exact memWrites_setFullN ..
  | false => exact memWrites_mem ..

/-- FE changes full/empty bits, and what waiters are read for, but no byte, tag, zero flag or error. -/
theorem feDone_kept (s : State) (x : Bool) (w c : Nat) : (∀ b, (feDone s x w c).mem.byte b = s.mem.byte b) ∧
    (feDone s x w c).mem.tags = s.mem.tags ∧ (feDone s x w c).mem.nonzero = s.mem.nonzero ∧
    (feDone s x w c).mem.bad = s.mem.bad := by
  cases x with
  | true => exact ⟨setFullN_byte s w c, (setFullN_tables s w c).1, (setFullN_tables s w c).2, setFullN_bad s w c⟩
  | false => exact ⟨fun _ => rfl, rfl, rfl, rfl⟩

variable (hg : s.me.guard p = true)
include hg

theorem gives_fe_zero (hc : (s.me.gr d).toNat = 0) (hx : x = true → Still s) {ea : Nat}
    (he : checkCapAt (s.me.kr kc) ((s.me.kr kc).offset + (s.me.gr a).toNat + imm.toNat * 8 : Nat) none 1 clSyncStore = .ok ea) :
    Gives (.fe p d kc a x imm) s s.me (s.me.pc + 4) := by
  refine does_of_next_self (len := 4) rfl hg ?_
  dsimp only
  rw [if_pos hc]
  show (checkCapAt _ ((s.me.kr kc).offset + (s.me.gr a).toNat + imm.toNat * 8 : Nat) none 1 clSyncStore >>= _) = _
  rw [he]
  cases x with
  | true =>
    show (releaseAll s s.cur >>= _) = _
    rw [releaseAll_still (hx rfl)]
    rfl
  | false => rfl

theorem takesTrap_fe_large (hu : s.me.superv = false) (hc : 2 ^ 37 ≤ (s.me.gr d).toNat) : TakesTrap (.fe p d kc a x imm) s
    { code := .capBounds, addr := BitVec.ofNat 64 ((s.me.kr kc).base * 256 +
      ((s.me.kr kc).offset + (s.me.gr a).toNat + imm.toNat * 8)) } := by
  refine takesTrap_of (len := 4) rfl hg ?_ hu rfl
  dsimp only
  rw [if_neg (by omega), check, if_neg (by simpa using hc)]
  rfl

theorem does_fe (hq : Quiet s) (h0 : 0 < (s.me.gr d).toNat) (hc : (s.me.gr d).toNat < 2 ^ 37) (hx : x = true → Still s) {pa : Nat}
    (ha : access s s.acx (s.me.kr kc) ((s.me.kr kc).offset + (s.me.gr a).toNat + imm.toNat * 8 : Nat)
      (8 * (s.me.gr d).toNat) 8 clSyncStore rW = .ok (.phys pa)) :
    Does (.fe p d kc a x imm) s (feDone s x (pa / 8) (s.me.gr d).toNat) s.me (s.me.pc + 4) := by
  have hd := does_of_next_self (i := .fe p d kc a x imm) (u := feDone s x (pa / 8) (s.me.gr d).toNat) (len := 4) rfl hg ?_
  · rwa [(memWrites_feDone s x (pa / 8) (s.me.gr d).toNat).me] at hd
  dsimp only
  rw [if_neg (by omega), check, if_pos (by simpa using hc)]
  show (access s s.acx _ ((s.me.kr kc).offset + (s.me.gr a).toNat + imm.toNat * 8 : Nat) _ _ _ _ >>= _) = _
  rw [ha]
  cases x with
  | true =>
    show (releaseAll s s.cur >>= _) = _
    rw [releaseAll_still (hx rfl)]
    rfl
  | false =>
    show (settle s s.cur (.phys pa) (8 * (s.me.gr d).toNat) >>= _) = _
    rw [settle_of_quiet hq]
    rfl

end Fe

/-- Settles O14 from the cases of LDSYN and FE; `setsFull_setFullN` says what an FE with x does. -/
theorem fullEmptyWords : Obligations.FullEmptyWords := by
  intro s p d kc a x imm pa hg hq k off c ld fe
  refine ⟨fun ha hb hn => ⟨fun he => ?_, fun he hw => execLdsyn_waits hg hq ha hn he hw⟩,
    fun hc hx ea he => gives_fe_zero hg hc hx he, fun hc hu => takesTrap_fe_large hg hu hc,
    fun h0 hc ha hx => ⟨_, does_fe hg hq h0 hc hx ha, ?_⟩⟩
  · obtain ⟨u, ⟨e, v, rfl⟩, t, ht, hr⟩ := execLdsyn_full (d := d) (x := x) hg hq ha hn hb he
    have hm := hr.mem
    have hl := hr.launches
    refine ⟨t, ht, ?_⟩
    cases x with
    | false =>
      refine ⟨hr.retiresMem rfl rfl rfl, fun b => congrFun (congrArg Mem.byte hm) b, by rw [hm]; rfl, hl, fun w => ?_⟩
      rw [hm]
      simp
    | true =>
      refine ⟨hr.retiresMem rfl rfl rfl, fun b => congrFun (congrArg Mem.byte hm) b, by rw [hm]; rfl, hl, fun w => ?_⟩
      rw [hm]
      refine mem_saddN.trans (or_congr_right ?_)
      rw [eq_self, true_and]
      omega
  · obtain ⟨hbyte, htags, hzero, hbad⟩ := feDone_kept s x (pa / 8) c
    refine ⟨hbyte, htags, hzero, hbad, ?_, ?_⟩
    · rintro rfl
      exact setsFull_setFullN s (pa / 8) c
    · rintro rfl
      exact ⟨rfl, rfl, fun w => mem_saddN.trans or_comm⟩

end Sys2Proof.Machine
end

section
/-! SUPPORT. O12: LD, ST, LDC and STC (R126, R250, R251). -/

namespace Sys2Proof.Machine

/-! ### What a load leaves -/

theorem Corrects.onlyMem {s t : State} (h : Corrects s t) : OnlyMem s t := by
  obtain ⟨e, v, rfl⟩ := h
  rfl

theorem Corrects.sameMem {s t : State} (h : Corrects s t) : SameMem s.mem t.mem := by
  obtain ⟨e, v, rfl⟩ := h
  exact ⟨fun _ => rfl, rfl, rfl, rfl⟩

theorem Corrects.me {s t : State} (h : Corrects s t) : t.me = s.me := by
  obtain ⟨e, v, rfl⟩ := h
  rfl

theorem corrects_loadLoc {s : State} {x : Acx} {l : Loc} {n : Nat} {v : List Byte × State}
    (h : loadLoc s x l n = .ok v) : Corrects s v.2 := by
  cases l with
  | phys a => exact corrects_loadPhys h
  | acc k c o =>
    unfold loadLoc at h
    dsimp only at h
    split at h
    · cases h
    · cases h
      exact .refl s
  | peer a ea m =>
    obtain ⟨bs, -, h⟩ := exists_of_bind_ok h
    cases h
    exact .refl s
  | win | ctl | mmio =>
    cases h
    exact .refl s

theorem corrects_loadCapLoc {s : State} {x : Acx} {l : Loc} {v : Cap × State} (h : loadCapLoc s x l = .ok v) :
    Corrects s v.2 := by
  cases l with
  | phys a =>
    obtain ⟨w, hw, h⟩ := exists_of_bind_ok h
    cases h
    exact corrects_loadPhys hw
  | win | ctl =>
    unfold loadCapLoc at h
    rw [← Except.ok.inj h]
    exact .refl s
  | acc | mmio | peer =>
    obtain ⟨w, hw, h⟩ := exists_of_bind_ok h
    cases h
    exact corrects_loadLoc hw

/-- The sign extension of the low bits of a number (R250). -/
theorem signExtend_eq_ofInt_sgn (w v : Nat) : (BitVec.ofNat w v).signExtend 64 = BitVec.ofInt 64 (sgn w v) := by
  rw [BitVec.signExtend, BitVec.toInt, BitVec.toNat_ofNat]
  rfl

/-- The permission GL (R120). -/
theorem permsIn_pGL (n : Nat) : permsIn pGL n = decide (n / 256 % 2 = 1) := by
  have h : n &&& 256 = (n.testBit 8).toNat * 256 := Nat.and_two_pow n 8
  unfold permsIn pGL
  rw [Nat.and_comm, h, Nat.testBit_eq_decide_div_mod_eq]
  cases decide (n / 2 ^ 8 % 2 = 1) <;> rfl

/-- The place of a capability store of a quiet reeve (R251). -/
theorem capStorePlace_quiet {s : State} (hq : Quiet s) {k c : Cap} {off ea : Nat} {l : Loc}
    (hea : checkCapAt k off (some 16) 16 clCapStore = .ok ea)
    (hgl : c.tag = true → k.space = 0 → c.perms / 256 % 2 = 1) (hl : locate s s.acx k.space ea (rW ||| rT) = .ok l) :
    capStorePlace s k c off = .ok (l, s) := by
  have hb : (!(c.tag && k.space == 0 && !permsIn pGL c.perms)) = true := by
    rw [permsIn_pGL]
    by_cases ht : c.tag = true
    · by_cases hs : k.space = 0
      · simp [hgl ht hs]
      · simp [hs]
    · simp [ht]
  unfold capStorePlace
  rw [hea]
  show (check _ _ _ >>= _) = _
  rw [hb]
  show (locate s s.acx k.space ea (rW ||| rT) >>= _) = _
  rw [hl]
  show (settle s s.cur l 16 >>= _) = _
  rw [settle_of_quiet hq]
  rfl

/-- A tagged capability without GL does not go into space 0 (R251). -/
theorem capStorePlace_local {s : State} {k c : Cap} {off ea : Nat}
    (hea : checkCapAt k off (some 16) 16 clCapStore = .ok ea) (ht : c.tag = true) (hs : k.space = 0)
    (hgl : c.perms / 256 % 2 = 0) : capStorePlace s k c off = raise .capPerm ea := by
  have hb : (!(c.tag && k.space == 0 && !permsIn pGL c.perms)) = false := by
    rw [permsIn_pGL]
    simp [ht, hs, hgl]
  unfold capStorePlace
  rw [hea]
  show (check _ _ _ >>= _) = _
  rw [hb]
  rfl

section Instr
variable {s : State} {p : Guard} {kc : KReg} {a : GReg} {imm : BitVec 5} (hg : s.me.guard p = true) (hq : Quiet s)
include hg hq

/-- LD at a place that its access reaches (R250). -/
theorem does_ld {d : GReg} {sz : BitVec 2} {x : Bool} {l : Loc} {v : List Byte × State}
    (ha : access s s.acx (s.me.kr kc) ((s.me.kr kc).offset + (s.me.gr a).toNat + imm.toNat * 2 ^ sz.toNat : Nat)
      (2 ^ sz.toNat) (2 ^ sz.toNat) clLoad rR = .ok l)
    (hv : loadLoc s s.acx l (2 ^ sz.toNat) = .ok v) :
    Does (.ld p d kc a sz x imm) s v.2 (s.me.setG d (if x then (BitVec.ofNat (8 * 2 ^ sz.toNat) (leNat v.1)).signExtend 64
      else BitVec.ofNat 64 (leNat v.1))) (s.me.pc + 4) := by
  have hme := (corrects_loadLoc hv).me
  refine does_of_next (len := 4) rfl hg ?_ ?_
  · dsimp only
    rw [memPlace_quiet hq ha]
    show (loadLoc s s.acx l (2 ^ sz.toNat) >>= _) = _
    rw [hv, signExtend_eq_ofInt_sgn, ← hme]
    rfl
  · rw [Reeve.setG_vf, hme]

/-- ST at a place that its access reaches, with x once every access of the reeve has been performed (R160, R250). -/
theorem does_st {d : GReg} {sz : BitVec 2} {x : Bool} {l : Loc} {u : State}
    (ha : access s s.acx (s.me.kr kc) ((s.me.kr kc).offset + (s.me.gr a).toNat + imm.toNat * 2 ^ sz.toNat : Nat)
      (2 ^ sz.toNat) (2 ^ sz.toNat) (if x then clSyncStore else clStore) rW = .ok l)
    (hx : x = true → Still s) (hu : storeLoc s s.acx l (leBytes (2 ^ sz.toNat) (s.me.gr d).toNat) x = .ok u) :
    Does (.st p d kc a sz x imm) s (noteStore u (s.me.kr kc)) (noteStore u (s.me.kr kc)).me (s.me.pc + 4) := by
  refine does_of_next_self (len := 4) rfl hg ?_
  dsimp only
  rw [memPlace_quiet hq ha]
  cases x with
  | true =>
    show (releaseAll s s.cur >>= _) = _
    rw [releaseAll_still (hx rfl)]
    show (storeLoc s s.acx l _ true >>= _) = _
    rw [hu]
    rfl
  | false =>
    show (storeLoc s s.acx l _ false >>= _) = _
    rw [hu]
    rfl

/-- LDC at a place that its access reaches (R251). -/
theorem does_ldc {d : KReg} {l : Loc} {v : Cap × State}
    (ha : access s s.acx (s.me.kr kc) ((s.me.kr kc).offset + (s.me.gr a).toNat + imm.toNat * 16 : Nat) 16 16 clCapLoad rR = .ok l)
    (hv : loadCapLoc s s.acx l = .ok v) :
    Does (.ldc p d kc a imm) s v.2 (s.me.setK d v.1) (s.me.pc + 4) := by
  have hme := (corrects_loadCapLoc hv).me
  refine does_of_next (len := 4) rfl hg ?_ ?_
  · dsimp only
    rw [memPlace_quiet hq ha]
    show (loadCapLoc s s.acx l >>= _) = _
    rw [hv, ← hme]
    rfl
  · rw [Reeve.setK_vf, hme]

/-- STC at a place that its checks and its translation reach (R251). -/
theorem does_stc {d : KReg} {ea : Nat} {l : Loc} {u : State}
    (hea : checkCapAt (s.me.kr kc) ((s.me.kr kc).offset + (s.me.gr a).toNat + imm.toNat * 16 : Nat) (some 16) 16 clCapStore =
      .ok ea)
    (hgl : (s.me.kr d).tag = true → (s.me.kr kc).space = 0 → (s.me.kr d).perms / 256 % 2 = 1)
    (hl : locate s s.acx (s.me.kr kc).space ea (rW ||| rT) = .ok l) (hu : storeCapLoc s s.acx l (s.me.kr d) = .ok u) :
    Does (.stc p d kc a imm) s (noteStore u (s.me.kr kc)) (noteStore u (s.me.kr kc)).me (s.me.pc + 4) := by
  refine does_of_next_self (len := 4) rfl hg ?_
  dsimp only
  rw [effOff, capStorePlace_quiet hq hea hgl hl]
  show (storeCapLoc s s.acx l (s.me.kr d) >>= _) = _
  rw [hu]
  rfl

omit hq in
/-- The fault of an STC of a tagged capability without GL into space 0 (R251). -/
theorem takesTrap_stc_local {d : KReg} {ea : Nat}
    (hea : checkCapAt (s.me.kr kc) ((s.me.kr kc).offset + (s.me.gr a).toNat + imm.toNat * 16 : Nat) (some 16) 16 clCapStore =
      .ok ea)
    (ht : (s.me.kr d).tag = true) (hs : (s.me.kr kc).space = 0) (hgl : (s.me.kr d).perms / 256 % 2 = 0)
    (hu : s.me.superv = false) :
    TakesTrap (.stc p d kc a imm) s { code := .capPerm, addr := BitVec.ofNat 64 ea } := by
  refine takesTrap_of (len := 4) rfl hg ?_ hu rfl
  dsimp only
  rw [effOff, capStorePlace_local hea ht hs hgl]
  rfl

end Instr

/-! ### A granule with its tag (R126) -/

theorem shiftRight_four (n : Nat) : n >>> 4 = n / 16 := Nat.shiftRight_eq_div_pow n 4

/-- A capability load from a granule without an uncorrectable error. -/
theorem loadCapLoc_good {s : State} {pa : Nat} (h : s.mem.badAt pa 16 = false) :
    (loadCapLoc s s.acx (.phys pa)).toOption.map (·.1) =
      some ⟨BitVec.ofNat 128 (leNat (s.mem.read pa 16)), decide (pa / 16 ∈ s.mem.tags) && !isHost pa⟩ := by
  obtain ⟨u, hu, hl⟩ := loadPhys_good s.acx.vf h
  obtain ⟨e, v, rfl⟩ := hu
  unfold loadCapLoc
  dsimp only
  rw [hl, ← List.contains_eq_mem, ← shiftRight_four]
  rfl

/-- The bytes and the tags after a capability store. -/
theorem storeCap_mem (s : State) (vf pa : Nat) (c : Cap) :
    (storeCap s vf pa c).mem.read pa 16 = leBytes 16 c.bits.toNat ∧
    (pa / 16 ∈ (storeCap s vf pa c).mem.tags ↔ c.tag = true ∧ isHost pa = false) ∧
    ∀ b, b < pa ∨ pa + 16 ≤ b → (storeCap s vf pa c).mem.byte b = s.mem.byte b := by
  have hlen : (leBytes 16 c.bits.toNat).length = 16 := length_leBytes ..
  have hbyte (b : Nat) : (storeCap s vf pa c).mem.byte b = (s.mem.write pa (leBytes 16 c.bits.toNat)).byte b :=
    storePhys_byte ..
  refine ⟨?_, ?_, fun b hb => ?_⟩
  · rw [Mem.read_eq_map]
    have := Mem.read_write s.mem pa (leBytes 16 c.bits.toNat)
    rw [hlen, Mem.read_eq_map] at this
    exact (List.map_congr_left fun i _ => hbyte _).trans this
  · refine mem_sput.trans ?_
    rw [shiftRight_four, if_pos rfl]
    simp
  · rw [hbyte, Mem.byte_write_other _ _ _ _ (by rw [hlen]; exact hb)]

/-- Settles O12: a quiet reeve's access finds its place as the state stands (`memPlace_quiet`), and a load only corrects. -/
theorem loadsAndStores : Obligations.LoadsAndStores := by
  refine ⟨fun s p d kc a sz x imm hg hq => ?_, fun s p d kc a imm hg hq => ?_⟩
  · intro n k off
    refine ⟨fun l ha v hv => ?_, fun l ha hx u hu => does_st hg hq ha hx hu, fun pa => ⟨fun hb => ?_, rfl⟩⟩
    · exact ⟨(corrects_loadLoc hv).onlyMem, (corrects_loadLoc hv).sameMem, does_ld hg hq ha hv⟩
    · obtain ⟨u, -, hl⟩ := loadPhys_good s.acx.vf hb
      rw [show loadLoc s s.acx (.phys pa) n = _ from hl]
      rfl
  · intro k c off
    refine ⟨fun l ha v hv => ?_, fun ea hea hgl l hl u hu => does_stc hg hq hea hgl hl hu,
      fun ea hea ht hs hgl hu => takesTrap_stc_local hg hea ht hs hgl hu, fun pa => ⟨loadCapLoc_good, rfl, ?_⟩⟩
    · exact ⟨(corrects_loadCapLoc hv).onlyMem, (corrects_loadCapLoc hv).sameMem, does_ldc hg hq ha hv⟩
    · exact storeCap_mem s s.me.vf pa c

end Sys2Proof.Machine
end

section
/-! SUPPORT. O17 and O19: reading, moving and deriving capabilities (R120, R121, R247 to R249). -/

namespace Sys2Proof.Machine

/-! ### Fields of the 128 bits (R120) -/

theorem field_toNat (n : Nat) (x : BitVec n) (lo k : Nat) : (field x lo k).toNat = x.toNat / 2 ^ lo % 2 ^ k := by
  simp [field, Nat.shiftRight_eq_div_pow]

theorem toNat_append_add {n m : Nat} (x : BitVec n) (y : BitVec m) : (x ++ y).toNat = x.toNat * 2 ^ m + y.toNat := by
  rw [BitVec.toNat_append, ← Nat.shiftLeft_add_eq_or_of_lt y.isLt, Nat.shiftLeft_eq]

section Fields
variable (c : Cap)

theorem Cap.otype_eq : c.otype = c.bits.toNat / 2 ^ 124 % 2 ^ 4 := field_toNat ..
theorem Cap.perms_eq : c.perms = c.bits.toNat / 2 ^ 114 % 2 ^ 10 := field_toNat ..
theorem Cap.space_eq : c.space = c.bits.toNat / 2 ^ 111 % 2 ^ 3 := field_toNat ..
theorem Cap.exp_eq : c.exp = c.bits.toNat / 2 ^ 106 % 2 ^ 5 := field_toNat ..
theorem Cap.mant_eq : c.mant = c.bits.toNat / 2 ^ 88 % 2 ^ 18 := field_toNat ..
theorem Cap.base_eq : c.base = c.bits.toNat / 2 ^ 40 % 2 ^ 48 := field_toNat ..
theorem Cap.offset_eq : c.offset = c.bits.toNat % 2 ^ 40 := (field_toNat ..).trans (by simp)

/-- The bits with another offset. -/
theorem Cap.withOff_toNat (o : Nat) : (c.withOff o).bits.toNat = c.bits.toNat / 2 ^ 40 * 2 ^ 40 + o % 2 ^ 40 := by
  have hlt := c.bits.isLt
  unfold Cap.withOff
  rw [toNat_append_add, field_toNat, BitVec.toNat_ofNat]
  omega

/-- The bits with other permissions. -/
theorem Cap.withPerms_toNat (p : BitVec 10) : (c.withPerms p).bits.toNat =
    c.bits.toNat / 2 ^ 124 * 2 ^ 124 + p.toNat * 2 ^ 114 + c.bits.toNat % 2 ^ 114 := by
  have hlt := c.bits.isLt
  unfold Cap.withPerms
  rw [toNat_append_add, toNat_append_add, field_toNat, field_toNat]
  omega

/-- The bits with another object type. -/
theorem Cap.withOtype_toNat (t : Nat) : (c.withOtype t).bits.toNat = t % 2 ^ 4 * 2 ^ 124 + c.bits.toNat % 2 ^ 124 := by
  unfold Cap.withOtype
  rw [toNat_append_add, BitVec.toNat_ofNat, field_toNat, pow_zero, Nat.div_one]

/-- The bits of a capability from its fields. -/
theorem Cap.make_toNat (tag : Bool) (ot perms space e l base off : Nat) : (Cap.make tag ot perms space e l base off).bits.toNat =
    (((((ot % 2 ^ 4 * 2 ^ 10 + perms % 2 ^ 10) * 2 ^ 3 + space % 2 ^ 3) * 2 ^ 5 + e % 2 ^ 5) * 2 ^ 18 + l % 2 ^ 18) * 2 ^ 48 +
      base % 2 ^ 48) * 2 ^ 40 + off % 2 ^ 40 := by
  unfold Cap.make
  simp only [toNat_append_add, BitVec.toNat_ofNat]

theorem Cap.withOff_eq (ht : c.tag = true) (o : Nat) (h : o < 2 ^ 40) :
    c.withOff o = ⟨BitVec.ofNat 128 (c.bits.toNat / 2 ^ 40 * 2 ^ 40 + o), true⟩ := by
  have hb : (c.withOff o).bits = BitVec.ofNat 128 (c.bits.toNat / 2 ^ 40 * 2 ^ 40 + o) := by
    apply BitVec.eq_of_toNat_eq
    have hlt := c.bits.isLt
    rw [c.withOff_toNat, BitVec.toNat_ofNat, Nat.mod_eq_of_lt h]
    omega
  rw [← hb, ← ht]
  rfl

theorem Cap.withPerms_eq (ht : c.tag = true) (p : BitVec 10) : c.withPerms p =
    ⟨BitVec.ofNat 128 (c.bits.toNat / 2 ^ 124 * 2 ^ 124 + p.toNat * 2 ^ 114 + c.bits.toNat % 2 ^ 114), true⟩ := by
  rw [← c.withPerms_toNat, BitVec.ofNat_toNat, BitVec.setWidth_eq, ← ht]
  rfl

end Fields

/-! ### The source checks (R247) -/

/-- A fault of an instruction that only writes a capability register, taken at U level. -/
theorem takesTrap_of_toK {i : Instr} {s : State} {p : Guard} {d : KReg} {f : Reeve → Except Stop Cap} {e : Trap}
    (he : exec i s = toK p d f s) (h : s.me.guard p = true) (hf : f s.me = .error (.trap e)) (hu : s.me.superv = false)
    (hr : e.code.replays = false) : TakesTrap i s e := by
  refine takesTrap_of (len := 4) he h ?_ hu hr
  rw [hf]
  rfl

section Source
variable {c : Cap}

theorem capSource_good (ht : c.tag = true) (ho : c.otype = 0) : capSource c = .ok () := by
  unfold capSource check
  rw [ht, ho]
  rfl

theorem capSource_untagged (ht : c.tag = false) : capSource c = .error (.trap { code := .capTag }) := by
  unfold capSource check
  rw [ht]
  rfl

theorem capSource_sealed (ht : c.tag = true) (ho : c.otype ≠ 0) : capSource c = .error (.trap { code := .capSeal }) := by
  unfold capSource check
  rw [ht, beq_false_of_ne ho]
  rfl

theorem capMove_source {o : Int} {e : Stop} (h : capSource c = .error e) : capMove c o = .error e := by
  unfold capMove
  rw [h]
  rfl

theorem capMove_inside (ht : c.tag = true) (ho : c.otype = 0) {o : Int} (h0 : 0 ≤ o) (h1 : o < 2 ^ 40) :
    capMove c o = .ok ⟨BitVec.ofNat 128 (c.bits.toNat / 2 ^ 40 * 2 ^ 40 + o.toNat), true⟩ := by
  unfold capMove check
  rw [capSource_good ht ho, decide_eq_true h0, decide_eq_true h1, ← c.withOff_eq ht o.toNat (by omega)]
  rfl

theorem capMove_outside (ht : c.tag = true) (ho : c.otype = 0) {o : Int} (h : o < 0 ∨ 2 ^ 40 ≤ o) :
    capMove c o = .error (.trap { code := .capBounds }) := by
  have hb : (decide (0 ≤ o) && decide (o < 2 ^ 40)) = false := by
    rw [Bool.and_eq_false_iff]
    exact h.imp (fun h => decide_eq_false (by omega)) fun h => decide_eq_false (by omega)
  unfold capMove check
  rw [capSource_good ht ho, hb]
  rfl

end Source

/-- The operation of CANDP. -/
def capMask (c : Cap) (g : W64) : Except Stop Cap := do
  capSource c
  .ok (c.withPerms (BitVec.ofNat 10 c.perms &&& field g 0 10))

theorem capMask_source {c : Cap} {e : Stop} (h : capSource c = .error e) (g : W64) : capMask c g = .error e := by
  unfold capMask
  rw [h]
  rfl

theorem capMask_good {c : Cap} (ht : c.tag = true) (ho : c.otype = 0) (g : W64) : capMask c g =
    .ok ⟨BitVec.ofNat 128 (c.bits.toNat / 2 ^ 124 * 2 ^ 124 +
      (c.bits.toNat / 2 ^ 114 % 2 ^ 10 &&& g.toNat % 2 ^ 10) * 2 ^ 114 + c.bits.toNat % 2 ^ 114), true⟩ := by
  have hp : (BitVec.ofNat 10 c.perms &&& field g 0 10).toNat = c.bits.toNat / 2 ^ 114 % 2 ^ 10 &&& g.toNat % 2 ^ 10 := by
    rw [BitVec.toNat_and, field_toNat, BitVec.toNat_ofNat, c.perms_eq, Nat.mod_mod, pow_zero, Nat.div_one]
  unfold capMask
  rw [capSource_good ht ho, ← hp, ← c.withPerms_eq ht]
  rfl

/-- Settles O17: `capMove_inside` and `capMask_good` give the capabilities, and `capSource` the faults. -/
theorem capabilityReadsAndMoves : Obligations.CapabilityReadsAndMoves := by
  refine ⟨fun s p d q e a hg => ?_, fun s p d a b imm hg => ?_⟩
  · intro c x
    have hb := writesG_of_toG (i := .cgetb p d a) (s := s) rfl hg
    have hl := writesG_of_toG (i := .cgetl p d a) (s := s) rfl hg
    have ho := writesG_of_toG (i := .cgeto p d a) (s := s) rfl hg
    have hp := writesG_of_toG (i := .cgetp p d a) (s := s) rfl hg
    have hs := writesG_of_toG (i := .cgets p d a) (s := s) rfl hg
    rw [Cap.base_eq] at hb
    rw [Cap.length, Cap.mant_eq, Cap.exp_eq] at hl
    rw [Cap.offset_eq] at ho
    rw [Cap.perms_eq] at hp
    dsimp only at hs
    rw [Cap.otype_eq, Cap.space_eq] at hs
    refine ⟨hb, hl, ho, hp, ?_, writesP_of_toP (f := fun r => (r.kr a).tag) rfl hg, writesK_of_toK (f := fun r => .ok ⟨(r.kr a).bits, false⟩) rfl hg rfl,
      writesK_of_toK (f := fun r => .ok (r.kr a)) rfl hg rfl⟩
    have hx : x / 2 ^ 111 % 8 + x / 2 ^ 124 * 16 + (if c.tag then 256 else 0) =
        (if c.tag then 256 else 0) + x / 2 ^ 124 % 2 ^ 4 * 16 + x / 2 ^ 111 % 2 ^ 3 := by
      have : x < 2 ^ 128 := c.bits.isLt
      omega
    rw [hx]
    exact hs
  · intro c x g all moves
    have hmoves : ∀ m ∈ moves, ∃ f, exec m.1 s = toK p d f s ∧ f s.me = capMove c m.2 := by
      intro m hm
      rcases List.mem_cons.mp hm with rfl | hm
      · exact ⟨fun r => capMove (r.kr a) ((r.kr a).offset + (r.gr b).toInt), rfl, rfl⟩
      rcases List.mem_cons.mp hm with rfl | hm
      · exact ⟨fun r => capMove (r.kr a) (r.gr b).toNat, rfl, rfl⟩
      · rw [List.mem_singleton.mp hm]
        exact ⟨fun r => capMove (r.kr a) ((r.kr a).offset + imm.toInt), rfl, rfl⟩
    have hmask : exec (.candp p d a b) s = toK p d (fun r => capMask (r.kr a) (r.gr b)) s := rfl
    have hall : ∀ t : Trap, capSource c = .error (.trap t) → s.me.superv = false → t.code.replays = false →
        ∀ i ∈ all, TakesTrap i s t := by
      intro t ht hu hr i hi
      have hi : i = .candp p d a b ∨ ∃ m ∈ moves, m.1 = i := by
        simp only [all, moves, List.mem_cons, List.not_mem_nil, or_false] at hi ⊢
        rcases hi with rfl | rfl | rfl | rfl
        · exact .inr ⟨_, .inl rfl, rfl⟩
        · exact .inr ⟨_, .inr (.inl rfl), rfl⟩
        · exact .inl rfl
        · exact .inr ⟨_, .inr (.inr rfl), rfl⟩
      rcases hi with rfl | ⟨m, hm, rfl⟩
      · exact takesTrap_of_toK hmask hg (capMask_source ht g) hu hr
      · obtain ⟨f, he, hf⟩ := hmoves m hm
        exact takesTrap_of_toK he hg (hf.trans (capMove_source ht)) hu hr
    refine ⟨fun ht ho => ⟨fun m hm h0 h1 => ?_, fun hu m hm hout => ?_, writesK_of_toK hmask hg (capMask_good ht ho g)⟩,
      fun ht hu => hall _ (capSource_untagged ht) hu rfl, fun ht ho hu => hall _ (capSource_sealed ht ho) hu rfl⟩
    · obtain ⟨f, he, hf⟩ := hmoves m hm
      exact writesK_of_toK he hg (hf.trans (capMove_inside ht ho h0 h1))
    · obtain ⟨f, he, hf⟩ := hmoves m hm
      exact takesTrap_of_toK he hg (hf.trans (capMove_outside ht ho hout)) hu rfl

/-! ### What a derived capability reaches (R121) -/

/-- One capability reaches no further than another: it lies in its bounds and holds no permission beside its own. -/
structure Cap.Within (c o : Cap) : Prop where
  space : o.space = c.space
  low : o.base ≤ c.base
  high : c.base * 256 + c.length ≤ o.base * 256 + o.length
  perms : c.perms &&& o.perms = c.perms

/-- A capability lies within one window of its space (R121). -/
def Cap.Windowed (c : Cap) : Prop := boundsOk c.space (c.base * 256) c.length = true

/-- A capability that may stand in place of a tagged one: it is not tagged, or it keeps to a window and reaches no further. -/
def Cap.From (c o : Cap) : Prop := c.tag = true → o.tag = true ∧ (o.Windowed → c.Windowed) ∧ c.Within o

theorem Cap.from_self (c : Cap) : c.From c := fun h => ⟨h, id, rfl, le_rfl, le_rfl, Nat.and_self _⟩

/-- With the tag, the bounds and the space of another capability, in bits 113:40, and some of its permissions. -/
theorem Cap.from_of_bits {c o : Cap} (ht : c.tag = o.tag)
    (hb : c.bits.toNat / 2 ^ 40 % 2 ^ 74 = o.bits.toNat / 2 ^ 40 % 2 ^ 74) (hp : c.perms &&& o.perms = c.perms) : c.From o := by
  have hs : c.space = o.space := by rw [Cap.space_eq, Cap.space_eq]; omega
  have hbase : c.base = o.base := by rw [Cap.base_eq, Cap.base_eq]; omega
  have hl : c.length = o.length := by
    have hm : c.mant = o.mant := by rw [Cap.mant_eq, Cap.mant_eq]; omega
    have he : c.exp = o.exp := by rw [Cap.exp_eq, Cap.exp_eq]; omega
    rw [Cap.length, Cap.length, hm, he]
  refine fun h => ⟨ht ▸ h, fun hw => ?_, hs.symm, hbase.ge, (by rw [hbase, hl]), hp⟩
  unfold Cap.Windowed
  rw [hs, hbase, hl]
  exact hw

theorem Cap.from_withOff (c : Cap) (o : Nat) : (c.withOff o).From c := by
  have hx := c.withOff_toNat o
  have hp : (c.withOff o).perms = c.perms := by rw [Cap.perms_eq, Cap.perms_eq]; omega
  exact Cap.from_of_bits rfl (by omega) (by rw [hp, Nat.and_self])

theorem Cap.from_withOtype (c : Cap) (t : Nat) : (c.withOtype t).From c := by
  have hx := c.withOtype_toNat t
  have hp : (c.withOtype t).perms = c.perms := by rw [Cap.perms_eq, Cap.perms_eq]; omega
  exact Cap.from_of_bits rfl (by omega) (by rw [hp, Nat.and_self])

theorem Cap.from_masked (c : Cap) (g : BitVec 10) : (c.withPerms (BitVec.ofNat 10 c.perms &&& g)).From c := by
  have hx := c.withPerms_toNat (BitVec.ofNat 10 c.perms &&& g)
  have hlt := (BitVec.ofNat 10 c.perms &&& g).isLt
  have hp : (c.withPerms (BitVec.ofNat 10 c.perms &&& g)).perms = c.perms &&& g.toNat := by
    have hn : (BitVec.ofNat 10 c.perms &&& g).toNat = c.perms &&& g.toNat := by
      rw [BitVec.toNat_and, BitVec.toNat_ofNat, c.perms_eq, Nat.mod_mod]
    rw [← hn, Cap.perms_eq]
    omega
  exact Cap.from_of_bits rfl (by omega) (by rw [hp, Nat.and_right_comm, Nat.and_self])

/-! ### What the operations give -/

theorem exists_of_check_ok {α : Type} {b : Bool} {c : Code} {n k : Nat} {f : Unit → Except Stop α} {a : α}
    (h : (check b c n k >>= f) = .ok a) : b = true ∧ f () = .ok a := by
  obtain ⟨_, hb, hf⟩ := exists_of_bind_ok h
  unfold check at hb
  split at hb
  · exact ⟨‹_›, hf⟩
  · cases hb

theorem capMove_from {c r : Cap} {o : Int} (h : capMove c o = .ok r) : r.From c := by
  obtain ⟨_, -, h⟩ := exists_of_bind_ok h
  obtain ⟨-, h⟩ := exists_of_check_ok h
  cases h
  exact c.from_withOff _

theorem capMask_from {c r : Cap} {g : W64} (h : capMask c g = .ok r) : r.From c := by
  obtain ⟨_, -, h⟩ := exists_of_bind_ok h
  cases h
  exact c.from_masked _

theorem fitExp_some {m e n k : Nat} (h : fitExp m e n = some k) : k < e + n ∧ cdiv m (2 ^ k) ≤ 262144 := by
  induction n generalizing e with
  | zero => cases h
  | succ n ih =>
    unfold fitExp at h
    split at h
    · cases h
      exact ⟨by omega, ‹_›⟩
    · have := ih h
      exact ⟨by omega, this.2⟩

/-- A window lies below 2^56 (R121). -/
theorem boundsOk_le {space lo len : Nat} (h : boundsOk space lo len = true) : lo + len ≤ 2 ^ 56 :=
  of_decide_eq_true (Bool.and_eq_true_iff.mp h).1

/-- The bounds and permissions of a capability from fields that fit. -/
theorem Cap.make_fields {tag : Bool} {ot perms space e l base off : Nat} (hp : perms < 2 ^ 10) (hs : space < 2 ^ 3)
    (he : e < 2 ^ 5) (hl : l < 2 ^ 18) (hb : base < 2 ^ 48) : let c := Cap.make tag ot perms space e l base off
    c.perms = perms ∧ c.space = space ∧ c.base = base ∧ c.length = (l + 1) * 2 ^ e := by
  intro c
  have hx : c.bits.toNat = _ := Cap.make_toNat tag ot perms space e l base off
  have hexp : c.exp = e := by rw [Cap.exp_eq]; omega
  have hmant : c.mant = l := by rw [Cap.mant_eq]; omega
  refine ⟨?_, ?_, ?_, by rw [Cap.length, hexp, hmant]⟩
  · rw [Cap.perms_eq]; omega
  · rw [Cap.space_eq]; omega
  · rw [Cap.base_eq]; omega

/-- CSETB keeps to a window and to the bounds of its source (R121, R248). -/
theorem capNarrow_from {c r : Cap} {n : Nat} (h : capNarrow c n = .ok r) : r.From c := by
  obtain ⟨_, -, h⟩ := exists_of_bind_ok h
  obtain ⟨hn, h⟩ := exists_of_check_ok h
  dsimp only at h
  generalize hm : c.addr % 256 + n = m at h
  cases hf : fitExp m 0 32 with
  | none => rw [hf] at h; cases h
  | some e =>
    rw [hf] at h
    obtain ⟨hw, h⟩ := exists_of_check_ok h
    obtain ⟨hb, h⟩ := exists_of_check_ok h
    cases h
    obtain ⟨he, hfit⟩ := fitExp_some hf
    have hpow : 0 < 2 ^ e := Nat.two_pow_pos e
    have hm0 : n ≠ 0 := bne_iff_ne.mp hn
    have hpos : 1 ≤ cdiv m (2 ^ e) := (Nat.le_div_iff_mul_le hpow).mpr (by omega)
    have hle := boundsOk_le hw
    have hbytes : 0 < cdiv m (2 ^ e) * 2 ^ e := Nat.mul_pos hpos hpow
    have hs : c.space < 2 ^ 3 := (field c.bits 111 3).isLt
    have hp : c.perms < 2 ^ 10 := (field c.bits 114 10).isLt
    rw [Nat.mul_div_cancel _ hpow]
    obtain ⟨hperms, hspace, hbase, hlen⟩ := Cap.make_fields (tag := c.tag) (ot := c.otype) (off := c.addr % 256) hp hs
      (show e < 2 ^ 5 by omega) (show cdiv m (2 ^ e) - 1 < 2 ^ 18 by omega) (show c.addr / 256 < 2 ^ 48 by omega)
    rw [Nat.sub_add_cancel hpos] at hlen
    simp only [Bool.and_eq_true, decide_eq_true_eq] at hb
    refine fun ht => ⟨ht, fun _ => ?_, hspace.symm, ?_, ?_, by rw [hperms, Nat.and_self]⟩
    · unfold Cap.Windowed
      rw [hspace, hbase, hlen]
      exact hw
    · rw [hbase]
      omega
    · rw [hbase, hlen]
      exact hb.2

/-! ### The instructions (R121) -/

theorem trapEntry_kr (f : Trap) (s : State) (j : KReg) : (trapEntry f s).me.kr j = s.me.kr j := by
  cases hu : s.me.superv with
  | false =>
    rw [trapEntry_user_me f hu]
    rfl
  | true =>
    have h := stopReeve_only s s.cur f
    rw [trapEntry_superv f hu, State.me_of_reeves h.reeves h.cur, State.me_setReeve]
    rfl

/-- A computation that ends with a value or a fault. -/
structure OnlyTraps {α : Type} (x : Except Stop α) : Prop where
  trap : ∀ e, x = .error e → ∃ t, e = .trap t

theorem onlyTraps_ok {α : Type} (a : α) : OnlyTraps (.ok a : Except Stop α) := ⟨fun _ h => by cases h⟩
theorem onlyTraps_raise {α : Type} (c : Code) (n k : Nat) : OnlyTraps (raise c n k : Except Stop α) := ⟨fun _ h => by
  cases h
  exact ⟨_, rfl⟩⟩
theorem onlyTraps_check (b : Bool) (c : Code) (n k : Nat) : OnlyTraps (check b c n k) := by
  unfold check
  split
  · exact onlyTraps_ok ()
  · exact onlyTraps_raise ..
theorem OnlyTraps.bind {α β : Type} {x : Except Stop α} {f : α → Except Stop β} (hx : OnlyTraps x)
    (hf : ∀ a, OnlyTraps (f a)) : OnlyTraps (x >>= f) := ⟨fun e h => by
  cases x with
  | error d =>
    cases h
    exact hx.trap _ rfl
  | ok a => exact (hf a).trap e h⟩

/-- The k registers after an instruction that only writes one. -/
theorem toK_kr {s t : State} {p : Guard} {d : KReg} {f : Reeve → Except Stop Cap} (hf : OnlyTraps (f s.me))
    (h : toK p d f s = .next t) : (∀ j, t.me.kr j = s.me.kr j) ∨
      ∃ c, f s.me = .ok c ∧ ∀ j, t.me.kr j = if j = d then c else s.me.kr j := by
  unfold toK word at h
  cases h
  cases hg : s.me.guard p with
  | false =>
    rw [runReeve_false hg]
    exact .inl fun j => by rw [retire_me]; rfl
  | true =>
    cases hc : f s.me with
    | ok c =>
      rw [runReeve_next hg (t := s.updMe (·.setK d c)) (by rw [hc]; rfl)]
      refine .inr ⟨c, rfl, fun j => ?_⟩
      rw [retire_me, ← Reeve.kr_setK, State.updMe_eq, State.me_setReeve]
      rfl
    | error e =>
      obtain ⟨x, rfl⟩ := hf.trap e hc
      rw [runReeve_trap hg (e := x) (by rw [hc]; rfl)]
      exact .inl fun j => trapEntry_kr x _ j

/-- An instruction writes only capabilities that come from one of the k registers. -/
def Derives (i : Instr) (s : State) : Prop := ∃ (p : Guard) (d a : KReg) (f : Reeve → Except Stop Cap),
  exec i s = toK p d f s ∧ OnlyTraps (f s.me) ∧ ∀ c, f s.me = .ok c → c.From (s.me.kr a)

theorem onlyTraps_capSource (c : Cap) : OnlyTraps (capSource c) :=
  (onlyTraps_check ..).bind fun _ => onlyTraps_check ..

theorem onlyTraps_capMove (c : Cap) (o : Int) : OnlyTraps (capMove c o) :=
  (onlyTraps_capSource c).bind fun _ => (onlyTraps_check ..).bind fun _ => onlyTraps_ok _

theorem onlyTraps_capMask (c : Cap) (g : W64) : OnlyTraps (capMask c g) :=
  (onlyTraps_capSource c).bind fun _ => onlyTraps_ok _

theorem onlyTraps_capNarrow (c : Cap) (n : Nat) : OnlyTraps (capNarrow c n) := by
  refine (onlyTraps_capSource c).bind fun _ => (onlyTraps_check ..).bind fun _ => ?_
  dsimp only
  split
  · exact onlyTraps_raise ..
  · exact (onlyTraps_check ..).bind fun _ => (onlyTraps_check ..).bind fun _ => onlyTraps_ok _

theorem onlyTraps_sealType (c : Cap) : OnlyTraps (sealType c) :=
  (onlyTraps_check ..).bind fun _ => (onlyTraps_check ..).bind fun _ => (onlyTraps_check ..).bind fun _ =>
    (onlyTraps_check ..).bind fun _ => onlyTraps_ok _

theorem derives_move {i : Instr} {s : State} {p : Guard} {d a : KReg} {o : Reeve → Int}
    (h : exec i s = toK p d (fun r => capMove (r.kr a) (o r)) s) : Derives i s :=
  ⟨p, d, a, _, h, onlyTraps_capMove .., fun _ => capMove_from⟩

/-- The operation of CSEAL. -/
def capSealBy (c k : Cap) : Except Stop Cap := do
  capSource c
  let t ← sealType k
  .ok (c.withOtype t)

/-- The operation of CUNSEAL. -/
def capUnsealBy (c k : Cap) : Except Stop Cap := do
  check c.tag .capTag
  check (c.otype != 0) .capSeal
  let t ← sealType k
  check (t == c.otype) .capSeal
  .ok (c.withOtype 0)

theorem derives_cseal (s : State) (p : Guard) (d a q : KReg) : Derives (.cseal p d a q) s := by
  refine ⟨p, d, a, fun r => capSealBy (r.kr a) (r.kr q), rfl, ?_, fun c h => ?_⟩
  · exact (onlyTraps_capSource _).bind fun _ => (onlyTraps_sealType _).bind fun _ => onlyTraps_ok _
  · obtain ⟨_, -, h⟩ := exists_of_bind_ok h
    obtain ⟨_, -, h⟩ := exists_of_bind_ok h
    cases h
    exact Cap.from_withOtype _ _

theorem derives_cunseal (s : State) (p : Guard) (d a q : KReg) : Derives (.cunseal p d a q) s := by
  refine ⟨p, d, a, fun r => capUnsealBy (r.kr a) (r.kr q), rfl, ?_, fun c h => ?_⟩
  · exact (onlyTraps_check ..).bind fun _ => (onlyTraps_check ..).bind fun _ => (onlyTraps_sealType _).bind fun _ =>
      (onlyTraps_check ..).bind fun _ => onlyTraps_ok _
  · obtain ⟨-, h⟩ := exists_of_check_ok h
    obtain ⟨-, h⟩ := exists_of_check_ok h
    obtain ⟨_, -, h⟩ := exists_of_bind_ok h
    obtain ⟨-, h⟩ := exists_of_check_ok h
    cases h
    exact Cap.from_withOtype _ _

/-- A capability that has lost its tag comes from any. -/
theorem Cap.from_untagged (b : BitVec 128) (o : Cap) : Cap.From ⟨b, false⟩ o := nofun

theorem derives_all {s : State} {p : Guard} {d a q : KReg} {b : GReg} {imm : BitVec 12} {i : Instr}
    (h : i ∈ ([.csetb p d a b, .cinc p d a b, .cseto p d a b, .candp p d a b, .cclr p d, .cmov p d a, .cseal p d a q,
      .cunseal p d a q, .cinci p d a imm] : List Instr)) : Derives i s := by
  simp only [List.mem_cons, List.not_mem_nil, or_false] at h
  rcases h with rfl | rfl | rfl | rfl | rfl | rfl | rfl | rfl | rfl
  · exact ⟨p, d, a, fun r => capNarrow (r.kr a) (r.gr b).toNat, rfl, onlyTraps_capNarrow .., fun _ => capNarrow_from⟩
  · exact derives_move (o := fun r => (r.kr a).offset + (r.gr b).toInt) rfl
  · exact derives_move (o := fun r => (r.gr b).toNat) rfl
  · exact ⟨p, d, a, fun r => capMask (r.kr a) (r.gr b), rfl, onlyTraps_capMask .., fun _ => capMask_from⟩
  · exact ⟨p, d, d, fun r => .ok ⟨(r.kr d).bits, false⟩, rfl, onlyTraps_ok _, fun c hc => Except.ok.inj hc ▸ Cap.from_untagged _ _⟩
  · exact ⟨p, d, a, fun r => .ok (r.kr a), rfl, onlyTraps_ok _, fun c hc => Except.ok.inj hc ▸ Cap.from_self _⟩
  · exact derives_cseal ..
  · exact derives_cunseal ..
  · exact derives_move (o := fun r => (r.kr a).offset + imm.toInt) rfl

/-- Settles O19: after a deriving instruction every k register holds a capability that comes from one that was there. -/
theorem derivedCapabilitiesKeepTheirBounds : Obligations.DerivedCapabilitiesKeepTheirBounds := by
  intro s t p d a q b imm i hi hall ht j hj
  obtain ⟨p', d', a', f, he, hf, hfrom⟩ := derives_all (s := s) hi
  obtain ⟨o, ho⟩ : ∃ o, (t.me.kr j).From (s.me.kr o) := by
    rcases toK_kr hf (he.symm.trans ht) with h | ⟨c, hc, h⟩
    · exact ⟨j, h j ▸ Cap.from_self _⟩
    · rw [h j]
      split
      · exact ⟨a', hfrom c hc⟩
      · exact ⟨j, Cap.from_self _⟩
  obtain ⟨hot, hw, hin⟩ := ho hj
  exact ⟨hw (hall o hot), o, hot, hin.space, hin.low, hin.high, hin.perms⟩

end Sys2Proof.Machine
end

section
/-! SUPPORT. O58: the turn of a reeve whose register file holds an uncorrectable error (R379). -/

namespace Sys2Proof.Machine

/-- A reeve that may fetch, with no code capability, whose register file holds an uncorrectable error (R379, log 65). -/
def badRegisters : State :=
  { reeves := [(0, { run := .running })], launches := [(0, { ctx := 0, vf := 0, lid := 0, st := .running })]
    ecc := { reeves := [0] } }

/-- ECAUSE of the acting reeve after a step. -/
def causeAfter : Host.Outcome State Fault Refusal → W64
  | .next t => t.me.ecause
  | _ => 0

/-- The error of the register file is met before the fetch (R379). -/
theorem causeAfter_badRegisters : causeAfter (step badRegisters) = 0x50B := by decide

/-- The address of the acting reeve's pc as an offset from its code capability (log 51). -/
def fetchOff (s : State) : Int := (s.me.pc.toNat : Int) - (s.me.code.base * 256 : Nat)

/-- A fetch under an untagged code capability fails (R123, R124). -/
theorem fetch_untagged {s : State} (h : s.me.code.tag = false) :
    fetch s = .error (.trap { code := .capTag, addr := BitVec.ofNat 64 (capEa s.me.code (fetchOff s)) }) := by
  have hc : checkCapAt s.me.code (fetchOff s) (some 4) 4 clFetch = _ := checkCapAt_untagged h
  unfold fetch fetchAt
  dsimp only
  rw [← fetchOff, hc]
  rfl

/-- Refutes O58: the statement has a failing fetch raise its fault, here CAP_TAG; the reeve of `badRegisters` does not come
to its fetch, since its register file holds an uncorrectable error, which it meets first. -/
theorem not_stepRunsDecoded : ¬ Obligations.StepRunsDecoded := by
  intro h
  obtain ⟨hgo, -⟩ := h badRegisters
  obtain ⟨-, hfault, -⟩ := hgo rfl rfl rfl rfl rfl
  have hs := congrArg causeAfter (hfault _ (fetch_untagged rfl))
  rw [causeAfter_badRegisters] at hs
  exact absurd hs (by decide)

end Sys2Proof.Machine
end

section
/-! SUPPORT. O52: fence entries, run control and register writes (R135, R198, R200, R406, R408). -/

namespace Sys2Proof.Machine

/-! ### Fence entries (R198) -/

/-- Whether a write of a fence entry finds its partition, or the one that it replaces, in use (log 46). -/
def fenceBusy (s : State) (k : Nat) (e : FenceEntry) : Bool :=
  (e.valid && vfBusy s e.vf) || match mget s.fences k with
    | some o => o.valid && vfBusy s o.vf
    | none => false

/-- Whether a fence entry would overlap another (R198). -/
def fenceClash (s : State) (die k : Nat) (e : FenceEntry) : Bool :=
  e.valid && s.fences.any fun x => x.1 != k && x.2.valid && !(x.2.dies && x.2 == e) &&
    (partHamlets (x.1 / 16, x.2)).any (partHamlets (die, e)).contains

theorem execFenceEntryWrite_eq (s : State) (die idx : Nat) (e : FenceEntry) : exec (.fenceEntryWrite die idx e) s = .next (
    if 8 ≤ die || 16 ≤ idx || fenceBusy s (16 * die + idx) e then s
    else if fenceClash s die (16 * die + idx) e then { s with fenceErr := sadd s.fenceErr die }
    else { s with fences := mset s.fences (16 * die + idx) e }) := rfl

theorem execFenceEntryWrite_open {s : State} {die idx : Nat} {e : FenceEntry} (hd : die < 8) (hi : idx < 16)
    (hb : fenceBusy s (16 * die + idx) e = false) : exec (.fenceEntryWrite die idx e) s = .next (
      if fenceClash s die (16 * die + idx) e then { s with fenceErr := sadd s.fenceErr die }
      else { s with fences := mset s.fences (16 * die + idx) e }) := by
  rw [execFenceEntryWrite_eq, if_neg]
  simp [hb]
  omega

theorem execFenceEntryWrite_busy {s : State} {die idx : Nat} {e : FenceEntry} (hb : fenceBusy s (16 * die + idx) e = true) :
    exec (.fenceEntryWrite die idx e) s = .next s := by
  rw [execFenceEntryWrite_eq, hb, Bool.or_true, if_pos rfl]

theorem fenceBusy_eq_false {s : State} {k : Nat} {e : FenceEntry} (he : (e.valid && vfBusy s e.vf) = false)
    (ho : ∀ o, mget s.fences k = some o → (o.valid && vfBusy s o.vf) = false) : fenceBusy s k e = false := by
  unfold fenceBusy
  rw [he]
  cases hk : mget s.fences k with
  | none => rfl
  | some o => exact ho o hk

/-! ### Allotments of slices (R200) -/

/-- The state after a byte of an allotment has been put in its place. -/
def putAllot (s : State) (c pos sl : Nat) : State :=
  let l := mgetD s.allot c []
  { s with allot := mset s.allot c (lset (l ++ List.replicate (pos + 1 - l.length) 0xFF) pos sl) }

theorem allotWrite_eq (s : State) (c pos : Nat) (v : W64) : allotWrite s c pos v =
    if 160 ≤ pos ∨ (160 ≤ v.toNat % 256 ∧ v.toNat % 256 ≠ 255) then s
    else if v.toNat % 256 = 255 then putAllot s c pos (v.toNat % 256)
    else match mget s.sliceOwner (v.toNat % 256) with
      | some d => if d = c then putAllot s c pos (v.toNat % 256) else
          { putAllot s c pos (v.toNat % 256) with sliceClear := mset s.sliceClear (v.toNat % 256) (c, s.cycle) }
      | none => { putAllot s c pos (v.toNat % 256) with sliceOwner := mset s.sliceOwner (v.toNat % 256) c } := by
  have hv : natField v.toNat 0 8 = v.toNat % 256 := rfl
  unfold allotWrite
  rw [hv]
  simp only [Bool.or_eq_true, Bool.and_eq_true, decide_eq_true_eq, bne_iff_ne]
  rfl

/-! ### Registers -/

theorem execRegisterWrite_allot {s : State} {c : Nat} (hc : c < 1024) (pos : Nat) (v : W64) :
    exec (.registerWrite (.allot c pos) v) s = .next (allotWrite s c pos v) := congrArg Host.Outcome.next (if_pos hc)

/-- A mask of a vector that is set (R406). -/
theorem maskMsix_on (s : State) (f vec : Nat) :
    maskMsix s f vec true = s.setVf f { s.vfOf f with vmask := sadd (s.vfOf f).vmask vec } := rfl

/-- A vector that is unmasked while it does not pend. -/
theorem maskMsix_off {s : State} {f vec : Nat} (h : (s.vfOf f).msix.contains vec = false) :
    maskMsix s f vec false = s.setVf f { s.vfOf f with vmask := sdel (s.vfOf f).vmask vec } := by
  unfold maskMsix
  dsimp only
  rw [h]
  rfl

/-- A vector that is unmasked while it pends is sent. -/
theorem maskMsix_sends {s : State} {f vec : Nat} (h : (s.vfOf f).msix.contains vec = true) :
    maskMsix s f vec false = s.setVf f { s.vfOf f with
      vmask := sdel (s.vfOf f).vmask vec, msix := sdel (s.vfOf f).msix vec
      vsent := mset (s.vfOf f).vsent vec (mgetD (s.vfOf f).vsent vec 0 + 1) } := by
  unfold maskMsix
  dsimp only
  rw [h]
  rfl

theorem execRegisterWrite_msix {s : State} {f vec : Nat} (hf : f < 512) (hv : vec < 4) (v : W64) :
    exec (.registerWrite (.msix f vec) v) s = .next (maskMsix s f vec (v.getLsbD 0)) :=
  congrArg Host.Outcome.next (if_pos (by simp [hf, hv]))

theorem execRegisterWrite_domain {s : State} {p f : Nat} (hp : p < 384) (hf : f < 512) (v : W64) :
    exec (.registerWrite (.domain p f) v) s = .next { s with
      domain := if v.toNat % 1024 = 0x3FF then mdel s.domain (512 * p + f) else mset s.domain (512 * p + f) (v.toNat % 1024) } :=
  congrArg Host.Outcome.next (if_neg (by simp; omega))

theorem execRegisterWrite_pkg (s : State) (v : W64) : exec (.registerWrite .pkg v) s =
    .next (if v.toNat < 384 && s.ready.isEmpty then { s with pkg := v.toNat } else s) := rfl

/-- Settles O52: each write goes to the register that it names. -/
theorem controlWrites : Obligations.ControlWrites := by
  intro s die idx e h n v goes k used clash stopped
  refine ⟨fun hd hi hu ho => ?_, fun hu => ?_, fun hh => ?_, fun hh => ?_, fun hn => ?_, fun hn => ?_, fun hn => ?_,
    fun hn => ?_, fun hn => ?_, fun hn => ?_, fun hn => ?_, fun hv hr => ?_, fun hv => ?_, fun hn hh => ?_,
    fun hh hn hv => ?_, fun hh hn hv => ?_, fun hh => ?_, rfl, rfl⟩
  · have hx := execFenceEntryWrite_open hd hi (fenceBusy_eq_false hu ho)
    exact ⟨fun hc => hx.trans (congrArg _ (if_neg (Bool.eq_false_iff.mp hc))), fun hc => hx.trans (congrArg _ (if_pos hc))⟩
  · exact execFenceEntryWrite_busy (Bool.or_eq_true_iff.mpr (.inl hu))
  · exact congrArg Host.Outcome.next (if_pos hh)
  · exact congrArg Host.Outcome.next (if_pos hh)
  · exact congrArg Host.Outcome.next (if_pos hn)
  · exact congrArg Host.Outcome.next (if_pos hn)
  · exact congrArg Host.Outcome.next (if_pos hn)
  · exact congrArg Host.Outcome.next (if_pos hn)
  · exact congrArg Host.Outcome.next (if_pos hn)
  · exact congrArg Host.Outcome.next (if_pos hn)
  · intro l x put
    have ha (hlt : h < 160) (hx : x < 160 ∨ x = 255) := (allotWrite_eq s n h v).trans (if_neg (by omega))
    refine ⟨fun hd => ?_, fun hlt hx => ?_, fun hlt hx => ⟨fun ho => ?_, fun ho => ?_, fun c ho hc => ?_⟩⟩
    · exact (execRegisterWrite_allot hn h v).trans (congrArg _ ((allotWrite_eq s n h v).trans (if_pos hd)))
    · exact (execRegisterWrite_allot hn h v).trans (congrArg _ ((ha hlt (.inr hx)).trans (if_pos hx)))
    all_goals
      refine (execRegisterWrite_allot hn h v).trans (congrArg _ ((ha hlt (.inl hx)).trans ((if_neg (by omega)).trans ?_)))
      rw [show mget s.sliceOwner (v.toNat % 256) = _ from ho]
    · rfl
    · exact if_pos rfl
    · exact if_neg hc
  · exact (execRegisterWrite_pkg s v).trans (congrArg _ (if_pos (by simp [hv, hr])))
  · refine (execRegisterWrite_pkg s v).trans (congrArg _ (if_neg fun hc => ?_))
    obtain ⟨hlt, he⟩ := Bool.and_eq_true_iff.mp hc
    rcases hv with hv | hv
    · exact absurd (of_decide_eq_true hlt) (by omega)
    · exact hv (List.isEmpty_iff.mp he)
  · intro f
    have hx := execRegisterWrite_msix (s := s) hn hh v
    refine ⟨fun hv => ?_, fun hv hm => ?_, fun hv hm => ?_⟩
    · exact hx.trans (by rw [hv, maskMsix_on])
    · exact hx.trans (by rw [hv, maskMsix_off hm])
    · exact hx.trans (by rw [hv, maskMsix_sends hm])
  · exact (execRegisterWrite_domain hh hn v).trans (by rw [if_pos hv])
  · exact (execRegisterWrite_domain hh hn v).trans (by rw [if_neg hv])
  · exact congrArg Host.Outcome.next (if_pos hh)

end Sys2Proof.Machine
end

section
/-! SUPPORT. O40: walks, invalidations, the host, peers and ports (R131 to R152, R173, R174, R407 to R409). -/

namespace Sys2Proof.Machine

/-! ### Tables -/

theorem mget_map_snd {α β : Type} (f : α → β) (m : SMap α) (i : Nat) :
    mget (m.map fun x => (x.1, f x.2)) i = (mget m i).map f := by
  induction m with
  | nil => rfl
  | cons x m ih =>
    rw [List.map_cons, mget, mget, ih]
    split <;> rfl

/-- What holds of every entry and of the default holds of what a key finds. -/
theorem forall_mgetD {α : Type} {p : α → Prop} {m : SMap α} {d : α} (hm : ∀ x ∈ m, p x.2) (hd : p d) (i : Nat) :
    p (mgetD m i d) := by
  unfold mgetD
  cases h : mget m i with
  | none => exact hd
  | some x => exact hm _ (mget_mem h)

/-! ### Walks (R150) -/

theorem corrects_correctWalk (s : State) (ctx vf va need : Nat) : Corrects s (correctWalk s ctx vf va need) := by
  unfold correctWalk
  generalize (walkBoth s ctx vf va need).1 = l
  induction l generalizing s with
  | nil => exact .refl s
  | cons a l ih => exact ((corrects_correctSoft ..).trans (corrects_countRead ..)).trans (ih _)

theorem Corrects.tlbP {s t : State} (h : Corrects s t) : t.tlbP = s.tlbP := by
  obtain ⟨e, v, rfl⟩ := h
  rfl

/-- A mapping that reaches hamlets goes into their caches only. -/
theorem fillHamlets_kept (s : State) (e : TlbEntry) (ws : List Who) : (fillHamlets s e ws).walks = s.walks ∧
    (fillHamlets s e ws).walkGifts = s.walkGifts ∧ (fillHamlets s e ws).tlbP = s.tlbP := by
  induction ws generalizing s with
  | nil => exact ⟨rfl, rfl, rfl⟩
  | cons w ws ih =>
    rw [show fillHamlets s e (w :: ws) = fillHamlets (match whoHam s w with
      | some h => { s with tlbH := mset s.tlbH h (tlbAdd (mgetD s.tlbH h []) e) }
      | none => s) e ws from rfl]
    split
    · exact ih _
    · exact ih s

theorem bne_eq_not_decide (a b : Nat) : (a != b) = decide (a ≠ b) := by
  by_cases h : a = b
  · simp [h]
  · simp [h]

/-- The result of a walk (R150): what its waiters, the parish's cache and the list of walks get. -/
theorem exec_walkComplete {s : State} {id : Nat} {w : Walk} (hw : s.walks.find? (fun w => w.id == id && w.running) = some w) :
    ∃ t, exec (.walkComplete id) s = .next t ∧ t.walks = s.walks.filter (·.id ≠ id) ∧
      t.walkGifts = s.walkGifts ++ w.waiters.map (fun who =>
        { who := who, va := w.va, ctx := w.ctx, need := w.need, res := walk s w.ctx w.vf w.va w.need }) ∧
      t.tlbP = (match walk s w.ctx w.vf w.va w.need with
        | .ok m => mset s.tlbP w.parish (tlbAddP (mgetD s.tlbP w.parish []) m)
        | .fault _ => s.tlbP) := by
  refine ⟨_, rfl, ?_⟩
  rw [hw]
  dsimp only
  have hp := (corrects_correctWalk s w.ctx w.vf w.va w.need).tlbP
  generalize correctWalk s w.ctx w.vf w.va w.need = c at hp ⊢
  generalize walk s w.ctx w.vf w.va w.need = res
  simp only [bne_eq_not_decide]
  cases res with
  | ok m =>
    dsimp only
    rw [← hp]
    exact fillHamlets_kept _ m w.waiters
  | fault f => exact ⟨rfl, rfl, hp⟩

/-! ### Invalidations (R152) -/

theorem flushFor_resting {s : State} (h : ∀ r ∈ s.reeves, r.2.comb = []) (e : InvEntry) (hs : List Nat) :
    flushFor e hs s = .ok s := by
  induction hs with
  | nil => rfl
  | cons i hs ih =>
    have hc : (s.reeve i).comb = [] := forall_mgetD (p := fun r : Reeve => r.comb = []) h rfl i
    have hf : flushComb s i (fun c => c.space != 5 || c.mapped) = .ok s := by
      unfold flushComb
      dsimp only
      rw [hc]
      rfl
    unfold flushFor
    rw [hf]
    dsimp only
    split <;> exact ih

theorem restartWalks_eq (s : State) (e : InvEntry) : ∃ v, restartWalks s e = { s with vfs := v } := by
  unfold restartWalks
  generalize s.walks.filter _ = l
  induction l generalizing s with
  | nil => exact ⟨s.vfs, rfl⟩
  | cons w l ih =>
    rw [List.foldl_cons]
    obtain ⟨v, h⟩ := count_eq s w.vf 0x050 1
    rw [h]
    obtain ⟨v', h'⟩ := count_eq { s with vfs := v } w.vf 0x048 1
    rw [h']
    exact ih _

/-- What remains of a cache names no mapping of the invalidation. -/
theorem not_invNames_of_dropped {m : SMap (List TlbEntry)} {x : InvEntry} {h : Nat} {t : TlbEntry}
    (ht : t ∈ mgetD (m.map fun y => (y.1, y.2.filter fun t => !invNames x t.ctx t.vf (t.vpage <<< t.lg) t.lg)) h []) :
    invNames x t.ctx t.vf (t.vpage <<< t.lg) t.lg = false := by
  unfold mgetD at ht
  rw [mget_map_snd] at ht
  cases hm : mget m h with
  | none => rw [hm] at ht; cases ht
  | some l =>
    rw [hm] at ht
    simpa using (List.mem_filter.mp ht).2

/-- The bytes of a completion word (R152). -/
theorem byte_store_one (m : Mem) (a : Nat) {j : Nat} (hj : j < 8) :
    (m.store a (leBytes 8 1) false).byte (a + j) = if j = 0 then 1 else 0 := by
  rw [Mem.byte_store, Mem.byte_write_at _ _ _ _ (by rw [length_leBytes]; exact hj)]
  interval_cases j <;> rfl

theorem exec_invalidationComplete {s : State} {x : InvEntry} {rest : List InvEntry} (hq : s.invq = x :: rest)
    (hc : ∀ r ∈ s.reeves, r.2.comb = []) : exec .invalidationComplete s = .next (
      if (s.windows.any fun w => w.2.any fun u => invOwner x u.ctx u.vf) ||
          s.peerOut.any (fun p => p.mapped && invOwner x p.ctx p.vf) then s
      else
        let t := restartWalks (dropCaches { s with invq := rest } x) x
        if populated x.word then { t with mem := t.mem.store x.word (leBytes 8 1) false } else t) := by
  show execInvalidationComplete s = _
  unfold execInvalidationComplete
  rw [hq]
  dsimp only
  rw [flushFor_resting hc]

theorem exec_invalidationComplete_done {s : State} {x : InvEntry} {rest : List InvEntry} (hq : s.invq = x :: rest)
    (hc : ∀ r ∈ s.reeves, r.2.comb = []) (hp : ((s.windows.any fun w => w.2.any fun u => invOwner x u.ctx u.vf) ||
      s.peerOut.any (fun p => p.mapped && invOwner x p.ctx p.vf)) = false) :
    ∃ t, exec .invalidationComplete s = .next t ∧ t.invq = rest ∧
      (∀ h m, m ∈ mgetD t.tlbH h [] → invNames x m.ctx m.vf (m.vpage <<< m.lg) m.lg = false) ∧
      (∀ h m, m ∈ mgetD t.tlbP h [] → invNames x m.ctx m.vf (m.vpage <<< m.lg) m.lg = false) ∧
      (populated x.word = true → ∀ j, j < 8 → t.mem.byte (x.word + j) = if j = 0 then 1 else 0) := by
  refine ⟨_, exec_invalidationComplete hq hc, ?_⟩
  rw [hp, if_neg (by decide)]
  obtain ⟨v, hr⟩ := restartWalks_eq (dropCaches { s with invq := rest } x) x
  rw [hr]
  dsimp only
  split
  · exact ⟨rfl, fun h m hm => not_invNames_of_dropped hm, fun h m hm => not_invNames_of_dropped hm,
      fun _ j hj => byte_store_one _ _ hj⟩
  · next hw =>
    exact ⟨rfl, fun h m hm => not_invNames_of_dropped hm, fun h m hm => not_invNames_of_dropped hm,
      fun h => absurd h hw⟩

/-! ### The host (R132, R136, R173) -/

theorem hostReaches_iff (s : State) (a : Nat) : hostReaches s a = true ↔ isHost a = true ∨
    (s.linkMode ≠ 0 ∧ (s.usable 10 = true ∨ ((a / 2 ^ 48 = 14 ∨ 2 ^ 52 ≤ a) ∧ (s.steward.failed = true ∨ s.boot ≠ 0)))) := by
  simp [hostReaches, isMmio, Nat.shiftRight_eq_div_pow]

/-- A write of one byte is the write of one piece. -/
theorem exec_hostMemWrite_byte {s t : State} {a : Nat} {b : Byte} (h : hostPut s a [b] = .ok t) :
    exec (.hostMemWrite a [b]) s = .next t := by
  obtain ⟨k, hk⟩ : ∃ k, 8 - a % 8 = k + 1 := ⟨7 - a % 8, by omega⟩
  have hp : hostPuts 2 a [b] s = .ok t := by
    unfold hostPuts
    dsimp only
    rw [hk, List.take_succ_cons, List.take_nil, List.drop_succ_cons, List.drop_nil, h]
    rfl
  have ho : outDo s (.put a [b]) = .ok t := hp
  show Host.Outcome.next (outArrive s (.put a [b])) = _
  unfold outArrive
  rw [ho]

/-- What a read of the host is answered (R136). -/
def hostAnswer : Option (List Byte) → PeerAns
  | some bs => .done bs
  | none => .poison

/-- A read of one byte is the read of one piece. -/
theorem exec_hostMemRead_byte {s t : State} {a : Nat} {x : Option (List Byte)} (h : hostGet s a 1 = .ok (x, t)) :
    exec (.hostMemRead a 1) s = .next { t with outside := hostAnswer x } := by
  obtain ⟨k, hk⟩ : ∃ k, 8 - a % 8 = k + 1 := ⟨7 - a % 8, by omega⟩
  have hg : hostGets 2 a 1 s = .ok (x, t) := by
    unfold hostGets
    rw [if_neg (by decide), hk, show Nat.min 1 (k + 1) = 1 from Nat.min_eq_left (Nat.le_add_left 1 k)]
    dsimp only
    rw [h]
    cases x with
    | none => rfl
    | some bs =>
      show Except.ok (some (bs ++ []), t) = _
      rw [List.append_nil]
  have ho : outDo s (.get a 1) = .ok { t with outside := hostAnswer x } := by
    unfold outDo
    dsimp only
    rw [hg]
    cases x <;> rfl
  show Host.Outcome.next (outArrive s (.get a 1)) = _
  unfold outArrive
  rw [ho]

theorem hostPut_unreached {s : State} {a : Nat} (bs : List Byte) (h : hostReaches s a = false) : hostPut s a bs = .ok s := by
  unfold hostPut
  rw [h]
  rfl

theorem hostPut_error {s : State} {a : Nat} {e : Stop} (bs : List Byte) (h : physLoc a a = .error e) :
    hostPut s a bs = .ok s := by
  unfold hostPut
  rw [h]
  exact ite_self _

theorem hostPut_phys {s : State} {a pa : Nat} (bs : List Byte) (hr : hostReaches s a = true)
    (h : physLoc a a = .ok (.phys pa)) : hostPut s a bs = .ok { s with mem := s.mem.store pa bs false } := by
  unfold hostPut
  rw [h, hr]
  rfl

theorem hostPut_mmio {s : State} {a o : Nat} (bs : List Byte) (hr : hostReaches s a = true)
    (h : physLoc a a = .ok (.mmio o)) : hostPut s a bs = storeLoc s (outsideAcx) (.mmio o) bs := by
  unfold hostPut
  rw [h, hr]
  rfl

theorem hostGet_unreached {s : State} {a n : Nat} (h : hostReaches s a = false) : hostGet s a n = .ok (none, s) := by
  unfold hostGet
  rw [h]
  rfl

theorem hostGet_error {s : State} {a n : Nat} {e : Stop} (ha : a < 2 ^ 52) (h : physLoc a a = .error e) :
    hostGet s a n = .ok (none, s) := by
  unfold hostGet
  rw [h, if_neg (Nat.not_le.mpr ha)]
  exact ite_self _

theorem hostGet_phys {s : State} {a n pa : Nat} (hr : hostReaches s a = true) (ha : a < 2 ^ 52)
    (h : physLoc a a = .ok (.phys pa)) :
    hostGet s a n = .ok (if s.mem.badAt pa n then (none, s) else (some (s.mem.read pa n), correctSoft s 512 pa n)) := by
  unfold hostGet
  rw [h, hr, if_neg (Nat.not_le.mpr ha)]
  rfl

theorem hostGet_mmio {s : State} {a n : Nat} (h : hostReaches s a = true) (ha : 2 ^ 52 ≤ a) :
    hostGet s a n = .ok (some (wordBytes (hostMmio s) a n), s) := by
  unfold hostGet
  rw [h, if_neg (by decide), if_pos ha]

theorem physLoc_unpopulated {a : Nat} (ea : Nat) (h : populated a = false) : physLoc a ea = raise .xlatePerm ea := by
  unfold physLoc
  rw [h]
  rfl

/-- No memory stands above the 52 bits of the device. -/
theorem physLoc_above {a : Nat} (h : 2 ^ 52 ≤ a) : ∃ e, physLoc a a = .error e := by
  obtain ⟨k, hk⟩ : ∃ k, a >>> 50 = k + 4 := ⟨a >>> 50 - 4, by rw [Nat.shiftRight_eq_div_pow]; omega⟩
  have hp : populated a = false := by
    unfold populated
    rw [hk]
    rfl
  exact ⟨_, physLoc_unpopulated a hp⟩

/-! ### The port-control words (R408) -/

theorem populated_mmio {o : Nat} (h : o < 2 ^ 48) : populated (14 * 2 ^ 48 + o) = decide (o < 0x580) := by
  have h50 : (14 * 2 ^ 48 + o) >>> 50 = 3 := by rw [Nat.shiftRight_eq_div_pow]; omega
  have h48 : natField (14 * 2 ^ 48 + o) 48 2 = 2 := by
    unfold natField
    rw [Nat.shiftRight_eq_div_pow]
    omega
  have h0 : natField (14 * 2 ^ 48 + o) 0 48 = o := by
    unfold natField
    rw [Nat.shiftRight_zero]
    omega
  unfold populated
  rw [h50, h48, h0]
  rfl

theorem physLoc_mmio {o : Nat} (h : o < 0x580) : physLoc (14 * 2 ^ 48 + o) (14 * 2 ^ 48 + o) = .ok (.mmio o) := by
  have h50 : (14 * 2 ^ 48 + o) >>> 50 = 3 := by rw [Nat.shiftRight_eq_div_pow]; omega
  have h48 : (14 * 2 ^ 48 + o) >>> 48 = 14 := by rw [Nat.shiftRight_eq_div_pow]; omega
  have h0 : natField (14 * 2 ^ 48 + o) 0 48 = o := by
    unfold natField
    rw [Nat.shiftRight_zero]
    omega
  unfold physLoc
  rw [populated_mmio (by omega), decide_eq_true h, h50, h48, h0]
  rfl

theorem storeLoc_mmio_byte (s : State) (x : Acx) (o : Nat) (b : Byte) :
    storeLoc s x (.mmio o) [b] = .ok (writeMmio s (o / 8 * 8) (mergeBytes 0 (o % 8) [b])) := by
  obtain ⟨k, hk⟩ : ∃ k, 8 - o % 8 = k + 1 := ⟨7 - o % 8, by omega⟩
  unfold storeLoc byWords
  dsimp only
  rw [hk, List.take_succ_cons, List.take_nil, List.drop_succ_cons, List.drop_nil]
  rfl

/-- Bit 0 of a doubleword into which a byte is put: that of the byte at its place, else 0. -/
theorem mergeBytes_byte_bit (k : Nat) (b : Byte) : (mergeBytes 0 k [b]).getLsbD 0 = if k = 0 then b.getLsbD 0 else false := by
  have hv : setField 0 (8 * k) 8 (b.toNat + 256 * 0) = b.toNat * 2 ^ (8 * k) := by
    unfold setField natField
    rw [Nat.zero_shiftRight, Nat.zero_mod, Nat.zero_shiftLeft, Nat.shiftLeft_eq, Nat.mul_zero, Nat.add_zero,
      Nat.mod_eq_of_lt b.isLt, Nat.zero_sub, Nat.zero_add]
  unfold mergeBytes
  show (BitVec.ofNat 64 (setField 0 (8 * k) 8 (b.toNat + 256 * 0))).getLsbD 0 = _
  rw [hv, BitVec.getLsbD_ofNat]
  split
  · next h =>
    subst h
    simp [BitVec.getLsbD]
  · next h =>
    obtain ⟨j, rfl⟩ : ∃ j, k = j + 1 := ⟨k - 1, by omega⟩
    have he : (b.toNat * 2 ^ (8 * (j + 1))) % 2 = 0 := by
      rw [show b.toNat * 2 ^ (8 * (j + 1)) = 2 * (b.toNat * (128 * 2 ^ (8 * j))) by ring]
      exact Nat.mul_mod_right ..
    simp [Nat.testBit_zero, he]

theorem writeMmio_port {s : State} {p : Nat} (hp : p < 48) (v : W64) : writeMmio s (0x400 + 8 * p) v =
    if v.getLsbD 0 then s.setPort p { s.port p with training := true } else s := by
  have hi : (0x400 + 8 * p) / 8 = 0x80 + p := by omega
  have hr : (decide (0x80 ≤ 0x80 + p) && decide (0x80 + p < 0xB0)) = true := by
    simp only [Bool.and_eq_true, decide_eq_true_eq]
    omega
  unfold writeMmio
  dsimp only
  rw [hi, hr, Bool.true_and, Nat.add_sub_cancel_left]
  rfl

theorem writeMmio_low {s : State} {o : Nat} (h : o < 0x400) (v : W64) : writeMmio s (o / 8 * 8) v = s := by
  have hi : ¬ 0x80 ≤ o / 8 * 8 / 8 := by omega
  unfold writeMmio
  dsimp only
  rw [decide_eq_false hi]
  rfl

theorem writeMmio_even {s : State} {o : Nat} {v : W64} (h : v.getLsbD 0 = false) : writeMmio s o v = s := by
  unfold writeMmio
  dsimp only
  rw [h, Bool.and_false]
  rfl

/-- A byte that the host writes where no port-control word has its bit 0. -/
theorem hostPut_mmio_other {s : State} {o : Nat} (b : Byte) (hr : hostReaches s (14 * 2 ^ 48 + o) = true) (ho : o < 2 ^ 48)
    (h : o < 0x400 ∨ 0x580 ≤ o ∨ o % 8 ≠ 0) : hostPut s (14 * 2 ^ 48 + o) [b] = .ok s := by
  by_cases h5 : o < 0x580
  · rw [hostPut_mmio _ hr (physLoc_mmio h5), storeLoc_mmio_byte]
    by_cases h4 : o < 0x400
    · rw [writeMmio_low h4]
    · rw [writeMmio_even]
      rw [mergeBytes_byte_bit, if_neg (by omega)]
  · exact hostPut_error _ (physLoc_unpopulated _ ((populated_mmio ho).trans (decide_eq_false h5)))

theorem hostPut_port {s : State} {p : Nat} (b : Byte) (hr : hostReaches s (14 * 2 ^ 48 + (0x400 + 8 * p)) = true) (hp : p < 48) :
    hostPut s (14 * 2 ^ 48 + (0x400 + 8 * p)) [b] =
      .ok (if b.getLsbD 0 then s.setPort p { s.port p with training := true } else s) := by
  have h8 : (0x400 + 8 * p) / 8 * 8 = 0x400 + 8 * p := by omega
  have h0 : (0x400 + 8 * p) % 8 = 0 := by omega
  rw [hostPut_mmio _ hr (physLoc_mmio (by omega)), storeLoc_mmio_byte, h8, h0, writeMmio_port hp, mergeBytes_byte_bit, if_pos rfl]

/-! ### Ports (R407, R408) -/

/-- What the end of an outstanding access leaves of the ports, and takes from the list. -/
theorem answerPeer_down (s : State) (p : PeerReq) (ans : PeerAns) : (answerPeer s p ans true).eztons = s.eztons ∧
    (answerPeer s p ans true).ready = s.ready ∧ (answerPeer s p ans true).peerOut = s.peerOut.filter (·.id != p.id) := by
  unfold answerPeer leftFault recordPoison
  dsimp only
  split
  · exact ⟨rfl, rfl, rfl⟩
  · rw [if_pos rfl]
    simp only [recordFault_eztons, recordFault_ready, recordFault_peerOut]
    split
    · exact ⟨rfl, rfl, rfl⟩
    · split <;> exact ⟨rfl, rfl, rfl⟩

theorem foldl_answerPeer_down (ans : PeerAns) (l : List PeerReq) (s : State) :
    (l.foldl (fun s p => answerPeer s p ans true) s).eztons = s.eztons ∧
      (l.foldl (fun s p => answerPeer s p ans true) s).ready = s.ready ∧
      ∀ r ∈ (l.foldl (fun s p => answerPeer s p ans true) s).peerOut, r ∈ s.peerOut ∧ r ∉ l := by
  induction l generalizing s with
  | nil => exact ⟨rfl, rfl, fun r h => ⟨h, List.not_mem_nil⟩⟩
  | cons p l ih =>
    obtain ⟨he, hr, ho⟩ := answerPeer_down s p ans
    obtain ⟨ie, ir, io⟩ := ih (answerPeer s p ans true)
    refine ⟨ie.trans he, ir.trans hr, fun r h => ?_⟩
    obtain ⟨hm, hn⟩ := io r h
    rw [ho] at hm
    obtain ⟨hm, hi⟩ := List.mem_filter.mp hm
    refine ⟨hm, fun hl => ?_⟩
    rcases List.mem_cons.mp hl with rfl | hl
    · simp at hi
    · exact hn hl

theorem State.port_setPort (s : State) (p : Nat) (x : Port) : (s.setPort p x).port p = x := by
  unfold State.port State.setPort
  rw [mget_mset_self]
  rfl

theorem State.port_of_eztons {s t : State} (h : t.eztons = s.eztons) (p : Nat) : t.port p = s.port p := by
  unfold State.port
  rw [h]

/-- A port that has just gone down, its accesses still outstanding. -/
def portShut (s : State) (port : Nat) : State :=
  { s.setPort port { s.port port with up := false, retries := 0 } with ready := sdel s.ready (896 + port) }

theorem exec_portDown_eq {s : State} {port : Nat} (hp : port < 48) (hu : (s.port port).up = true)
    (hr : 8 ≤ (s.port port).retries) : exec (.portDown port) s = .next (((portShut s port).peerOut.filter (·.port == port)).foldl
      (fun s p => answerPeer s p .poison true) (portShut s port)) :=
  congrArg Host.Outcome.next (if_pos (by simp [hp, hu, hr]))

/-- A port that goes down (R407). -/
theorem exec_portDown {s : State} {port : Nat} (hp : port < 48) (hu : (s.port port).up = true) (hr : 8 ≤ (s.port port).retries) :
    ∃ t, exec (.portDown port) s = .next t ∧ (t.port port).up = false ∧ (t.port port).retries = 0 ∧
      896 + port ∉ t.ready ∧ ∀ r ∈ t.peerOut, r.port ≠ port := by
  refine ⟨_, exec_portDown_eq hp hu hr, ?_⟩
  have hx : (portShut s port).port port = { s.port port with up := false, retries := 0 } := State.port_setPort ..
  have hd : 896 + port ∉ (portShut s port).ready := fun h => (mem_sdel.mp h).1 rfl
  generalize portShut s port = w at hx hd ⊢
  obtain ⟨he, hr, ho⟩ := foldl_answerPeer_down .poison (w.peerOut.filter (·.port == port)) w
  rw [State.port_of_eztons he, hr, hx]
  refine ⟨rfl, rfl, hd, fun r h hq => ?_⟩
  obtain ⟨hm, hn⟩ := ho r h
  exact hn (List.mem_filter.mpr ⟨hm, beq_iff_eq.mpr hq⟩)

/-! ### Peers (R131, R174, R409) -/

theorem portOpen_iff (s : State) (p : Nat) : portOpen s p = true ↔
    (s.port p).up = true ∧ (s.usable (896 + p) = true ∨ s.steward.failed = true) := by
  unfold portOpen State.port mgetD
  rw [Bool.and_eq_true, Bool.or_eq_true]

theorem exec_peerAccess_shut {s : State} {src : Nat} (vf a : Nat) (op : PeerOp)
    (h : ¬ ((s.usable 11 = true ∨ s.steward.failed = true) ∧ portOpen s (src % 48) = true)) :
    exec (.peerAccess src vf a op) s = .next s := by
  rw [← Bool.or_eq_true, ← Bool.and_eq_true] at h
  exact congrArg Host.Outcome.next (if_neg h)

theorem exec_peerAccess {s t : State} {src vf a : Nat} {op : PeerOp}
    (h : (s.usable 11 = true ∨ s.steward.failed = true) ∧ portOpen s (src % 48) = true)
    (ht : peerServe src vf a op s = .ok t) : exec (.peerAccess src vf a op) s = .next t := by
  rw [← Bool.or_eq_true, ← Bool.and_eq_true] at h
  refine congrArg Host.Outcome.next ((if_pos h).trans ?_)
  have ho : outDo s (.peer src vf a op) = .ok t := ht
  unfold outArrive
  rw [ho]

theorem peerServe_phys {s t : State} {src vf a v pa : Nat} {op : PeerOp} {bs : List Byte} {w : Nat × Nat × Nat}
    (hv : mget s.domain (src * 512 + vf) = some v) (hw : stage2 s v (a % 2 ^ 41) (peerNeed op) = .ok w)
    (hp : physLoc w.1 a = .ok (.phys pa)) (hd : peerDo s (outsideAcx v) (.phys pa) op = .ok (bs, t)) :
    peerServe src vf a op s = .ok { t with outside := .done bs } := by
  have hf : natField a 0 41 = a % 2 ^ 41 := rfl
  obtain ⟨w1, w2, w3⟩ := w
  unfold peerServe
  rw [hv]
  dsimp only
  rw [hf, hw]
  dsimp only at hp ⊢
  rw [hp]
  dsimp only
  rw [hd]

theorem peerServe_refused {s : State} {src vf a v : Nat} {op : PeerOp} {c : Trap}
    (hv : mget s.domain (src * 512 + vf) = some v) (hw : stage2 s v (a % 2 ^ 41) (peerNeed op) = .error c) :
    peerServe src vf a op s = .ok { s with outside := .refused } := by
  have hf : natField a 0 41 = a % 2 ^ 41 := rfl
  unfold peerServe
  rw [hv]
  dsimp only
  rw [hf, hw]

theorem peerServe_outside {s : State} {src vf : Nat} (a : Nat) (op : PeerOp) (hv : mget s.domain (src * 512 + vf) = none) :
    peerServe src vf a op s = .ok { s with outside := .refused } := by
  unfold peerServe
  rw [hv]

/-! ### O40 -/

/-- Whether a shire has a walker that the next request may take (R150, R411). -/
theorem exec_walkerGrant_eq (s : State) (shire : Nat) : exec (.walkerGrant shire) s = .next (
    if (s.walks.filter fun w => w.running && parishShire w.parish == shire).length ≥ 32
        || !(s.usable (64 + shire) || s.steward.failed) then s
    else match (rotation s shire).findSome? fun p => s.walks.find? fun w => !w.running && w.parish == p with
      | none => s
      | some w => ({ s with
          walks := s.walks.map fun v => if v.id = w.id then { v with running := true } else v
          walkRot := mset s.walkRot shire (w.parish % 5) } : State).count w.vf 0x048) := rfl

theorem exec_peerReply_eq {s : State} {n : Nat} {r : PeerReq} (h : s.peerOut.find? (·.id == n) = some r) (ans : PeerAns) :
    exec (.peerReply n ans) s = .next (if !portOpen s r.port || !isOldest s r then s
      else answerPeer (s.setPort r.port { s.port r.port with retries := 0 }) r ans false) := by
  show execPeerReply n ans s = _
  unfold execPeerReply
  rw [h]

theorem exec_portTrainingDone_eq {s : State} {port : Nat} (hp : port < 48) (ht : (s.port port).training = true) (ok : Bool) :
    exec (.portTrainingDone port ok) s = .next (if ok then
        let s := s.setPort port { up := true }
        if s.steward.failed || firstStageDown s then s else s.setReady (896 + port)
      else { s.setPort port { s.port port with training := false, fail := true, up := false } with
        ready := sdel s.ready (896 + port) }) :=
  congrArg Host.Outcome.next (if_neg (by simp [hp, ht]))

/-- Settles O40: each event by the equation of its function; the caches that an invalidation has filtered name no mapping
of it, and the answers of a port that goes down take every access on it from the list. -/
theorem walksAndOutside : Obligations.WalksAndOutside := by
  refine ⟨fun s shire id e => ?_, fun s a n port bs b src vf op ans ok => ?_⟩
  · intro goes busy next up
    refine ⟨fun h => ?_, fun hb hu w hw => ?_, fun w hw => exec_walkComplete hw, fun hl hk => ?_, fun v hk hv => ?_,
      fun hl => ?_, fun x rest hq hc => ⟨fun hp => ?_, fun hp => exec_invalidationComplete_done hq hc hp⟩⟩
    · refine (exec_walkerGrant_eq s shire).trans (congrArg Host.Outcome.next ?_)
      split
      · rfl
      · next hn =>
        have hx : next = none := by
          rcases h with h | h | h
          · simp [busy] at h hn
            omega
          · simp [up] at h hn
            exact absurd (hn.2 h.1) (by simp [h.2])
          · exact h
        simp only [next] at hx
        rw [hx]
    · refine (exec_walkerGrant_eq s shire).trans (congrArg Host.Outcome.next ?_)
      have hu : (s.usable (64 + shire) || s.steward.failed) = true := Bool.or_eq_true_iff.mpr hu
      rw [hu, if_neg (by simpa using hb)]
      simp only [next] at hw
      rw [hw]
    · exact congrArg Host.Outcome.next (if_pos (by simp [hl, hk]))
    · unfold rootsFor
      rw [hk]
      simp [takeRoots, hv]
    · exact congrArg Host.Outcome.next (if_neg (by simp [Nat.not_lt.mpr hl]))
    · exact (exec_invalidationComplete hq hc).trans (congrArg Host.Outcome.next (if_pos hp))
  · intro goes x answers mmio reaches carries
    have hreach : reaches ↔ hostReaches s a = true := (hostReaches_iff s a).symm
    have hcarry (p : Nat) : carries p ↔ portOpen s p = true := (portOpen_iff s p).symm
    refine ⟨fun h => ?_, fun pa hr ha hp => ⟨?_, fun hb => ?_, fun hb => ?_⟩, fun hr ha => ?_, fun o hr ha hp => ⟨?_, ?_⟩,
      fun hr ha => ?_, fun o hr ha ho => ⟨fun p hp h => ?_, fun h => ?_⟩, ?_⟩
    · have hn : hostReaches s a = false := by rw [← Bool.not_eq_true, ← hreach]; exact h
      exact ⟨exec_hostMemWrite_byte (hostPut_unreached _ hn), exec_hostMemRead_byte (hostGet_unreached hn)⟩
    · exact exec_hostMemWrite_byte (hostPut_phys _ (hreach.mp hr) hp)
    · exact exec_hostMemRead_byte ((hostGet_phys (hreach.mp hr) ha hp).trans (by rw [hb]))
    · exact exec_hostMemRead_byte ((hostGet_phys (hreach.mp hr) ha hp).trans (by rw [hb]))
    · exact exec_hostMemRead_byte (hostGet_mmio (hreach.mp hr) ha)
    · exact exec_hostMemWrite_byte (hostPut_error _ hp)
    · exact exec_hostMemRead_byte (hostGet_error ha hp)
    · obtain ⟨o, ho⟩ := physLoc_above ha
      exact exec_hostMemWrite_byte (hostPut_error _ ho)
    · subst ha
      subst h
      exact exec_hostMemWrite_byte (hostPut_port b (hreach.mp hr) hp)
    · subst ha
      exact exec_hostMemWrite_byte (hostPut_mmio_other b (hreach.mp hr) ho h)
    · intro served
      have hserved : served ↔ (s.usable 11 = true ∨ s.steward.failed = true) ∧ portOpen s (src % 48) = true :=
        and_congr_right fun _ => hcarry _
      refine ⟨fun h => exec_peerAccess_shut vf a op (hserved.not.mp h),
        fun h hv => exec_peerAccess (hserved.mp h) (peerServe_outside a op hv),
        fun h v hv => ⟨fun c hc => exec_peerAccess (hserved.mp h) (peerServe_refused hv hc),
          fun w hw pa hp => ⟨fun ho hb => ?_, fun ho => ?_⟩⟩, fun r hr => ⟨fun h => ?_, fun h1 h2 => ?_⟩,
        fun hp hu hr => ?_, fun hp hu hr => exec_portDown hp hu hr, fun hu hr => ?_, fun hp => ?_, fun hp ht hk => ?_,
        fun hp ht hk => ?_⟩
      · subst ho
        obtain ⟨u, hc, hl⟩ := loadPhys_good v hb
        refine ⟨_, exec_peerAccess (hserved.mp h) (peerServe_phys hv hw hp hl), rfl, ?_⟩
        obtain ⟨e, f, rfl⟩ := hc
        exact ⟨fun _ => rfl, rfl⟩
      · subst ho
        exact exec_peerAccess (hserved.mp h) (peerServe_phys hv hw hp rfl)
      · rw [hcarry, Bool.not_eq_true] at h
        refine (exec_peerReply_eq hr ans).trans (congrArg Host.Outcome.next (if_pos ?_))
        rcases h with h | h <;> simp [h]
      · rw [hcarry] at h1
        exact (exec_peerReply_eq hr ans).trans (congrArg Host.Outcome.next (if_neg (by simp [h1, h2])))
      · exact congrArg Host.Outcome.next (if_pos (by simp only [Bool.and_eq_true, decide_eq_true_eq]; exact ⟨⟨hp, hu⟩, hr⟩))
      · exact congrArg Host.Outcome.next (if_neg (by simp [Nat.not_le.mpr hr, x]))
      · exact congrArg Host.Outcome.next (if_pos hp)
      · subst hk
        refine ⟨fun hf hd => ?_, fun h => ?_⟩
        · have hn : (s.steward.failed || firstStageDown s) = false := by rw [hf, hd]; rfl
          exact (exec_portTrainingDone_eq hp ht true).trans (congrArg Host.Outcome.next (if_neg (Bool.eq_false_iff.mp hn)))
        · have hn : (s.steward.failed || firstStageDown s) = true := Bool.or_eq_true_iff.mpr h
          exact (exec_portTrainingDone_eq hp ht true).trans (congrArg Host.Outcome.next (if_pos hn))
      · subst hk
        exact exec_portTrainingDone_eq hp ht false

end Sys2Proof.Machine
end

section
/-! SUPPORT. O39: streams, copies, sparse updates and hand-over clears (R140, R170, R257 to R264, R267). -/

namespace Sys2Proof.Machine

/-! ### Streams (R257 to R263) -/

section
variable {s : State} {h p : Nat} {x : Stream} {n : NodeRef}

/-- A stream that moves does what its direction says. -/
theorem exec_streamElement {k : Cell} (hq : (s.sport h p).cur = some x) (hc : cellOfHam s h 15 = some (n, k))
    (hh : (mget (s.reeve h).xfers x.spec.xid).any (barred s h x.spec.xid) = false) (hm : xfersMove s h = true) :
    exec (.streamElement h p) s = .next (if x.spec.dir then
        match x.part with
        | some t => sinkElement s h p (declCtrl (portDecl s h p)) x t
        | none => if x.phase = .done then s else sinkToken s h p (declCtrl (portDecl s h p)) (x.skip 3)
      else streamOut s h p n (declCtrl (portDecl s h p)) x) := by
  show execStreamElement h p s = _
  unfold execStreamElement
  dsimp only
  rw [hq, show cellOfHam s h portCell = some (n, k) from hc]
  cases hx : mget (s.reeve h).xfers x.spec.xid with
  | none =>
    dsimp only
    rw [hx]
    dsimp only
    rw [hm]
    rfl
  | some y =>
    rw [hx] at hh
    dsimp only
    rw [hx]
    dsimp only
    refine congrArg Host.Outcome.next (if_neg ?_)
    rw [show barred s h x.spec.xid y = false from hh, hm]
    decide

/-- A stream from memory on a live cell, in the order of its round. -/
theorem streamOut_live (c : Bool) (hl : s.nodeLive n = true) (hs : s.sourceMay n (s.sport h p).midRound = true)
    (hr : (s.sport h p).sent ≠ 0 ∨ roundHeld s n (s.sport h p).round = false) : streamOut s h p n c x =
      let q := s.sport h p
      let next : State := s.setSport h p { q with cur := some x.advance }
      let room : Bool := decide (q.buf.length < x.spec.window) && decide (q.buf.length < 16)
      match x.phase with
      | .elem => if room || x.part.isSome then readElement s h p c x else s
      | .mark k => if !x.spec.mark.getLsbD k then next else if room then streamMark s h p x (.eod k) else s
      | .eor => if !x.spec.mark.getLsbD 3 then next else if room then streamMark s h p x .eor else s
      | .eos => if room then streamMark s h p x .eos else s
      | .done => s := by
  have hf : ((s.sport h p).sent == 0 && roundHeld s n (s.sport h p).round) = false := by
    rcases hr with hr | hr
    · rw [beq_eq_false_iff_ne.mpr hr, Bool.false_and]
    · rw [hr, Bool.and_false]
  unfold streamOut
  dsimp only
  rw [hl, hs, hf]
  rfl

theorem streamOut_held (c : Bool) (hs : (s.sport h p).sent = 0) (hr : roundHeld s n (s.sport h p).round = true) :
    streamOut s h p n c x = s := by
  unfold streamOut
  dsimp only
  rw [hs, hr]
  exact if_pos (Bool.or_true _)

/-- The state after an element of value `v` has joined its token. -/
def elementRead (s u : State) (h p : Nat) (ctrl : Bool) (x : Stream) (v : Nat) : State :=
  let q := { s.sport h p with xfer := (s.sport h p).xfer + 1 }
  let z := 2 ^ x.spec.esize
  let t0 := x.part.getD { kind := .data }
  let t := { t0 with
    data := t0.data ||| BitVec.ofNat 512 (v * 2 ^ (8 * z * x.at_))
    mask := t0.mask ||| (1#64 <<< x.at_) }
  let y : Stream := { x.advance with moved := x.moved + 1 }
  if x.at_ + 1 = (if ctrl then 1 else 64 / z) ∨ y.phase ≠ .elem
    then u.setSport h p { q.push { t with tag := portTag u h q } with cur := some { y with part := none, at_ := 0 } }
    else u.setSport h p { q with cur := some { y with part := some t, at_ := x.at_ + 1 } }

theorem readElement_ok {c : Bool} {l : Loc} {w : State} {v : Nat × State}
    (ha : access s (streamAcx s h p) x.spec.cap x.offset (2 ^ x.spec.esize) (2 ^ x.spec.esize) clLoad.engine rR = .ok l)
    (hi : issueTo s (.stream h p) (s.reeve h).vf (unitAt l).toList = .ok w)
    (hv : capReadNat w (streamAcx s h p) x.spec.cap x.offset (2 ^ x.spec.esize) (2 ^ x.spec.esize) clLoad.engine = .ok v) :
    readElement s h p c x = elementRead s (release v.2 (.stream h p)) h p c x v.1 := by
  have hi : issueTo s (streamAcx s h p).who (streamAcx s h p).vf (unitAt l).toList = .ok w := hi
  obtain ⟨v, u⟩ := v
  unfold readElement
  dsimp only
  rw [ha]
  dsimp only [Bind.bind, Except.bind]
  rw [hi]
  dsimp only
  rw [hv]
  unfold settleStop elementRead
  dsimp only
  rw [Bool.or_false, Nat.shiftLeft_eq]
  simp only [Bool.or_eq_true, decide_eq_true_eq, bne_iff_ne]
  rfl

/-- Where a sink stream stands after a position of its token. -/
def Stream.sunk (x : Stream) (ctrl : Bool) : Stream :=
  let y : Stream := { x.advance with moved := x.moved + 1 }
  if x.at_ + 1 = (if ctrl then 1 else 64 / 2 ^ x.spec.esize) ∨ y.phase ≠ .elem
    then { y with part := none, at_ := 0 } else { y with at_ := x.at_ + 1 }

/-- The state after a position of a sink's token. -/
def elementSunk (s u : State) (h p : Nat) (y : Stream) : State :=
  let v := release u (.stream h p)
  v.setSport h p { v.sport h p with cur := some (y.skip 3), xfer := (s.sport h p).xfer + 1 }

theorem sinkElement_eq (c : Bool) (t : Token) : sinkElement s h p c x t =
    if !t.mask.getLsbD x.at_ then elementSunk s s h p (x.sunk c)
    else if ((x.sunk c).skip 3).phase != .elem && x.spec.comp == .full && !allPerformed s (.stream h p) then s
    else settleStop s ((writeElement s h p x t.tag
        (natField t.data.toNat (8 * 2 ^ x.spec.esize * x.at_) (8 * 2 ^ x.spec.esize))).map fun u => elementSunk s u h p (x.sunk c))
      fun s' t => elementSunk s (xferFault s' h portCell t) h p (x.sunk c) := by
  have hy : (if (decide (x.at_ + 1 = x.per c) || ({ x.advance with moved := x.moved + 1 } : Stream).phase != .elem) = true
      then { { x.advance with moved := x.moved + 1 } with part := none, at_ := 0 }
      else { { x.advance with moved := x.moved + 1 } with at_ := x.at_ + 1 } : Stream) = x.sunk c := by
    unfold Stream.sunk
    simp only [Bool.or_eq_true, decide_eq_true_eq, bne_iff_ne]
    rfl
  unfold sinkElement
  dsimp only
  rw [hy]
  rfl

theorem exec_streamComplete (hq : (s.sport h p).cur = some x) : exec (.streamComplete h p) s = .next (
    if x.phase != .done || !allPerformed s (.stream h p) then s
    else completeXfer (s.setSport h p { s.sport h p with cur := none }) h x.spec.xid 15 (x.moved * 2 ^ x.spec.esize)) := by
  show execStreamComplete h p s = _
  unfold execStreamComplete
  dsimp only
  rw [hq]
  rfl

end

/-! ### Copies (R264) -/

/-- The state after a piece of a copy. -/
def pieceMoved (u : State) (h id k : Nat) : State :=
  let v := release u (.copy h id)
  v.setReeve h { v.reeve h with xfers := mupd (v.reeve h).xfers id fun x => { x with pos := x.pos + k } }

section
variable {s : State} {h p : Nat} {x : Xfer}

theorem exec_copyComplete (hx : mget (s.reeve h).xfers p = some x) (hk : x.kind = .copy) (hb : barred s h p x = false)
    (hm : xfersMove s h = true) : exec (.copyComplete h p) s = .next (
      if x.pos < x.len then
        let z := redSize x.red
        let k := if x.red = 0 then Nat.min (x.len - x.pos) (64 - (x.dst.addr + x.pos) % 64) else z
        let r := if x.red = 0 then copyPiece s h p x k else copyReduce s h p x z
        if x.pos + k = x.len && x.comp == .full && !allPerformed s (.copy h p) then s
        else settleStop s (r.map fun u => pieceMoved u h p k) fun s t => pieceMoved (xferFault s h 0 t) h p k
      else if allPerformed s (.copy h p) then completeXfer (copyTiles s h p x) h p 0 x.len
      else s) := by
  show execCopyComplete h p s = _
  unfold execCopyComplete
  rw [hx]
  dsimp only
  rw [hk, hb, hm]
  rfl

theorem copyPiece_ok {w u : State} {k : Nat} (hi : issueTo s (.copy h p) (s.reeve h).vf (copyUnits s h p x k) = .ok w)
    (hc : copyPart w h p x k = .ok u) : copyPiece s h p x k = .ok u := by
  unfold copyPiece
  rw [hi]
  dsimp only [Bind.bind, Except.bind]
  rw [hc]

end

/-! ### Hand-over clears (R140) -/

theorem Mem.byte_clearRange (m : Mem) (a n b : Nat) :
    (m.clearRange a n).byte b = if a ≤ b ∧ b < a + n then 0 else m.byte b := by
  have hf := mget_filter_keys m.bytes (fun i => !(decide (a ≤ i) && decide (i < a + n))) b
  unfold Mem.byte
  rw [show mget (m.clearRange a n).bytes b = _ from hf]
  by_cases h : a ≤ b ∧ b < a + n
  · rw [if_pos h, decide_eq_true h.1, decide_eq_true h.2]
    rfl
  · rw [if_neg h, if_pos]
    simp only [Bool.not_eq_true', Bool.and_eq_false_iff, decide_eq_false_iff_not]
    omega

theorem memWrites_clearServe (s : State) (a n : Nat) : MemWrites s (clearServe s a n) :=
  (memWrites_mem s _).trans (.foldl memWrites_serveWaiters _ _)

theorem foldl_serveWaiters_byte (ws : List Nat) (s : State) (b : Nat) : (ws.foldl serveWaiters s).mem.byte b = s.mem.byte b := by
  induction ws generalizing s with
  | nil => rfl
  | cons w ws ih => rw [List.foldl_cons, ih, serveWaiters_byte]

theorem clearServe_byte (s : State) (a n b : Nat) :
    (clearServe s a n).mem.byte b = if a ≤ b ∧ b < a + n then 0 else s.mem.byte b := by
  rw [← Mem.byte_clearRange]
  exact foldl_serveWaiters_byte ..

/-- What a clear leaves of a range, and outside it. -/
theorem clearServe_bytes (s : State) (a n : Nat) :
    (∀ b, a ≤ b ∧ b < a + n → (clearServe s a n).mem.byte b = 0) ∧
      ∀ b, b < a ∨ a + n ≤ b → (clearServe s a n).mem.byte b = s.mem.byte b :=
  ⟨fun b hb => by rw [clearServe_byte, if_pos hb], fun b hb => by rw [clearServe_byte, if_neg (by omega)]⟩

theorem exec_hamletClearComplete {s : State} {h : Nat} {c : Nat × W64} (hc : (s.ham h).clearFor = some c) :
    exec (.hamletClearComplete h) s = .next (if (s.cycle - c.2).toNat < 1024 then s
      else (clearServe s (scratchBase h) Config.scratchBytes).updHam h fun x =>
        { x with place := if x.place ≠ .clearing then x.place else if claimed s h then .occupied else .free
                 owner := some c.1, ctx := c.1, clearFor := none }) := by
  obtain ⟨c, k⟩ := c
  show execHamletClearComplete h s = _
  unfold execHamletClearComplete
  dsimp only
  rw [hc]
  simp only [bne_iff_ne]

theorem exec_granaryClearComplete {s : State} {h : Nat} {c : Nat × W64} (hc : mget s.sliceClear h = some c) :
    exec (.granaryClearComplete h) s = .next (if (s.cycle - c.2).toNat < 262144 then s
      else { clearServe s (slicePhys h 0) Config.sliceBytes with
        sliceClear := mdel s.sliceClear h
        sliceOwner := mset s.sliceOwner h c.1 }) := by
  obtain ⟨c, k⟩ := c
  show execGranaryClearComplete h s = _
  unfold execGranaryClearComplete
  rw [hc]

theorem exec_hamletClearComplete_done {s : State} {h : Nat} {c : Nat × W64} (hc : (s.ham h).clearFor = some c)
    (ht : 1024 ≤ (s.cycle - c.2).toNat) : ∃ t, exec (.hamletClearComplete h) s = .next t ∧
      t.ham h = { s.ham h with
        place := if (s.ham h).place ≠ .clearing then (s.ham h).place else if claimed s h then .occupied else .free
        owner := some c.1, ctx := c.1, clearFor := none } ∧
      (∀ a, scratchBase h ≤ a ∧ a < scratchBase h + 2 ^ 21 → t.mem.byte a = 0) ∧
      ∀ a, a < scratchBase h ∨ scratchBase h + 2 ^ 21 ≤ a → t.mem.byte a = s.mem.byte a := by
  refine ⟨_, (exec_hamletClearComplete hc).trans (congrArg Host.Outcome.next (if_neg (Nat.not_lt.mpr ht))), ?_,
    clearServe_bytes s (scratchBase h) Config.scratchBytes⟩
  have hw : (clearServe s (scratchBase h) Config.scratchBytes).ham h = s.ham h := by
    obtain ⟨m, w, g, v, e⟩ := memWrites_clearServe s (scratchBase h) Config.scratchBytes
    rw [e]
    rfl
  unfold State.updHam
  rw [hw]
  unfold State.ham
  dsimp only
  rw [mget_mset_self]
  rfl

theorem exec_granaryClearComplete_done {s : State} {h : Nat} {c : Nat × W64} (hc : mget s.sliceClear h = some c)
    (ht : 262144 ≤ (s.cycle - c.2).toNat) : ∃ t, exec (.granaryClearComplete h) s = .next t ∧
      mget t.sliceOwner h = some c.1 ∧
      (∀ a, slicePhys h 0 ≤ a ∧ a < slicePhys h 0 + Config.sliceBytes → t.mem.byte a = 0) ∧
      ∀ a, a < slicePhys h 0 ∨ slicePhys h 0 + Config.sliceBytes ≤ a → t.mem.byte a = s.mem.byte a :=
  ⟨_, (exec_granaryClearComplete hc).trans (congrArg Host.Outcome.next (if_neg (Nat.not_lt.mpr ht))), mget_mset_self ..,
    clearServe_bytes s (slicePhys h 0) Config.sliceBytes⟩

/-! ### Sparse updates (R170) -/

theorem exec_sparseUpdateApply_none {s : State} {h p : Nat} {u : SUpd} (hu : (mgetD s.windows h [])[p]? = some u) :
    exec (.sparseUpdateApply h p none) s = .next (
      if !mayApply (mgetD s.windows h []) p || tagWaits s (mgetD s.windows h []) u then s
      else applyUpd { s with windows := mput s.windows h ((mgetD s.windows h []).eraseIdx p) [] } u.addr {
          src := u.srcs.headD .steward, ctx := u.ctx, vf := u.vf, launch := u.launch, op := u.op
          val := u.operand, n := u.n, full := u.full } u.srcs) := by
  show execSparseUpdateApply h p none s = _
  unfold execSparseUpdateApply
  dsimp only
  rw [hu]

theorem exec_sparseUpdateApply_some {s : State} {h p j : Nat} {u v : SUpd} (hu : (mgetD s.windows h [])[p]? = some u)
    (hv : (mgetD s.windows h [])[j]? = some v) : exec (.sparseUpdateApply h p (some j)) s = .next (
      if !mayMerge (mgetD s.windows h []) p j then s
      else { s with windows := mput s.windows h ((lset (mgetD s.windows h []) p
        { u with srcs := u.srcs ++ v.srcs, more := u.more ++ v.val :: v.more }).eraseIdx j) [] }) := by
  show execSparseUpdateApply h p (some j) s = _
  unfold execSparseUpdateApply
  dsimp only
  rw [hu]
  dsimp only
  rw [hv]

/-! ### O39 -/

/-- Settles O39: each event by the equation of its function. -/
theorem streamsCopiesAndClears : Obligations.StreamsCopiesAndClears := by
  intro s h p q who goes port held
  have next {i : Instr} {t u : State} (e : exec i s = .next t) (hu : t = u) : exec i s = .next u := hu ▸ e
  refine ⟨fun sp rest hp hc hm => ?_, fun x hx c hc hh hm => ?_, fun x hx hk hb hm => ?_, fun u hu => ?_,
    fun c hc => ⟨fun ht => ?_, fun ht => exec_hamletClearComplete_done hc ht⟩,
    fun c hc => ⟨fun ht => ?_, fun ht => exec_granaryClearComplete_done hc ht⟩⟩
  · refine next (t := if (s.sport h p).cur.isSome || !xfersMove s h then s
      else port s { q with pending := rest, cur := some sp.begin, xfer := 0 }) ?_ ?_
    · show execStreamStart h p s = _
      unfold execStreamStart
      dsimp only
      rw [show (s.sport h p).pending = sp :: rest from hp]
    · rw [show (s.sport h p).cur = none from hc, hm]
      rfl
  · intro ctrl z room mark nextE
    have hcell : cellOfHam s h 15 = some (c.1, c.2) := hc
    have he := exec_streamElement hx hcell hh hm
    refine ⟨fun hd hl hs => ⟨fun h0 hr => ?_, fun hr => ?_⟩,
      fun hd => ⟨fun hn hp t rest ht => ?_, fun t ht => ?_⟩, fun hp ha => ?_, fun hp => ?_⟩
    · rw [hd] at he
      exact next he (streamOut_held _ h0 hr)
    · rw [hd] at he
      have he : exec (.streamElement h p) s = _ := next he (streamOut_live _ hl hs hr)
      have hroom : room → (decide (q.buf.length < x.spec.window) && decide (q.buf.length < 16)) = true := fun hrm => by
        rw [decide_eq_true hrm.1, decide_eq_true hrm.2]
        rfl
      refine ⟨fun k hp => ⟨fun hk hrm => ?_, fun hk => ?_⟩, fun hp hk hrm => ?_, fun hp hrm => ?_,
        fun hp hrm l ha w hi v hv => ?_⟩
      · refine next he ?_
        dsimp only
        rw [hp]
        dsimp only
        rw [hk, hroom hrm]
        rfl
      · refine next he ?_
        dsimp only
        rw [hp]
        dsimp only
        rw [hk]
        rfl
      · refine next he ?_
        dsimp only
        rw [hp]
        dsimp only
        rw [hk, hroom hrm]
        rfl
      · refine next he ?_
        dsimp only
        rw [hp]
        exact if_pos (hroom hrm)
      · refine next he ?_
        dsimp only
        rw [hp]
        refine (if_pos ?_).trans (readElement_ok ha hi hv)
        rcases hrm with hrm | hrm
        · rw [hroom hrm, Bool.true_or]
        · rw [hrm, Bool.or_true]
    · rw [hd, hn] at he
      intro y take
      have ht : (s.sport h p).buf = t :: rest := ht
      have he : exec (.streamElement h p) s = .next (sinkToken s h p ctrl y) := next he (if_neg hp)
      unfold sinkToken at he
      dsimp only at he
      rw [ht] at he
      dsimp only at he
      refine ⟨fun hk hm => next he ?_, fun hk hm => next he ?_, fun hk hm hp => next he ?_⟩
      · rw [hk]
        dsimp only
        rw [hm]
        rfl
      · rw [hk]
        dsimp only
        rw [hm]
        rfl
      · rw [hk]
        dsimp only
        rw [hm, hp]
        rfl
    · rw [hd, ht] at he
      have he : exec (.streamElement h p) s = .next (sinkElement s h p ctrl x t) := he
      intro y done last
      have hy : y = x.sunk ctrl := rfl
      rw [sinkElement_eq] at he
      refine ⟨fun hm => next he ?_, fun hm hl hc ha => next he ?_, fun hm hf u hu => next he ?_⟩
      · rw [hm]
        rfl
      · have hl : (((x.sunk ctrl).skip 3).phase != .elem) = true := bne_iff_ne.mpr hl
        rw [hm, hc, ha, hl]
        rfl
      · have hf : (((x.sunk ctrl).skip 3).phase != .elem && x.spec.comp == .full && !allPerformed s (.stream h p)) = false := by
          rcases hf with hl | hc | ha
          · have hl : ((x.sunk ctrl).skip 3).phase = .elem := not_not.mp hl
            rw [bne_eq_false_iff_eq.mpr hl, Bool.false_and, Bool.false_and]
          · rw [beq_eq_false_iff_ne.mpr hc, Bool.and_false, Bool.false_and]
          · rw [ha, Bool.not_true, Bool.and_false]
        have hu : writeElement s h p x t.tag
            (natField t.data.toNat (8 * 2 ^ x.spec.esize * x.at_) (8 * 2 ^ x.spec.esize)) = .ok u := by
          rw [natField, Nat.shiftRight_eq_div_pow]
          exact hu
        rw [hm, hf, hu]
        rfl
    · refine (exec_streamComplete hx).trans (congrArg Host.Outcome.next (if_neg ?_))
      rw [hp, show allPerformed s (.stream h p) = true from ha]
      decide
    · refine (exec_streamComplete hx).trans (congrArg Host.Outcome.next (if_pos ?_))
      rcases hp with hp | hp
      · rw [bne_iff_ne.mpr hp, Bool.true_or]
      · rw [show allPerformed s (.stream h p) = false from hp]
        exact Bool.or_true _
  · intro me k
    have he := exec_copyComplete hx hk hb hm
    refine ⟨fun hl hr hd w hi u hu => next he ?_, fun hl hr hk hc ha => next he ?_, fun hl ha => next he ?_, fun hl ha => next he ?_⟩
    · rw [if_pos hl]
      dsimp only
      rw [if_pos hr, if_pos hr, if_neg]
      · rw [copyPiece_ok hi hu]
        rfl
      · rw [Bool.and_eq_true, Bool.and_eq_true, decide_eq_true_eq, beq_iff_eq, Bool.not_eq_true']
        rintro ⟨⟨he, hc⟩, ha⟩
        rcases hd with hd | hd | hd
        · exact hd.ne he
        · exact hd hc
        · exact absurd ha (by rw [hd]; decide)
    · rw [if_pos hl]
      dsimp only
      rw [if_pos hr, if_pos hr, if_pos]
      rw [decide_eq_true hk, hc, ha]
      rfl
    · rw [if_neg (Nat.not_lt.mpr hl), if_pos ha]
    · rw [if_neg (Nat.not_lt.mpr hl), ha]
      rfl
  · refine ⟨fun hn => ?_, fun hm ht => ?_, fun j v hv => ⟨fun hm => ?_, fun hm => ?_⟩⟩
    · refine next (exec_sparseUpdateApply_none hu) (if_pos ?_)
      rcases hn with hn | hn
      · rw [hn]
        rfl
      · rw [hn, Bool.or_true]
    · refine next (exec_sparseUpdateApply_none hu) (if_neg ?_)
      rw [hm, ht]
      decide
    · refine next (exec_sparseUpdateApply_some hu hv) (if_neg ?_)
      rw [hm]
      decide
    · refine next (exec_sparseUpdateApply_some hu hv) (if_pos ?_)
      rw [hm]
      rfl
  · exact next (exec_hamletClearComplete hc) (if_pos ht)
  · exact next (exec_granaryClearComplete hc) (if_pos ht)

end Sys2Proof.Machine
end

section
/-! SUPPORT. O60: what it means that an operation keeps the canonical form of memory (log 3), and the rules for sequences,
choices and repetitions. -/

namespace Sys2Proof.Machine

/-! ### The canonical form of what an operation gives -/

/-- The states that a stop carries have a canonical memory. -/
def Stop.Canon : Stop → Prop
  | .trap _ => True
  | .trapIn s _ => s.mem.Wf
  | .wait _ _ => True
  | .keep s _ => s.mem.Wf

/-- What an operation gives, or stops with, has a canonical memory; `get` finds the state in the result. -/
def Keeps {α : Type} (get : α → State) : Except Stop α → Prop
  | .ok a => (get a).mem.Wf
  | .error e => e.Canon

/-- What an operation without a state stops with has a canonical memory. -/
def Stateless {α : Type} : Except Stop α → Prop
  | .ok _ => True
  | .error e => e.Canon

theorem ok_bind {ε α β : Type} (a : α) (f : α → Except ε β) : (Except.ok a >>= f) = f a := rfl

theorem Keeps.of_ok {α : Type} {g : α → State} {r : Except Stop α} {a : α} (h : Keeps g r) (e : r = .ok a) : (g a).mem.Wf := by
  rw [e] at h
  exact h

theorem Keeps.of_error {α : Type} {g : α → State} {r : Except Stop α} {x : Stop} (h : Keeps g r) (e : r = .error x) : x.Canon := by
  rw [e] at h
  exact h

theorem Keeps.bind {α β : Type} {g : α → State} {k : β → State} {r : Except Stop α} {f : α → Except Stop β}
    (h : Keeps g r) (hf : ∀ a, (g a).mem.Wf → Keeps k (f a)) : Keeps k (r >>= f) := by
  cases r with
  | ok a => exact hf a h
  | error e => exact h

theorem Stateless.bind {α β : Type} {k : β → State} {r : Except Stop α} {f : α → Except Stop β}
    (h : Stateless r) (hf : ∀ a, Keeps k (f a)) : Keeps k (r >>= f) := by
  cases r with
  | ok a => exact hf a
  | error e => exact h

theorem Stateless.bind' {α β : Type} {r : Except Stop α} {f : α → Except Stop β}
    (h : Stateless r) (hf : ∀ a, Stateless (f a)) : Stateless (r >>= f) := by
  cases r with
  | ok a => exact hf a
  | error e => exact h

theorem Keeps.map {α β : Type} {g : α → State} {k : β → State} {r : Except Stop α} {f : α → β}
    (h : Keeps g r) (hf : ∀ a, (g a).mem.Wf → (k (f a)).mem.Wf) : Keeps k (r.map f) := by
  cases r with
  | ok a => exact hf a h
  | error e => exact h

theorem Keeps.ite {α : Type} {g : α → State} {c : Prop} [Decidable c] {a b : Except Stop α} (ha : Keeps g a) (hb : Keeps g b) :
    Keeps g (if c then a else b) := by
  split
  · exact ha
  · exact hb

theorem wf_ite {c : Prop} [Decidable c] {s t : State} (hs : s.mem.Wf) (ht : t.mem.Wf) : (if c then s else t).mem.Wf := by
  split
  · exact hs
  · exact ht

/-- The work of an engine's command: what it gives, or ends with, has a canonical memory. -/
def Works {α : Type} (get : α → State) : Work α → Prop
  | .ok a => (get a).mem.Wf
  | .error (.inl e) => e.Canon
  | .error (.inr x) => x.1.mem.Wf

theorem Works.bind {α β : Type} {g : α → State} {k : β → State} {r : Work α} {f : α → Work β}
    (h : Works g r) (hf : ∀ a, (g a).mem.Wf → Works k (f a)) : Works k (r >>= f) := by
  cases r with
  | ok a => exact hf a h
  | error e =>
    cases e with
    | inl e => exact h
    | inr x => exact h

/-- What a placement gives has a canonical memory. -/
def Places {α : Type} (get : α → State) : Placing α → Prop
  | .ok a => (get a).mem.Wf
  | .error _ => True

theorem Places.bind {α β : Type} {g : α → State} {k : β → State} {r : Placing α} {f : α → Placing β}
    (h : Places g r) (hf : ∀ a, (g a).mem.Wf → Places k (f a)) : Places k (r >>= f) := by
  cases r with
  | ok a => exact hf a h
  | error e => trivial

/-- What a search finds has a canonical memory. -/
def Finds {α : Type} (get : α → State) : Option α → Prop
  | some a => (get a).mem.Wf
  | none => True

theorem Finds.of_some {α : Type} {g : α → State} {r : Option α} {a : α} (h : Finds g r) (e : r = some a) : (g a).mem.Wf := by
  rw [e] at h
  exact h

theorem Finds.bind {α β : Type} {g : α → State} {k : β → State} {r : Option α} {f : α → Option β}
    (h : Finds g r) (hf : ∀ a, (g a).mem.Wf → Finds k (f a)) : Finds k (r >>= f) := by
  cases r with
  | some a => exact hf a h
  | none => trivial

/-- An effect of an actor instruction keeps the canonical form. -/
def EffKeeps (e : Eff) : Prop := ∀ x o (s : State), s.mem.Wf → Keeps Prod.snd (e x o s)

/-- What an instruction or an event leads to has a canonical memory. -/
def Canon : Host.Outcome State Fault Refusal → Prop
  | .next t => t.mem.Wf
  | .fault _ => True
  | .refused _ => True

theorem foldl_wf {α : Type} {g : State → α → State} (hg : ∀ s a, s.mem.Wf → (g s a).mem.Wf) {s : State} (h : s.mem.Wf)
    (l : List α) : (l.foldl g s).mem.Wf :=
  List.foldlRecOn (motive := fun t => t.mem.Wf) l g h fun t ht a _ => hg t a ht

theorem foldlM_keeps {α : Type} {g : State → α → Except Stop State} (hg : ∀ s a, s.mem.Wf → Keeps id (g s a)) {s : State}
    (h : s.mem.Wf) (l : List α) : Keeps id (l.foldlM g s) := by
  induction l generalizing s with
  | nil => exact h
  | cons a l ih =>
    rw [List.foldlM_cons]
    exact (hg s a h).bind fun t ht => ih ht

theorem foldlM_finds {α : Type} {g : State → α → Option State} (hg : ∀ s a, s.mem.Wf → Finds id (g s a)) {s : State}
    (h : s.mem.Wf) (l : List α) : Finds id (l.foldlM g s) := by
  induction l generalizing s with
  | nil => exact h
  | cons a l ih =>
    rw [List.foldlM_cons]
    exact (hg s a h).bind fun t ht => ih ht

theorem foldlM_stateless {α β : Type} {g : β → α → Except Stop β} (hg : ∀ s a, Stateless (g s a)) (s : β) (l : List α) :
    Stateless (l.foldlM g s) := by
  induction l generalizing s with
  | nil => trivial
  | cons a l ih =>
    rw [List.foldlM_cons]
    exact (hg s a).bind' ih

/-! ### Memories that are put together -/

theorem Mem.Wf.setNonzero {m : Mem} (h : m.Wf) {l : List Nat} (r : Rises l) : { m with nonzero := l }.Wf :=
  { h with nonzero := r }

theorem Mem.Wf.copyPage {m : Mem} (h : m.Wf) (a b : Nat) : (m.copyPage a b).Wf := by
  unfold Mem.copyPage
  dsimp only
  split
  · exact h
  · exact (h.clearRange ..).merge _

theorem Mem.Wf.hostPart {m : Mem} (h : m.Wf) : (hostPart m).Wf where
  keys := rising_filter h.keys _
  bytes x hx := h.bytes x (List.mem_filter.mp hx).1
  tags := .nil
  empties := .nil
  nonzero := rises_filter h.nonzero _
  bad := rises_filter h.bad _
  soft := rises_filter h.soft _

end Sys2Proof.Machine
end

section
/-! SUPPORT. O60: memory keeps its canonical form (log 3) under the named operations over the state that every meaning shares.
-/

namespace Sys2Proof.Machine

theorem raise_stateless {α : Type} (c : Code) (addr sub : Nat) : Stateless (raise c addr sub : Except Stop α) :=
  trivial

theorem raise_keeps {α : Type} (g : α → State) (c : Code) (addr sub : Nat) : Keeps g (raise c addr sub : Except Stop α) :=
  trivial

theorem cfgReject_stateless {α : Type} (sub : Nat) : Stateless (cfgReject sub : Except Stop α) :=
  trivial

theorem cfgReject_keeps {α : Type} (g : α → State) (sub : Nat) : Keeps g (cfgReject sub : Except Stop α) :=
  trivial

theorem await_stateless {α : Type} (w : Wait) (rq : Option Req) : Stateless (await w rq : Except Stop α) :=
  trivial

theorem await_keeps {α : Type} (g : α → State) (w : Wait) (rq : Option Req) : Keeps g (await w rq : Except Stop α) :=
  trivial

theorem check_stateless (b : Bool) (c : Code) (addr sub : Nat) : Stateless (check b c addr sub) := by
  unfold check
  grind [Stateless, Stateless.bind', Stop.Canon, raise_stateless]

/-! ### The acting reeve -/

theorem State.setReeve_wf {s : State} (h : s.mem.Wf) (n : Nat) (r : Reeve) : (State.setReeve s n r).mem.Wf :=
  h

theorem State.setMe_wf {s : State} (h : s.mem.Wf) (r : Reeve) : (State.setMe s r).mem.Wf :=
  h

theorem State.updMe_wf {s : State} (h : s.mem.Wf) (f : Reeve → Reeve) : (State.updMe s f).mem.Wf :=
  h

/-! ### Capabilities (R120, R121) -/

theorem checkCapAt_stateless (k : Cap) (off : Int) (n : Option Nat) (align : Nat) (cl : AClass) :
    Stateless (checkCapAt k off n align cl) := by
  unfold checkCapAt
  refine (check_stateless ..).bind' fun _ => (check_stateless ..).bind' fun _ => (check_stateless ..).bind' fun _ => ?_
  split
  · split
    · exact raise_stateless ..
    · exact raise_stateless ..
  · refine (check_stateless ..).bind' fun _ => ?_
    split
    · trivial
    · exact (check_stateless ..).bind' fun _ => (check_stateless ..).bind' fun _ => trivial

/-! ### Counters (R205, R207) -/

theorem State.setVf_wf {s : State} (h : s.mem.Wf) (v : Nat) (f : Vf) : (State.setVf s v f).mem.Wf :=
  h

theorem State.setCtx_wf {s : State} (h : s.mem.Wf) (c : Nat) (x : Ctx) : (State.setCtx s c x).mem.Wf :=
  h

theorem State.count_wf {s : State} (h : s.mem.Wf) (vf off n : Nat) : (State.count s vf off n).mem.Wf :=
  wf_ite h (State.setVf_wf h ..)

/-! ### Values that the spec leaves open (log 13) -/

theorem State.freeBits_wf {s : State} (h : s.mem.Wf) (n : Nat) : (State.freeBits s n).2.mem.Wf :=
  h

theorem State.setReady_wf {s : State} (h : s.mem.Wf) (b : Nat) : (State.setReady s b).mem.Wf :=
  h

/-! ### Launches and the launch status (R376, R385-R387) -/

theorem State.updLaunch_wf {s : State} (h : s.mem.Wf) (l : Nat) (f : Launch → Launch) : (State.updLaunch s l f).mem.Wf :=
  h

theorem noteError_wf {s : State} (h : s.mem.Wf) (sub place : Nat) : (noteError s sub place).mem.Wf :=
  h

theorem noteErrorOf_wf {s : State} (h : s.mem.Wf) (t : Trap) : (noteErrorOf s t).mem.Wf :=
  h

theorem recordFault_wf {s : State} (h : s.mem.Wf) (l : Nat) (t : Trap) (site : BitVec 32) : (recordFault s l t site).mem.Wf :=
  h

theorem sweepAfresh_wf {s : State} (h : s.mem.Wf) (l : Nat) : (sweepAfresh s l).mem.Wf := by
  unfold sweepAfresh
  grind [foldl_wf, State.updLaunch_wf, State.setReeve_wf]

theorem raiseHeld_wf {s : State} (h : s.mem.Wf) (l : Nat) : (raiseHeld s l).mem.Wf := by
  unfold raiseHeld
  split <;> exact h

theorem markDirty_wf {s : State} (h : s.mem.Wf) (l : Nat) : (markDirty s l).mem.Wf :=
  h

theorem recordPoison_wf {s : State} (h : s.mem.Wf) (c : Nat) (t : Trap) : (recordPoison s c t).mem.Wf :=
  wf_ite h (State.setCtx_wf h ..)

/-! ### Barriers broken by a trap at S level (R277) -/

theorem breakBarriers_wf {s : State} (h : s.mem.Wf) (l n : Nat) : (breakBarriers s l n).mem.Wf := by
  unfold breakBarriers
  grind [foldl_wf, State.updLaunch_wf, recordFault_wf]

/-! ### Taking an exception and returning from one (R103) -/

theorem stopReeve_wf {s : State} (h : s.mem.Wf) (n : Nat) (t : Trap) : (stopReeve s n t).mem.Wf := by
  unfold stopReeve
  grind [State.setReeve_wf, recordFault_wf, State.updLaunch_wf, breakBarriers_wf]

theorem trapEntry_wf {s : State} (h : s.mem.Wf) (t : Trap) : (trapEntry t s).mem.Wf := by
  unfold trapEntry
  grind [stopReeve_wf, recordFault_wf, State.setMe_wf]

end Sys2Proof.Machine
end

section
/-! SUPPORT. O60: memory keeps its canonical form (log 3) under the physical memories (R126, R132 to R144). -/

namespace Sys2Proof.Machine

theorem countRead_wf {s : State} (h : s.mem.Wf) (vf a n : Nat) : (countRead s vf a n).mem.Wf := by
  unfold countRead
  grind [State.count_wf]

theorem countWrite_wf {s : State} (h : s.mem.Wf) (vf a n : Nat) : (countWrite s vf a n).mem.Wf := by
  unfold countWrite
  grind [State.count_wf]

theorem loadPhys_keeps {s : State} (h : s.mem.Wf) (vf a n : Nat) : Keeps Prod.snd (loadPhys s vf a n) := by
  unfold loadPhys
  grind [Keeps, Keeps.bind, Stateless.bind, Stop.Canon, ok_bind, correctSoft_wf, countRead_wf]

theorem writeAllot_wf {s : State} (h : s.mem.Wf) (ctx o : Nat) (bs : List Byte) : (writeAllot s ctx o bs).mem.Wf := by
  unfold writeAllot
  grind [foldl_wf, storePhys_wf]

end Sys2Proof.Machine
end

section
/-! SUPPORT. O60: memory keeps its canonical form (log 3) under translation of global virtual addresses (R145 to R152). -/

namespace Sys2Proof.Machine

theorem correctWalk_wf {s : State} (h : s.mem.Wf) (ctx vf va need : Nat) : (correctWalk s ctx vf va need).mem.Wf := by
  unfold correctWalk
  grind [foldl_wf, countRead_wf, correctSoft_wf]

theorem translate_stateless (s : State) (x : Acx) (va need : Nat) : Stateless (translate s x va need) := by
  unfold translate
  grind [Stateless, Stateless.bind', Stop.Canon, raise_stateless, await_stateless]

theorem register_wf {s : State} (h : s.mem.Wf) (rq : Option Req) : (register s rq).mem.Wf := by
  unfold register
  grind []

theorem release_wf {s : State} (h : s.mem.Wf) (who : Who) : (release s who).mem.Wf :=
  h

end Sys2Proof.Machine
end

section
/-! SUPPORT. O60: memory keeps its canonical form (log 3) under cells and their windows (R107 to R117, R284, R308). -/

namespace Sys2Proof.Machine

theorem State.updInst_wf {s : State} (h : s.mem.Wf) (i : Nat) (f : Inst → Inst) : (State.updInst s i f).mem.Wf :=
  h

theorem State.setCellAt_wf {s : State} (h : s.mem.Wf) (n : NodeRef) (c : Cell) : (State.setCellAt s n c).mem.Wf :=
  h

theorem State.setSport_wf {s : State} (h : s.mem.Wf) (n p : Nat) (x : SPort) : (State.setSport s n p x).mem.Wf :=
  h

theorem writeWinWord_wf {s : State} (h : s.mem.Wf) (ham cell o : Nat) (bs : List Byte) (skip : List (Nat × Nat × Nat)) :
    (writeWinWord s ham cell o bs skip).mem.Wf := by
  unfold writeWinWord
  split
  · exact h
  · dsimp only
    split
    · split <;> exact h
    · split
      · exact h
      · split
        · split
          · exact h
          · exact h
          · split <;> exact h
          · exact h
        · exact h

theorem writeWinParts_wf {s : State} (h : s.mem.Wf) (n cell o : Nat) (bs : List Byte) (skip : List (Nat × Nat × Nat)) :
    (writeWinParts s n cell o bs skip).mem.Wf :=
  foldl_wf (fun _ _ ht => writeWinWord_wf ht ..) (writeWinWord_wf h ..) _

theorem writeWin_wf {s : State} (h : s.mem.Wf) (n cell o : Nat) (bs : List Byte) : (writeWin s n cell o bs).mem.Wf := by
  unfold writeWin
  grind [foldl_wf, writeWinParts_wf, State.count_wf, recordFault_wf]

theorem writeWinCap_wf {s : State} (h : s.mem.Wf) (n cell o : Nat) (k : Cap) : (writeWinCap s n cell o k).mem.Wf := by
  unfold writeWinCap
  grind [writeWin_wf, State.setCellAt_wf]

theorem State.setAcc_wf {s : State} (h : s.mem.Wf) (k : Nat) (v : W32) : (State.setAcc s k v).mem.Wf :=
  h

theorem writeAcc_wf {s : State} (h : s.mem.Wf) (n cell o : Nat) (bs : List Byte) : (writeAcc s n cell o bs).mem.Wf := by
  fun_induction writeAcc <;> grind [State.setAcc_wf]

end Sys2Proof.Machine
end

section
/-! SUPPORT. O60: memory keeps its canonical form (log 3) under accesses through capabilities (R123, R129 to R136, R238). -/

namespace Sys2Proof.Machine

theorem physLoc_stateless (a ea : Nat) : Stateless (physLoc a ea) := by
  unfold physLoc
  grind [Stateless, Stateless.bind', Stop.Canon, raise_stateless]

theorem relHam_stateless (s : State) (x : Acx) (ea : Nat) : Stateless (relHam s x ea) := by
  unfold relHam
  grind [Stateless, Stateless.bind', Stop.Canon, raise_stateless]

theorem peerRefusal_stateless {α : Type} (t : Trap) (ea : Nat) : Stateless (peerRefusal t ea : Except Stop α) := by
  unfold peerRefusal
  split <;> trivial

theorem peerRefusal_keeps {α : Type} (g : α → State) (t : Trap) (ea : Nat) : Keeps g (peerRefusal t ea : Except Stop α) := by
  unfold peerRefusal
  split <;> trivial

theorem locate_stateless (s : State) (x : Acx) (space ea need : Nat) : Stateless (locate s x space ea need) := by
  unfold locate
  grind [Stateless, Stateless.bind', Stop.Canon, translate_stateless, check_stateless, physLoc_stateless, relHam_stateless,
    await_stateless, raise_stateless, peerRefusal_stateless]

theorem haltReeve_wf {s : State} (h : s.mem.Wf) (n : Nat) : (haltReeve s n).mem.Wf :=
  h

theorem resumeReeve_wf {s : State} (h : s.mem.Wf) (n : Nat) : (resumeReeve s n).mem.Wf :=
  h

theorem writeCtl_wf {s : State} (h : s.mem.Wf) (n o : Nat) (v : W64) : (writeCtl s n o v).mem.Wf := by
  unfold writeCtl
  grind [haltReeve_wf, resumeReeve_wf, State.setReeve_wf]

theorem writeMmio_wf {s : State} (h : s.mem.Wf) (o : Nat) (v : W64) : (writeMmio s o v).mem.Wf := by
  unfold writeMmio
  grind []

theorem peerAnswer_stateless (s : State) (x : Acx) (a ea : Nat) (mapped : Bool) (op : PeerOp) : Stateless (peerAnswer s x a ea
    mapped op) := by
  unfold peerAnswer
  grind [Stateless, Stateless.bind', Stop.Canon, raise_stateless, await_stateless]

theorem awaitBank_stateless {α : Type} (x : Acx) (n cell o : Nat) : Stateless (awaitBank x n cell o : Except Stop α) :=
  trivial

theorem awaitBank_keeps {α : Type} (g : α → State) (x : Acx) (n cell o : Nat) : Keeps g (awaitBank x n cell o : Except Stop α)
    :=
  trivial

theorem loadLoc_keeps {s : State} (h : s.mem.Wf) (x : Acx) (l : Loc) (n : Nat) : Keeps Prod.snd (loadLoc s x l n) := by
  unfold loadLoc
  grind [Keeps, Keeps.bind, Stateless.bind, Stop.Canon, ok_bind, loadPhys_keeps, awaitBank_keeps, peerAnswer_stateless]

theorem sendPeer_wf {s : State} (h : s.mem.Wf) (x : Acx) (a ea : Nat) (mapped : Bool) (op : PeerOp) (part : Bool) : (sendPeer
    s x a ea mapped op part).mem.Wf :=
  h

theorem byWords_wf {f : State → Nat → Nat → List Byte → State} (hf : ∀ s o k bs, s.mem.Wf → (f s o k bs).mem.Wf)
    (o : Nat) (bs : List Byte) {s : State} (h : s.mem.Wf) : (byWords f o bs s).mem.Wf :=
  foldl_wf (fun t _ ht => hf t _ _ _ ht) (hf s _ _ _ h) _

theorem storeLoc_keeps {s : State} (h : s.mem.Wf) (x : Acx) (l : Loc) (bs : List Byte) (full zero : Bool) : Keeps id (storeLoc
    s x l bs full zero) := by
  unfold storeLoc
  grind [Keeps, Keeps.bind, Stateless.bind, Stop.Canon, ok_bind, storePhys_wf, writeWin_wf, awaitBank_keeps, writeAcc_wf,
    byWords_wf, writeCtl_wf, writeMmio_wf, sendPeer_wf]

theorem updateLoc_keeps {s : State} (h : s.mem.Wf) (x : Acx) (l : Loc) (n : Nat) (op : PeerOp) (f : Nat → Option Nat) (full :
    Bool) : Keeps Prod.snd (updateLoc s x l n op f full) := by
  unfold updateLoc
  grind [Keeps, Keeps.bind, Stateless.bind, Stop.Canon, ok_bind, sendPeer_wf, peerAnswer_stateless, loadLoc_keeps,
    storeLoc_keeps]

theorem access_stateless (s : State) (x : Acx) (k : Cap) (off : Int) (n align : Nat) (cl : AClass) (need : Nat) : Stateless
    (access s x k off n align cl need) :=
  (checkCapAt_stateless ..).bind' fun _ => locate_stateless ..

theorem noteWalk_wf {s : State} (h : s.mem.Wf) (x : Acx) (space ea need : Nat) : (noteWalk s x space ea need).mem.Wf :=
  wf_ite (State.count_wf (correctWalk_wf h ..) ..) h

theorem locateIn_keeps {s : State} (h : s.mem.Wf) (x : Acx) (space ea need : Nat) : Keeps Prod.snd (locateIn s x space ea
    need) := by
  unfold locateIn
  grind [Stateless, Keeps, Keeps.bind, Stateless.bind, Stop.Canon, ok_bind, locate_stateless, noteWalk_wf]

theorem capRead_keeps {s : State} (h : s.mem.Wf) (x : Acx) (k : Cap) (off : Int) (n align : Nat) (cl : AClass) : Keeps
    Prod.snd (capRead s x k off n align cl) :=
  (access_stateless ..).bind fun _ => loadLoc_keeps h ..

theorem capReadNat_keeps {s : State} (h : s.mem.Wf) (x : Acx) (k : Cap) (off : Int) (n align : Nat) (cl : AClass) : Keeps
    Prod.snd (capReadNat s x k off n align cl) :=
  (capRead_keeps h ..).bind fun _ ht => ht

theorem readSpan_keeps {s : State} (h : s.mem.Wf) (x : Acx) (space n n1 n2 : Nat) : Keeps Prod.snd (readSpan s x space n n1
    n2) := by
  fun_induction readSpan <;> grind [Keeps, Keeps.bind, Stateless.bind, Stop.Canon, ok_bind, locateIn_keeps, loadLoc_keeps]

theorem writeSpan_keeps {s : State} (h : s.mem.Wf) (x : Acx) (space : Nat) (full : Bool) (n n1 : Nat) (bs : List Byte) : Keeps
    id (writeSpan s x space full n n1 bs) := by
  fun_induction writeSpan <;> grind [Keeps, Keeps.bind, Stateless.bind, Stop.Canon, ok_bind, locateIn_keeps, storeLoc_keeps]

theorem capBlock_keeps {s : State} (h : s.mem.Wf) (x : Acx) (k : Cap) (off : Int) (n align : Nat) (cl : AClass) : Keeps
    Prod.snd (capBlock s x k off n align cl) :=
  (checkCapAt_stateless ..).bind fun _ => readSpan_keeps h ..

theorem loadCapLoc_keeps {s : State} (h : s.mem.Wf) (x : Acx) (l : Loc) : Keeps Prod.snd (loadCapLoc s x l) := by
  unfold loadCapLoc
  grind [Keeps, Keeps.bind, Stateless.bind, Stop.Canon, ok_bind, loadPhys_keeps, loadLoc_keeps]

theorem storeCapLoc_keeps {s : State} (h : s.mem.Wf) (x : Acx) (l : Loc) (c : Cap) : Keeps id (storeCapLoc s x l c) := by
  unfold storeCapLoc
  grind [Keeps, Keeps.bind, Stateless.bind, Stop.Canon, ok_bind, storeCap_wf, writeWinCap_wf, State.setReeve_wf, storeLoc_keeps]

end Sys2Proof.Machine
end

section
/-! SUPPORT. O60: memory keeps its canonical form (log 3) under reductions on their way to memory (R168 to R170). -/

namespace Sys2Proof.Machine

theorem leftFault_wf {s : State} (h : s.mem.Wf) (who : Who) (ctx vf launch : Nat) (t : Trap) : (leftFault s who ctx vf launch
    t).mem.Wf := by
  unfold leftFault
  split
  · exact h
  · exact recordPoison_wf h ..

theorem updMem_wf {s : State} (h : s.mem.Wf) (n : NodeRef) (f : MemSt → MemSt) : (updMem s n f).mem.Wf :=
  h

theorem performedBy_wf {s : State} (h : s.mem.Wf) (y : Who) : (performedBy s y).mem.Wf := by
  unfold performedBy
  grind [updMem_wf]

theorem applyUpd_wf {s : State} (h : s.mem.Wf) (a : Nat) (u : Upd) (srcs : List Who) : (applyUpd s a u srcs).mem.Wf := by
  unfold applyUpd
  grind [foldl_wf, Keeps, Stop.Canon, loadPhys_keeps, performedBy_wf, storePhys_wf, leftFault_wf]

theorem sendUpd_keeps {s : State} (h : s.mem.Wf) (l : Loc) (u : Upd) : Keeps id (sendUpd s l u) := by
  unfold sendUpd
  grind [Keeps, Keeps.bind, Stateless.bind, Stop.Canon, ok_bind, await_keeps, applyUpd_wf, sendPeer_wf, loadLoc_keeps,
    storeLoc_keeps]

theorem sendComb_keeps {s : State} (h : s.mem.Wf) (n : Nat) (c : Comb) : Keeps id (sendComb s n c) := by
  unfold sendComb
  grind [Keeps, Keeps.bind, Stateless.bind, Stop.Canon, ok_bind, foldl_wf, foldlM_keeps, sendUpd_keeps]

theorem flushList_wf {s : State} (h : s.mem.Wf) (n : Nat) (f : Comb → Bool) (y : List Comb) : (flushList s n f y).1.mem.Wf := by
  fun_induction flushList <;> grind [Keeps, Stop.Canon, sendComb_keeps]

theorem flushComb_keeps {s : State} (h : s.mem.Wf) (n : Nat) (f : Comb → Bool) : Keeps id (flushComb s n f) := by
  unfold flushComb
  grind [Keeps, Keeps.bind, Stateless.bind, Stop.Canon, ok_bind, flushList_wf, State.setReeve_wf]

theorem sendOff_wf {s : State} (h : s.mem.Wf) (who : Who) : (sendOff s who).mem.Wf :=
  h

theorem releaseComb_keeps {s : State} (h : s.mem.Wf) (n : Nat) : Keeps id (releaseComb s n) := by
  unfold releaseComb
  grind [Keeps, Keeps.bind, Stateless.bind, Stop.Canon, ok_bind, flushComb_keeps, sendOff_wf]

theorem flushReeves_wf {s : State} (h : s.mem.Wf) (l : List Nat) : (flushReeves s l).1.mem.Wf := by
  induction l generalizing s with
  | nil => exact h
  | cons k l ih =>
    have hr := releaseComb_keeps h k
    unfold flushReeves
    split
    · exact ih (hr.of_ok ‹_›)
    · next e => exact ih (hr.of_error e)
    · exact ih h

theorem releaseAll_keeps {s : State} (h : s.mem.Wf) (n : Nat) : Keeps id (releaseAll s n) := by
  unfold releaseAll
  grind [Keeps, Keeps.bind, Stateless.bind, Stop.Canon, ok_bind, releaseComb_keeps]

theorem settle_keeps {s : State} (h : s.mem.Wf) (n : Nat) (l : Loc) (n1 : Nat) : Keeps id (settle s n l n1) := by
  unfold settle
  grind [Keeps, Keeps.bind, Stateless.bind, Stop.Canon, ok_bind, flushComb_keeps]

theorem settleSpan_keeps {s : State} (h : s.mem.Wf) (x : Acx) (n space n1 n2 n3 : Nat) : Keeps id (settleSpan s x n space n1
    n2 n3) := by
  fun_induction settleSpan <;> grind [Keeps, Keeps.bind, Stateless.bind, Stop.Canon, ok_bind, locate_stateless, settle_keeps]

theorem restComb_keeps {s : State} (h : s.mem.Wf) (ham : Nat) (c : Comb) : Keeps id (restComb s ham c) := by
  unfold restComb
  dsimp only
  split
  · exact State.setReeve_wf h ..
  · refine (flushComb_keeps h ..).bind fun t ht => ?_
    split
    · exact .ite ((flushComb_keeps ht ..).bind fun u hu => State.setReeve_wf hu ..) (State.setReeve_wf ht ..)
    · exact State.setReeve_wf ht ..

end Sys2Proof.Machine
end

section
/-! SUPPORT. O60: memory keeps its canonical form (log 3) under what every reeve instruction shares. -/

namespace Sys2Proof.Machine

theorem retire_wf {s : State} (h : s.mem.Wf) (pc : W64) : (retire s pc).mem.Wf :=
  State.count_wf (State.updMe_wf (release_wf h ..) ..) ..

theorem runReeve_wf {f : State → Except Stop (State × Flow)} {s : State} (hf : Keeps Prod.fst (f s)) (h : s.mem.Wf) (len :
    Nat) (p : Guard) :
    (runReeve len p f s).mem.Wf := by
  unfold runReeve
  split
  · exact retire_wf h _
  · split
    · exact retire_wf (hf.of_ok ‹_›) _
    · exact retire_wf (hf.of_ok ‹_›) _
    · exact trapEntry_wf (release_wf h _) _
    · next e => exact trapEntry_wf (release_wf (hf.of_error e) _) _
    · exact register_wf h _
    · exact hf.of_error ‹_›

theorem word_canon {f : State → Except Stop (State × Flow)} {s : State} (hf : Keeps Prod.fst (f s)) (h : s.mem.Wf) (p : Guard) :
    Canon (word p f s) :=
  runReeve_wf hf h ..

theorem word2_canon {f : State → Except Stop (State × Flow)} {s : State} (hf : Keeps Prod.fst (f s)) (h : s.mem.Wf) (p :
    Guard) :
    Canon (word2 p f s) :=
  runReeve_wf hf h ..

theorem toG_canon {s : State} (h : s.mem.Wf) (p : Guard) (d : GReg) (f : State → W64) : Canon (toG p d f s) := by
  refine word_canon ?_ h p
  exact State.updMe_wf h _

theorem toP_canon {s : State} (h : s.mem.Wf) (p : Guard) (d : PReg) (f : Reeve → Bool) : Canon (toP p d f s) := by
  refine word_canon ?_ h p
  exact State.updMe_wf h _

theorem toK_canon {f : Reeve → Except Stop Cap} (hf : ∀ r, Stateless (f r)) {s : State} (h : s.mem.Wf) (p : Guard) (d : KReg) :
    Canon (toK p d f s) := by
  refine word_canon ?_ h p
  exact (hf _).bind fun _ => State.updMe_wf h _

theorem memPlace_keeps {s : State} (h : s.mem.Wf) (kc : KReg) (a : GReg) (imm n align : Nat) (cl : AClass) (need : Nat) :
    Keeps Prod.snd (memPlace s kc a imm n align cl need) :=
  (access_stateless ..).bind fun _ => (settle_keeps h ..).bind fun _ ht => ht

theorem reeveBlock_keeps {s : State} (h : s.mem.Wf) (k : Cap) (off : Int) (n align : Nat) (cl : AClass) : Keeps Prod.snd
    (reeveBlock s k off n align cl) :=
  (checkCapAt_stateless ..).bind fun _ => (settleSpan_keeps h ..).bind fun _ ht => readSpan_keeps ht ..

end Sys2Proof.Machine
end

section
/-! SUPPORT. O60: memory keeps its canonical form (log 3) under integer arithmetic, compares, predicates and transfers of
control (R239 to R246). -/

namespace Sys2Proof.Machine

/-! ### The functions -/

theorem alu_canon {s : State} (h : s.mem.Wf) (p : Guard) (d a b : GReg) (f : W64 → W64 → W64) : Canon (alu p d a b f s) :=
  toG_canon h ..

theorem alu1_canon {s : State} (h : s.mem.Wf) (p : Guard) (d a : GReg) (f : W64 → W64) : Canon (alu1 p d a f s) :=
  toG_canon h ..

/-! ### The instructions -/

theorem execAdd_canon {s : State} (h : s.mem.Wf) (p : Guard) (d a b : GReg) : Canon (execAdd p d a b s) :=
  alu_canon h ..

theorem execSub_canon {s : State} (h : s.mem.Wf) (p : Guard) (d a b : GReg) : Canon (execSub p d a b s) :=
  alu_canon h ..

theorem execAnd_canon {s : State} (h : s.mem.Wf) (p : Guard) (d a b : GReg) : Canon (execAnd p d a b s) :=
  alu_canon h ..

theorem execOr_canon {s : State} (h : s.mem.Wf) (p : Guard) (d a b : GReg) : Canon (execOr p d a b s) :=
  alu_canon h ..

theorem execXor_canon {s : State} (h : s.mem.Wf) (p : Guard) (d a b : GReg) : Canon (execXor p d a b s) :=
  alu_canon h ..

theorem execAndn_canon {s : State} (h : s.mem.Wf) (p : Guard) (d a b : GReg) : Canon (execAndn p d a b s) :=
  alu_canon h ..

theorem execShl_canon {s : State} (h : s.mem.Wf) (p : Guard) (d a b : GReg) : Canon (execShl p d a b s) :=
  alu_canon h ..

theorem execShr_canon {s : State} (h : s.mem.Wf) (p : Guard) (d a b : GReg) : Canon (execShr p d a b s) :=
  alu_canon h ..

theorem execSar_canon {s : State} (h : s.mem.Wf) (p : Guard) (d a b : GReg) : Canon (execSar p d a b s) :=
  alu_canon h ..

theorem execRot_canon {s : State} (h : s.mem.Wf) (p : Guard) (d a b : GReg) : Canon (execRot p d a b s) :=
  alu_canon h ..

theorem execMin_canon {s : State} (h : s.mem.Wf) (p : Guard) (d a b : GReg) : Canon (execMin p d a b s) :=
  alu_canon h ..

theorem execMax_canon {s : State} (h : s.mem.Wf) (p : Guard) (d a b : GReg) : Canon (execMax p d a b s) :=
  alu_canon h ..

theorem execMinu_canon {s : State} (h : s.mem.Wf) (p : Guard) (d a b : GReg) : Canon (execMinu p d a b s) :=
  alu_canon h ..

theorem execMaxu_canon {s : State} (h : s.mem.Wf) (p : Guard) (d a b : GReg) : Canon (execMaxu p d a b s) :=
  alu_canon h ..

theorem execClz_canon {s : State} (h : s.mem.Wf) (p : Guard) (d a : GReg) : Canon (execClz p d a s) :=
  alu1_canon h ..

theorem execCtz_canon {s : State} (h : s.mem.Wf) (p : Guard) (d a : GReg) : Canon (execCtz p d a s) :=
  alu1_canon h ..

theorem execPopc_canon {s : State} (h : s.mem.Wf) (p : Guard) (d a : GReg) : Canon (execPopc p d a s) :=
  alu1_canon h ..

theorem execBrev_canon {s : State} (h : s.mem.Wf) (p : Guard) (d a : GReg) : Canon (execBrev p d a s) :=
  alu1_canon h ..

theorem execSext_canon {s : State} (h : s.mem.Wf) (p : Guard) (d a b : GReg) : Canon (execSext p d a b s) :=
  alu_canon h ..

theorem execMul_canon {s : State} (h : s.mem.Wf) (p : Guard) (d a b : GReg) : Canon (execMul p d a b s) :=
  alu_canon h ..

theorem execMulh_canon {s : State} (h : s.mem.Wf) (p : Guard) (d a b : GReg) : Canon (execMulh p d a b s) :=
  alu_canon h ..

theorem execMulhu_canon {s : State} (h : s.mem.Wf) (p : Guard) (d a b : GReg) : Canon (execMulhu p d a b s) :=
  alu_canon h ..

theorem execDiv_canon {s : State} (h : s.mem.Wf) (p : Guard) (d a b : GReg) : Canon (execDiv p d a b s) :=
  alu_canon h ..

theorem execDivu_canon {s : State} (h : s.mem.Wf) (p : Guard) (d a b : GReg) : Canon (execDivu p d a b s) :=
  alu_canon h ..

theorem execRem_canon {s : State} (h : s.mem.Wf) (p : Guard) (d a b : GReg) : Canon (execRem p d a b s) :=
  alu_canon h ..

theorem execRemu_canon {s : State} (h : s.mem.Wf) (p : Guard) (d a b : GReg) : Canon (execRemu p d a b s) :=
  alu_canon h ..

theorem execAddi_canon {s : State} (h : s.mem.Wf) (p : Guard) (d a : GReg) (imm : BitVec 12) : Canon (execAddi p d a imm s) :=
  alu1_canon h ..

theorem execAndi_canon {s : State} (h : s.mem.Wf) (p : Guard) (d a : GReg) (imm : BitVec 12) : Canon (execAndi p d a imm s) :=
  alu1_canon h ..

theorem execOri_canon {s : State} (h : s.mem.Wf) (p : Guard) (d a : GReg) (imm : BitVec 12) : Canon (execOri p d a imm s) :=
  alu1_canon h ..

theorem execXori_canon {s : State} (h : s.mem.Wf) (p : Guard) (d a : GReg) (imm : BitVec 12) : Canon (execXori p d a imm s) :=
  alu1_canon h ..

theorem execShli_canon {s : State} (h : s.mem.Wf) (p : Guard) (d a : GReg) (imm : BitVec 6) : Canon (execShli p d a imm s) :=
  alu1_canon h ..

theorem execShri_canon {s : State} (h : s.mem.Wf) (p : Guard) (d a : GReg) (imm : BitVec 6) : Canon (execShri p d a imm s) :=
  alu1_canon h ..

theorem execSari_canon {s : State} (h : s.mem.Wf) (p : Guard) (d a : GReg) (imm : BitVec 6) : Canon (execSari p d a imm s) :=
  alu1_canon h ..

theorem execLui_canon {s : State} (h : s.mem.Wf) (p : Guard) (d : GReg) (imm : BitVec 17) : Canon (execLui p d imm s) :=
  toG_canon h ..

theorem execLi_canon {s : State} (h : s.mem.Wf) (p : Guard) (d : GReg) (imm : BitVec 49) : Canon (execLi p d imm s) := by
  refine word2_canon ?_ h _
  exact h

theorem execCmp_canon {s : State} (h : s.mem.Wf) (p : Guard) (comb : BitVec 2) (d : PReg) (a b : GReg) (cc : BitVec 3) : Canon
    (execCmp p comb d a b cc s) :=
  toP_canon h ..

theorem execCmpi_canon {s : State} (h : s.mem.Wf) (p : Guard) (cc : BitVec 2) (d : PReg) (a : GReg) (imm : BitVec 12) : Canon
    (execCmpi p cc d a imm s) :=
  toP_canon h ..

theorem execPand_canon {s : State} (h : s.mem.Wf) (p : Guard) (d a b : PReg) : Canon (execPand p d a b s) :=
  toP_canon h ..

theorem execPor_canon {s : State} (h : s.mem.Wf) (p : Guard) (d a b : PReg) : Canon (execPor p d a b s) :=
  toP_canon h ..

theorem execPxor_canon {s : State} (h : s.mem.Wf) (p : Guard) (d a b : PReg) : Canon (execPxor p d a b s) :=
  toP_canon h ..

theorem execPandn_canon {s : State} (h : s.mem.Wf) (p : Guard) (d a b : PReg) : Canon (execPandn p d a b s) :=
  toP_canon h ..

theorem execPnot_canon {s : State} (h : s.mem.Wf) (p : Guard) (d a : PReg) : Canon (execPnot p d a s) :=
  toP_canon h ..

theorem execPmov_canon {s : State} (h : s.mem.Wf) (p : Guard) (d a : PReg) : Canon (execPmov p d a s) :=
  toP_canon h ..

theorem execPfromg_canon {s : State} (h : s.mem.Wf) (p : Guard) (d : PReg) (a : GReg) : Canon (execPfromg p d a s) :=
  toP_canon h ..

theorem execPtog_canon {s : State} (h : s.mem.Wf) (p : Guard) (d : GReg) (a : PReg) : Canon (execPtog p d a s) :=
  toG_canon h ..

theorem execBr_canon {s : State} (h : s.mem.Wf) (off : BitVec 22) : Canon (execBr off s) := by
  refine word_canon ?_ h _
  exact h

theorem execJal_canon {s : State} (h : s.mem.Wf) (off : BitVec 22) : Canon (execJal off s) := by
  refine word_canon ?_ h _
  exact h

theorem execJalr_canon {s : State} (h : s.mem.Wf) (p : Guard) (d a : GReg) (imm : BitVec 12) : Canon (execJalr p d a imm s) :=
    by
  refine word_canon ?_ h _
  exact (check_stateless ..).bind fun _ => h

theorem execLoop_canon {s : State} (h : s.mem.Wf) (p : Guard) (d : GReg) (imm : BitVec 12) : Canon (execLoop p d imm s) := by
  refine word_canon ?_ h _
  exact h

theorem execTrap_canon {s : State} (h : s.mem.Wf) (p : Guard) (sel : BitVec 12) : Canon (execTrap p sel s) := by
  unfold execTrap
  refine word_canon ?_ h _
  grind [Keeps, Keeps.bind, Stateless.bind, Stop.Canon, ok_bind]

end Sys2Proof.Machine
end

section
/-! SUPPORT. O60: memory keeps its canonical form (log 3) under crier records and their ring (R187, R210, R211), and MSI-X
vectors (R406). -/

namespace Sys2Proof.Machine

theorem raiseMsix_wf {s : State} (h : s.mem.Wf) (vf vec : Nat) : (raiseMsix s vf vec).mem.Wf :=
  h

theorem maskMsix_wf {s : State} (h : s.mem.Wf) (vf vec : Nat) (on : Bool) : (maskMsix s vf vec on).mem.Wf :=
  h

theorem crierPut_wf {s : State} (h : s.mem.Wf) (vf : Nat) (bytes : List Byte) : (crierPut s vf bytes).mem.Wf := by
  unfold crierPut
  dsimp only
  rw [State.setVf_mem]
  split
  · exact countWrite_wf (h.store ..) ..
  · exact h

theorem crierFlush_wf {s : State} (h : s.mem.Wf) (vf : Nat) : (crierFlush s vf).mem.Wf :=
  wf_ite h (crierPut_wf h ..)

theorem crier_wf {s : State} (h : s.mem.Wf) (vf code n cell slot : Nat) (lid : BitVec 32) (payload : List Byte) (forced :
    Bool) : (crier s vf code n cell slot lid payload forced).mem.Wf := by
  unfold crier
  grind [crierFlush_wf, crierPut_wf, raiseMsix_wf, State.count_wf, State.setVf_wf]

theorem crierAt_wf {s : State} (h : s.mem.Wf) (launch code n cell slot : Nat) (payload : List Byte) : (crierAt s launch code n
    cell slot payload).mem.Wf := by
  unfold crierAt
  split
  · exact crier_wf h ..
  · exact h

end Sys2Proof.Machine
end

section
/-! SUPPORT. O60: memory keeps its canonical form (log 3) under the reeve's own memory instructions (R250 to R256). -/

namespace Sys2Proof.Machine

theorem noteStore_wf {s : State} (h : s.mem.Wf) (k : Cap) : (noteStore s k).mem.Wf := by
  unfold noteStore
  split <;> exact h

theorem execLd_canon {s : State} (h : s.mem.Wf) (p : Guard) (d : GReg) (kc : KReg) (a : GReg) (sz : BitVec 2) (x : Bool) (imm
    : BitVec 5) : Canon (execLd p d kc a sz x imm s) := by
  refine word_canon ?_ h _
  exact (memPlace_keeps h ..).bind fun _ ht => (loadLoc_keeps ht ..).bind fun _ hu => hu

theorem execSt_canon {s : State} (h : s.mem.Wf) (p : Guard) (d : GReg) (kc : KReg) (a : GReg) (sz : BitVec 2) (x : Bool) (imm
    : BitVec 5) : Canon (execSt p d kc a sz x imm s) := by
  unfold execSt
  refine word_canon ?_ h _
  grind [Keeps, Keeps.bind, Stateless.bind, Stop.Canon, ok_bind, memPlace_keeps, storeLoc_keeps, noteStore_wf, releaseAll_keeps]

theorem execLdc_canon {s : State} (h : s.mem.Wf) (p : Guard) (d kc : KReg) (a : GReg) (imm : BitVec 5) : Canon (execLdc p d kc
    a imm s) := by
  refine word_canon ?_ h _
  exact (memPlace_keeps h ..).bind fun _ ht => (loadCapLoc_keeps ht ..).bind fun _ hu => hu

theorem capStorePlace_keeps {s : State} (h : s.mem.Wf) (k c : Cap) (off : Nat) : Keeps Prod.snd (capStorePlace s k c off) :=
  (checkCapAt_stateless ..).bind fun _ => (check_stateless ..).bind fun _ => (locate_stateless ..).bind fun _ =>
    (settle_keeps h ..).bind fun _ ht => ht

theorem execStc_canon {s : State} (h : s.mem.Wf) (p : Guard) (d kc : KReg) (a : GReg) (imm : BitVec 5) : Canon (execStc p d kc
    a imm s) := by
  refine word_canon ?_ h _
  exact (capStorePlace_keeps h ..).bind fun _ ht => (storeCapLoc_keeps ht ..).bind fun _ hu => noteStore_wf hu ..

theorem syncRead_keeps {s : State} (h : s.mem.Wf) (x : Acx) (a : Nat) (consume : Bool) : Keeps Prod.snd (syncRead s x a
    consume) := by
  unfold syncRead
  grind [Keeps, Keeps.bind, Stateless.bind, Stop.Canon, ok_bind, await_keeps, loadPhys_keeps, setEmptyN_wf]

theorem execLdsyn_canon {s : State} (h : s.mem.Wf) (p : Guard) (d : GReg) (kc : KReg) (a : GReg) (x : Bool) (imm : BitVec 5) :
    Canon (execLdsyn p d kc a x imm s) := by
  unfold execLdsyn
  refine word_canon ?_ h _
  grind [Keeps, Keeps.bind, Stateless.bind, Stop.Canon, ok_bind, memPlace_keeps, syncRead_keeps, State.updMe_wf, raise_keeps]

theorem execFe_canon {s : State} (h : s.mem.Wf) (p : Guard) (d : GReg) (kc : KReg) (a : GReg) (x : Bool) (imm : BitVec 5) :
    Canon (execFe p d kc a x imm s) := by
  unfold execFe
  refine word_canon ?_ h _
  grind [Keeps, Keeps.bind, Stateless.bind, Stop.Canon, ok_bind, checkCapAt_stateless, releaseAll_keeps, check_stateless,
    access_stateless, setFullN_wf, setEmptyN_wf, raise_keeps, settle_keeps]

theorem atomic_canon {s : State} (h : s.mem.Wf) (p : Guard) (d : GReg) (kc : KReg) (a : GReg) (op : State → PeerOp) (f : State
    → Nat → Option Nat) : Canon (atomic p d kc a op f s) := by
  refine word_canon ?_ h _
  exact (memPlace_keeps h ..).bind fun _ ht => (updateLoc_keeps ht ..).bind fun _ hu => hu

theorem execAtom_canon {s : State} (h : s.mem.Wf) (p : Guard) (d : GReg) (kc : KReg) (a b : GReg) (aop : BitVec 3) : Canon
    (execAtom p d kc a b aop s) :=
  atomic_canon h ..

theorem execSwap_canon {s : State} (h : s.mem.Wf) (p : Guard) (d : GReg) (kc : KReg) (a b : GReg) : Canon (execSwap p d kc a b
    s) :=
  atomic_canon h ..

theorem execCas_canon {s : State} (h : s.mem.Wf) (p : Guard) (d : GReg) (kc : KReg) (a b : GReg) : Canon (execCas p d kc a b
    s) :=
  atomic_canon h ..

theorem execRed_canon {s : State} (h : s.mem.Wf) (p : Guard) (kc : KReg) (a b : GReg) (aop : BitVec 3) :
    Canon (execRed p kc a b aop s) := by
  refine word_canon ?_ h p
  refine (access_stateless ..).bind fun l => ?_
  dsimp only
  refine .ite ?_ ?_
  · exact ((flushComb_keeps h ..).bind fun t ht => sendUpd_keeps ht ..).bind fun t ht => markDirty_wf ht _
  · split
    · exact (restComb_keeps h ..).bind fun t ht => markDirty_wf ht _
    · exact (restComb_keeps h ..).bind fun t ht => markDirty_wf ht _
    · exact ((flushComb_keeps h ..).bind fun t ht => sendUpd_keeps ht ..).bind fun t ht => markDirty_wf ht _

theorem execFence_canon {s : State} (h : s.mem.Wf) (p : Guard) (sets : BitVec 4) (scope : BitVec 3) : Canon (execFence p sets
    scope s) := by
  unfold execFence
  refine word_canon ?_ h _
  grind [Keeps, Keeps.bind, Stateless.bind, Stop.Canon, ok_bind, releaseComb_keeps]

end Sys2Proof.Machine
end

section
/-! SUPPORT. O60: memory keeps its canonical form (log 3) under tensor descriptors and their table (R189 to R193), c-tables
(R202), and the tensor identifier instructions (R279). -/

namespace Sys2Proof.Machine

theorem takeDesc_stateless (s : State) (ctx tid : Nat) : Stateless (takeDesc s ctx tid) := by
  unfold takeDesc
  grind [Stateless, Stateless.bind', Stop.Canon, raise_stateless]

theorem takeCtab_stateless (s : State) (vf tid tab : Nat) : Stateless (takeCtab s vf tid tab) := by
  unfold takeCtab
  grind [Stateless, Stateless.bind', Stop.Canon]

theorem setTid_wf {s : State} (h : s.mem.Wf) (tid : Nat) (d : Desc) : (setTid s tid d).mem.Wf :=
  h

theorem tidArg_stateless (v : W64) (lo : Nat) : Stateless (tidArg v lo) := by
  unfold tidArg
  grind [Stateless, Stateless.bind', Stop.Canon, cfgReject_stateless]

theorem execTidset_canon {s : State} (h : s.mem.Wf) (p : Guard) (a : GReg) (b : KReg) : Canon (execTidset p a b s) := by
  refine word_canon ((tidArg_stateless ..).bind fun tid => (reeveBlock_keeps h ..).bind fun v hv =>
    (locate_stateless ..).bind fun l =>
    (loadCapLoc_keeps hv ..).bind fun w hw => (check_stateless ..).bind fun _ => (check_stateless ..).bind fun _ => ?_) h p
  exact .ite (setTid_wf hw ..) trivial

theorem tidParts.capStorePlaceW_keeps {s : State} (h : s.mem.Wf) (k c : Cap) (off : Nat) : Keeps Prod.snd
    (tidParts.capStorePlaceW s k c off) := by
  unfold tidParts.capStorePlaceW
  grind [Keeps, Keeps.bind, Stateless.bind, Stop.Canon, ok_bind, checkCapAt_stateless, check_stateless, locate_stateless,
    settle_keeps]

theorem tidParts_keeps {s : State} (h : s.mem.Wf) (k c : Cap) (n : Nat) : Keeps Prod.snd (tidParts s k c n) := by
  fun_induction tidParts <;> grind [Keeps, Keeps.bind, Stateless.bind, Stop.Canon, ok_bind, tidParts.capStorePlaceW_keeps]

theorem execTidget_canon {s : State} (h : s.mem.Wf) (p : Guard) (a : GReg) (b : KReg) : Canon (execTidget p a b s) := by
  refine word_canon ((tidArg_stateless ..).bind fun tid => (tidParts_keeps h ..).bind fun v hv => ?_) h p
  refine (foldlM_keeps (fun t x ht => storeCapLoc_keeps ht ..) hv _).bind fun t ht => ?_
  exact wf_ite (markDirty_wf ht _) ht

theorem execTidinv_canon {s : State} (h : s.mem.Wf) (p : Guard) (a : GReg) : Canon (execTidinv p a s) := by
  refine word_canon ?_ h _
  exact (tidArg_stateless ..).bind fun _ => h

end Sys2Proof.Machine
end

section
/-! SUPPORT. O60: memory keeps its canonical form (log 3) under issuing streams and copies, their completion signals, copy
tags, rings and stream barriers (R100, R179 to R182, R257, R264 to R267). -/

namespace Sys2Proof.Machine

/-! ### Signals (R100, R263) -/

theorem completeXfer_wf {s : State} (h : s.mem.Wf) (n xid cell bytes : Nat) : (completeXfer s n xid cell bytes).mem.Wf := by
  unfold completeXfer
  grind [State.setReeve_wf, crierAt_wf]

theorem stepOne_stateless (r : Reeve) (comp n : Nat) : Stateless (stepOne r comp n) := by
  unfold stepOne
  grind [Stateless, Stateless.bind', Stop.Canon, raise_stateless]

theorem startIssue_keeps {s : State} (h : s.mem.Wf) (i : Issue) : Keeps id (startIssue s i) := by
  unfold startIssue
  grind [Keeps, Keeps.bind, Stateless.bind, Stop.Canon, ok_bind, State.setMe_wf, State.setSport_wf, crierAt_wf]

theorem issue_keeps {s : State} (h : s.mem.Wf) (comp n : Nat) {build : State → Except Stop (State × (Comp → Issue))}
    (hb : Keeps Prod.fst (build s)) : Keeps id (issue s comp n build) := by
  unfold issue
  split
  · exact startIssue_keeps h _
  · refine hb.bind fun v hv => (releaseAll_keeps hv _).bind fun t ht => (stepOne_stateless ..).bind fun w => ?_
    exact startIssue_keeps (State.setMe_wf ht _) _

/-! ### Streams (R233, R257) -/

theorem execSspec_canon {s : State} (h : s.mem.Wf) (p : Guard) (port : BitVec 4) (kd kp : KReg) (ga : GReg) (comp : BitVec 2)
    (dir : Bool) (tag : BitVec 6) (tid : BitVec 8) (red : BitVec 4) (cls : BitVec 3) : Canon (execSspec p port kd kp ga comp
    dir tag tid red cls s) := by
  unfold execSspec
  refine word2_canon ?_ h _
  grind [Keeps, Keeps.bind, Stateless.bind, Stop.Canon, ok_bind, issue_keeps, reeveBlock_keeps, cfgReject_keeps,
    checkCapAt_stateless, takeDesc_stateless, markDirty_wf]

/-! ### Copies (R264) -/

theorem execScopy_canon {s : State} (h : s.mem.Wf) (p : Guard) (kd ks : KReg) (gn : GReg) (comp : BitVec 2) (tag : BitVec 6)
    (tid : BitVec 8) (red : BitVec 4) (cls : BitVec 3) : Canon (execScopy p kd ks gn comp tag tid red cls s) := by
  refine word2_canon ?_ h p
  refine (issue_keeps h _ _ ?_).bind fun t ht => ht
  refine (checkCapAt_stateless ..).bind fun _ => (checkCapAt_stateless ..).bind fun _ => (check_stateless ..).bind fun _ =>
    (check_stateless ..).bind fun _ => (check_stateless ..).bind fun _ => ?_
  refine .ite ((check_stateless ..).bind fun _ => (check_stateless ..).bind fun _ => ?_) ?_
  · exact (takeDesc_stateless ..).bind fun _ => wf_ite (markDirty_wf h _) h
  · exact (takeDesc_stateless ..).bind fun _ => wf_ite (markDirty_wf h _) h

/-! ### Copy tags (R265) -/

theorem execTwaitany_canon {s : State} (h : s.mem.Wf) (p : Guard) (d a : GReg) : Canon (execTwaitany p d a s) := by
  unfold execTwaitany
  grind [Canon, Keeps, Stop.Canon, word_canon, State.updMe_wf, await_keeps]

theorem execTwaitall_canon {s : State} (h : s.mem.Wf) (p : Guard) (a : GReg) : Canon (execTwaitall p a s) := by
  unfold execTwaitall
  grind [Canon, Keeps, Stop.Canon, word_canon, await_keeps]

theorem execTfirst_canon {s : State} (h : s.mem.Wf) (p : Guard) (d a : GReg) : Canon (execTfirst p d a s) :=
  toG_canon h ..

theorem execTclr_canon {s : State} (h : s.mem.Wf) (p : Guard) (a : GReg) : Canon (execTclr p a s) := by
  refine word_canon ?_ h _
  exact h

theorem execTread_canon {s : State} (h : s.mem.Wf) (p : Guard) (d : GReg) : Canon (execTread p d s) :=
  toG_canon h ..

/-! ### Ring instructions (R266) -/

theorem execRinit_canon {s : State} (h : s.mem.Wf) (p : Guard) (n : BitVec 4) (a : GReg) : Canon (execRinit p n a s) := by
  refine word_canon ?_ h _
  exact (check_stateless ..).bind fun _ => h

theorem execRawait_canon {s : State} (h : s.mem.Wf) (p : Guard) (d a : GReg) (n : BitVec 4) : Canon (execRawait p d a n s) := by
  unfold execRawait
  refine word_canon ?_ h _
  grind [Keeps, Keeps.bind, Stateless.bind, Stop.Canon, ok_bind, check_stateless, State.setMe_wf, await_keeps]

theorem lowWater_wf {s : State} (h : s.mem.Wf) (n n1 : Nat) : (lowWater s n n1).mem.Wf := by
  unfold lowWater
  grind [crierAt_wf]

theorem execRrel_canon {s : State} (h : s.mem.Wf) (p : Guard) (a : GReg) (n : BitVec 4) : Canon (execRrel p a n s) := by
  unfold execRrel
  refine word_canon ?_ h _
  grind [Keeps, Keeps.bind, Stateless.bind, Stop.Canon, ok_bind, check_stateless, State.setMe_wf, markDirty_wf, lowWater_wf]

theorem execRstat_canon {s : State} (h : s.mem.Wf) (p : Guard) (d : GReg) (n : BitVec 4) : Canon (execRstat p d n s) :=
  toG_canon h ..

/-! ### Stream barriers (R267) -/

theorem sbarPut_canon {s : State} (h : s.mem.Wf) (p : Guard) (kind : Nat) (a : GReg) : Canon (sbarPut p kind a s) := by
  refine word_canon ?_ h _
  exact h

theorem execSbarOrder_canon {s : State} (h : s.mem.Wf) (p : Guard) (a : GReg) : Canon (execSbarOrder p a s) :=
  sbarPut_canon h ..

theorem execSbarConfig_canon {s : State} (h : s.mem.Wf) (p : Guard) (a : GReg) : Canon (execSbarConfig p a s) :=
  sbarPut_canon h ..

theorem execSbarMemphase_canon {s : State} (h : s.mem.Wf) (p : Guard) (a : GReg) : Canon (execSbarMemphase p a s) :=
  sbarPut_canon h ..

theorem execSbarCond_canon {s : State} (h : s.mem.Wf) (p : Guard) (a : GReg) : Canon (execSbarCond p a s) := by
  unfold execSbarCond
  grind [Canon, Keeps, Stop.Canon, word_canon, await_keeps]

end Sys2Proof.Machine
end

section
/-! SUPPORT. O60: memory keeps its canonical form (log 3) under the port operations of a reeve (R268, R269). -/

namespace Sys2Proof.Machine

/-! ### Rounds that are still open (R25) -/

theorem dropForeign_wf {s : State} (h : s.mem.Wf) (n : NodeRef) : (dropForeign s n).mem.Wf := by
  unfold dropForeign
  grind [State.count_wf, recordFault_wf]

theorem portCheck_stateless (s : State) (n : Nat) (dir : Bool) : Stateless (portCheck s n dir) := by
  unfold portCheck
  grind [Stateless, Stateless.bind', Stop.Canon, cfgReject_stateless]

theorem portSend_keeps {s : State} (h : s.mem.Wf) (n : Nat) (t : W64 → Token) (last : Bool) : Keeps Prod.fst (portSend s n t
    last) := by
  unfold portSend
  grind [Keeps, Keeps.bind, Stateless.bind, Stop.Canon, ok_bind, raise_keeps, await_keeps, releaseAll_keeps, dropForeign_wf,
    State.setSport_wf]

theorem execInject_canon {s : State} (h : s.mem.Wf) (p : Guard) (n : BitVec 4) (a : GReg) : Canon (execInject p n a s) := by
  unfold execInject
  refine word_canon ?_ h _
  grind [Keeps, Keeps.bind, Stateless.bind, Stop.Canon, ok_bind, portCheck_stateless, cfgReject_keeps, portSend_keeps]

theorem execMarkp_canon {s : State} (h : s.mem.Wf) (p : Guard) (n : BitVec 4) (a : GReg) : Canon (execMarkp p n a s) := by
  unfold execMarkp
  refine word_canon ?_ h _
  grind [Keeps, Keeps.bind, Stateless.bind, Stop.Canon, ok_bind, portCheck_stateless, portSend_keeps, cfgReject_keeps]

theorem execDrain_canon {s : State} (h : s.mem.Wf) (p : Guard) (d : GReg) (n : BitVec 4) : Canon (execDrain p d n s) := by
  unfold execDrain
  refine word_canon ?_ h _
  grind [Keeps, Keeps.bind, Stateless.bind, Stop.Canon, ok_bind, portCheck_stateless, await_keeps, State.setSport_wf,
    State.updMe_wf]

theorem execPstat_canon {s : State} (h : s.mem.Wf) (p : Guard) (d : GReg) (n : BitVec 4) : Canon (execPstat p d n s) :=
  toG_canon h ..

end Sys2Proof.Machine
end

section
/-! SUPPORT. O60: memory keeps its canonical form (log 3) under work units, barriers, system registers and the miscellaneous
instructions (R94 to R106, R276, R277, R280 to R283). -/

namespace Sys2Proof.Machine

/-! ### Work units (R52, R92, R94) -/

theorem openPorts_wf {s : State} (h : s.mem.Wf) (n n1 : Nat) : (openPorts s n n1).mem.Wf := by
  fun_induction openPorts <;> grind [State.setSport_wf]

/-! ### Barriers (R276) -/

theorem leaveBarriers_wf {s : State} (h : s.mem.Wf) (n : Nat) : (leaveBarriers s n).mem.Wf :=
  h

theorem execBar_canon {s : State} (h : s.mem.Wf) (p : Guard) (d : PReg) (scope : BitVec 3) (arrive : Bool) : Canon (execBar p
    d scope arrive s) := by
  unfold execBar
  refine word_canon ?_ h _
  grind [Keeps, Keeps.bind, Stateless.bind, Stop.Canon, ok_bind, State.updMe_wf, await_keeps, releaseAll_keeps,
    State.updLaunch_wf]

theorem execExit_canon {s : State} (h : s.mem.Wf) (p : Guard) : Canon (execExit p s) := by
  unfold execExit
  refine word_canon ?_ h _
  grind [Keeps, Keeps.bind, Stateless.bind, Stop.Canon, ok_bind, releaseAll_keeps, openPorts_wf, State.setMe_wf,
    leaveBarriers_wf]

/-! ### System registers (R95 to R106, R280) -/

theorem execSrrd_canon {s : State} (h : s.mem.Wf) (p : Guard) (d : GReg) (sel : BitVec 12) : Canon (execSrrd p d sel s) := by
  refine word_canon ?_ h _
  exact (check_stateless ..).bind fun _ => h

theorem execSrwr_canon {s : State} (h : s.mem.Wf) (p : Guard) (a : GReg) (sel : BitVec 12) : Canon (execSrwr p a sel s) := by
  refine word_canon ?_ h _
  exact (check_stateless ..).bind fun _ => (check_stateless ..).bind fun _ => h

theorem execEret_canon {s : State} (h : s.mem.Wf) (p : Guard) : Canon (execEret p s) := by
  refine word_canon ?_ h _
  exact (check_stateless ..).bind fun _ => h

theorem execEvt_canon {s : State} (h : s.mem.Wf) (p : Guard) (a : GReg) : Canon (execEvt p a s) := by
  unfold execEvt
  refine word_canon ?_ h _
  grind [Keeps, Keeps.bind, Stateless.bind, Stop.Canon, ok_bind, crier_wf, State.count_wf]

theorem execRdtime_canon {s : State} (h : s.mem.Wf) (p : Guard) (d : GReg) : Canon (execRdtime p d s) :=
  toG_canon h ..

theorem execIdent_canon {s : State} (h : s.mem.Wf) (p : Guard) (d : GReg) : Canon (execIdent p d s) :=
  toG_canon h ..

theorem execIllegalInstr_canon {s : State} (h : s.mem.Wf) : Canon (execIllegalInstr s) := by
  unfold execIllegalInstr
  grind [Canon, Keeps, Stop.Canon, word_canon, raise_keeps]

theorem fetchTrap_canon {s : State} (h : s.mem.Wf) (t : Trap) : Canon (fetchTrap t s) :=
  word_canon (by trivial) h _

theorem execFetchFault_canon {s : State} (h : s.mem.Wf) (code sub : BitVec 8) (addr : W64) : Canon (execFetchFault code sub
    addr s) := by
  unfold execFetchFault
  grind [Canon, fetchTrap_canon]

end Sys2Proof.Machine
end

section
/-! SUPPORT. O60: memory keeps its canonical form (log 3) under launch parameter blocks, LAUNCH, LWAIT and the end of a launch
(R199, R274, R275, R368, R376). -/

namespace Sys2Proof.Machine

theorem stewardWrite_wf {s : State} (h : s.mem.Wf) (ctx vf va : Nat) (bs : List Byte) : (stewardWrite s ctx vf va bs).mem.Wf
    := by
  unfold stewardWrite
  grind [noteWalk_wf, storePhys_wf]

theorem deliver_wf {s : State} (h : s.mem.Wf) (key : Nat) : (deliver s key).mem.Wf := by
  unfold deliver
  split
  · exact stewardWrite_wf h ..
  · exact h

theorem leaveDevq_wf {s : State} (h : s.mem.Wf) (key : Nat) : (leaveDevq s key).mem.Wf := by
  unfold leaveDevq
  split
  · exact wf_ite (State.setCtx_wf h ..) h
  · exact h

theorem unreserve_wf {s : State} (h : s.mem.Wf) (vf key : Nat) : (unreserve s vf key).mem.Wf :=
  wf_ite (State.setVf_wf h ..) h

theorem State.enter_wf {s : State} (h : s.mem.Wf) (key : Nat) (f : Launch → Launch) : (State.enter s key f).mem.Wf :=
  h

theorem closeLaunch_wf {s : State} (h : s.mem.Wf) (key : Nat) : (closeLaunch s key).mem.Wf := by
  unfold closeLaunch
  grind [State.updLaunch_wf, leaveDevq_wf, State.enter_wf, deliver_wf, crier_wf, unreserve_wf]

theorem newLaunch_wf {s : State} (h : s.mem.Wf) (l : Launch) : (newLaunch s l).1.mem.Wf := by
  unfold newLaunch
  grind [State.setCtx_wf, closeLaunch_wf]

theorem readCaps_keeps {s : State} (h : s.mem.Wf) (x : Acx) (space ea n : Nat) : Keeps Prod.snd (readCaps s x space ea n) := by
  fun_induction readCaps <;> grind [Keeps, Keeps.bind, Stateless.bind, Stop.Canon, ok_bind, locate_stateless, loadCapLoc_keeps]

theorem execLaunch_canon {s : State} (h : s.mem.Wf) (p : Guard) (d : GReg) (a : KReg) : Canon (execLaunch p d a s) := by
  refine word_canon ?_ h p
  refine (reeveBlock_keeps h ..).bind fun v hv => (check_stateless ..).bind fun _ => (check_stateless ..).bind fun _ => .ite ?_ ?_
  · refine (checkCapAt_stateless ..).bind fun _ => (readCaps_keeps hv ..).bind fun u hu => (check_stateless ..).bind fun _ =>
      (releaseAll_keeps hu _).bind fun t ht => ?_
    exact State.updMe_wf (newLaunch_wf (markDirty_wf ht _) _) _
  · refine (checkCapAt_stateless ..).bind fun _ => (settleSpan_keeps hv ..).bind fun t ht => (readCaps_keeps ht ..).bind fun w hw =>
      (checkCapAt_stateless ..).bind fun _ => (readCaps_keeps hw ..).bind fun u hu => (check_stateless ..).bind fun _ =>
      (releaseAll_keeps hu _).bind fun t ht => ?_
    exact State.updMe_wf (newLaunch_wf (markDirty_wf ht _) _) _

theorem execLwait_canon {s : State} (h : s.mem.Wf) (p : Guard) (d a : GReg) : Canon (execLwait p d a s) := by
  unfold execLwait
  grind [Canon, Keeps, Stop.Canon, word_canon, State.updMe_wf, await_keeps]

end Sys2Proof.Machine
end

section
/-! SUPPORT. O60: memory keeps its canonical form (log 3) under actor slots. -/

namespace Sys2Proof.Machine

/-! ### The launch of a node -/

theorem nodeFault_wf {s : State} (h : s.mem.Wf) (n : NodeRef) (t : Trap) : (nodeFault s n t).mem.Wf :=
  h

theorem markActive_wf {s : State} (h : s.mem.Wf) (i : Nat) : (markActive s i).mem.Wf :=
  h

/-! ### Slots and their headers (R224) -/

theorem State.updSlot_wf {s : State} (h : s.mem.Wf) (n : NodeRef) (f : Slot → Slot) : (State.updSlot s n f).mem.Wf :=
  h

theorem State.updFiring_wf {s : State} (h : s.mem.Wf) (n : NodeRef) (f : Firing → Firing) : (State.updFiring s n f).mem.Wf :=
  h

/-! ### Faults of a slot (R307) -/

theorem haltSlot_wf {s : State} (h : s.mem.Wf) (n : NodeRef) (t : Trap) : (haltSlot s n t).mem.Wf :=
  h

theorem checkSlot_wf {s : State} (h : s.mem.Wf) (n : NodeRef) : (checkSlot s n).mem.Wf := by
  unfold checkSlot
  grind [haltSlot_wf]

/-! ### Publishing (R289, R290) -/

theorem commitFiring_wf {s : State} (h : s.mem.Wf) (n : NodeRef) : (commitFiring s n).mem.Wf := by
  unfold commitFiring
  grind [foldl_wf, haltSlot_wf, State.updSlot_wf, markActive_wf, State.count_wf]

end Sys2Proof.Machine
end

section
/-! SUPPORT. O60: memory keeps its canonical form (log 3) under running an actor's instructions. -/

namespace Sys2Proof.Machine

/-! ### What every instruction shares -/

theorem pure_keeps (f : Fx → ActorOp → Val) : EffKeeps (pure_ f) := fun _ _ _ h =>
  h

theorem effI2_keeps (f : Nat → Nat → Nat → Nat) : EffKeeps (effI2 f) := fun _ _ _ h =>
  h

theorem effI1_keeps (f : Nat → Nat → Nat) : EffKeeps (effI1 f) := fun _ _ _ h =>
  h

theorem effF2_keeps (f : Nat → Num → Num → Num) : EffKeeps (effF2 f) := fun _ _ _ h =>
  h

theorem effF1_keeps (f : Num → Num) : EffKeeps (effF1 f) := fun _ _ _ h =>
  h

theorem stage_wf {s : State} (h : s.mem.Wf) (n : NodeRef) (p j : Nat) (v : Val) (tag : Option W64) : (stage s n p j v
    tag).mem.Wf :=
  h

theorem addPend_wf {s : State} (h : s.mem.Wf) (n : NodeRef) (p k : Nat) : (addPend s n p k).mem.Wf :=
  h

theorem rate_stateless {α : Type} : Stateless (rate : Except Stop α) :=
  trivial

theorem rate_keeps {α : Type} (g : α → State) : Keeps g (rate : Except Stop α) :=
  trivial

theorem publish_keeps {s : State} (h : s.mem.Wf) (n : NodeRef) (p : Nat) (v : Val) (tag : Option W64) : Keeps id (publish s n
    p v tag) := by
  unfold publish
  grind [Keeps, Keeps.bind, Stateless.bind, Stop.Canon, ok_bind, addPend_wf, stage_wf, rate_keeps]

theorem deliverTo_keeps {s : State} (h : s.mem.Wf) (n : NodeRef) (tw : BitVec 11) (v : Option Val) : Keeps id (deliverTo s n
    tw v) := by
  unfold deliverTo
  grind [Keeps, Keeps.bind, Stateless.bind, Stop.Canon, ok_bind, State.updFiring_wf, publish_keeps]

theorem afterAccess_keeps {s : State} (h : s.mem.Wf) {r : Except Stop State} (hr : Keeps id r) : Keeps id (afterAccess s r) :=
    by
  unfold afterAccess
  split
  · exact h
  · exact hr

theorem runInstr_keeps {eff : Eff} (he : EffKeeps eff) {s : State} (h : s.mem.Wf) (n : NodeRef) (opc : Nat) (o : ActorOp) :
    Keeps id (runInstr n opc eff o s) := by
  unfold runInstr
  extract_lets f i reads next bad get taint
  have hnext (u : State) (b : Bool) (hu : u.mem.Wf) : (next u b).mem.Wf := State.updFiring_wf hu ..
  rcases s.instCtx n.inst with ⟨ctx, vf⟩
  refine .ite (by trivial) (.ite ?_ ?_)
  · exact (deliverTo_keeps h ..).bind fun t ht => (deliverTo_keeps ht ..).bind fun u hu => hnext u _ hu
  · refine (he _ _ _ h).bind fun v hv => ?_
    obtain ⟨r, t⟩ := v
    cases r with
    | none => exact hnext _ _ hv
    | some v =>
      exact afterAccess_keeps hv ((deliverTo_keeps hv ..).bind fun t ht => (deliverTo_keeps ht ..).bind fun u hu => hnext u _ hu)

/-! ### Ports and state (R296) -/

theorem effPeek_keeps : EffKeeps (effPeek) := by
  intro x o s h
  unfold effPeek
  split <;> exact h

theorem effAdv_keeps : EffKeeps (effAdv) := by
  intro x o s h
  unfold effAdv
  split <;> exact h

theorem effPut_keeps : EffKeeps (effPut) := by
  intro x o s h
  unfold effPut
  grind [Keeps, Stop.Canon, stage_wf, rate_keeps]

theorem effPadv_keeps : EffKeeps (effPadv) := by
  intro x o s h
  unfold effPadv
  grind [Keeps, Stop.Canon, addPend_wf, rate_keeps]

theorem effHrd_keeps : EffKeeps (effHrd) := fun _ _ _ h =>
  h

theorem effHwr_keeps : EffKeeps (effHwr) := fun _ _ _ h =>
  h

theorem effQrd_keeps : EffKeeps (effQrd) := fun _ _ _ h =>
  h

theorem effQwr_keeps : EffKeeps (effQwr) := fun _ _ _ h =>
  h

theorem effConst_keeps : EffKeeps (effConst) := fun _ _ _ h =>
  h

theorem effConsth_keeps : EffKeeps (effConsth) := fun _ _ _ h =>
  h

theorem effLaneid_keeps : EffKeeps (effLaneid) := fun _ _ _ h =>
  h

theorem effTagrd_keeps : EffKeeps (effTagrd) := fun _ _ _ h =>
  h

theorem effTagrdKind_keeps : EffKeeps (effTagrdKind) := fun _ _ _ h =>
  h

theorem effMaskrd_keeps : EffKeeps (effMaskrd) := fun _ _ _ h =>
  h

theorem effMaskset_keeps : EffKeeps (effMaskset) := fun _ _ _ h =>
  h

/-! ### Integer (R297) -/

theorem effIadd_keeps : EffKeeps (effIadd) := fun _ _ _ h =>
  h

theorem effIsub_keeps : EffKeeps (effIsub) := fun _ _ _ h =>
  h

theorem effImul_keeps : EffKeeps (effImul) := fun _ _ _ h =>
  h

theorem effImulh_keeps : EffKeeps (effImulh) := fun _ _ _ h =>
  h

theorem effIand_keeps : EffKeeps (effIand) := fun _ _ _ h =>
  h

theorem effIor_keeps : EffKeeps (effIor) := fun _ _ _ h =>
  h

theorem effIxor_keeps : EffKeeps (effIxor) := fun _ _ _ h =>
  h

theorem effIshl_keeps : EffKeeps (effIshl) := fun _ _ _ h =>
  h

theorem effIshr_keeps : EffKeeps (effIshr) := fun _ _ _ h =>
  h

theorem effIsar_keeps : EffKeeps (effIsar) := fun _ _ _ h =>
  h

theorem effImin_keeps : EffKeeps (effImin) := fun _ _ _ h =>
  h

theorem effImax_keeps : EffKeeps (effImax) := fun _ _ _ h =>
  h

theorem effIabs_keeps : EffKeeps (effIabs) := fun _ _ _ h =>
  h

theorem effIneg_keeps : EffKeeps (effIneg) := fun _ _ _ h =>
  h

theorem effIsatadd_keeps : EffKeeps (effIsatadd) := fun _ _ _ h =>
  h

theorem effIsatsub_keeps : EffKeeps (effIsatsub) := fun _ _ _ h =>
  h

/-! ### Floating point (R298) -/

theorem effFadd_keeps : EffKeeps (effFadd) := fun _ _ _ h =>
  h

theorem effFsub_keeps : EffKeeps (effFsub) := fun _ _ _ h =>
  h

theorem effFmul_keeps : EffKeeps (effFmul) := fun _ _ _ h =>
  h

theorem effFfma_keeps : EffKeeps (effFfma) := fun _ _ _ h =>
  h

theorem effFmin_keeps : EffKeeps (effFmin) := fun _ _ _ h =>
  h

theorem effFmax_keeps : EffKeeps (effFmax) := fun _ _ _ h =>
  h

theorem effFabs_keeps : EffKeeps (effFabs) := fun _ _ _ h =>
  h

theorem effFneg_keeps : EffKeeps (effFneg) := fun _ _ _ h =>
  h

theorem effFrcp_keeps : EffKeeps (effFrcp) := fun _ _ _ h =>
  h

theorem effFrsq_keeps : EffKeeps (effFrsq) := fun _ _ _ h =>
  h

theorem effFexp2_keeps : EffKeeps (effFexp2) := fun _ _ _ h =>
  h

theorem effFlog2_keeps : EffKeeps (effFlog2) := fun _ _ _ h =>
  h

theorem effFtanh_keeps : EffKeeps (effFtanh) := fun _ _ _ h =>
  h

theorem effFsinpi_keeps : EffKeeps (effFsinpi) := fun _ _ _ h =>
  h

theorem effFcospi_keeps : EffKeeps (effFcospi) := fun _ _ _ h =>
  h

theorem effFrnd_keeps : EffKeeps (effFrnd) := fun _ _ _ h =>
  h

/-! ### Compare and select (R299) -/

theorem effIcmp_keeps : EffKeeps (effIcmp) := fun _ _ _ h =>
  h

theorem effFcmp_keeps : EffKeeps (effFcmp) := fun _ _ _ h =>
  h

theorem effSel_keeps : EffKeeps (effSel) := fun _ _ _ h =>
  h

theorem effPand_keeps : EffKeeps (effPand) := fun _ _ _ h =>
  h

theorem effPor_keeps : EffKeeps (effPor) := fun _ _ _ h =>
  h

theorem effPnot_keeps : EffKeeps (effPnot) := fun _ _ _ h =>
  h

theorem effAnyl_keeps : EffKeeps (effAnyl) := fun _ _ _ h =>
  h

theorem effAlll_keeps : EffKeeps (effAlll) := fun _ _ _ h =>
  h

/-! ### Conversions (R300) -/

theorem effCvtfi_keeps : EffKeeps (effCvtfi) := fun _ _ _ h =>
  h

theorem effCvtif_keeps : EffKeeps (effCvtif) := fun _ _ _ h =>
  h

theorem effCvtfb_keeps : EffKeeps (effCvtfb) := fun _ _ _ h =>
  h

theorem effCvtbf_keeps : EffKeeps (effCvtbf) := fun _ _ _ h =>
  h

theorem effPack_keeps : EffKeeps (effPack) := fun _ _ _ h =>
  h

theorem effUnpack_keeps : EffKeeps (effUnpack) := fun _ _ _ h =>
  h

/-! ### Lanes (R301) -/

theorem effShuf_keeps : EffKeeps (effShuf) := fun _ _ _ h =>
  h

theorem effBcast_keeps : EffKeeps (effBcast) := fun _ _ _ h =>
  h

theorem effRotl_keeps : EffKeeps (effRotl) := fun _ _ _ h =>
  h

theorem effRsum_keeps : EffKeeps (effRsum) := fun _ _ _ h =>
  h

theorem effRmax_keeps : EffKeeps (effRmax) := fun _ _ _ h =>
  h

theorem effRmin_keeps : EffKeeps (effRmin) := fun _ _ _ h =>
  h

theorem effScan_keeps : EffKeeps (effScan) := fun _ _ _ h =>
  h

theorem effCompact_keeps : EffKeeps (effCompact) := fun _ _ _ h =>
  h

theorem effExpand_keeps : EffKeeps (effExpand) := fun _ _ _ h =>
  h

/-! ### Scratchpad (R302) -/

theorem slotCap_stateless (s : State) (n : NodeRef) : Stateless (slotCap s n) := by
  unfold slotCap
  grind [Stateless, Stateless.bind', Stop.Canon, raise_stateless]

theorem poisonLoad_wf {s : State} (h : s.mem.Wf) (n : NodeRef) (w : Nat) (t : Trap) : (poisonLoad s n w t).2.mem.Wf :=
  recordPoison_wf h ..

theorem orPoison_keeps {s : State} (h : s.mem.Wf) (x : Fx) {r : Except Stop (Option Val × State)} (hr : Keeps Prod.snd r) :
    Keeps Prod.snd (orPoison s x r) := by
  unfold orPoison
  split
  · exact poisonLoad_wf h ..
  · exact poisonLoad_wf hr ..
  · exact hr

theorem orRecord_keeps {s : State} (h : s.mem.Wf) (x : Fx) {r : Except Stop State} (hr : Keeps id r) :
    Keeps Prod.snd (orRecord s x r) := by
  unfold orRecord
  split
  · exact hr
  · exact nodeFault_wf (recordPoison_wf h ..) ..
  · exact nodeFault_wf (recordPoison_wf hr ..) ..
  · exact hr

theorem slotPlaceOf_stateless (s : State) (n : NodeRef) (k : Cap) (off : Int) (z : Nat) (cl : AClass) (need : Nat) : Stateless
    (slotPlaceOf s n k off z cl need) := by
  unfold slotPlaceOf
  grind [Stateless, Stateless.bind', Stop.Canon, access_stateless, await_stateless]

theorem effSpld_keeps : EffKeeps effSpld := fun x _ _ h =>
  .ite h (orPoison_keeps h x ((slotCap_stateless ..).bind fun _ => (slotPlaceOf_stateless ..).bind fun _ =>
    (loadLoc_keeps h ..).bind fun _ hv => hv))

theorem writeMasked_keeps {s : State} (h : s.mem.Wf) (x : Acx) (l : Loc) (on : List Bool) (bs : List Byte) (full : Bool) :
    Keeps id (writeMasked s x l on bs full) := by
  unfold writeMasked
  grind [Keeps, Keeps.bind, Stateless.bind, Stop.Canon, ok_bind, foldl_wf, foldlM_keeps, storePhys_wf, writeWin_wf,
    sendPeer_wf, storeLoc_keeps]

theorem storePoison_stateless (s : State) (x : Fx) : Stateless (storePoison s x) := by
  unfold storePoison
  grind [Stateless, Stateless.bind', Stop.Canon]

theorem effSpst_keeps : EffKeeps effSpst := fun x _ _ h =>
  (storePoison_stateless ..).bind fun _ => .ite h (orRecord_keeps h x ((slotCap_stateless ..).bind fun _ =>
    (slotPlaceOf_stateless ..).bind fun _ => (writeMasked_keeps h ..).bind fun _ ht => wf_ite ht ht))

theorem effSpldsyn_keeps : EffKeeps effSpldsyn := fun x o s h => by
  refine .ite h (orPoison_keeps h x ((slotCap_stateless ..).bind fun k => (slotPlaceOf_stateless ..).bind fun l => ?_))
  split
  · exact (syncRead_keeps h ..).bind fun v hv => hv
  · trivial

theorem effSpred_keeps : EffKeeps effSpred := fun x _ _ h =>
  (storePoison_stateless ..).bind fun _ => .ite h (orRecord_keeps h x ((slotCap_stateless ..).bind fun _ =>
    (access_stateless ..).bind fun _ => (sendUpd_keeps h ..).bind fun _ ht => ht))

/-! ### Tensor descriptors (R303) -/

theorem effTidld_keeps : EffKeeps (effTidld) := fun _ _ _ h =>
  h

/-! ### Tokens and calls (R304) -/

theorem freeVal_wf {s : State} (h : s.mem.Wf) (w : Nat) : (freeVal s w).2.mem.Wf :=
  h

theorem effEmitctl_keeps : EffKeeps effEmitctl := fun _ _ _ h =>
  (publish_keeps h ..).bind fun _ ht => .ite ht ht

theorem effMark_keeps : EffKeeps (effMark) := fun _ _ _ h =>
  h

theorem effFault_keeps : EffKeeps effFault := fun _ _ _ _ => trivial

theorem effCallreq_keeps : EffKeeps (effCallreq) := by
  intro x o s h
  unfold effCallreq
  grind [Keeps, Stop.Canon, cfgReject_keeps, State.updFiring_wf]

theorem effActorEvt_keeps : EffKeeps effActorEvt := fun _ _ _ h =>
  State.count_wf (State.count_wf (crierAt_wf h ..) ..) ..

/-! ### Video (R305) -/

theorem effMvsplit_keeps : EffKeeps (effMvsplit) := fun _ _ _ h =>
  h

theorem effQpscale_keeps : EffKeeps (effQpscale) := fun _ _ _ h =>
  h

theorem effZigzag_keeps : EffKeeps (effZigzag) := fun _ _ _ h =>
  h

theorem effErracc_keeps : EffKeeps (effErracc) := fun _ _ _ h =>
  h

end Sys2Proof.Machine
end

section
/-! SUPPORT. O60: memory keeps its canonical form (log 3) under firings (R287 to R294). -/

namespace Sys2Proof.Machine

/-! ### Beginning and ending -/

theorem beginFiring_wf {s : State} (h : s.mem.Wf) (n : NodeRef) (close : Bool) (tag : W64) : (beginFiring s n close
    tag).mem.Wf := by
  unfold beginFiring
  grind [foldl_wf, foldlM_keeps, takeDesc_stateless, takeCtab_stateless, State.updSlot_wf, haltSlot_wf]

theorem passMarkers_wf {s : State} (h : s.mem.Wf) (n : NodeRef) (m : Token) : (passMarkers s n m).mem.Wf :=
  h

theorem requestCalls_wf {s : State} (h : s.mem.Wf) (n : NodeRef) (f : Firing) : (requestCalls s n f).mem.Wf := by
  unfold requestCalls
  grind [foldl_wf]

theorem bumpWaited_wf {s : State} (h : s.mem.Wf) (n : NodeRef) : (bumpWaited s n).mem.Wf :=
  h

theorem endFiring_wf {s : State} (h : s.mem.Wf) (n : NodeRef) : (endFiring s n).mem.Wf := by
  unfold endFiring
  grind [commitFiring_wf, bumpWaited_wf, requestCalls_wf, passMarkers_wf, checkSlot_wf]

theorem stepFiring_wf {eff : Eff} (he : EffKeeps eff) {s : State} (h : s.mem.Wf) (n : NodeRef) (opc : Nat) (o : ActorOp) :
    (stepFiring n opc eff o s).mem.Wf := by
  have hr := runInstr_keeps he h n opc o
  unfold stepFiring
  split
  · next u e =>
    have hu := release_wf (hr.of_ok e) (.node n)
    dsimp only
    split
    · exact endFiring_wf hu _
    · exact hu
  · exact haltSlot_wf (release_wf h _) ..
  · next u t e => exact haltSlot_wf (release_wf (hr.of_error e) _) ..
  · exact State.updFiring_wf (register_wf h _) ..
  · next u w e => exact State.updFiring_wf (hr.of_error e) ..

theorem actorWord_canon {eff : Eff} (he : EffKeeps eff) {s : State} (h : s.mem.Wf) (opc : Nat) (o : ActorOp) :
    Canon (actorWord opc eff o s) := by
  unfold actorWord
  split
  · exact h
  · next n _ =>
    split
    · exact h
    · split
      · exact stepFiring_wf he h ..
      · split
        · have hb := beginFiring_wf h n false (firingTag (s.slotAt n))
          exact wf_ite (stepFiring_wf he hb ..) hb
        · exact h

/-! ### Whole firings -/

/-- Every effect of an actor instruction keeps the canonical form. -/
theorem effKeeps_of_actorEff {i : Instr} {op : Nat} {eff : Eff} {o : ActorOp} (h : actorEff i = some (op, eff, o)) :
    EffKeeps eff := by
  unfold actorEff at h
  split at h <;> cases h
  exacts [effPeek_keeps, effAdv_keeps, effPut_keeps, effPadv_keeps, effHrd_keeps, effHwr_keeps, effQrd_keeps, effQwr_keeps,
    effConst_keeps, effConsth_keeps, effLaneid_keeps, effTagrd_keeps, effTagrdKind_keeps, effMaskrd_keeps,
    effMaskset_keeps, effIadd_keeps, effIsub_keeps, effImul_keeps, effImulh_keeps, effIand_keeps, effIor_keeps,
    effIxor_keeps, effIshl_keeps, effIshr_keeps, effIsar_keeps, effImin_keeps, effImax_keeps, effIabs_keeps,
    effIneg_keeps, effIsatadd_keeps, effIsatsub_keeps, effFadd_keeps, effFsub_keeps, effFmul_keeps, effFfma_keeps,
    effFmin_keeps, effFmax_keeps, effFabs_keeps, effFneg_keeps, effFrcp_keeps, effFrsq_keeps, effFexp2_keeps,
    effFlog2_keeps, effFtanh_keeps, effFsinpi_keeps, effFcospi_keeps, effFrnd_keeps, effIcmp_keeps, effFcmp_keeps,
    effSel_keeps, effPand_keeps, effPor_keeps, effPnot_keeps, effAnyl_keeps, effAlll_keeps, effCvtfi_keeps,
    effCvtif_keeps, effCvtfb_keeps, effCvtbf_keeps, effPack_keeps, effUnpack_keeps, effShuf_keeps, effBcast_keeps,
    effRotl_keeps, effRsum_keeps, effRmax_keeps, effRmin_keeps, effScan_keeps, effCompact_keeps, effExpand_keeps,
    effSpld_keeps, effSpst_keeps, effSpldsyn_keeps, effSpred_keeps, effTidld_keeps, effEmitctl_keeps, effMark_keeps,
    effFault_keeps, effCallreq_keeps, effActorEvt_keeps, effMvsplit_keeps, effQpscale_keeps, effZigzag_keeps,
    effErracc_keeps]

theorem runBlock_wf {s : State} (h : s.mem.Wf) (n : NodeRef) (k : Nat) : (runBlock n k s).mem.Wf := by
  induction k generalizing s with
  | zero => exact h
  | succ k ih =>
    unfold runBlock
    dsimp only
    split
    · exact haltSlot_wf h ..
    · next op eff o e =>
      obtain ⟨i, -, hi⟩ := Option.bind_eq_some_iff.mp e
      have hs := stepFiring_wf (effKeeps_of_actorEff hi) h n op o
      split
      · exact hs
      · exact wf_ite hs (ih hs)

theorem execActorDataFiring_canon {s : State} (h : s.mem.Wf) (n : NodeRef) : Canon (execActorDataFiring n s) := by
  unfold execActorDataFiring
  grind [Canon, runBlock_wf, beginFiring_wf]

theorem execMarkerStep_canon {s : State} (h : s.mem.Wf) (n : NodeRef) : Canon (execMarkerStep n s) := by
  unfold execMarkerStep
  grind [Canon, runBlock_wf, haltSlot_wf, beginFiring_wf, checkSlot_wf, bumpWaited_wf, passMarkers_wf]

theorem execWindowWriteApply_canon {s : State} (h : s.mem.Wf) (n : NodeRef) : Canon (execWindowWriteApply n s) := by
  unfold execWindowWriteApply
  split <;> exact h

theorem execFiringWeightUpdate_canon {s : State} (h : s.mem.Wf) (n : NodeRef) : Canon (execFiringWeightUpdate n s) := by
  unfold execFiringWeightUpdate
  split <;> exact h

theorem abandonFiring_wf {s : State} (h : s.mem.Wf) (n : NodeRef) : (abandonFiring s n).mem.Wf :=
  h

end Sys2Proof.Machine
end

section
/-! SUPPORT. O60: memory keeps its canonical form (log 3) under circuits (R26, R30, R32, R176 to R178, R310, R395). -/

namespace Sys2Proof.Machine

theorem send_wf {s : State} (h : s.mem.Wf) (n : NodeRef) (port : Nat) (t : Token) : (send s n port t).mem.Wf :=
  h

/-! ### Off an output port -/

theorem takeOut_finds {s : State} (h : s.mem.Wf) (n : NodeRef) (port : Nat) : Finds Prod.snd (takeOut s n port) := by
  unfold takeOut
  grind [Finds, Finds.bind, State.updSlot_wf, State.setSport_wf, State.setCellAt_wf]

theorem linkOut_wf {s : State} (h : s.mem.Wf) (n i : Nat) : (linkOut s n i).mem.Wf := by
  unfold linkOut
  grind [Finds, takeOut_finds, State.updInst_wf]

/-! ### Into an input buffer -/

theorem enterIn_wf {s : State} (h : s.mem.Wf) (n : NodeRef) (port : Nat) (ctrl : Bool) (t : Token) : (enterIn s n port ctrl
    t).mem.Wf := by
  unfold enterIn
  grind [State.count_wf, nodeFault_wf, State.setCellAt_wf, checkSlot_wf, State.updSlot_wf, State.setSport_wf]

theorem linkIn_wf {s : State} (h : s.mem.Wf) (n i : Nat) : (linkIn s n i).mem.Wf := by
  unfold linkIn
  grind [enterIn_wf, State.updInst_wf]

theorem State.updCirc_wf {s : State} (h : s.mem.Wf) (n i : Nat) (f : Circ → Circ) : (State.updCirc s n i f).mem.Wf :=
  h

theorem execLinkTokenTransfer_canon {s : State} (h : s.mem.Wf) (n circ hop : Nat) : Canon (execLinkTokenTransfer n circ hop s)
    := by
  unfold execLinkTokenTransfer
  grind [Canon, linkOut_wf, State.updCirc_wf, linkIn_wf]

theorem execCreditReturn_canon {s : State} (h : s.mem.Wf) (n circ : Nat) : Canon (execCreditReturn n circ s) :=
  h

end Sys2Proof.Machine
end

section
/-! SUPPORT. O60: memory keeps its canonical form (log 3) under what every operator node shares (R308, R309). -/

namespace Sys2Proof.Machine

/-! ### Acting -/

theorem haltNode_wf {s : State} (h : s.mem.Wf) (n : NodeRef) (t : Trap) : (haltNode s n t).mem.Wf :=
  h

theorem poisonHalt_wf {s : State} (h : s.mem.Wf) (n : NodeRef) : (poisonHalt s n).mem.Wf :=
  h

theorem popIns_wf {s : State} (h : s.mem.Wf) (n : NodeRef) (ps : List Nat) : (popIns s n ps).mem.Wf :=
  h

theorem sendAll_wf {s : State} (h : s.mem.Wf) (n : NodeRef) (ps : List Nat) (t : Token) : (sendAll s n ps t).mem.Wf :=
  foldl_wf (fun _ _ ht => send_wf ht ..) h _

end Sys2Proof.Machine
end

section
/-! SUPPORT. O60: memory keeps its canonical form (log 3) under the operator kinds JOIN, STEER, MERGE, COUNT, FILTER,
COALESCE, FANOUT and REDUCE (R312 to R320). -/

namespace Sys2Proof.Machine

/-! ### JOIN (R312) -/

theorem setJoin_wf {s : State} (h : s.mem.Wf) (n : NodeRef) (j : JoinSt) : (setJoin s n j).mem.Wf :=
  h

theorem gatherWord_wf {s : State} (h : s.mem.Wf) (n : NodeRef) : (gatherWord s n).mem.Wf := by
  unfold gatherWord
  grind [haltNode_wf, markActive_wf, State.setCellAt_wf]

theorem execJoinCombine_canon {s : State} (h : s.mem.Wf) (n : NodeRef) : Canon (execJoinCombine n s) := by
  unfold execJoinCombine
  grind [Canon, setJoin_wf, send_wf, gatherWord_wf, haltNode_wf, popIns_wf]

/-! ### STEER (R313) -/

theorem execSteerRoute_canon {s : State} (h : s.mem.Wf) (n : NodeRef) : Canon (execSteerRoute n s) := by
  unfold execSteerRoute
  grind [Canon, poisonHalt_wf, send_wf, popIns_wf, haltNode_wf]

/-! ### MERGE (R314) -/

theorem execMergeSequence_canon {s : State} (h : s.mem.Wf) (n : NodeRef) : Canon (execMergeSequence n s) := by
  unfold execMergeSequence
  grind [Canon, poisonHalt_wf, haltNode_wf, send_wf, popIns_wf]

theorem execMergeKey_canon {s : State} (h : s.mem.Wf) (n : NodeRef) : Canon (execMergeKey n s) := by
  unfold execMergeKey
  grind [Canon, haltNode_wf, send_wf, popIns_wf]

/-! ### LOOPHEAD (R316) -/

theorem setLoop_wf {s : State} (h : s.mem.Wf) (n : NodeRef) (l : LoopSt) : (setLoop s n l).mem.Wf :=
  h

theorem bumpDiscard_wf {s : State} (h : s.mem.Wf) (n : NodeRef) : (bumpDiscard s n).mem.Wf := by
  unfold bumpDiscard
  grind [State.setCellAt_wf]

theorem loopIssue_wf {s : State} (h : s.mem.Wf) (n : NodeRef) (l : LoopSt) (t : Token) : (loopIssue s n l t).mem.Wf := by
  unfold loopIssue
  split <;> exact h

theorem loopEntry_wf {s : State} (h : s.mem.Wf) (n : NodeRef) (l : LoopSt) (t : Token) : (loopEntry s n l t).mem.Wf := by
  unfold loopEntry
  grind [setLoop_wf, send_wf, popIns_wf]

theorem loopNext_wf {s : State} (h : s.mem.Wf) (n : NodeRef) (l : LoopSt) : (loopNext s n l).mem.Wf :=
  h

theorem loopBack_wf {s : State} (h : s.mem.Wf) (n : NodeRef) (l : LoopSt) (t : Token) : (loopBack s n l t).mem.Wf := by
  unfold loopBack
  grind [popIns_wf, bumpDiscard_wf, setLoop_wf, loopNext_wf, send_wf]

theorem execLoopheadMerge_canon {s : State} (h : s.mem.Wf) (n : NodeRef) : Canon (execLoopheadMerge n s) := by
  unfold execLoopheadMerge
  grind [Canon, loopIssue_wf, popIns_wf, setLoop_wf, send_wf, loopEntry_wf, bumpDiscard_wf, loopBack_wf, loopNext_wf]

/-! ### COUNT (R315, R316) -/

theorem setCount_wf {s : State} (h : s.mem.Wf) (n : NodeRef) (x : CountSt) : (setCount s n x).mem.Wf :=
  h

theorem execCountIndex_canon {s : State} (h : s.mem.Wf) (n : NodeRef) : Canon (execCountIndex n s) := by
  unfold execCountIndex
  grind [Canon, poisonHalt_wf, setCount_wf, popIns_wf, send_wf]

theorem execCountLoop_canon {s : State} (h : s.mem.Wf) (n : NodeRef) : Canon (execCountLoop n s) := by
  unfold execCountLoop
  grind [Canon, setCount_wf, send_wf, popIns_wf, sendAll_wf, poisonHalt_wf]

/-! ### FILTER (R317) -/

theorem execFilterToken_canon {s : State} (h : s.mem.Wf) (n : NodeRef) : Canon (execFilterToken n s) := by
  unfold execFilterToken
  grind [Canon, poisonHalt_wf, popIns_wf, send_wf, haltNode_wf]

/-! ### COALESCE (R318) -/

theorem setCoal_wf {s : State} (h : s.mem.Wf) (n : NodeRef) (x : CoalSt) : (setCoal s n x).mem.Wf :=
  h

theorem execCoalesce_canon {s : State} (h : s.mem.Wf) (n : NodeRef) : Canon (execCoalesce n s) := by
  unfold execCoalesce
  grind [Canon, setCoal_wf, popIns_wf, send_wf, haltNode_wf]

theorem coalMarker_wf {s : State} (h : s.mem.Wf) (n : NodeRef) (m : Token) : (coalMarker s n m).mem.Wf := by
  unfold coalMarker
  grind [setCoal_wf, send_wf, popIns_wf]

/-! ### FANOUT (R319) -/

theorem execFanoutEnqueue_canon {s : State} (h : s.mem.Wf) (n : NodeRef) : Canon (execFanoutEnqueue n s) := by
  unfold execFanoutEnqueue
  grind [Canon, foldl_wf, popIns_wf, State.setCellAt_wf]

/-! ### REDUCE (R320) -/

theorem setRed_wf {s : State} (h : s.mem.Wf) (n : NodeRef) (x : RedSt) : (setRed s n x).mem.Wf :=
  h

theorem execReduceStep_canon {s : State} (h : s.mem.Wf) (n : NodeRef) : Canon (execReduceStep n s) := by
  unfold execReduceStep
  grind [Canon, foldl_wf, setRed_wf, popIns_wf, haltNode_wf]

theorem execReduceGroupClose_canon {s : State} (h : s.mem.Wf) (n : NodeRef) : Canon (execReduceGroupClose n s) := by
  unfold execReduceGroupClose
  grind [Canon, send_wf, popIns_wf, setRed_wf, haltNode_wf]

end Sys2Proof.Machine
end

section
/-! SUPPORT. O60: memory keeps its canonical form (log 3) under MEMORY nodes (R159, R176, R262, R322). -/

namespace Sys2Proof.Machine

/-! ### One element -/

theorem memLoc_stateless (s : State) (n : NodeRef) (o z : Nat) (cl : AClass) (need : Nat) : Stateless (memLoc s n o z cl need)
    :=
  (check_stateless ..).bind' fun _ => access_stateless ..

theorem memLoadEl_keeps {s : State} (h : s.mem.Wf) (n : NodeRef) (o z : Nat) : Keeps Prod.snd (memLoadEl s n o z) := by
  unfold memLoadEl
  extract_lets r fail
  have hr : Keeps Prod.snd r := by
    refine (memLoc_stateless ..).bind fun l => (loadLoc_keeps h ..).bind fun v hv => ?_
    obtain ⟨bs, t⟩ := v
    cases l <;> exact hv
  have hfail (t : State) (e : Trap) (ht : t.mem.Wf) : Keeps Prod.snd (fail t e) := recordPoison_wf ht ..
  clear_value r fail
  split
  · exact performedBy_wf hr _
  · exact hfail _ _ h
  · exact hfail _ _ hr
  · exact hr

theorem memRecord_keeps {s : State} (h : s.mem.Wf) (n : NodeRef) {r : Except Stop State} (hr : Keeps id r) :
    Keeps id (memRecord s n r) := by
  unfold memRecord
  split
  · exact nodeFault_wf (recordPoison_wf h ..) ..
  · exact nodeFault_wf (recordPoison_wf hr ..) ..
  · exact hr

theorem memDirty_wf {s : State} (h : s.mem.Wf) (n : NodeRef) : (memDirty s n).mem.Wf :=
  wf_ite (markDirty_wf h ..) h

theorem memStoreEl_keeps {s : State} (h : s.mem.Wf) (n : NodeRef) (o z : Nat) (on : List Bool) (bs : List Byte) : Keeps id
    (memStoreEl s n o z on bs) := by
  unfold memStoreEl
  grind [Keeps, Keeps.bind, Stateless.bind, Stop.Canon, ok_bind, memRecord_keeps, memLoc_stateless, writeMasked_keeps,
    memDirty_wf, performedBy_wf]

theorem memUpdEl_keeps {s : State} (h : s.mem.Wf) (n : NodeRef) (o z : Nat) (t : MemTok) (v : Nat) : Keeps id (memUpdEl s n o
    z t v) := by
  unfold memUpdEl
  grind [Keeps, Keeps.bind, Stateless.bind, Stop.Canon, ok_bind, memRecord_keeps, memLoc_stateless, sendUpd_keeps, markDirty_wf]

/-! ### The accesses of a token -/

theorem memPerform_keeps {s : State} (h : s.mem.Wf) (n : NodeRef) (t : MemTok) (a : MemAcc) : Keeps id (memPerform s n t a) :=
    by
  unfold memPerform
  grind [Keeps, Keeps.bind, Stateless.bind, Stop.Canon, ok_bind, memStoreEl_keeps, memUpdEl_keeps, memLoadEl_keeps, updMem_wf]

/-! ### The address-compare queue (R159, R176) -/

theorem memPass_wf {s : State} (h : s.mem.Wf) (n : NodeRef) (y y1 : List MemAcc) : (memPass n y y1 s).mem.Wf := by
  fun_induction memPass <;> grind [Keeps, Stop.Canon, memPerform_keeps, updMem_wf, register_wf]

/-! ### The steps -/

theorem memTake_wf {s : State} (h : s.mem.Wf) (n : NodeRef) : (memTake s n).mem.Wf := by
  unfold memTake
  grind [popIns_wf]

theorem memEnter_wf {s : State} (h : s.mem.Wf) (n : NodeRef) : (memEnter n s).mem.Wf := by
  unfold memEnter
  grind [haltNode_wf, nodeFault_wf, memTake_wf, updMem_wf]

theorem memStep_wf {s : State} (h : s.mem.Wf) (mode : Nat) (n : NodeRef) : (memStep mode n s).mem.Wf := by
  unfold memStep
  grind [memEnter_wf, memPass_wf, updMem_wf, release_wf]

theorem execMemoryLoad_canon {s : State} (h : s.mem.Wf) (n : NodeRef) : Canon (execMemoryLoad n s) :=
  memStep_wf h ..

theorem execMemoryStore_canon {s : State} (h : s.mem.Wf) (n : NodeRef) : Canon (execMemoryStore n s) :=
  memStep_wf h ..

theorem execMemoryGather_canon {s : State} (h : s.mem.Wf) (n : NodeRef) : Canon (execMemoryGather n s) :=
  memStep_wf h ..

theorem execMemoryScatter_canon {s : State} (h : s.mem.Wf) (n : NodeRef) : Canon (execMemoryScatter n s) :=
  memStep_wf h ..

theorem execMemoryUpdate_canon {s : State} (h : s.mem.Wf) (n : NodeRef) : Canon (execMemoryUpdate n s) :=
  memStep_wf h ..

theorem execMemoryReply_canon {s : State} (h : s.mem.Wf) (n : NodeRef) : Canon (execMemoryReply n s) := by
  unfold execMemoryReply
  grind [Canon, markActive_wf, updMem_wf, send_wf]

theorem execMemoryOrderOut_canon {s : State} (h : s.mem.Wf) (n : NodeRef) : Canon (execMemoryOrderOut n s) := by
  unfold execMemoryOrderOut
  grind [Canon, markActive_wf, updMem_wf, send_wf]

theorem memMarker_wf {s : State} (h : s.mem.Wf) (n : NodeRef) (m : Token) : (memMarker s n m).mem.Wf :=
  wf_ite h (sendAll_wf (popIns_wf h ..) ..)

end Sys2Proof.Machine
end

section
/-! SUPPORT. O60: memory keeps its canonical form (log 3) under WARP (R321). -/

namespace Sys2Proof.Machine

/-! ### Scales (R192) -/

theorem readScale_keeps {s : State} (h : s.mem.Wf) (x : Acx) (fmt : Nat) (d sd : Desc) (b y : Nat) : Keeps Prod.snd (readScale
    s x fmt d sd b y) := by
  unfold readScale
  grind [Keeps, Keeps.bind, Stateless.bind, Stop.Canon, ok_bind, capReadNat_keeps]

theorem readScales_keeps {s : State} (h : s.mem.Wf) (x : Acx) (fmt : Nat) (d sd : Desc) (y b n : Nat) : Keeps Prod.snd
    (readScales s x fmt d sd y b n) := by
  fun_induction readScales <;> grind [Keeps, Keeps.bind, Stateless.bind, Stop.Canon, ok_bind, readScale_keeps]

/-! ### WARP -/

theorem warpRead_keeps {s : State} (h : s.mem.Wf) (x : Acx) (d : Desc) (cx cy n : Nat) : Keeps Prod.snd (warpRead s x d cx cy
    n) :=
  capReadNat_keeps h ..

theorem warpReads_keeps {s : State} (h : s.mem.Wf) (x : Acx) (f e : Desc) (hasE : Bool) (y : List (Int × Int × Nat)) : Keeps
    Prod.snd (warpReads s x f e hasE y) := by
  fun_induction warpReads <;> grind [Keeps, Keeps.bind, Stateless.bind, Stop.Canon, ok_bind, warpRead_keeps]

theorem execWarpRequest_canon {s : State} (h : s.mem.Wf) (n : NodeRef) : Canon (execWarpRequest n s) := by
  unfold execWarpRequest
  grind [Canon, foldl_wf, Keeps, Stop.Canon, popIns_wf, send_wf, recordPoison_wf, release_wf, warpReads_keeps, register_wf]

end Sys2Proof.Machine
end

section
/-! SUPPORT. O60: memory keeps its canonical form (log 3) under CONVERT (R323, R83). -/

namespace Sys2Proof.Machine

theorem setConv_wf {s : State} (h : s.mem.Wf) (n : NodeRef) (x : ConvSt) : (setConv s n x).mem.Wf :=
  h

theorem convScales_keeps {s : State} (h : s.mem.Wf) (n : NodeRef) (c : Cell) (x : ConvSt) (cnt : Nat) : Keeps Prod.snd
    (convScales s n c x cnt) := by
  unfold convScales
  grind [Keeps, Keeps.bind, Stateless.bind, Stop.Canon, ok_bind, readScales_keeps]

theorem convFlush_wf {s : State} (h : s.mem.Wf) (n : NodeRef) : (convFlush s n).mem.Wf := by
  unfold convFlush
  grind [setConv_wf, send_wf]

theorem execConvertElement_canon {s : State} (h : s.mem.Wf) (n : NodeRef) : Canon (execConvertElement n s) := by
  unfold execConvertElement
  grind [Canon, Keeps, Stop.Canon, convFlush_wf, convScales_keeps, setConv_wf, popIns_wf, release_wf, haltNode_wf, register_wf]

theorem convMarker_wf {s : State} (h : s.mem.Wf) (n : NodeRef) (m : Token) : (convMarker s n m).mem.Wf :=
  wf_ite (convFlush_wf h ..) h

end Sys2Proof.Machine
end

section
/-! SUPPORT. O60: memory keeps its canonical form (log 3) under mills (R22, R72 to R79, R116, R117, R324, R393). -/

namespace Sys2Proof.Machine

theorem setMac_wf {s : State} (h : s.mem.Wf) (n : NodeRef) (x : MacSt) : (setMac s n x).mem.Wf :=
  h

theorem setBusy_wf {s : State} (h : s.mem.Wf) (n : NodeRef) (on : Bool) : (setBusy s n on).mem.Wf :=
  foldl_wf (fun _ _ ht => State.setCellAt_wf ht ..) h _

theorem setSat_wf {s : State} (h : s.mem.Wf) (n : NodeRef) (c : Cell) (cols : List Nat) : (setSat s n c cols).mem.Wf :=
  foldl_wf (fun _ _ ht => State.setCellAt_wf ht ..) h _

theorem countProds_wf {s : State} (h : s.mem.Wf) (vf n : Nat) : (countProds s vf n).mem.Wf :=
  wf_ite h (State.count_wf (State.setVf_wf h ..) ..)

/-! ### Sums (R73) -/

theorem rowScales_keeps {s : State} (h : s.mem.Wf) (x : Acx) (f : Nat) (d sd : Desc) (y k0 k : Nat) : Keeps Prod.snd
    (rowScales s x f d sd y k0 k) := by
  unfold rowScales
  grind [Keeps, Keeps.bind, Stateless.bind, Stop.Canon, ok_bind, readScales_keeps]

theorem loadScales_keeps {s : State} (h : s.mem.Wf) (n : NodeRef) (c : Cell) (x : MacSt) (n1 : Nat) : Keeps Prod.snd
    (loadScales s n c x n1) := by
  fun_induction loadScales <;> grind [Keeps, Keeps.bind, Stateless.bind, Stop.Canon, ok_bind, rowScales_keeps]

/-! ### Sending -/

theorem millFlush_wf {s : State} (h : s.mem.Wf) (n : NodeRef) : (millFlush s n).mem.Wf := by
  unfold millFlush
  grind [setMac_wf, send_wf]

/-! ### The steps -/

theorem execMacWeightLoad_canon {s : State} (h : s.mem.Wf) (n : NodeRef) : Canon (execMacWeightLoad n s) := by
  unfold execMacWeightLoad
  grind [Canon, Keeps, Stop.Canon, haltNode_wf, setMac_wf, popIns_wf, loadScales_keeps, release_wf, register_wf]

theorem millTakeRow_wf {s : State} (h : s.mem.Wf) (n : NodeRef) (c : Cell) (x : MacSt) (asc : List (Nat × W32)) : (millTakeRow
    s n c x asc).mem.Wf := by
  unfold millTakeRow
  grind [foldl_wf, countProds_wf, setSat_wf, State.setAcc_wf, setBusy_wf, setMac_wf]

theorem execMacActivationRow_canon {s : State} (h : s.mem.Wf) (n : NodeRef) : Canon (execMacActivationRow n s) := by
  unfold execMacActivationRow
  extract_lets c x
  clear_value c x
  refine wf_ite h (wf_ite (millFlush_wf h _) (wf_ite h ?_))
  split
  · exact h
  · next t _ =>
    extract_lets y k0
    clear_value y k0
    refine wf_ite h (wf_ite ?_ ?_)
    · exact wf_ite (haltNode_wf h ..) (setMac_wf (popIns_wf h ..) ..)
    · refine wf_ite h (wf_ite (setMac_wf (popIns_wf h ..) ..) (wf_ite (haltNode_wf h ..) (wf_ite h ?_)))
      have hr := rowScales_keeps h (s.nodeAcx n) c.afmt y.adesc y.asdesc y.row k0 c.millK
      generalize rowScales s (s.nodeAcx n) c.afmt y.adesc y.asdesc y.row k0 c.millK = r at hr ⊢
      split
      · refine millTakeRow_wf ?_ ..
        exact popIns_wf (release_wf hr _) ..
      · exact haltNode_wf h ..
      · exact haltNode_wf hr ..
      · exact register_wf h _
      · exact hr

theorem releaseRound_wf {s : State} (h : s.mem.Wf) (n : NodeRef) (m : Token) : (releaseRound s n m).mem.Wf := by
  unfold releaseRound
  grind [foldl_wf, State.setAcc_wf, crierAt_wf, setBusy_wf, setMac_wf]

theorem millPass_wf {s : State} (h : s.mem.Wf) (n : NodeRef) (m : Token) : (millPass s n m).mem.Wf :=
  h

theorem execMacRoundRelease_canon {s : State} (h : s.mem.Wf) (n : NodeRef) : Canon (execMacRoundRelease n s) := by
  unfold execMacRoundRelease
  grind [Canon, millFlush_wf, millPass_wf, releaseRound_wf]

theorem macMarker_wf {s : State} (h : s.mem.Wf) (n : NodeRef) : (macMarker s n).mem.Wf := by
  unfold macMarker
  grind [millFlush_wf, millPass_wf, haltNode_wf]

end Sys2Proof.Machine
end

section
/-! SUPPORT. O60: memory keeps its canonical form (log 3) under the passing of markers by operator nodes (R31, R309, R326),
and of PMK by sources and nodes (R380). -/

namespace Sys2Proof.Machine

theorem passPlain_wf {s : State} (h : s.mem.Wf) (n : NodeRef) (ps outs : List Nat) (act : Token → Bool) : (passPlain s n ps
    outs act).mem.Wf := by
  unfold passPlain
  grind [sendAll_wf, popIns_wf, haltNode_wf]

theorem joinMarker_wf {s : State} (h : s.mem.Wf) (n : NodeRef) : (joinMarker s n).mem.Wf :=
  wf_ite h (passPlain_wf h ..)

theorem mergeMarker_wf {s : State} (h : s.mem.Wf) (n : NodeRef) : (mergeMarker s n).mem.Wf := by
  unfold mergeMarker
  grind [passPlain_wf]

theorem countMarker_wf {s : State} (h : s.mem.Wf) (n : NodeRef) : (countMarker s n).mem.Wf := by
  unfold countMarker
  grind [popIns_wf, passPlain_wf]

theorem reduceMarker_wf {s : State} (h : s.mem.Wf) (n : NodeRef) : (reduceMarker s n).mem.Wf := by
  unfold reduceMarker
  grind [popIns_wf]

theorem execNodeMarkerPass_canon {s : State} (h : s.mem.Wf) (n : NodeRef) : Canon (execNodeMarkerPass n s) := by
  unfold execNodeMarkerPass
  grind [Canon, joinMarker_wf, passPlain_wf, mergeMarker_wf, coalMarker_wf, reduceMarker_wf, countMarker_wf, memMarker_wf,
    haltNode_wf, convMarker_wf, convFlush_wf, macMarker_wf]

/-! ### PMK (R380) -/

theorem notePmk_wf {s : State} (h : s.mem.Wf) (n : NodeRef) : (notePmk s n).mem.Wf :=
  h

theorem execSourcePmkEmit_canon {s : State} (h : s.mem.Wf) (n : NodeRef) : Canon (execSourcePmkEmit n s) := by
  unfold execSourcePmkEmit
  grind [Canon, foldl_wf, notePmk_wf, State.updSlot_wf, send_wf]

theorem notePassed_wf {s : State} (h : s.mem.Wf) (n : NodeRef) : (notePassed s n).mem.Wf :=
  h

theorem execPmkArrival_canon {s : State} (h : s.mem.Wf) (n : NodeRef) : Canon (execPmkArrival n s) := by
  unfold execPmkArrival
  grind [Canon, foldl_wf, notePassed_wf, passMarkers_wf, popIns_wf, State.setCellAt_wf, State.setSport_wf, sendAll_wf]

end Sys2Proof.Machine
end

section
/-! SUPPORT. O60: memory keeps its canonical form (log 3) under the loader's checks of an actor block (R108, R224 to R227,
R293 to R305, R306). -/

namespace Sys2Proof.Machine

theorem refuse_stateless (r : Option Nat) : Stateless (refuse r) := by
  unfold refuse
  grind [Stateless, Stateless.bind', Stop.Canon, cfgReject_stateless]

end Sys2Proof.Machine
end

section
/-! SUPPORT. O60: memory keeps its canonical form (log 3) under the loader. -/

namespace Sys2Proof.Machine

/-! ### Records -/

/-- The bytes that a reader gives leave a canonical memory. -/
def Reader.Keeps (rd : Reader) : Prop := ∀ (s : State) o n, s.mem.Wf → Machine.Keeps Prod.snd (rd.bytes s o n)

theorem cellRec_keeps {rd : Reader} (hr : rd.Keeps) {s : State} (h : s.mem.Wf) (parm i : Nat) (r : List Byte) :
    Keeps Prod.snd (cellRec rd parm i r s) := by
  unfold cellRec
  refine (refuse_stateless ..).bind fun _ => .ite ?_ ?_
  · exact (refuse_stateless ..).bind fun _ => h
  · refine (refuse_stateless ..).bind fun _ => (refuse_stateless ..).bind fun _ => (refuse_stateless ..).bind fun _ => .ite ?_ ?_
    · exact (refuse_stateless ..).bind fun _ => (refuse_stateless ..).bind fun _ => h
    · exact (hr _ _ _ h).bind fun v hv => (refuse_stateless ..).bind fun _ => (refuse_stateless ..).bind fun _ => hv

theorem cellRecs_keeps {rd : Reader} (hr : rd.Keeps) {s : State} (h : s.mem.Wf) (parm : Nat) (page : List Byte) (n : Nat) :
    Keeps Prod.snd (cellRecs rd parm page n s) := by
  induction n generalizing s with
  | zero => exact h
  | succ n ih => exact (cellRec_keeps hr h ..).bind fun v hv => (ih hv).bind fun w hw => hw

theorem pageOf_keeps {rd : Reader} (hr : rd.Keeps) {s : State} (h : s.mem.Wf) (pageoff parm j : Nat) :
    Keeps Prod.snd (pageOf rd pageoff parm j s) :=
  (hr _ _ _ h).bind fun _ hv => (refuse_stateless ..).bind fun _ => (cellRecs_keeps hr hv ..).bind fun _ hw =>
    (refuse_stateless ..).bind fun _ => hw

theorem pagesOf_keeps {rd : Reader} (hr : rd.Keeps) {s : State} (h : s.mem.Wf) (pageoff parm np n : Nat) :
    Keeps Prod.snd (pagesOf rd pageoff parm np n s) := by
  induction n generalizing s with
  | zero => exact h
  | succ n ih => exact (pageOf_keeps hr h ..).bind fun v hv => (ih hv).bind fun w hw => hw

/-! ### The image -/

theorem parseImage_keeps {rd : Reader} (hr : rd.Keeps) {s : State} (h : s.mem.Wf) (handle : Nat) :
    Keeps Prod.snd (parseImage rd handle s) := by
  unfold parseImage
  refine (hr _ _ _ h).bind fun v hv => (refuse_stateless ..).bind fun _ => (pagesOf_keeps hr hv ..).bind fun w hw => ?_
  refine .ite ?_ ((hr _ _ _ hw).bind fun y hy => ?_)
  · exact (hr _ _ _ hw).bind fun z hz => (refuse_stateless ..).bind fun _ => (refuse_stateless ..).bind fun _ => hz
  · exact (hr _ _ _ hy).bind fun z hz => (refuse_stateless ..).bind fun _ => (refuse_stateless ..).bind fun _ => hz

/-! ### Blocks at a placement or thaw (R224) -/

theorem readBlock_keeps {rd : Reader} (hr : rd.Keeps) {s : State} (h : s.mem.Wf) (o : Nat) : Keeps Prod.snd (readBlock rd o s)
    :=
  (hr _ _ _ h).bind fun _ hv => (hr _ _ _ hv).bind fun _ hw => hw

theorem imageReader_keeps (x : Acx) (k : Cap) : (imageReader x k).Keeps := fun _ _ _ h =>
  .ite h ((checkCapAt_stateless ..).bind fun _ => readSpan_keeps h ..)

theorem rereadBlock_keeps {rd : Reader} (hr : rd.Keeps) {s : State} (h : s.mem.Wf) (parm : Nat) (c : CellRec) (a : Nat) :
    Keeps Prod.snd (rereadBlock rd parm c a s) :=
  (readBlock_keeps hr h _).bind fun _ hv => (refuse_stateless ..).bind fun _ => hv

theorem rereadRec_keeps {rd : Reader} (hr : rd.Keeps) {s : State} (h : s.mem.Wf) (parm : Nat) (c : CellRec) :
    Keeps Prod.snd (rereadRec rd parm c s) := by
  unfold rereadRec
  refine .ite h ?_
  generalize mkeys c.blocks = l
  induction l generalizing s c with
  | nil => exact h
  | cons a l ih =>
    rw [List.foldlM_cons]
    exact Keeps.bind (g := Prod.snd) ((rereadBlock_keeps hr h ..).bind fun v hv => hv) fun w hw => ih hw _

theorem rereadPage_keeps {rd : Reader} (hr : rd.Keeps) {s : State} (h : s.mem.Wf) (parm : Nat) (l : List CellRec) :
    Keeps Prod.snd (rereadPage rd parm l s) := by
  induction l generalizing s with
  | nil => exact h
  | cons c l ih => exact (rereadRec_keeps hr h ..).bind fun v hv => (ih hv).bind fun w hw => hw

theorem rereadPages_keeps {rd : Reader} (hr : rd.Keeps) {s : State} (h : s.mem.Wf) (parm : Nat) (l : List (List CellRec)) :
    Keeps Prod.snd (rereadPages rd parm l s) := by
  induction l generalizing s with
  | nil => exact h
  | cons c l ih => exact (rereadPage_keeps hr h ..).bind fun v hv => (ih hv).bind fun w hw => hw

theorem rereadGraph_keeps {s : State} (h : s.mem.Wf) (x : Acx) (g : Graph) : Keeps Prod.snd (rereadGraph s x g) :=
  .ite h ((rereadPages_keeps (imageReader_keeps _ _) h ..).bind fun _ hv => hv)

end Sys2Proof.Machine
end

section
/-! SUPPORT. O60: memory keeps its canonical form (log 3) under streams and copies in motion (R257 to R264), and the
sparse-update units (R170). -/

namespace Sys2Proof.Machine

/-! ### What streams and copies share -/

theorem xferFault_wf {s : State} (h : s.mem.Wf) (n cell : Nat) (t : Trap) : (xferFault s n cell t).mem.Wf :=
  recordPoison_wf h ..

theorem streamRate_wf {s : State} (h : s.mem.Wf) (n : Nat) : (streamRate s n).mem.Wf :=
  h

theorem issueTo_keeps {s : State} (h : s.mem.Wf) (who : Who) (vf : Nat) (us : List Nat) : Keeps id (issueTo s who vf us) := by
  unfold issueTo
  grind [Keeps, Keeps.bind, Stateless.bind, Stop.Canon, ok_bind, foldl_wf]

theorem markTiles_wf {s : State} (h : s.mem.Wf) (d : Desc) (va pa n : Nat) : (markTiles s d va pa n).mem.Wf := by
  unfold markTiles
  split
  · exact h
  · refine foldl_wf (fun t g ht => ?_) h _
    dsimp only
    split
    · exact ht.setNonzero (rises_sput ht.nonzero ..)
    · exact ht

/-! ### STREAM_START -/

theorem execStreamStart_canon {s : State} (h : s.mem.Wf) (n p : Nat) : Canon (execStreamStart n p s) := by
  unfold execStreamStart
  unfold Canon
  dsimp only
  split
  · exact wf_ite h (State.setSport_wf h ..)
  · exact h

/-! ### STREAM_ELEMENT -/

theorem settleStop_wf {s : State} (h : s.mem.Wf) {r : Except Stop State} (hr : Keeps id r) {fail : State → Trap → State}
    (hf : ∀ s t, s.mem.Wf → (fail s t).mem.Wf) : (settleStop s r fail).mem.Wf := by
  unfold settleStop
  split
  · exact hr
  · exact hf _ _ h
  · exact hf _ _ hr
  · exact register_wf h _
  · exact hr

theorem readElement_wf {s : State} (h : s.mem.Wf) (ham p : Nat) (ctrl : Bool) (x : Stream) :
    (readElement s ham p ctrl x).mem.Wf := by
  unfold readElement
  extract_lets q z x0 src y q' put cx r
  have hput (t : State) (v : Nat) (bad : Bool) (ht : t.mem.Wf) : (put t v bad).mem.Wf := wf_ite ht ht
  refine settleStop_wf h ?_ fun t e ht => hput _ _ _ (xferFault_wf ht ham portCell e)
  exact (access_stateless ..).bind fun l => (issueTo_keeps h ..).bind fun t ht => (capReadNat_keeps ht ..).bind fun v hv =>
    hput _ _ _ hv

theorem streamMark_wf {s : State} (h : s.mem.Wf) (n p : Nat) (x : Stream) (k : TokKind) : (streamMark s n p x k).mem.Wf :=
  h

theorem streamOut_wf {s : State} (h : s.mem.Wf) (ham p : Nat) (n : NodeRef) (ctrl : Bool) (x : Stream) :
    (streamOut s ham p n ctrl x).mem.Wf := by
  unfold streamOut
  refine wf_ite h ?_
  split
  · exact wf_ite (readElement_wf h ..) h
  · exact wf_ite h (wf_ite h h)
  · exact wf_ite h (wf_ite h h)
  · exact wf_ite h h
  · exact h

theorem notePiece_wf {s : State} (h : s.mem.Wf) (n red space : Nat) : (notePiece s n red space).mem.Wf := by
  unfold notePiece
  split <;> exact h

theorem writeElement_keeps {s : State} (h : s.mem.Wf) (n p : Nat) (x : Stream) (tag : W64) (v : Nat) : Keeps id (writeElement
    s n p x tag v) := by
  unfold writeElement
  grind [Keeps, Keeps.bind, Stateless.bind, Stop.Canon, ok_bind, notePiece_wf, access_stateless, issueTo_keeps,
    storeLoc_keeps, markTiles_wf, sendUpd_keeps]

theorem sinkElement_wf {s : State} (h : s.mem.Wf) (ham p : Nat) (ctrl : Bool) (x : Stream) (t : Token) :
    (sinkElement s ham p ctrl x t).mem.Wf := by
  unfold sinkElement
  extract_lets q z src y y' done last v
  have hdone (u : State) (hu : u.mem.Wf) : (done u).mem.Wf := hu
  exact wf_ite (hdone s h) (wf_ite h (settleStop_wf h ((writeElement_keeps h ..).map fun u hu => hdone u hu)
    fun u e hu => hdone _ (xferFault_wf hu ..)))

theorem sinkToken_wf {s : State} (h : s.mem.Wf) (n p : Nat) (ctrl : Bool) (x : Stream) : (sinkToken s n p ctrl x).mem.Wf := by
  unfold sinkToken
  grind [State.setSport_wf, streamRate_wf, recordFault_wf]

theorem execStreamElement_canon {s : State} (h : s.mem.Wf) (ham p : Nat) : Canon (execStreamElement ham p s) := by
  unfold execStreamElement Canon
  dsimp only
  split
  · refine wf_ite h (wf_ite ?_ (streamOut_wf h ..))
    split
    · exact sinkElement_wf h ..
    · exact wf_ite h (sinkToken_wf h ..)
  · exact h

/-! ### STREAM_COMPLETE -/

theorem execStreamComplete_canon {s : State} (h : s.mem.Wf) (n p : Nat) : Canon (execStreamComplete n p s) := by
  unfold execStreamComplete
  grind [Canon, completeXfer_wf, State.setSport_wf]

theorem endStreams_wf {s : State} (h : s.mem.Wf) (n p : Nat) : (endStreams s n p).mem.Wf := by
  unfold endStreams
  grind [foldl_wf, completeXfer_wf, streamRate_wf]

/-! ### COPY_COMPLETE -/

theorem copyPart_keeps {s : State} (h : s.mem.Wf) (n i : Nat) (x : Xfer) (k : Nat) : Keeps id (copyPart s n i x k) := by
  unfold copyPart
  grind [Keeps, Keeps.bind, Stateless.bind, Stop.Canon, ok_bind, checkCapAt_stateless, readSpan_keeps, writeSpan_keeps,
    notePiece_wf]

theorem copyBytes_keeps {s : State} (h : s.mem.Wf) (ham i : Nat) (x : Xfer) (last : Option Trap) (n : Nat) :
    Keeps id (copyBytes s ham i x last n) := by
  induction n generalizing s x last with
  | zero => exact h
  | succ n ih =>
    have hc := copyPart_keeps h ham i x 1
    unfold copyBytes
    dsimp only
    split
    · exact ih (wf_ite h (xferFault_wf h ..)) ..
    · next e => exact ih (wf_ite (hc.of_error e) (xferFault_wf (hc.of_error e) ..)) ..
    · exact hc.of_error ‹_›
    · next e => exact ih (hc.of_ok e) ..

theorem copyPiece_keeps {s : State} (h : s.mem.Wf) (n i : Nat) (x : Xfer) (k : Nat) : Keeps id (copyPiece s n i x k) := by
  unfold copyPiece
  grind [Keeps, Keeps.bind, Stateless.bind, Stop.Canon, ok_bind, issueTo_keeps, copyPart_keeps, copyBytes_keeps]

theorem copyReduce_keeps {s : State} (h : s.mem.Wf) (ham i : Nat) (x : Xfer) (z : Nat) :
    Keeps id (copyReduce s ham i x z) :=
  (issueTo_keeps h ..).bind fun _ ht => (capReadNat_keeps ht ..).bind fun _ hv => (access_stateless ..).bind fun _ =>
    sendUpd_keeps (notePiece_wf hv ..) ..

theorem copyTiles_wf {s : State} (h : s.mem.Wf) (n i : Nat) (x : Xfer) : (copyTiles s n i x).mem.Wf := by
  unfold copyTiles
  grind [foldl_wf, locate_stateless, markTiles_wf]

theorem execCopyComplete_canon {s : State} (h : s.mem.Wf) (ham i : Nat) : Canon (execCopyComplete ham i s) := by
  unfold execCopyComplete Canon
  dsimp only
  split
  · refine wf_ite h (wf_ite (wf_ite h (settleStop_wf h ?_ fun t e ht => ?_)) (wf_ite (completeXfer_wf (copyTiles_wf h ..) ..) h))
    · refine Keeps.map (g := id) ?_ fun t ht => State.setReeve_wf (release_wf ht _) ..
      exact .ite (copyPiece_keeps h ..) (copyReduce_keeps h ..)
    · exact State.setReeve_wf (release_wf (xferFault_wf ht ..) _) ..
  · exact h

/-! ### SPARSE_UPDATE_APPLY (R170) -/

theorem execSparseUpdateApply_canon {s : State} (h : s.mem.Wf) (slice i : Nat) (merge : Option Nat) : Canon
    (execSparseUpdateApply slice i merge s) := by
  unfold execSparseUpdateApply
  grind [Canon, applyUpd_wf]

end Sys2Proof.Machine
end

section
/-! SUPPORT. O60: memory keeps its canonical form (log 3) under placement (R36, R37, R42, R140, R193, R196, R197, R311, R391,
R400). -/

namespace Sys2Proof.Machine

/-! ### Hamlets -/

theorem State.updHam_wf {s : State} (h : s.mem.Wf) (n : Nat) (f : Hamlet → Hamlet) : (State.updHam s n f).mem.Wf :=
  h

/-! ### The hand-over clear (R140) -/

theorem startClear_wf {s : State} (h : s.mem.Wf) (ctx n : Nat) : (startClear s ctx n).mem.Wf :=
  h

theorem clearServe_wf {s : State} (h : s.mem.Wf) (a n : Nat) : (clearServe s a n).mem.Wf :=
  foldl_wf (fun _ w ht => serveWaiters_wf ht w) (s := { s with mem := s.mem.clearRange a n }) (h.clearRange a n) _

theorem execHamletClearComplete_canon {s : State} (h : s.mem.Wf) (n : Nat) : Canon (execHamletClearComplete n s) := by
  unfold execHamletClearComplete
  unfold Canon
  dsimp only
  split
  · exact h
  · exact wf_ite h (clearServe_wf h ..)

theorem execGranaryClearComplete_canon {s : State} (h : s.mem.Wf) (sl : Nat) : Canon (execGranaryClearComplete sl s) := by
  unfold execGranaryClearComplete
  unfold Canon
  dsimp only
  split
  · exact h
  · exact wf_ite h (clearServe_wf h ..)

/-! ### The cells of a fresh placement -/

theorem takePair_stateless (s : State) (ctx tid : Nat) : Stateless (takePair s ctx tid) := by
  unfold takePair
  grind [Stateless, Stateless.bind', Stop.Canon, takeDesc_stateless]

theorem freshNodes_stateless (s : State) (ctx vf : Nat) (c : Cell) : Stateless (freshNodes s ctx vf c) := by
  unfold freshNodes
  split
  · trivial
  · trivial
  · trivial
  · trivial
  · trivial
  · exact (takeDesc_stateless ..).bind' fun _ => (takeDesc_stateless ..).bind' fun _ => (takeCtab_stateless ..).bind' fun _ =>
      trivial
  · refine foldlM_stateless (fun m k => ?_) _ _
    exact (takeDesc_stateless ..).bind' fun _ => trivial
  · exact (takePair_stateless ..).bind' fun _ => trivial
  · split
    · exact (takePair_stateless ..).bind' fun _ => (takePair_stateless ..).bind' fun _ =>
        (check_stateless ..).bind' fun _ => trivial
    · trivial
  · trivial

theorem freshCell_stateless (s : State) (ctx vf : Nat) (r : CellRec) : Stateless (freshCell s ctx vf r) :=
  (freshNodes_stateless ..).bind' fun _ => trivial

theorem freshCells_stateless (s : State) (ctx vf : Nat) (y : List (Nat × Nat × CellRec)) : Stateless (freshCells s ctx vf y)
    := by
  fun_induction freshCells <;> grind [Stateless, Stateless.bind', Stop.Canon, freshCell_stateless]

/-! ### Circuits (R36, R197, R311; log 14) -/

theorem putHops_wf {s : State} (h : s.mem.Wf) (es : List (Nat × W64)) : (putHops s es).mem.Wf :=
  foldl_wf (fun _ _ ht => State.updHam_wf ht ..) h _

theorem dropHops_wf {s : State} (h : s.mem.Wf) (es : List (Nat × W64)) : (dropHops s es).mem.Wf :=
  foldl_wf (fun _ _ ht => State.updHam_wf ht ..) h _

/-! ### The placement map (R196) -/

theorem syncHam_wf {s : State} (h : s.mem.Wf) (n : Nat) : (syncHam s n).mem.Wf :=
  h

theorem takeHams_wf {s : State} (h : s.mem.Wf) (ctx : Nat) (hams : List Nat) : (takeHams s ctx hams).mem.Wf := by
  unfold takeHams
  grind [foldl_wf, startClear_wf, State.updHam_wf]

theorem claimHams_wf {s : State} (h : s.mem.Wf) (ctx : Nat) (hams : List Nat) : (claimHams s ctx hams).mem.Wf := by
  unfold claimHams
  grind [foldl_wf, syncHam_wf, State.updHam_wf]

/-! ### A fresh placement -/

theorem putInitial_wf {s : State} (h : s.mem.Wf) (i ctx : Nat) (x : Nat × Nat × CellRec) : (putInitial s i ctx x).mem.Wf :=
  foldl_wf (fun _ _ ht => enterIn_wf ht ..) h _

theorem freshHam_wf {s : State} (h : s.mem.Wf) (n : Nat) : (freshHam s n).mem.Wf :=
  h

theorem makeInst_places {s : State} (h : s.mem.Wf) (launch : Nat) (g : Graph) (kind : InstKind) (depth : Nat) (hams : List Nat)
    (extra : List Circ) : Places Prod.fst (makeInst s launch g kind depth hams extra) := by
  unfold makeInst
  extract_lets x y z ends i t
  have ht : t.mem.Wf := foldl_wf (fun t k ht => freshHam_wf ht k) h _
  clear_value x y z ends i t
  split
  next ctx vf _ =>
  extract_lets made
  have hm (cells : SMap Cell) : Places Prod.fst (made cells) := by
    dsimp only [made]
    split
    · trivial
    · split
      · trivial
      · refine foldl_wf (fun t r ht => putInitial_wf ht ..) (wf_ite (State.updLaunch_wf ?_ ..) ?_) _
        · refine putHops_wf (claimHams_wf ?_ ..) _
          exact ht
        · refine putHops_wf (claimHams_wf ?_ ..) _
          exact ht
  split
  · exact hm _
  · trivial
  · trivial
  · trivial

theorem placeOn_places {s : State} (h : s.mem.Wf) (launch ctx : Nat) (g : Graph) (kind : InstKind) (depth : Nat) (hams : List
    Nat)
    (extra : List Circ) : Places Prod.fst (placeOn s launch ctx g kind depth hams extra) := by
  unfold placeOn
  extract_lets vf
  split
  · trivial
  · have hg := rereadGraph_keeps h { who := .steward, ctx := ctx, vf := vf, ham := hams.headD 0 } g
    split
    · next e => exact (makeInst_places (release_wf (hg.of_ok e) _) ..).bind fun v hv => hv
    · trivial
    · trivial
    · exact register_wf h _
    · next e => exact hg.of_error e

/-! ### Release (R270, R38, R39) -/

theorem forgetNodes_wf {s : State} (h : s.mem.Wf) (i : Nat) : (forgetNodes s i).mem.Wf := by
  unfold forgetNodes
  grind [foldl_wf, syncHam_wf]

theorem dropPlaces_wf {s : State} (h : s.mem.Wf) (launch : Nat) : (dropPlaces s launch).mem.Wf := by
  unfold dropPlaces
  grind [foldl_wf, syncHam_wf]

theorem thawPorts_wf {s : State} (h : s.mem.Wf) (x : Inst) : (thawPorts s x).mem.Wf :=
  foldl_wf (fun _ _ ht => State.setSport_wf ht ..) h _

theorem freezePorts_wf {s : State} (h : s.mem.Wf) (i : Nat) : (freezePorts s i).mem.Wf := by
  unfold freezePorts
  split <;> exact h

theorem releaseOne_wf {s : State} (h : s.mem.Wf) (i : Nat) : (releaseOne s i).mem.Wf := by
  unfold releaseOne
  grind [foldl_wf, thawPorts_wf, endStreams_wf, dropHops_wf, forgetNodes_wf, raiseHeld_wf, sweepAfresh_wf, State.setCtx_wf,
    syncHam_wf]

theorem releaseInst_wf {s : State} (h : s.mem.Wf) (n n1 : Nat) : (releaseInst n n1 s).mem.Wf := by
  fun_induction releaseInst <;> grind [foldl_wf, releaseOne_wf]

theorem releaseLaunch_wf {s : State} (h : s.mem.Wf) (launch : Nat) : (releaseLaunch s launch).mem.Wf :=
  foldl_wf (fun _ _ ht => releaseInst_wf ht ..) h _

end Sys2Proof.Machine
end

section
/-! SUPPORT. O60: memory keeps its canonical form (log 3) under what a graph can still do, whether it has settled, and the
Beadle's sweeps (R39, R56, R57, R273, R388). -/

namespace Sys2Proof.Machine

/-! ### The steps open to a graph -/

theorem act_wf {f : State → Host.Outcome State Fault Refusal} (hf : ∀ s, s.mem.Wf → Canon (f s)) {s : State} (h : s.mem.Wf) :
    (act f s).mem.Wf := by
  have hs := hf s h
  unfold act
  split
  · next e =>
    rw [e] at hs
    exact hs
  · exact h

/-! ### Replies owed, settled graphs -/

theorem abandonAll_wf {s : State} (h : s.mem.Wf) (i : Nat) : (abandonAll s i).mem.Wf := by
  unfold abandonAll
  grind [foldl_wf, abandonFiring_wf]

/-! ### The Beadle -/

theorem raiseDeadlock_wf {s : State} (h : s.mem.Wf) (l vf : Nat) : (raiseDeadlock s l vf).mem.Wf := by
  unfold raiseDeadlock
  grind [foldl_wf, State.updLaunch_wf, recordFault_wf, State.updInst_wf]

theorem noteSweep_wf {s : State} (h : s.mem.Wf) (i : Nat) (x : Inst) : (noteSweep s i x).mem.Wf :=
  h

theorem seen_wf {s : State} (h : s.mem.Wf) (i : Nat) : (seen s i).mem.Wf :=
  h

theorem execBeadleSweep_canon {s : State} (h : s.mem.Wf) (l : Nat) : Canon (execBeadleSweep l s) := by
  unfold execBeadleSweep
  grind [Canon, foldl_wf, State.updLaunch_wf, seen_wf, noteSweep_wf, raiseDeadlock_wf]

theorem execQsweep_canon {s : State} (h : s.mem.Wf) (p : Guard) (d a : GReg) : Canon (execQsweep p d a s) := by
  unfold execQsweep
  grind [Canon, foldl_wf, Keeps, Stop.Canon, word_canon, State.setMe_wf, await_keeps, noteSweep_wf, raiseDeadlock_wf,
    cfgReject_keeps]

end Sys2Proof.Machine
end

section
/-! SUPPORT. O60: memory keeps its canonical form (log 3) under the graph instructions of a reeve (R270 to R272, R391, R396,
R400) and the pager's placement of a graph (R36, R37, R198). -/

namespace Sys2Proof.Machine

/-! ### CFGLD -/

theorem placeCheck_stateless (s : State) (l : Launch) (g : Graph) : Stateless (placeCheck s l g) := by
  unfold placeCheck
  grind [Stateless, Stateless.bind', Stop.Canon, cfgReject_stateless, refuse_stateless]

theorem execCfgld_canon {s : State} (h : s.mem.Wf) (p : Guard) (d : GReg) (a : KReg) : Canon (execCfgld p d a s) := by
  refine word_canon ?_ h p
  dsimp only
  split
  · split
    · exact State.updMe_wf (State.updMe_wf h _) _
    · exact State.updMe_wf h _
    · trivial
  · refine (checkCapAt_stateless ..).bind fun _ => (parseImage_keeps (imageReader_keeps _ _) h _).bind fun v hv => ?_
    obtain ⟨g, t⟩ := v
    dsimp only
    split
    · trivial
    · refine (placeCheck_stateless ..).bind fun _ => (refuse_stateless _).bind fun _ => (releaseAll_keeps hv _).bind fun u hu => ?_
      exact hu

theorem answerPlace_wf {s : State} (h : s.mem.Wf) (req : Nat) (q : PReq) (a : Nat ⊕ Trap) : (answerPlace s req q a).mem.Wf := by
  unfold answerPlace
  grind [foldl_wf, syncHam_wf, State.setReeve_wf]

theorem setClaim_wf {s : State} (h : s.mem.Wf) (req : Nat) (q : PReq) (hams : List Nat) : (setClaim s req q hams).mem.Wf :=
  h

theorem placeClaimed_wf {s : State} (h : s.mem.Wf) (l : Launch) (req : Nat) (q : PReq) : (placeClaimed s l req q).mem.Wf := by
  unfold placeClaimed
  grind [foldl_wf, Places, answerPlace_wf, placeOn_places, syncHam_wf, setClaim_wf]

theorem execPagePlacement_canon {s : State} (h : s.mem.Wf) (req : Nat) (hams : List Nat) : Canon (execPagePlacement req hams
    s) := by
  unfold execPagePlacement
  grind [Canon, foldl_wf, syncHam_wf, placeClaimed_wf, recordFault_wf, setClaim_wf, takeHams_wf]

/-! ### CFGREL -/

theorem graphArg_stateless (s : State) (v : W64) : Stateless (graphArg s v) := by
  unfold graphArg
  grind [Stateless, Stateless.bind', Stop.Canon, cfgReject_stateless]

theorem execCfgrel_canon {s : State} (h : s.mem.Wf) (p : Guard) (a : GReg) : Canon (execCfgrel p a s) := by
  unfold execCfgrel
  refine word_canon ?_ h _
  grind [Keeps, Keeps.bind, Stateless.bind, Stop.Canon, ok_bind, graphArg_stateless, await_keeps, releaseInst_wf, markDirty_wf]

/-! ### CFGQRY (R272) -/

theorem execCfgqry_canon {s : State} (h : s.mem.Wf) (p : Guard) (d a b : GReg) : Canon (execCfgqry p d a b s) := by
  refine word_canon ?_ h _
  exact (graphArg_stateless ..).bind fun _ => h

/-! ### CFGSTART and CFGGATE (R270, R396) -/

theorem ungate_keeps {s : State} (h : s.mem.Wf) (x : Inst) : Keeps id (ungate s x) := by
  unfold ungate
  grind [Keeps, Keeps.bind, Stateless.bind, Stop.Canon, ok_bind, foldl_wf, cfgReject_keeps, State.updInst_wf]

theorem startGraph_keeps {s : State} (h : s.mem.Wf) (a : GReg) : Keeps Prod.fst (startGraph s a) := by
  unfold startGraph
  grind [Keeps, Keeps.bind, Stateless.bind, Stop.Canon, ok_bind, graphArg_stateless, ungate_keeps, releaseAll_keeps]

theorem execCfgstart_canon {s : State} (h : s.mem.Wf) (p : Guard) (a : GReg) : Canon (execCfgstart p a s) := by
  refine word_canon ?_ h _
  exact startGraph_keeps h ..

theorem gateInst_wf {s : State} (h : s.mem.Wf) (i : Nat) (x : Inst) : (gateInst s i x).mem.Wf := by
  unfold gateInst
  grind [State.updInst_wf, sweepAfresh_wf, abandonAll_wf]

theorem execCfggate_canon {s : State} (h : s.mem.Wf) (p : Guard) (a b : GReg) : Canon (execCfggate p a b s) := by
  unfold execCfggate
  refine word_canon ?_ h _
  grind [Keeps, Keeps.bind, Stateless.bind, Stop.Canon, ok_bind, foldl_wf, startGraph_keeps, graphArg_stateless, gateInst_wf]

end Sys2Proof.Machine
end

section
/-! SUPPORT. O60: memory keeps its canonical form (log 3) under stacked calls and side calls (R38 to R43, R304, R312, R384,
R398 to R402). -/

namespace Sys2Proof.Machine

/-! ### Planes -/

theorem setSpill_wf {s : State} (h : s.mem.Wf) (i : Nat) (l : List (Nat × Inst)) : (setSpill s i l).mem.Wf :=
  h

theorem markSpilled_wf {s : State} (h : s.mem.Wf) (i : Nat) : (markSpilled s i).mem.Wf := by
  unfold markSpilled
  grind [foldl_wf, State.updInst_wf, dropHops_wf, syncHam_wf]

theorem evict_wf {s : State} (h : s.mem.Wf) (j : Nat) : (evict s j).mem.Wf := by
  unfold evict
  grind [sweepAfresh_wf, State.updInst_wf, markSpilled_wf]

theorem makeRoom_wf {s : State} (h : s.mem.Wf) (i : Nat) : (makeRoom s i).mem.Wf := by
  unfold makeRoom
  grind [foldl_wf, evict_wf]

theorem execSpillComplete_canon {s : State} (h : s.mem.Wf) (i : Nat) : Canon (execSpillComplete i s) := by
  unfold execSpillComplete
  grind [Canon, writeAllot_wf, sweepAfresh_wf, markSpilled_wf, setSpill_wf]

theorem startRefill_wf {s : State} (h : s.mem.Wf) (i : Nat) : (startRefill s i).mem.Wf := by
  unfold startRefill
  grind [State.updInst_wf]

theorem execRefillComplete_canon {s : State} (h : s.mem.Wf) (i : Nat) : Canon (execRefillComplete i s) := by
  unfold execRefillComplete
  grind [Canon, foldl_wf, putHops_wf, sweepAfresh_wf, syncHam_wf]

/-! ### STACKED_CALL -/

theorem stopLaunchReeves_wf {s : State} (h : s.mem.Wf) (l : Nat) (hs : List Nat) : (stopLaunchReeves s l hs).mem.Wf := by
  unfold stopLaunchReeves
  grind [foldl_wf, State.setReeve_wf, breakBarriers_wf]

theorem callTooDeep_wf {s : State} (h : s.mem.Wf) (n : NodeRef) : (callTooDeep s n).mem.Wf := by
  unfold callTooDeep
  grind [nodeFault_wf, releaseLaunch_wf, stopLaunchReeves_wf]

theorem execStackedCall_canon {s : State} (h : s.mem.Wf) (n : NodeRef) : Canon (execStackedCall n s) := by
  unfold execStackedCall
  grind [Canon, haltNode_wf, callTooDeep_wf, setJoin_wf, State.updInst_wf, makeRoom_wf]

/-! ### FREEZE_POINT -/

theorem retakeDescs_wf {s : State} (h : s.mem.Wf) (i : Nat) : (retakeDescs s i).mem.Wf := by
  unfold retakeDescs
  grind [foldl_wf, freshNodes_stateless, State.updInst_wf, haltNode_wf]

theorem thawBlock_keeps {rd : Reader} (hr : rd.Keeps) {s : State} (h : s.mem.Wf) (parm : Nat) (n : NodeRef) (r : CellRec) :
    Keeps id (thawBlock rd parm n r s) := by
  have hb := rereadBlock_keeps hr h parm r n.sub
  unfold thawBlock
  split
  · next e => exact State.updSlot_wf (hb.of_ok e) ..
  · exact haltSlot_wf h ..
  · next e => exact haltSlot_wf (hb.of_error e) ..
  · exact hb.of_error ‹_›

theorem thawBlocks_keeps {s : State} (h : s.mem.Wf) (i : Nat) (x : Inst) : Keeps id (thawBlocks s i x) := by
  refine .ite h (foldlM_keeps (fun t e ht => ?_) h _)
  exact .ite ht (foldlM_keeps (fun u a hu => thawBlock_keeps (imageReader_keeps _ _) hu ..) ht _)

theorem thawed_wf {s : State} (h : s.mem.Wf) (i : Nat) : (thawed s i).mem.Wf := by
  unfold thawed
  grind [foldl_wf, thawPorts_wf, State.updInst_wf, setSpill_wf, syncHam_wf, retakeDescs_wf]

theorem thaw_wf {k : State → State} (hk : ∀ s, s.mem.Wf → (k s).mem.Wf) {s : State} (h : s.mem.Wf) (i : Nat) (gone : Option
    Nat) :
    (thaw s i gone k).mem.Wf := by
  unfold thaw
  split
  · exact h
  · next x _ =>
    have hb := thawBlocks_keeps h i x
    extract_lets l
    refine wf_ite h ?_
    split
    · next u e =>
      have hu := release_wf (hb.of_ok e) .steward
      cases gone with
      | none => exact hk _ (thawed_wf hu _)
      | some j => exact hk _ (thawed_wf (releaseInst_wf hu ..) _)
    · exact register_wf h _
    · next u w e => exact hb.of_error e
    · exact h

theorem failCall_wf {s : State} (h : s.mem.Wf) (i : Nat) (site : NodeRef) (t : Trap) : (failCall s i site t).mem.Wf := by
  unfold failCall
  grind [thaw_wf, haltNode_wf, setJoin_wf]

theorem enterArgs_wf {s : State} (h : s.mem.Wf) (i ctx : Nat) (tag : W64) (poison : Bool) (words : List W64) : (enterArgs s i
    ctx tag poison words).mem.Wf := by
  unfold enterArgs
  grind [foldl_wf, enterIn_wf]

theorem enterCallee_wf {s : State} (h : s.mem.Wf) (i : Nat) (x : Inst) (g : Graph) (site : NodeRef) (words : List W64) (tag :
    W64) : (enterCallee s i x g site words tag).mem.Wf := by
  unfold enterCallee
  grind [foldl_wf, Places, placeOn_places, failCall_wf, State.updInst_wf, enterArgs_wf, syncHam_wf]

theorem loadCallee_wf {s : State} (h : s.mem.Wf) (i : Nat) (x : Inst) (site : NodeRef) (words : List W64) (tag : W64) :
    (loadCallee s i x site words tag).mem.Wf := by
  unfold loadCallee
  grind [failCall_wf, enterCallee_wf, State.updInst_wf, takeHams_wf]

theorem execFreezePoint_canon {s : State} (h : s.mem.Wf) (i : Nat) : Canon (execFreezePoint i s) := by
  unfold execFreezePoint
  grind [Canon, loadCallee_wf, makeRoom_wf, flushReeves_wf, State.updInst_wf, freezePorts_wf, abandonAll_wf, sweepAfresh_wf,
    raiseHeld_wf]

/-! ### RET -/

theorem retToPorts_wf {s : State} (h : s.mem.Wf) (n : NodeRef) (x : Inst) (words : List W64) (poison : Bool) : (retToPorts s n
    x words poison).mem.Wf := by
  unfold retToPorts
  grind [foldl_wf, setJoin_wf, markActive_wf, enterIn_wf]

theorem retToCaller_wf {s : State} (h : s.mem.Wf) (n : NodeRef) (caller : Nat) (site : NodeRef) (words : List W64) (poison :
    Bool) :
    (retToCaller s n caller site words poison).mem.Wf := by
  unfold retToCaller
  split
  · exact startRefill_wf h _
  · refine wf_ite h (thaw_wf (fun t ht => ?_) h ..)
    exact startRefill_wf (markActive_wf (setJoin_wf ht ..) _) _
  · exact h

theorem execRet_canon {s : State} (h : s.mem.Wf) (n : NodeRef) : Canon (execRet n s) := by
  unfold execRet
  grind [Canon, setJoin_wf, retToCaller_wf, retToPorts_wf]

/-! ### Side calls (R38, R304) -/

theorem endSide_wf {s : State} (h : s.mem.Wf) (req : Nat) (q : SideReq) : (endSide s req q).mem.Wf := by
  unfold endSide
  grind [foldl_wf, syncHam_wf]

theorem failSide_wf {s : State} (h : s.mem.Wf) (req : Nat) (q : SideReq) (t : Trap) : (failSide s req q t).mem.Wf :=
  endSide_wf h ..

theorem placeSide_wf {s : State} (h : s.mem.Wf) (req : Nat) (q : SideReq) (g : Graph) : (placeSide s req q g).mem.Wf := by
  unfold placeSide
  grind [foldl_wf, Places, placeOn_places, syncHam_wf, failSide_wf, endSide_wf, State.updInst_wf]

theorem execSideCallPlace_canon {s : State} (h : s.mem.Wf) (req : Nat) (hams : List Nat) : Canon (execSideCallPlace req hams
    s) := by
  unfold execSideCallPlace
  grind [Canon, failSide_wf, placeSide_wf, takeHams_wf]

theorem execSideCallRelease_canon {s : State} (h : s.mem.Wf) (i : Nat) : Canon (execSideCallRelease i s) := by
  unfold execSideCallRelease
  grind [Canon, releaseInst_wf]

end Sys2Proof.Machine
end

section
/-! SUPPORT. O60: memory keeps its canonical form (log 3) under the ENGINE instructions and their parameter blocks, engine
accesses and status areas, the Drover, the Pinfold and MPATH (R278, R327 to R340, R348, R403, R404). -/

namespace Sys2Proof.Machine

/-! ### Engine accesses (R329, R403, R417) -/

theorem engRead_keeps {s : State} (h : s.mem.Wf) (x : Acx) (k : Cap) (off : Int) (n align : Nat) : Keeps Prod.snd (engRead s x
    k off n align) :=
  (checkCapAt_stateless ..).bind fun _ => readSpan_keeps h ..

theorem engNat_keeps {s : State} (h : s.mem.Wf) (x : Acx) (k : Cap) (off : Int) (n align : Nat) : Keeps Prod.snd (engNat s x k
    off n align) :=
  (engRead_keeps h ..).bind fun _ ht => ht

theorem engWrite_keeps {s : State} (h : s.mem.Wf) (x : Acx) (k : Cap) (off : Int) (align : Nat) (bs : List Byte) : Keeps id
    (engWrite s x k off align bs) :=
  (checkCapAt_stateless ..).bind fun _ => writeSpan_keeps h ..

/-! ### Status areas (R328, R330, R404) -/

theorem engFault_wf {s : State} (h : s.mem.Wf) (c : Cmd) (t : Trap) : (engFault s c t).mem.Wf := by
  unfold engFault
  split <;> exact h

theorem step_works {α : Type} {get : α → State} {s : State} (h : s.mem.Wf) {m : Except Stop α} (hm : Keeps get m) (c : Cmd)
    (c1 c2 : Nat) : Works get (step_ s c c1 c2 m) := by
  cases m with
  | ok a => exact hm
  | error e =>
    cases e with
    | trap t => exact engFault_wf h ..
    | trapIn s t => exact engFault_wf hm ..
    | wait w rq => trivial
    | keep s w => exact hm

theorem writeStatus_wf {s : State} (h : s.mem.Wf) (id : Nat) (c : Cmd) (r : EngRes) : (writeStatus s id c r).mem.Wf := by
  have hl := locateIn_keeps h (c.acx id) c.cap.space c.cap.addr rW
  unfold writeStatus
  split
  · next l t e =>
    rw [e] at hl
    split
    · exact (storeLoc_keeps hl ..).of_ok ‹_›
    · exact hl
  · exact h

theorem finishCmd_wf {s : State} (h : s.mem.Wf) (i : Nat) (c : Cmd) (r : EngRes) : (finishCmd s i c r).mem.Wf := by
  unfold finishCmd
  grind [writeStatus_wf, State.setReeve_wf, release_wf]

theorem closeCmd_wf {s : State} (h : s.mem.Wf) (i : Nat) (c : Cmd) : (closeCmd s i c).mem.Wf :=
  wf_ite (finishCmd_wf h ..) h

theorem cmdStep_wf {s : State} (h : s.mem.Wf) {m : Work (State × Prog)} (hm : Works Prod.fst m) (id : Nat) (c : Cmd) :
    (cmdStep s id c m).mem.Wf := by
  unfold cmdStep
  extract_lets go
  have hgo (u : State) (p : Prog) (hu : u.mem.Wf) : (go u p).mem.Wf := by
    refine closeCmd_wf (release_wf ?_ _) ..
    exact hu
  split
  · exact closeCmd_wf h ..
  · split
    · exact hgo _ _ hm
    · exact hgo _ _ hm
    · exact register_wf h _
    · exact h

/-! ### Issue (R278, R327) -/

theorem takeTids_stateless (s : State) (ctx : Nat) (y : List (Nat × Option Nat)) : Stateless (takeTids s ctx y) := by
  fun_induction takeTids <;> grind [Stateless, Stateless.bind', Stop.Canon, takeDesc_stateless, check_stateless]

theorem engine_canon {chk : State → Cmd → Except Stop (State × Cmd)} (hc : ∀ s c, s.mem.Wf → Keeps Prod.fst (chk s c))
    {enter : State → Nat → Cmd → State} (he : ∀ s i c, s.mem.Wf → (enter s i c).mem.Wf) {s : State} (h : s.mem.Wf)
    (p : Guard) (d : GReg) (a : KReg) (b : GReg) (eng : Eng) (size : Nat) : Canon (engine p d a b eng size chk s enter) := by
  refine word_canon ?_ h p
  refine (issue_keeps h _ _ ?_).bind fun t ht => ?_
  · refine (checkCapAt_stateless ..).bind fun _ => (stepOne_stateless ..).bind fun _ => (check_stateless ..).bind fun _ =>
      (check_stateless ..).bind fun _ => (releaseAll_keeps h _).bind fun t ht => (capBlock_keeps ht ..).bind fun v hv => ?_
    exact (hc _ _ hv).bind fun w hw => (check_stateless ..).bind fun _ => State.setCtx_wf hw ..
  · dsimp only
    split
    · exact State.updMe_wf (he _ _ _ ht) _
    · exact State.updMe_wf ht _

/-! ### The Drover (R332 to R336) -/

theorem checkDrove_keeps {s : State} (h : s.mem.Wf) (c : Cmd) : Keeps Prod.fst (checkDrove s c) :=
  (check_stateless ..).bind fun _ => (takeTids_stateless ..).bind fun _ => h

theorem execDrove_canon {s : State} (h : s.mem.Wf) (p : Guard) (d : GReg) (a : KReg) (b : GReg) : Canon (execDrove p d a b s)
    := by
  unfold execDrove
  grind [Canon, Keeps, Stop.Canon, engine_canon, checkDrove_keeps]

theorem droveLoop_keeps {s : State} (h : s.mem.Wf) (x : Acx) (c : Cmd) (key n n1 n2 n3 n4 : Nat) (y : Option (List Byte)) :
    Keeps Prod.snd (droveLoop x c key n s n1 n2 n3 n4 y) := by
  fun_induction droveLoop <;> grind [Keeps, Keeps.bind, Stateless.bind, Stop.Canon, ok_bind, engRead_keeps]

theorem droveKey_keeps {s : State} (h : s.mem.Wf) (x : Acx) (c : Cmd) (j : Nat) : Keeps Prod.snd (droveKey s x c j) := by
  unfold droveKey
  extract_lets start
  have hs : Keeps (fun v => v.2.2) start := by
    refine (engNat_keeps h ..).bind fun v hv => ?_
    obtain ⟨k, u⟩ := v
    dsimp only
    split
    · exact hv
    · exact (engNat_keeps hv ..).bind fun w hw => hw
  clear_value start
  split
  · exact droveLoop_keeps (hs.of_ok rfl) ..
  · exact h
  · exact hs

theorem droveNext_works {s : State} (h : s.mem.Wf) (x : Acx) (c : Cmd) : Works Prod.fst (droveNext s x c) := by
  unfold droveNext
  grind [Works, Works.bind, ok_bind, Keeps, Stop.Canon, droveKey_keeps, engFault_wf, engWrite_keeps]

theorem execDroverWalkStart_canon {s : State} (h : s.mem.Wf) (parish : Nat) : Canon (execDroverWalkStart parish s) := by
  unfold execDroverWalkStart
  grind [Canon]

theorem execDroverWalkComplete_canon {s : State} (h : s.mem.Wf) (id : Nat) : Canon (execDroverWalkComplete id s) := by
  unfold execDroverWalkComplete Canon
  dsimp only
  split
  · split
    · exact cmdStep_wf h (droveNext_works h ..) ..
    · exact h
  · exact h

/-! ### The Pinfold (R203, R337 to R340) -/

theorem checkPinfold_keeps {s : State} (h : s.mem.Wf) (pair : Bool) (c : Cmd) : Keeps Prod.fst (checkPinfold pair s c) :=
  (check_stateless ..).bind fun _ => (takeTids_stateless ..).bind fun _ => (capBlock_keeps h ..).bind fun _ ht =>
    (check_stateless ..).bind fun _ => ht

theorem execPinbin_canon {s : State} (h : s.mem.Wf) (p : Guard) (d : GReg) (a : KReg) (b : GReg) : Canon (execPinbin p d a b
    s) := by
  unfold execPinbin
  grind [Canon, Keeps, Stop.Canon, engine_canon, checkPinfold_keeps]

theorem execPinpair_canon {s : State} (h : s.mem.Wf) (p : Guard) (d : GReg) (a : KReg) (b : GReg) : Canon (execPinpair p d a b
    s) := by
  unfold execPinpair
  grind [Canon, Keeps, Stop.Canon, engine_canon, checkPinfold_keeps]

theorem execPinfoldCommandStart_canon {s : State} (h : s.mem.Wf) (shire : Nat) : Canon (execPinfoldCommandStart shire s) := by
  unfold execPinfoldCommandStart
  grind [Canon]

theorem binPoint_works {s : State} (h : s.mem.Wf) (x : Acx) (c : Cmd) (g : Grid) : Works Prod.fst (binPoint s x c g) := by
  unfold binPoint
  refine (step_works h (engRead_keeps h ..) ..).bind fun v hv => ?_
  obtain ⟨v, s⟩ := v
  dsimp only
  split
  · split
    · exact (step_works hv (engWrite_keeps hv ..) ..).bind fun t ht => (step_works ht (engWrite_keeps ht ..) ..).bind fun u hu => hu
    · split
      · exact hv
      · refine (step_works hv (engWrite_keeps hv ..) ..).bind fun t ht => ?_
        split
        · exact (step_works ht (engWrite_keeps ht ..) ..).bind fun w hw => hw
        · exact (step_works ht (engWrite_keeps ht ..) ..).bind fun u hu =>
            (step_works hu (engWrite_keeps hu ..) ..).bind fun w hw => hw
  · exact hv

theorem binNext_works {s : State} (h : s.mem.Wf) (x : Acx) (c : Cmd) : Works Prod.fst (binNext s x c) := by
  unfold binNext
  dsimp only
  split
  · exact (step_works h (engRead_keeps h ..) ..).bind fun v hv => (step_works hv (engWrite_keeps hv ..) ..).bind fun t ht => ht
  · split
    · exact binPoint_works h ..
    · split
      · exact h
      · split
        · exact h
        · exact (step_works h (engWrite_keeps h ..) ..).bind fun t ht => ht

theorem execPinbinComplete_canon {s : State} (h : s.mem.Wf) (id : Nat) : Canon (execPinbinComplete id s) := by
  unfold execPinbinComplete Canon
  dsimp only
  split
  · split
    · exact cmdStep_wf h (binNext_works h ..) ..
    · exact h
  · exact h

theorem pairSlots_works {s : State} (h : s.mem.Wf) (x : Acx) (c : Cmd) (g : Grid) (p n : Nat) (m : SMap Nat) :
    Works Prod.fst (pairSlots x c g p n s m) := by
  induction n generalizing s m with
  | zero => exact h
  | succ n ih => exact (ih h m).bind fun v hv => (step_works hv (engNat_keeps hv ..) ..).bind fun w hw => hw

theorem pairChain_works {s : State} (h : s.mem.Wf) (x : Acx) (c : Cmd) (p n e : Nat) (m : SMap Nat) :
    Works Prod.fst (pairChain x c p n e s m) := by
  induction n generalizing s e m with
  | zero => exact h
  | succ n ih =>
    unfold pairChain
    split
    · exact h
    · exact (step_works h (engNat_keeps h ..) ..).bind fun v hv => ih hv ..

theorem pairPens_works {s : State} (h : s.mem.Wf) (x : Acx) (c : Cmd) (n : Nat) : Works Prod.fst (pairPens x c n s) := by
  induction n generalizing s with
  | zero => exact h
  | succ n ih => exact (ih h).bind fun v hv => (step_works hv (engNat_keeps hv ..) ..).bind fun w hw => hw

theorem pairPoints_works {s : State} (h : s.mem.Wf) (x : Acx) (c : Cmd) (g : Grid) (y : List (Nat × Nat)) (y1 : SMap Nat) :
    Works Prod.fst (pairPoints x c g y s y1) := by
  fun_induction pairPoints <;> grind [Works, Works.bind, ok_bind, pairSlots_works, pairChain_works]

theorem pairCoords_works {s : State} (h : s.mem.Wf) (x : Acx) (c : Cmd) (l : List (Nat × Nat)) :
    Works Prod.fst (pairCoords x c l s) := by
  induction l generalizing s with
  | nil => exact h
  | cons e l ih => exact (step_works h (engRead_keeps h ..) ..).bind fun v hv => (ih hv).bind fun w hw => hw

theorem pairRead_works {s : State} (h : s.mem.Wf) (x : Acx) (c : Cmd) : Works Prod.fst (pairRead s x c) := by
  refine (step_works h (engRead_keeps h ..) ..).bind fun v hv => (pairPens_works hv ..).bind fun w hw => ?_
  dsimp only
  split
  · exact hw
  · exact (pairPoints_works hw ..).bind fun p hp => (pairCoords_works hp ..).bind fun q hq => hq

theorem pairNext_works {s : State} (h : s.mem.Wf) (x : Acx) (c : Cmd) : Works Prod.fst (pairNext s x c) := by
  unfold pairNext
  dsimp only
  split
  · exact pairRead_works h ..
  · split
    · exact h
    · exact (step_works h (engWrite_keeps h ..) ..).bind fun t ht => ht

theorem execPinpairComplete_canon {s : State} (h : s.mem.Wf) (id : Nat) : Canon (execPinpairComplete id s) := by
  unfold execPinpairComplete Canon
  dsimp only
  split
  · split
    · exact cmdStep_wf h (pairNext_works h ..) ..
    · exact h
  · exact h

/-! ### MPATH (R348) -/

theorem checkMpath_keeps {s : State} (h : s.mem.Wf) (c : Cmd) : Keeps Prod.fst (checkMpath s c) :=
  (check_stateless ..).bind fun _ => (takeTids_stateless ..).bind fun _ => h

theorem execMpath_canon {s : State} (h : s.mem.Wf) (p : Guard) (d : GReg) (a : KReg) (b : GReg) : Canon (execMpath p d a b s)
    := by
  unfold execMpath
  grind [Canon, Keeps, Stop.Canon, engine_canon, checkMpath_keeps]

theorem mpathKeys_works {s : State} (h : s.mem.Wf) (x : Acx) (c : Cmd) (d : Desc) (n : Nat) :
    Works Prod.fst (mpathKeys x c d n s) := by
  induction n generalizing s with
  | zero => exact h
  | succ n ih => exact (ih h).bind fun v hv => (step_works hv (engRead_keeps hv ..) ..).bind fun w hw => hw

theorem mpathRead_works {s : State} (h : s.mem.Wf) (x : Acx) (c : Cmd) : Works Prod.fst (mpathRead s x c) := by
  unfold mpathRead
  grind [Works, Works.bind, ok_bind, mpathKeys_works]

theorem mpathNext_works {s : State} (h : s.mem.Wf) (x : Acx) (c : Cmd) : Works Prod.fst (mpathNext s x c) := by
  unfold mpathNext
  dsimp only
  split
  · exact mpathRead_works h ..
  · split
    · exact h
    · exact (step_works h (engWrite_keeps h ..) ..).bind fun t ht => ht

theorem execMpathComplete_canon {s : State} (h : s.mem.Wf) (id : Nat) : Canon (execMpathComplete id s) := by
  unfold execMpathComplete Canon
  dsimp only
  split
  · split
    · exact cmdStep_wf h (mpathNext_works h ..) ..
    · exact h
  · exact h

end Sys2Proof.Machine
end

section
/-! SUPPORT. O60: memory keeps its canonical form (log 3) under the Miller. -/

namespace Sys2Proof.Machine

/-! ### Records (R346) -/

theorem readRec_keeps {s : State} (h : s.mem.Wf) (key : Nat) (q : MQueue) (i : Nat) : Keeps Prod.snd (readRec s key q i) :=
  engRead_keeps h ..

theorem writeRec_wf {s : State} (h : s.mem.Wf) (key : Nat) (q : MQueue) (i o : Nat) (bs : List Byte) :
    (writeRec s key q i o bs).mem.Wf := by
  unfold writeRec
  split
  · exact (engWrite_keeps h ..).of_ok ‹_›
  · exact h

theorem setState_wf {s : State} (h : s.mem.Wf) (key : Nat) (q : MQueue) (i st fcode : Nat) : (setState s key q i st
    fcode).mem.Wf := by
  unfold setState
  split
  · exact writeRec_wf (writeRec_wf h ..) ..
  · exact writeRec_wf h ..

/-! ### The end of APPEND and DETACH (R345) -/

theorem noteEnd_wf {s : State} (h : s.mem.Wf) (key i : Nat) (ok : Bool) : (noteEnd s key i ok).mem.Wf := by
  unfold noteEnd
  split <;> exact h

theorem endTask_wf {s : State} (h : s.mem.Wf) (x : Nat × Cmd) : (endTask s x).mem.Wf := by
  unfold endTask
  grind [finishCmd_wf]

theorem endTasks_wf {s : State} (h : s.mem.Wf) : (endTasks s).mem.Wf := by
  unfold endTasks
  grind [foldl_wf, endTask_wf]

/-! ### MTASK (R278, R345) -/

theorem appendRecs_keeps {s : State} (h : s.mem.Wf) (x : Acx) (k : Cap) (y : List Nat) : Keeps id (appendRecs x k y s) := by
  fun_induction appendRecs <;> grind [Keeps, Keeps.bind, Stateless.bind, Stop.Canon, ok_bind, engRead_keeps, check_stateless]

theorem enterMtask_wf {s : State} (h : s.mem.Wf) (i : Nat) (c : Cmd) : (enterMtask s i c).mem.Wf := by
  unfold enterMtask
  grind [foldl_wf, writeRec_wf, release_wf]

theorem checkMtask_keeps {s : State} (h : s.mem.Wf) (c : Cmd) : Keeps Prod.fst (checkMtask s c) := by
  unfold checkMtask
  grind [Keeps, Keeps.bind, Stateless.bind, Stop.Canon, ok_bind, check_stateless, takeTids_stateless, raise_keeps,
    appendRecs_keeps]

theorem settleTasks_canon {o : Host.Outcome State Fault Refusal} (h : Canon o) : Canon (settleTasks o) := by
  unfold settleTasks
  split
  · exact endTasks_wf (foldl_wf (fun s e hs => finishCmd_wf hs ..) h _)
  · exact h

theorem mtask_canon {s : State} (h : s.mem.Wf) (p : Guard) (d : GReg) (a : KReg) (b : GReg) : Canon (mtask p d a b s) :=
  settleTasks_canon (engine_canon (fun _ _ hs => checkMtask_keeps hs _) (fun _ _ _ hs => enterMtask_wf hs ..) h ..)

theorem execMtaskAttach_canon {s : State} (h : s.mem.Wf) (p : Guard) (d : GReg) (a : KReg) (b : GReg) : Canon (execMtaskAttach
    p d a b s) :=
  mtask_canon h ..

theorem execMtaskAppend_canon {s : State} (h : s.mem.Wf) (p : Guard) (d : GReg) (a : KReg) (b : GReg) : Canon (execMtaskAppend
    p d a b s) :=
  mtask_canon h ..

theorem execMtaskDetach_canon {s : State} (h : s.mem.Wf) (p : Guard) (d : GReg) (a : KReg) (b : GReg) : Canon (execMtaskDetach
    p d a b s) :=
  mtask_canon h ..

/-! ### Issue (R185, R346) -/

theorem taskDescs_stateless (s : State) (ctx : Nat) (r : List Byte) : Stateless (taskDescs s ctx r) :=
  (takeTids_stateless ..).bind' fun _ => (takeTids_stateless ..).bind' fun _ => trivial

/-- A record that is found ready, or what stopped the search, has a canonical memory. -/
def FoundRec : Except (Nat × Stop) (Option (Nat × List Byte × State)) → Prop
  | .ok none => True
  | .ok (some r) => r.2.2.mem.Wf
  | .error e => e.2.Canon

theorem findReady_found {s : State} (h : s.mem.Wf) (key : Nat) (q : MQueue) (l : List Nat) :
    FoundRec (findReady s key q l) := by
  induction l with
  | nil => trivial
  | cons i l ih =>
    have hr := readRec_keeps h key q i
    unfold findReady
    split
    · exact hr.of_error ‹_›
    · split
      · exact hr.of_ok ‹_›
      · exact ih

theorem taskFault_wf {s : State} (h : s.mem.Wf) (key i : Nat) (q : MQueue) (t : Trap) : (taskFault s key i q t).mem.Wf :=
  wf_ite (recordFault_wf h ..) h

theorem failRec_wf {s : State} (h : s.mem.Wf) (key : Nat) (q : MQueue) (i fcode : Nat) : (failRec s key q i fcode).mem.Wf := by
  unfold failRec
  grind [setState_wf, endTasks_wf, noteEnd_wf, release_wf]

theorem issueRec_wf {s : State} (h : s.mem.Wf) (key : Nat) (q : MQueue) (mill : NodeRef) (i : Nat) (r : List Byte) : (issueRec
    s key q mill i r).mem.Wf := by
  unfold issueRec
  grind [failRec_wf, taskDescs_stateless, release_wf, setState_wf, crierAt_wf]

theorem execTileTaskIssue_canon {s : State} (h : s.mem.Wf) (shire key : Nat) (mill : NodeRef) :
    Canon (execTileTaskIssue shire key mill s) := by
  unfold execTileTaskIssue Canon
  dsimp only
  split
  · exact h
  · next q _ =>
    have hf := findReady_found h key q (q.waiting.take 32)
    split
    · exact h
    · split
      · exact release_wf h _
      · next e =>
        rw [e] at hf
        exact issueRec_wf hf ..
      · exact register_wf h _
      · exact failRec_wf (taskFault_wf h ..) ..
      · next e =>
        rw [e] at hf
        exact failRec_wf (taskFault_wf hf ..) ..
      · next e =>
        rw [e] at hf
        exact hf

/-! ### Operands (R59, R61, R137 to R139, R346) -/

theorem rowElem_keeps {s : State} (h : s.mem.Wf) (x : Acx) (d : Desc) (k r : Nat) : Keeps Prod.snd (rowElem s x d k r) := by
  unfold rowElem
  grind [Keeps, Keeps.bind, Stateless.bind, Stop.Canon, ok_bind, engNat_keeps]

theorem rowElems_keeps {s : State} (h : s.mem.Wf) (x : Acx) (d : Desc) (k r n : Nat) : Keeps Prod.snd (rowElems s x d k r n)
    := by
  fun_induction rowElems <;> grind [Keeps, Keeps.bind, Stateless.bind, Stop.Canon, ok_bind, rowElem_keeps]

theorem tileElems_keeps {s : State} (h : s.mem.Wf) (x : Acx) (d : Desc) (k r n : Nat) : Keeps (fun v => v.2.2) (tileElems s x
    d k r n) :=
  (engRead_keeps h ..).bind fun _ ht => (access_stateless ..).bind fun _ => ht

theorem runOpnds_keeps {s : State} (h : s.mem.Wf) (x : Acx) (d sd : Desc) (q k r n : Nat) : Keeps Prod.snd (runOpnds s x d sd
    q k r n) := by
  unfold runOpnds
  grind [Keeps, Keeps.bind, Stateless.bind, Stop.Canon, ok_bind, readScales_keeps, tileElems_keeps, rowElems_keeps]

theorem rowRuns_keeps {s : State} (h : s.mem.Wf) (x : Acx) (d sd : Desc) (q r : Nat) (y : List (Nat × Nat)) : Keeps Prod.snd
    (rowRuns s x d sd q r y) := by
  fun_induction rowRuns <;> grind [Keeps, Keeps.bind, Stateless.bind, Stop.Canon, ok_bind, runOpnds_keeps]

theorem rowsRuns_keeps {s : State} (h : s.mem.Wf) (x : Acx) (d sd : Desc) (q : Nat) (ks : List (Nat × Nat)) (r n : Nat) :
    Keeps Prod.snd (rowsRuns s x d sd q ks r n) := by
  fun_induction rowsRuns <;> grind [Keeps, Keeps.bind, Stateless.bind, Stop.Canon, ok_bind, rowRuns_keeps]

/-! ### The sum (R73, R76, R346) -/

theorem cInit_keeps {s : State} (h : s.mem.Wf) (x : Acx) (d : Desc) (acc : Bool) (y : List (Nat × Nat)) : Keeps Prod.snd
    (cInit s x d acc y) := by
  fun_induction cInit <;> grind [Keeps, Keeps.bind, Stateless.bind, Stop.Canon, ok_bind, engNat_keeps]

theorem cWrite_keeps {s : State} (h : s.mem.Wf) (x : Acx) (d : Desc) (y : List ((Nat × Nat) × W32)) : Keeps id (cWrite x d y
    s) := by
  fun_induction cWrite <;> grind [Keeps, Keeps.bind, Stateless.bind, Stop.Canon, ok_bind, engWrite_keeps]

theorem cFlags_wf {s : State} (h : s.mem.Wf) (x : Acx) (d : Desc) (l : List (Nat × Nat)) : (cFlags s x d l).mem.Wf := by
  refine foldl_wf (fun t g ht => ?_) h _
  dsimp only
  split
  · exact ht.setNonzero (rises_sput ht.nonzero ..)
  · exact ht

theorem taskRun_keeps {s : State} (h : s.mem.Wf) (x : Acx) (t : Task) : Keeps (fun v => v.1) (taskRun s x t) := by
  unfold taskRun
  grind [Keeps, Keeps.bind, Stateless.bind, Stop.Canon, ok_bind, rowsRuns_keeps, cInit_keeps, cWrite_keeps]

theorem decDep_keeps {s : State} (h : s.mem.Wf) (key i : Nat) : Keeps id (decDep key s i) := by
  unfold decDep
  grind [Keeps, Keeps.bind, Stateless.bind, Stop.Canon, ok_bind, setState_wf, noteEnd_wf, engNat_keeps, writeRec_wf,
    taskFault_wf]

theorem freeTask_wf {s : State} (h : s.mem.Wf) (key i : Nat) : (freeTask s key i).mem.Wf :=
  h

theorem closeTask_wf {s : State} (h : s.mem.Wf) (key i : Nat) (q : MQueue) (t : Task) : (closeTask s key i q t).mem.Wf := by
  unfold closeTask
  split
  · exact h
  · split
    · next e =>
      have hu := (foldlM_keeps (fun _ _ ht => decDep_keeps ht ..) (setState_wf h ..) _).of_ok e
      exact endTasks_wf (noteEnd_wf (freeTask_wf hu ..) ..)
    · exact register_wf h _
    · exact h

theorem updTask_wf {s : State} (h : s.mem.Wf) (key i : Nat) (f : Task → Task) : (updTask s key i f).mem.Wf :=
  h

theorem storeTask_wf {s : State} (h : s.mem.Wf) (key i : Nat) (q : MQueue) (t : Task) (words : List ((Nat × Nat) × W32)) (sat
    : List Nat) (prods skipped : Nat) : (storeTask s key i q t words sat prods skipped).mem.Wf :=
  State.count_wf (countProds_wf (setSat_wf h ..) ..) ..

theorem taskWord_keeps {s : State} (h : s.mem.Wf) (key i : Nat) (q : MQueue) (t : Task) (w : (Nat × Nat) × W32) (l : List
    ((Nat × Nat) × W32)) : Keeps id (taskWord s key i q t w l) :=
  (cWrite_keeps h ..).bind fun _ ht => wf_ite (cFlags_wf ht ..) ht

theorem execTileTaskComplete_canon {s : State} (h : s.mem.Wf) (shire key i : Nat) : Canon (execTileTaskComplete shire key i s)
    := by
  have hfail {u : State} (hu : u.mem.Wf) (q : MQueue) (e : Trap) :
      (endTasks (noteEnd (freeTask (setState (taskFault u key i q e) key q i 4 e.code.num) key i) key i false)).mem.Wf :=
    endTasks_wf (noteEnd_wf (freeTask_wf (setState_wf (taskFault_wf hu ..) ..) ..) ..)
  unfold execTileTaskComplete Canon
  dsimp only
  split
  · exact h
  · next q _ =>
    split
    · exact h
    · next t _ =>
      have hn : Keeps id (if t.summed then (match t.rest with
          | [] => .ok (closeTask s key i q t)
          | w :: l => taskWord s key i q t w l)
        else do
          let (s, words, sat, prods, skipped) ← taskRun s (q.acx key) t
          .ok (storeTask s key i q t words sat prods skipped)) := by
        split
        · split
          · exact closeTask_wf h ..
          · exact taskWord_keeps h ..
        · exact (taskRun_keeps h ..).bind fun v hv => storeTask_wf hv ..
      split
      · exact hn.of_ok ‹_›
      · exact register_wf h _
      · exact hfail h q _
      · next e => exact hfail (hn.of_error e) q _
      · exact h

end Sys2Proof.Machine
end

section
/-! SUPPORT. O60: memory keeps its canonical form (log 3) under coded video as tensors (R349 to R366). -/

namespace Sys2Proof.Machine

/-! ### Chain state (R357) -/

theorem chainRead_keeps {s : State} (h : s.mem.Wf) (x : Acx) (c : Cmd) (st j ux uy : Nat) : Keeps Prod.snd (chainRead s x c st
    j ux uy) :=
  (engNat_keeps h ..).bind fun _ ht => ht

theorem chainWrite_keeps {s : State} (h : s.mem.Wf) (x : Acx) (c : Cmd) (st j ux uy e depth : Nat) : Keeps id (chainWrite s x
    c st j ux uy e depth) :=
  engWrite_keeps h ..

theorem chainFill_keeps {s : State} (h : s.mem.Wf) (x : Acx) (c : Cmd) (st j : Nat) (y : List (Nat × Nat)) : Keeps id
    (chainFill x c st j y s) := by
  fun_induction chainFill <;> grind [Keeps, Keeps.bind, Stateless.bind, Stop.Canon, ok_bind, chainWrite_keeps]

theorem chainFills_keeps {s : State} (h : s.mem.Wf) (x : Acx) (c : Cmd) (st : Nat) (y : List Nat) : Keeps id (chainFills x c
    st y s) := by
  fun_induction chainFills <;> grind [Keeps, Keeps.bind, Stateless.bind, Stop.Canon, ok_bind, chainFill_keeps]

theorem chainCopy_keeps {s : State} (h : s.mem.Wf) (x : Acx) (c : Cmd) (st k j : Nat) (y : List (Nat × Nat)) : Keeps id
    (chainCopy x c st k j y s) := by
  fun_induction chainCopy <;> grind [Keeps, Keeps.bind, Stateless.bind, Stop.Canon, ok_bind, chainRead_keeps, chainWrite_keeps]

theorem chainCopies_keeps {s : State} (h : s.mem.Wf) (x : Acx) (c : Cmd) (st : Nat) (y : List (Nat × Nat)) : Keeps id
    (chainCopies x c st y s) := by
  fun_induction chainCopies <;> grind [Keeps, Keeps.bind, Stateless.bind, Stop.Canon, ok_bind, chainCopy_keeps]

theorem chainKeeps_keeps {s : State} (h : s.mem.Wf) (x : Acx) (c : Cmd) (st : Nat) (us : List (Nat × Nat)) (y : List Nat) :
    Keeps id (chainKeeps x c st us y s) := by
  fun_induction chainKeeps <;> grind [Keeps, Keeps.bind, Stateless.bind, Stop.Canon, ok_bind, chainCopy_keeps]

/-! ### The error estimate (R358, R361) -/

theorem coverRead_keeps {s : State} (h : s.mem.Wf) (x : Acx) (c : Cmd) (st : Nat) (p : Picture) (slot : Nat) (y : List (Int ×
    Int × Nat)) : Keeps Prod.snd (coverRead x c st p slot y s) := by
  fun_induction coverRead <;> grind [Keeps, Keeps.bind, Stateless.bind, Stop.Canon, ok_bind, chainRead_keeps]

theorem coverAll_keeps {s : State} (h : s.mem.Wf) (x : Acx) (c : Cmd) (st : Nat) (p : Picture) (ux uy : Nat) (y : List PicRef)
    : Keeps Prod.snd (coverAll x c st p ux uy y s) := by
  fun_induction coverAll <;> grind [Keeps, Keeps.bind, Stateless.bind, Stop.Canon, ok_bind, coverRead_keeps]

theorem unitEsts_keeps {s : State} (h : s.mem.Wf) (x : Acx) (c : Cmd) (st : Nat) (p : Picture) (rs : List PicRef) (qp : Nat)
    (y : List (Nat × Nat)) : Keeps Prod.snd (unitEsts x c st p rs qp y s) := by
  fun_induction unitEsts <;> grind [Keeps, Keeps.bind, Stateless.bind, Stop.Canon, ok_bind, foldl_wf, coverAll_keeps]

theorem chainBlock_keeps {s : State} (h : s.mem.Wf) (x : Acx) (c : Cmd) (st : Nat) (y : List ((Nat × Nat) × Nat × Nat)) :
    Keeps id (chainBlock x c st y s) := by
  fun_induction chainBlock <;> grind [Keeps, Keeps.bind, Stateless.bind, Stop.Canon, ok_bind, chainWrite_keeps]

/-! ### Records (R352, R353) -/

theorem codeBlock_keeps {s : State} (h : s.mem.Wf) (x : Acx) (c : Cmd) (st : Nat) (p : Picture) (b : PicBlock) (first : Nat) :
    Keeps Prod.snd (codeBlock s x c st p b first) := by
  unfold codeBlock
  grind [Keeps, Keeps.bind, Stateless.bind, Stop.Canon, ok_bind, chainBlock_keeps, unitEsts_keeps]

theorem codeBlocks_keeps {s : State} (h : s.mem.Wf) (x : Acx) (c : Cmd) (st : Nat) (p : Picture) (y : List PicBlock) (n : Nat)
    : Keeps Prod.snd (codeBlocks x c st p y n s) := by
  fun_induction codeBlocks <;> grind [Keeps, Keeps.bind, Stateless.bind, Stop.Canon, ok_bind, codeBlock_keeps]

theorem codePicture_keeps {s : State} (h : s.mem.Wf) (x : Acx) (c : Cmd) (st : Nat) (p : Picture) : Keeps Prod.snd
    (codePicture s x c st p) :=
  (codeBlocks_keeps h ..).bind fun _ ht => (chainKeeps_keeps ht ..).bind fun _ hu => hu

end Sys2Proof.Machine
end

section
/-! SUPPORT. O60: memory keeps its canonical form (log 3) under the Thresher (R186, R341 to R344, R364 to R366). -/

namespace Sys2Proof.Machine

/-! ### THRESH (R278, R341) -/

theorem checkOpen_keeps {s : State} (h : s.mem.Wf) (c : Cmd) : Keeps Prod.fst (checkOpen s c) :=
  (check_stateless ..).bind fun _ => (takeTids_stateless ..).bind fun _ => (takeTids_stateless ..).bind fun _ =>
    (check_stateless ..).bind fun _ => (check_stateless ..).bind fun _ => (takeCtab_stateless ..).bind fun _ => h

theorem checkThresh_keeps {s : State} (h : s.mem.Wf) (c : Cmd) : Keeps Prod.fst (checkThresh s c) := by
  unfold checkThresh
  grind [Keeps, Keeps.bind, Stateless.bind, Stop.Canon, ok_bind, checkOpen_keeps, cfgReject_keeps]

theorem enterThresh_wf {s : State} (h : s.mem.Wf) (n : Nat) (c : Cmd) : (enterThresh s n c).mem.Wf := by
  unfold enterThresh
  split <;> exact h

theorem settleClose_canon {o : Host.Outcome State Fault Refusal} (h : Canon o) : Canon (settleClose o) := by
  unfold settleClose
  split
  · exact foldl_wf (fun s e hs => finishCmd_wf hs ..) h _
  · exact h

theorem thresh_canon {s : State} (h : s.mem.Wf) (p : Guard) (d : GReg) (a : KReg) (b : GReg) : Canon (thresh p d a b s) :=
  settleClose_canon (engine_canon (fun _ _ hs => checkThresh_keeps hs _) (fun _ _ _ hs => enterThresh_wf hs ..) h ..)

theorem execThreshOpen_canon {s : State} (h : s.mem.Wf) (p : Guard) (d : GReg) (a : KReg) (b : GReg) : Canon (execThreshOpen p
    d a b s) :=
  thresh_canon h ..

theorem execThreshClose_canon {s : State} (h : s.mem.Wf) (p : Guard) (d : GReg) (a : KReg) (b : GReg) : Canon (execThreshClose
    p d a b s) :=
  thresh_canon h ..

/-! ### Sessions (R341 to R344) -/

theorem execThresherSessionStart_canon {s : State} (h : s.mem.Wf) (shire : Nat) : Canon (execThresherSessionStart shire s) := by
  unfold execThresherSessionStart
  grind [Canon]

theorem endSession_wf {s : State} (h : s.mem.Wf) (i : Nat) (c : Cmd) (r : EngRes) : (endSession s i c r).mem.Wf :=
  foldl_wf (fun _ _ ht => finishCmd_wf ht ..) (finishCmd_wf h ..) _

theorem dirRead_keeps {s : State} (h : s.mem.Wf) (x : Acx) (c : Cmd) (st : Nat) : Keeps Prod.snd (dirRead s x c st) := by
  unfold dirRead
  refine (engRead_keeps h ..).bind fun v hv => (access_stateless ..).bind fun l => ?_
  obtain ⟨bs, t⟩ := v
  dsimp only
  split
  · exact .ite trivial hv
  · exact hv

theorem ringRead_keeps {s : State} (h : s.mem.Wf) (x : Acx) (k : Cap) (d : DirIn) (n : Nat) : Keeps Prod.snd (ringRead s x k d
    n) := by
  unfold ringRead
  grind [Keeps, Keeps.bind, Stateless.bind, Stop.Canon, ok_bind, engRead_keeps]

/-- The start of a ring that cannot be read to its end leaves a canonical memory, and stops with one. -/
theorem ringPrefix_wf {s : State} (h : s.mem.Wf) (x : Acx) (k : Cap) (d : DirIn) (n : Nat) :
    (ringPrefix s x k d n).2.mem.Wf ∧ ∀ e, (ringPrefix s x k d n).1.2 = some e → e.Canon := by
  induction n with
  | zero => exact ⟨h, fun e he => nomatch he⟩
  | succ n ih =>
    have hr (n : Nat) := ringRead_keeps h x k d n
    unfold ringPrefix
    split
    · exact ⟨(hr _).of_ok ‹_›, fun e he => nomatch he⟩
    · next e he =>
      refine ⟨ih.1, fun y hy => ?_⟩
      obtain rfl := Option.some.inj hy
      have he := (hr _).of_error he
      split
      · exact he
      · split
        · exact (hr _).of_error ‹_›
        · exact he

theorem nextOf_keeps {s : State} (h : s.mem.Wf) (x : Acx) (c : Cmd) (st : Nat) (d : DirIn) :
    Keeps Prod.snd (nextOf s x c st d) := by
  unfold nextOf
  refine (check_stateless ..).bind fun _ => ?_
  have hp := ringPrefix_wf h x (tidEntry s c.ctx d.tid).base d (Nat.min (d.wr - d.rd) d.size)
  generalize ringPrefix s x (tidEntry s c.ctx d.tid).base d (Nat.min (d.wr - d.rd) d.size) = r at hp
  obtain ⟨⟨bs, stop⟩, t⟩ := r
  dsimp only
  split
  · split
    · exact hp.1
    · trivial
  · split
    · exact hp.1
    · split
      · exact hp.2 _ rfl
      · split
        · exact hp.1
        · trivial

theorem putSample_keeps {s : State} (h : s.mem.Wf) (c : Cmd) (e : Session) (st pic flags : Nat) (r : List (List Byte) × List
    (List Byte)) : Keeps Prod.fst (putSample s c e st pic flags r) :=
  h

theorem noteReplaced_wf {s : State} (h : s.mem.Wf) (c : Cmd) (e : Session) (st : Nat) : (noteReplaced s c e st).1.mem.Wf := by
  unfold noteReplaced
  grind [crierAt_wf, recordFault_wf, State.updLaunch_wf]

theorem replaceSample_keeps {s : State} (h : s.mem.Wf) (x : Acx) (c : Cmd) (e : Session) (st pic : Nat) (p : Picture) : Keeps
    Prod.fst (replaceSample s x c e st pic p) := by
  unfold replaceSample
  grind [Keeps, Keeps.bind, Stateless.bind, Stop.Canon, ok_bind, chainFills_keeps, noteReplaced_wf, putSample_keeps]

theorem takeSample_keeps {s : State} (h : s.mem.Wf) (x : Acx) (c : Cmd) (e : Session) (st : Nat) :
    Keeps Prod.fst (takeSample s x c e st) := by
  unfold takeSample
  refine (dirRead_keeps h ..).bind fun v hv => (nextOf_keeps hv ..).bind fun w hw => ?_
  obtain ⟨r, t⟩ := w
  dsimp only
  split
  · exact putSample_keeps hw ..
  · refine (engWrite_keeps hw ..).bind fun t ht => (chainCopies_keeps ht ..).bind fun t ht =>
      (chainFills_keeps ht ..).bind fun t ht => ?_
    exact .ite (replaceSample_keeps ht ..) ((codePicture_keeps ht ..).bind fun v hv => putSample_keeps hv ..)

theorem batchDone_wf {s : State} (h : s.mem.Wf) (i : Nat) (c : Cmd) : (batchDone s i c).mem.Wf := by
  unfold batchDone
  grind [State.setReeve_wf, crierAt_wf, writeStatus_wf, release_wf, lowWater_wf]

theorem sampleStep_works {s : State} (h : s.mem.Wf) (id : Nat) (c : Cmd) : Works Prod.fst (sampleStep s id c) :=
  step_works h (.ite (putSample_keeps h ..) (takeSample_keeps h ..)) ..

theorem pieceStep_works {s : State} (h : s.mem.Wf) (id : Nat) (c : Cmd) (p : Piece) (l : List Piece) :
    Works Prod.fst (pieceStep s id c p l) :=
  (step_works h (engWrite_keeps h ..) ..).bind fun _ ht => ht

theorem sessionStep_wf {s : State} (h : s.mem.Wf) {w : Work (State × Session)} (hw : Works Prod.fst w) (id : Nat) (c : Cmd) :
    (sessionStep s id c w).mem.Wf := by
  unfold sessionStep
  split
  · next u e =>
    have hu : u.mem.Wf := hw
    exact hu
  · next u r => exact endSession_wf hw ..
  · exact register_wf h _
  · exact h

theorem batchStep_wf {s : State} (h : s.mem.Wf) (id : Nat) : (batchStep id s).mem.Wf := by
  unfold batchStep
  split
  · exact h
  · dsimp only
    split
    · exact wf_ite (sessionStep_wf h (pieceStep_works h ..) ..) h
    · refine wf_ite h (wf_ite (wf_ite h (batchDone_wf h ..)) ?_)
      split
      · exact register_wf h _
      · exact sessionStep_wf h (sampleStep_works h ..) ..

theorem batchSteps_wf {s : State} (h : s.mem.Wf) (i n : Nat) : (batchSteps i n s).mem.Wf := by
  fun_induction batchSteps <;> grind [batchStep_wf]

theorem execThresherBatch_canon {s : State} (h : s.mem.Wf) (i more : Nat) : Canon (execThresherBatch i more s) :=
  batchSteps_wf h ..

theorem execThresherSessionEnd_canon {s : State} (h : s.mem.Wf) (i : Nat) : Canon (execThresherSessionEnd i s) := by
  unfold execThresherSessionEnd
  unfold Canon
  dsimp only
  split
  · exact h
  · exact wf_ite (endSession_wf h ..) h

end Sys2Proof.Machine
end

section
/-! SUPPORT. O60: memory keeps its canonical form (log 3) under walks and invalidations (R148 to R152), accesses of the host
and of peer packages (R131 to R136, R173, R174, R409) and the Ezton ports (R407, R408). -/

namespace Sys2Proof.Machine

/-! ### Walks (R150) -/

theorem execWalkerGrant_canon {s : State} (h : s.mem.Wf) (shire : Nat) : Canon (execWalkerGrant shire s) := by
  unfold execWalkerGrant
  grind [Canon, State.count_wf]

theorem fillHamlets_wf {s : State} (h : s.mem.Wf) (e : TlbEntry) (ws : List Who) : (fillHamlets s e ws).mem.Wf := by
  unfold fillHamlets
  grind [foldl_wf]

theorem execWalkComplete_canon {s : State} (h : s.mem.Wf) (i : Nat) : Canon (execWalkComplete i s) := by
  unfold execWalkComplete
  grind [Canon, correctWalk_wf, fillHamlets_wf]

/-! ### Invalidations (R151, R152, R200) -/

theorem rootsFor_wf {s : State} (h : s.mem.Wf) (e : InvEntry) : (rootsFor s e).mem.Wf := by
  unfold rootsFor
  split <;> exact h

theorem execInvalidationEnqueue_canon {s : State} (h : s.mem.Wf) (e : InvEntry) : Canon (execInvalidationEnqueue e s) := by
  unfold execInvalidationEnqueue
  grind [Canon, rootsFor_wf]

theorem dropCaches_wf {s : State} (h : s.mem.Wf) (e : InvEntry) : (dropCaches s e).mem.Wf :=
  h

theorem restartWalks_wf {s : State} (h : s.mem.Wf) (e : InvEntry) : (restartWalks s e).mem.Wf := by
  unfold restartWalks
  grind [foldl_wf, State.count_wf]

theorem flushFor_keeps (e : InvEntry) (l : List Nat) {s : State} (h : s.mem.Wf) : Keeps id (flushFor e l s) := by
  induction l generalizing s with
  | nil => exact h
  | cons k l ih =>
    unfold flushFor
    exact .ite ((flushComb_keeps h ..).bind fun t ht => ih ht) (ih h)

theorem execInvalidationComplete_canon {s : State} (h : s.mem.Wf) : Canon (execInvalidationComplete s) := by
  unfold execInvalidationComplete Canon
  dsimp only
  split
  · exact h
  · next e l _ =>
    have hf := flushFor_keeps e (mkeys s.reeves) h
    split
    · exact h
    · next t ht =>
      have ht : t.mem.Wf := hf.of_ok ht
      have hr : (restartWalks (dropCaches { t with invq := l } e) e).mem.Wf := by
        refine restartWalks_wf ?_ _
        exact ht
      exact wf_ite ht (wf_ite (hr.store ..) hr)

/-! ### The host (R132, R136, R173, R405) -/

theorem hostPut_keeps {s : State} (h : s.mem.Wf) (a : Nat) (bs : List Byte) : Keeps id (hostPut s a bs) := by
  unfold hostPut
  split
  · exact h
  · split
    · exact h.store ..
    · exact h
    · exact storeLoc_keeps h ..
    · exact h

theorem hostPuts_keeps {s : State} (h : s.mem.Wf) (n n1 : Nat) (bs : List Byte) : Keeps id (hostPuts n n1 bs s) := by
  fun_induction hostPuts <;> grind [Keeps, Keeps.bind, Stateless.bind, Stop.Canon, ok_bind, hostPut_keeps]

theorem hostGet_keeps {s : State} (h : s.mem.Wf) (a n : Nat) : Keeps Prod.snd (hostGet s a n) := by
  unfold hostGet
  grind [Keeps, Keeps.bind, Stateless.bind, Stop.Canon, ok_bind, physLoc_stateless, correctSoft_wf, loadLoc_keeps]

theorem hostGets_keeps {s : State} (h : s.mem.Wf) (n n1 n2 : Nat) : Keeps Prod.snd (hostGets n n1 n2 s) := by
  fun_induction hostGets <;> grind [Keeps, Keeps.bind, Stateless.bind, Stop.Canon, ok_bind, hostGet_keeps]

/-! ### Peers (R131, R174, R409) -/

theorem peerDo_keeps {s : State} (h : s.mem.Wf) (x : Acx) (l : Loc) (op : PeerOp) : Keeps Prod.snd (peerDo s x l op) := by
  unfold peerDo
  grind [Keeps, Keeps.bind, Stateless.bind, Stop.Canon, ok_bind, loadLoc_keeps, storeLoc_keeps, updateLoc_keeps]

theorem peerServe_keeps {s : State} (h : s.mem.Wf) (src vf a : Nat) (op : PeerOp) : Keeps id (peerServe src vf a op s) := by
  unfold peerServe
  split
  · exact h
  · split
    · exact h
    · split
      · exact h
      · next l _ _ =>
        have hd := fun v => peerDo_keeps h (outsideAcx v) l op
        split
        · exact (hd _).of_ok ‹_›
        · exact h
        · exact (hd _).of_error ‹_›
      · exact h

/-! ### The accesses of the outside -/

theorem outDo_keeps {s : State} (h : s.mem.Wf) (y : OutOp) : Keeps id (outDo s y) := by
  unfold outDo
  grind [Keeps, Keeps.bind, Stateless.bind, Stop.Canon, ok_bind, hostPuts_keeps, hostGets_keeps, peerServe_keeps]

theorem outArrive_wf {s : State} (h : s.mem.Wf) (op : OutOp) : (outArrive s op).mem.Wf := by
  unfold outArrive
  grind [Keeps, Stop.Canon, outDo_keeps, register_wf]

theorem outServe_wf {s : State} (h : s.mem.Wf) : (outServe s).mem.Wf := by
  refine foldl_wf (fun t x ht => ?_) h _
  dsimp only
  split
  · next e =>
    have hu := (outDo_keeps ht _).of_ok e
    exact hu
  · exact ht

theorem execHostMemWrite_canon {s : State} (h : s.mem.Wf) (a : Nat) (bs : List Byte) : Canon (execHostMemWrite a bs s) :=
  outArrive_wf h ..

theorem execHostMemRead_canon {s : State} (h : s.mem.Wf) (a n : Nat) : Canon (execHostMemRead a n s) :=
  outArrive_wf h ..

theorem execPeerAccess_canon {s : State} (h : s.mem.Wf) (src vf a : Nat) (op : PeerOp) : Canon (execPeerAccess src vf a op s) :=
  wf_ite (outArrive_wf h ..) h

theorem answerPeer_wf {s : State} (h : s.mem.Wf) (p : PeerReq) (ans : PeerAns) (down : Bool) : (answerPeer s p ans
    down).mem.Wf := by
  unfold answerPeer
  grind [leftFault_wf, performedBy_wf]

theorem State.setPort_wf {s : State} (h : s.mem.Wf) (p : Nat) (x : Port) : (State.setPort s p x).mem.Wf :=
  h

theorem execPeerReply_canon {s : State} (h : s.mem.Wf) (i : Nat) (ans : PeerAns) : Canon (execPeerReply i ans s) := by
  unfold execPeerReply
  unfold Canon
  dsimp only
  split
  · exact h
  · exact wf_ite h (answerPeer_wf (State.setPort_wf h ..) ..)

theorem execFlitRetry_canon {s : State} (h : s.mem.Wf) (port : Nat) : Canon (execFlitRetry port s) :=
  wf_ite (State.setPort_wf h ..) h

theorem execPortDown_canon {s : State} (h : s.mem.Wf) (port : Nat) : Canon (execPortDown port s) := by
  unfold execPortDown
  grind [Canon, foldl_wf, State.setPort_wf, answerPeer_wf]

theorem execPortRetrain_canon {s : State} (h : s.mem.Wf) (port : Nat) : Canon (execPortRetrain port s) :=
  wf_ite (writeMmio_wf h ..) h

theorem execPortTrainingDone_canon {s : State} (h : s.mem.Wf) (port : Nat) (ok : Bool) : Canon (execPortTrainingDone port ok
    s) := by
  unfold execPortTrainingDone
  grind [Canon, State.setPort_wf, State.setReady_wf]

end Sys2Proof.Machine
end

section
/-! SUPPORT. O60: memory keeps its canonical form (log 3) under images of launches. -/

namespace Sys2Proof.Machine

/-! ### Taking an image -/

theorem writeDram_wf {s : State} (h : s.mem.Wf) (ctx o : Nat) (bs : List Byte) : (writeDram s ctx o bs).mem.Wf := by
  unfold writeDram
  grind [foldl_wf, storePhys_wf]

theorem writeImage_wf {s : State} (h : s.mem.Wf) (l : Launch) (im : Image) : (writeImage s l im).mem.Wf := by
  unfold writeImage
  grind [writeAllot_wf, writeDram_wf]

/-! ### Taking a launch off its hamlets -/

theorem forgetReeves_wf {s : State} (h : s.mem.Wf) (hs : List Nat) : (forgetReeves s hs).mem.Wf :=
  h

theorem liftInst_wf {s : State} (h : s.mem.Wf) (i : Nat) : (liftInst s i).mem.Wf := by
  unfold liftInst
  grind [foldl_wf, dropHops_wf, forgetNodes_wf, syncHam_wf]

theorem liftLaunch_wf {s : State} (h : s.mem.Wf) (key : Nat) (l : Launch) : (liftLaunch s key l).mem.Wf := by
  unfold liftLaunch
  grind [foldl_wf, liftInst_wf, forgetReeves_wf, State.setReeve_wf]

/-! ### Loading an image -/

theorem rerouteInst_finds {s : State} (h : s.mem.Wf) (ctx vf i : Nat) : Finds id (rerouteInst s ctx vf i) := by
  unfold rerouteInst
  split
  · exact h
  · next x _ =>
    dsimp only
    split
    · trivial
    · next hops _ =>
      split
      · cases (renumber (usedIds s) x.circs).mapM (·.rehop hops) with
        | none => trivial
        | some cs =>
          refine wf_ite ?_ (putHops_wf ?_ _)
          · exact h
          · exact h
      · trivial

theorem loadScratch_wf {s : State} (h : s.mem.Wf) (im : Image) (f : Nat → Nat) (foreign : List Nat) :
    (loadScratch s im f foreign).mem.Wf := by
  have hc {u : State} (hu : u.mem.Wf) (l : List Nat) :
      (l.foldl (fun s h => clearServe s (scratchBase h) Config.scratchBytes) u).mem.Wf :=
    foldl_wf (fun _ _ ht => clearServe_wf ht ..) hu l
  unfold loadScratch
  split
  · exact hc h _
  · exact foldl_wf (fun _ _ ht => ht.merge _) (hc h _) _

theorem dropCtxTlb_wf {s : State} (h : s.mem.Wf) (ctx : Nat) : (dropCtxTlb s ctx).mem.Wf :=
  h

theorem allotWrite_wf {s : State} (h : s.mem.Wf) (ctx pos : Nat) (v : W64) : (allotWrite s ctx pos v).mem.Wf := by
  unfold allotWrite
  grind []

theorem remapAllot_finds {s : State} (h : s.mem.Wf) (ctx : Nat) : Finds id (remapAllot s ctx) := by
  refine foldlM_finds (fun t e ht => ?_) h _
  dsimp only
  split
  · exact ht
  · split
    · exact allotWrite_wf ht ..
    · trivial

theorem loadImage_finds {s : State} (h : s.mem.Wf) (key : Nat) (l : Launch) (im : Image) (p : Spot) :
    Finds id (loadImage s key l im p) := by
  unfold loadImage
  extract_lets f foreign t0
  have h0 : t0.mem.Wf := by
    refine foldl_wf (fun t e ht => ?_) h _
    refine claimHams_wf ?_ ..
    exact foldl_wf (fun u k hu => freshHam_wf hu ..) ht _
  refine (foldlM_finds (fun t i ht => rerouteInst_finds ht ..) h0 _).bind fun t ht => ?_
  extract_lets u v w
  have hv : v.mem.Wf := loadScratch_wf ht ..
  have hw : w.mem.Wf := by
    refine foldl_wf (fun t e ht => ?_) hv _
    exact ht
  exact hw

theorem placeImage_finds {s : State} (h : s.mem.Wf) (key : Nat) (l : Launch) (im : Image) (y : List Spot) : Finds Prod.fst
    (placeImage s key l im y) := by
  fun_induction placeImage <;> grind [Finds, Finds.bind, loadImage_finds]

end Sys2Proof.Machine
end

section
/-! SUPPORT. O60: memory keeps its canonical form (log 3) under the Steward. -/

namespace Sys2Proof.Machine

/-! ### VF launch queues (R183) -/

theorem execQueueBaseWrite_canon {s : State} (h : s.mem.Wf) (vf : Nat) (v : W64) : Canon (execQueueBaseWrite vf v s) :=
  h

theorem execQueueSizeWrite_canon {s : State} (h : s.mem.Wf) (vf : Nat) (v : W64) : Canon (execQueueSizeWrite vf v s) :=
  h

theorem queueError_wf {s : State} (h : s.mem.Wf) (vf : Nat) : (queueError s vf).mem.Wf :=
  h

theorem execDoorbell_canon {s : State} (h : s.mem.Wf) (vf : Nat) (v : W64) : Canon (execDoorbell vf v s) :=
  wf_ite (queueError_wf h ..) h

theorem takeEntry_keeps {s : State} (h : s.mem.Wf) (vf : Nat) (q : Vf) : Keeps id (takeEntry s vf q) := by
  unfold takeEntry
  refine (check_stateless ..).bind fun _ => (loadPhys_keeps h ..).bind fun v hv => ?_
  obtain ⟨bs, t⟩ := v
  dsimp only
  split
  · trivial
  · exact (readSpan_keeps hv ..).bind fun v hv => (readSpan_keeps hv ..).bind fun w hw => newLaunch_wf (release_wf hw _) _

theorem execStewardTakeEntry_canon {s : State} (h : s.mem.Wf) : Canon (execStewardTakeEntry s) := by
  unfold execStewardTakeEntry
  grind [Canon, Keeps, Stop.Canon, takeEntry_keeps, State.setVf_wf, register_wf, queueError_wf]

/-! ### What a launch needs (R37, R199, R368, R411) -/

theorem launchGraph_keeps {s : State} (h : s.mem.Wf) (l : Launch) : Keeps Prod.snd (launchGraph s l) :=
  .ite h ((check_stateless ..).bind fun _ => (check_stateless ..).bind fun _ =>
    (parseImage_keeps (imageReader_keeps _ _) h _).bind fun _ hv => hv)

/-! ### Selection (R369 to R371) -/

theorem refuseLaunch_wf {s : State} (h : s.mem.Wf) (key : Nat) (t : Trap) : (refuseLaunch s key t).mem.Wf := by
  unfold refuseLaunch
  grind [closeLaunch_wf, State.updLaunch_wf]

theorem selectLaunch_wf {s : State} (h : s.mem.Wf) (key : Nat) : (selectLaunch s key).mem.Wf :=
  h

theorem offer_wf {s : State} (h : s.mem.Wf) (vf : Nat) (y : List (Nat × Launch)) : (offer s vf y).mem.Wf := by
  fun_induction offer <;> grind [refuseLaunch_wf, selectLaunch_wf, State.updLaunch_wf, register_wf]

theorem noteBehind_wf {s : State} (h : s.mem.Wf) (vf : Nat) : (noteBehind s vf).mem.Wf :=
  foldl_wf (fun _ _ ht => State.updLaunch_wf ht ..) h _

theorem execDispatchSelect_canon {s : State} (h : s.mem.Wf) (vf : Nat) : Canon (execDispatchSelect vf s) :=
  wf_ite (offer_wf (noteBehind_wf h ..) ..) h

theorem execReservationTimer_canon {s : State} (h : s.mem.Wf) (vf : Nat) : Canon (execReservationTimer vf s) := by
  unfold execReservationTimer
  grind [Canon, State.setVf_wf]

/-! ### Starting a launch (R52, R140, R368, R376) -/

theorem startReeve_wf {s : State} (h : s.mem.Wf) (key stride : Nat) (l : Launch) (n j : Nat) : (startReeve s key stride l n
    j).mem.Wf :=
  h

theorem startLaunch_wf {s : State} (h : s.mem.Wf) (key : Nat) (l : Launch) (rect : List Nat) : (startLaunch s key l
    rect).mem.Wf := by
  unfold startLaunch
  grind [foldl_wf, startReeve_wf, State.setCtx_wf, leaveDevq_wf, unreserve_wf, crier_wf]

theorem dropClaim_wf {s : State} (h : s.mem.Wf) (key : Nat) : (dropClaim s key).mem.Wf :=
  foldl_wf (fun _ _ ht => syncHam_wf ht ..) (State.updLaunch_wf h ..) _

theorem requeue_wf {s : State} (h : s.mem.Wf) (key : Nat) : (requeue s key).mem.Wf :=
  dropClaim_wf h ..

theorem refusePlacing_wf {s : State} (h : s.mem.Wf) (key : Nat) (t : Trap) : (refusePlacing s key t).mem.Wf := by
  unfold refusePlacing
  grind [refuseLaunch_wf, dropClaim_wf]

theorem placeLaunch_wf {s : State} (h : s.mem.Wf) (key : Nat) (l : Launch) (g : Option Graph) (rect : List Nat) : (placeLaunch
    s key l g rect).mem.Wf := by
  unfold placeLaunch
  grind [foldl_wf, Places, syncHam_wf, startLaunch_wf, makeInst_places, requeue_wf, refusePlacing_wf]

theorem withGraph_wf {k : State → Option Graph → State} (hk : ∀ s g, s.mem.Wf → (k s g).mem.Wf) {s : State} (h : s.mem.Wf)
    (key : Nat) (l : Launch) : (withGraph s key l k).mem.Wf := by
  have hg := launchGraph_keeps h l
  unfold withGraph
  split
  · exact refusePlacing_wf h ..
  · exact refusePlacing_wf h ..
  · exact register_wf h _
  · next e => exact hg.of_error e
  · next e => exact hk _ _ (release_wf (hg.of_ok e) _)

theorem execLaunchPlace_canon {s : State} (h : s.mem.Wf) (key : Nat) (hams : List Nat) : Canon (execLaunchPlace key hams s) :=
    by
  unfold execLaunchPlace Canon
  dsimp only
  split
  · exact h
  · refine wf_ite h (wf_ite (requeue_wf h _) (wf_ite (refusePlacing_wf h ..) (wf_ite (wf_ite ?_ h) (wf_ite (refuseLaunch_wf h ..) ?_))))
    · exact withGraph_wf (fun t g ht => placeLaunch_wf ht ..) h ..
    · refine withGraph_wf (fun t g ht => ?_) h ..
      refine wf_ite ht (wf_ite (requeue_wf ht _) ?_)
      have hu {u : State} (hu : u.mem.Wf) (c : List Nat) (f : Launch → Launch) : ((takeHams u c.length c).updLaunch key f).mem.Wf :=
        State.updLaunch_wf (takeHams_wf hu ..) ..
      exact wf_ite (placeLaunch_wf (State.updLaunch_wf (takeHams_wf ht ..) ..) ..) (State.updLaunch_wf (takeHams_wf ht ..) ..)

/-! ### Completion (R377) -/

theorem endLaunch_wf {s : State} (h : s.mem.Wf) (key : Nat) (l : Launch) : (endLaunch s key l).mem.Wf := by
  unfold endLaunch
  grind [foldl_wf, dropPlaces_wf, releaseLaunch_wf, State.setReeve_wf, forgetReeves_wf, closeLaunch_wf]

theorem execLaunchComplete_canon {s : State} (h : s.mem.Wf) (key : Nat) : Canon (execLaunchComplete key s) := by
  unfold execLaunchComplete
  grind [Canon, flushReeves_wf, endLaunch_wf]

end Sys2Proof.Machine
end

section
/-! SUPPORT. O60: memory keeps its canonical form (log 3) under pre-emption, its save, restore, checkpoints and replay (R43,
R118, R188, R331, R368, R371, R380 to R389, R402). -/

namespace Sys2Proof.Machine

/-! ### Taking markers out (R381, R385) -/

theorem stripPmk_wf {s : State} (h : s.mem.Wf) (key : Nat) : (stripPmk s key).mem.Wf :=
  foldl_wf (fun _ _ ht => State.updInst_wf ht ..) h _

theorem ckptDrop_wf {s : State} (h : s.mem.Wf) (key : Nat) (l : Launch) : (ckptDrop s key l).mem.Wf := by
  unfold ckptDrop
  grind [stripPmk_wf, sweepAfresh_wf, State.updLaunch_wf]

/-! ### The request (R43, R371, R380) -/

theorem parkReeves_wf {s : State} (h : s.mem.Wf) (hs : List Nat) : (parkReeves s hs).mem.Wf := by
  unfold parkReeves
  grind [foldl_wf, State.setReeve_wf]

theorem askPreempt_wf {s : State} (h : s.mem.Wf) (key : Nat) (l : Launch) : (askPreempt s key l).mem.Wf := by
  unfold askPreempt
  grind [foldl_wf, State.updLaunch_wf, parkReeves_wf, ckptDrop_wf, State.enter_wf, State.updInst_wf]

theorem execPreemptRequest_canon {s : State} (h : s.mem.Wf) (key : Nat) : Canon (execPreemptRequest key s) := by
  unfold execPreemptRequest
  unfold Canon
  dsimp only
  split
  · exact askPreempt_wf h ..
  · exact h

theorem without_wf {s : State} (h : s.mem.Wf) (key : Nat) : (without s key).mem.Wf := by
  unfold without
  split
  · exact liftLaunch_wf h ..
  · exact h

theorem afterPreempts_wf {s : State} (h : s.mem.Wf) (vf : Nat) : (afterPreempts s vf).mem.Wf :=
  foldl_wf (fun _ _ ht => without_wf ht ..) h _

theorem execPwaitPreempt_canon {s : State} (h : s.mem.Wf) (vf : Nat) : Canon (execPwaitPreempt vf s) := by
  unfold execPwaitPreempt
  grind [Canon, foldl_wf, noteBehind_wf, afterPreempts_wf, askPreempt_wf]

/-! ### Saving (R380 to R383) -/

theorem execPreemptForce_canon {s : State} (h : s.mem.Wf) (key : Nat) : Canon (execPreemptForce key s) := by
  unfold execPreemptForce
  unfold Canon
  dsimp only
  split
  · exact wf_ite h (State.enter_wf h ..)
  · exact h

theorem settleAll_wf {s : State} (h : s.mem.Wf) (n n1 : Nat) : (settleAll n n1 s).mem.Wf := by
  fun_induction settleAll <;> grind [foldl_wf, Canon, act_wf, execCreditReturn_canon, execLinkTokenTransfer_canon]

theorem saveLaunch_wf {s : State} (h : s.mem.Wf) (key : Nat) (l : Launch) : (saveLaunch s key l).mem.Wf := by
  unfold saveLaunch
  grind [foldl_wf, abandonAll_wf, dropPlaces_wf, settleAll_wf, stripPmk_wf, writeImage_wf, liftLaunch_wf, State.enter_wf,
    State.count_wf, crier_wf]

theorem execSaveComplete_canon {s : State} (h : s.mem.Wf) (key : Nat) : Canon (execSaveComplete key s) := by
  unfold execSaveComplete
  grind [Canon, State.enter_wf, flushReeves_wf, saveLaunch_wf]

/-! ### Restore (R389) -/

theorem deliverRets_wf {s : State} (h : s.mem.Wf) (key : Nat) : (deliverRets s key).mem.Wf := by
  unfold deliverRets
  grind [foldl_wf, Canon, act_wf, execRet_canon]

theorem resumeLaunch_wf {s : State} (h : s.mem.Wf) (key : Nat) (l : Launch) (im : Image) (moved : Bool) : (resumeLaunch s key
    l im moved).mem.Wf := by
  unfold resumeLaunch
  grind [State.enter_wf, crier_wf, endTasks_wf, deliverRets_wf]

theorem execRestore_canon {s : State} (h : s.mem.Wf) (key : Nat) : Canon (execRestore key s) := by
  unfold execRestore Canon
  dsimp only
  split
  · exact h
  · next l _ =>
    split
    · exact h
    · next im _ _ =>
      have hp : Finds Prod.fst ((partition s l.vf).bind fun given => (remapAllot s l.ctx).bind fun s =>
          placeImage s key l im (candidates im given)) := by
        cases partition s l.vf with
        | none => trivial
        | some given => exact (remapAllot_finds h l.ctx).bind fun t ht => placeImage_finds ht ..
      split
      · exact h
      · next e =>
        exact resumeLaunch_wf (hp.of_some e) ..
    · exact h

/-! ### Checkpoints (R385) -/

theorem ckptPass_wf {s : State} (h : s.mem.Wf) (key : Nat) : (ckptPass s key).mem.Wf := by
  unfold ckptPass
  grind [foldl_wf, State.updInst_wf]

theorem ckptBegin_wf {s : State} (h : s.mem.Wf) (key : Nat) : (ckptBegin s key).mem.Wf :=
  foldl_wf (fun _ _ ht => State.updInst_wf ht ..) (State.updLaunch_wf h ..) _

theorem ckptTake_wf {s : State} (h : s.mem.Wf) (key : Nat) : (ckptTake s key).mem.Wf := by
  unfold ckptTake
  grind [ckptPass_wf, writeImage_wf, sweepAfresh_wf, State.updLaunch_wf]

theorem execCheckpoint_canon {s : State} (h : s.mem.Wf) (key : Nat) : Canon (execCheckpoint key s) := by
  unfold execCheckpoint
  grind [Canon, ckptDrop_wf, ckptBegin_wf, ckptTake_wf, ckptPass_wf]

/-! ### Replay (R386, R387) -/

theorem discardLaunch_wf {s : State} (h : s.mem.Wf) (key : Nat) (l : Launch) : (discardLaunch s key l).mem.Wf :=
  dropPlaces_wf (liftLaunch_wf h ..) ..

theorem failReplay_wf {s : State} (h : s.mem.Wf) (key : Nat) (l : Launch) (t : Trap) : (failReplay s key l t).mem.Wf :=
  closeLaunch_wf (State.updLaunch_wf (discardLaunch_wf h ..) ..) ..

theorem replayed_wf {s : State} (h : s.mem.Wf) (key : Nat) (l : Launch) (im : Image) (t : Trap) : (replayed s key l im
    t).mem.Wf := by
  unfold replayed
  grind [foldl_wf, State.enter_wf, State.setCtx_wf, State.count_wf, crier_wf]

theorem execReplayRollback_canon {s : State} (h : s.mem.Wf) (key : Nat) : Canon (execReplayRollback key s) := by
  unfold execReplayRollback Canon
  dsimp only
  split
  · exact h
  · next l _ =>
    split
    · exact h
    · split
      · split
        · exact h
        · exact State.enter_wf h ..
      · split
        · exact h
        · have hd := discardLaunch_wf h key l
          split
          · split
            · exact (placeImage_finds (replayed_wf hd ..) ..).of_some ‹_›
            · split
              · exact (placeImage_finds (replayed_wf hd ..) ..).of_some ‹_›
              · exact State.updLaunch_wf hd ..
          · exact failReplay_wf h ..

end Sys2Proof.Machine
end

section
/-! SUPPORT. O60: memory keeps its canonical form (log 3) under takeover of the Steward, samples, the crier's and the
counters' registers, quality of service, fence entries, run control, and the register writes of the runtime, the hypervisor
and the driver (R105, R106, R112, R135, R187, R198, R200, R202, R205, R208, R209, R371 to R373, R390, R406, R408, R409). -/

namespace Sys2Proof.Machine

/-! ### The Steward's cores (R390) -/

theorem raiseAll_wf {s : State} (h : s.mem.Wf) : (raiseAll s).mem.Wf :=
  foldl_wf (fun _ _ ht => raiseMsix_wf ht ..) h _

theorem enterFailed_wf {s : State} (h : s.mem.Wf) : (enterFailed s).mem.Wf :=
  raiseAll_wf h ..

theorem execStewardTrap_canon {s : State} (h : s.mem.Wf) : Canon (execStewardTrap s) := by
  unfold execStewardTrap
  grind [Canon, enterFailed_wf]

theorem execStandbyStart_canon {s : State} (h : s.mem.Wf) : Canon (execStandbyStart s) := by
  unfold execStandbyStart
  grind [Canon, foldl_wf, requeue_wf]

theorem execTakeoverEnd_canon {s : State} (h : s.mem.Wf) : Canon (execTakeoverEnd s) := by
  unfold execTakeoverEnd
  grind [Canon, foldl_wf, crier_wf, deliver_wf, raiseAll_wf]

theorem execThermalStop_canon {s : State} (h : s.mem.Wf) : Canon (execThermalStop s) :=
  wf_ite h (enterFailed_wf h ..)

theorem setClock_wf {s : State} (h : s.mem.Wf) (mhz : Nat) : (setClock s mhz).mem.Wf :=
  h

theorem execThermalThrottle_canon {s : State} (h : s.mem.Wf) : Canon (execThermalThrottle s) := by
  unfold execThermalThrottle
  split <;> exact h

theorem execClockRaise_canon {s : State} (h : s.mem.Wf) : Canon (execClockRaise s) := by
  unfold execClockRaise
  split <;> exact h

/-! ### Samples (R105, R208, R209) -/

theorem sampleRec_wf {s : State} (h : s.mem.Wf) (vf code n cell slot : Nat) (lid : BitVec 32) (pay : List Byte) (stall : Nat)
    : (sampleRec s vf code n cell slot lid pay stall).mem.Wf :=
  crier_wf (State.count_wf (State.count_wf h ..) ..) ..

theorem sampleCells_wf {s : State} (h : s.mem.Wf) (n : Nat) (r : Reeve) : (sampleCells s n r).mem.Wf := by
  unfold sampleCells
  grind [foldl_wf, sampleRec_wf]

theorem takeSampleOf_wf {s : State} (h : s.mem.Wf) (n : Nat) (cfg : W64) : (takeSampleOf s n cfg).mem.Wf := by
  unfold takeSampleOf
  grind [sampleRec_wf, sampleCells_wf]

theorem execSampleTimer_canon {s : State} (h : s.mem.Wf) (n : Nat) : Canon (execSampleTimer n s) := by
  unfold execSampleTimer
  grind [Canon, takeSampleOf_wf, State.setReeve_wf]

/-! ### Registers of a VF (R187, R205 to R207, R372, R406) -/

theorem execCrierReadOffsetWrite_canon {s : State} (h : s.mem.Wf) (vf : Nat) (v : W64) : Canon (execCrierReadOffsetWrite vf v
    s) :=
  crierFlush_wf (State.setVf_wf h ..) ..

theorem execCounterClr_canon {s : State} (h : s.mem.Wf) (vf : Nat) : Canon (execCounterClr vf s) :=
  h

theorem execCounterFreeze_canon {s : State} (h : s.mem.Wf) (vf : Nat) (on : Bool) : Canon (execCounterFreeze vf on s) :=
  h

theorem execQosWordWrite_canon {s : State} (h : s.mem.Wf) (vf : Nat) (v : W64) : Canon (execQosWordWrite vf v s) := by
  unfold execQosWordWrite
  split <;> exact h

/-! ### The quality-of-service window (R373) -/

theorem execQosWindow_canon {s : State} (h : s.mem.Wf) (unit : Nat) (lat : List (Nat × List Nat)) (best : List Nat) : Canon
    (execQosWindow unit lat best s) := by
  unfold execQosWindow
  grind [Canon, foldl_wf]

/-! ### Fence entries (R198, R375) -/

theorem execFenceEntryWrite_canon {s : State} (h : s.mem.Wf) (die idx : Nat) (e : FenceEntry) : Canon (execFenceEntryWrite die
    idx e s) := by
  unfold execFenceEntryWrite
  grind [Canon]

/-! ### Run control (R135) -/

theorem execRunControlStop_canon {s : State} (h : s.mem.Wf) (n : Nat) : Canon (execRunControlStop n s) := by
  unfold execRunControlStop
  split <;> exact h

theorem execRunControlRun_canon {s : State} (h : s.mem.Wf) (n : Nat) : Canon (execRunControlRun n s) := by
  unfold execRunControlRun
  split <;> exact h

/-! ### Register writes -/

theorem after_wf {o : Host.Outcome State Fault Refusal} {s : State} (ho : Canon o) (h : s.mem.Wf) : (after o s).mem.Wf := by
  unfold after
  split
  · exact ho
  · exact h

theorem barWrite_wf {s : State} (h : s.mem.Wf) (vf off : Nat) (v : W64) : (barWrite s vf off v).mem.Wf := by
  unfold barWrite
  dsimp only
  split
  · exact after_wf (execQueueBaseWrite_canon h ..) h
  · exact after_wf (execQueueSizeWrite_canon h ..) h
  · exact after_wf (execDoorbell_canon h ..) h
  · split
    · exact after_wf (execCounterFreeze_canon (after_wf (execCounterClr_canon h _) h) ..) (after_wf (execCounterClr_canon h _) h)
    · exact after_wf (execCounterFreeze_canon h ..) h
  · exact after_wf (execQosWordWrite_canon h ..) h
  · exact h
  · exact h
  · exact h
  · exact after_wf (execCrierReadOffsetWrite_canon h ..) h
  · exact h

theorem execRegisterWrite_canon {s : State} (h : s.mem.Wf) (t : RegTarget) (v : W64) : Canon (execRegisterWrite t v s) := by
  unfold execRegisterWrite Canon
  cases t with
  | bar vf off =>
    dsimp only
    split
    · exact barWrite_wf h ..
    · exact h
  | pf off => exact writeMmio_wf h ..
  | reeve k off =>
    dsimp only
    split
    · exact writeCtl_wf h ..
    · exact h
  | allot c p =>
    dsimp only
    split
    · exact allotWrite_wf h ..
    · exact h
  | msix f vec =>
    dsimp only
    split
    · exact maskMsix_wf h ..
    · exact h
  | pageCopy a b =>
    dsimp only
    split
    · exact h.copyPage ..
    · exact h
  | root1 | root2 | domain | ctable | pwait | pkg =>
    dsimp only
    split <;> exact h
  | stewardTvec => exact h

end Sys2Proof.Machine
end

section
/-! SUPPORT. O60: memory keeps its canonical form (log 3) under retirement, package reset, self-tests, firmware and
attestation, the life of contexts and virtual functions, and the clocks (R99, R188, R189, R201, R204, R205, R208, R328, R405,
R410 to R415). -/

namespace Sys2Proof.Machine

/-! ### Retirement (R201, R412) -/

theorem execHamletRetire_canon {s : State} (h : s.mem.Wf) (n : Nat) : Canon (execHamletRetire n s) := by
  unfold execHamletRetire
  split <;> exact h

theorem execPageRetire_canon {s : State} (h : s.mem.Wf) (a : Nat) : Canon (execPageRetire a s) := by
  unfold execPageRetire
  split <;> exact h

theorem execMaintenanceCommand_canon {s : State} (h : s.mem.Wf) (cmd die : Nat) (image : List Byte) : Canon
    (execMaintenanceCommand cmd die image s) := by
  unfold execMaintenanceCommand
  grind [Canon]

/-! ### Package reset (R140, R201, R410) -/

theorem execPackageReset_canon {s : State} (h : s.mem.Wf) : Canon (execPackageReset s) :=
  h.hostPart

/-! ### Self-tests and links (R405, R410, R411) -/

theorem execSelfTestPass_canon {s : State} (h : s.mem.Wf) (f : ReadyFn) : Canon (execSelfTestPass f s) := by
  unfold execSelfTestPass
  grind [Canon, State.setReady_wf]

theorem execSelfTestFail_canon {s : State} (h : s.mem.Wf) (f : ReadyFn) : Canon (execSelfTestFail f s) := by
  unfold execSelfTestFail
  grind [Canon, foldl_wf, State.updHam_wf]

theorem execHostLinkTraining_canon {s : State} (h : s.mem.Wf) (mode : Nat) : Canon (execHostLinkTraining mode s) := by
  unfold execHostLinkTraining
  grind [Canon, State.setReady_wf]

/-! ### Firmware and attestation (R414, R415) -/

theorem execFirmwareStageCheck_canon {s : State} (h : s.mem.Wf) (stage : Nat) (image : List Byte) : Canon
    (execFirmwareStageCheck stage image s) := by
  unfold execFirmwareStageCheck
  grind [Canon]

theorem spdm_canon {s : State} (h : s.mem.Wf) (code : Nat) (nonce : List Byte) (mrs : List (BitVec 512)) : Canon (spdm code
    nonce mrs s) := by
  unfold spdm
  split <;> exact h

theorem execGetVersion_canon {s : State} (h : s.mem.Wf) : Canon (execGetVersion s) :=
  spdm_canon h ..

theorem execGetCapabilities_canon {s : State} (h : s.mem.Wf) : Canon (execGetCapabilities s) :=
  spdm_canon h ..

theorem execNegotiateAlgorithms_canon {s : State} (h : s.mem.Wf) : Canon (execNegotiateAlgorithms s) := by
  unfold execNegotiateAlgorithms
  split <;> exact h

theorem execGetDigests_canon {s : State} (h : s.mem.Wf) : Canon (execGetDigests s) :=
  spdm_canon h ..

theorem execGetCertificate_canon {s : State} (h : s.mem.Wf) : Canon (execGetCertificate s) :=
  spdm_canon h ..

theorem execChallenge_canon {s : State} (h : s.mem.Wf) (nonce : List Byte) : Canon (execChallenge nonce s) :=
  spdm_canon h ..

theorem execGetMeasurements_canon {s : State} (h : s.mem.Wf) (nonce : List Byte) : Canon (execGetMeasurements nonce s) :=
  spdm_canon h ..

/-! ### Contexts and virtual functions (R153, R188, R189, R200, R328) -/

theorem execContextCreation_canon {s : State} (h : s.mem.Wf) (ctx vf : Nat) : Canon (execContextCreation ctx vf s) := by
  unfold execContextCreation
  split <;> exact h

theorem dropLaunch_wf {s : State} (h : s.mem.Wf) (key : Nat) : (dropLaunch s key).mem.Wf := by
  unfold dropLaunch
  grind [discardLaunch_wf, State.setVf_wf]

theorem dropContext_wf {s : State} (h : s.mem.Wf) (ctx : Nat) : (dropContext s ctx).mem.Wf :=
  foldl_wf (fun _ _ ht => dropLaunch_wf ht ..) h _

theorem execContextTeardown_canon {s : State} (h : s.mem.Wf) (ctx : Nat) : Canon (execContextTeardown ctx s) :=
  wf_ite h (dropContext_wf h ..)

theorem execVfTeardown_canon {s : State} (h : s.mem.Wf) (vf : Nat) : Canon (execVfTeardown vf s) :=
  foldl_wf (fun _ _ ht => dropContext_wf ht ..) h _

/-! ### The clocks (R99, R205, R208, R374) -/

theorem meetErrors_wf {s : State} (h : s.mem.Wf) (sub : Nat) (l : List Nat) (ham cell : Nat → Nat) : (meetErrors s sub l ham
    cell).mem.Wf := by
  unfold meetErrors
  grind [foldl_wf, nodeFault_wf]

theorem execErrors_wf {s : State} (h : s.mem.Wf) : (execErrors s).mem.Wf := by
  unfold execErrors
  grind [foldl_wf, noteError_wf, meetErrors_wf]

theorem execFabricCycle_canon {s : State} (h : s.mem.Wf) : Canon (execFabricCycle s) := by
  unfold execFabricCycle
  extract_lets s1 s2 s3 s4 s5
  have h2 : s2.mem.Wf := h
  have h3 : s3.mem.Wf := foldl_wf (fun t v ht => State.count_wf ht ..) h2 _
  have h4 : s4.mem.Wf := foldl_wf (fun t v ht => State.count_wf ht ..) h3 _
  have h5 : s5.mem.Wf := outServe_wf (execErrors_wf h4)
  unfold Canon
  dsimp only
  split <;> exact h5

theorem execTimeNanosecond_canon {s : State} (h : s.mem.Wf) : Canon (execTimeNanosecond s) :=
  h

end Sys2Proof.Machine
end

section
/-! SUPPORT. O60: memory keeps its canonical form (log 3) under the capability instructions (R247 to R249). -/

namespace Sys2Proof.Machine

theorem capSource_stateless (c : Cap) : Stateless (capSource c) :=
  (check_stateless ..).bind' fun _ => check_stateless ..

theorem capMove_stateless (c : Cap) (o : Int) : Stateless (capMove c o) :=
  (capSource_stateless ..).bind' fun _ => (check_stateless ..).bind' fun _ => trivial

theorem capNarrow_stateless (c : Cap) (n : Nat) : Stateless (capNarrow c n) := by
  unfold capNarrow
  grind [Stateless, Stateless.bind', Stop.Canon, capSource_stateless, check_stateless, raise_stateless]

theorem sealType_stateless (c : Cap) : Stateless (sealType c) :=
  (check_stateless ..).bind' fun _ => (check_stateless ..).bind' fun _ => (check_stateless ..).bind' fun _ =>
    (check_stateless ..).bind' fun _ => trivial

theorem execCsetb_canon {s : State} (h : s.mem.Wf) (p : Guard) (d a : KReg) (b : GReg) : Canon (execCsetb p d a b s) := by
  unfold execCsetb
  grind [Canon, toK_canon, capNarrow_stateless]

theorem execCinc_canon {s : State} (h : s.mem.Wf) (p : Guard) (d a : KReg) (b : GReg) : Canon (execCinc p d a b s) := by
  unfold execCinc
  grind [Canon, toK_canon, capMove_stateless]

theorem execCseto_canon {s : State} (h : s.mem.Wf) (p : Guard) (d a : KReg) (b : GReg) : Canon (execCseto p d a b s) := by
  unfold execCseto
  grind [Canon, toK_canon, capMove_stateless]

theorem execCandp_canon {s : State} (h : s.mem.Wf) (p : Guard) (d a : KReg) (b : GReg) : Canon (execCandp p d a b s) := by
  refine toK_canon (fun _ => ?_) h p d
  exact (capSource_stateless _).bind' fun _ => trivial

theorem execCgetb_canon {s : State} (h : s.mem.Wf) (p : Guard) (d : GReg) (a : KReg) : Canon (execCgetb p d a s) :=
  toG_canon h ..

theorem execCgetl_canon {s : State} (h : s.mem.Wf) (p : Guard) (d : GReg) (a : KReg) : Canon (execCgetl p d a s) :=
  toG_canon h ..

theorem execCgeto_canon {s : State} (h : s.mem.Wf) (p : Guard) (d : GReg) (a : KReg) : Canon (execCgeto p d a s) :=
  toG_canon h ..

theorem execCgetp_canon {s : State} (h : s.mem.Wf) (p : Guard) (d : GReg) (a : KReg) : Canon (execCgetp p d a s) :=
  toG_canon h ..

theorem execCgets_canon {s : State} (h : s.mem.Wf) (p : Guard) (d : GReg) (a : KReg) : Canon (execCgets p d a s) :=
  toG_canon h ..

theorem execCtest_canon {s : State} (h : s.mem.Wf) (p : Guard) (d : PReg) (a : KReg) : Canon (execCtest p d a s) :=
  toP_canon h ..

theorem execCclr_canon {s : State} (h : s.mem.Wf) (p : Guard) (d : KReg) : Canon (execCclr p d s) := by
  refine toK_canon (fun _ => ?_) h p d
  trivial

theorem execCmov_canon {s : State} (h : s.mem.Wf) (p : Guard) (d a : KReg) : Canon (execCmov p d a s) := by
  refine toK_canon (fun _ => ?_) h p d
  trivial

theorem execCseal_canon {s : State} (h : s.mem.Wf) (p : Guard) (d a b : KReg) : Canon (execCseal p d a b s) := by
  refine toK_canon (fun _ => ?_) h p d
  exact (capSource_stateless _).bind' fun _ => (sealType_stateless _).bind' fun _ => trivial

theorem execCunseal_canon {s : State} (h : s.mem.Wf) (p : Guard) (d a b : KReg) : Canon (execCunseal p d a b s) := by
  refine toK_canon (fun _ => ?_) h p d
  exact (check_stateless ..).bind' fun _ => (check_stateless ..).bind' fun _ => (sealType_stateless _).bind' fun _ =>
    (check_stateless ..).bind' fun _ => trivial

theorem execCinci_canon {s : State} (h : s.mem.Wf) (p : Guard) (d a : KReg) (imm : BitVec 12) : Canon (execCinci p d a imm s)
    := by
  unfold execCinci
  grind [Canon, toK_canon, capMove_stateless]

end Sys2Proof.Machine
end

section
/-! SUPPORT. O60: memory keeps its canonical form (log 3) under which agent acts next (log 1). -/

namespace Sys2Proof.Machine

/-! ### A reeve's turn (R123, R215, R377) -/

theorem fetchAt_keeps {s : State} (h : s.mem.Wf) (a n : Nat) : Keeps Prod.snd (fetchAt s a n) :=
  (checkCapAt_stateless ..).bind fun _ => (locate_stateless ..).bind fun _ => loadLoc_keeps h ..

theorem fetch_keeps {s : State} (h : s.mem.Wf) : Keeps Prod.snd (fetch s) := by
  unfold fetch
  grind [Keeps, Keeps.bind, Stateless.bind, Stop.Canon, ok_bind, fetchAt_keeps]

theorem runHandler_wf {s : State} (h : s.mem.Wf) : (runHandler s).mem.Wf := by
  unfold runHandler
  grind [State.setMe_wf, recordFault_wf, State.updLaunch_wf, breakBarriers_wf]

theorem nextBytes_keeps {s : State} (h : s.mem.Wf) : Keeps Prod.snd (nextBytes s) := by
  unfold nextBytes
  grind [Keeps, Keeps.bind, Stateless.bind, Stop.Canon, ok_bind, fetch_keeps, State.updMe_wf]

/-! ### What goes on by itself -/

theorem ticks_wf (n : Nat) {s : State} (h : s.mem.Wf) : (ticks n s).mem.Wf := by
  induction n generalizing s with
  | zero => exact h
  | succ n ih => exact ih (act_wf (fun _ ht => execTimeNanosecond_canon ht) h)

theorem passTime_wf {s : State} (h : s.mem.Wf) : (passTime s).mem.Wf :=
  ticks_wf _ (act_wf (fun _ ht => execFabricCycle_canon ht) h)

end Sys2Proof.Machine
end

section
/-! SUPPORT. O60: memory keeps its canonical form (log 3) under every instruction and every whole step. -/

namespace Sys2Proof.Machine

/-- The meaning of each instruction and of each whole step keeps the canonical form. -/
theorem exec_canon {s : State} (h : s.mem.Wf) : (i : Instr) → Canon (exec i s)
  | .add .. => execAdd_canon h ..
  | .sub .. => execSub_canon h ..
  | .and .. => execAnd_canon h ..
  | .or .. => execOr_canon h ..
  | .xor .. => execXor_canon h ..
  | .andn .. => execAndn_canon h ..
  | .shl .. => execShl_canon h ..
  | .shr .. => execShr_canon h ..
  | .sar .. => execSar_canon h ..
  | .rot .. => execRot_canon h ..
  | .min .. => execMin_canon h ..
  | .max .. => execMax_canon h ..
  | .minu .. => execMinu_canon h ..
  | .maxu .. => execMaxu_canon h ..
  | .clz .. => execClz_canon h ..
  | .ctz .. => execCtz_canon h ..
  | .popc .. => execPopc_canon h ..
  | .brev .. => execBrev_canon h ..
  | .sext .. => execSext_canon h ..
  | .mul .. => execMul_canon h ..
  | .mulh .. => execMulh_canon h ..
  | .mulhu .. => execMulhu_canon h ..
  | .div .. => execDiv_canon h ..
  | .divu .. => execDivu_canon h ..
  | .rem .. => execRem_canon h ..
  | .remu .. => execRemu_canon h ..
  | .addi .. => execAddi_canon h ..
  | .andi .. => execAndi_canon h ..
  | .ori .. => execOri_canon h ..
  | .xori .. => execXori_canon h ..
  | .shli .. => execShli_canon h ..
  | .shri .. => execShri_canon h ..
  | .sari .. => execSari_canon h ..
  | .lui .. => execLui_canon h ..
  | .li .. => execLi_canon h ..
  | .cmp .. => execCmp_canon h ..
  | .cmpi .. => execCmpi_canon h ..
  | .pand .. => execPand_canon h ..
  | .por .. => execPor_canon h ..
  | .pxor .. => execPxor_canon h ..
  | .pandn .. => execPandn_canon h ..
  | .pnot .. => execPnot_canon h ..
  | .pmov .. => execPmov_canon h ..
  | .pfromg .. => execPfromg_canon h ..
  | .ptog .. => execPtog_canon h ..
  | .br _ => execBr_canon h ..
  | .jal _ => execJal_canon h ..
  | .jalr .. => execJalr_canon h ..
  | .loop .. => execLoop_canon h ..
  | .trap _ _ => execTrap_canon h ..
  | .exit _ => execExit_canon h ..
  | .ld .. => execLd_canon h ..
  | .st .. => execSt_canon h ..
  | .ldc .. => execLdc_canon h ..
  | .stc .. => execStc_canon h ..
  | .ldsyn .. => execLdsyn_canon h ..
  | .fe .. => execFe_canon h ..
  | .atom .. => execAtom_canon h ..
  | .red .. => execRed_canon h ..
  | .swap .. => execSwap_canon h ..
  | .cas .. => execCas_canon h ..
  | .fence .. => execFence_canon h ..
  | .csetb .. => execCsetb_canon h ..
  | .cinc .. => execCinc_canon h ..
  | .cseto .. => execCseto_canon h ..
  | .candp .. => execCandp_canon h ..
  | .cgetb .. => execCgetb_canon h ..
  | .cgetl .. => execCgetl_canon h ..
  | .cgeto .. => execCgeto_canon h ..
  | .cgetp .. => execCgetp_canon h ..
  | .cgets .. => execCgets_canon h ..
  | .ctest .. => execCtest_canon h ..
  | .cclr _ _ => execCclr_canon h ..
  | .cmov .. => execCmov_canon h ..
  | .cseal .. => execCseal_canon h ..
  | .cunseal .. => execCunseal_canon h ..
  | .cinci .. => execCinci_canon h ..
  | .sspec .. => execSspec_canon h ..
  | .scopy .. => execScopy_canon h ..
  | .twaitany .. => execTwaitany_canon h ..
  | .twaitall _ _ => execTwaitall_canon h ..
  | .tfirst .. => execTfirst_canon h ..
  | .tclr _ _ => execTclr_canon h ..
  | .tread _ _ => execTread_canon h ..
  | .rinit .. => execRinit_canon h ..
  | .rawait .. => execRawait_canon h ..
  | .rrel .. => execRrel_canon h ..
  | .rstat .. => execRstat_canon h ..
  | .sbarOrder _ _ => execSbarOrder_canon h ..
  | .sbarConfig _ _ => execSbarConfig_canon h ..
  | .sbarMemphase _ _ => execSbarMemphase_canon h ..
  | .sbarCond _ _ => execSbarCond_canon h ..
  | .inject .. => execInject_canon h ..
  | .markp .. => execMarkp_canon h ..
  | .drain .. => execDrain_canon h ..
  | .pstat .. => execPstat_canon h ..
  | .cfgld .. => execCfgld_canon h ..
  | .cfgrel _ _ => execCfgrel_canon h ..
  | .cfgqry .. => execCfgqry_canon h ..
  | .cfgstart _ _ => execCfgstart_canon h ..
  | .cfggate .. => execCfggate_canon h ..
  | .qsweep .. => execQsweep_canon h ..
  | .launch .. => execLaunch_canon h ..
  | .lwait .. => execLwait_canon h ..
  | .bar .. => execBar_canon h ..
  | .drove .. => execDrove_canon h ..
  | .pinbin .. => execPinbin_canon h ..
  | .pinpair .. => execPinpair_canon h ..
  | .threshOpen .. => execThreshOpen_canon h ..
  | .threshClose .. => execThreshClose_canon h ..
  | .mtaskAttach .. => execMtaskAttach_canon h ..
  | .mtaskAppend .. => execMtaskAppend_canon h ..
  | .mtaskDetach .. => execMtaskDetach_canon h ..
  | .mpath .. => execMpath_canon h ..
  | .tidset .. => execTidset_canon h ..
  | .tidget .. => execTidget_canon h ..
  | .tidinv _ _ => execTidinv_canon h ..
  | .srrd .. => execSrrd_canon h ..
  | .srwr .. => execSrwr_canon h ..
  | .eret _ => execEret_canon h ..
  | .evt _ _ => execEvt_canon h ..
  | .rdtime _ _ => execRdtime_canon h ..
  | .ident _ _ => execIdent_canon h ..
  | .peek _ => actorWord_canon effPeek_keeps h ..
  | .adv _ => actorWord_canon effAdv_keeps h ..
  | .put _ => actorWord_canon effPut_keeps h ..
  | .padv _ => actorWord_canon effPadv_keeps h ..
  | .hrd _ => actorWord_canon effHrd_keeps h ..
  | .hwr _ => actorWord_canon effHwr_keeps h ..
  | .qrd _ => actorWord_canon effQrd_keeps h ..
  | .qwr _ => actorWord_canon effQwr_keeps h ..
  | .const _ => actorWord_canon effConst_keeps h ..
  | .consth _ => actorWord_canon effConsth_keeps h ..
  | .laneid _ => actorWord_canon effLaneid_keeps h ..
  | .tagrd _ => actorWord_canon effTagrd_keeps h ..
  | .tagrdKind _ => actorWord_canon effTagrdKind_keeps h ..
  | .maskrd _ => actorWord_canon effMaskrd_keeps h ..
  | .maskset _ => actorWord_canon effMaskset_keeps h ..
  | .iadd _ => actorWord_canon effIadd_keeps h ..
  | .isub _ => actorWord_canon effIsub_keeps h ..
  | .imul _ => actorWord_canon effImul_keeps h ..
  | .imulh _ => actorWord_canon effImulh_keeps h ..
  | .iand _ => actorWord_canon effIand_keeps h ..
  | .ior _ => actorWord_canon effIor_keeps h ..
  | .ixor _ => actorWord_canon effIxor_keeps h ..
  | .ishl _ => actorWord_canon effIshl_keeps h ..
  | .ishr _ => actorWord_canon effIshr_keeps h ..
  | .isar _ => actorWord_canon effIsar_keeps h ..
  | .imin _ => actorWord_canon effImin_keeps h ..
  | .imax _ => actorWord_canon effImax_keeps h ..
  | .iabs _ => actorWord_canon effIabs_keeps h ..
  | .ineg _ => actorWord_canon effIneg_keeps h ..
  | .isatadd _ => actorWord_canon effIsatadd_keeps h ..
  | .isatsub _ => actorWord_canon effIsatsub_keeps h ..
  | .fadd _ => actorWord_canon effFadd_keeps h ..
  | .fsub _ => actorWord_canon effFsub_keeps h ..
  | .fmul _ => actorWord_canon effFmul_keeps h ..
  | .ffma _ => actorWord_canon effFfma_keeps h ..
  | .fmin _ => actorWord_canon effFmin_keeps h ..
  | .fmax _ => actorWord_canon effFmax_keeps h ..
  | .fabs _ => actorWord_canon effFabs_keeps h ..
  | .fneg _ => actorWord_canon effFneg_keeps h ..
  | .frcp _ => actorWord_canon effFrcp_keeps h ..
  | .frsq _ => actorWord_canon effFrsq_keeps h ..
  | .fexp2 _ => actorWord_canon effFexp2_keeps h ..
  | .flog2 _ => actorWord_canon effFlog2_keeps h ..
  | .ftanh _ => actorWord_canon effFtanh_keeps h ..
  | .fsinpi _ => actorWord_canon effFsinpi_keeps h ..
  | .fcospi _ => actorWord_canon effFcospi_keeps h ..
  | .frnd _ => actorWord_canon effFrnd_keeps h ..
  | .icmp _ => actorWord_canon effIcmp_keeps h ..
  | .fcmp _ => actorWord_canon effFcmp_keeps h ..
  | .sel _ => actorWord_canon effSel_keeps h ..
  | .actorPand _ => actorWord_canon effPand_keeps h ..
  | .actorPor _ => actorWord_canon effPor_keeps h ..
  | .actorPnot _ => actorWord_canon effPnot_keeps h ..
  | .anyl _ => actorWord_canon effAnyl_keeps h ..
  | .alll _ => actorWord_canon effAlll_keeps h ..
  | .cvtfi _ => actorWord_canon effCvtfi_keeps h ..
  | .cvtif _ => actorWord_canon effCvtif_keeps h ..
  | .cvtfb _ => actorWord_canon effCvtfb_keeps h ..
  | .cvtbf _ => actorWord_canon effCvtbf_keeps h ..
  | .pack _ => actorWord_canon effPack_keeps h ..
  | .unpack _ => actorWord_canon effUnpack_keeps h ..
  | .shuf _ => actorWord_canon effShuf_keeps h ..
  | .bcast _ => actorWord_canon effBcast_keeps h ..
  | .rotl _ => actorWord_canon effRotl_keeps h ..
  | .rsum _ => actorWord_canon effRsum_keeps h ..
  | .rmax _ => actorWord_canon effRmax_keeps h ..
  | .rmin _ => actorWord_canon effRmin_keeps h ..
  | .scan _ => actorWord_canon effScan_keeps h ..
  | .compact _ => actorWord_canon effCompact_keeps h ..
  | .expand _ => actorWord_canon effExpand_keeps h ..
  | .spld _ => actorWord_canon effSpld_keeps h ..
  | .spst _ => actorWord_canon effSpst_keeps h ..
  | .spldsyn _ => actorWord_canon effSpldsyn_keeps h ..
  | .spred _ => actorWord_canon effSpred_keeps h ..
  | .tidld _ => actorWord_canon effTidld_keeps h ..
  | .emitctl _ => actorWord_canon effEmitctl_keeps h ..
  | .mark _ => actorWord_canon effMark_keeps h ..
  | .fault _ => actorWord_canon effFault_keeps h ..
  | .callreq _ => actorWord_canon effCallreq_keeps h ..
  | .actorEvt _ => actorWord_canon effActorEvt_keeps h ..
  | .mvsplit _ => actorWord_canon effMvsplit_keeps h ..
  | .qpscale _ => actorWord_canon effQpscale_keeps h ..
  | .zigzag _ => actorWord_canon effZigzag_keeps h ..
  | .erracc _ => actorWord_canon effErracc_keeps h ..
  | .actorDataFiring _ => execActorDataFiring_canon h ..
  | .markerStep _ => execMarkerStep_canon h ..
  | .windowWriteApply _ => execWindowWriteApply_canon h ..
  | .linkTokenTransfer .. => execLinkTokenTransfer_canon h ..
  | .creditReturn _ _ => execCreditReturn_canon h ..
  | .nodeMarkerPass _ => execNodeMarkerPass_canon h ..
  | .joinCombine _ => execJoinCombine_canon h ..
  | .stackedCall _ => execStackedCall_canon h ..
  | .freezePoint _ => execFreezePoint_canon h ..
  | .spillComplete _ => execSpillComplete_canon h ..
  | .ret _ => execRet_canon h ..
  | .refillComplete _ => execRefillComplete_canon h ..
  | .sideCallPlace _ _ => execSideCallPlace_canon h ..
  | .sideCallRelease _ => execSideCallRelease_canon h ..
  | .steerRoute _ => execSteerRoute_canon h ..
  | .mergeSequence _ => execMergeSequence_canon h ..
  | .mergeKey _ => execMergeKey_canon h ..
  | .loopheadMerge _ => execLoopheadMerge_canon h ..
  | .countIndex _ => execCountIndex_canon h ..
  | .countLoop _ => execCountLoop_canon h ..
  | .filterToken _ => execFilterToken_canon h ..
  | .coalesce _ => execCoalesce_canon h ..
  | .fanoutEnqueue _ => execFanoutEnqueue_canon h ..
  | .reduceStep _ => execReduceStep_canon h ..
  | .reduceGroupClose _ => execReduceGroupClose_canon h ..
  | .warpRequest _ => execWarpRequest_canon h ..
  | .memoryLoad _ => execMemoryLoad_canon h ..
  | .memoryStore _ => execMemoryStore_canon h ..
  | .memoryGather _ => execMemoryGather_canon h ..
  | .memoryScatter _ => execMemoryScatter_canon h ..
  | .memoryUpdate _ => execMemoryUpdate_canon h ..
  | .memoryReply _ => execMemoryReply_canon h ..
  | .memoryOrderOut _ => execMemoryOrderOut_canon h ..
  | .convertElement _ => execConvertElement_canon h ..
  | .macWeightLoad _ => execMacWeightLoad_canon h ..
  | .macActivationRow _ => execMacActivationRow_canon h ..
  | .macRoundRelease _ => execMacRoundRelease_canon h ..
  | .firingWeightUpdate _ => execFiringWeightUpdate_canon h ..
  | .beadleSweep _ => execBeadleSweep_canon h ..
  | .pagePlacement _ _ => execPagePlacement_canon h ..
  | .hamletClearComplete _ => execHamletClearComplete_canon h ..
  | .granaryClearComplete _ => execGranaryClearComplete_canon h ..
  | .streamStart _ _ => execStreamStart_canon h ..
  | .streamElement _ _ => execStreamElement_canon h ..
  | .streamComplete _ _ => execStreamComplete_canon h ..
  | .copyComplete _ _ => execCopyComplete_canon h ..
  | .sparseUpdateApply .. => execSparseUpdateApply_canon h ..
  | .walkerGrant _ => execWalkerGrant_canon h ..
  | .walkComplete _ => execWalkComplete_canon h ..
  | .invalidationEnqueue _ => execInvalidationEnqueue_canon h ..
  | .invalidationComplete => execInvalidationComplete_canon h
  | .hostMemWrite _ _ => execHostMemWrite_canon h ..
  | .hostMemRead _ _ => execHostMemRead_canon h ..
  | .peerAccess .. => execPeerAccess_canon h ..
  | .peerReply _ _ => execPeerReply_canon h ..
  | .flitRetry _ => execFlitRetry_canon h ..
  | .portDown _ => execPortDown_canon h ..
  | .portRetrain _ => execPortRetrain_canon h ..
  | .portTrainingDone _ _ => execPortTrainingDone_canon h ..
  | .queueBaseWrite _ _ => execQueueBaseWrite_canon h ..
  | .queueSizeWrite _ _ => execQueueSizeWrite_canon h ..
  | .doorbell _ _ => execDoorbell_canon h ..
  | .stewardTakeEntry => execStewardTakeEntry_canon h
  | .dispatchSelect _ => execDispatchSelect_canon h ..
  | .launchPlace _ _ => execLaunchPlace_canon h ..
  | .reservationTimer _ => execReservationTimer_canon h ..
  | .pwaitPreempt _ => execPwaitPreempt_canon h ..
  | .launchComplete _ => execLaunchComplete_canon h ..
  | .preemptRequest _ => execPreemptRequest_canon h ..
  | .sourcePmkEmit _ => execSourcePmkEmit_canon h ..
  | .pmkArrival _ => execPmkArrival_canon h ..
  | .preemptForce _ => execPreemptForce_canon h ..
  | .saveComplete _ => execSaveComplete_canon h ..
  | .restore _ => execRestore_canon h ..
  | .checkpoint _ => execCheckpoint_canon h ..
  | .replayRollback _ => execReplayRollback_canon h ..
  | .stewardTrap => execStewardTrap_canon h
  | .standbyStart => execStandbyStart_canon h
  | .takeoverEnd => execTakeoverEnd_canon h
  | .droverWalkStart _ => execDroverWalkStart_canon h ..
  | .droverWalkComplete _ => execDroverWalkComplete_canon h ..
  | .pinfoldCommandStart _ => execPinfoldCommandStart_canon h ..
  | .pinbinComplete _ => execPinbinComplete_canon h ..
  | .pinpairComplete _ => execPinpairComplete_canon h ..
  | .thresherSessionStart _ => execThresherSessionStart_canon h ..
  | .thresherBatch _ _ => execThresherBatch_canon h ..
  | .thresherSessionEnd _ => execThresherSessionEnd_canon h ..
  | .tileTaskIssue .. => execTileTaskIssue_canon h ..
  | .tileTaskComplete .. => execTileTaskComplete_canon h ..
  | .mpathComplete _ => execMpathComplete_canon h ..
  | .sampleTimer _ => execSampleTimer_canon h ..
  | .crierReadOffsetWrite _ _ => execCrierReadOffsetWrite_canon h ..
  | .counterClr _ => execCounterClr_canon h ..
  | .counterFreeze _ _ => execCounterFreeze_canon h ..
  | .qosWordWrite _ _ => execQosWordWrite_canon h ..
  | .qosWindow .. => execQosWindow_canon h ..
  | .fenceEntryWrite .. => execFenceEntryWrite_canon h ..
  | .runControlStop _ => execRunControlStop_canon h ..
  | .runControlRun _ => execRunControlRun_canon h ..
  | .registerWrite _ _ => execRegisterWrite_canon h ..
  | .hamletRetire _ => execHamletRetire_canon h ..
  | .pageRetire _ => execPageRetire_canon h ..
  | .thermalThrottle => execThermalThrottle_canon h
  | .clockRaise => execClockRaise_canon h
  | .thermalStop => execThermalStop_canon h
  | .packageReset => execPackageReset_canon h
  | .selfTestPass _ => execSelfTestPass_canon h ..
  | .hostLinkTraining _ => execHostLinkTraining_canon h ..
  | .firmwareStageCheck _ _ => execFirmwareStageCheck_canon h ..
  | .maintenanceCommand .. => execMaintenanceCommand_canon h ..
  | .getVersion => execGetVersion_canon h
  | .getCapabilities => execGetCapabilities_canon h
  | .negotiateAlgorithms => execNegotiateAlgorithms_canon h
  | .getDigests => execGetDigests_canon h
  | .getCertificate => execGetCertificate_canon h
  | .challenge _ => execChallenge_canon h ..
  | .getMeasurements _ => execGetMeasurements_canon h ..
  | .illegalInstr => execIllegalInstr_canon h
  | .fetchFault .. => execFetchFault_canon h ..
  | .contextCreation _ _ => execContextCreation_canon h ..
  | .contextTeardown _ => execContextTeardown_canon h ..
  | .vfTeardown _ => execVfTeardown_canon h ..
  | .fabricCycle => execFabricCycle_canon h
  | .timeNanosecond => execTimeNanosecond_canon h
  | .selfTestFail _ => execSelfTestFail_canon h ..

end Sys2Proof.Machine
end

section
/-! SUPPORT. O60: memory keeps its canonical form (log 3) under the choice of the agent that acts next (log 1). -/

namespace Sys2Proof.Machine

/-! ### Lists of things that may act -/

/-- The act keeps the canonical form. -/
def ActKeeps (f : Act) : Prop := ∀ s : State, s.mem.Wf → (f s).mem.Wf

/-- Each of the listed acts keeps the canonical form. -/
def ActsKeep (l : List Act) : Prop := ∀ f ∈ l, ActKeeps f

theorem actKeeps {f : State → Host.Outcome State Fault Refusal} (hf : ∀ s, s.mem.Wf → Canon (f s)) : ActKeeps (act f) :=
  fun _ h => act_wf hf h

theorem ActsKeep.nil : ActsKeep [] := List.forall_mem_nil _

theorem ActsKeep.cons {f : Act} {l : List Act} (hf : ActKeeps f) (hl : ActsKeep l) : ActsKeep (f :: l) :=
  List.forall_mem_cons.mpr ⟨hf, hl⟩

theorem ActsKeep.one {f : Act} (hf : ActKeeps f) : ActsKeep [f] := .cons hf .nil

theorem ActsKeep.two {f g : Act} (hf : ActKeeps f) (hg : ActKeeps g) : ActsKeep [f, g] := .cons hf (.one hg)

theorem ActsKeep.three {f g k : Act} (hf : ActKeeps f) (hg : ActKeeps g) (hk : ActKeeps k) : ActsKeep [f, g, k] :=
  .cons hf (.two hg hk)

theorem ActsKeep.append {l m : List Act} (hl : ActsKeep l) (hm : ActsKeep m) : ActsKeep (l ++ m) :=
  List.forall_mem_append.mpr ⟨hl, hm⟩

theorem ActsKeep.ite {c : Prop} [Decidable c] {l m : List Act} (hl : ActsKeep l) (hm : ActsKeep m) :
    ActsKeep (if c then l else m) := by
  split
  · exact hl
  · exact hm

theorem ActsKeep.map {α : Type} {g : α → Act} (hg : ∀ a, ActKeeps (g a)) (l : List α) : ActsKeep (l.map g) :=
  List.forall_mem_map.mpr fun a _ => hg a

theorem ActsKeep.flatMap {α : Type} {g : α → List Act} (hg : ∀ a, ActsKeep (g a)) (l : List α) : ActsKeep (l.flatMap g) := by
  intro f hf
  obtain ⟨a, -, ha⟩ := List.mem_flatMap.mp hf
  exact hg a f ha

theorem ActsKeep.filterMap {α : Type} {g : α → Option Act} (hg : ∀ a f, g a = some f → ActKeeps f) (l : List α) :
    ActsKeep (l.filterMap g) := by
  intro f hf
  obtain ⟨a, -, ha⟩ := List.mem_filterMap.mp hf
  exact hg a f ha

theorem ActsKeep.rotate {l : List Act} (hl : ActsKeep l) (k : Nat) : ActsKeep (rotate k l) :=
  .append (fun f hf => hl f (List.mem_of_mem_drop hf)) (fun f hf => hl f (List.mem_of_mem_take hf))

theorem firstStep_finds {l : List Act} (hl : ActsKeep l) {s : State} (h : s.mem.Wf) : Finds id (firstStep s l) := by
  induction l with
  | nil => trivial
  | cons f l ih =>
    obtain ⟨hf, hl⟩ := List.forall_mem_cons.mp hl
    unfold firstStep
    dsimp only
    split
    · exact ih hl
    · exact hf s h

/-! ### The steps that a state offers -/

theorem linkSteps_keep (i : Nat) (x : Inst) : ActsKeep (linkSteps i x) :=
  .flatMap (fun _ => .cons (actKeeps fun _ h => execCreditReturn_canon h ..)
    (.map (fun _ => actKeeps fun _ h => execLinkTokenTransfer_canon h ..) _)) _

theorem portSteps_keep (x : Inst) : ActsKeep (portSteps x) :=
  .flatMap (fun _ => .ite .nil (.flatMap (fun _ => .three (actKeeps fun _ h => execStreamStart_canon h ..)
    (actKeeps fun _ h => execStreamElement_canon h ..) (actKeeps fun _ h => execStreamComplete_canon h ..)) _)) _

/-- What a node does of its own, and the passing of its markers. -/
theorem ActsKeep.withMarks {f : State → Host.Outcome State Fault Refusal} (hf : ∀ s, s.mem.Wf → Canon (f s)) (n : NodeRef) :
    ActsKeep [act f, act (execNodeMarkerPass n)] :=
  .two (actKeeps hf) (actKeeps fun _ h => execNodeMarkerPass_canon h _)

theorem cellSteps_keep (i p c : Nat) (x : Cell) : ActsKeep (cellSteps i p c x) := by
  unfold cellSteps
  dsimp only
  split
  · exact .flatMap (fun a => .three (actKeeps fun _ h => execWindowWriteApply_canon h _)
      (actKeeps fun _ h => execActorDataFiring_canon h _) (actKeeps fun _ h => execMarkerStep_canon h _)) _
  · exact .withMarks (fun _ h => execJoinCombine_canon h _) _
  · exact .withMarks (fun _ h => execSteerRoute_canon h _) _
  · split
    · exact .withMarks (fun _ h => execMergeSequence_canon h _) _
    · exact .withMarks (fun _ h => execMergeKey_canon h _) _
    · exact .one (actKeeps fun _ h => execLoopheadMerge_canon h _)
  · exact .ite (.withMarks (fun _ h => execCountIndex_canon h _) _) (.one (actKeeps fun _ h => execCountLoop_canon h _))
  · exact .withMarks (fun _ h => execFilterToken_canon h _) _
  · exact .withMarks (fun _ h => execCoalesce_canon h _) _
  · exact .one (actKeeps fun _ h => execFanoutEnqueue_canon h _)
  · exact .cons (actKeeps fun _ h => execReduceStep_canon h _) (.withMarks (fun _ h => execReduceGroupClose_canon h _) _)
  · exact .withMarks (fun _ h => execWarpRequest_canon h _) _
  · exact .withMarks (fun _ h => execConvertElement_canon h _) _
  · exact .cons (actKeeps fun _ h => execMacWeightLoad_canon h _) (.cons (actKeeps fun _ h => execMacActivationRow_canon h _)
      (.withMarks (fun _ h => execMacRoundRelease_canon h _) _))
  · refine .flatMap (fun k => .cons (actKeeps fun _ h => execMemoryOrderOut_canon h _)
      (.cons (actKeeps fun _ h => execMemoryReply_canon h _) (.two ?_ (actKeeps fun _ h => execNodeMarkerPass_canon h _)))) _
    split
    · exact actKeeps fun _ h => execMemoryLoad_canon h _
    · exact actKeeps fun _ h => execMemoryStore_canon h _
    · exact actKeeps fun _ h => execMemoryGather_canon h _
    · exact actKeeps fun _ h => execMemoryScatter_canon h _
    · exact actKeeps fun _ h => execMemoryUpdate_canon h _
  · exact .nil

theorem instSteps_keep (i : Nat) (x : Inst) : ActsKeep (instSteps i x) :=
  .append (.append (linkSteps_keep i x) (.flatMap (fun _ => cellSteps_keep _ _ _ _) _)) (portSteps_keep x)

theorem callSteps_keep (i : Nat) (x : Inst) : ActsKeep (callSteps i x) := by
  refine .append (.cons (actKeeps fun _ h => execFreezePoint_canon h _) (.three (actKeeps fun _ h => execSpillComplete_canon h _)
    (actKeeps fun _ h => execRefillComplete_canon h _) (actKeeps fun _ h => execSideCallRelease_canon h _))) ?_
  exact .flatMap (fun _ => .ite (.two (actKeeps fun _ h => execStackedCall_canon h _)
    (actKeeps fun _ h => execRet_canon h _)) .nil) _

theorem drainSteps_keep (i : Nat) (x : Inst) : ActsKeep (drainSteps i x) :=
  .append (.map (fun _ => actKeeps fun _ h => execSourcePmkEmit_canon h _) _)
    (.map (fun _ => actKeeps fun _ h => execPmkArrival_canon h _) _)

theorem regionSteps_keep (s : State) : ActsKeep (regionSteps s) := by
  refine .flatMap (fun e => ?_) _
  dsimp only
  split
  · exact .nil
  · exact .append (.append (callSteps_keep _ _) (.ite (drainSteps_keep _ _) .nil)) (.ite .nil (instSteps_keep _ _))

theorem memSteps_keep (s : State) : ActsKeep (memSteps s) := by
  refine .append (.append (.append (.append (.append ?_ ?_) (.ite .nil ?_)) ?_) ?_) ?_
  · exact .map (fun _ => actKeeps fun _ h => execWalkComplete_canon h _) _
  · exact .map (fun _ => actKeeps fun _ h => execWalkerGrant_canon h _) _
  · exact .one (actKeeps fun _ h => execInvalidationComplete_canon h)
  · exact .map (fun _ => actKeeps fun _ h => execGranaryClearComplete_canon h _) _
  · refine .filterMap (fun e f hf => ?_) _
    obtain ⟨-, -, rfl⟩ := Option.map_eq_some_iff.mp hf
    exact actKeeps fun _ h => execHamletClearComplete_canon h _
  · exact .flatMap (fun _ => .map (fun _ => actKeeps fun _ h => execSparseUpdateApply_canon h ..) _) _

theorem copySteps_keep (s : State) : ActsKeep (copySteps s) := by
  refine .flatMap (fun e => .filterMap (fun y f hf => ?_) _) _
  dsimp only at hf
  split at hf
  · cases hf
    exact actKeeps fun _ h => execCopyComplete_canon h ..
  · nomatch hf

theorem engineSteps_keep (s : State) : ActsKeep (engineSteps s) := by
  refine .append (.flatMap (fun e => ?_) _) (.flatMap (fun e => .append ?_ (.ite .nil ?_)) _)
  · dsimp only
    split
    · exact .two (actKeeps fun _ h => execDroverWalkStart_canon h _) (actKeeps fun _ h => execDroverWalkComplete_canon h _)
    · exact .two (actKeeps fun _ h => execPinfoldCommandStart_canon h _) (actKeeps fun _ h => execPinbinComplete_canon h _)
    · exact .two (actKeeps fun _ h => execPinfoldCommandStart_canon h _) (actKeeps fun _ h => execPinpairComplete_canon h _)
    · exact .three (actKeeps fun _ h => execThresherSessionStart_canon h _) (actKeeps fun _ h => execThresherBatch_canon h ..)
        (actKeeps fun _ h => execThresherSessionEnd_canon h _)
    · exact .one (actKeeps fun _ h => execMpathComplete_canon h _)
    · exact .nil
  · exact .map (fun _ => actKeeps fun _ h => execTileTaskComplete_canon h ..) _
  · refine .flatMap (fun y => .filterMap (fun z f hf => ?_) _) _
    dsimp only at hf
    split at hf
    · cases hf
      exact actKeeps fun _ h => execTileTaskIssue_canon h ..
    · nomatch hf

theorem pagerSteps_keep (s : State) : ActsKeep (pagerSteps s) := by
  refine .append (.filterMap (fun e f hf => ?_) _) (.filterMap (fun e f hf => ?_) _)
  · obtain ⟨-, -, rfl⟩ := Option.map_eq_some_iff.mp hf
    exact actKeeps fun _ h => execPagePlacement_canon h ..
  · obtain ⟨-, -, rfl⟩ := Option.map_eq_some_iff.mp hf
    exact actKeeps fun _ h => execSideCallPlace_canon h ..

theorem stewardSteps_keep (s : State) : ActsKeep (stewardSteps s) := by
  refine .append (.append (.three (actKeeps fun _ h => execStandbyStart_canon h) (actKeeps fun _ h => execTakeoverEnd_canon h)
    (actKeeps fun _ h => execStewardTakeEntry_canon h)) (.flatMap (fun e => ?_) _)) (.flatMap (fun v => ?_) _)
  · dsimp only
    split
    · exact .nil
    · exact .one (actKeeps fun _ h => execLaunchPlace_canon h ..)
    · exact .append (.three (actKeeps fun _ h => execReplayRollback_canon h _) (actKeeps fun _ h => execLaunchComplete_canon h _)
        (actKeeps fun _ h => execCheckpoint_canon h _)) (.ite (.one (actKeeps fun _ h => execPreemptRequest_canon h _)) .nil)
    · exact .two (actKeeps fun _ h => execSaveComplete_canon h _) (actKeeps fun _ h => execPreemptForce_canon h _)
    · exact .one (actKeeps fun _ h => execSaveComplete_canon h _)
    · exact .one (actKeeps fun _ h => execReplayRollback_canon h _)
    · exact .one (actKeeps fun _ h => execRestore_canon h _)
    · exact .nil
  · exact .three (actKeeps fun _ h => execDispatchSelect_canon h _) (actKeeps fun _ h => execReservationTimer_canon h _)
      (actKeeps fun _ h => execPwaitPreempt_canon h _)

theorem timerSteps_keep (s : State) : ActsKeep (timerSteps s) := by
  refine .append (.filterMap (fun e f hf => ?_) _) (.filterMap (fun e f hf => ?_) _)
  · dsimp only at hf
    split at hf
    · cases hf
      exact actKeeps fun _ h => execBeadleSweep_canon h _
    · nomatch hf
  · dsimp only at hf
    split at hf
    · cases hf
      exact actKeeps fun _ h => execSampleTimer_canon h _
    · nomatch hf

theorem ownSteps_keep (s : State) : ActsKeep (ownSteps s) :=
  memSteps_keep s |>.append (regionSteps_keep s) |>.append (copySteps_keep s) |>.append (engineSteps_keep s)
    |>.append (pagerSteps_keep s) |>.append (stewardSteps_keep s) |>.append (timerSteps_keep s)

/-! ### The turns -/

theorem runNext_canon {s : State} (h : s.mem.Wf) : Canon (runNext s) := by
  unfold runNext
  split
  · exact fetchTrap_canon (s := { noteError s 5 s.cur with ecc := _ }) h _
  · split
    · exact runHandler_wf h
    · have hn := nextBytes_keeps h
      split
      · next e =>
        have ht := hn.of_ok e
        split
        · exact exec_canon ht _
        · exact execIllegalInstr_canon ht
      · exact fetchTrap_canon h _
      · next e => exact fetchTrap_canon (hn.of_error e) _
      · exact State.updMe_wf (register_wf h _) _
      · next e => exact State.updMe_wf (hn.of_error e) _

theorem reeveTurn_canon {s : State} (h : s.mem.Wf) (n : Nat) : Canon (reeveTurn n s) := by
  have hc : ({ s with cur := n } : State).mem.Wf := h
  unfold reeveTurn
  dsimp only
  split
  · exact runNext_canon hc
  · exact hc

theorem firstReeve_finds {s : State} (h : s.mem.Wf) (l : List Nat) : Finds id (firstReeve s l) := by
  induction l with
  | nil => trivial
  | cons n l ih =>
    have hn := reeveTurn_canon h n
    unfold firstReeve
    split
    · next e =>
      rw [e] at hn
      split
      · exact ih
      · exact hn
    · trivial

theorem actorTurn_canon {s : State} (h : s.mem.Wf) (n : NodeRef) : Canon (actorTurn n s) := by
  have hf : ({ s with focus := some n } : State).mem.Wf := h
  unfold actorTurn
  extract_lets t x i
  clear_value x i
  split
  · exact exec_canon hf _
  · exact wf_ite (haltSlot_wf hf ..) hf

theorem takeTurn_canon {s : State} (h : s.mem.Wf) (t : Turn) : Canon (takeTurn t s) := by
  unfold takeTurn
  split
  · split
    · exact reeveTurn_canon h _
    · trivial
  · split
    · exact actorTurn_canon h _
    · trivial
  · split
    · exact exec_canon h _
    · trivial

theorem agentStep_canon {s : State} (h : s.mem.Wf) (k n : Nat) {o : Host.Outcome State Fault Refusal}
    (ho : agentStep s k n = some o) : Canon o := by
  unfold agentStep at ho
  split at ho
  · split at ho
    · cases ho
      exact runNext_canon h
    · nomatch ho
  · obtain ⟨t, ht, rfl⟩ := Option.map_eq_some_iff.mp ho
    exact (firstStep_finds ((ownSteps_keep s).rotate k) h).of_some ht
  · obtain ⟨t, ht, rfl⟩ := Option.map_eq_some_iff.mp ho
    exact (firstReeve_finds h _).of_some ht
  · cases ho
    exact passTime_wf h

theorem goOn_canon {s : State} (h : s.mem.Wf) : Canon (goOn s) := by
  have hr : ({ s with rot := s.rot + 1 } : State).mem.Wf := h
  unfold goOn
  extract_lets k t
  cases e : ((List.range 4).map fun j => (k + j) % 4).findSome? (agentStep t (k / 4)) with
  | none => exact passTime_wf hr
  | some o =>
    obtain ⟨n, -, hn⟩ := List.exists_of_findSome?_eq_some e
    exact agentStep_canon hr _ n hn

theorem step_canon {s : State} (h : s.mem.Wf) : Canon (step s) := by
  unfold step nextStep
  split
  · next t rest _ => exact takeTurn_canon (s := { s with agenda := rest }) h t
  · exact goOn_canon h

/-- Settles O60: whatever acts in a step keeps the canonical form, be it a turn of the agenda, a step of a unit's own, a reeve,
or time. -/
theorem memoryStaysCanonical : Obligations.MemoryStaysCanonical := by
  unfold Obligations.MemoryStaysCanonical
  intro s t h e
  have hs := step_canon ((Mem.wf_iff _).mp h)
  rw [e] at hs
  exact (Mem.wf_iff _).mpr hs

end Sys2Proof.Machine
end

section
/-! SUPPORT. O15: ATOM, SWAP and CAS, in the physical memories and on another package (R169, R174, R254). -/

namespace Sys2Proof.Machine

/-! ### Words and numbers -/

theorem leNat_lt (bs : List Byte) : leNat bs < 256 ^ bs.length := by
  induction bs with
  | nil => decide
  | cons b bs ih =>
    have := b.isLt
    rw [leNat, List.length_cons, pow_succ]
    omega

theorem Mem.word_toNat (m : Mem) (a : Nat) : (m.word a).toNat = leNat (m.read a 8) := by
  have h := leNat_lt (m.read a 8)
  rw [Mem.read_length] at h
  exact Nat.mod_eq_of_lt h

/-- The signed reading of a word (R239). -/
theorem sgn_eq_toInt (w x : Nat) : sgn w x = (BitVec.ofNat w x).toInt := by
  rw [BitVec.toInt, BitVec.toNat_ofNat]
  rfl

theorem sgn_toNat {w : Nat} (x : BitVec w) : sgn w x.toNat = x.toInt := by
  rw [sgn_eq_toInt, BitVec.ofNat_toNat, BitVec.setWidth_eq]

/-- The word that ATOM writes (R254): ADD, MIN, MAX, MINU, MAXU, AND, OR or XOR of the old word and the operand. -/
def atomWord (aop : BitVec 3) (old y : W64) : W64 :=
  (([old + y, if old.toInt ≤ y.toInt then old else y, if old.toInt ≤ y.toInt then y else old,
    BitVec.ofNat 64 (min old.toNat y.toNat), BitVec.ofNat 64 (max old.toNat y.toNat), old &&& y, old ||| y,
    old ^^^ y] : List W64)[aop.toNat]?).getD 0

theorem atomOp_toNat (aop : BitVec 3) (old y : W64) :
    atomOp aop.toNat old.toNat y.toNat = (atomWord aop old y).toNat := by
  have h := aop.isLt
  have ho := old.isLt
  have hy := y.isLt
  unfold atomWord
  generalize aop.toNat = k at h
  match k, h with
  | 0, _ => exact (BitVec.toNat_add old y).symm
  | 1, _ | 2, _ =>
    show (if sgn 64 old.toNat ≤ sgn 64 y.toNat then _ else _) = (if old.toInt ≤ y.toInt then _ else _ : W64).toNat
    rw [sgn_toNat, sgn_toNat, apply_ite BitVec.toNat]
  | 3, _ => exact (Nat.mod_eq_of_lt (by omega : min old.toNat y.toNat < 2 ^ 64)).symm
  | 4, _ => exact (Nat.mod_eq_of_lt (by omega : max old.toNat y.toNat < 2 ^ 64)).symm
  | 5, _ => exact (BitVec.toNat_and old y).symm
  | 6, _ => exact (BitVec.toNat_or old y).symm
  | 7, _ => exact (BitVec.toNat_xor old y).symm

/-! ### A write that sets no full bit -/

theorem OnlyMem.trans {s t u : State} (h : OnlyMem s t) (k : OnlyMem t u) : OnlyMem s u := by
  have := congrArg (fun x : State => { x with mem := s.mem, vfs := s.vfs }) k
  exact this.trans h

theorem OnlyMem.eq {s u : State} (h : OnlyMem s u) : u = { s with mem := u.mem, vfs := u.vfs } := by
  have := congrArg (fun x : State => { x with mem := u.mem, vfs := u.vfs }) h
  exact this

/-- A retirement after a change of memory and the VF counters, noted with the launch (R386). -/
theorem OnlyMem.retiresMem {s u t : State} {l : Nat} {r : Reeve} {pc : W64} (hk : OnlyMem s u)
    (h : Retires (markDirty u l) t r pc) : RetiresMem s t r pc := by
  refine h.retiresMem (s := s) ?_ ?_ ?_
  all_goals
    rw [hk.eq]
    rfl

theorem OnlyMem.me {s u : State} (hk : OnlyMem s u) : u.me = s.me := by
  rw [hk.eq]
  rfl

/-- A write that sets no full bit stores its bytes and counts. -/
theorem storePhys_plain (s : State) (vf a : Nat) (bs : List Byte) :
    ∃ fs, storePhys s vf a bs = { s with mem := s.mem.store a bs false, vfs := fs } :=
  countWrite_eq { s with mem := s.mem.store a bs false } vf a bs.length

/-- `n` is `m` after bytes have been written from an address on: the tag of their first granule is clear (R126), and no
full/empty bit has changed (R142). -/
structure Wrote (m n : Mem) (a : Nat) (bs : List Byte) : Prop where
  read : n.read a bs.length = bs
  others : ∀ c, c < a ∨ a + bs.length ≤ c → n.byte c = m.byte c
  untagged : a / 16 ∉ n.tags
  empties : n.empties = m.empties

theorem Mem.wrote_store (m : Mem) {a : Nat} {bs : List Byte} (z : Bool) (h : bs.length ≠ 0) :
    Wrote m (m.store a bs z) a bs where
  read := (congrFun₂ (Mem.read_of_bytes (m := m.store a bs z) (n := m.write a bs) rfl) _ _).trans (Mem.read_write ..)
  others c hc := (Mem.byte_store ..).trans (Mem.byte_write_other _ _ _ _ hc)
  untagged := by
    rw [Mem.store_tags, mem_sdelN, granules_range h]
    exact fun ht => ht.2 ⟨le_rfl, Nat.div_le_div_right (by omega)⟩
  empties := Mem.store_empties ..

theorem Wrote.of_sameMem {l m n : Mem} {a : Nat} {bs : List Byte} (hs : SameMem l m) (h : Wrote m n a bs) :
    Wrote l n a bs := by
  obtain ⟨hbytes, -, hempties, -⟩ := hs
  exact ⟨h.read, fun c hc => (h.others c hc).trans (hbytes c), h.untagged, h.empties.trans hempties⟩

/-- The bytes after a number of `k` bytes has been written. -/
theorem Wrote.number {m n : Mem} {a k v : Nat} (h : Wrote m n a (leBytes k v)) :
    n.read a k = leBytes k v ∧ ∀ c, c < a ∨ a + k ≤ c → n.byte c = m.byte c := by
  have hread := h.read
  have hothers := h.others
  rw [length_leBytes] at hread hothers
  exact ⟨hread, hothers⟩

/-- A write to memory that was read for it (R169). -/
theorem wrote_storePhys {s u : State} (hu : Corrects s u) (vf a : Nat) {bs : List Byte} (h : bs.length ≠ 0) :
    OnlyMem s (storePhys u vf a bs) ∧ Wrote s.mem (storePhys u vf a bs).mem a bs := by
  obtain ⟨fs, hs⟩ := storePhys_plain u vf a bs
  rw [hs]
  exact ⟨hu.onlyMem.trans rfl, .of_sameMem hu.sameMem (u.mem.wrote_store false h)⟩

/-! ### The indivisible step (R169) -/

section Update
variable {s : State} (x : Acx) {pa n : Nat} (op : PeerOp) {f : Nat → Option Nat} (hb : s.mem.badAt pa n = false)
include hb

/-- An update that writes. -/
theorem updateLoc_phys_some {v : Nat} (hn : n ≠ 0) (hf : f (leNat (s.mem.read pa n)) = some v) :
    ∃ u, OnlyMem s u ∧ Wrote s.mem u.mem pa (leBytes n v) ∧
      updateLoc s x (.phys pa) n op f = .ok (leNat (s.mem.read pa n), u) := by
  obtain ⟨u, hu, hl⟩ := loadPhys_good x.vf hb
  obtain ⟨hk, hw⟩ := wrote_storePhys hu x.vf pa (bs := leBytes n v) (by rwa [length_leBytes])
  refine ⟨_, hk, hw, ?_⟩
  show (loadPhys s x.vf pa n >>= _) = _
  rw [hl]
  simp only [bind, Except.bind, hf]
  rfl

/-- An update that does not write. -/
theorem updateLoc_phys_none (hf : f (leNat (s.mem.read pa n)) = none) : ∃ u, Corrects s u ∧
    updateLoc s x (.phys pa) n op f = .ok (leNat (s.mem.read pa n), u) := by
  obtain ⟨u, hu, hl⟩ := loadPhys_good x.vf hb
  refine ⟨u, hu, ?_⟩
  show (loadPhys s x.vf pa n >>= _) = _
  rw [hl]
  simp only [bind, Except.bind, hf]

end Update

/-- An update on another package takes the old value that the peer answers; a reduction returns nothing. -/
theorem updateLoc_peer {s : State} {x : Acx} {pa ea n : Nat} {m : Bool} {op : PeerOp} {f : Nat → Option Nat}
    (h : ∀ c v, op ≠ .reduce c v) : updateLoc s x (.peer pa ea m) n op f =
      (peerAnswer s x pa ea m op >>= fun bs => .ok (leNat bs, s)) := by
  cases op with
  | reduce c v => exact absurd rfl (h c v)
  | _ => rfl

section Peer
variable {s : State} {x : Acx} {pa ea : Nat} {m : Bool} {op : PeerOp}

theorem peerAnswer_done {g : PeerGift} {bs : List Byte}
    (hf : s.peerIn.find? (fun g => g.who == x.who && g.addr == pa && g.op == op) = some g)
    (hd : g.down = false) (ha : g.ans = .done bs) : peerAnswer s x pa ea m op = .ok bs := by
  unfold peerAnswer
  rw [hf]
  dsimp only
  rw [hd, ha]
  rfl

theorem peerAnswer_none (hf : s.peerIn.find? (fun g => g.who == x.who && g.addr == pa && g.op == op) = none) :
    peerAnswer s x pa ea m op = .error (.wait .memory (some (.peer x.who x.ctx x.vf pa ea m op))) := by
  unfold peerAnswer
  rw [hf]
  rfl

/-- A request to a peer that is outstanding is not made again. -/
theorem register_peer_again {who : Who} {ctx vf : Nat}
    (h : (s.peerOut.any fun q => q.who == who && q.addr == pa && q.op == op && q.wants) = true) :
    register s (some (.peer who ctx vf pa ea m op)) = s := if_pos h

end Peer

/-! ### The instructions (R254) -/

theorem Ends.imp {i : Instr} {s : State} {r : Reeve} {pc : W64} {P Q : State → Prop} (h : Ends i s r pc P)
    (hpq : ∀ t, P t → Q t) : Ends i s r pc Q := by
  obtain ⟨t, ht, hr, hp⟩ := h
  exact ⟨t, ht, hr, hpq t hp⟩

section Atomic
variable {i : Instr} {s : State} {p : Guard} {d : GReg} {kc : KReg} {a : GReg} {op : State → PeerOp}
  {f : State → Nat → Option Nat} (he : exec i s = atomic p d kc a op f s) (hg : s.me.guard p = true) (hq : Quiet s)
include he hg hq

section Place
variable {l : Loc}
  (ha : access s s.acx (s.me.kr kc) ((s.me.kr kc).offset + (s.me.gr a).toNat : Nat) 8 8 clAtomic rA = .ok l)
include ha

/-- An atomic whose update succeeds returns the old value. -/
theorem ends_atomic {old : Nat} {u : State} (hu : updateLoc s s.acx l 8 (op s) (f s) = .ok (old, u)) (hk : OnlyMem s u) :
    Ends i s (s.me.setG d (BitVec.ofNat 64 old)) (s.me.pc + 4) fun t => t.mem = u.mem := by
  obtain ⟨t, ht, hr⟩ : Does i s (markDirty u u.me.launch) (u.me.setG d (BitVec.ofNat 64 old)) (s.me.pc + 4) := by
    refine does_of_next (len := 4) he hg ?_ (Reeve.setG_vf ..)
    dsimp only
    rw [memPlace_quiet (imm := 0) hq ha]
    show (updateLoc s s.acx l 8 (op s) (f s) >>= _) = _
    rw [hu]
    rfl
  rw [hk.me] at hr
  exact ⟨t, ht, hk.retiresMem hr, hr.mem⟩

/-- An atomic whose request to a peer is outstanding waits. -/
theorem waits_atomic {rq : Option Req} (hu : updateLoc s s.acx l 8 (op s) (f s) = .error (.wait .memory rq))
    (hr : register s rq = s) : Waits i s .memory := by
  refine he.trans (congrArg Host.Outcome.next ((runReeve_asks hg (w := .memory) (rq := rq) ?_).trans (by rw [hr])))
  dsimp only
  rw [memPlace_quiet (imm := 0) hq ha]
  show (updateLoc s s.acx l 8 (op s) (f s) >>= _) = _
  rw [hu]
  rfl

end Place

section Memory
variable {pa : Nat}
  (ha : access s s.acx (s.me.kr kc) ((s.me.kr kc).offset + (s.me.gr a).toNat : Nat) 8 8 clAtomic rA = .ok (.phys pa))
  (hb : s.mem.badAt pa 8 = false)
include ha hb

/-- An atomic in memory that writes. -/
theorem ends_atomic_some {v : W64} (hf : f s (s.mem.word pa).toNat = some v.toNat) :
    Ends i s (s.me.setG d (s.mem.word pa)) (s.me.pc + 4) fun t => Wrote s.mem t.mem pa (leBytes 8 v.toNat) := by
  rw [Mem.word_toNat] at hf
  obtain ⟨u, hk, hw, hu⟩ := updateLoc_phys_some s.acx (op s) hb (by decide) hf
  exact (ends_atomic he hg hq ha hu hk).imp fun t ht => ht ▸ hw

/-- An atomic in memory that writes nothing. -/
theorem ends_atomic_none (hf : f s (s.mem.word pa).toNat = none) :
    Ends i s (s.me.setG d (s.mem.word pa)) (s.me.pc + 4) fun t => SameMem s.mem t.mem := by
  rw [Mem.word_toNat] at hf
  obtain ⟨u, hk, hu⟩ := updateLoc_phys_none s.acx (op s) hb hf
  exact (ends_atomic he hg hq ha hu hk.onlyMem).imp fun t ht => ht ▸ hk.sameMem

end Memory
end Atomic

theorem execAtom_eq (p : Guard) (d : GReg) (kc : KReg) (a b : GReg) (aop : BitVec 3) (s : State) :
    exec (.atom p d kc a b aop) s = atomic p d kc a (fun s => .atomic aop.toNat (s.me.gr b))
      (fun s old => some (atomOp aop.toNat old (s.me.gr b).toNat)) s := rfl

theorem execSwap_eq (p : Guard) (d : GReg) (kc : KReg) (a b : GReg) (s : State) : exec (.swap p d kc a b) s =
    atomic p d kc a (fun s => .atomic 8 (s.me.gr b)) (fun s _ => some (s.me.gr b).toNat) s := rfl

theorem execCas_eq (p : Guard) (d : GReg) (kc : KReg) (a b : GReg) (s : State) : exec (.cas p d kc a b) s =
    atomic p d kc a (fun s => .cas (s.me.gr d) (s.me.gr b))
      (fun s old => if old = (s.me.gr d).toNat then some (s.me.gr b).toNat else none) s := rfl

/-- Settles O15: an atomic in memory is `ends_atomic_some` or, for a CAS that fails, `ends_atomic_none`, and `atomOp_toNat`
says what ATOM writes; one on another package takes the peer's answer or waits for it. -/
theorem atomicInstructions : Obligations.AtomicInstructions := by
  refine ⟨fun s p d kc a b aop pa hg hq => ?_, fun s p d kc a b aop pa ea m hg hq => ?_⟩
  · intro k off ha hb old y result writes
    have hwrites {i : Instr} {v : W64} (h : Ends i s (s.me.setG d (s.mem.word pa)) (s.me.pc + 4) fun t =>
        Wrote s.mem t.mem pa (leBytes 8 v.toNat)) : writes i v :=
      h.imp fun t ht => by
        obtain ⟨hread, hothers⟩ := ht.number
        exact ⟨hread, hothers, ht.untagged, ht.empties⟩
    refine ⟨hwrites ?_, hwrites ?_, fun h => hwrites ?_, fun h => ?_⟩
    · exact ends_atomic_some (execAtom_eq ..) hg hq ha hb (congrArg some (atomOp_toNat aop (s.mem.word pa) (s.me.gr b)))
    · exact ends_atomic_some (execSwap_eq ..) hg hq ha hb rfl
    · exact ends_atomic_some (execCas_eq ..) hg hq ha hb (if_pos (congrArg BitVec.toNat h))
    · exact ends_atomic_none (execCas_eq ..) hg hq ha hb (if_neg fun e => h (BitVec.eq_of_toNat_eq e))
  · intro k off ha x hx
    obtain ⟨op, f, he, hop, hr⟩ : ∃ op f, exec x.1 s = atomic p d kc a op f s ∧ op s = x.2 ∧ ∀ c v, x.2 ≠ .reduce c v := by
      simp only [List.mem_cons, List.not_mem_nil, or_false] at hx
      rcases hx with rfl | rfl | rfl
      · exact ⟨_, _, execAtom_eq .., rfl, nofun⟩
      · exact ⟨_, _, execSwap_eq .., rfl, nofun⟩
      · exact ⟨_, _, execCas_eq .., rfl, nofun⟩
    have hu := updateLoc_peer (s := s) (x := s.acx) (pa := pa) (ea := ea) (n := 8) (m := m) (f := f s) hr
    rw [← hop] at hu ⊢
    refine ⟨fun g hf hd bs hans => ?_, fun hf hout => ?_⟩
    · rw [peerAnswer_done (x := s.acx) hf hd hans] at hu
      exact ends_atomic he hg hq ha hu rfl
    · rw [peerAnswer_none (x := s.acx) hf] at hu
      exact waits_atomic he hg hq ha hu (register_peer_again hout)

end Sys2Proof.Machine
end

section
/-! SUPPORT. O16: RED, whether it rests in the combining buffer or goes out at once, and FENCE (R165, R168, R170, R174, R255,
R256). -/

namespace Sys2Proof.Machine

/-! ### The operation of a RED (R255) -/

/-- Bytes of the operand. -/
def redWidth (aop : BitVec 3) : Nat := if aop = 6 ∨ aop = 7 then 4 else 8

theorem redSize_aop : ∀ aop : BitVec 3, redSize (aop.toNat + 1) = redWidth aop := by decide

theorem redWidth_cases : ∀ aop : BitVec 3, redWidth aop = 4 ∨ redWidth aop = 8 := by decide

/-- What a word or a half of a word becomes: ADD, MIN, MAX, AND, OR, XOR, FADD or FMAX of the old number and the operand. -/
def redValue (aop : BitVec 3) (y old : Nat) : Nat :=
  let oldI := (BitVec.ofNat 64 old).toInt
  let yI := (BitVec.ofNat 64 y).toInt
  (([(old + y) % 2 ^ 64, if oldI ≤ yI then old else y, if oldI ≤ yI then y else old, old &&& y, old ||| y,
    old ^^^ y, (roundFP32 (Machine.Num.add (unpackF fp32 old) (unpackF fp32 y))).toNat,
    (roundFP32 (numMax (unpackF fp32 old) (unpackF fp32 y))).toNat] : List Nat)[aop.toNat]?).getD 0

theorem aop_cases : ∀ aop : BitVec 3,
    aop = 0 ∨ aop = 1 ∨ aop = 2 ∨ aop = 3 ∨ aop = 4 ∨ aop = 5 ∨ aop = 6 ∨ aop = 7 := by decide

theorem reduceOp_aop {aop : BitVec 3} {y : Nat} (hy : y < 2 ^ (8 * redWidth aop)) (old : Nat) :
    reduceOp (aop.toNat + 1) old y = redValue aop y old := by
  have hle : sgn 64 old ≤ sgn 64 y ↔ (BitVec.ofNat 64 old).toInt ≤ (BitVec.ofNat 64 y).toInt := by
    rw [sgn_eq_toInt, sgn_eq_toInt]
  have hhalf (h : redWidth aop = 4) : y % 2 ^ 32 = y := Nat.mod_eq_of_lt (by rwa [h] at hy)
  rcases aop_cases aop with rfl | rfl | rfl | rfl | rfl | rfl | rfl | rfl
  · rfl
  · exact if_congr hle rfl rfl
  · exact if_congr hle rfl rfl
  · rfl
  · rfl
  · rfl
  · exact congrArg (fun y => (roundFP32 (Num.add (unpackF fp32 old) (unpackF fp32 y))).toNat) (hhalf rfl)
  · exact congrArg (fun y => (roundFP32 (numMax (unpackF fp32 old) (unpackF fp32 y))).toNat) (hhalf rfl)

/-- A 4-byte operation gives 4 bytes. -/
theorem reduceOp_half {op : Nat} (h : redSize op = 4) (x y : Nat) : reduceOp op x y < 2 ^ 32 := by
  have hop : op = 7 ∨ op = 8 := by
    by_contra hc
    rw [redSize, if_neg (by simpa using hc)] at h
    cases h
  rcases hop with rfl | rfl <;> exact BitVec.isLt _

/-- The low half of a word. -/
theorem low_half (g : W64) : g &&& 0xFFFFFFFF = BitVec.ofNat 64 (g.toNat % 2 ^ 32) := by
  apply BitVec.eq_of_toNat_eq
  have hg := g.isLt
  rw [BitVec.toNat_and, BitVec.toNat_ofNat]
  show g.toNat &&& (2 ^ 32 - 1) = _
  rw [Nat.and_two_pow_sub_one_eq_mod]
  omega

/-- The operand of a RED in its register. -/
theorem redOperand_eq {n : Nat} (h : n = 4 ∨ n = 8) (g : W64) :
    (if n = 4 then g &&& 0xFFFFFFFF else g) = BitVec.ofNat 64 (g.toNat % 2 ^ (8 * n)) := by
  rcases h with rfl | rfl
  · exact low_half g
  · rw [if_neg (by decide), Nat.mod_eq_of_lt g.isLt, BitVec.ofNat_toNat, BitVec.setWidth_eq]

/-! ### Entries of the combining buffer (R168) -/

section Join
variable {d c : Comb}

/-- The operand of an 8-byte entry after one more. -/
theorem Comb.join_word (h : redSize c.op = 8) :
    d.join c = { d with val := BitVec.ofNat 64 (reduceOp c.op d.val.toNat c.val.toNat) } := if_pos h

/-- The operand of a half after one more, where either may be absent. -/
def joinHalf (op x y : Nat) (a b : Bool) : Nat := if a && b then reduceOp op x y else if a then x else y

theorem joinHalf_lt {op x y : Nat} (h : redSize op = 4) (hx : x < 2 ^ 32) (hy : y < 2 ^ 32) (a b : Bool) :
    joinHalf op x y a b < 2 ^ 32 := by
  unfold joinHalf
  split
  · exact reduceOp_half h x y
  · split
    · exact hx
    · exact hy

theorem joinHalf_true (op x y : Nat) (a : Bool) : joinHalf op x y a true = if a then reduceOp op x y else y := by
  cases a <;> rfl

/-- The operands of the halves of a 4-byte entry after one more. -/
theorem Comb.join_halves (h : redSize c.op = 4) :
    (d.join c).lo = (d.lo || c.lo) ∧ (d.join c).hi = (d.hi || c.hi) ∧
    (d.join c).val.toNat % 2 ^ 32 = joinHalf c.op (d.val.toNat % 2 ^ 32) (c.val.toNat % 2 ^ 32) d.lo c.lo ∧
    (d.join c).val.toNat / 2 ^ 32 = joinHalf c.op (d.val.toNat / 2 ^ 32) (c.val.toNat / 2 ^ 32) d.hi c.hi := by
  have hd := d.val.isLt
  have hc := c.val.isLt
  have hlo (x : Nat) : natField x 0 32 = x % 2 ^ 32 := rfl
  have hhi {x : Nat} (hx : x < 2 ^ 64) : natField x 32 32 = x / 2 ^ 32 := by
    rw [natField, Nat.shiftRight_eq_div_pow]
    exact Nat.mod_eq_of_lt (by omega)
  have hl := joinHalf_lt h (Nat.mod_lt d.val.toNat (by decide)) (Nat.mod_lt c.val.toNat (by decide)) d.lo c.lo
  have hh := joinHalf_lt h (x := d.val.toNat / 2 ^ 32) (y := c.val.toNat / 2 ^ 32) (by omega) (by omega) d.hi c.hi
  have hj : d.join c = { d with
      lo := d.lo || c.lo
      hi := d.hi || c.hi
      val := BitVec.ofNat 64 (joinHalf c.op (d.val.toNat % 2 ^ 32) (c.val.toNat % 2 ^ 32) d.lo c.lo +
        joinHalf c.op (d.val.toNat / 2 ^ 32) (c.val.toNat / 2 ^ 32) d.hi c.hi * 2 ^ 32) } := by
    rw [← hlo, ← hlo, ← hhi hd, ← hhi hc, ← Nat.shiftLeft_eq]
    exact if_neg (by omega)
  rw [hj]
  refine ⟨rfl, rfl, ?_, ?_⟩
  all_goals
    rw [BitVec.toNat_ofNat]
    omega

end Join

/-- The entry that a RED brings: of its word, or of a half of it. -/
def redEntry (aop : BitVec 3) (y space a ea : Nat) (m : Bool) : Comb :=
  let low : Bool := redWidth aop = 8 ∨ a % 8 < 4
  { space := space, addr := a - a % 8, op := aop.toNat + 1, val := BitVec.ofNat 64 (if low then y else y * 2 ^ 32)
    lo := low, hi := redWidth aop = 8 ∨ 4 ≤ a % 8, ea := ea - a % 8, mapped := m }

theorem combOf_eq_redEntry {aop : BitVec 3} {y : Nat} (hy : y < 2 ^ (8 * redWidth aop)) (space a ea : Nat) (m : Bool) :
    Comb.of space a ea m (aop.toNat + 1) (BitVec.ofNat 64 y) = redEntry aop y space a ea m := by
  unfold Comb.of redEntry
  dsimp only
  rw [redSize_aop]
  rcases redWidth_cases aop with h | h
  · rw [h] at hy ⊢
    by_cases hk : a % 8 < 4
    · have hv : BitVec.ofNat 64 y &&& 0xFFFFFFFF = BitVec.ofNat 64 y := by
        rw [low_half, BitVec.toNat_ofNat, Nat.mod_eq_of_lt (by omega), Nat.mod_eq_of_lt (by omega)]
      rw [hv]
      simp [hk]
    · have hv : BitVec.ofNat 64 y <<< 32 = BitVec.ofNat 64 (y * 2 ^ 32) := by
        apply BitVec.eq_of_toNat_eq
        rw [BitVec.toNat_shiftLeft, BitVec.toNat_ofNat, BitVec.toNat_ofNat, Nat.shiftLeft_eq]
        omega
      rw [hv]
      simp [hk, Nat.not_lt.mp hk]
  · simp [h]

/-! ### A flush, and an entry that comes to rest (R168) -/

theorem flushComb_none {s : State} {h : Nat} {f : Comb → Bool} (hf : (s.reeve h).comb.any f = false) :
    flushComb s h f = .ok s := if_pos (by rw [hf]; rfl)

theorem Sends.reeves {s t : State} (h : Sends s t) : t.reeves = s.reeves := by
  obtain ⟨_, _, _, _, _, _, _, _, _, rfl⟩ := h
  rfl

/-- A flush of the acting reeve's entries leaves its pc. -/
theorem flushComb_pc {s u : State} {f : Comb → Bool} (e : flushComb s s.cur f = .ok u) : u.me.pc = s.me.pc := by
  have hcur := flushComb_cur (.inl e)
  unfold flushComb at e
  extract_lets r at e
  split at e
  · cases e
    rfl
  · have hk := State.reeve_of_reeves (sends_flushList s s.cur f r.comb).reeves
    dsimp only at e
    split at e
    · cases e
    · cases e
      rw [State.me, hcur, State.reeve_setReeve, if_pos rfl]
      have hpc := congrArg Reeve.pc (congrFun hk s.cur)
      exact hpc

/-- Whether an entry stands for the word of another. -/
def Comb.sameWord (c d : Comb) : Bool := d.space == c.space && d.addr == c.addr

/-- Whether an entry can take another: it stands for its word, under its operation. -/
def Comb.takes (c d : Comb) : Bool := c.sameWord d && d.op == c.op

theorem any_takes {c : Comb} {l : List Comb} (h : l.any c.sameWord = false) : l.any c.takes = false := by
  rw [List.any_eq_false] at h ⊢
  exact fun d hd ht => h d hd (Bool.and_eq_true_iff.mp ht).1

section Rest
variable {s u : State} {c : Comb}

/-- A RED joins the entry of its word and operation. -/
theorem restComb_joins {d : Comb} (hd : s.me.comb.find? c.takes = some d) : restComb s s.cur c =
    .ok (s.setReeve s.cur { s.me with comb := s.me.comb.map fun x => if c.takes x then d.join c else x }) := by
  unfold restComb
  dsimp only
  rw [show (s.reeve s.cur).comb.find? (fun d => d.space == c.space && d.addr == c.addr && d.op == c.op) = some d from hd]
  rfl

/-- A full buffer evicts its oldest entry. -/
def evictOldest (s : State) (h : Nat) : Except Stop State :=
  match (s.reeve h).comb with
  | d :: _ => if (s.reeve h).comb.length ≥ 64 then flushComb s h (· == d) else .ok s
  | [] => .ok s

theorem evictOldest_room {h : Nat} (hl : (s.reeve h).comb.length < 64) : evictOldest s h = .ok s := by
  unfold evictOldest
  split
  · exact if_neg (Nat.not_le.mpr hl)
  · rfl

theorem evictOldest_full {h : Nat} {d : Comb} {rest : List Comb} (hc : (s.reeve h).comb = d :: rest)
    (hl : 64 ≤ (s.reeve h).comb.length) : evictOldest s h = flushComb s h (· == d) := by
  unfold evictOldest
  rw [hc] at hl ⊢
  exact if_pos hl

/-- A RED without an entry to join is a new entry: those of its word under other operations are evicted, and the oldest of a
full buffer. -/
theorem restComb_new {v : State} (hm : s.me.comb.any c.takes = false) (hf : flushComb s s.cur c.sameWord = .ok u)
    (hv : evictOldest u s.cur = .ok v) (hcur : v.cur = s.cur) :
    restComb s s.cur c = .ok (v.setReeve v.cur { v.me with comb := v.me.comb ++ [c] }) := by
  have hn : (s.reeve s.cur).comb.find? (fun d => d.space == c.space && d.addr == c.addr && d.op == c.op) = none :=
    List.find?_eq_none.mpr (List.any_eq_false.mp hm)
  rw [State.me, hcur]
  unfold restComb
  dsimp only
  rw [hn]
  show (flushComb s s.cur c.sameWord >>= _) = _
  rw [hf]
  simp only [bind, Except.bind]
  unfold evictOldest at hv
  cases hc : (u.reeve s.cur).comb with
  | nil =>
    rw [hc] at hv
    cases hv
    rw [hc]
  | cons d l =>
    rw [hc] at hv
    dsimp only at hv ⊢
    split at hv
    next hl => rw [if_pos hl, hv]
    next hl =>
      cases hv
      rw [if_neg hl, hc]

end Rest

/-! ### An update on its way (R170) -/

/-- A reeve's update of a word in memory (R255). -/
theorem applyUpd_reeveUpd {s : State} {h op a : Nat} (v : W64) (hb : s.mem.badAt a (redSize op) = false) :
    let t := applyUpd s a (reeveUpd s h op v) [(reeveUpd s h op v).src]
    OnlyMem s t ∧
      Wrote s.mem t.mem a (leBytes (redSize op) (reduceOp op (leNat (s.mem.read a (redSize op))) v.toNat)) := by
  obtain ⟨u, hu, hl⟩ := loadPhys_good (s.reeve h).vf hb
  have hn : redSize op ≠ 0 := by
    unfold redSize
    split <;> decide
  have ht : applyUpd s a (reeveUpd s h op v) [(reeveUpd s h op v).src] = storePhys u (s.reeve h).vf a
      (leBytes (redSize op) (reduceOp op (leNat (s.mem.read a (redSize op))) v.toNat)) := by
    unfold applyUpd
    rw [show loadPhys s (reeveUpd s h op v).vf a (reeveUpd s h op v).n = _ from hl]
    show storePhys u _ a (leBytes _ (reduceOpN (redSize op) op _ _)) false = _
    rw [reduceOpN, if_pos rfl]
    rfl
  rw [ht]
  exact wrote_storePhys hu _ a (by rwa [length_leBytes])

theorem sendUpd_memory {s : State} {a : Nat} (x : Upd) (hg : isGranary a = false) :
    sendUpd s (.phys a) x = .ok (applyUpd s a x [x.src]) := if_neg (by rw [hg]; decide)

/-- The window of the granary slice that an address lies in. -/
def windowAt (s : State) (a : Nat) : List SUpd := mgetD s.windows (a % 2 ^ 48 / 2 ^ 27) []

section Window
variable {s : State} {a : Nat} {x : Upd} (hg : isGranary a = true) (ht : x.tok = none)
include hg ht

theorem sendUpd_granary : sendUpd s (.phys a) x = if windowTakes (windowAt s a) s.nextId then
    .ok { s with
      nextId := s.nextId + 1
      windows := mset s.windows (a % 2 ^ 48 / 2 ^ 27) (windowAt s a ++ [
        { srcs := [x.src], tok := s.nextId, ordered := x.ordered, addr := a, n := x.n, op := x.op, val := x.val
          round := x.round, idx := x.idx, full := true, ctx := x.ctx, vf := x.vf, launch := x.launch }]) }
    else await .memory := by
  have hslice : natField a 0 48 >>> 27 = a % 2 ^ 48 / 2 ^ 27 := Nat.shiftRight_eq_div_pow ..
  unfold sendUpd
  dsimp only
  rw [if_pos hg, ht, hslice]
  show (if (!windowTakes (windowAt s a) s.nextId) = true then _ else _) = _
  cases windowTakes (windowAt s a) s.nextId <;> rfl

end Window

/-! ### The instruction (R255) -/

theorem runReeve_congr {len : Nat} {p : Guard} {f g : State → Except Stop (State × Flow)} {s : State} (h : f s = g s) :
    runReeve len p f s = runReeve len p g s := by
  unfold runReeve
  rw [h]

/-- The operand of a RED. -/
def redOperand (s : State) (b : GReg) (aop : BitVec 3) : Nat := (s.me.gr b).toNat % 2 ^ (8 * redWidth aop)

theorem redOperand_lt (s : State) (b : GReg) (aop : BitVec 3) : redOperand s b aop < 2 ^ (8 * redWidth aop) :=
  Nat.mod_lt _ (Nat.two_pow_pos _)

theorem redOperand_toNat (s : State) (b : GReg) (aop : BitVec 3) :
    (BitVec.ofNat 64 (redOperand s b aop)).toNat = redOperand s b aop :=
  Nat.mod_eq_of_lt ((Nat.mod_le ..).trans_lt (s.me.gr b).isLt)

/-- The update of a RED that goes out once the entries of its word have made `u` of the state. -/
def redUpd (s u : State) (b : GReg) (aop : BitVec 3) : Upd :=
  reeveUpd u u.cur (aop.toNat + 1) (BitVec.ofNat 64 (redOperand s b aop))

theorem applyUpd_redUpd {s u : State} {b : GReg} {aop : BitVec 3} {a : Nat} (hb : u.mem.badAt a (redWidth aop) = false) :
    let t := applyUpd u a (redUpd s u b aop) [(redUpd s u b aop).src]
    OnlyMem u t ∧ Wrote u.mem t.mem a
      (leBytes (redWidth aop) (redValue aop (redOperand s b aop) (leNat (u.mem.read a (redWidth aop))))) := by
  have h := applyUpd_reeveUpd (h := u.cur) (BitVec.ofNat 64 (redOperand s b aop)) ((redSize_aop aop).symm ▸ hb)
  rwa [redOperand_toNat, reduceOp_aop (redOperand_lt s b aop), redSize_aop] at h

/-- A RED goes out at once, after the entries of its word. -/
def redNow (s : State) (b : GReg) (aop : BitVec 3) (l : Loc) : Except Stop State := do
  let u ← flushComb s s.cur (·.under l (redWidth aop))
  sendUpd u l (redUpd s u b aop)

/-- What a RED does at its place: FADD and space 1 go out at once, the rest rest (R168, log 25). -/
def redDo (s : State) (kc : KReg) (a b : GReg) (aop : BitVec 3) (l : Loc) : Except Stop State :=
  let k := s.me.kr kc
  let c (space pa ea : Nat) (m : Bool) : Comb :=
    .of space pa ea m (aop.toNat + 1) (BitVec.ofNat 64 (redOperand s b aop))
  if aop = 6 ∨ k.space = 1 then redNow s b aop l
  else match l with
    | .phys pa => restComb s s.cur (c 0 pa (k.base * 256 + (k.offset + (s.me.gr a).toNat)) (k.space == 0))
    | .peer pa ea m => restComb s s.cur (c 5 pa ea m)
    | l => redNow s b aop l

/-- The end of a RED: a replay would not repeat it (R386). -/
def redEnd (s : State) : Except Stop (State × Flow) := .ok (markDirty s s.me.launch, .next)

/-- The instruction makes `u` of the state, and retires with `l` in the acting reeve's buffer. -/
def KeepsComb (i : Instr) (s u : State) (l : List Comb) : Prop :=
  ∃ t, exec i s = .next t ∧ RetiresMem u t { u.me with comb := l } (u.me.pc + 4) ∧ t.mem = u.mem

section Red
variable {s : State} {p : Guard} {kc : KReg} {a b : GReg} {aop : BitVec 3} {l : Loc} (hg : s.me.guard p = true)
  (ha : access s s.acx (s.me.kr kc) ((s.me.kr kc).offset + (s.me.gr a).toNat : Nat) (redWidth aop) (redWidth aop) clReduce rA =
    .ok l)
include ha

theorem execRed_at :
    exec (.red p kc a b aop) s = .next (runReeve 4 p (fun _ => redDo s kc a b aop l >>= redEnd) s) := by
  have ha' : access s s.acx (s.me.kr kc) (effOff (s.me.kr kc) (s.me.gr a) 0) (redWidth aop) (redWidth aop) clReduce rA =
    .ok l := ha
  have hop : (decide (aop.toNat + 1 = 7) || decide ((s.me.kr kc).space = 1)) = true ↔ aop = 6 ∨ (s.me.kr kc).space = 1 := by
    rw [Bool.or_eq_true, decide_eq_true_eq, decide_eq_true_eq]
    exact or_congr_left ⟨fun h => BitVec.eq_of_toNat_eq (Nat.succ.inj h), fun h => h ▸ rfl⟩
  refine congrArg Host.Outcome.next (runReeve_congr ?_)
  dsimp only
  rw [redSize_aop, redOperand_eq (redWidth_cases aop), ha']
  show (if _ then _ else _) = _
  unfold redDo
  by_cases h : aop = 6 ∨ (s.me.kr kc).space = 1
  · rw [if_pos (hop.mpr h), if_pos h]
    rfl
  · rw [if_neg (mt hop.mp h), if_neg h]
    cases l <;> rfl

include hg

theorem execRed_ok {w : State} (hw : redDo s kc a b aop l = .ok w) :
    exec (.red p kc a b aop) s = .next (retire (markDirty w w.me.launch) (s.me.pc + 4)) := by
  refine (execRed_at ha).trans (congrArg Host.Outcome.next (runReeve_next hg ?_))
  rw [hw]
  rfl

omit hg in
theorem execRed_error {e : Stop} (hw : redDo s kc a b aop l = .error e) :
    exec (.red p kc a b aop) s = .next (runReeve 4 p (fun _ => .error e) s) := by
  refine (execRed_at ha).trans (congrArg Host.Outcome.next (runReeve_congr ?_))
  rw [hw]
  rfl

/-- A RED that changes the acting reeve's buffer alone. -/
theorem execRed_keeps {v : State} {l' : List Comb} (hpc : v.me.pc = s.me.pc)
    (hw : redDo s kc a b aop l = .ok (v.setReeve v.cur { v.me with comb := l' })) :
    KeepsComb (.red p kc a b aop) s v l' := by
  have he := execRed_ok hg ha hw
  rw [State.me_setReeve, ← hpc] at he
  have hr := retire_retires (markDirty v v.me.launch) { v.me with comb := l' } (v.me.pc + 4) rfl
  exact ⟨_, he, OnlyMem.retiresMem rfl hr, hr.mem⟩

/-- A RED that changes no register. -/
theorem execRed_gives {w : State} (hw : redDo s kc a b aop l = .ok w) :
    ∃ t, exec (.red p kc a b aop) s = .next t ∧ Retires (markDirty w w.me.launch) t w.me (s.me.pc + 4) :=
  ⟨_, execRed_ok hg ha hw, retire_retires_self (markDirty w w.me.launch) _⟩

end Red

/-! ### A RED that goes out at once (R168, R170) -/

section Now
variable {s u : State} {p : Guard} {kc : KReg} {a b : GReg} {aop : BitVec 3} {l : Loc}
  (hnow : aop = 6 ∨ (s.me.kr kc).space = 1)
include hnow

theorem redDo_redNow : redDo s kc a b aop l = redNow s b aop l := if_pos hnow

theorem redDo_sendUpd (hf : flushComb s s.cur (·.under l (redWidth aop)) = .ok u) :
    redDo s kc a b aop l = sendUpd u l (redUpd s u b aop) := by
  rw [redDo_redNow hnow, redNow, hf]
  rfl

variable (hg : s.me.guard p = true)
  (ha : access s s.acx (s.me.kr kc) ((s.me.kr kc).offset + (s.me.gr a).toNat : Nat) (redWidth aop) (redWidth aop) clReduce rA =
    .ok l)
include hg ha

/-- A RED waits while a flush of its word's entries does. -/
theorem execRed_flush_waits (hf : flushComb s s.cur (·.under l (redWidth aop)) = .error (.keep u .memory)) :
    exec (.red p kc a b aop) s = .next (u.updMe fun r => { r with wait := some .memory }) := by
  refine (execRed_error ha (e := .keep u .memory) ?_).trans (congrArg Host.Outcome.next (runReeve_keep hg rfl))
  rw [redDo_redNow hnow, redNow, hf]
  rfl

variable (hf : flushComb s s.cur (·.under l (redWidth aop)) = .ok u)
include hf

/-- A RED whose update goes out. -/
theorem execRed_sends {w : State} (hw : sendUpd u l (redUpd s u b aop) = .ok w) :
    ∃ t, exec (.red p kc a b aop) s = .next t ∧ Retires (markDirty w w.me.launch) t w.me (u.me.pc + 4) := by
  have h := execRed_gives (b := b) hg ha ((redDo_sendUpd hnow hf).trans hw)
  rwa [← flushComb_pc hf] at h

theorem execRed_peer {pa ea : Nat} {m : Bool} (hl : l = .peer pa ea m) : ∃ t, exec (.red p kc a b aop) s = .next t ∧
    t.me = { u.me with pc := u.me.pc + 4, wait := none, issued := none } ∧ t.mem = u.mem ∧
    t.peerOut = u.peerOut ++ [
      { id := u.nextId, who := .reeve s.cur, port := pa / 2 ^ 41 % 48, addr := pa
        op := .reduce (aop.toNat + 1) (BitVec.ofNat 64 (redOperand s b aop)), wants := false, ctx := u.me.ctx
        vf := u.me.vf, ea := ea, mapped := m, part := false }] := by
  have hcur := flushComb_cur (.inl hf)
  subst hl
  obtain ⟨t, ht, hr⟩ := execRed_sends (b := b) hnow hg ha hf rfl
  refine ⟨t, ht, hr.me, hr.mem, ?_⟩
  have hp := congrArg State.peerOut hr.rest
  rw [← hcur, ← Nat.shiftRight_eq_div_pow]
  exact hp

section Memory
variable {pa : Nat} (hl : l = .phys pa)
include hl

theorem execRed_memory (hgr : isGranary pa = false) (hb : u.mem.badAt pa (redWidth aop) = false) :
    ∃ t, exec (.red p kc a b aop) s = .next t ∧ RetiresMem u t u.me (u.me.pc + 4) ∧
      Wrote u.mem t.mem pa (leBytes (redWidth aop)
        (redValue aop (redOperand s b aop) (leNat (u.mem.read pa (redWidth aop))))) := by
  subst hl
  obtain ⟨t, ht, hr⟩ := execRed_sends (b := b) hnow hg ha hf (sendUpd_memory _ hgr)
  obtain ⟨hk, hw⟩ := applyUpd_redUpd (s := s) (b := b) hb
  rw [hk.me] at hr
  exact ⟨t, ht, hk.retiresMem hr, hr.mem ▸ hw⟩

variable (hgr : isGranary pa = true)
include hgr

theorem execRed_window (hw : windowTakes (windowAt u pa) u.nextId = true) : ∃ t, exec (.red p kc a b aop) s = .next t ∧
    t.me = { u.me with pc := u.me.pc + 4, wait := none, issued := none } ∧ t.mem = u.mem ∧
    t.windows = mset u.windows (pa % 2 ^ 48 / 2 ^ 27) (windowAt u pa ++ [
      { srcs := [.reeve s.cur], tok := u.nextId, ordered := false, addr := pa, n := redWidth aop, op := aop.toNat + 1
        val := BitVec.ofNat 64 (redOperand s b aop), round := 0, idx := 0, full := true, ctx := u.me.ctx, vf := u.me.vf
        launch := u.me.launch }]) := by
  have hcur := flushComb_cur (.inl hf)
  subst hl
  obtain ⟨t, ht, hr⟩ := execRed_sends (b := b) hnow hg ha hf ((sendUpd_granary hgr rfl).trans (if_pos hw))
  refine ⟨t, ht, hr.me, hr.mem, ?_⟩
  have hp := congrArg State.windows hr.rest
  rw [← hcur, ← redSize_aop]
  exact hp

theorem execRed_window_full (hw : windowTakes (windowAt u pa) u.nextId = false) :
    Waits (.red p kc a b aop) s .memory := by
  subst hl
  refine (execRed_error ha (e := .wait .memory none) ?_).trans (congrArg Host.Outcome.next (runReeve_wait hg rfl))
  rw [redDo_sendUpd hnow hf, sendUpd_granary hgr rfl, if_neg (by rw [hw]; decide)]
  rfl

end Memory
end Now

/-! ### A RED that rests (R168) -/

/-- The ways in which an entry comes to rest in the buffer of the acting reeve. -/
structure Rests (i : Instr) (s : State) (c : Comb) : Prop where
  room : s.me.comb.any c.sameWord = false → s.me.comb.length < 64 → KeepsComb i s s (s.me.comb ++ [c])
  joins : ∀ d, s.me.comb.find? c.takes = some d →
    KeepsComb i s s (s.me.comb.map fun x => if c.takes x then d.join c else x)
  evicts : s.me.comb.any c.takes = false → ∀ u, flushComb s s.cur c.sameWord = .ok u → u.me.comb.length < 64 →
    KeepsComb i s u (u.me.comb ++ [c])
  full : ∀ d rest u, s.me.comb = d :: rest → s.me.comb.any c.sameWord = false → 64 ≤ s.me.comb.length →
    flushComb s s.cur (· == d) = .ok u → KeepsComb i s u (u.me.comb ++ [c])

theorem rests_of_restComb {i : Instr} {s : State} {c : Comb} (h : ∀ (v : State) (l : List Comb), v.me.pc = s.me.pc →
    restComb s s.cur c = .ok (v.setReeve v.cur { v.me with comb := l }) → KeepsComb i s v l) : Rests i s c where
  room hw hl := h s _ rfl (restComb_new (any_takes hw) (flushComb_none hw) (evictOldest_room hl) rfl)
  joins _ hd := h s _ rfl (restComb_joins hd)
  evicts hm u hf hl := by
    have hcur := flushComb_cur (.inl hf)
    exact h u _ (flushComb_pc hf) (restComb_new hm hf (evictOldest_room (by rwa [State.me, hcur] at hl)) hcur)
  full d rest u hc hw hl hf :=
    h u _ (flushComb_pc hf) (restComb_new (any_takes hw) (flushComb_none hw) ((evictOldest_full hc hl).trans hf)
      (flushComb_cur (.inl hf)))

section Joined
variable {aop : BitVec 3} {y : Nat} (hy : y < 2 ^ (8 * redWidth aop)) (space a ea : Nat) (m : Bool) (d : Comb)
include hy

/-- The operand of an entry after one more of 8 bytes. -/
theorem join_redEntry_word (h : redWidth aop = 8) : d.join (redEntry aop y space a ea m) =
    { d with val := BitVec.ofNat 64 (redValue aop y d.val.toNat) } := by
  have hv : (redEntry aop y space a ea m).val.toNat = y := by
    rw [h] at hy
    simp only [redEntry, h, true_or, decide_true, if_true, BitVec.toNat_ofNat]
    exact Nat.mod_eq_of_lt hy
  rw [Comb.join_word (by rw [← h]; exact redSize_aop aop), hv]
  exact congrArg (fun n => { d with val := BitVec.ofNat 64 n }) (reduceOp_aop hy _)

/-- The operands of the halves of an entry after one more of 4 bytes. -/
theorem join_redEntry_halves (h : redWidth aop = 4) :
    let c := redEntry aop y space a ea m
    (d.join c).lo = (d.lo || c.lo) ∧ (d.join c).hi = (d.hi || c.hi) ∧
    (c.lo = true → (d.join c).val.toNat % 2 ^ 32 = if d.lo then redValue aop y (d.val.toNat % 2 ^ 32) else y) ∧
    (c.hi = true → (d.join c).val.toNat / 2 ^ 32 = if d.hi then redValue aop y (d.val.toNat / 2 ^ 32) else y) := by
  intro c
  obtain ⟨hjl, hjh, hl, hh⟩ := Comb.join_halves (d := d) (c := c) (by rw [← h]; exact redSize_aop aop)
  have hy' : y < 2 ^ 32 := by rwa [h] at hy
  refine ⟨hjl, hjh, fun hlo => ?_, fun hhi => ?_⟩
  · have hv : c.val.toNat % 2 ^ 32 = y := by
      rw [show c.val = BitVec.ofNat 64 (if c.lo then y else y * 2 ^ 32) from rfl, hlo, if_pos rfl, BitVec.toNat_ofNat]
      omega
    rw [hl, hlo, hv, joinHalf_true, show c.op = aop.toNat + 1 from rfl, reduceOp_aop hy]
  · have hlo : c.lo = false := by
      have : redWidth aop = 8 ∨ 4 ≤ a % 8 := of_decide_eq_true hhi
      exact decide_eq_false (by omega)
    have hv : c.val.toNat / 2 ^ 32 = y := by
      rw [show c.val = BitVec.ofNat 64 (if c.lo then y else y * 2 ^ 32) from rfl, hlo, if_neg (by decide), BitVec.toNat_ofNat]
      omega
    rw [hh, hhi, hv, joinHalf_true, show c.op = aop.toNat + 1 from rfl, reduceOp_aop hy]

end Joined

/-! ### FENCE (R165, R174, R256) -/

theorem releaseComb_quiet {s : State} (hq : Quiet s) : releaseComb s s.cur = .ok s := by
  obtain ⟨hc, hw⟩ := hq
  have hc : (s.reeve s.cur).comb = [] := hc
  unfold releaseComb
  rw [flushComb_none (by rw [hc]; rfl)]
  exact if_neg (by rw [hw]; decide)

/-- The wait of a FENCE for the accesses to other packages. -/
def fenceFar (s : State) (scope : BitVec 3) : Except Stop (State × Flow) :=
  if scope.toNat < 6 then .ok (s, .next)
  else if s.peerOut.any (·.who == .reeve s.cur) then .error (.keep s .memory)
  else if s.lost.contains (.reeve s.cur) then
    .error (.trapIn { s with lost := s.lost.filter (· != .reeve s.cur) } { code := .link, sub := 3 })
  else .ok (s, .next)

theorem runReeve_trapIn {len : Nat} {p : Guard} {f : State → Except Stop (State × Flow)} {s t : State} {e : Trap}
    (h : s.me.guard p = true) (hf : f s = .error (.trapIn t e)) :
    runReeve len p f s = trapEntry e (release t (.reeve t.cur)) := by
  simp [runReeve, h, hf]

theorem Reeve.enterTrap_superv (r : Reeve) (f : Trap) : (r.enterTrap f).superv = true := by
  simp [Reeve.superv, Reeve.enterTrap]

section Fence
variable {s : State} (p : Guard) (sets : BitVec 4) {scope : BitVec 3} (hq : Quiet s)
include hq

/-- Once its reductions have been performed, a FENCE waits for other packages alone. -/
theorem execFence_quiet : exec (.fence p sets scope) s = .next (runReeve 4 p (fun s => fenceFar s scope) s) := by
  refine congrArg Host.Outcome.next (runReeve_congr ?_)
  dsimp only
  cases sets == 0 || sets.getLsbD 1 with
  | true =>
    show (releaseComb s s.cur >>= _) = _
    rw [releaseComb_quiet hq]
    rfl
  | false => rfl

variable {p} (hg : s.me.guard p = true)
include hg

theorem gives_fence (h : ¬ 6 ≤ scope.toNat ∨
    ((s.peerOut.any (·.who == .reeve s.cur)) = false ∧ s.lost.contains (.reeve s.cur) = false)) :
    Gives (.fence p sets scope) s s.me (s.me.pc + 4) := by
  refine does_of_next_self (len := 4) (execFence_quiet p sets hq) hg ?_
  unfold fenceFar
  rcases h with h | ⟨ho, hl⟩
  · exact if_pos (Nat.lt_of_not_le h)
  · rw [ho, hl]
    simp

theorem waits_fence (hf : 6 ≤ scope.toNat) (ho : (s.peerOut.any (·.who == .reeve s.cur)) = true) :
    Waits (.fence p sets scope) s .memory := by
  refine (execFence_quiet p sets hq).trans (congrArg Host.Outcome.next (runReeve_keep hg ?_))
  unfold fenceFar
  rw [if_neg (Nat.not_lt.mpr hf), if_pos ho]

/-- The state in which a FENCE raises LINK: the lost access is noted no more. -/
theorem execFence_lost (hf : 6 ≤ scope.toNat) (ho : (s.peerOut.any (·.who == .reeve s.cur)) = false)
    (hl : s.lost.contains (.reeve s.cur) = true) : exec (.fence p sets scope) s = .next (trapEntry { code := .link, sub := 3 }
      (release { s with lost := s.lost.filter (· != .reeve s.cur) } (.reeve s.cur))) := by
  refine (execFence_quiet p sets hq).trans (congrArg Host.Outcome.next (runReeve_trapIn hg ?_))
  unfold fenceFar
  rw [if_neg (Nat.not_lt.mpr hf), if_neg (by rw [ho]; decide), if_pos hl]

/-- The fault that a FENCE raises at U level for an access that was not acknowledged (R256). -/
theorem fence_lost (hf : 6 ≤ scope.toNat) (ho : (s.peerOut.any (·.who == .reeve s.cur)) = false)
    (hl : s.lost.contains (.reeve s.cur) = true) (hu : s.me.superv = false) : ∃ t, exec (.fence p sets scope) s = .next t ∧
      t.me.ecause = 0x31D ∧ t.me.eaddr = 0 ∧ t.me.epc = s.me.pc ∧ t.me.pc = s.me.tvec ∧ t.me.superv = true ∧
      t.me.g = s.me.g ∧ t.mem = s.mem ∧ t.lost.contains (.reeve s.cur) = false := by
  refine ⟨_, execFence_lost sets hq hg hf ho hl, ?_⟩
  obtain ⟨t, ⟨ls, es, rfl⟩, ht⟩ := trapEntry_user
    (release { s with lost := s.lost.filter (· != .reeve s.cur) } (.reeve s.cur)) { code := .link, sub := 3 } hu
  have hme := trapEntry_user_me (s := release { s with lost := s.lost.filter (· != .reeve s.cur) } (.reeve s.cur))
    { code := .link, sub := 3 } hu
  rw [hme, ht]
  refine ⟨rfl, rfl, rfl, rfl, Reeve.enterTrap_superv .., rfl, rfl, ?_⟩
  show (s.lost.filter (· != .reeve s.cur)).contains (.reeve s.cur) = false
  simp

end Fence

/-- Settles O16: a RED that rests is `rests_of_restComb`, and `join_redEntry_word` and `join_redEntry_halves` say what it
joins to; one that goes out, and FENCE, case by case. -/
theorem reductionsAndFences : Obligations.ReductionsAndFences := by
  refine ⟨fun s p kc a b aop pa hg => ?_, fun s p sets scope hg hq =>
    ⟨gives_fence sets hq hg, waits_fence sets hq hg, fence_lost sets hq hg⟩⟩
  intro i k off n y low high new entry keeps rests l
  have hy := redOperand_lt s b aop
  have hrests {l' : Loc} {space ea : Nat} {m : Bool} (ha : l = .ok l') (hl : redDo s kc a b aop l' =
      restComb s s.cur (.of space pa ea m (aop.toNat + 1) (BitVec.ofNat 64 (redOperand s b aop)))) :
      rests (entry space ea m) := by
    rw [combOf_eq_redEntry hy] at hl
    obtain ⟨room, joins, evicts, full⟩ : Rests i s (redEntry aop (redOperand s b aop) space pa ea m) :=
      rests_of_restComb fun v l hpc hr => execRed_keeps hg ha hpc (hl.trans hr)
    refine ⟨room, joins, fun _ => evicts, full, fun d => ⟨join_redEntry_word hy space pa ea m d, fun h => ?_⟩⟩
    exact join_redEntry_halves hy space pa ea m d h
  refine ⟨fun ha h6 h1 => hrests ha (if_neg (not_or.mpr ⟨h6, h1⟩)),
    fun ea m ha h6 h1 => hrests ha (if_neg (not_or.mpr ⟨h6, h1⟩)),
    fun ha hnow u hf => ⟨fun hgr hb => ?_, fun hgr =>
      ⟨execRed_window hnow hg ha hf rfl hgr, execRed_window_full hnow hg ha hf rfl hgr⟩⟩,
    fun ea m ha h6 u hf => ?_, fun u under hun ha hnow hf => execRed_flush_waits hnow hg ha (hun ▸ hf)⟩
  · obtain ⟨t, ht, hr, hw⟩ := execRed_memory (b := b) hnow hg ha hf rfl hgr hb
    exact ⟨t, ht, hr, hw.number⟩
  · subst h6
    exact execRed_peer (.inl rfl) hg ha hf rfl

end Sys2Proof.Machine
end
